-- ==== Sys2Proof/Word.lean ====
section
/-!
DEFINITION. The word types of the IFX3260 and the one container the state uses for sparse arrays.
A register image is a natural number below 2^(8·bytes) (R4: little-endian, bit 0 is the least significant bit);
what software computes with (a strand's general registers) is a bit vector.
-/
namespace Sys2Proof

/-- A 32-bit word: a strand register, a data-memory word (R151). -/
abbrev Word := BitVec 32

/-- A byte of SRAM, of a trace message or of a frame. -/
abbrev Byte := BitVec 8

/-- A sparse array kept as a list of (index, value) pairs: indices strictly rising, no entry equal to the value an
unlisted index reads as. Equal arrays are then equal lists. -/
abbrev Tab (α : Type) := List (Nat × α)

end Sys2Proof
end

