-- ==== Sys2Proof/Syntax/BlockTypes.lean ====
section
/-!
DEFINITION. What sensors, decode units, the transceiver and a Celec program hand the part with a command.
-/
namespace Sys2Proof

/-- A host port (SEAT_ID.PATH): PCIe, the legacy bus, SPI. -/
inductive HostPath where
  | pcie | lb | spi
deriving DecidableEq, Repr

/-- A Seat reached through a host path. -/
structure HostWho where
  seat : BitVec 4
  path : HostPath
deriving DecidableEq, Repr

/-- A configuration field that the chapter gives a value (R14, the PCI Express table). -/
inductive PcieId where
  | vendor | device | revision | classCode | subsysVendor | subsysId | serialNumber | vfDevice | totalVfs | initialVfs | vfOffset | vfStride
deriving DecidableEq, Repr

/-- What a PCIe request asks of its function: memory inside the Seat BAR, a configuration read of a field of the table, or a configuration
write of the bits that the chapter names (R14, R108, R110, R114, R124). -/
inductive PcieKind where
  | read
  | write
  | configRead (f : PcieId)
  /-- Memory Space Enable and Bus Master Enable. -/
  | command (mse bme : Bool)
  /-- MSI-X Enable and Function Mask. -/
  | msix (enable mask : Bool)
  /-- VF Enable, of the physical function. -/
  | vfEnable (on : Bool)
  /-- AER: a read of the uncorrectable error status, a write of ones to clear bits of it (R113). -/
  | aerRead
  | aerWrite (clr : BitVec 32)
deriving DecidableEq, Repr

/-- A PCIe request to a function (R112). -/
structure PcieReq where
  fn : BitVec 4
  kind : PcieKind
  poisoned : Bool
  /-- DW-aligned offset in BAR0; byte enables of the first and of the last DW. -/
  off : BitVec 24
  firstBe : BitVec 4
  lastBe : BitVec 4
  /-- The DWs of a write; the number of DWs of a read. -/
  data : List (BitVec 32)
  count : BitVec 5
deriving DecidableEq, Repr

/-- An access of the legacy bus: LB_A[23:1] and the data (R115, R117). -/
inductive LbAccess where
  | read (a : BitVec 23)
  | write (a : BitVec 23) (d : BitVec 16)
  /-- Style 0 with both strobes low. -/
  | bothStrobes
deriving DecidableEq, Repr

/-- How an SPI frame is malformed (R120). -/
inductive SpiBad where
  | none | unknownCommand | cutInHeader | cutInWord
deriving DecidableEq, Repr

/-- A timing input (R27). -/
inductive TimingSel where
  | fsync | mfsync | pps
deriving DecidableEq, Repr

/-- A backplane lane or a mate lane, by physical number. -/
inductive LaneSel where
  | bl (l : BitVec 5)
  | ml (m : BitVec 2)
deriving DecidableEq, Repr

/-- A protection object by physical number: an MSP group, a high-order or a low-order selector (R270). -/
inductive ProtObj where
  | msp (p : BitVec 4)
  | ho (n : BitVec 11)
  | lo (n : BitVec 13)
deriving DecidableEq, Repr

/-- A pin that the collector reads back (R482). -/
inductive Emitter where
  | lantern (l : BitVec 3)
  | txEn
deriving DecidableEq, Repr

/-- The sync byte of an HS burst (R351). -/
inductive SotRx where
  | ok | corrected | bad
deriving DecidableEq, Repr

/-- The ECC check of a packet header (R356). -/
inductive EccRx where
  | ok | corrected | bad | extension
deriving DecidableEq, Repr

/-- A CSI-2 packet after its header (R356 to R358): data identifier, word count or short-packet data, payload and its CRC-16. -/
structure CsiPacket where
  sot : SotRx
  ecc : EccRx
  vc : BitVec 2
  dt : BitVec 6
  data : BitVec 16
  payload : List Byte
  crc : BitVec 16
deriving DecidableEq, Repr

/-- A decoded symbol (R394, R395, R398). -/
structure SymbolRx where
  symbology : BitVec 3
  sflags : BitVec 4
  x : BitVec 12
  y : BitVec 12
  angle : BitVec 16
  module : BitVec 16
  quality : BitVec 7
  extra : Byte
  data : List Byte
deriving DecidableEq, Repr

/-- The source of a received radio frame. -/
inductive RadioSrc where
  | none
  | short (a : BitVec 16)
  | ext (a : BitVec 64)
deriving DecidableEq, Repr

/-- The destination of a received radio frame. -/
inductive RadioDst where
  | none
  | short (a : BitVec 16)
  | ext (a : BitVec 64)
deriving DecidableEq, Repr

/-- What a received frame is. -/
inductive RadioKind where
  | beacon | data | ack | command | other
deriving DecidableEq, Repr

/-- A received PSDU as READ_RX gives it, taken apart by the header rules of IEEE 802.15.4 (R426). -/
structure RadioRx where
  fcsOk : Bool
  version : BitVec 2
  kind : RadioKind
  /-- Addressing modes and PAN compression are valid for the version. -/
  addrOk : Bool
  dstPan : BitVec 16
  dst : RadioDst
  src : RadioSrc
  ackReq : Bool
  secured : Bool
  level : BitVec 3
  keyMode : BitVec 2
  keyIndex : BitVec 8
  counter : BitVec 32
  seq : Byte
  /-- A Data Request command. -/
  dataRequest : Bool
  /-- The authenticated header bytes, the MAC payload as received, the MIC. -/
  header : List Byte
  payload : List Byte
  mic : List Byte
  rssi : Byte
  lqi : Byte
  /-- Length of the PSDU in bytes. -/
  length : BitVec 7
deriving DecidableEq, Repr

/-- The fields of a Celec instruction of form A (section "Instruction formats", R159). -/
structure FormA where
  op : BitVec 6
  rd : BitVec 4
  ra : BitVec 4
  rb : BitVec 4
  fn : BitVec 6
  aux : BitVec 8
deriving DecidableEq, Repr

/-- The fields of a Celec instruction of form I (R159). -/
structure FormI where
  op : BitVec 6
  rd : BitVec 4
  ra : BitVec 4
  sub : BitVec 2
  /-- The 16-bit immediate. -/
  imm : BitVec 16
deriving DecidableEq, Repr

/-- The fields of a Celec instruction of form B (R159). -/
structure FormB where
  op : BitVec 6
  cond : BitVec 4
  off : BitVec 22
deriving DecidableEq, Repr

end Sys2Proof
end

