-- ==== Sys2Proof/Syntax/LineTypes.lean ====
section
/-!
DEFINITION. What the line side hands the part with a command: a received line frame, a received GFP frame.
-/
namespace Sys2Proof

/-- A byte position of the frame grid (R252): 8 data bits, and in bit 8 the start marker of J1 or V5. -/
abbrev Cell := BitVec 9

/-- The 810 positions of one slot of a received frame, as its pointer processor places them in the grid (R226, R252). -/
structure SlotRx where
  slot : BitVec 8
  cells : List Cell
deriving DecidableEq, Repr

/-- The positions of one TU of a received frame, V byte first, by its index 84·group + place (R225, R252). -/
structure TribRx where
  index : BitVec 13
  cells : List Cell
deriving DecidableEq, Repr

/-- One AU pointer word of a received frame (R224). -/
structure AuRx where
  slot : BitVec 8
  /-- H1 in bits 15-8, H2 in bits 7-0. -/
  word : BitVec 16
  /-- Signal label 0x00 (R226). -/
  uneq : Bool
deriving DecidableEq, Repr

/-- One TU pointer word completed by this frame (R224, R225). -/
structure TuRx where
  index : BitVec 13
  word : BitVec 16
  uneq : Bool
deriving DecidableEq, Repr

/-- One received line frame, as far as the part looks at it (R215, R219, R224, R225). -/
structure LineRx where
  /-- Bit positions, modulo the frame length, at which the 48-bit pattern stands, in the order met. -/
  patterns : List Nat
  /-- The signal has shown transitions throughout; the clock recovery is locked (R216). -/
  transitions : Bool
  cdrLock : Bool
  /-- Errored bits of B1 and B2. -/
  b1 : Nat
  b2 : Nat
  k1 : Byte
  k2 : Byte
  s1 : Byte
  m1 : Byte
  j0 : Byte
  e1 : Byte
  f1 : Byte
  e2 : Byte
  /-- D1-D3 and D4-D12. -/
  dccS : List Byte
  dccL : List Byte
  aus : List AuRx
  tus : List TuRx
  /-- H4 bits 7-8 by carrier slot. -/
  h4 : List (BitVec 8 × BitVec 2)
  slots : List SlotRx
  tribs : List TribRx
  /-- Frames or pointers of an unsupported option met in it (R12). -/
  unsup : Nat
deriving DecidableEq, Repr

/-- What an elastic store did since the previous transmitted frame, or multiframe (R228): slot, or 1000 and the TU index; adjustment units
gained. -/
structure TxStore where
  index : BitVec 14
  units : Int
deriving DecidableEq, Repr

/-- How a received cHEC checks (R232). -/
inductive Hec where
  | ok | corrected | bad
deriving DecidableEq, Repr

/-- One received GFP frame (R232). -/
structure GfpRx where
  chec : Hec
  /-- The received path signal label C2. -/
  c2 : Byte
  idle : Bool
  thecOk : Bool
  exi : BitVec 4
  pti : BitVec 3
  pfi : Bool
  upi : Byte
  fcsOk : Bool
  payload : List Byte
deriving DecidableEq, Repr

end Sys2Proof
end

