-- ==== Sys2Proof/Syntax/MateTypes.lean ====
section
/-!
DEFINITION. Messages of the mate link (R311) and frames of the Dunte link (R328 to R331) as the part meets them.
-/
namespace Sys2Proof

/-- A HEARTBEAT. `ok` says that its CRC is correct and that every reserved bit and coded field passes R543. -/
structure Heartbeat where
  ok : Bool
  rein : BitVec 3
  sync : BitVec 2
  countOk : Bool
  feedA : Bool
  feedB : Bool
  vstb : Bool
  takeBlock : Bool
  pri : BitVec 4
  frame : BitVec 48
  rev : BitVec 8
  term : BitVec 32
  leaseEnd : BitVec 32
  seq : BitVec 32
  serial : BitVec 64
deriving DecidableEq, Repr

/-- A DELTA without its SNAP flag's meaning resolved. `space` is one of 1 to 8 in a valid message (R543). -/
structure MateDelta where
  space : BitVec 8
  delete : Bool
  snap : Bool
  more : Bool
  addr : BitVec 32
  ledgerSeq : BitVec 32
  data : List Byte
deriving DecidableEq, Repr

/-- An EPOCH_OPEN. -/
structure EpochOpen where
  seq : BitVec 32
  startFrame : BitVec 48
  term : BitVec 32
deriving DecidableEq, Repr

/-- An EPOCH_TRAILER. -/
structure EpochTrailer where
  overflow : Bool
  final : Bool
  seq : BitVec 32
  nDelta : BitVec 32
  bodyBytes : BitVec 32
  bodyCrc : BitVec 32
  ledgerFirst : BitVec 32
  ledgerCount : BitVec 32
deriving DecidableEq, Repr

/-- A RELEASE: KIND 0 immediate, 1 orderly, 2 offer-back. -/
structure ReleaseMsg where
  kind : BitVec 8
  finalSeq : BitVec 32
  takeCycle : BitVec 32
  term : BitVec 32
  pendingDeltas : BitVec 32
deriving DecidableEq, Repr

/-- The first 15 bytes of a Dunte frame (R328), with the check of H14 as a Boolean. -/
structure DunteHeader where
  hcrcOk : Bool
  gen : BitVec 2
  lane : BitVec 6
  frame : BitVec 48
  long : Bool
  rxok : Bool
  run : Bool
  countOk : Bool
  mate : Bool
  markRx : BitVec 16
  markTx : BitVec 16
deriving DecidableEq, Repr

/-- One slot of a received Dunte frame: SAW, SRQ, H1/H2, its 810 positions with the start marker that H1/H2 give (R331). -/
structure DunteSlot where
  slot : BitVec 8
  saw : Byte
  srq : Byte
  ptr : BitVec 16
  cells : List Cell
deriving DecidableEq, Repr

/-- One received Dunte frame (R333 to R341). -/
structure DunteRx where
  /-- Positions, modulo the frame length that the candidate's LONG gives, of frame marks with a valid HCRC. -/
  marks : List Nat
  /-- H0 to H14 (R328). -/
  header : List Byte
  /-- Arrival phase of the frame mark, in local phase units. -/
  arrival : BitVec 16
  /-- Code violations, whether the FCRC is correct, SBIP errored bits over all slots. -/
  cv : Nat
  fcrcOk : Bool
  sbip : Nat
  slots : List DunteSlot
  /-- Its TUs, by 84·(group of pair slots) + place. -/
  tribs : List TribRx
  /-- On a mate lane, the bytes of the message area (R330); those after the last given are zero. -/
  area : List Byte
deriving DecidableEq, Repr

end Sys2Proof
end

