-- ==== Sys2Proof/Syntax.lean ====
section
/-!
DEFINITION. The commands the block takes: one constructor per row of spec/opcode_table.json, in its order. `who` is the Seat and host
path of a register write, `n` a physical strand, `off` a Seat-window offset, `v` the value written; line ports, lanes, cameras, lanterns
and channels of an event are physical numbers, those of a register write (`k`, `c`, `p`, `i` after `who`) are the Seat's own.
-/
namespace Sys2Proof

/-- A command (one row of the table). The comment of each constructor is its row. -/
inductive Instr where
  /-- HOST_REGISTER_WRITE (R508). -/
  | hostRegisterWrite (who : HostWho) (off : BitVec 24) (v : BitVec 32)
  /-- SNAPSHOT_READ (R105). -/
  | snapshotRead (who : HostWho) (off : BitVec 24)
  /-- HOST_MEMORY_WRITE (R197). -/
  | hostMemoryWrite (who : HostWho) (off : BitVec 24) (be : BitVec 4) (v : BitVec 32)
  /-- PCIE_REQUEST (R112). -/
  | pcieRequest (r : PcieReq)
  /-- PCIE_LINK_UP (R111). -/
  | pcieLinkUp (lanes : BitVec 2) (rate : BitVec 2)
  /-- PCIE_LINK_DOWN (R113). -/
  | pcieLinkDown
  /-- PERST_N (R86). -/
  | perstN (high : Bool)
  /-- FLR (R114). -/
  | flr (fn : BitVec 4)
  /-- FLR_COMPLETE (R114). -/
  | flrComplete (fn : BitVec 4)
  /-- LEGACY_BUS_ACCESS (R117). -/
  | legacyBusAccess (a : LbAccess)
  /-- SPI_WRITE (R119). -/
  | spiWrite (addr : BitVec 24) (words : List (BitVec 32)) (bad : SpiBad)
  /-- SPI_READ (R119). -/
  | spiRead (addr : BitVec 24) (n : BitVec 8) (late : Option (BitVec 8)) (bad : SpiBad)
  /-- I2C_WRITE (R122). -/
  | i2cWrite (bytes : List Byte)
  /-- I2C_READ (R122). -/
  | i2cRead (n : BitVec 9)
  /-- HOST_BIND_WRITE (R124). -/
  | hostBindWrite (who : HostWho) (v : BitVec 32)
  /-- HOST_BIND_APPLY (R124). -/
  | hostBindApply
  /-- HOST_ERR_CLR (R107). -/
  | hostErrClr (who : HostWho) (v : BitVec 32)
  /-- TIMING_INPUT_EDGE (R27). -/
  | timingInputEdge (i : TimingSel) (phase : BitVec 15)
  /-- TIMING_INPUT_MISS (R27). -/
  | timingInputMiss (i : TimingSel)
  /-- REFCLK_LOSS (R36). -/
  | refclkLoss
  /-- REFCLK_RETURN (R36). -/
  | refclkReturn
  /-- FRAME_BOUNDARY (R19). -/
  | frameBoundary
  /-- LT_FRAME_LOAD_WRITE (R39). -/
  | ltFrameLoadWrite (who : HostWho) (v : BitVec 64)
  /-- CLR_EVENTS (R30). -/
  | clrEvents (who : HostWho) (v : BitVec 32)
  /-- CALENDAR_ADD (R43). -/
  | calendarAdd (who : HostWho) (v : BitVec 32)
  /-- CALENDAR_REMOVE (R45). -/
  | calendarRemove (who : HostWho) (v : BitVec 32)
  /-- CALENDAR_ISSUE (R44). -/
  | calendarIssue (idx : BitVec 10)
  /-- COMMIT_GO (R47). -/
  | commitGo (who : HostWho) (v : BitVec 32)
  /-- COMMIT_CANCEL (R52). -/
  | commitCancel (who : HostWho) (v : BitVec 32)
  /-- DOMAIN_WAKE_DONE (R81). -/
  | domainWakeDone (d : BitVec 7)
  /-- DOMAIN_WAKE_TIMEOUT (R467). -/
  | domainWakeTimeout (d : BitVec 7)
  /-- DOMAIN_GATE (R82). -/
  | domainGate (d : BitVec 7)
  /-- PWR_GOOD_RISE (R65). -/
  | pwrGoodRise (bootHold txMute lbMode : Bool) (i2cAddr : BitVec 2)
  /-- SAFE_ENTRY (R79). -/
  | safeEntry
  /-- START_RECORD (R139). -/
  | startRecord
  /-- FRAMED_ENTRY (R71). -/
  | framedEntry
  /-- STAGE_TIMEOUT (R71). -/
  | stageTimeout
  /-- RELEASE (R70). -/
  | release (who : HostWho) (v : BitVec 32)
  /-- ADVANCE (R72). -/
  | advance (who : HostWho) (v : BitVec 32)
  /-- RAIL_DETECT (R61). -/
  | railDetect
  /-- PWR_GOOD_FALL (R67). -/
  | pwrGoodFall
  /-- POWER_LOSS (R68). -/
  | powerLoss
  /-- VSTB_CHANGE (R77). -/
  | vstbChange (a b : Bool)
  /-- RESET_N_ASSERT (R84). -/
  | resetNAssert
  /-- WARM_RESET_ARM (R85). -/
  | warmResetArm (who : HostWho) (v : BitVec 32)
  /-- WARM_RESET_FIRE (R85). -/
  | warmResetFire (who : HostWho) (v : BitVec 32)
  /-- WARM_RESET_DISARM (R85). -/
  | warmResetDisarm
  /-- TAP_RESET (R84). -/
  | tapReset
  /-- SEAL_COMPLETE (R136). -/
  | sealComplete
  /-- GAP_APPEND (R141). -/
  | gapAppend
  /-- LEDGER_KEY_WRITE (R137). -/
  | ledgerKeyWrite (who : HostWho) (w : BitVec 3) (v : BitVec 32)
  /-- LEDGER_KEY_TIMEOUT (R137). -/
  | ledgerKeyTimeout
  /-- SPILL_BATCH_START (R146). -/
  | spillBatchStart
  /-- SPILL_FLUSH_COMPLETE (R146). -/
  | spillFlushComplete
  /-- SPILL_FLUSH_FAIL (R147): whether the flush read was answered with UR or CA; else it timed out. -/
  | spillFlushFail (urCa : Bool := false)
  /-- SPILL_RETRY (R147). -/
  | spillRetry
  /-- LEDGER_SPILL_CONS_WRITE (R148). -/
  | ledgerSpillConsWrite (who : HostWho) (v : BitVec 32)
  /-- LEDGER_SPILL_CTL_WRITE (R148). -/
  | ledgerSpillCtlWrite (who : HostWho) (v : BitVec 32)
  /-- ADD (R162). -/
  | add (n : BitVec 6) (f : FormA)
  /-- ADC (R162). -/
  | adc (n : BitVec 6) (f : FormA)
  /-- SUB (R162). -/
  | sub (n : BitVec 6) (f : FormA)
  /-- SBC (R162). -/
  | sbc (n : BitVec 6) (f : FormA)
  /-- AND (R162). -/
  | and (n : BitVec 6) (f : FormA)
  /-- OR (R162). -/
  | or (n : BitVec 6) (f : FormA)
  /-- XOR (R162). -/
  | xor (n : BitVec 6) (f : FormA)
  /-- ANDN (R162). -/
  | andn (n : BitVec 6) (f : FormA)
  /-- SHL (R162). -/
  | shl (n : BitVec 6) (f : FormA)
  /-- SHR (R162). -/
  | shr (n : BitVec 6) (f : FormA)
  /-- SAR (R162). -/
  | sar (n : BitVec 6) (f : FormA)
  /-- ROR (R162). -/
  | ror (n : BitVec 6) (f : FormA)
  /-- MUL (R162). -/
  | mul (n : BitVec 6) (f : FormA)
  /-- MULHU (R162). -/
  | mulhu (n : BitVec 6) (f : FormA)
  /-- MULHS (R162). -/
  | mulhs (n : BitVec 6) (f : FormA)
  /-- DIVU (R162). -/
  | divu (n : BitVec 6) (f : FormA)
  /-- REMU (R162). -/
  | remu (n : BitVec 6) (f : FormA)
  /-- DIVS (R162). -/
  | divs (n : BitVec 6) (f : FormA)
  /-- REMS (R162). -/
  | rems (n : BitVec 6) (f : FormA)
  /-- MINS (R162). -/
  | mins (n : BitVec 6) (f : FormA)
  /-- MAXS (R162). -/
  | maxs (n : BitVec 6) (f : FormA)
  /-- MINU (R162). -/
  | minu (n : BitVec 6) (f : FormA)
  /-- MAXU (R162). -/
  | maxu (n : BitVec 6) (f : FormA)
  /-- CLZ (R162). -/
  | clz (n : BitVec 6) (f : FormA)
  /-- POPC (R162). -/
  | popc (n : BitVec 6) (f : FormA)
  /-- BSWAP (R162). -/
  | bswap (n : BitVec 6) (f : FormA)
  /-- CMP (R162). -/
  | cmp (n : BitVec 6) (f : FormA)
  /-- TST (R162). -/
  | tst (n : BitVec 6) (f : FormA)
  /-- CSEL (R162). -/
  | csel (n : BitVec 6) (f : FormA)
  /-- ADDI (R163). -/
  | addi (n : BitVec 6) (f : FormI)
  /-- CMPI (R163). -/
  | cmpi (n : BitVec 6) (f : FormI)
  /-- ANDI (R163). -/
  | andi (n : BitVec 6) (f : FormI)
  /-- ORI (R163). -/
  | ori (n : BitVec 6) (f : FormI)
  /-- XORI (R163). -/
  | xori (n : BitVec 6) (f : FormI)
  /-- SHLI (R163). -/
  | shli (n : BitVec 6) (f : FormI)
  /-- SHRI (R163). -/
  | shri (n : BitVec 6) (f : FormI)
  /-- SARI (R163). -/
  | sari (n : BitVec 6) (f : FormI)
  /-- RORI (R163). -/
  | rori (n : BitVec 6) (f : FormI)
  /-- LUI (R163). -/
  | lui (n : BitVec 6) (f : FormI)
  /-- LD_W (R164). -/
  | ldW (n : BitVec 6) (f : FormI)
  /-- LD_HU (R164). -/
  | ldHu (n : BitVec 6) (f : FormI)
  /-- LD_BU (R164). -/
  | ldBu (n : BitVec 6) (f : FormI)
  /-- LDS_H (R164). -/
  | ldsH (n : BitVec 6) (f : FormI)
  /-- LDS_B (R164). -/
  | ldsB (n : BitVec 6) (f : FormI)
  /-- ST_W (R164). -/
  | stW (n : BitVec 6) (f : FormI)
  /-- ST_H (R164). -/
  | stH (n : BitVec 6) (f : FormI)
  /-- ST_B (R164). -/
  | stB (n : BitVec 6) (f : FormI)
  /-- LDX_W (R164). -/
  | ldxW (n : BitVec 6) (f : FormI)
  /-- LDX_HU (R164). -/
  | ldxHu (n : BitVec 6) (f : FormI)
  /-- LDX_BU (R164). -/
  | ldxBu (n : BitVec 6) (f : FormI)
  /-- STX_W (R164). -/
  | stxW (n : BitVec 6) (f : FormI)
  /-- STX_H (R164). -/
  | stxH (n : BitVec 6) (f : FormI)
  /-- STX_B (R164). -/
  | stxB (n : BitVec 6) (f : FormI)
  /-- OLD (R164). -/
  | old (n : BitVec 6) (f : FormI)
  /-- OST (R165). -/
  | ost (n : BitVec 6) (f : FormA)
  /-- RLD (R167). -/
  | rld (n : BitVec 6) (f : FormI)
  /-- RST (R167). -/
  | rst (n : BitVec 6) (f : FormA)
  /-- AADD (R166). -/
  | aadd (n : BitVec 6) (f : FormA)
  /-- AAND (R166). -/
  | aand (n : BitVec 6) (f : FormA)
  /-- AOR (R166). -/
  | aor (n : BitVec 6) (f : FormA)
  /-- AXOR (R166). -/
  | axor (n : BitVec 6) (f : FormA)
  /-- ASWP (R166). -/
  | aswp (n : BitVec 6) (f : FormA)
  /-- AMINU (R166). -/
  | aminu (n : BitVec 6) (f : FormA)
  /-- AMAXU (R166). -/
  | amaxu (n : BitVec 6) (f : FormA)
  /-- CAS (R166). -/
  | cas (n : BitVec 6) (f : FormA)
  /-- BLKMOV (R171). -/
  | blkmov (n : BitVec 6) (f : FormA) (stopAfter : Option Nat)
  /-- CSETN (R172). -/
  | csetn (n : BitVec 6) (f : FormA) (stopAfter : Option Nat)
  /-- TIME_SLICE_END (R191). -/
  | timeSliceEnd (n : BitVec 6)
  /-- CWR (R177). -/
  | cwr (n : BitVec 6) (f : FormA)
  /-- CRD (R177). -/
  | crd (n : BitVec 6) (f : FormA)
  /-- CDEL (R177). -/
  | cdel (n : BitVec 6) (f : FormA)
  /-- CSTATE (R177). -/
  | cstate (n : BitVec 6) (f : FormA)
  /-- PXATT (R288). -/
  | pxatt (n : BitVec 6) (f : FormA)
  /-- PXDET (R288). -/
  | pxdet (n : BitVec 6) (f : FormA)
  /-- PREQ (R284). -/
  | preq (n : BitVec 6) (f : FormA)
  /-- CMT_GO (R178). -/
  | cmtGo (n : BitVec 6) (f : FormA)
  /-- CMT_CANCEL (R178). -/
  | cmtCancel (n : BitVec 6) (f : FormA)
  /-- SJOB (R384). -/
  | sjob (n : BitVec 6) (f : FormA)
  /-- SCANCEL (R390). -/
  | scancel (n : BitVec 6) (f : FormA)
  /-- RTX (R433). -/
  | rtx (n : BitVec 6) (f : FormA)
  /-- RRX (R436). -/
  | rrx (n : BitVec 6) (f : FormA)
  /-- DSTART (R201). -/
  | dstart (n : BitVec 6) (f : FormA)
  /-- DSTAT (R207). -/
  | dstat (n : BitVec 6) (f : FormA)
  /-- DSTOP (R202). -/
  | dstop (n : BitVec 6) (f : FormA)
  /-- WLT (R174). -/
  | wlt (n : BitVec 6) (f : FormA)
  /-- WLT_WAKE (R174). -/
  | wltWake (n : BitVec 6)
  /-- WBND (R174). -/
  | wbnd (n : BitVec 6) (f : FormA)
  /-- WEV (R175). -/
  | wev (n : BitVec 6) (f : FormA)
  /-- WEV_TIMEOUT (R175). -/
  | wevTimeout (n : BitVec 6)
  /-- SIG (R175). -/
  | sig (n : BitVec 6) (f : FormA)
  /-- CLREV (R174). -/
  | clrev (n : BitVec 6) (f : FormA)
  /-- HEV (R174). -/
  | hev (n : BitVec 6) (f : FormA)
  /-- YIELD (R174). -/
  | yield (n : BitVec 6) (f : FormA)
  /-- STOP (R184). -/
  | stop (n : BitVec 6) (f : FormA)
  /-- SPAWN (R185). -/
  | spawn (n : BitVec 6) (f : FormA)
  /-- TRAP (R182). -/
  | trap (n : BitVec 6) (f : FormA)
  /-- FENCE (R158). -/
  | fence (n : BitVec 6) (f : FormA)
  /-- MFS (R180). -/
  | mfs (n : BitVec 6) (f : FormA)
  /-- MTS (R180). -/
  | mts (n : BitVec 6) (f : FormA)
  /-- GETF (R180). -/
  | getf (n : BitVec 6) (f : FormA)
  /-- SETF (R180). -/
  | setf (n : BitVec 6) (f : FormA)
  /-- B_COND (R181). -/
  | bCond (n : BitVec 6) (f : FormB)
  /-- BL_COND (R181). -/
  | blCond (n : BitVec 6) (f : FormB)
  /-- JR (R181). -/
  | jr (n : BitVec 6) (f : FormA)
  /-- JLR (R181). -/
  | jlr (n : BitVec 6) (f : FormA)
  /-- STALL_END (R173). -/
  | stallEnd (n : BitVec 6)
  /-- ST_CTL_WRITE (R189). -/
  | stCtlWrite (who : HostWho) (k : BitVec 6) (v : BitVec 32)
  /-- ST_START (R195). -/
  | stStart (who : HostWho) (k : BitVec 6) (v : BitVec 32)
  /-- ST_RETRY (R195). -/
  | stRetry (who : HostWho) (k : BitVec 6) (v : BitVec 32)
  /-- ST_SKIP (R195). -/
  | stSkip (who : HostWho) (k : BitVec 6) (v : BitVec 32)
  /-- ST_ABORT (R188). -/
  | stAbort (who : HostWho) (k : BitVec 6) (v : BitVec 32)
  /-- ST_CTX_WRITE (R194). -/
  | stCtxWrite (who : HostWho) (k : BitVec 6) (off : BitVec 8) (v : BitVec 32)
  /-- ST_EVENT_SET (R175). -/
  | stEventSet (who : HostWho) (high : Bool) (v : BitVec 32)
  /-- DMA_START (R201). -/
  | dmaStart (who : HostWho) (c : BitVec 5) (v : BitVec 32)
  /-- DMA_STOP (R202). -/
  | dmaStop (who : HostWho) (c : BitVec 5) (v : BitVec 32)
  /-- DMA_BURST_GRANT (R204). -/
  | dmaBurstGrant (m : BitVec 2)
  /-- DMA_BURST_COMPLETE (R203). -/
  | dmaBurstComplete (m : BitVec 2) (hostData : List Byte)
  /-- DMA_HOST_COMPLETION_FAULT (R205): whether the host read timed out; else it was answered with UR or CA. -/
  | dmaHostCompletionFault (m : BitVec 2) (timeout : Bool := true)
  /-- LINE_FRAME_RECEIVE (R215). -/
  | lineFrameReceive (p : BitVec 4) (r : LineRx)
  /-- LOS_DECLARE (R216). -/
  | losDeclare (p : BitVec 4)
  /-- SD_WINDOW_END (R223). -/
  | sdWindowEnd (p : BitVec 4) (exc : Bool)
  /-- LINE_FRAME_TRANSMIT (R214). -/
  | lineFrameTransmit (p : BitVec 4) (g : List TxStore)
  /-- PTR_BEYOND_CLEAR (R229). -/
  | ptrBeyondClear (p : BitVec 4)
  /-- LINE_TXMON_FAIL (R236). -/
  | lineTxmonFail (p : BitVec 4)
  /-- LINE_TXMON_CLEAR (R236). -/
  | lineTxmonClear (p : BitVec 4)
  /-- GFP_FRAME_RECEIVE (R232). -/
  | gfpFrameReceive (c : BitVec 3) (r : GfpRx)
  /-- GFP_FRAME_TRANSMIT (R231). -/
  | gfpFrameTransmit (c : BitVec 3)
  /-- LP_CNT_CLR (R499). -/
  | lpCntClr (who : HostWho) (p : BitVec 4) (v : BitVec 32)
  /-- CONN_ENTRY_WRITE (R243). -/
  | connEntryWrite (who : HostWho) (addr : BitVec 24) (v : BitVec 64)
  /-- TILE_LOAD_COMPLETE (R260). -/
  | tileLoadComplete (lo : Bool)
  /-- TILE_COMPARE_MISMATCH (R263). -/
  | tileCompareMismatch (lo : Bool)
  /-- TILE_BIST_PASS_END (R264). -/
  | tileBistPassEnd (lo : Bool) (t : BitVec 5) (fail : Bool)
  /-- TILE_DATAPATH_FAULT (R265). -/
  | tileDatapathFault (lo : Bool) (t : BitVec 5)
  /-- RETEST (R267). -/
  | retest (who : HostWho) (v : BitVec 32)
  /-- SWAP_SUSPECT (R267). -/
  | swapSuspect (who : HostWho) (v : BitVec 32)
  /-- STEP_NOW (R267). -/
  | stepNow (who : HostWho) (v : BitVec 32)
  /-- ROT_EN_WRITE (R260). -/
  | rotEnWrite (who : HostWho) (v : BitVec 32)
  /-- CLEAR (R284). -/
  | clear (who : HostWho) (a : BitVec 24)
  /-- LOCKOUT (R284). -/
  | lockout (who : HostWho) (a : BitVec 24)
  /-- FORCE_P (R284). -/
  | forceP (who : HostWho) (a : BitVec 24)
  /-- FORCE_W (R284). -/
  | forceW (who : HostWho) (a : BitVec 24)
  /-- MANUAL_P (R284). -/
  | manualP (who : HostWho) (a : BitVec 24)
  /-- MANUAL_W (R284). -/
  | manualW (who : HostWho) (a : BitVec 24)
  /-- EXERCISE (R282). -/
  | exercise (who : HostWho) (a : BitVec 24)
  /-- EXERCISE_END (R282). -/
  | exerciseEnd (p : BitVec 4)
  /-- COND_SF_W (R284). -/
  | condSfW (who : HostWho) (a : BitVec 24)
  /-- COND_SD_W (R284). -/
  | condSdW (who : HostWho) (a : BitVec 24)
  /-- COND_CLR_W (R284). -/
  | condClrW (who : HostWho) (a : BitVec 24)
  /-- COND_SF_P (R284). -/
  | condSfP (who : HostWho) (a : BitVec 24)
  /-- COND_SD_P (R284). -/
  | condSdP (who : HostWho) (a : BitVec 24)
  /-- COND_CLR_P (R284). -/
  | condClrP (who : HostWho) (a : BitVec 24)
  /-- HOLDOFF_EXPIRY (R275). -/
  | holdoffExpiry (o : ProtObj) (k : BitVec 2)
  /-- WTR_EXPIRY (R281). -/
  | wtrExpiry (o : ProtObj)
  /-- FOP_DECLARE (R280). -/
  | fopDeclare (p : BitVec 4)
  /-- PX_ATTACH (R288). -/
  | pxAttach (who : HostWho) (v : BitVec 32)
  /-- PX_DETACH (R288). -/
  | pxDetach (who : HostWho) (v : BitVec 32)
  /-- OVERRIDE_SET (R291). -/
  | overrideSet (who : HostWho) (v : BitVec 32)
  /-- OVERRIDE_CLEAR (R291). -/
  | overrideClear (who : HostWho) (v : BitVec 32)
  /-- MATE_PULSE_EDGE (R298). -/
  | matePulseEdge
  /-- PULSE_PATH_SILENT (R298). -/
  | pulsePathSilent
  /-- HEARTBEAT_RECEIVE (R299). -/
  | heartbeatReceive (h : Heartbeat) (phase : BitVec 15)
  /-- MSG_PATH_SILENT (R299). -/
  | msgPathSilent
  /-- LISTEN_WINDOW_END (R305). -/
  | listenWindowEnd
  /-- LEASE_EXPIRY_TAKE (R305). -/
  | leaseExpiryTake
  /-- RELEASE_RECEIVE (R305). -/
  | releaseReceive (m : ReleaseMsg) (ok : Bool)
  /-- RELEASE_TIMEOUT (R305). -/
  | releaseTimeout
  /-- MATE_RELEASE (R308). -/
  | mateRelease (who : HostWho) (v : BitVec 32)
  /-- MATE_TAKE (R305). -/
  | mateTake (who : HostWho) (v : BitVec 32)
  /-- MATE_RESYNC (R305). -/
  | mateResync (who : HostWho) (v : BitVec 32)
  /-- MATE_EN_WRITE (R310). -/
  | mateEnWrite (who : HostWho) (v : BitVec 32)
  /-- DELTA_QUEUE_ROOM (R312). -/
  | deltaQueueRoom
  /-- EPOCH_OPEN_RECEIVE (R315). -/
  | epochOpenReceive (m : EpochOpen) (ok : Bool)
  /-- DELTA_RECEIVE (R315). -/
  | deltaReceive (d : MateDelta) (ok : Bool)
  /-- EPOCH_TRAILER_RECEIVE (R315). -/
  | epochTrailerReceive (t : EpochTrailer) (ok : Bool)
  /-- SNAP_REQ_RECEIVE (R316). -/
  | snapReqReceive (lastSeq : BitVec 32) (ok : Bool)
  /-- SNAP_BEGIN_RECEIVE (R316). -/
  | snapBeginReceive (base chunks : BitVec 32) (ok : Bool)
  /-- SNAP_END_RECEIVE (R316). -/
  | snapEndReceive (chunks crc : BitVec 32) (ok : Bool)
  /-- SNAPSHOT_TIMEOUT (R316). -/
  | snapshotTimeout
  /-- DUNTE_FRAME_RECEIVE (R333). -/
  | dunteFrameReceive (l : LaneSel) (r : DunteRx)
  /-- DUNTE_FRAME_TRANSMIT (R332). -/
  | dunteFrameTransmit (l : LaneSel)
  /-- TRAIN_TIMEOUT (R336). -/
  | trainTimeout (l : LaneSel)
  /-- DUNTE_LOS (R337). -/
  | dunteLos (l : LaneSel)
  /-- LANE_WINDOW_END (R342). -/
  | laneWindowEnd (l : LaneSel)
  /-- LANE_TXMON_FAIL (R345). -/
  | laneTxmonFail (l : LaneSel)
  /-- CR_CFG_WRITE (R350). -/
  | crCfgWrite (who : HostWho) (r : BitVec 1) (v : BitVec 32)
  /-- DESKEW_BURST (R351). -/
  | deskewBurst (r : BitVec 1)
  /-- CSI2_PACKET_RECEIVE (R356). -/
  | csi2PacketReceive (r : BitVec 1) (p : CsiPacket)
  /-- FRAME_START (R359). -/
  | frameStart (r : BitVec 1) (vc : BitVec 2) (num : BitVec 16)
  /-- FRAME_END (R359). -/
  | frameEnd (r : BitVec 1) (vc : BitVec 2) (num : BitVec 16)
  /-- PIXEL_LINE (R358). -/
  | pixelLine (r : BitVec 1) (vc : BitVec 2) (dt : BitVec 6) (payload : List Byte) (crc : BitVec 16)
  /-- EMBEDDED_DATA (R357). -/
  | embeddedData (r : BitVec 1) (vc : BitVec 2) (payload : List Byte) (crc : BitVec 16)
  /-- FRAME_TIMEOUT (R359). -/
  | frameTimeout (c : BitVec 3)
  /-- LINK_IDLE_TIMEOUT (R359). -/
  | linkIdleTimeout (r : BitVec 1)
  /-- SCAN_PLANE_COMPLETE (R366). -/
  | scanPlaneComplete (c : BitVec 3)
  /-- CAM_BIND_WRITE (R353). -/
  | camBindWrite (who : HostWho) (c : BitVec 3) (v : BitVec 32)
  /-- CAM_CFG_WRITE (R355). -/
  | camCfgWrite (who : HostWho) (c : BitVec 3) (v : BitVec 32)
  /-- I2C_SUBMIT (R369). -/
  | i2cSubmit (who : HostWho) (i : BitVec 1) (v : BitVec 32)
  /-- I2C_FLUSH (R369). -/
  | i2cFlush (who : HostWho) (i : BitVec 1) (v : BitVec 32)
  /-- I2C_JOB_START (R369). -/
  | i2cJobStart (i : BitVec 1)
  /-- I2C_JOB_COMPLETE (R370). -/
  | i2cJobComplete (i : BitVec 1) (detail : BitVec 2) (data : List Byte)
  /-- I2C_STRETCH_TIMEOUT (R369). -/
  | i2cStretchTimeout (i : BitVec 1)
  /-- TRIGGER_PULSE_START (R376). -/
  | triggerPulseStart (t : BitVec 2)
  /-- TRIGGER_PULSE_END (R376). -/
  | triggerPulseEnd (t : BitVec 2)
  /-- SCAN_SUBMIT (R384). -/
  | scanSubmit (who : HostWho) (v : BitVec 32)
  /-- SCAN_CANCEL (R390). -/
  | scanCancel (who : HostWho) (v : BitVec 32)
  /-- SCAN_COMMIT (R386). -/
  | scanCommit (job : BitVec 16)
  /-- STROBE_ON (R387). -/
  | strobeOn (l : BitVec 3)
  /-- STROBE_OFF (R387). -/
  | strobeOff (l : BitVec 3)
  /-- SCAN_NO_FRAME (R388). -/
  | scanNoFrame (job : BitVec 16)
  /-- FINDER_COMPLETE (R392). -/
  | finderComplete (job : BitVec 16) (n : BitVec 6) (more : Bool)
  /-- DECODE_COMPLETE (R394). -/
  | decodeComplete (u : BitVec 2) (r : Option SymbolRx)
  /-- SCAN_RESULT_RECORD (R398). -/
  | scanResultRecord (job : BitVec 16)
  /-- SCAN_DEADLINE (R399). -/
  | scanDeadline (job : BitVec 16)
  /-- SCAN_DISABLE (R391). -/
  | scanDisable (who : HostWho) (v : BitVec 32)
  /-- DECODE_BIST_START (R402). -/
  | decodeBistStart (u : BitVec 3)
  /-- DECODE_BIST_END (R402). -/
  | decodeBistEnd (u : BitVec 3) (fail : Bool)
  /-- SCAN_BIST_START (R403). -/
  | scanBistStart (who : HostWho) (v : BitVec 32)
  /-- SCAN_OFFLINE_BIST_BEGIN (R403). -/
  | scanOfflineBistBegin
  /-- SCAN_OFFLINE_BIST_END (R403). -/
  | scanOfflineBistEnd (failed : BitVec 5)
  /-- RADIO_ENABLE (R409). -/
  | radioEnable (who : HostWho) (v : BitVec 32) (reply : BitVec 32)
  /-- IDENT_RETRY (R409). -/
  | identRetry (reply : BitVec 32)
  /-- RADIO_PORT_FAULT (R409). -/
  | radioPortFault
  /-- RADIO_DISABLE (R444). -/
  | radioDisable (who : HostWho) (v : BitVec 32)
  /-- RADIO_FRAME_RECEIVE (R426). -/
  | radioFrameReceive (r : RadioRx)
  /-- RADIO_SUBMIT (R433). -/
  | radioSubmit (who : HostWho) (v : BitVec 32)
  /-- RADIO_CANCEL (R433). -/
  | radioCancel (who : HostWho) (v : BitVec 32)
  /-- ADMIT (R418). -/
  | radioAdmit (who : HostWho) (v : BitVec 32)
  /-- RADIO_NBR_WRITE (R418). -/
  | radioNbrWrite (who : HostWho) (i : BitVec 9) (v : BitVec 256)
  /-- RADIO_KEY_WRITE (R430). -/
  | radioKeyWrite (who : HostWho) (k : BitVec 4) (v : BitVec 128)
  /-- RADIO_FC_OUT_WRITE (R431). -/
  | radioFcOutWrite (who : HostWho) (v : BitVec 32)
  /-- TRANSMIT_ATTEMPT (R434). -/
  | transmitAttempt (id : Option (BitVec 16))
  /-- CCA_COMPLETE (R434). -/
  | ccaComplete (busy : Bool)
  /-- TRANSMISSION_END (R407). -/
  | transmissionEnd
  /-- ACK_TIMEOUT (R434). -/
  | ackTimeout (id : BitVec 16)
  /-- RADIO_FRAME_DEADLINE (R435). -/
  | radioFrameDeadline (id : BitVec 16)
  /-- POLL_WINDOW_DECISION (R422). -/
  | pollWindowDecision (i : BitVec 9)
  /-- POLL_WINDOW_MISS (R422). -/
  | pollWindowMiss (i : BitVec 9)
  /-- TAG_DROP (R424). -/
  | tagDrop (i : BitVec 9)
  /-- FLOOD_REBROADCAST_ELIGIBLE (R438). -/
  | floodRebroadcastEligible
  /-- SEEN_ENTRY_EXPIRY (R438). -/
  | seenEntryExpiry
  /-- RADIO_BIST_PASS_END (R443). -/
  | radioBistPassEnd (fail : Bool)
  /-- RADIO_BIST_START (R443). -/
  | radioBistStart (who : HostWho) (v : BitVec 32)
  /-- RADIO_OFFLINE_BIST_END (R443). -/
  | radioOfflineBistEnd
  /-- ADC_CONVERSION (R447). -/
  | adcConversion (slot : BitVec 8) (code : BitVec 12) (calFail : Bool)
  /-- MON_STEP (R452). -/
  | monStep (who : HostWho) (c : BitVec 5) (v : BitVec 32)
  /-- MON_CFG_WRITE (R452). -/
  | monCfgWrite (who : HostWho) (c : BitVec 5) (v : BitVec 32)
  /-- MON_THERM_WRITE (R457). -/
  | monThermWrite (who : HostWho) (v : BitVec 64)
  /-- SHED_FORCE_WRITE (R459). -/
  | shedForceWrite (who : HostWho) (v : BitVec 32)
  /-- FAULT_RAISE (R463). For SRAM_UE of a bank, `word` may say which word of the bank has the uncorrectable error. -/
  | faultRaise (src : BitVec 9) (pair : Bool) (word : Option (BitVec 19))
  /-- FAULT_SWEEP (R464). -/
  | faultSweep (src : BitVec 9) (passed : Bool)
  /-- HANDLING_WINDOW_END (R475). -/
  | handlingWindowEnd
  /-- FC_FIRST_CLR (R477). -/
  | fcFirstClr (who : HostWho) (v : BitVec 32)
  /-- INJECT_ONCE (R478). -/
  | injectOnce (who : HostWho) (v : BitVec 32)
  /-- INJECT_CONTINUOUS (R478). -/
  | injectContinuous (who : HostWho) (v : BitVec 32)
  /-- INJECT_PAIR (R478). -/
  | injectPair (who : HostWho) (v : BitVec 32)
  /-- INJECT_STOP (R478). -/
  | injectStop (who : HostWho) (v : BitVec 32)
  /-- ALIVE_READBACK (R480). -/
  | aliveReadback
  /-- EMITTER_READBACK_MISMATCH (R482). -/
  | emitterReadbackMismatch (e : Emitter)
  /-- BOOK_TOKENS_WRITE (R495). -/
  | bookTokensWrite (who : HostWho) (v : BitVec 32)
  /-- BOOK_CNT_CLR (R486). -/
  | bookCntClr (who : HostWho) (v : BitVec 32)
  /-- DUNTE_CODE_LOCK (R337). -/
  | dunteCodeLock (l : LaneSel)
  /-- I2C_WINDOW_READY (R122). -/
  | i2cWindowReady
  /-- VIO_BANK_POWER_CHANGE (R62). -/
  | vioBankPowerChange (bank : BitVec 3) (present : Bool)
deriving DecidableEq, Repr

end Sys2Proof
end

