-- ==== Sys2Proof/Decode.lean ====
section
/-!
DEFINITION. Words and commands. No row of spec/opcode_table.json gives bits, so no table word spells a command; the 32-bit words of a strand spell
the Celec instructions by the forms and the opcode maps of chapter "The Celec Instruction Set" (R159, R160).
-/
namespace Sys2Proof

/-- The command of a table word; no row has bits. -/
def decodeTableWord (_nbits _w : Nat) : Option Instr := none

/-- A word of form A, I or B from its fields, op in the upper six bits (section "Instruction formats"). -/
def FormA.word (f : FormA) : BitVec 32 := f.op ++ f.rd ++ f.ra ++ f.rb ++ f.fn ++ f.aux
def FormI.word (f : FormI) : BitVec 32 := f.op ++ f.rd ++ f.ra ++ f.sub ++ f.imm
def FormB.word (f : FormB) : BitVec 32 := f.op ++ f.cond ++ f.off

/-- The fields of a word read as form A, I or B. -/
def FormA.ofWord (w : BitVec 32) : FormA :=
  ⟨w.extractLsb' 26 6, w.extractLsb' 22 4, w.extractLsb' 18 4, w.extractLsb' 14 4, w.extractLsb' 8 6, w.extractLsb' 0 8⟩
def FormI.ofWord (w : BitVec 32) : FormI :=
  ⟨w.extractLsb' 26 6, w.extractLsb' 22 4, w.extractLsb' 18 4, w.extractLsb' 16 2, w.extractLsb' 0 16⟩
def FormB.ofWord (w : BitVec 32) : FormB := ⟨w.extractLsb' 26 6, w.extractLsb' 22 4, w.extractLsb' 0 22⟩

/-- The instructions of an op of form A in the order of fn; none where an fn is unassigned (R162, R165 to R167, R171 to R181). -/
def rowsA : Nat → List (Option (BitVec 6 → FormA → Instr))
  | 0x01 => [some .add, some .adc, some .sub, some .sbc, some .and, some .or, some .xor, some .andn, some .shl, some .shr, some .sar, some .ror,
      some .mul, some .mulhu, some .mulhs, some .divu, some .remu, some .divs, some .rems, some .mins, some .maxs, some .minu, some .maxu,
      some .clz, some .popc, some .bswap, some .cmp, some .tst, some .csel]
  | 0x16 => [some .ost]
  | 0x19 => [some .rst]
  | 0x1A => [some .aadd, some .aand, some .aor, some .axor, some .aswp, some .aminu, some .amaxu, none, some .cas]
  | 0x1C => [some (fun n f => .blkmov n f none)]
  | 0x1D => [some (fun n f => .csetn n f none)]
  | 0x20 => [some .cwr, some .crd, some .cdel, some .cstate, some .pxatt, some .pxdet, some .preq]
  | 0x21 => [some .cmtGo, some .cmtCancel]
  | 0x22 => [some .sjob, some .scancel]
  | 0x23 => [some .rtx, some .rrx]
  | 0x24 => [some .dstart, some .dstat, some .dstop]
  | 0x28 => [some .wlt, some .wbnd, some .wev, some .sig, some .clrev, some .hev, some .yield, some .stop, some .spawn, some .trap, some .fence]
  | 0x29 => [some .mfs, some .mts, some .getf, some .setf]
  | 0x32 => [some .jr, some .jlr]
  | _ => []

/-- The instructions of an op of form I in the order of sub; none where a sub is unassigned (R163, R164, R167). -/
def rowsI : Nat → List (Option (BitVec 6 → FormI → Instr))
  | 0x02 => [some .addi]
  | 0x03 => [some .cmpi]
  | 0x04 => [some .andi]
  | 0x05 => [some .ori]
  | 0x06 => [some .xori]
  | 0x07 => [some .shli, some .shri, some .sari, some .rori]
  | 0x08 => [some .lui]
  | 0x10 => [some .ldW, some .ldHu, some .ldBu]
  | 0x11 => [none, some .ldsH, some .ldsB]
  | 0x12 => [some .stW, some .stH, some .stB]
  | 0x13 => [some .ldxW, some .ldxHu, some .ldxBu]
  | 0x14 => [some .stxW, some .stxH, some .stxB]
  | 0x15 => [some .old]
  | 0x18 => [some .rld]
  | _ => []

/-- The instructions of form B (R181). -/
def rowsB : Nat → Option (BitVec 6 → FormB → Instr)
  | 0x30 => some .bCond
  | 0x31 => some .blCond
  | _ => none

/-- The command of a strand that a word spells; none where op, fn or sub is unassigned (R159, R160). -/
def celecCommand (n : BitVec 6) (w : BitVec 32) : Option Instr :=
  let a := FormA.ofWord w
  let i := FormI.ofWord w
  let b := FormB.ofWord w
  match (rowsA a.op.toNat)[a.fn.toNat]?.join with
  | some c => some (c n a)
  | none =>
      match (rowsI i.op.toNat)[i.sub.toNat]?.join with
      | some c => some (c n i)
      | none => (rowsB b.op.toNat).map (fun c => c n b)

/-- The op of a word that spells no instruction: its op, fn or sub is unassigned (R159, R160). -/
def FormA.unassigned (f : FormA) : Option Nat := if (rowsA f.op.toNat)[f.fn.toNat]?.join.isSome then none else some f.op.toNat
def FormI.unassigned (f : FormI) : Option Nat := if (rowsI f.op.toNat)[f.sub.toNat]?.join.isSome then none else some f.op.toNat
def FormB.unassigned (f : FormB) : Option Nat := if (rowsB f.op.toNat).isSome then none else some f.op.toNat

end Sys2Proof
end

