-- ==== Sys2Proof/Machine/Bits.lean ====
section
/-!
DEFINITION. Bit fields of register images, byte order, saturating counters and the operations of the sparse arrays of the
state. Every other file reads fields and arrays through these.
-/
namespace Sys2Proof.Machine

open Sys2Proof

/-- Bits `[lo+w-1:lo]` of a register image. -/
def bits (v lo w : Nat) : Nat := (v >>> lo) % 2 ^ w

/-- Bit `k` of a register image. -/
def bit (v k : Nat) : Bool := v.testBit k

/-- 1 for true. -/
def b2n (b : Bool) : Nat := if b then 1 else 0

/-- `v` with bits `[lo+w-1:lo]` replaced by the low `w` bits of `x`. -/
def setBits (v lo w x : Nat) : Nat :=
  (v >>> (lo + w)) <<< (lo + w) + (x % 2 ^ w) <<< lo + v % 2 ^ lo

/-- `v` with bit `k` set. -/
def setBit (v k : Nat) : Nat := v ||| 2 ^ k

/-- `v` with bit `k` cleared. -/
def clrBit (v k : Nat) : Nat := if v.testBit k then v - 2 ^ k else v

/-- The bits of `a` that are not set in `m`. -/
def clrMask (a m : Nat) : Nat := a ^^^ (a &&& m)

/-- All ones in `w` bits. -/
def ones (w : Nat) : Nat := 2 ^ w - 1

/-- A counter that saturates at `m`. -/
def satAdd (m a n : Nat) : Nat := min m (a + n)

/-- A 32-bit counter that wraps. -/
def wrap32 (a n : Nat) : Nat := (a + n) % 2 ^ 32

/-- The two's complement reading of a `w`-bit image. -/
def sgn (w v : Nat) : Int := if v % 2 ^ w < 2 ^ (w - 1) then (v % 2 ^ w : Nat) else ((v % 2 ^ w : Nat) : Int) - (2 ^ w : Nat)

/-- The `w`-bit two's complement image of an integer. -/
def img (w : Nat) (i : Int) : Nat := (i % (2 ^ w : Nat)).toNat

/-- Clamp an integer into `[lo, hi]`. -/
def clampI (lo hi i : Int) : Int := max lo (min hi i)

/-- The least `n` bytes of `v`, least significant first (R4). -/
def leBytes : Nat → Nat → List Nat
  | 0, _ => []
  | n + 1, v => v % 256 :: leBytes n (v / 256)

/-- The number whose little-endian bytes are given (R4). -/
def ofLe : List Nat → Nat
  | [] => 0
  | b :: bs => b % 256 + 256 * ofLe bs

/-- `f` folded over `0 … n-1`, in rising order. -/
def foldUpto {σ : Type} (n : Nat) (f : Nat → σ → σ) (s : σ) : σ :=
  (List.range n).foldl (fun t k => f k t) s

/-- The positions of the set bits among the low `n` bits of `v`. -/
def setPositions (n v : Nat) : List Nat := (List.range n).filter (fun k => v.testBit k)

/-- The value at index `k`; `d` where none is listed. -/
def tget {α : Type} (d : α) : Tab α → Nat → α
  | [], _ => d
  | (i, v) :: t, k => if i = k then v else tget d t k

/-- The array with every entry of index `k` removed. -/
def tdel {α : Type} : Tab α → Nat → Tab α
  | [], _ => []
  | (i, v) :: t, k => if i = k then tdel t k else (i, v) :: tdel t k

/-- The array with `(k, v)` put in its place in rising order. -/
def tins {α : Type} : Tab α → Nat → α → Tab α
  | [], k, v => [(k, v)]
  | (i, w) :: t, k, v => if k < i then (k, v) :: (i, w) :: t else (i, w) :: tins t k v

/-- Write index `k`, keeping the canonical form: writing the unlisted value removes the entry. -/
def tset {α : Type} [DecidableEq α] (d : α) (t : Tab α) (k : Nat) (v : α) : Tab α :=
  if v = d then tdel t k else tins (tdel t k) k v

/-- Change the value at index `k`. -/
def tmod {α : Type} [DecidableEq α] (d : α) (t : Tab α) (k : Nat) (f : α → α) : Tab α :=
  tset d t k (f (tget d t k))

/-- Strictly rising indices from `lo` on, no entry equal to `d`. -/
def tabWfFrom {α : Type} [DecidableEq α] (d : α) : Nat → Tab α → Bool
  | _, [] => true
  | lo, (i, v) :: t => decide (lo ≤ i) && decide (v ≠ d) && tabWfFrom d (i + 1) t

/-- The canonical form of a sparse array whose unlisted value is `d`. -/
def tabWf {α : Type} [DecidableEq α] (d : α) (t : Tab α) : Bool := tabWfFrom d 0 t

end Sys2Proof.Machine
end

