-- ==== Sys2Proof/Machine/Crypto.lean ====
section
/-!
DEFINITION. The checks and the cryptography the manual names: CRC-32C (R12, R133), the CSI-2 CRC-16 (R356), SHA-256 and HMAC-SHA-256 (R135, R137),
AES-128 and CCM* (R428, R430). Bytes are natural numbers below 256.
-/
namespace Sys2Proof.Machine

open Sys2Proof

/-- One byte of CRC-32C, reflected, polynomial 0x1EDC6F41. -/
def crc32cByte (r b : Nat) : Nat :=
  (List.range 8).foldl (fun v _ => if v.testBit 0 then (v / 2) ^^^ 0x82F63B78 else v / 2) (r ^^^ (b % 256))

/-- CRC-32C: initial value and final XOR all ones (R133). -/
def crc32c (bs : List Nat) : Nat := (bs.foldl crc32cByte 0xFFFFFFFF) ^^^ 0xFFFFFFFF

/-- The CRC-16 of a CSI-2 long packet's payload: x^16 + x^12 + x^5 + 1, reflected, initial value all ones (CSI-2 1.3). -/
def crc16csi (bs : List Nat) : Nat :=
  bs.foldl (fun r b =>
    (List.range 8).foldl (fun v _ => if v.testBit 0 then (v / 2) ^^^ 0x8408 else v / 2) (r ^^^ (b % 256))) 0xFFFF

/-- The greatest number below 2^36 whose e-th power is at most n. -/
def floorRoot (e n : Nat) : Nat :=
  (List.range 36).foldl (fun r i => if (r + 2 ^ (35 - i)) ^ e ≤ n then r + 2 ^ (35 - i) else r) 0

/-- The first 64 prime numbers. -/
def firstPrimes : List Nat :=
  (List.range 312).filter (fun n => decide (2 ≤ n) && [2, 3, 5, 7, 11, 13, 17].all (fun d => n == d || n % d != 0))

/-- Round constants of SHA-256: 32 bits behind the point of the cube roots of those primes. -/
def shaK : List Nat := firstPrimes.map (fun p => floorRoot 3 (p * 2 ^ 96) % 2 ^ 32)

/-- Initial hash value of SHA-256: 32 bits behind the point of the square roots of the first eight. -/
def shaInit : List Nat := (firstPrimes.take 8).map (fun p => floorRoot 2 (p * 2 ^ 64) % 2 ^ 32)

/-- Rotate a 32-bit word right. -/
def ror32 (x k : Nat) : Nat := (x >>> k ||| x <<< (32 - k)) % 2 ^ 32

/-- Big-endian number of bytes. -/
def ofBe (bs : List Nat) : Nat := bs.foldl (fun a b => a * 256 + b % 256) 0

/-- The `n` big-endian bytes of a number. -/
def beBytes (n v : Nat) : List Nat := (leBytes n v).reverse

/-- The message schedule, newest word first. -/
def shaSchedule (block : List Nat) : List Nat :=
  let w0 := ((List.range 16).map (fun i => ofBe ((block.drop (4 * i)).take 4))).reverse
  (List.range 48).foldl (fun w _ =>
    let a := w.getD 14 0
    let b := w.getD 1 0
    let s0 := ror32 a 7 ^^^ ror32 a 18 ^^^ (a >>> 3)
    let s1 := ror32 b 17 ^^^ ror32 b 19 ^^^ (b >>> 10)
    ((w.getD 15 0 + s0 + w.getD 6 0 + s1) % 2 ^ 32) :: w) w0

/-- One block of SHA-256. -/
def shaBlock (h block : List Nat) : List Nat :=
  let w := (shaSchedule block).reverse
  let r := (List.zip w shaK).foldl (fun v (wk : Nat × Nat) =>
    match v with
    | [a, b, c, d, e, f, g, hh] =>
        let s1 := ror32 e 6 ^^^ ror32 e 11 ^^^ ror32 e 25
        let ch := (e &&& f) ^^^ ((e ^^^ 0xFFFFFFFF) &&& g)
        let t1 := hh + s1 + ch + wk.2 + wk.1
        let s0 := ror32 a 2 ^^^ ror32 a 13 ^^^ ror32 a 22
        let maj := (a &&& b) ^^^ (a &&& c) ^^^ (b &&& c)
        [(t1 + s0 + maj) % 2 ^ 32, a, b, c, (d + t1) % 2 ^ 32, e, f, g]
    | v => v) h
  List.zipWith (fun x y => (x + y) % 2 ^ 32) h r

/-- Blocks of 64 bytes, at most `n` of them. -/
def shaBlocks : Nat → List Nat → List Nat → List Nat
  | 0, h, _ => h
  | n + 1, h, bs => if bs = [] then h else shaBlocks n (shaBlock h (bs.take 64)) (bs.drop 64)

/-- SHA-256, 32 bytes. -/
def sha256 (msg : List Nat) : List Nat :=
  let pad := (119 - msg.length % 64) % 64
  let m := msg ++ [0x80] ++ List.replicate pad 0 ++ beBytes 8 (8 * msg.length)
  (shaBlocks (m.length / 64) shaInit m).flatMap (beBytes 4)

/-- HMAC-SHA-256 under a 32-byte key (R135). -/
def hmacSha256 (key msg : List Nat) : List Nat :=
  let k := (List.range 64).map (fun i => key.getD i 0)
  sha256 (k.map (· ^^^ 0x5C) ++ sha256 (k.map (· ^^^ 0x36) ++ msg))

/-- Multiply by x in GF(2^8) of AES. -/
def xtime (a : Nat) : Nat := if a.testBit 7 then ((a <<< 1) % 256) ^^^ 0x1B else a <<< 1

/-- Product in GF(2^8). -/
def gmul (a b : Nat) : Nat :=
  ((List.range 8).foldl (fun (p : Nat × Nat) i => (if b.testBit i then p.1 ^^^ p.2 else p.1, xtime p.2)) (0, a)).1

/-- Inverse in GF(2^8) (a^254), 0 for 0. -/
def ginv (a : Nat) : Nat :=
  let a2 := gmul a a
  let a4 := gmul a2 a2
  let a8 := gmul a4 a4
  let a16 := gmul a8 a8
  let a32 := gmul a16 a16
  let a64 := gmul a32 a32
  gmul (gmul (gmul a2 a4) (gmul a8 a16)) (gmul (gmul a32 a64) (gmul a64 a64))

/-- Rotate a byte left. -/
def rol8 (x k : Nat) : Nat := (x <<< k ||| x >>> (8 - k)) % 256

/-- The S-box of AES. -/
def sbox (a : Nat) : Nat :=
  let b := ginv a
  b ^^^ rol8 b 1 ^^^ rol8 b 2 ^^^ rol8 b 3 ^^^ rol8 b 4 ^^^ 0x63

/-- The next round key of AES-128 and the next round constant. -/
def nextKey (k : List Nat) (rcon : Nat) : List Nat :=
  let t := [sbox (k.getD 13 0) ^^^ rcon, sbox (k.getD 14 0), sbox (k.getD 15 0), sbox (k.getD 12 0)]
  let w0 := List.zipWith (· ^^^ ·) (k.take 4) t
  let w1 := List.zipWith (· ^^^ ·) ((k.drop 4).take 4) w0
  let w2 := List.zipWith (· ^^^ ·) ((k.drop 8).take 4) w1
  let w3 := List.zipWith (· ^^^ ·) (k.drop 12) w2
  w0 ++ w1 ++ w2 ++ w3

/-- ShiftRows on a column-major state. -/
def shiftRows (s : List Nat) : List Nat := (List.range 16).map (fun i => s.getD ((i + 4 * (i % 4)) % 16) 0)

/-- MixColumns on one column. -/
def mixCol (c : List Nat) : List Nat :=
  let a := c.getD 0 0
  let b := c.getD 1 0
  let d := c.getD 2 0
  let e := c.getD 3 0
  [xtime a ^^^ xtime b ^^^ b ^^^ d ^^^ e, a ^^^ xtime b ^^^ xtime d ^^^ d ^^^ e,
   a ^^^ b ^^^ xtime d ^^^ xtime e ^^^ e, xtime a ^^^ a ^^^ b ^^^ d ^^^ xtime e]

/-- MixColumns. -/
def mixCols (s : List Nat) : List Nat := (List.range 4).flatMap (fun i => mixCol ((s.drop (4 * i)).take 4))

/-- AES-128 of a 16-byte block, byte 0 first. -/
def aes128 (key block : List Nat) : List Nat :=
  let xor := List.zipWith (· ^^^ · : Nat → Nat → Nat)
  let r := (List.range 9).foldl (fun (p : List Nat × List Nat × Nat) _ =>
    let k := nextKey p.2.1 p.2.2
    (xor (mixCols (shiftRows (p.1.map sbox))) k, k, xtime p.2.2)) (xor block key, key, 1)
  xor (shiftRows (r.1.map sbox)) (nextKey r.2.1 r.2.2)

/-- A list cut or padded with zeros to 16 bytes. -/
def pad16 (bs : List Nat) : List Nat := (List.range 16).map (fun i => bs.getD i 0)

/-- CBC-MAC over whole blocks, at most `n` of them, the last padded with zeros. -/
def cbcMac (key : List Nat) : Nat → List Nat → List Nat → List Nat
  | 0, x, _ => x
  | n + 1, x, bs =>
      if bs = [] then x
      else cbcMac key n (aes128 key (List.zipWith (· ^^^ ·) x (pad16 (bs.take 16)))) (bs.drop 16)

/-- Zeros up to a whole number of blocks. -/
def toBlocks (bs : List Nat) : List Nat := bs ++ List.replicate ((16 - bs.length % 16) % 16) 0

/-- The CBC-MAC value T of CCM* with a 13-byte nonce (L = 2), header `a`, message `m`, MIC of `mic` bytes (IEEE 802.15.4). -/
def ccmTag (key nonce a m : List Nat) (mic : Nat) : List Nat :=
  let flags := (if a = [] then 0 else 64) + (if mic = 0 then 0 else 8 * ((mic - 2) / 2)) + 1
  let b0 := flags :: nonce ++ beBytes 2 m.length
  let ah := if a = [] then [] else toBlocks (beBytes 2 a.length ++ a)
  let data := b0 ++ ah ++ toBlocks m
  cbcMac key (data.length / 16 + 1) (List.replicate 16 0) data

/-- The key stream block S_i of CCM*. -/
def ccmStream (key nonce : List Nat) (i : Nat) : List Nat := aes128 key (1 :: nonce ++ beBytes 2 i)

/-- Encrypt or decrypt a message under CCM*. -/
def ccmCrypt (key nonce m : List Nat) : List Nat :=
  (List.range ((m.length + 15) / 16)).flatMap (fun i =>
    List.zipWith (· ^^^ ·) ((m.drop (16 * i)).take 16) (ccmStream key nonce (i + 1)))

/-- The MIC of CCM*, `mic` bytes. -/
def ccmMic (key nonce a m : List Nat) (mic : Nat) : List Nat :=
  (List.zipWith (· ^^^ ·) (ccmTag key nonce a m mic) (ccmStream key nonce 0)).take mic

end Sys2Proof.Machine
end

