-- ==== Sys2Proof/Config.lean ====
section
/-!
DEFINITION. What the manual leaves to the unit or leaves open: constants and free values without a body, so that nothing can be
proved of them.
-/
namespace Sys2Proof.Config

open Sys2Proof

/-- The k-th free value of a run, in 32 bits: a value the manual leaves open (see the entries of the assumption log that name it). -/
opaque freeValue : Nat → Word

/-- The unit serial, 64 bits (ID_SERIAL). -/
opaque serial : BitVec 64

/-- LP_TX_OFFSET by RATE, in phase units: constant per rate (R214), its value not given. -/
opaque lpTxOffset : Nat → BitVec 16

/-- Factory values of MON_GAIN and MON_OFFSET of MC0 to MC7 (R446), as 32-bit images. -/
opaque monGain : Nat → Word
opaque monOffset : Nat → Word

/-- The FIR compensator of a response (R449, R451): response and its CIC outputs newest first; the value before the shift of SH2. The ROM's
coefficients are not given. -/
opaque monFir : Nat → List Int → Int

/-- Width in bits at which the CIC stage saturates (R451), not given. -/
opaque monCicWidth : Nat

/-- How a quotient that lies halfway is rounded (the chapter says "to nearest" alone), and how one whose rounding the chapter does not give
is rounded: up, by numerator and denominator. -/
opaque tieUp : Int → Nat → Bool
opaque roundUp : Int → Nat → Bool

/-- Which of several nearest pixels of a kind an outside window position takes (R363): an index, by the position and the number of candidates. -/
opaque nearestTie : Int → Int → Nat → Nat

/-- Defect correction of a pixel without a same-kind neighbour (R364), by column, row and value: the replacement, or none where the pixel stands. -/
opaque loneDefect : Nat → Nat → Nat → Option (BitVec 12)

/-- Green imbalance where the window lacks GA or GB sites (R364), by column, row and value. -/
opaque loneGreen : Nat → Nat → Nat → BitVec 12

/-- Frames that the scan engine's longest case adds, beside the 40 ms test and its tolerance, to SCAN_RETRY (R403). -/
opaque scanRetrySlack : Nat

/-- Whether the rails of a source that has raised still show raised (R463): by source, its COUNT and the frame boundaries so far. No command
gives the end of the condition behind a raise. -/
opaque railRaised : Nat → Nat → Nat → Bool

/-- Octets of a slot that the spec gives no content: by their place. -/
opaque openOctet : Nat → BitVec 8

end Sys2Proof.Config
end

