-- ==== Sys2Proof/Machine/RegTable.lean ====
section
/-!
DEFINITION. The register map: every register of the Seat window (R504), with its place, scope (R506), access (R505), mirrored bits
(R296) and reset value, as the index of the chapter "Register and Address Index" and the owning chapters' tables give them.
-/
namespace Sys2Proof.Machine

open Sys2Proof

/-- The registers of the index. An array of registers, and a block of read-only words, is one name. -/
inductive RegName where
  | idPart | idVendor | idSerial | seatId | seatCtl | seatFitted | seatOwned | hostBind | hostPath | hostErrClr
  | hostObjAperture | hostLbCtl | hostSpiCtl | pwrStage | pwrStageLt | pwrStageCtl | pwrStageStatus | pwrResetCtl
  | pwrDomState | pwrDomHold | pwrRet | bookTokens | bookTokenUse | bookOvercommit | bookSeat | bookOutcomes
  | bookCntClr | ltStatus | ltCtl | ltRefSel | ltEvents | ltNow | ltTodNow | ltPpsCapture | ltAnchorLt | ltAnchorTod
  | ltFrameLoad | ltSeatPri | ltCommitFrame | ltCommitTod | ltCommitCtl | ltCommitStatus | ltCommitDonePtr
  | ltCalEntry | ltCalCtl | ltCalStatus | ltEvCtl | ltCalLast | ltCommitDone | ltCalLimit | ltCalendar | mapObject
  | mapQuota | mapData | mapCode | seatIntPend | seatIntMask | hostIntnSel | causeHost | causeLt | causeHev
  | causeSys | causeEnHost | causeEnLt | causeEnHev | causeEnSys | dmaChCtl | dmaChDesc | dmaChCmd | dmaChStatus
  | dmaChDone | dmaInt | dmaIntEn | gfpCfg | gfpStatus | gfpCnt | msixTable | msixPba | stCtl | stEntry | stCmd
  | stArg | stStatus | stCtx | stG | stEventSet | stEventState | stTrapCause | stPriCap | lpCfg | lpStatus | lpInt
  | lpIntEn | lpOhRx | lpOhTx | lpOhCap | lpTxOffset | lpJ0Exp | lpJ0Tx | lpJ0Rx | lpCnt | lpCntClr | lpAuCfg
  | lpAuStatus | lpTuStatus | protInt | protIntEn | pxInt | pxIntEn | pxCtl | pxUse | pxArmed | pxOverride
  | pxOverrideStatus | pxStage | pxCmd | pxCmdStatus | mateCtl | matePeer | mateCmd | mateCmdStatus | mateStatus
  | mateTerm | mateLease | mateSeq | mateLost | mateUse | mateDelay | mateInt | mateIntEn | matePageMir | blCfg
  | blTxEq | blStatus | blDelay | blCnt | blCntClr | bpAuCfg | bpSrqTx | bpCopyCtl | bpSrqBad | bpSlotStatus | mlTxEq
  | mlStatus | mlCnt | mlLink | bpInt | bpIntEn | fabCtl | fabPageCtl | fabPageStatus | fabLastSwap | fabNextSwap
  | fabSeatUse | fabLoUse | fabRotStatus | fabRotNext | fabRotCmd | fabTileStatus | fabTileStatusLo | fabInt
  | fabIntEn | crCfg | crUdt | crStatus | crCnt | camBind | camCfg | camCtl | camGeom | camTime | camStatus | camSeq
  | camLast | camBank | camDefect | camStats | tapCfg | tapCrop0 | tapCrop1 | tapDrop | ciCfg | ciCmd | ciStatus
  | ciJob | ciRing | trigCfg | trigCount | trigLast | camInt | camIntEn | scanCfg | scanJob | scanCmd | scanStatus
  | scanRetry | scanUse | scanDonePtr | scanCnt | scanDone | scanUnitStatus | scanBistCmd | scanInt | scanIntEn
  | scanPortwin | lantCfg | radioCfg | radioChan | radioPan | radioExt | radioPhy | radioSlot | radioSec | radioTrk
  | radioFlood | radioFcOut | radioStat | radioBudget | radioHwres | radioBandUse | radioSeatUse | radioSeatCtl
  | radioKey | radioKcv | radioPortmap | radioTxd | radioCmd | radioStatus | radioLegal | radioRetry | radioBistCmd
  | radioCnt | radioInt | radioIntEn | radioTxdone | radioTxdoneIdx | radioNbr | monCfg | monGain | monOffset
  | monThaLevel | monThaCtl | monThbLevel | monThbCtl | monThState | monOut | monOutPrev | monTherm | monThermState
  | monShedCtl | monCal | monOutDrop | monEvtA | monEvtB | monInt | monIntEn | fcSrc | fcSevAct | fcFirst
  | fcFirstClr | fcClrStatus | fcCount | fcInject | fcSeatCause | fcSeatEn | fcAlive | fcAliveStop | ledgerStatus
  | ledgerHead | ledgerChain | ledgerLost | ledgerSpillCtl | ledgerSpillBase | ledgerSpillStatusAddr
  | ledgerSpillCons | ledgerSpillProd | ledgerInt | ledgerIntEn | ledgerKey | ledgerViewBase | ledgerView
deriving DecidableEq, Repr

/-- Whose value a register has: the part's (or, with `cls`, the physical object's), each Seat's, each Seat's and path's (R506). -/
inductive RegScope where
  | part | seat | path
deriving DecidableEq, Repr

/-- One register, or an array of registers, of the map: index i counts strides, index j counts second strides, each register
is `bytes` long. Masks: `rw` and `rws` writable fields, `w1c`, `wo`; `mir` the mirrored fields. -/
structure RegDesc where
  name : RegName
  base : Nat
  n : Nat := 1
  stride : Nat := 0
  n2 : Nat := 1
  stride2 : Nat := 0
  bytes : Nat := 4
  scope : RegScope := .part
  /-- First object-map entry of the class that index i is a Seat-local number of (R93); 1000 for backplane ports. -/
  cls : Option Nat := none
  /-- "K" and "S0" of R505. -/
  keeper : Bool := false
  s0only : Bool := false
  mir : Nat := 0
  rw : Nat := 0
  rws : Nat := 0
  w1c : Nat := 0
  wo : Nat := 0
  reset : Nat := 0
deriving Repr

/-- ID, seat control, stages and books. -/
def regsSys : List RegDesc :=
  [ { name := .idPart, base := 0x0 },
    { name := .idVendor, base := 0x4 },
    { name := .idSerial, base := 0x8, bytes := 8 },
    { name := .seatId, base := 0x10 },
    { name := .seatCtl, base := 0x20, keeper := true, rws := 0xFFFF, mir := 0xFFFF, reset := 1 },
    { name := .seatFitted, base := 0x40, n2 := 7, stride2 := 4, scope := .seat },
    { name := .seatOwned, base := 0x80, n2 := 7, stride2 := 4, scope := .seat },
    { name := .hostBind, base := 0x100, keeper := true, rw := 0x3FF, reset := 0x300 },
    { name := .hostPath, base := 0x110, n2 := 5, stride2 := 4, scope := .path },
    { name := .hostErrClr, base := 0x124, scope := .path, wo := 1 },
    { name := .hostObjAperture, base := 0x128, scope := .path, rw := 7 },
    { name := .hostLbCtl, base := 0x130, keeper := true, rw := 1 },
    { name := .hostSpiCtl, base := 0x134, keeper := true, rw := 0xF, reset := 4 },
    { name := .pwrStage, base := 0x400 },
    { name := .pwrStageLt, base := 0x408, bytes := 8 },
    { name := .pwrStageCtl, base := 0x410, keeper := true, wo := 3 },
    { name := .pwrStageStatus, base := 0x414 },
    { name := .pwrResetCtl, base := 0x418, keeper := true, wo := 0x1FFFF },
    { name := .pwrDomState, base := 0x420, n2 := 7, stride2 := 4 },
    { name := .pwrDomHold, base := 0x440, n2 := 4, stride2 := 4, keeper := true, rw := 0xFFFFFFFF },
    { name := .pwrRet, base := 0x450, bytes := 16 },
    { name := .bookTokens, base := 0x500, keeper := true, rw := 0x0FFF0FFF },
    { name := .bookTokenUse, base := 0x504 },
    { name := .bookOvercommit, base := 0x508, s0only := true } ]
  ++ [ { name := .bookSeat, base := 0x510, scope := .seat, bytes := 32 },
    { name := .bookOutcomes, base := 0x530, scope := .seat, bytes := 24 },
    { name := .bookCntClr, base := 0x548, scope := .seat, wo := 1 } ]

/-- Line Time and scheduler. -/
def regsLt : List RegDesc :=
  [ { name := .ltStatus, base := 0x1000 },
    { name := .ltCtl, base := 0x1004, keeper := true, rw := 0xF, wo := 0x10, reset := 4 },
    { name := .ltRefSel, base := 0x1008, keeper := true, rw := 0xFF7F, reset := 0x1074 },
    { name := .ltEvents, base := 0x100C },
    { name := .ltNow, base := 0x1010, bytes := 8 },
    { name := .ltTodNow, base := 0x1018, bytes := 12 },
    { name := .ltPpsCapture, base := 0x1028, bytes := 8 },
    { name := .ltAnchorLt, base := 0x1030, bytes := 8, keeper := true, rws := 0xFFFFFFFFFFFFFFFF, mir := 0xFFFFFFFFFFFFFFFF },
    { name := .ltAnchorTod, base := 0x1038, bytes := 12, keeper := true, rws := 0xFFFFFFFFFFFFFFFFFFFF, mir := 0xFFFFFFFFFFFFFFFFFFFF },
    { name := .ltFrameLoad, base := 0x1048, bytes := 8, keeper := true, rw := 0xFFFFFFFFFFFF },
    { name := .ltSeatPri, base := 0x1050, bytes := 8, keeper := true, rw := 0x7777777777777777, mir := 0x7777777777777777, reset := 7 },
    { name := .ltCommitFrame, base := 0x1080, bytes := 8, scope := .seat, rw := 0xFFFFFFFFFFFF },
    { name := .ltCommitTod, base := 0x1088, bytes := 12, scope := .seat, rw := 0xFFFFFFFFFFFFFFFFFFFF },
    { name := .ltCommitCtl, base := 0x1094, scope := .seat, wo := 0xFF07 },
    { name := .ltCommitStatus, base := 0x1098, scope := .seat },
    { name := .ltCommitDonePtr, base := 0x109C, scope := .seat },
    { name := .ltCalEntry, base := 0x10A0, bytes := 16, scope := .seat, rw := 0xFFFFFFFF0F7FFFFFFFFFFFFFFFFFFFFF },
    { name := .ltCalCtl, base := 0x10B0, scope := .seat, wo := 0x3FF0007 },
    { name := .ltCalStatus, base := 0x10B4, scope := .seat },
    { name := .ltEvCtl, base := 0x10B8, scope := .seat, rw := 0x7F },
    { name := .ltCalLast, base := 0x10BC, scope := .seat },
    { name := .ltCommitDone, base := 0x1100, n2 := 64, stride2 := 4, scope := .seat },
    { name := .ltCalLimit, base := 0x1200, n2 := 16, stride2 := 4, keeper := true, rw := 0x7FF, mir := 0x7FF, reset := 64 },
    { name := .ltCalendar, base := 0x2000, n2 := 4096, stride2 := 4 } ]

/-- Seat maps, by 32-bit words. -/
def regsMap : List RegDesc :=
  [ { name := .mapObject, base := 0x10000, n := 16, stride := 0x1000, n2 := 103, stride2 := 4, keeper := true, rws := 0x3FFF3FFF, mir := 0x3FFF3FFF },
    { name := .mapQuota, base := 0x10200, n := 16, stride := 0x1000, n2 := 6, stride2 := 4, keeper := true, rws := 0xFFFF, mir := 0xFFFF },
    { name := .mapData, base := 0x10600, n := 16, stride := 0x1000, n2 := 32, stride2 := 4, keeper := true, rws := 0x7FFF7FFF, mir := 0x7FFF7FFF },
    { name := .mapCode, base := 0x10680, n := 16, stride := 0x1000, n2 := 512, stride2 := 4, keeper := true, rws := 0x3FFF3FFF, mir := 0x3FFF3FFF } ]

/-- Host, DMA, GFP-F and MSI-X. -/
def regsHd : List RegDesc :=
  [ { name := .seatIntPend, base := 0x20000, scope := .seat },
    { name := .seatIntMask, base := 0x20004, scope := .seat, rw := 0xFFFFFFFF, reset := 0xFFFFFFFF },
    { name := .hostIntnSel, base := 0x20008, keeper := true, rw := 0xFFFF, reset := 1 },
    { name := .causeHost, base := 0x20010, scope := .seat, w1c := 0x3F },
    { name := .causeLt, base := 0x20014, scope := .seat, w1c := 0x303 },
    { name := .causeHev, base := 0x20018, scope := .seat, w1c := 0x7FF },
    { name := .causeSys, base := 0x2001C, scope := .seat, w1c := 3 },
    { name := .causeEnHost, base := 0x20020, scope := .seat, rw := 0x3F },
    { name := .causeEnLt, base := 0x20024, scope := .seat, rw := 0x303 },
    { name := .causeEnHev, base := 0x20028, scope := .seat, rw := 0x7FF },
    { name := .causeEnSys, base := 0x2002C, scope := .seat, rw := 3 },
    { name := .dmaChCtl, base := 0x21000, cls := some 112, n := 32, stride := 0x40, rw := 7, mir := 7, reset := 7 },
    { name := .dmaChDesc, base := 0x21004, cls := some 112, n := 32, stride := 0x40, rw := 0x3FFE0 },
    { name := .dmaChCmd, base := 0x21008, cls := some 112, n := 32, stride := 0x40, rw := 3 },
    { name := .dmaChStatus, base := 0x2100C, cls := some 112, n := 32, stride := 0x40 },
    { name := .dmaChDone, base := 0x21010, cls := some 112, n := 32, stride := 0x40 },
    { name := .dmaInt, base := 0x21800, scope := .seat, w1c := 0xFFFFFFFF },
    { name := .dmaIntEn, base := 0x21804, scope := .seat, rw := 0xFFFFFFFF },
    { name := .gfpCfg, base := 0x22000, cls := some 166, n := 8, stride := 0x40, rws := 0x7FFF1, mir := 0x7FFF1, reset := 0x40000 },
    { name := .gfpStatus, base := 0x22004, cls := some 166, n := 8, stride := 0x40 },
    { name := .gfpCnt, base := 0x22010, cls := some 166, n := 8, stride := 0x40, n2 := 7, stride2 := 4 },
    { name := .msixTable, base := 0x28000, scope := .seat, n2 := 128, stride2 := 4 },
    { name := .msixPba, base := 0x28800, scope := .seat, n2 := 2, stride2 := 4 } ]

/-- Strands. -/
def regsSt : List RegDesc :=
  [ { name := .stCtl, base := 0x40000, cls := some 48, n := 64, stride := 0x100, rw := 0x3F013F1F, mir := 0x3F013F1F },
    { name := .stEntry, base := 0x40004, cls := some 48, n := 64, stride := 0x100, rw := 0x3FFFFC, mir := 0x3FFFFC },
    { name := .stCmd, base := 0x40008, cls := some 48, n := 64, stride := 0x100, rw := 7 },
    { name := .stArg, base := 0x4000C, cls := some 48, n := 64, stride := 0x100, rw := 0xFFFFFFFF, mir := 0xFFFFFFFF },
    { name := .stStatus, base := 0x40010, cls := some 48, n := 64, stride := 0x100 },
    { name := .stCtx, base := 0x40020, cls := some 48, n := 64, stride := 0x100, n2 := 6, stride2 := 4 },
    { name := .stG, base := 0x40040, cls := some 48, n := 64, stride := 0x100, n2 := 16, stride2 := 4 },
    { name := .stEventSet, base := 0x48000, scope := .seat, n2 := 2, stride2 := 4, wo := 0xFFFFFFFF },
    { name := .stEventState, base := 0x48008, scope := .seat, n2 := 2, stride2 := 4 },
    { name := .stTrapCause, base := 0x48010, scope := .seat, n2 := 2, stride2 := 4, w1c := 0xFFFFFFFF },
    { name := .stPriCap, base := 0x48020, bytes := 8, keeper := true, rw := 0x7777777777777777, mir := 0x7777777777777777, reset := 0x3333333333333337 } ]

/-- Line ports. -/
def regsLp : List RegDesc :=
  [ { name := .lpCfg, base := 0x80000, cls := some 0, n := 16, stride := 0x4000, rws := 0x3FFFF, mir := 0x3FFFF, reset := 0x5650 },
    { name := .lpStatus, base := 0x80004, cls := some 0, n := 16, stride := 0x4000 },
    { name := .lpInt, base := 0x80008, cls := some 0, n := 16, stride := 0x4000, w1c := 0x7FF },
    { name := .lpIntEn, base := 0x8000C, cls := some 0, n := 16, stride := 0x4000, rw := 0x7FF },
    { name := .lpOhRx, base := 0x80010, cls := some 0, n := 16, stride := 0x4000 },
    { name := .lpOhTx, base := 0x80014, cls := some 0, n := 16, stride := 0x4000, rws := 0xFF, mir := 0xFF, reset := 0xF },
    { name := .lpOhCap, base := 0x80018, cls := some 0, n := 16, stride := 0x4000 },
    { name := .lpTxOffset, base := 0x8001C, cls := some 0, n := 16, stride := 0x4000 },
    { name := .lpJ0Exp, base := 0x80040, cls := some 0, n := 16, stride := 0x4000, bytes := 64, rw := 2 ^ 512 - 1, mir := 2 ^ 512 - 1 },
    { name := .lpJ0Tx, base := 0x80080, cls := some 0, n := 16, stride := 0x4000, bytes := 64, rws := 2 ^ 512 - 1, mir := 2 ^ 512 - 1 },
    { name := .lpJ0Rx, base := 0x800C0, cls := some 0, n := 16, stride := 0x4000, n2 := 16, stride2 := 4 },
    { name := .lpCnt, base := 0x80100, cls := some 0, n := 16, stride := 0x4000, n2 := 16, stride2 := 4 },
    { name := .lpCntClr, base := 0x80140, cls := some 0, n := 16, stride := 0x4000, wo := 1 },
    { name := .lpAuCfg, base := 0x80200, cls := some 0, n := 16, stride := 0x4000, n2 := 64, stride2 := 4, rws := 0x1F, mir := 0x1F },
    { name := .lpAuStatus, base := 0x80400, cls := some 0, n := 16, stride := 0x4000, n2 := 192, stride2 := 4 },
    { name := .lpTuStatus, base := 0x81000, cls := some 0, n := 16, stride := 0x4000, n2 := 2688, stride2 := 4 } ]

/-- Protection and proof. -/
def regsPr : List RegDesc :=
  [ { name := .protInt, base := 0xC0000, scope := .seat, w1c := 0x1F },
    { name := .protIntEn, base := 0xC0004, scope := .seat, rw := 0x1F },
    { name := .pxInt, base := 0xC0100, scope := .seat, w1c := 0x3F },
    { name := .pxIntEn, base := 0xC0104, scope := .seat, rw := 0x3F },
    { name := .pxCtl, base := 0xC0108, scope := .seat, rw := 0x7F },
    { name := .pxUse, base := 0xC010C, scope := .seat },
    { name := .pxArmed, base := 0xC0140, scope := .seat, n2 := 16, stride2 := 4 },
    { name := .pxOverride, base := 0xC0200, keeper := true, wo := 0x3FFFFFF },
    { name := .pxOverrideStatus, base := 0xC0204 },
    { name := .pxStage, base := 0xC0300, scope := .path, bytes := 40, rw := 2 ^ 320 - 1 },
    { name := .pxCmd, base := 0xC0330, scope := .path, wo := 0x7FFFFFF },
    { name := .pxCmdStatus, base := 0xC0334, scope := .path } ]

/-- Mate and rein. -/
def regsMa : List RegDesc :=
  [ { name := .mateCtl, base := 0xD0000, keeper := true, rw := 0xFF, reset := 0x83 },
    { name := .matePeer, base := 0xD0008, bytes := 8, keeper := true, rw := 0xFFFFFFFFFFFFFFFF },
    { name := .mateCmd, base := 0xD0010, keeper := true, rw := 3 },
    { name := .mateCmdStatus, base := 0xD0014 },
    { name := .mateStatus, base := 0xD0020 },
    { name := .mateTerm, base := 0xD0024 },
    { name := .mateLease, base := 0xD0028 },
    { name := .mateSeq, base := 0xD002C },
    { name := .mateLost, base := 0xD0030, bytes := 24 },
    { name := .mateUse, base := 0xD0050 },
    { name := .mateDelay, base := 0xD0054 },
    { name := .mateInt, base := 0xD0060, scope := .seat, w1c := 0x1FFF },
    { name := .mateIntEn, base := 0xD0064, scope := .seat, rw := 0x1FFF },
    { name := .matePageMir, base := 0xD0100, n2 := 124, stride2 := 4, keeper := true, rws := 0xFFFFFFFF, mir := 0xFFFFFFFF } ]

/-- Backplane and mate lanes. -/
def regsBl : List RegDesc :=
  [ { name := .blCfg, base := 0xE0000, cls := some 16, n := 32, stride := 0x100, rw := 0xFFFF1F04, rws := 3, mir := 3, reset := 0x50040000 },
    { name := .blTxEq, base := 0xE0004, cls := some 16, n := 32, stride := 0x100, rw := 0x1FFF, reset := 0x1062 },
    { name := .blStatus, base := 0xE0008, cls := some 16, n := 32, stride := 0x100 },
    { name := .blDelay, base := 0xE000C, cls := some 16, n := 32, stride := 0x100 },
    { name := .blCnt, base := 0xE0010, cls := some 16, n := 32, stride := 0x100, n2 := 7, stride2 := 4 },
    { name := .blCntClr, base := 0xE0030, cls := some 16, n := 32, stride := 0x100, wo := 1 },
    { name := .bpAuCfg, base := 0xE2000, cls := some 1000, n := 16, stride := 0x800, n2 := 64, stride2 := 4, rws := 0x1F, mir := 0x1F },
    { name := .bpSrqTx, base := 0xE2100, cls := some 1000, n := 16, stride := 0x800, n2 := 48, stride2 := 4, rw := 0x0F0F0F0F, mir := 0x0F0F0F0F },
    { name := .bpCopyCtl, base := 0xE2200, cls := some 1000, n := 16, stride := 0x800, rw := 3, mir := 3 },
    { name := .bpSrqBad, base := 0xE2204, cls := some 1000, n := 16, stride := 0x800 },
    { name := .bpSlotStatus, base := 0xE2400, cls := some 1000, n := 16, stride := 0x800, n2 := 192, stride2 := 4 },
    { name := .mlTxEq, base := 0xEC004, n := 4, stride := 0x100, s0only := true, rw := 0x1FFF, reset := 0x1062 },
    { name := .mlStatus, base := 0xEC008, n := 4, stride := 0x100, s0only := true },
    { name := .mlCnt, base := 0xEC010, n := 4, stride := 0x100, n2 := 7, stride2 := 4, s0only := true },
    { name := .mlLink, base := 0xEC400, s0only := true },
    { name := .bpInt, base := 0xEF000, scope := .seat, w1c := 0x1FF },
    { name := .bpIntEn, base := 0xEF004, scope := .seat, rw := 0x1FF } ]

/-- Fabric. -/
def regsFb : List RegDesc :=
  [ { name := .fabCtl, base := 0x100000, keeper := true, rw := 0x1E, rws := 1, mir := 1, reset := 0x1E },
    { name := .fabPageCtl, base := 0x100004, scope := .path, rw := 1 },
    { name := .fabPageStatus, base := 0x100010 },
    { name := .fabLastSwap, base := 0x100018, n2 := 2, stride2 := 8, bytes := 8 },
    { name := .fabNextSwap, base := 0x100028, n2 := 2, stride2 := 8, bytes := 8 },
    { name := .fabSeatUse, base := 0x100040, scope := .seat },
    { name := .fabLoUse, base := 0x100044 },
    { name := .fabRotStatus, base := 0x100100, n2 := 2, stride2 := 4 },
    { name := .fabRotNext, base := 0x100108, n2 := 2, stride2 := 4 },
    { name := .fabRotCmd, base := 0x100110, keeper := true, rw := 7 },
    { name := .fabTileStatus, base := 0x100200, n2 := 25, stride2 := 4 },
    { name := .fabTileStatusLo, base := 0x100280, n2 := 9, stride2 := 4 },
    { name := .fabInt, base := 0x100300, scope := .seat, w1c := 0xFF },
    { name := .fabIntEn, base := 0x100304, scope := .seat, rw := 0xFF } ]

/-- Camera. -/
def regsCa : List RegDesc :=
  [ { name := .crCfg, base := 0x400000, n := 2, stride := 0x100, keeper := true, rw := 0xFFFFFFFF, reset := 0x80E45DCE },
    { name := .crUdt, base := 0x400004, n := 2, stride := 0x100, keeper := true, rw := 0xFFFF, reset := 0x3130 },
    { name := .crStatus, base := 0x400008, n := 2, stride := 0x100 },
    { name := .crCnt, base := 0x400010, n := 2, stride := 0x100, n2 := 10, stride2 := 4 },
    { name := .camBind, base := 0x400800, n2 := 8, stride2 := 4, keeper := true, s0only := true, rw := 0x31 },
    { name := .camCfg, base := 0x410000, cls := some 144, n := 8, stride := 0x10000, rw := 0x7FF7F },
    { name := .camCtl, base := 0x410004, cls := some 144, n := 8, stride := 0x10000, rw := 7 },
    { name := .camGeom, base := 0x410008, cls := some 144, n := 8, stride := 0x10000, rw := 0x1FFF1FFF, reset := 0x04000500 },
    { name := .camTime, base := 0x41000C, cls := some 144, n := 8, stride := 0x10000, rw := 0xFFFFFF, reset := 0x320 },
    { name := .camStatus, base := 0x410010, cls := some 144, n := 8, stride := 0x10000 },
    { name := .camSeq, base := 0x410014, cls := some 144, n := 8, stride := 0x10000 },
    { name := .camLast, base := 0x410020, cls := some 144, n := 8, stride := 0x10000, bytes := 32 },
    { name := .camBank, base := 0x411000, cls := some 144, n := 8, stride := 0x10000, n2 := 1024, stride2 := 4, rw := 0xFFFFFFFF },
    { name := .camDefect, base := 0x412000, cls := some 144, n := 8, stride := 0x10000, n2 := 256, stride2 := 4, rw := 0x8FFF0FFF },
    { name := .camStats, base := 0x418000, cls := some 144, n := 8, stride := 0x10000, n2 := 1768, stride2 := 4 },
    { name := .tapCfg, base := 0x490000, cls := some 160, n := 6, stride := 0x40, rw := 0xFF7F },
    { name := .tapCrop0, base := 0x490004, cls := some 160, n := 6, stride := 0x40, rw := 0x1FFF1FFF },
    { name := .tapCrop1, base := 0x490008, cls := some 160, n := 6, stride := 0x40, rw := 0x1FFF1FFF },
    { name := .tapDrop, base := 0x49000C, cls := some 160, n := 6, stride := 0x40 },
    { name := .ciCfg, base := 0x4A0000, cls := some 198, n := 2, stride := 0x1000, rw := 0xFF03, reset := 0xA01 },
    { name := .ciCmd, base := 0x4A0004, cls := some 198, n := 2, stride := 0x1000, wo := 3 },
    { name := .ciStatus, base := 0x4A0008, cls := some 198, n := 2, stride := 0x1000 },
    { name := .ciJob, base := 0x4A0020, cls := some 198, n := 2, stride := 0x1000, scope := .path, bytes := 32, rw := 2 ^ 256 - 1 },
    { name := .ciRing, base := 0x4A0100, cls := some 198, n := 2, stride := 0x1000, n2 := 128, stride2 := 4 } ]
  ++ [ { name := .trigCfg, base := 0x4B0000, cls := some 200, n := 4, stride := 0x10, rw := 0xFFFF0001, reset := 0x07980001 },
    { name := .trigCount, base := 0x4B0004, cls := some 200, n := 4, stride := 0x10 },
    { name := .trigLast, base := 0x4B0008, cls := some 200, n := 4, stride := 0x10, bytes := 8 },
    { name := .camInt, base := 0x4F0000, scope := .seat, w1c := 0x7FFF },
    { name := .camIntEn, base := 0x4F0004, scope := .seat, rw := 0x7FFF } ]

/-- Scan. -/
def regsSc : List RegDesc :=
  [ { name := .scanCfg, base := 0x500000, rw := 0xFFFF, reset := 0x464 },
    { name := .scanJob, base := 0x500100, scope := .path, bytes := 64, rw := 2 ^ 512 - 1 },
    { name := .scanCmd, base := 0x500140, scope := .path, wo := 0xFFFF0003 },
    { name := .scanStatus, base := 0x500144, scope := .path },
    { name := .scanRetry, base := 0x500148, bytes := 8 },
    { name := .scanUse, base := 0x500150, scope := .seat },
    { name := .scanDonePtr, base := 0x500154, scope := .seat },
    { name := .scanCnt, base := 0x500158, scope := .seat },
    { name := .scanDone, base := 0x500200, scope := .seat, n2 := 384, stride2 := 4 },
    { name := .scanUnitStatus, base := 0x500800 },
    { name := .scanBistCmd, base := 0x500810, keeper := true, rw := 1 },
    { name := .scanInt, base := 0x500F00, scope := .seat, w1c := 0x1F },
    { name := .scanIntEn, base := 0x500F04, scope := .seat, rw := 0x1F },
    { name := .scanPortwin, base := 0x501000, n := 128, stride := 0x10, n2 := 3, stride2 := 4, keeper := true, s0only := true, rw := 0xFFFFFFFF },
    { name := .lantCfg, base := 0x502000, cls := some 152, n := 8, stride := 0x10, n2 := 4, stride2 := 4, keeper := true, rw := 0xFFFFFFFF } ]

/-- Radio. -/
def regsRa : List RegDesc :=
  [ { name := .radioCfg, base := 0x600000, rw := 0x7FFFFFF, reset := 0x05000088 },
    { name := .radioChan, base := 0x600004, rw := 0xFFFF, reset := 0xB },
    { name := .radioPan, base := 0x600008, rw := 0xFFFFFFFF, reset := 0xFFFEFFFF },
    { name := .radioExt, base := 0x600010, bytes := 8, rw := 0xFFFFFFFFFFFFFFFF },
    { name := .radioPhy, base := 0x600018, keeper := true, rw := 0xFFFFFF, reset := 4 },
    { name := .radioSlot, base := 0x60001C, rw := 0x3FFFFFFF, reset := 0x15555555 },
    { name := .radioSec, base := 0x600020, rw := 0xF77777, reset := 0x55552 },
    { name := .radioTrk, base := 0x600024, rw := 0x3FFFFFF, reset := 0x01900528 },
    { name := .radioFlood, base := 0x600028, rw := 0xFFFF1FFF, reset := 0x080007D0 },
    { name := .radioFcOut, base := 0x600030, rw := 0xFFFFFFFF },
    { name := .radioStat, base := 0x600034 },
    { name := .radioBudget, base := 0x600040, n2 := 3, stride2 := 4, keeper := true, rw := 0x3FFFFF },
    { name := .radioHwres, base := 0x600050, n2 := 3, stride2 := 4, keeper := true, rw := 0x3FFFFF },
    { name := .radioBandUse, base := 0x600060, n2 := 3, stride2 := 4 },
    { name := .radioSeatUse, base := 0x600070, scope := .seat },
    { name := .radioSeatCtl, base := 0x600074, scope := .seat, rw := 1 },
    { name := .radioKey, base := 0x600100, n2 := 16, stride2 := 16, bytes := 16 },
    { name := .radioKcv, base := 0x600200, n2 := 16, stride2 := 4 },
    { name := .radioPortmap, base := 0x600300, n2 := 16, stride2 := 8, bytes := 8, keeper := true, rw := 0x8000000FFFFFFFFF },
    { name := .radioTxd, base := 0x600400, scope := .path, bytes := 32, rw := 2 ^ 256 - 1 },
    { name := .radioCmd, base := 0x600480, scope := .path, wo := 0xFFFF0003 },
    { name := .radioStatus, base := 0x600484, scope := .path },
    { name := .radioLegal, base := 0x600488, scope := .path, bytes := 8 },
    { name := .radioRetry, base := 0x600490, bytes := 8 } ]
  ++ [ { name := .radioBistCmd, base := 0x600498, keeper := true, rw := 1 },
    { name := .radioCnt, base := 0x600500, n2 := 18, stride2 := 4 },
    { name := .radioInt, base := 0x600F00, scope := .seat, w1c := 0xFF },
    { name := .radioIntEn, base := 0x600F04, scope := .seat, rw := 0xFF },
    { name := .radioTxdone, base := 0x601000, scope := .seat, n2 := 64, stride2 := 4 },
    { name := .radioTxdoneIdx, base := 0x601100, scope := .seat },
    { name := .radioNbr, base := 0x604000, n2 := 512, stride2 := 32, bytes := 32 } ]

/-- Monitor. -/
def regsMo : List RegDesc :=
  [ { name := .monCfg, base := 0x700000, cls := some 174, n := 24, stride := 0x40, rw := 0x1F1FFF, wo := 0x1000000 },
    { name := .monGain, base := 0x700004, cls := some 174, n := 24, stride := 0x40, rw := 0xFFFFFFFF, reset := 0x100000 },
    { name := .monOffset, base := 0x700008, cls := some 174, n := 24, stride := 0x40, rw := 0xFFFFFFFF },
    { name := .monThaLevel, base := 0x70000C, cls := some 174, n := 24, stride := 0x40, rw := 0xFFFFFFFF },
    { name := .monThaCtl, base := 0x700010, cls := some 174, n := 24, stride := 0x40, rw := 0xFFFFFF03, reset := 0x800 },
    { name := .monThbLevel, base := 0x700014, cls := some 174, n := 24, stride := 0x40, rw := 0xFFFFFFFF },
    { name := .monThbCtl, base := 0x700018, cls := some 174, n := 24, stride := 0x40, rw := 0xFFFFFF03, reset := 0x800 },
    { name := .monThState, base := 0x70001C, cls := some 174, n := 24, stride := 0x40 },
    { name := .monOut, base := 0x700020, cls := some 174, n := 24, stride := 0x40, bytes := 16 },
    { name := .monOutPrev, base := 0x700030, cls := some 174, n := 24, stride := 0x40, bytes := 16 },
    { name := .monTherm, base := 0x700800, bytes := 8, keeper := true, rw := 0xFFFFFFFFFFFFFFFF, reset := 0x0820073006C00640 },
    { name := .monThermState, base := 0x700808 },
    { name := .monShedCtl, base := 0x70080C, keeper := true, rw := 7 },
    { name := .monCal, base := 0x700810 },
    { name := .monOutDrop, base := 0x700820, scope := .seat },
    { name := .monEvtA, base := 0x700900, scope := .seat, w1c := 0xFFFFFF },
    { name := .monEvtB, base := 0x700904, scope := .seat, w1c := 0xFFFFFF },
    { name := .monInt, base := 0x700F00, scope := .seat, w1c := 0x3F },
    { name := .monIntEn, base := 0x700F04, scope := .seat, rw := 0x3F } ]

/-- Faults. -/
def regsFc : List RegDesc :=
  [ { name := .fcSrc, base := 0x780000, n2 := 412, stride2 := 4, keeper := true, rw := 7 },
    { name := .fcSevAct, base := 0x780800, n2 := 8, stride2 := 4, keeper := true, rw := 0x1F },
    { name := .fcFirst, base := 0x780900, bytes := 16, s0only := true },
    { name := .fcFirstClr, base := 0x780910, keeper := true, wo := 0x800001FF },
    { name := .fcClrStatus, base := 0x780914 },
    { name := .fcCount, base := 0x780918 },
    { name := .fcInject, base := 0x780920, keeper := true, rw := 0xB1FF, reset := 0x8000 },
    { name := .fcSeatCause, base := 0x780A00, scope := .seat, n2 := 13, stride2 := 4, w1c := 0xFFFFFFFF },
    { name := .fcSeatEn, base := 0x780A40, scope := .seat, n2 := 13, stride2 := 4, rw := 0xFFFFFFFF },
    { name := .fcAlive, base := 0x780B00 },
    { name := .fcAliveStop, base := 0x780B08, bytes := 8 } ]

/-- Ledger. -/
def regsLe : List RegDesc :=
  [ { name := .ledgerStatus, base := 0x7C0000 },
    { name := .ledgerHead, base := 0x7C0004 },
    { name := .ledgerChain, base := 0x7C0008 },
    { name := .ledgerLost, base := 0x7C000C },
    { name := .ledgerSpillCtl, base := 0x7C0010, keeper := true, rw := 0x1F03, reset := 0xB00 },
    { name := .ledgerSpillBase, base := 0x7C0018, bytes := 8, keeper := true, rw := 0xFFFFFFFFFFFFF000 },
    { name := .ledgerSpillStatusAddr, base := 0x7C0020, bytes := 8, keeper := true, rw := 0xFFFFFFFFFFFFFFF8 },
    { name := .ledgerSpillCons, base := 0x7C0028, keeper := true, rw := 0xFFFFFFFF },
    { name := .ledgerSpillProd, base := 0x7C002C },
    { name := .ledgerInt, base := 0x7C0030, w1c := 0x1F },
    { name := .ledgerIntEn, base := 0x7C0034, rw := 0x1F },
    { name := .ledgerKey, base := 0x7C0040, n2 := 8, stride2 := 4, keeper := true },
    { name := .ledgerViewBase, base := 0x7C0080, scope := .path, rw := 0xFFFFFFFF },
    { name := .ledgerView, base := 0x7C1000, scope := .path, n2 := 1024, stride2 := 4 } ]

/-- The registers of the block that holds an offset (the Seat window map of the index). -/
def regBlock (off : Nat) : List RegDesc :=
  if off < 0x1000 then regsSys
  else if off < 0x10000 then regsLt
  else if off < 0x20000 then regsMap
  else if off < 0x40000 then regsHd
  else if off < 0x80000 then regsSt
  else if off < 0xC0000 then regsLp
  else if off < 0xD0000 then regsPr
  else if off < 0xE0000 then regsMa
  else if off < 0x100000 then regsBl
  else if off < 0x200000 then regsFb
  else if off < 0x400000 then []
  else if off < 0x500000 then regsCa
  else if off < 0x600000 then regsSc
  else if off < 0x700000 then regsRa
  else if off < 0x780000 then regsMo
  else if off < 0x7C0000 then regsFc
  else if off < 0x800000 then regsLe
  else []

/-- Where an offset lies: the register, its two indices and the 32-bit word of it. -/
structure RegLoc where
  desc : RegDesc
  i : Nat
  j : Nat
  word : Nat
deriving Repr

/-- The place of an offset in one register array. -/
def RegDesc.locate (d : RegDesc) (off : Nat) : Option RegLoc :=
  if off < d.base then none
  else
    let r := off - d.base
    let i := if d.n = 1 then 0 else r / d.stride
    let r1 := r - i * d.stride
    let j := if d.n2 = 1 then 0 else r1 / d.stride2
    let r2 := r1 - j * d.stride2
    if i < d.n ∧ j < d.n2 ∧ r2 < d.bytes then some ⟨d, i, j, r2 / 4⟩ else none

/-- The register that holds a word-aligned offset; none for a reserved offset (R8, R504). -/
def regLocate (off : Nat) : Option RegLoc := (regBlock off).findSome? (fun d => d.locate off)

/-- The offset of register (i, j) of an array. -/
def RegDesc.offset (d : RegDesc) (i j : Nat) : Nat := d.base + i * d.stride + j * d.stride2

end Sys2Proof.Machine
end

