-- ==== Sys2Proof/Machine/State/Book.lean ====
section
/-!
DEFINITION. The accounts of the chapter "Books, Contention and Combinations" (R483 to R502) that no other block keeps: current
tokens held, outcomes counted, overcommitment.
-/
namespace Sys2Proof.Machine

open Sys2Proof

/-- The books. -/
structure BookState where
  /-- Current tokens held by each Seat, and by hardware frames (R495), reset 0. -/
  held : Tab Nat
  hwHeld : Nat
  /-- BOOK_OUTCOMES: counter k of Seat n at 16 n + k (R486), reset 0. -/
  outcomes : Tab Nat
  /-- BOOK_OVERCOMMIT (R491), reset 0. -/
  overcommit : Nat
deriving DecidableEq, Repr

/-- The books at reset. -/
def BookState.reset : BookState := ⟨[], 0, [], 0⟩

end Sys2Proof.Machine
end

