-- ==== Sys2Proof/Machine/State/Camera.lean ====
section
/-!
DEFINITION. State of the camera pipeline (chapter "The Camera Pipeline", R350 to R376). Configuration words are in the register
store.
-/
namespace Sys2Proof.Machine

open Sys2Proof

/-- A CSI-2 receiver (R350, R351). -/
structure CamRx where
  deskewOk : Bool
  hsActive : Bool
  clkHs : Bool
  /-- SOT_CORR to OUTSIDE, by index 0 to 9; the values shown since the last flip, CR_STATUS at 10. -/
  cnt : Tab Nat
  view : Tab Nat
deriving DecidableEq, Repr

/-- A receiver at reset. -/
def CamRx.reset : CamRx := ⟨false, false, false, [], []⟩

/-- An open frame with what it latched at its FS (R359, R367). -/
structure CamFrame where
  seq : Nat
  /-- CSI-2 frame number of the FS. -/
  num : Nat
  bank : Nat
  frame : Nat
  phase : Nat
  /-- Frame boundaries that had occurred at the FS (FRAME_TO counts frames, R501). -/
  bound : Nat
  flags : Nat
  /-- The bank's 256 words by index, the valid defects (x, y), CAM_CFG, CAM_GEOM and CAM_TIME, as latched. -/
  words : Tab Nat
  defects : List (Nat × Nat)
  cfg : Nat
  geom : Nat
  time : Nat
  /-- Taps of this camera that take the frame: tap, TAP_CFG, TAP_CROP0, TAP_CROP1. -/
  taps : List (Nat × Nat × Nat × Nat)
  /-- Lines of WIDTH pixels, newest first; none is a padding pixel (R360). -/
  lines : List (List (Option Nat))
  /-- Pixel lines received; lines padded, cut or fragmented. -/
  count : Nat
  adjusted : Nat
  /-- Embedded payloads, oldest first. -/
  embedded : List (List Byte)
deriving DecidableEq, Repr

/-- A completed tagged job that waits for the FS that follows it (R371). -/
structure AmbigWait where
  master : Nat
  record : Nat
  pos : Nat
  due : Nat
deriving DecidableEq, Repr

/-- A camera. -/
structure Camera where
  /-- CAM_SEQ. -/
  seq : Nat
  cur : Option CamFrame
  /-- BANK_ACTIVE; CAM_CTL.BANK has been written since the previous FS (R370). -/
  bank : Nat
  bankWritten : Bool
  /-- Switches: SEQ at which due and bank, oldest completion first. -/
  switches : List (Nat × Nat)
  ambigWait : List AmbigWait
  ambigSeqs : List Nat
  /-- A long packet has come outside a frame (R357). -/
  orphan : Bool
  /-- CAM_LAST, 32 bytes. -/
  last : Nat
  /-- DEF_ORDER, DEF_COUNT, STAT_DROP of CAM_STATUS. -/
  defOrder : Bool
  defCount : Nat
  statDrop : Nat
  /-- The statistics set shown, the set that flips next, the sets in the stream, as bytes (R373). -/
  stats : List Nat
  statsNext : Option (List Nat)
  stream : List (List Nat)
  /-- The frame that was closed and whose scan plane is not complete; the last scan plane by rows (R366). -/
  closing : Option CamFrame
  plane : List (List Nat)
  planeSeq : Nat
deriving DecidableEq, Repr

/-- A camera at reset. -/
def Camera.reset : Camera :=
  { seq := 0, cur := none, bank := 0, bankWritten := false, switches := [], ambigWait := [], ambigSeqs := []
    orphan := false, last := 0, defOrder := false, defCount := 0, statDrop := 0, stats := [], statsNext := none
    stream := [], closing := none, plane := [], planeSeq := 0 }

/-- A tap (R374, R375). -/
structure CamTap where
  /-- Frames still to be skipped under DECIM. -/
  skip : Nat
  buf : List Byte
  drop : Nat
deriving DecidableEq, Repr

/-- A tap at reset. -/
def CamTap.reset : CamTap := ⟨0, [], 0⟩

/-- A queued I²C job (R369). -/
structure I2cJob where
  /-- Job ID, and the Seat that submitted it. -/
  ident : Nat
  seat : Nat
  /-- The 32 bytes of the layout. -/
  body : Nat
  /-- Physical camera when TAGGED. -/
  cam : Nat
  /-- START_FRAME as a frame count; it was past at submission. -/
  start : Nat
  late : Bool
deriving DecidableEq, Repr

/-- A camera I²C master. -/
structure CamI2c where
  queue : List I2cJob
  running : Option I2cJob
  nextId : Nat
  /-- CI_STATUS: OUTCOME, job ID; completion ring by index; next record index. -/
  outcome : Nat
  ident : Nat
  ring : Tab Nat
  next : Nat
deriving DecidableEq, Repr

/-- A master at reset. -/
def CamI2c.reset : CamI2c := ⟨[], none, 0, 0, 0, [], 0⟩

/-- A camera trigger (R376). -/
structure CamTrig where
  /-- Requested pulses: position of the active edge and width. -/
  due : List (Nat × Nat)
  active : Bool
  /-- Position at which the pin returns. -/
  until_ : Nat
  count : Nat
  merge : Nat
  held : Nat
  lastFrame : Nat
  lastPhase : Nat
deriving DecidableEq, Repr

/-- A trigger at reset. -/
def CamTrig.reset : CamTrig := ⟨[], false, 0, 0, 0, 0, 0, 0⟩

/-- The camera block, all by physical number. -/
structure CamState where
  rx : Tab CamRx
  cams : Tab Camera
  taps : Tab CamTap
  i2c : Tab CamI2c
  trigs : Tab CamTrig
  /-- As of the last flip: CAM_STATUS of camera c at c, CAM_SEQ at 8 + c, TAP_DROP of tap t at 16 + t, TRIG_COUNT of trigger t at 24 + t. -/
  view : Tab Nat
deriving DecidableEq, Repr

/-- The block at reset. -/
def CamState.reset : CamState := ⟨[], [], [], [], [], []⟩

end Sys2Proof.Machine
end

