-- ==== Sys2Proof/Machine/State/Slots.lean ====
section
/-!
DEFINITION. What a slot or a tributary carries in one frame of the fabric's grid, and what an output takes it from (chapters "The Slot Fabric", R252
to R257, and "Line Ports and Framing", R226, R227, R231).
-/
namespace Sys2Proof.Machine

open Sys2Proof

/-- The one source of an output slot or tributary (R255 to R257): the AIS generator, by the page or by the UNBUCKLED override; the unequipped
generator; a VC that the fabric builds; an input slot; a tributary of an input slot; a GFP-F channel (R230). -/
inductive SlotSource where
  | ais (unbuckled : Bool)
  | uneq
  | carrier
  | input (x : Nat)
  | trib (x j : Nat)
  | mapped (c : Nat)
deriving DecidableEq, Repr

/-- The overhead of a VC that the part builds (R231, R256): C2, B3, H4; J1 and G1 are 0. -/
structure PathOh where
  c2 : Nat
  b3 : Nat
  h4 : Nat
deriving DecidableEq, Repr

/-- A tributary in one frame: positions received, all ones, every byte 0, or nothing that the spec states. -/
inductive TribContent where
  | cells (l : List Cell)
  | ais
  | uneq
  | unstated
deriving DecidableEq, Repr

/-- A tributary as it is sent: its V1/V2 word in force and its positions (R227). -/
structure TribSent where
  word : Nat
  body : TribContent
deriving DecidableEq, Repr

/-- A slot in one frame: positions received; all ones; an unequipped VC; nothing that the spec states; a slot of a VC built by the fabric, with its
overhead in the head slot, whether it is a VC-4, its TU type's tributaries and the phase of the TU multiframe; slot `place` of a container of `width` slots that a GFP-F channel fills. -/
inductive Content where
  | cells (l : List Cell)
  | ais
  | uneq
  | unstated
  | carrier (oh : Option PathOh) (vc4 : Bool) (quarter : Nat) (tribs : List TribSent)
  | mapped (oh : PathOh) (width place : Nat) (octets : List Byte)
deriving DecidableEq, Repr

/-- A slot as it is sent: its H1/H2 word and its content. -/
structure SlotSent where
  word : Nat
  body : Content
deriving DecidableEq, Repr

end Sys2Proof.Machine
end

