-- ==== Sys2Proof/Machine/State/Line.lean ====
section
/-!
DEFINITION. State of the line ports, their pointer processors, the GFP-F channels and the DCC buffers (chapter "Line Ports
and Framing", R211 to R236).
-/
namespace Sys2Proof.Machine

open Sys2Proof

/-- Framer states, coded as LP_STATUS.FRAMER (R215). -/
inductive Framer where
  | hunt | presync | sync
deriving DecidableEq, Repr

/-- Pointer interpreter states, coded as LP_AU_STATUS.PTR (R224). -/
inductive PtrMode where
  | norm | ais | lop
deriving DecidableEq, Repr

/-- A pointer interpreter of one AU or TU (R224). -/
structure PtrInterp where
  mode : PtrMode
  /-- The current offset. -/
  offset : Nat
  /-- The last valid pointer received and how many times in a row. -/
  cand : Nat
  candRun : Nat
  /-- Runs of invalid pointers, of NDF enabled, of all-ones. -/
  invRun : Nat
  ndfRun : Nat
  onesRun : Nat
  /-- Frames since the last change of offset, saturating at 3. -/
  since : Nat
  /-- Signal label 0x00 (R226). -/
  uneq : Bool
  /-- For a continuation slot: runs of other values and of concatenation indications, and LOPC (R224). -/
  concBad : Nat
  concGood : Nat
  lopc : Bool
deriving DecidableEq, Repr

/-- An interpreter at reset: AIS (LP_AU_STATUS.PTR reset 1). -/
def PtrInterp.reset : PtrInterp := ⟨.ais, 0, 0, 0, 0, 0, 0, 0, false, 0, 0, false⟩

/-- The TU multiframe count of one carrier (R225). -/
structure MfCount where
  /-- H4 bits 7-8 expected next; none before the first. -/
  expect : Option Nat
  bad : Nat
  good : Nat
  oom : Bool
  /-- Consecutive frames with OOM, without OOM; LOM. -/
  oomRun : Nat
  okRun : Nat
  lom : Bool
deriving DecidableEq, Repr

/-- A carrier with no multiframe count. -/
def MfCount.reset : MfCount := ⟨none, 0, 0, false, 0, 0, false⟩

/-- A pointer generator and its elastic store (R228). -/
structure PtrGen where
  /-- Fill in adjustment units, 0 to 16. -/
  fill : Nat
  /-- Transmitted offset. -/
  offset : Nat
  /-- Frames (multiframes for a TU) since the last justification, saturating at 4. -/
  since : Nat
  /-- What was last sent: 0 normal, 1 increment, 2 decrement, 3 NDF, 4 all-ones. -/
  sent : Nat
  /-- The source it took the VC from. -/
  src : SlotSource
deriving DecidableEq, Repr

/-- A generator at reset: fill 8, all ones from the AIS generator. -/
def PtrGen.reset : PtrGen := ⟨8, 0, 4, 4, .ais false⟩

/-- A B2 detector window, of SD or of EXC (R223). -/
structure B2Window where
  /-- Frame at which the window started and the exponent it runs with; none before the first tick. -/
  start : Option Nat
  expo : Nat
  /-- Errored bits counted in the window; LOF was declared in it. -/
  count : Nat
  sawLof : Bool
  /-- SD or EXC declared. -/
  declared : Bool
  /-- The window ends at the next tick boundary. -/
  ends : Bool
deriving DecidableEq, Repr

/-- A window that has not started. -/
def B2Window.reset : B2Window := ⟨none, 0, 0, false, false, false⟩

/-- The last transmitted line frame (R214, R219, R221, R227, R235). E1, F1, E2, H3 and every byte not named are 0. -/
structure TxFrame where
  /-- 0 idle, 1 MS-AIS, 2 path AIS in every slot, 3 fabric output (R64, R75). -/
  kind : Nat
  j0 : Nat
  k1 : Nat
  k2 : Nat
  s1 : Nat
  m1 : Nat
  /-- B1 and the B2 bytes (R219). -/
  b1 : Nat
  b2 : List Nat
  /-- D1-D3 and D4-D12. -/
  dccS : List Byte
  dccL : List Byte
  /-- The slots in order. -/
  slots : List SlotSent
deriving DecidableEq, Repr

/-- An idle transmitter. -/
def TxFrame.idle : TxFrame := ⟨0, 0, 0, 0, 0, 0, 0, [], [], [], []⟩

/-- A line port (R211 to R236). -/
structure LinePort where
  framer : Framer
  /-- Candidate bit positions in the order found, at most 4; in SYNC the frame position. -/
  cands : List Nat
  /-- Consecutive errored patterns in SYNC. -/
  errRun : Nat
  /-- LOS; the clock recovery is locked (R216). -/
  los : Bool
  cdrLock : Bool
  /-- In this LT frame the framer has been in SYNC, out of SYNC (R217). -/
  wasIn : Bool
  wasOut : Bool
  /-- Consecutive LT frames out of SYNC throughout, in SYNC throughout; LOF. -/
  outRun : Nat
  inRun : Nat
  lof : Bool
  /-- K1/K2: value last received, run, frames without acceptance, accepted values, K_INCONS (R219). -/
  kCand : Nat
  kRun : Nat
  kNone : Nat
  k1 : Nat
  k2 : Nat
  kIncons : Bool
  /-- S1: value last received, run, accepted value. -/
  s1Cand : Nat
  s1Run : Nat
  s1 : Nat
  /-- MS-AIS and MS-RDI: runs of frames with and without the code, declared. -/
  aisRun : Nat
  aisClr : Nat
  msAis : Bool
  rdiRun : Nat
  rdiClr : Nat
  msRdi : Bool
  /-- J0: bytes since the last trace start, the last whole trace and its run, the accepted trace (R220). -/
  j0Buf : List Nat
  j0Cand : List Nat
  j0Run : Nat
  j0 : List Nat
  tim : Bool
  /-- A trace has been accepted. -/
  j0Seen : Bool
  /-- E1, F1, E2 captured (R219). -/
  cap : Nat
  /-- SD and EXC detectors (R223). -/
  sdWin : B2Window
  excWin : B2Window
  /-- B2 bits in error in the last frame received in SYNC (R221). -/
  lastB2 : Nat
  /-- Interpreters by slot and by TU index, multiframe counts by carrier slot, generators by slot and 1000 + TU index. -/
  au : Tab PtrInterp
  tu : Tab PtrInterp
  mf : Tab MfCount
  gens : Tab PtrGen
  /-- PTR_BEYOND and the frame of the last jump (R229). -/
  beyond : Bool
  jumpFrame : Nat
  /-- Slots and TUs received in the LT frame in progress, and those of the input frame completed at the last boundary; whether what is not listed
  there is in AIS; the last offset of each TU's start marker (R226, R252). -/
  rxSlots : Tab Content
  rxTribs : Tab TribContent
  inSlots : Tab Content
  inTribs : Tab TribContent
  inDark : Bool
  tribMarks : Tab Nat
  /-- TXMON_FAIL; the monitor's framer, LT frames sent since the transmitter left idle, up to 8, and clean frames in SYNC, up to 16 (R236). -/
  txFail : Bool
  monitor : Framer
  monAge : Nat
  txClean : Nat
  /-- The 16 counters as they count, and the request to clear them at the next flip (R499). -/
  cnt : Tab Nat
  cntClr : Bool
  /-- What LP_STATUS, LP_OH_RX, LP_OH_CAP, the counters, LP_AU_STATUS and LP_TU_STATUS show since the last flip, by
  register offset. -/
  view : Tab Nat
  /-- DCC buffers: section receive, line receive, section transmit, line transmit; oldest byte first (R235). -/
  dccSRx : List Byte
  dccLRx : List Byte
  dccSTx : List Byte
  dccLTx : List Byte
  /-- The last frame sent; the parities over it that the next one carries in B1 and B2 (R219). -/
  tx : TxFrame
  nextB1 : Nat
  nextB2 : List Nat
  /-- SF and SD as given to the protection block at the last boundary (R222). -/
  sfOut : Bool
  sdOut : Bool
deriving DecidableEq, Repr

/-- A port at reset: LOS, OOF and LOF declared. -/
def LinePort.reset : LinePort :=
  { framer := .hunt, cands := [], errRun := 0, los := true, cdrLock := false, wasIn := false, wasOut := true
    outRun := 0, inRun := 0, lof := true, kCand := 0, kRun := 0, kNone := 0, k1 := 0, k2 := 0, kIncons := false
    s1Cand := 0, s1Run := 0, s1 := 0, aisRun := 0, aisClr := 0, msAis := false, rdiRun := 0, rdiClr := 0
    msRdi := false, j0Buf := [], j0Cand := [], j0Run := 0, j0 := [], tim := false, j0Seen := false, cap := 0, sdWin := .reset
    excWin := .reset, lastB2 := 0, au := [], tu := [], mf := [], gens := [], beyond := false, jumpFrame := 0
    rxSlots := [], rxTribs := [], inSlots := [], inTribs := [], inDark := true, tribMarks := []
    txFail := false, monitor := .hunt, monAge := 0, txClean := 0, cnt := [], cntClr := false, view := [], dccSRx := [], dccLRx := [], dccSTx := [], dccLTx := []
    tx := .idle, nextB1 := 0, nextB2 := [], sfOut := true, sdOut := false }

/-- GFP-F delineation states, coded as GFP_STATUS.DELIN (R232). -/
inductive Delin where
  | hunt | presync | sync
deriving DecidableEq, Repr

/-- A GFP-F mapper channel (R230 to R234). -/
structure GfpChan where
  delin : Delin
  plm : Bool
  /-- Receive buffer (16 KiB of records) and transmit buffer, oldest byte first. -/
  rx : List Byte
  tx : List Byte
  /-- RX_FRAMES to TX_IDLE, by index 0 to 6. -/
  cnt : Tab Nat
  /-- GFP_STATUS and the counters as of the last flip, by register offset. -/
  view : Tab Nat
  /-- The last client frame sent: PTI, PFI, UPI, payload. -/
  lastTx : List Byte
  /-- Octets of frames put together and not yet in a container, and the state of the scrambler 1 + x^43 (R231). -/
  out : List Byte
  scr : Nat
deriving DecidableEq, Repr

/-- A channel at reset. -/
def GfpChan.reset : GfpChan := ⟨.hunt, false, [], [], [], [], [], [], 0⟩

/-- The line block. -/
structure LineState where
  /-- Ports by physical number, 0 to 15. -/
  ports : Tab LinePort
  /-- GFP-F channels by physical number, 0 to 7. -/
  gfp : Tab GfpChan
deriving DecidableEq, Repr

/-- The line block at reset. -/
def LineState.reset : LineState := ⟨[], []⟩

end Sys2Proof.Machine
end

