-- ==== Sys2Proof/Machine/State/Dunte.lean ====
section
/-!
DEFINITION. State of the backplane and mate lanes (chapter "Dunte Backplane and Mate Links", R322 to R349).
-/
namespace Sys2Proof.Machine

open Sys2Proof

/-- Transmitter states, coded as BL_STATUS.TX (R336). -/
inductive LaneTx where
  | idle | train | run
deriving DecidableEq, Repr

/-- A backplane lane or a mate lane. -/
structure Lane where
  /-- The receiver has code lock (v1) or block lock (v2): it is not DOWN (R337). -/
  locked : Bool
  /-- Frame alignment, candidates and the run of missed marks (R333). -/
  framer : Framer
  cands : List Nat
  errRun : Nat
  /-- Consecutive valid headers in SYNC whose GEN matches, saturating at 2; RXOK reached (R337). -/
  goodHdr : Nat
  rxok : Bool
  /-- The last valid header (R333). -/
  hdr : Option DunteHeader
  /-- Consecutive valid headers with RXOK = 1, saturating at 2; PEER_RXOK (R336). -/
  peerRun : Nat
  peerRxok : Bool
  /-- Every valid header of this cycle showed RXOK, and one was received (R346). -/
  cycleOk : Bool
  cycleSeen : Bool
  /-- PHASE_ERR and the consecutive frames in window since (R334). -/
  phaseErr : Bool
  phaseOkRun : Nat
  /-- CNT_MM (R335). -/
  cntMm : Bool
  /-- Errored frames in the 800-frame window; a frame not in RX_RUN was in it; it ends at the next window start (R342, R501). -/
  winErr : Nat
  winBad : Bool
  winEnds : Bool
  sd : Bool
  exc : Bool
  /-- Transmitter state; frame at which it left IDLE; frame at which RXOK was accepted, 0 for none (R336). -/
  tx : LaneTx
  leftIdle : Nat
  accepted : Option Nat
  /-- TXMON_FAIL; the monitor's framer, LT frames sent since the transmitter left IDLE, up to 8, and clean frames in SYNC, up to 16 (R345). -/
  txFail : Bool
  monitor : Framer
  monAge : Nat
  txClean : Nat
  /-- One-way delay and arrival phase of the last mark (R335). -/
  delay : Nat
  arrival : Nat
  /-- CV, CRC_ERR, HDR_ERR, SBIP_ERR, SLIPS, DOWN_EVENTS, TRAIN_TO by index 0 to 6; a clear is due at the next flip. -/
  cnt : Tab Nat
  cntClr : Bool
  /-- The header of the last frame sent, and its slots' words, SAW in bits 7-0 and SRQ in bits 15-8, by pair slot. -/
  sent : Option DunteHeader
  sentSlots : Tab Nat
  /-- Its slots' H1/H2 and content, by pair slot; the parities over them that the next frame carries in SBIP (R331). -/
  sentCells : Tab SlotSent
  nextSbip : Tab Nat
  /-- Running disparity of v1, true when positive, and scrambler state of v2, after that frame (R326, R327). -/
  disparity : Bool
  scr : Nat
  /-- On a mate lane, the bytes of the message area of the last frame sent, idle units at its end left out (R330, R346). -/
  sentArea : List Nat
  /-- BL_STATUS, BL_DELAY and the counters as of the last flip, by register offset. -/
  view : Tab Nat
deriving DecidableEq, Repr

/-- A lane at reset: DOWN, IDLE. -/
def Lane.reset : Lane :=
  { locked := false, framer := .hunt, cands := [], errRun := 0, goodHdr := 0, rxok := false, hdr := none
    peerRun := 0, peerRxok := false, cycleOk := true, cycleSeen := false, phaseErr := false, phaseOkRun := 0
    cntMm := false, winErr := 0, winBad := true, winEnds := false, sd := false, exc := false, tx := .idle, leftIdle := 0
    accepted := none, txFail := false, monitor := .hunt, monAge := 0, txClean := 0, delay := 0, arrival := 0, cnt := [], cntClr := false
    sent := none, sentSlots := [], sentCells := [], nextSbip := [], disparity := false, scr := 0, sentArea := [], view := [] }

/-- What a receiver keeps for one slot of one lane: the pointer interpreter, SAW and SRQ (R340). -/
structure LaneSlot where
  ptr : PtrInterp
  /-- SAW in bits 7-0, SRQ in bits 15-8: last value and its run; the accepted words. -/
  cand : Nat
  run : Nat
  saw : Nat
  srq : Nat
deriving DecidableEq, Repr

/-- A slot at reset. -/
def LaneSlot.reset : LaneSlot := ⟨.reset, 0, 0, 0, 0⟩

/-- An accepted change of a switch-request word that acts at this boundary (R283, R340). -/
structure SrqChange where
  pair : Nat
  slot : Nat
  code : Nat
deriving DecidableEq, Repr

/-- The message area of a mate lane's frame as received (R346). -/
structure RxArea where
  lane : Nat
  errored : Bool
  area : List Nat
deriving DecidableEq, Repr

/-- The Dunte block. -/
structure DunteState where
  /-- Lanes by physical number, mate lane m at 32 + m. -/
  lanes : Tab Lane
  /-- Slots by 192·lane + pair slot. -/
  slots : Tab LaneSlot
  /-- Slots (192·lane + pair slot) and TUs (8192·lane + 84·group + place) received in the LT frame in progress, those of the input frame in progress,
  those of the input frame completed at the last boundary; what is not listed is AIS. The last offset of each TU's start marker (R334, R252). -/
  rxSlots : Tab Content
  rxTribs : Tab TribContent
  midSlots : Tab Content
  midTribs : Tab TribContent
  inSlots : Tab Content
  inTribs : Tab TribContent
  tribMarks : Tab Nat
  /-- The copy in use of pair slot 192·Q + s (true: odd lane), and the copy decided at the last boundary (R344). -/
  copy : Tab Bool
  copyNext : Tab Bool
  /-- SRQ_BAD by pair (R340). -/
  srqBad : Tab Nat
  /-- Changes of accepted SRQ words that the next boundary acts on, oldest first. -/
  srqDue : List SrqChange
  /-- Stripe sent and stripe received: bit per mate lane (R346). -/
  stripeTx : Nat
  stripeRx : Nat
  /-- The units of the mate stream in the frame being sent and the frame boundary since reset that it was put together for; the units of the message
  in progress that the next frame carries on with (R347). -/
  txUnits : List (List Nat)
  txAt : Nat
  txRest : List (List Nat)
  /-- FRAME of the mate frame being received, the areas of its lanes so far, whether its stream has been taken; the message in progress, none while
  reassembly waits for FIRST; the messages completed in the last frame taken (R346, R347). -/
  rxFrame : Option Nat
  rxAreas : List RxArea
  rxDone : Bool
  rxPart : Option (List Nat)
  rxMsgs : List (List Nat)
  /-- BP_SLOT_STATUS by 192·Q + s, SRQ_BAD by 100000 + Q, ML_LINK at 200000, as of the last flip. -/
  view : Tab Nat
deriving DecidableEq, Repr

/-- The Dunte block at reset. -/
def DunteState.reset : DunteState :=
  { lanes := [], slots := [], rxSlots := [], rxTribs := [], midSlots := [], midTribs := [], inSlots := [], inTribs := [], tribMarks := [], copy := [], copyNext := [], srqBad := [], srqDue := [], stripeTx := 0, stripeRx := 0, txUnits := [], txAt := 0
    txRest := [], rxFrame := none, rxAreas := [], rxDone := true, rxPart := none, rxMsgs := [], view := [] }

end Sys2Proof.Machine
end

