-- ==== Sys2Proof/Machine/State/Fabric.lean ====
section
/-!
DEFINITION. State of the slot fabric: active pages, connection states, tiles and the rotating spare (chapter "The Slot
Fabric", R237 to R269). A shadow page is the active page with the changes marked in `shadow` laid over it (R250).
-/
namespace Sys2Proof.Machine

open Sys2Proof

/-- State of a connection in the active page, coded as ACT_STATE (R241, R286). -/
inductive ConnMode where
  | unbuckled | buckled | live | none
deriving DecidableEq, Repr

/-- What is kept for a connection beside its active entry. -/
structure Conn where
  /-- Entry in the active page: word 0 in bits 31-0, word 1 in bits 63-32, physical numbers, RO fields 0 (R241, R242). -/
  entry : Nat
  mode : ConnMode
  /-- The Seat charged for it (R492), when one is, and the number under which that Seat last wrote it (R102). -/
  holder : Option Nat
  num : Nat
  /-- Keeper override in force (R291). -/
  override : Bool
deriving DecidableEq, Repr

/-- No connection. -/
def Conn.reset : Conn := ⟨0, .none, none, 0, false⟩

/-- Tile states, coded as FAB_TILE_STATUS.STATE (R259). -/
inductive TileMode where
  | serving | resting | loading | comparing | suspect | failed
deriving DecidableEq, Repr

/-- A tile. -/
structure Tile where
  mode : TileMode
  /-- Group served; 31 when not serving. -/
  group : Nat
  /-- BIST_PASS, BIST_FAIL, MISMATCH, saturating at 255. -/
  pass : Nat
  fail : Nat
  mismatch : Nat
  /-- A passing pass completed since it last rested (R260); consecutive passes of a SUSPECT or retested tile. -/
  passed : Bool
  runPass : Nat
  /-- Its datapath fault is raised and not yet relieved (R265). -/
  faulty : Bool
  /-- It has completed a passing pass since the tiles last woke (R268). -/
  proven : Bool
deriving DecidableEq, Repr

/-- Rotation phases, coded as FAB_ROT_STATUS.PHASE. -/
inductive RotPhase where
  | bist | load | compare | waitSwap | halted | spareIn
deriving DecidableEq, Repr

/-- Rotation of one fabric (R259 to R267). -/
structure Rotation where
  resting : Nat
  cursor : Nat
  phase : RotPhase
  attempt : Nat
  waits : Nat
  cmdOutcome : Nat
  /-- Cycle of the next scheduled step. -/
  nextCycle : Nat
  /-- A step is to start at the next cycle boundary: restart after a mismatch, a late first pass, STEP_NOW. -/
  stepDue : Bool
  /-- The load is complete; first frame at which the handover may be made. -/
  loaded : Bool
  handover : Nat
  /-- Multiframe boundary `freeFrame` is free of swaps, decided the frame before (R262). -/
  free : Bool
  freeFrame : Nat
  /-- R runs the BIST pass that follows a first mismatch (R263). -/
  mismatchBist : Bool
  /-- The handover in progress replaces a SUSPECT tile (R263, R267). -/
  suspectSwap : Bool
  /-- RETEST passes still to run (R267). -/
  retest : Nat
  /-- Group being taken over under R265; rotation was halted before it (R266). -/
  spareGroup : Nat
  wasHalted : Bool
  tiles : Tab Tile
deriving DecidableEq, Repr

/-- A tile at reset; the fabric's last tile rests (R259). -/
def Tile.reset (last t : Nat) : Tile :=
  if t = last then ⟨.resting, 31, 0, 0, 0, false, 0, false, false⟩ else ⟨.serving, t, 0, 0, 0, false, 0, false, false⟩

/-- The rotation of a fabric with tiles 0 to `last`, first step at cycle `c`. -/
def Rotation.reset (last c : Nat) : Rotation :=
  { resting := last, cursor := 0, phase := .bist, attempt := 0, waits := 0, cmdOutcome := 0, nextCycle := c
    stepDue := false, loaded := false, handover := 0, free := false, freeFrame := 0, mismatchBist := false, suspectSwap := false
    retest := 0, spareGroup := 0, wasHalted := false, tiles := (List.range (last + 1)).map (fun t => (t, Tile.reset last t)) }

/-- A change marked in the shadow page: the entry and its landing frame (R250). -/
structure ShadowEntry where
  value : Nat
  frame : Nat
deriving DecidableEq, Repr

/-- The fabric. -/
structure FabState where
  /-- Connections by physical number N (R240). -/
  conns : Tab Conn
  /-- The shadow page's changes over the active page, by physical number N (R250), reset none. -/
  shadow : Tab ShadowEntry
  /-- FAB_PAGE_STATUS.HO_SWAPS and LO_SWAPS, modulo 2^16; LT of the last swaps, frame (R250), reset 0. -/
  hoSwaps : Nat
  loSwaps : Nat
  lastHo : Nat
  lastLo : Nat
  /-- Rotation of the high-order and of the low-order fabric. -/
  rotHo : Rotation
  rotLo : Rotation
  /-- Carrier of each low-order output slot, by physical X; value carrier + 1 (R239). -/
  carriers : Tab Nat
  /-- FAB_PAGE_STATUS, FAB_ROT_STATUS and FAB_TILE_STATUS as of the last flip, by offset. -/
  view : Tab Nat
deriving DecidableEq, Repr

/-- The fabric at reset: no connections, H24 and L8 rest. The first high-order step starts at cycle 4096 k, the first
low-order step at 4096 k + 2048 (R260). -/
def FabState.reset : FabState :=
  { conns := [], shadow := [], hoSwaps := 0, loSwaps := 0, lastHo := 0, lastLo := 0
    rotHo := Rotation.reset 24 0, rotLo := Rotation.reset 8 2048, carriers := [], view := [] }

end Sys2Proof.Machine
end

