-- ==== Sys2Proof/Machine/State/Fault.lean ====
section
/-!
DEFINITION. State of the fault collector and of ALIVE (chapter "Fault Collection and ALIVE", R463 to R482). Severities, the
action map and the Seats' cause bits are in the register store.
-/
namespace Sys2Proof.Machine

open Sys2Proof

/-- What the collector keeps for one source. -/
structure FaultSrc where
  /-- FC_SRC.COUNT, saturating at 65 535 (R473), reset 0. -/
  count : Nat
  /-- The pair shows raised; PAIR_BAD; consecutive frames of valid codes and passed sweeps since it was set (R463). -/
  raised : Bool
  pairBad : Bool
  good : Nat
  /-- Tick of its last FAULT record plus 1 (0: none) and the raises since that record (R473). -/
  recTick : Nat
  since : Nat
deriving DecidableEq, Repr

/-- A source that has not raised. -/
def FaultSrc.reset : FaultSrc := ⟨0, false, false, 0, 0, 0⟩

/-- The first-error latch (R474 to R477). -/
structure FaultLatch where
  source : Nat
  cls : Nat
  sev : Nat
  pair : Bool
  injected : Bool
  frame : Nat
  phase : Nat
  /-- Actions taken, in the bit order of FC_SEV_ACT; MERGED; OVERFLOW; FATAL_SEEN. -/
  actions : Nat
  merged : Nat
  overflow : Bool
  fatalSeen : Bool
  /-- The handling window runs; a valid clear waits for its end (R477). -/
  handling : Bool
  clearDue : Bool
deriving DecidableEq, Repr

/-- The collector. -/
structure FaultState where
  /-- The sources, by number. -/
  src : Tab FaultSrc
  /-- FC_FIRST, reset empty. -/
  latch : Option FaultLatch
  /-- FC_CLR_STATUS, FC_COUNT, FC_INJECT.DONE, reset 0. -/
  clrOutcome : Nat
  count : Nat
  injDone : Bool
  /-- STOP_ALIVE is in force (R472); LT at which ALIVE stopped; the pin reads back as driven (R480). -/
  stopped : Bool
  stopFrame : Nat
  stopPhase : Nat
  readbackOk : Bool
deriving DecidableEq, Repr

/-- The collector at reset. -/
def FaultState.reset : FaultState := ⟨[], none, 0, 0, false, false, 0, 0, true⟩

end Sys2Proof.Machine
end

