-- ==== Sys2Proof/Machine/State/Host.lean ====
section
/-!
DEFINITION. State of the host ports: what is kept for each Seat and path, PCIe, the legacy bus, SPI and the I²C window
(chapter "Seats and Host Ports", R87 to R124, and R507, R509).
-/
namespace Sys2Proof.Machine

open Sys2Proof

/-- What is kept for each (Seat, host path) and for each strand: staging words, snapshot latches and the counts of
0x0000_0110 to 0x0000_0120 (R106, R107, R154, R507, R509). -/
structure PathState where
  /-- HOST_WR_STATUS.OUTCOME and COUNT (24 bits, saturating), HOST_WR_ADDR (R107), reset 0. -/
  wrOutcome : Nat
  wrCount : Nat
  wrAddr : Nat
  /-- HOST_NF_COUNT (saturating) and HOST_NF_ADDR (R103), reset 0. -/
  nfCount : Nat
  nfAddr : Nat
  /-- HOST_ERR.DISCARD and PAIR_MISS, 16 bits each, saturating, reset 0. -/
  discard : Nat
  pairMiss : Nat
  /-- The words of a multi-word write held so far: key of the register and the words, lowest first (R243, R507). -/
  held : Option (Nat × List Nat)
  /-- Snapshot latches of RS registers and connection entries: key to latched value (R105, R106, R509). -/
  latches : Tab (Option Nat)
  /-- PX_CMD_STATUS.OUTCOME and INDEX (chapter "Protection Switching and Patch Proof"), reset 0. -/
  pxOutcome : Nat
  pxIndex : Nat
  /-- SCAN_STATUS.OUTCOME and JOB_ID (chapter "The Scan Engine"), reset 0. -/
  scanOutcome : Nat
  scanJob : Nat
  /-- RADIO_STATUS.OUTCOME and frame ID (chapter "The Cord Radio"), reset 0. -/
  radioOutcome : Nat
  radioFrame : Nat
deriving DecidableEq, Repr

/-- A path with nothing recorded. -/
def PathState.reset : PathState := ⟨0, 0, 0, 0, 0, 0, 0, none, [], 0, 0, 0, 0, 0, 0⟩

/-- PCIe, per function f = Seat f (R110 to R114). -/
structure PcieFn where
  /-- VF Enable for a virtual function; the physical function always exists. Memory Space Enable, Bus Master Enable. -/
  enabled : Bool
  mse : Bool
  bme : Bool
  /-- An FLR of this function is in progress (R114). -/
  flr : Bool
  /-- MSI-X Enable and Function Mask of the function. -/
  msixEn : Bool
  msixMask : Bool
  /-- MSI-X table: vector v's 128-bit entry (address, data, per-vector mask in bit 96). -/
  table : Tab Nat
  /-- MSI-X pending bit array. -/
  pba : Nat
  /-- AER: the uncorrectable errors reported, by their bits of the base specification (R113). -/
  aer : Nat
deriving DecidableEq, Repr

/-- A function after PERST_N: Memory Space and MSI-X disabled, every vector masked (PCI rules). -/
def PcieFn.reset : PcieFn := ⟨false, false, false, false, false, false, [], 0, 0⟩

/-- The legacy bus port's pair latch: what its previous access was (R117). -/
inductive LbPair where
  | none
  /-- The low half of this word was read; the high half is held. -/
  | read (word : Nat) (high : Nat)
  /-- The low half of this word was written and is held. -/
  | write (word : Nat) (low : Nat)
deriving DecidableEq, Repr

/-- One MSI-X message sent, or a change of INT_N (R108). -/
structure MsixMessage where
  seat : Nat
  vector : Nat
  address : Nat
  data : Nat
deriving DecidableEq, Repr

/-- The host ports. -/
structure HostState where
  /-- HOST_BIND in force (R124), reset 0x300; the change that waits for its port to be idle. -/
  bind : Nat
  bindPending : Option Nat
  /-- Per (Seat, path) and per strand: key 4·Seat + path, or 64 + physical strand. -/
  paths : Tab PathState
  /-- PCIe link up, lanes and rate code (1: 2.5, 2: 5.0, 3: 8.0 GT/s) (R111), reset down. -/
  linkUp : Bool
  linkLanes : Nat
  linkRate : Nat
  /-- PERST_N asserted (low) (R86), reset deasserted. -/
  perst : Bool
  /-- The functions by Seat. -/
  fns : Tab PcieFn
  /-- MSI-X messages sent, newest first, not yet taken by the link. -/
  msix : List MsixMessage
  /-- Vectors pending per Seat when last evaluated (R108), so that a vector that becomes pending is seen. -/
  pendSeen : Tab Nat
  /-- LB_MODE pin level (R115); the pair latch; STROBE_ERR, 8 bits saturating. -/
  lbMode : Bool
  lbPair : LbPair
  strobeErr : Nat
  /-- Level with which LB_ACK_N signalled the completion of the last access (R116); between accesses the pin is released. -/
  lbAck : Bool
  /-- The data the legacy bus, SPI, I²C and PCIe last returned (the read data of the last read command). -/
  readData : List Nat
  /-- The STATUS byte of the last SPI read frame (R119). -/
  spiStatus : Nat
  /-- HOST_SPI_CTL.FRAME_ERR, LATE_COUNT (8 bits, saturating); the previous frame ended in error (ERR_PREV). -/
  spiFrameErr : Nat
  spiLate : Nat
  spiErrPrev : Bool
  /-- I²C pointer and WRITE_DROP (R122); the window answers (from 1 ms after PWR_GOOD). -/
  i2cPtr : Nat
  i2cDrop : Nat
  i2cReady : Bool
  /-- I2C_ADDR[1:0] pins (static). -/
  i2cAddr : Nat
deriving DecidableEq, Repr

/-- Host ports after power-on. -/
def HostState.reset : HostState :=
  { bind := 0x300, bindPending := none, paths := [], linkUp := false, linkLanes := 0, linkRate := 0
    perst := false, fns := [], msix := [], pendSeen := [], lbMode := false, lbPair := .none, strobeErr := 0, lbAck := false
    readData := [], spiStatus := 0, spiFrameErr := 0, spiLate := 0, spiErrPrev := false
    i2cPtr := 0, i2cDrop := 0, i2cReady := false, i2cAddr := 0 }

end Sys2Proof.Machine
end

