-- ==== Sys2Proof/Machine/State/Ledger.lean ====
section
/-!
DEFINITION. State of the change ledger: the ring, seals, losses, spill (chapter "The Change Ledger", R125 to R150). The
sequence number, the chain value and the key are in the retention cell.
-/
namespace Sys2Proof.Machine

open Sys2Proof

/-- One 32-byte entry of R128: `mid` is bytes 12 to 27 as one little-endian number (a head entry's ORIGIN, KIND, FLAGS,
OBJECT, OLD, NEW, or a continuation's payload). -/
structure LedgerEntry where
  seq : Nat
  frame : Nat
  phase : Nat
  mid : Nat
  crc : Nat
  /-- SEAT and KIND of the record it belongs to, also of a continuation (R149). -/
  seat : Nat
  kind : Nat
deriving DecidableEq, Repr

/-- A record before it is appended: its head's fields and its continuation payloads (16 bytes each). -/
structure LedgerRec where
  kind : Nat
  seat : Nat
  path : Nat
  unit : Nat
  object : Nat
  old : Nat
  new : Nat
  kflag : Bool
  conts : List Nat
  /-- LT at which the change takes effect (R131). -/
  frame : Nat
  phase : Nat
deriving DecidableEq, Repr

/-- A spill batch in flight: the SEQ after its last entry (R146). -/
structure SpillBatch where
  from_ : Nat
  count : Nat
deriving DecidableEq, Repr

/-- A write into host memory: its address and its bytes in address order. -/
structure HostWrite where
  addr : Nat
  bytes : List Nat
deriving DecidableEq, Repr

/-- The ledger. -/
structure LedgerState where
  /-- The entries of the ring still readable, newest first, at most 8192 (R144), reset none. -/
  ring : List LedgerEntry
  /-- Occupancy U: entries appended and not released (R142), reset 0. -/
  used : Nat
  /-- Entries appended since the last SEAL or START record, SEAL records excluded (R135). -/
  sinceSeal : Nat
  /-- A seal is being computed: LEDGER_STATUS.SEAL_BUSY (R136). -/
  sealBusy : Bool
  /-- Hardware records waiting for the seal, oldest first, at most 64 (R136). -/
  queue : List LedgerRec
  /-- Records lost, the entries they would have taken, the bitmap of units, LT of the first and last loss (R141). -/
  lost : Nat
  lostEntries : Nat
  lostUnits : Nat
  lostFirst : Nat
  lostLast : Nat
  /-- A first loss that the collector has not been told of yet (source 406). -/
  lossDue : Bool
  /-- The START record that waits for 2 free entries (R139). -/
  startWaiting : Option LedgerRec
  /-- LT of the last entry appended in the segment: frame and phase (R131). -/
  lastFrame : Nat
  lastPhase : Nat
  /-- Words of a LEDGER_KEY load held so far, lowest first (R137). -/
  keyWords : List Nat
  /-- SEQ of LEDGER_SPILL_PROD in push mode and of LEDGER_SPILL_CONS (R145, R148). -/
  prod : Nat
  cons : Nat
  /-- The spill batch in flight (R146, R147). -/
  batch : Option SpillBatch
  /-- The host writes of the last batch, in their order: the entries' bursts, then the producer record (R146), reset none. -/
  hostOut : List HostWrite
  /-- SPILL_FAULT (R147), reset 0. -/
  spillFault : Bool
deriving DecidableEq, Repr

/-- An empty ring. -/
def LedgerState.reset : LedgerState :=
  { ring := [], used := 0, sinceSeal := 0, sealBusy := false, queue := [], lost := 0, lostEntries := 0, lostUnits := 0
    lostFirst := 0, lostLast := 0, lossDue := false, startWaiting := none, lastFrame := 0, lastPhase := 0, keyWords := []
    prod := 0, cons := 0, batch := none, hostOut := [], spillFault := false }

end Sys2Proof.Machine
end

