-- ==== Sys2Proof/Machine/State/Lt.lean ====
section
/-!
DEFINITION. State of the Line Time block: the count, the reference, the NCO, the calendar, the commit groups and their
completion rings (chapter "Line Time", R27 to R59).
-/
namespace Sys2Proof.Machine

open Sys2Proof

/-- LT states of R36, coded as LT_STATUS.STATE. -/
inductive LtMode where
  | acquire | locked | holdover | freeRun
deriving DecidableEq, Repr

/-- One timing input's qualification (R27, R28). -/
structure TimingIn where
  /-- Qualified (R28, LT_STATUS.QUALIFIED), reset false. -/
  qualified : Bool
  /-- Consecutive in-window edges counted after the first edge of the run (R28), reset 0. -/
  run : Nat
  /-- Consecutive misses (R27, R28), reset 0. -/
  misses : Nat
  /-- Predicted position of the next edge, in phase units from LT 0.0; none before the first edge of a run (R27). -/
  predicted : Option Nat
deriving DecidableEq, Repr

/-- An input with no run. -/
def TimingIn.reset : TimingIn := ⟨false, 0, 0, none⟩

/-- One staged write of a commit group (R46): where it lands and the value it carries. -/
structure StagedWrite where
  /-- Offset in the S0 window of a register, or 2^24 plus the object address (R130). -/
  key : Nat
  /-- The whole value written. -/
  value : Nat
deriving DecidableEq, Repr

/-- An accepted commit group that has not landed (R46 to R50). -/
structure CommitGroup where
  /-- The Seat that submitted it. -/
  seat : Nat
  /-- Its commit ID, modulo 256. -/
  ident : Nat
  /-- Its writes, oldest first. -/
  writes : List StagedWrite
  /-- Landing frame (R48, R49). -/
  frame : Nat
  /-- It lands DONE_DELAYED (R48, R49, R81). -/
  delayed : Bool
  /-- Its landing frame fell in skipped time and it waits for a multiframe boundary (R35, R49). -/
  skipped : Bool
  /-- It came by an epoch, so its order is the sequence number its DELTA carried (R50, R317). -/
  fromEpoch : Bool
  /-- Ledger sequence number of its GO: the order of GO (R50). -/
  goSeq : Nat
  /-- Index of its KIND 0x3 calendar entry (R46). -/
  calIndex : Nat
  /-- It requests a page swap of the high-order fabric, the low-order fabric (R248). -/
  swapHo : Bool
  swapLo : Bool
deriving DecidableEq, Repr

/-- A completion record of a Seat's LT_COMMIT_DONE ring (section "Completion records"). -/
structure DoneRec where
  outcome : Nat
  ident : Nat
  flags : Nat
  frame : Nat
  seq : Nat
deriving DecidableEq, Repr

/-- A calendar entry (R41) with what the part keeps beside it. -/
structure CalEntry where
  frame : Nat
  phase : Nat
  repeatN : Nat
  /-- 0 empty, 1 strand start, 2 strand event, 3 timed commit, 4 block action, 5 DMA start. -/
  kind : Nat
  cls : Nat
  seat : Nat
  target : Nat
  arg : Nat
  /-- Came by an epoch (R44). -/
  fromEpoch : Bool
  /-- Ledger sequence number of its addition: the order of addition (R44). -/
  seq : Nat
  /-- The late rule moved this issue (R48); a repeating entry then resumes from its requested position. -/
  moved : Bool
  /-- The requested target frame, from which a moved repeating entry resumes (R48); negative for a ToD target before LT 0.0 (R54). -/
  reqFrame : Int
deriving DecidableEq, Repr

/-- A free calendar entry. -/
def CalEntry.empty : CalEntry := ⟨0, 0, 0, 0, 0, 0, 0, 0, false, 0, false, 0⟩

/-- What Line Time keeps for each Seat. -/
structure SeatLt where
  /-- The current commit group: writes since the last GO, oldest first (R46). -/
  group : List StagedWrite
  /-- LT_COMMIT_STATUS.OUTCOME, ID, STAGE_FULL (R47), reset 0; the ID that the next accepted group takes. -/
  outcome : Nat
  lastId : Nat
  nextId : Nat
  stageFull : Bool
  /-- LT_COMMIT_DONE, 16 records, by index (reset none), NEXT and OVERFLOW of LT_COMMIT_DONE_PTR. -/
  done : Tab DoneRec
  doneNext : Nat
  doneOvf : Nat
  /-- LT_CAL_STATUS.OUTCOME and INDEX (R43), reset 0. -/
  calOutcome : Nat
  calIndex : Nat
  /-- LT_CAL_LAST: OUTCOME, KIND, INDEX (R42), reset 0. -/
  lastOutcome : Nat
  lastKind : Nat
  lastIndex : Nat
deriving DecidableEq, Repr

/-- A Seat's Line Time state at reset. -/
def SeatLt.reset : SeatLt := ⟨[], 0, 0, 0, false, [], 0, 0, 0, 0, 0, 0, 0⟩

/-- The frame count that a boundary is to start instead of the next one. -/
inductive CountJump where
  /-- LT_FRAME_LOAD accepted (R39). -/
  | load (f : Nat)
  /-- The mate's count adopted (R300): the local frame whose boundary it replaces, and the count. -/
  | adopt (at_ f : Nat)
deriving DecidableEq, Repr

/-- The Line Time block. -/
structure LtState where
  /-- LT_NOW.FRAME, 48 bits (R31), reset 0. -/
  frame : Nat
  /-- LT_NOW.PHASE, 0 to 19 439 (R31), reset 0. -/
  phase : Nat
  /-- Frame boundaries that have occurred since entry to SAFE: what every rule that counts frames counts (R501). -/
  bounds : Nat
  /-- LT_STATUS.STATE (R36), reset ACQUIRE. -/
  mode : LtMode
  /-- The reference followed, LT_STATUS.REF_ACTIVE: 0 FSYNC, 1 MFSYNC, 2 PPS_IN, 3 none (R29), reset 3. -/
  ref : Nat
  /-- LT_STATUS.PHASE_OK (R36), reset 0. -/
  phaseOk : Bool
  /-- LT_STATUS.COUNT_OK: the count is established (R38), reset 0. -/
  countOk : Bool
  /-- LOCKED has been reached since the last reset, so the count only advances (R39). -/
  everLocked : Bool
  /-- LT_STATUS.ANCHOR_SET (R56), reset 0. -/
  anchorSet : Bool
  /-- LT_STATUS.MF_MISMATCH and PPS_MISMATCH (R34), reset 0. -/
  mfMismatch : Bool
  ppsMismatch : Bool
  /-- LT_STATUS.REFCLK_OK (R36), reset 1. -/
  refclkOk : Bool
  /-- FSYNC, MFSYNC, PPS_IN (R27, R28). -/
  fsync : TimingIn
  mfsync : TimingIn
  pps : TimingIn
  /-- LT_STATUS.FREQ_OFFSET, 16-bit image (R36 table, LT_STATUS), reset 0. -/
  freqOffset : Nat
  /-- NCO frame period in units of 2^-24 phase unit (chapter "Following the reference"), reset nominal. -/
  ncoPeriod : Nat
  /-- Phase units still to be corrected by slewing in the frames to come; positive lengthens frames (R32), reset 0. -/
  slew : Int
  /-- The period by which the frame in progress is lengthened (1) or shortened (-1), R32, reset 0. -/
  frameAdj : Int
  /-- A newly followed reference slews or realigns at its next edge (R33), reset false. -/
  realignDue : Bool
  /-- The frame in progress has been cut short at this phase; its boundary follows at once (R33), reset none. -/
  cutPhase : Option Nat
  /-- An edge of MFSYNC, of PPS_IN, marks the next boundary; marked the one before, which its rule does not allow (R34), reset false. -/
  markMf : Bool
  markPps : Bool
  lateMf : Bool
  latePps : Bool
  /-- A count load or adoption waiting for its cycle boundary (R39, R300), reset none. -/
  jump : Option CountJump
  /-- LT_EVENTS counters, each saturating at 255, reset 0. -/
  evRealign : Nat
  evHoldover : Nat
  evMiss : Nat
  evAlign : Nat
  /-- LT_PPS_CAPTURE (R59), frame and phase, reset 0. -/
  ppsFrame : Nat
  ppsPhase : Nat
  /-- The anchor pair in force: ALT frame, ATOD seconds, ATOD nanoseconds (R54, R56), reset 0. -/
  anchorFrame : Nat
  anchorSec : Nat
  anchorNs : Nat
  /-- The calendar, 1024 entries by index (R41), reset empty. -/
  cal : Tab CalEntry
  /-- Groups accepted and not landed, in order of GO (R46, R50), reset none. -/
  groups : List CommitGroup
  /-- Per-Seat state by Seat number. -/
  seats : Tab SeatLt
deriving DecidableEq, Repr

/-- Line Time at entry to SAFE: LT 0.0 in ACQUIRE, nominal NCO period (R36). -/
def LtState.reset : LtState :=
  { frame := 0, phase := 0, bounds := 0, mode := .acquire, ref := 3, phaseOk := false, countOk := false, everLocked := false
    anchorSet := false, mfMismatch := false, ppsMismatch := false, refclkOk := true
    fsync := .reset, mfsync := .reset, pps := .reset, freqOffset := 0, ncoPeriod := 19440 * 2 ^ 24, slew := 0, frameAdj := 0
    realignDue := false, cutPhase := none, markMf := false, markPps := false, lateMf := false, latePps := false, jump := none, evRealign := 0, evHoldover := 0, evMiss := 0, evAlign := 0
    ppsFrame := 0, ppsPhase := 0, anchorFrame := 0, anchorSec := 0, anchorNs := 0, cal := [], groups := []
    seats := [] }

end Sys2Proof.Machine
end

