-- ==== Sys2Proof/Machine/State/Mate.lean ====
section
/-!
DEFINITION. State of the mate function (chapter "Mate Redundancy and the Rein", R295 to R321). MATE_CTL, MATE_PEER, MATE_INT
and MATE_PAGE_MIR are in the register store.
-/
namespace Sys2Proof.Machine

open Sys2Proof

/-- Rein states, coded as MATE_STATUS.STATE (R304). -/
inductive Rein where
  | off | pre | listen | standby | holder | releasing | out
deriving DecidableEq, Repr

/-- Sync states of a standby, coded as MATE_STATUS.SYNC. -/
inductive Sync where
  | unsynced | snapshot | synced
deriving DecidableEq, Repr

/-- A take that is to be made at a cycle boundary (R305, R308). -/
structure TakeDue where
  cycle : Nat
  /-- 2 expiry, 3 immediate, 4 orderly, 5 offer-back, 7 TAKE: the cause of R321. -/
  cause : Nat
  /-- FINAL_SEQ and PENDING_DELTAS of the RELEASE. -/
  finalSeq : Nat
  pendingDeltas : Nat
  /-- The path and unit of the TAKE command (R129, R321). -/
  path : Nat
  unit : Nat
deriving DecidableEq, Repr

/-- A message queued for the mate link (R311): its place in the order of the link, 0 first, and its bytes. -/
structure LinkMsg where
  rank : Nat
  bytes : List Nat
deriving DecidableEq, Repr

/-- An epoch under construction, sent or received (R312, R315). -/
structure EpochBody where
  seq : Nat
  startFrame : Nat
  term : Nat
  /-- The deltas, newest first. -/
  deltas : List MateDelta
  /-- BODY_BYTES: the sum of the lengths of the OPEN and the deltas (R311). -/
  bytes : Nat
  /-- First ledger sequence number covered and how many. -/
  ledgerFirst : Nat
  ledgerCount : Nat
  /-- On the receive side: places, in order of arrival, of the deltas that a snapshot in progress excludes (R316). -/
  skip : List Nat
deriving DecidableEq, Repr

/-- The mate function. -/
structure MateState where
  /-- MATE_STATUS.STATE and SYNC, reset PRE and UNSYNCED. -/
  rein : Rein
  sync : Sync
  /-- MATE_TERM, MATE_LEASE, MATE_SEQ, reset 0; the highest term seen in a valid heartbeat or RELEASE (R302). -/
  term : Nat
  lease : Nat
  seq : Nat
  highTerm : Nat
  /-- Cycle boundaries of the listen window still to come (R501); both paths silent throughout it; every valid heartbeat in it came from a
  LISTEN mate of lower rank, and one came (R305). -/
  listenLeft : Nat
  listenSilent : Bool
  listenLower : Bool
  listenHeard : Bool
  /-- A valid heartbeat of a HOLDER or RELEASING part was heard: STANDBY at the next cycle boundary (R305). -/
  standbyDue : Bool
  /-- The listen window, the wait for the mate's take, has ended: the next cycle boundary decides (R305). -/
  listenEnd : Bool
  relTimeout : Bool
  /-- An edge on MATE_PULSE_IN in this frame; frames in a row with and without one (R298). -/
  edge : Bool
  edgeRun : Nat
  quietRun : Nat
  pulseAlive : Bool
  /-- MATE_PULSE_OUT's level (R298), reset low. -/
  pulseOut : Bool
  /-- A valid heartbeat in this cycle; whole cycles in a row without one (R299); MSG_ALIVE; invalid heartbeats counted. -/
  hbNow : Bool
  hbMiss : Nat
  msgAlive : Bool
  hbInvalid : Nat
  /-- The mate's last valid heartbeat and the cycle of its arrival. -/
  peer : Option Heartbeat
  peerCycle : Nat
  /-- MATE_STATUS flags (R295, R300, R301, R307), reset 0. -/
  countMm : Bool
  revMm : Bool
  takeBlock : Bool
  adoptBehind : Bool
  /-- The open epoch of a holder; bytes waiting in the delta send queue; deltas that wait for room, oldest first (R312). -/
  open_ : Option EpochBody
  queueBytes : Nat
  waiting : List MateDelta
  /-- Messages that no frame has carried yet, in the order in which the link takes them (R311, R348). -/
  outq : List LinkMsg
  /-- A group has landed in this cycle (R314). -/
  landed : Bool
  /-- MATE_USE; MATE_DELAY: groups delayed and overflows, saturating at 65 535, reset 0. -/
  use : Nat
  delayed : Nat
  overflows : Nat
  /-- The last HEARTBEAT, EPOCH_TRAILER with its OPEN and deltas, RELEASE and SNAP_REQ sent; chunks of the last snapshot, newest first. -/
  sentHb : Option Heartbeat
  sentEpoch : Option (EpochBody × EpochTrailer)
  sentRelease : Option ReleaseMsg
  sentSnapReq : Nat
  sentSnap : List MateDelta
  /-- A SNAP_REQ has arrived: a snapshot starts at the next cycle boundary (R316). -/
  snapDue : Bool
  /-- A snapshot is being sent; SPACE and ADDR of the items sent so far (R316). -/
  snapOn : Bool
  snapKeys : List (Nat × Nat)
  /-- START_FRAME of the last epoch applied. -/
  lastStart : Option Nat
  /-- Receive side: the epoch being buffered; the verified epoch that waits for step 3 with its trailer (R315). -/
  rx : Option EpochBody
  verified : Option (EpochBody × EpochTrailer)
  /-- Snapshot in reception: boundaries that had occurred at SNAP_BEGIN, the chunks received newest first, the items they carried;
  SNAP_END has arrived and checked (R316). -/
  snapCycle : Nat
  snapChunks : List MateDelta
  snapItems : List (Nat × Nat)
  snapEnded : Bool
  /-- An orderly release accepted: cycle h of R308 and its KIND; TAKE_CYCLE of the release made. -/
  relDue : Option (Nat × Nat)
  relTake : Nat
  /-- A take due at a cycle boundary (R305). -/
  takeDue : Option TakeDue
  /-- The rein was taken on an offer-back; a transmit fault was found at take-over, in cycle T (R319). -/
  onOffer : Bool
  takeCycle : Nat
  txFault : Bool
  /-- NO_HOLDER has been raised for the lease now expired. -/
  noHolder : Bool
  /-- MATE_LOST (R317), reset 0. -/
  lostSeq : Nat
  lostFrom : Nat
  lostTake : Nat
  groupsDropped : Nat
  partialDeltas : Nat
  /-- MATE_CMD_STATUS.OUTCOME, reset 0. -/
  cmdOutcome : Nat
deriving DecidableEq, Repr

/-- The mate function at entry to SAFE with EN = 1. -/
def MateState.reset : MateState :=
  { rein := .pre, sync := .unsynced, term := 0, lease := 0, seq := 0, highTerm := 0
    listenLeft := 0, listenSilent := true, listenLower := true, listenHeard := false, standbyDue := false, listenEnd := false, relTimeout := false
    pulseOut := false, edge := false, edgeRun := 0, quietRun := 0, pulseAlive := false, hbNow := false, hbMiss := 0
    msgAlive := false, hbInvalid := 0, peer := none, peerCycle := 0, countMm := false, revMm := false
    takeBlock := false, adoptBehind := false, open_ := none, queueBytes := 0, waiting := [], outq := [], landed := false
    use := 0, delayed := 0, overflows := 0, sentHb := none, sentEpoch := none, sentRelease := none
    sentSnapReq := 0, sentSnap := [], snapDue := false, snapOn := false, snapKeys := [], lastStart := none, rx := none, verified := none, snapCycle := 0
    snapChunks := [], snapItems := [], snapEnded := false, relDue := none, relTake := 0, takeDue := none
    onOffer := false, takeCycle := 0, txFault := false, noHolder := false, lostSeq := 0, lostFrom := 0
    lostTake := 0, groupsDropped := 0, partialDeltas := 0, cmdOutcome := 0 }

end Sys2Proof.Machine
end

