-- ==== Sys2Proof/Machine/State/Monitor.lean ====
section
/-!
DEFINITION. State of the monitor chain (chapter "The Monitor Chain", R446 to R462). Configuration words are in the register store.
-/
namespace Sys2Proof.Machine

open Sys2Proof

/-- Threshold states, coded as MON_TH_STATE (R456). -/
inductive ThMode where
  | init | clear | set
deriving DecidableEq, Repr

/-- A threshold and its two dwell counts (R456). -/
structure Threshold where
  mode : ThMode
  above : Nat
  below : Nat
deriving DecidableEq, Repr

/-- A threshold at reset. -/
def Threshold.reset : Threshold := ⟨.init, 0, 0⟩

/-- A channel. -/
structure MonChan where
  /-- Samples in the filter's window, newest first, as signed values (R449). -/
  window : List Int
  /-- UNSETTLED outputs remaining (R452). -/
  unsettled : Nat
  /-- A calendar settling event waits for the first sample at or after this position (R453). -/
  stepAt : Option Nat
  /-- DC block estimate (R454). -/
  dc : Int
  thA : Threshold
  thB : Threshold
  /-- WARN, ALARM, SHUTDOWN of a die sensor (R457). -/
  warn : Threshold
  alarm : Threshold
  shut : Threshold
  /-- MON_OUT and MON_OUT_PREV (R461), 16-byte images. -/
  out : Nat
  prev : Nat
  /-- The latest settled ENG of a die sensor, for the SENSOR_CHECK source, and its run of deviations. -/
  eng : Int
  checkRun : Nat
  /-- Stream buffer of 256 records, oldest byte first; OUT_DROP. -/
  stream : List Byte
  drop : Nat
deriving DecidableEq, Repr

/-- A channel at entry to SAFE with `n` UNSETTLED outputs to come. -/
def MonChan.reset (n : Nat) : MonChan :=
  { window := [], unsettled := n, stepAt := none, dc := 0, thA := .reset, thB := .reset
    warn := .reset, alarm := .reset, shut := .reset, out := 0, prev := 0, eng := 0, checkRun := 0, stream := [], drop := 0 }

/-- The monitor chain. -/
structure MonState where
  chans : Tab MonChan
  /-- The conversion slot from which on the frame's slots are still to come. -/
  slot : Nat
  /-- Thermal level and shed mask (R458, R459); the sensor whose thermal threshold moved last. -/
  level : Nat
  shed : Nat
  mover : Nat
  /-- CAL_FAIL and calibration age in frames, saturating at 255 (R447). -/
  calFail : Bool
  calAge : Nat
deriving DecidableEq, Repr

/-- The chain at entry to SAFE: every channel UNSETTLED for 17 outputs (responses 1 and 3). -/
def MonState.reset : MonState := ⟨[], 0, 0, 0, 255, false, 0⟩

end Sys2Proof.Machine
end

