-- ==== Sys2Proof/Machine/State/Power.lean ====
section
/-!
DEFINITION. State of supplies, stages, straps, retention cell and power domains (chapter "Power, Live Insertion and Staged
Start", R60 to R86).
-/
namespace Sys2Proof.Machine

open Sys2Proof

/-- Start stages, coded as the I²C STAGE byte and PWR_STAGE.STAGE (R69). -/
inductive Stage where
  | dark | safe | framed | loaded | inService
deriving DecidableEq, Repr

/-- PWR_STAGE.ROLE (R73): none, rein holder, standby. -/
inductive Role where
  | none | holder | standby
deriving DecidableEq, Repr

/-- State of a power domain, coded as PWR_DOM_STATE (R80 to R82). -/
inductive DomState where
  | gated | waking | on | gatePending
deriving DecidableEq, Repr

/-- The retention cell of R78. Its 16-bit check is kept as the fact that it is correct. -/
structure Retention where
  /-- Next ledger sequence number, 32 bits (LEDGER_HEAD). -/
  seq : Nat
  /-- Ledger chain value, 32 bits (LEDGER_CHAIN). -/
  chain : Nat
  /-- Ledger key, 32 bytes, byte 0 first; all zero when unkeyed (R137, R138). -/
  key : List Nat
  /-- Last LT frame, written at every cycle boundary. -/
  lastFrame : Nat
  /-- Dormant counter in 32.768 kHz ticks. -/
  dormant : Nat
  /-- The reset cause the next start reports. -/
  cause : Nat
  /-- The retention check value is correct (R79). -/
  valid : Bool
deriving DecidableEq, Repr

/-- A retention cell that has never been written: its check is not correct. -/
def Retention.blank : Retention := ⟨0, 0, [], 0, 0, 0, false⟩

/-- Supplies, stages and domains. -/
structure PwrState where
  /-- PWR_GOOD pin level; reset low. -/
  pwrGood : Bool
  /-- RESET_N pin level; reset high. -/
  resetN : Bool
  /-- Main rails in tolerance (R61); VCORE at or above 0.60 V feeds the standby node (R77). -/
  vcoreFeeds : Bool
  /-- VSTB_A and VSTB_B present (R77). -/
  vstbA : Bool
  vstbB : Bool
  /-- VIO_A to VIO_H present, bit 0 VIO_A (R62). -/
  vioOk : Nat
  /-- PWR_STAGE.STAGE (R69), reset DARK. -/
  stage : Stage
  /-- PWR_STAGE.ROLE (R73), reset none. -/
  role : Role
  /-- Levels of the strap pins and their samples (R65). -/
  bootHoldPin : Bool
  txMutePin : Bool
  bootHold : Bool
  txMute : Bool
  /-- PWR_STAGE.RET_VALID, RESET_CAUSE and PWR_RET, copied at entry to SAFE (R79). -/
  retValid : Bool
  resetCause : Nat
  retTicks : Nat
  retFrame : Nat
  /-- RET_AT_RISK (R77). -/
  atRisk : Bool
  /-- RELEASE accepted in this SAFE (R70). -/
  released : Bool
  /-- PWR_STAGE.ADV_PENDING (R72). -/
  advPending : Bool
  /-- PWR_RESET_CTL is armed (R85). -/
  warmArmed : Bool
  /-- The cause of the running start, for RESET_CAUSE: a warm reset has fired and SAFE is due. -/
  warmPending : Bool
  /-- PWR_STAGE_STATUS.OUTCOME (R70, R72, R85), reset 0. -/
  stageOutcome : Nat
  /-- PWR_STAGE_LT: frame and phase of entry to the stage. -/
  stageFrame : Nat
  stagePhase : Nat
  /-- State of the 112 switched domains, by number; unlisted ones are GATED (R80). -/
  dom : Tab DomState
  /-- The retention cell (R78). -/
  ret : Retention
deriving DecidableEq, Repr

/-- Power applied, PWR_GOOD low: DARK (R69). Both standby inputs and every VIO bank present, straps low, retention never written. -/
def PwrState.reset : PwrState :=
  { pwrGood := false, resetN := true, vcoreFeeds := true, vstbA := true, vstbB := true, vioOk := 255
    stage := .dark, role := .none, bootHoldPin := false, txMutePin := false
    bootHold := false, txMute := false, retValid := false, resetCause := 0, retTicks := 0, retFrame := 0
    atRisk := false, released := false, advPending := false, warmArmed := false, warmPending := false
    stageOutcome := 0, stageFrame := 0, stagePhase := 0, dom := [], ret := .blank }

end Sys2Proof.Machine
end

