-- ==== Sys2Proof/Machine/State/Prot.lean ====
section
/-!
DEFINITION. State of protection switching and patch proof (chapter "Protection Switching and Patch Proof", R270 to R294).
-/
namespace Sys2Proof.Machine

open Sys2Proof

/-- What an MSP group and a selector keep alike (R274 to R284). Condition sets use bit 0 SF_W, 1 SF_P, 2 SD_W, 3 SD_P. -/
structure ProtCtl where
  /-- SELECTED and BRIDGED in force, and those decided at the last boundary, which apply in step 5 of the next (R277). -/
  selected : Bool
  bridged : Bool
  selNext : Bool
  brNext : Bool
  /-- Conditions as reported by commands (COND_SRC = 1) or seen at the last boundary (R274). -/
  raw : Nat
  /-- Boundaries each condition has been present for without a break (R275). -/
  runs : List Nat
  /-- Effective conditions, the COND field. -/
  eff : Nat
  /-- EXT_CMD: the external command in force; its origin is a Dunte switch-request word (R283). -/
  ext : Nat
  extHw : Bool
  /-- Rank and K1 code of the request in force (R276), ACTIVE_REQ. -/
  rank : Nat
  code : Nat
  /-- WTR running and frames left (R281). -/
  wtrRun : Bool
  wtrLeft : Nat
  /-- Frames of exercise left; running; RR seen in it; EXER_OK (R282). -/
  exerRun : Bool
  exerLeft : Nat
  exerSeen : Bool
  exerOk : Bool
  /-- FOP, ARCH_MM, MODE_MM (R280); runs of K2 mismatch, of invalid K1 and of frames without cause. -/
  fop : Bool
  archMm : Bool
  modeMm : Bool
  fopRun : Nat
  badRun : Nat
  fopClr : Nat
  /-- K bytes sent, K bytes decided for the next frames, K bytes accepted, the remote K1 that stands (R278, R280). -/
  txK1 : Nat
  txK2 : Nat
  nextK1 : Nat
  nextK2 : Nat
  rxK1 : Nat
  rxK2 : Nat
  remote : Nat
  /-- SWITCHES. -/
  switches : Nat
deriving DecidableEq, Repr

/-- A group or selector on working with nothing requested. -/
def ProtCtl.reset : ProtCtl :=
  { selected := false, bridged := false, selNext := false, brNext := false, raw := 0, runs := [0, 0, 0, 0], eff := 0
    ext := 0, extHw := false, rank := 12, code := 0, wtrRun := false, wtrLeft := 0, exerRun := false, exerLeft := 0
    exerSeen := false, exerOk := false, fop := false, archMm := false, modeMm := false, fopRun := 0, badRun := 0
    fopClr := 0, txK1 := 0, txK2 := 0, nextK1 := 0, nextK2 := 0, rxK1 := 0, rxK2 := 0, remote := 0, switches := 0 }

/-- A physical selector (R271). -/
structure Selector where
  /-- The Seat it belongs to and its number there. -/
  seat : Nat
  num : Nat
  /-- Configuration words 0 to 2 in force, sources physical. -/
  w0 : Nat
  w1 : Nat
  w2 : Nat
  /-- Reserved at GO (R271); it exists once EN has landed. -/
  live : Bool
  ctl : ProtCtl
deriving DecidableEq, Repr

/-- ESTATE of an expectation, coded as byte 43 of its entry (R287). -/
inductive EState where
  | free | pending | armed | met | detaching
deriving DecidableEq, Repr

/-- The 40 bytes of an expectation, PORT physical (R287). -/
structure ExpectBody where
  num : Nat
  port : Nat
  source : Nat
  len : Nat
  symMask : Nat
  supervise : Bool
  code : List Nat
deriving DecidableEq, Repr

/-- An entry of the cord expectation table (R287). -/
structure Expect where
  body : ExpectBody
  /-- Physical connection number and the Seat charged. -/
  conn : Nat
  seat : Nat
  state : EState
  armFrame : Nat
  armPhase : Nat
  matchFrame : Nat
  matchPhase : Nat
  lastRead : Nat
  wrong : Nat
deriving DecidableEq, Repr

/-- The protection and proof block. -/
structure ProtState where
  /-- MSP groups by physical protection port: their run state. Configuration words are in the register store. -/
  msp : Tab ProtCtl
  /-- Selectors: high-order by physical number, low-order by 2048 + physical number. -/
  sels : Tab (Option Selector)
  /-- Cord expectations by table index (none: FREE). -/
  expects : Tab (Option Expect)
  /-- PX_OVERRIDE_STATUS, reset 0. -/
  overrideOutcome : Nat
  /-- Connections that become UNBUCKLED in step 7 of the next multiframe boundary, each with an expectation to be ARMED there (R286). -/
  losses : List (Nat × Nat)
deriving DecidableEq, Repr

/-- The block at reset. -/
def ProtState.reset : ProtState := ⟨[], [], [], 0, []⟩

end Sys2Proof.Machine
end

