-- ==== Sys2Proof/Machine/State/Radio.lean ====
section
/-!
DEFINITION. State of the cord radio (chapter "The Cord Radio", R404 to R445). Configuration words are in the register store.
-/
namespace Sys2Proof.Machine

open Sys2Proof

/-- STATE of a neighbour entry, coded as byte 18 of R417. -/
inductive NbrState where
  | free | new | tracked | lostSync | dropped
deriving DecidableEq, Repr

/-- A neighbour entry (R417). -/
structure Neighbour where
  /-- Bytes 0 to 17 as written. -/
  body : Nat
  state : NbrState
  fcValid : Bool
  drift : Nat
  fcIn : Nat
  lastSeq : Nat
  missed : Nat
  resc : Nat
  /-- Arrival of the last sync in units of 1/25 phase unit (LAST_SYNC shows its frame); window polls since the entry was written or
  admitted. -/
  lastSync : Nat
  windowPolls : Nat
  /-- The windows planned for it, oldest first: position of the scheduled poll P, width W in units of 1/25 phase unit times 10^-6; and the
  last P decided (R422). -/
  windows : List (Nat × Nat)
  decided : Nat
deriving DecidableEq, Repr

/-- A free entry. -/
def Neighbour.free : Neighbour := ⟨0, .free, false, 0, 0, 0, 0, 0, 0, 0, [], 0⟩

/-- A frame in the direct or the indirect queue (R433, R434). -/
structure RadioFrame where
  ident : Nat
  seat : Nat
  /-- The 32-byte descriptor and the payload read at submission. -/
  desc : Nat
  payload : List Byte
  indirect : Bool
  nbr : Nat
  /-- Earliest legal LT, DEADLINE frame, airtime of one attempt in µs, the minute whose bucket holds the reservation. -/
  legal : Nat
  deadline : Nat
  air : Nat
  minute : Nat
  /-- Reservation still held; attempts made; SHR start of the last attempt; the last attempt failed for channel access. -/
  reserved : Bool
  tries : Nat
  txPos : Option Nat
  chanFail : Bool
  /-- Sequence number and frame counter, given at the first transmission. -/
  seqn : Option Nat
  fc : Nat
  /-- Backoffs of the attempt in progress; a CCA runs for it; it waits for an acknowledgement. -/
  backoffs : Nat
  inCca : Bool
  waitAck : Bool
deriving DecidableEq, Repr

/-- What a hardware frame is. -/
inductive HwKind where
  | rebroadcast | extraBeacon | beacon | enhAck | immAck | pollReply
deriving DecidableEq, Repr

/-- A hardware frame that waits to be sent. -/
structure HwFrame where
  kind : HwKind
  /-- The PSDU of an acknowledgement, the beacon payload, the flood payload. -/
  payload : List Byte
  /-- The indirect frame of a poll reply; Seat and calendar index of an ordered beacon (R416). -/
  frame : Option Nat
  cal : Option (Nat × Nat)
  /-- Position before which its SHR does not start; it is eligible; cycle at which a rebroadcast expires (R438). -/
  eligible : Nat
  ready : Bool
  expiry : Nat
  backoffs : Nat
  inCca : Bool
deriving DecidableEq, Repr

/-- A transmission with TX_EN high (R407, R441). -/
structure OnAir where
  /-- The queued frame's ID; none for other hardware frames. -/
  frame : Option Nat
  /-- It is a hardware frame; the Seat that holds the tokens of a Seat frame. -/
  hw : Bool
  seat : Nat
  tokens : Nat
  start : Nat
  air : Nat
deriving DecidableEq, Repr

/-- What the radio keeps for a Seat: RADIO_TXDONE and the receive queue. -/
structure RadioSeat where
  ring : Tab Nat
  next : Nat
  /-- Receive records, oldest first, at most 64. -/
  rx : List (List Byte)
deriving DecidableEq, Repr

/-- A Seat with nothing sent or received. -/
def RadioSeat.reset : RadioSeat := ⟨[], 0, []⟩

/-- The radio. -/
structure RadioState where
  /-- The transceiver has answered IDENT and the radio runs (R409); transceiver bands. -/
  up : Bool
  bands : Nat
  portFault : Bool
  bistFail : Bool
  /-- TX_EN forced low after a pin fault until RADIO_PHY is written (R482). -/
  txBlocked : Bool
  fcSet : Bool
  fcNear : Bool
  /-- Outgoing counter stopped at 0xFFFF_FFFF until a key write (R431). -/
  keyNeeded : Bool
  frames : List RadioFrame
  hw : List HwFrame
  onAir : Option OnAir
  /-- Seen cache: origin, FSEQ, expiry cycle, oldest first (R438). -/
  seen : List (Nat × Nat × Nat)
  ownFseq : Nat
  nextSeq : Nat
  nextId : Nat
  nbrs : Tab Neighbour
  /-- Keys by index, as 128-bit numbers, byte 0 least significant; bit 128: written (R430). -/
  keys : Tab Nat
  /-- Airtime in µs by account·2^40 + minute: accounts 0 to 2 the bands, 3 + n Seat n (R439). -/
  airtime : Tab Nat
  seats : Tab RadioSeat
  /-- Counters 0 to 17; RX_DROP and TXDONE_OVF of Seat n at 100 + n and 200 + n; and as of the last flip. -/
  cnt : Tab Nat
  view : Tab Nat
  /-- RADIO_LEGAL by path key (its image); RADIO_RETRY frame; offline BIST runs; RADIO_BIST_CMD.OUTCOME. -/
  legal : Tab Nat
  retryFrame : Nat
  bistRun : Bool
  bistOutcome : Nat
  /-- Cycle at which the superframe in progress began; RADIO_CFG and RADIO_SLOT in force in it, RADIO_CHAN in force (R412). -/
  sfCycle : Option Nat
  sfCfg : Nat
  sfSlot : Nat
  sfChan : Nat
  /-- The last PSDU content sent, and the last SET_MODE (0 SLEEP, 1 IDLE, 2 RX). -/
  lastTx : List Byte
  mode : Nat
  /-- The last transaction of the radio port: its command byte and the bytes sent after it (R405, R406). -/
  port : List Byte
  /-- Rescue rotation: the entry after which the next list starts (R423). -/
  rotate : Nat
deriving DecidableEq, Repr

/-- The radio at reset. -/
def RadioState.reset : RadioState :=
  { up := false, bands := 0, portFault := false, bistFail := false, txBlocked := false, fcSet := false, fcNear := false
    keyNeeded := false, frames := [], hw := [], onAir := none, seen := [], ownFseq := 0, nextSeq := 0, nextId := 0
    nbrs := [], keys := [], airtime := [], seats := [], cnt := [], view := [], legal := [], retryFrame := 0
    bistRun := false, bistOutcome := 0, sfCycle := none, sfCfg := 0, sfSlot := 0, sfChan := 0, lastTx := [], mode := 0, port := [], rotate := 0 }

end Sys2Proof.Machine
end

