-- ==== Sys2Proof/Machine/State/Scan.lean ====
section
/-!
DEFINITION. State of the scan engine (chapter "The Scan Engine", R377 to R403). SCAN_CFG, SCAN_PORTWIN and LANT_CFG are in the
register store.
-/
namespace Sys2Proof.Machine

open Sys2Proof

/-- A decoded symbol with its candidate number. -/
structure ScanSym where
  cand : Nat
  sym : SymbolRx
deriving DecidableEq, Repr

/-- A job in the queue (R383, R385). -/
structure ScanJob where
  ident : Nat
  /-- The Seat that submitted it. -/
  seat : Nat
  /-- Its 64 bytes; physical camera and trigger; physical lanterns by local number l. -/
  body : Nat
  cam : Nat
  trig : Nat
  lants : List (Nat × Nat)
  /-- Exposure position of the next attempt, phase of the first, DEADLINE frame, attempts committed so far. -/
  pos : Nat
  phase : Nat
  deadline : Nat
  tries : Nat
  /-- A position of the job was moved under R48 or R386; that of the next attempt was. -/
  moved : Bool
  shifted : Bool
  /-- Distinct codes decoded so far. -/
  codes : List (List Byte)
  /-- An attempt is committed and has not written its record. -/
  busy : Bool
  /-- No further attempt commits (R391, R403). -/
  last : Bool
deriving DecidableEq, Repr

/-- A committed attempt (R387, R388). -/
structure ScanAttempt where
  job : Nat
  /-- Physical camera. -/
  cam : Nat
  /-- Exposure position, trigger edge, exposure start; the camera is held. -/
  pos : Nat
  edge : Nat
  expose : Nat
  /-- Outcome so far: the attempt was moved. -/
  moved : Bool
  /-- The frame taken: its SEQ; it has closed; its flags. -/
  taken : Option Nat
  closed : Bool
  flagged : Bool
  /-- LT frame in which the taken frame closed. -/
  closeFrame : Nat
  /-- Finder list: complete, candidates, CAND_OVER; next candidate to take; candidates in progress. -/
  listed : Bool
  cands : Nat
  candOver : Bool
  nextCand : Nat
  inWork : Nat
  fails : Nat
  syms : List ScanSym
  /-- DETAIL of a fault: 1 NO_FRAME, 2 DEADLINE, 3 NO_UNIT. -/
  detail : Nat
  /-- The record is written; the attempt still holds its camera. -/
  done : Bool
deriving DecidableEq, Repr

/-- A committed or stand-alone strobe (R382, R387). -/
structure Strobe where
  lant : Nat
  start : Nat
  stop : Nat
  tokens : Nat
  seat : Nat
  active : Bool
deriving DecidableEq, Repr

/-- State of a decode unit or of the finder, coded as SCAN_UNIT_STATUS. -/
inductive UnitMode where
  | idle | busy | bist | failed | offline
deriving DecidableEq, Repr

/-- A decode unit: its state, the job and candidate it works on. -/
structure ScanUnit where
  mode : UnitMode
  job : Nat
  cand : Nat
deriving DecidableEq, Repr

/-- A unit at reset. -/
def ScanUnit.reset : ScanUnit := ⟨.idle, 0, 0⟩

/-- What the scan engine keeps for a Seat (R400). -/
structure ScanSeat where
  stream : List Byte
  ring : Tab Nat
  next : Nat
  overflow : Nat
  resDrop : Nat
  multi : Nat
  /-- The Seat has a job on record (R400). -/
  onRecord : Bool
deriving DecidableEq, Repr

/-- A Seat that has posted nothing. -/
def ScanSeat.reset : ScanSeat := ⟨[], [], 0, 0, 0, 0, false⟩

/-- The scan engine. -/
structure ScanState where
  jobs : List ScanJob
  attempts : List ScanAttempt
  strobes : List Strobe
  /-- Units 0 to 3, the finder at 4. -/
  units : Tab ScanUnit
  nextId : Nat
  /-- SCAN_RETRY; offline BIST ordered, running; SCAN_BIST_CMD.OUTCOME (R403). -/
  retryFrame : Nat
  bistDue : Bool
  bistRun : Bool
  bistOutcome : Nat
  seats : Tab ScanSeat
  /-- STROBES, LAST_SP by physical lantern; the last setpoint word sent on the link by channel (R378). -/
  strobeCount : Tab Nat
  lastSp : Tab Nat
  lastWord : Tab Nat
  /-- Lanterns blocked by a pin fault (R482), by physical number. -/
  blocked : Nat
deriving DecidableEq, Repr

/-- The scan engine at reset: the last words sent carry EN = 0 and SP = 0 (R379). -/
def ScanState.reset : ScanState :=
  ⟨[], [], [], [], 0, 0, false, false, 0, [], [], [], [], 0⟩

end Sys2Proof.Machine
end

