-- ==== Sys2Proof/Machine/State/Strand.lean ====
section
/-!
DEFINITION. State of the strands, the Seat events and the DMA engine (chapters "The Celec Instruction Set" and "Strands,
Memory and DMA", R151 to R208).
-/
namespace Sys2Proof.Machine

open Sys2Proof

/-- The five flags of R152. -/
structure Flags where
  z : Bool
  n : Bool
  c : Bool
  v : Bool
  t : Bool
deriving DecidableEq, Repr

/-- All flags clear. -/
def Flags.clear : Flags := ⟨false, false, false, false, false⟩

/-- Strand states, coded as ST_STATUS.STATE (R183). -/
inductive StrandMode where
  | disabled | idle | runnable | running | waiting | stalled | trapped | waking
deriving DecidableEq, Repr

/-- What a WAITING strand waits for (R174, R175). -/
inductive Wait where
  /-- WLT: LT at or past frame.phase. -/
  | lt (frame phase : Nat) (rd : Nat)
  /-- WBND: this many more boundaries of the kind (0 frame, 1 multiframe, 2 tick, 3 cycle). -/
  | bnd (kind remaining : Nat) (rd : Nat)
  /-- WEV: an event of the 64-bit mask; peek; the timeout frame. -/
  | ev (mask : Nat) (peek : Bool) (rd : Nat) (deadline : Option Nat)
deriving DecidableEq, Repr

/-- What a STALLED strand receives when its stall ends (R173, R176). -/
structure StallResult where
  /-- Register written and its value. -/
  rd : Nat
  value : Word
  /-- The T flag to be set, when the instruction writes T. -/
  t : Option Bool
  /-- RTX's second register (R179). -/
  rd2 : Option (Nat × Word)
deriving DecidableEq, Repr

/-- A strand: its context (R151), its registers and its scheduling state. -/
structure Strand where
  /-- g1 to g15 by number; unlisted read 0, as g0 does (R151), reset 0. -/
  g : Tab Word
  /-- The flags (R152), reset 0. -/
  flags : Flags
  /-- ST_PC, 22 bits (R151), reset 0. -/
  pc : Word
  /-- s.fault, s.faddr, s.epc, s.prog (R153), reset 0. -/
  fault : Word
  faddr : Word
  epc : Word
  prog : Word
  /-- The LT snapshot: FRAME[47:32] and PHASE (R154), reset 0. -/
  snapHi : Nat
  snapPhase : Nat
  /-- ST_STATUS.STATE (R183), reset DISABLED. -/
  mode : StrandMode
  /-- A pending start and its g1 (R185), reset none. -/
  pending : Option Word
  /-- ST_STATUS.LAST_OUTCOME and START_DROP (R186, R195), reset 0. -/
  lastOutcome : Nat
  startDrop : Nat
  /-- Why it WAITS, what a STALL returns. -/
  wait : Option Wait
  stall : Option StallResult
  /-- An ABORT or a cleared ENABLE waits for the stall's outcome (R188). -/
  abortDue : Bool
  /-- A change of owner waits for it (R208). -/
  ownerLost : Bool
  /-- Its 256-clock time slice has expired (R191). -/
  sliceOver : Bool
deriving DecidableEq, Repr

/-- A strand after entry to SAFE. -/
def Strand.reset : Strand :=
  { g := [], flags := .clear, pc := 0, fault := 0, faddr := 0, epc := 0, prog := 0, snapHi := 0, snapPhase := 0
    mode := .disabled, pending := none, lastOutcome := 0, startDrop := 0, wait := none, stall := none
    abortDue := false, ownerLost := false, sliceOver := false }

/-- The strands and the Seat events. -/
structure StState where
  /-- By physical number, 0 to 63. -/
  strands : Tab Strand
  /-- The 64 event flags of each Seat (R175), reset 0. -/
  events : Tab Nat
  /-- Last strand granted in each cluster, for the round robin of R191; 64 before any grant. -/
  lastGrant : Tab Nat
deriving DecidableEq, Repr

/-- Strands at entry to SAFE. -/
def StState.reset : StState := ⟨[], [], []⟩

/-- DMA channel states, coded as in R207. -/
inductive ChanMode where
  | idle | active | creditWait | stopping | faulted
deriving DecidableEq, Repr

/-- A descriptor's fields as read at the start (R199). -/
structure Descriptor where
  src : Nat
  dst : Nat
  length : Nat
  done : Nat
  srcSpace : Nat
  dstSpace : Nat
  int : Bool
  next : Nat
deriving DecidableEq, Repr

/-- A DMA channel (R199 to R208). -/
structure Channel where
  mode : ChanMode
  /-- Data address of the descriptor in hand and its fields. -/
  addr : Nat
  desc : Option Descriptor
  /-- OUTCOME, DETAIL, STOPPED, UNCONFIRMED, WB_LOST, START_OUTCOME of R207, reset 0. -/
  outcome : Nat
  detail : Nat
  stopped : Bool
  unconfirmed : Bool
  wbLost : Bool
  startOutcome : Nat
  /-- DMA_CH_DONE, reset 0. -/
  done : Nat
  /-- The Seat that owned it before a map epoch and its number there, while its burst in flight completes (R208). -/
  lost : Option (Nat × Nat)
deriving DecidableEq, Repr

/-- A channel at reset. -/
def Channel.reset : Channel := ⟨.idle, 0, none, 0, 0, false, false, false, 0, 0, none⟩

/-- A burst in flight on a mover: it was translated when it started (R100, R203). -/
structure Burst where
  /-- Physical channel and the Seat that was charged. -/
  chan : Nat
  seat : Nat
  len : Nat
  /-- Physical SRAM address of an on-chip data source or destination; physical stream; else the bus or object address. -/
  srcPhys : Nat
  dstPhys : Nat
  srcSpace : Nat
  dstSpace : Nat
  /-- The bytes read, when the source is on chip. -/
  data : List Byte
  /-- The burst ends FAULTED with this DETAIL without writing anything. -/
  fail : Option Nat
deriving DecidableEq, Repr

/-- The DMA engine. -/
structure DmaState where
  /-- Channels by physical number, 0 to 31. -/
  chans : Tab Channel
  /-- Movers M0 to M3: the burst in flight. -/
  movers : Tab (Option Burst)
  /-- Burst credit left in this tick by Seat, and bursts granted in it (R204), reset 0 up to the boundary at entry to SAFE. -/
  credit : Tab Nat
  granted : Tab Nat
  /-- Last channel granted, per class 1 to 7 (R204). -/
  lastGrant : Tab Nat
  /-- The last burst written to host memory: Seat, bus address, bytes. -/
  lastHostWrite : Option (Nat × Nat × List Byte)
deriving DecidableEq, Repr

/-- The DMA engine at reset. -/
def DmaState.reset : DmaState := ⟨[], [], [], [], [], none⟩

end Sys2Proof.Machine
end

