-- ==== Sys2Proof/Machine/State.lean ====
section
/-!
DEFINITION. The whole state of the IFX3260 as a block: one field per block of the part, the register store, the SRAM, the free-value
counter and the queue of commands; its reset; the reasons a step can stop.
-/
namespace Sys2Proof.Machine

open Sys2Proof

/-- Why a step stops. -/
inductive Fault where
  /-- The command names an object, a source or a conversion slot that the part does not have (its operand fails
  `Instr.wf`). Raised by the meanings of the commands with such an operand. Safe: no such command can reach the part. -/
  | noSuchObject
deriving DecidableEq, Repr

/-- Why a command has no meaning. -/
inductive Refusal where
  /-- A row of the table whose meaning is not written; raised by `exec` alone. Safe. -/
  | notModelled (mnemonic : String)
deriving DecidableEq, Repr

/-- The part. -/
structure State where
  /-- Line Time, calendar, commit groups (R27 to R59). -/
  lt : LtState
  /-- Supplies, stages, domains, retention (R60 to R86). -/
  pwr : PwrState
  /-- Host ports (R87 to R124). -/
  host : HostState
  /-- The change ledger (R125 to R150). -/
  led : LedgerState
  /-- Strands and Seat events (R151 to R195). -/
  st : StState
  /-- The DMA engine (R199 to R208). -/
  dma : DmaState
  /-- Line ports and GFP-F channels (R211 to R236). -/
  line : LineState
  /-- The slot fabric (R237 to R269). -/
  fab : FabState
  /-- Protection switching and patch proof (R270 to R294). -/
  prot : ProtState
  /-- The mate function (R295 to R321). -/
  mate : MateState
  /-- Backplane and mate lanes (R322 to R349). -/
  dun : DunteState
  /-- The camera pipeline (R350 to R376). -/
  cam : CamState
  /-- The scan engine (R377 to R403). -/
  scan : ScanState
  /-- The cord radio (R404 to R445). -/
  radio : RadioState
  /-- The monitor chain (R446 to R462). -/
  mon : MonState
  /-- The fault collector and ALIVE (R463 to R482). -/
  flt : FaultState
  /-- Tokens and outcome counts (R483 to R502). -/
  book : BookState
  /-- The register store: the stored value of every register that software writes, by register key, as a number of the
  register's whole width. An unlisted register holds its reset value. -/
  regs : Tab Nat
  /-- The SRAM (16 MiB, R95), by physical byte address; an unlisted byte reads 0. -/
  sram : List Host.Cell
  /-- The SRAM bytes whose word has an uncorrectable error (R182, R205) and that nothing has written since. -/
  ecc : List Nat
  /-- The model's own counter of free values taken. -/
  freeCtr : Nat
  /-- Commands that wait, first in, first out (the model's own). -/
  pending : List Instr
deriving DecidableEq, Repr

/-- Power applied, PWR_GOOD low: DARK (R69), nothing written, no command waiting. -/
def State.reset : State :=
  { lt := .reset, pwr := .reset, host := .reset, led := .reset, st := .reset, dma := .reset, line := .reset
    fab := .reset, prot := .reset, mate := .reset, dun := .reset, cam := .reset, scan := .reset, radio := .reset
    mon := .reset, flt := .reset, book := .reset, regs := [], sram := [], ecc := [], freeCtr := 0, pending := [] }

/-- What a meaning answers. -/
abbrev Result := Host.Outcome State Fault Refusal

end Sys2Proof.Machine
end

