-- ==== Sys2Proof/Machine/Regs.lean ====
section
/-!
DEFINITION. The register store (keys, reset values, read and write of a stored value) and what the Seat maps say of objects and pages
(R87, R91, R93, R95).
-/
namespace Sys2Proof.Machine

open Sys2Proof

/-- Key of a register of the part or of a physical object at an S0-window offset. -/
def kP (off : Nat) : Nat := off

/-- Key of an object word at a physical object address (R270). -/
def kO (addr : Nat) : Nat := 2 ^ 24 + addr

/-- Key of a register that each Seat has. -/
def kS (seat off : Nat) : Nat := 2 ^ 32 * (1 + seat) + off

/-- Key of an object word that each Seat numbers for itself. -/
def kSO (seat addr : Nat) : Nat := 2 ^ 32 * (1 + seat) + 2 ^ 24 + addr

/-- Key of a register that each Seat and path, and each strand, has. -/
def kPath (pk off : Nat) : Nat := 2 ^ 32 * (64 + pk) + off

/-- The path key of a host path of a Seat: 4·Seat + path; a strand's is 64 + its physical number. -/
def hostPk (seat path : Nat) : Nat := 4 * seat + path

/-- The reset value of a register where the index gives one per object (R353, R439, R467, and the monitor chapter's table). -/
def resetOf (d : RegDesc) (i j : Nat) : Nat :=
  match d.name with
  | .camBind => j / 4 + 16 * (j % 4)
  | .camBank =>
      let o := j % 256
      -- M[k][j], identity: diagonal entries 0, 6, 12, 18, 24 of the 16-bit array from +0x010
      if 4 ≤ o ∧ o ≤ 16 then
        (if (2 * (o - 4)) % 6 = 0 then 4096 else 0) + (if (2 * (o - 4) + 1) % 6 = 0 ∧ 2 * (o - 4) + 1 < 25 then 4096 * 65536 else 0)
      else if o = 20 then 64 * 65536
      else if o = 21 then 256 * 65536
      else if o = 22 then 0x40
      else if o = 24 ∨ o = 25 then 1024 + 1024 * 65536
      else 0
  | .lantCfg => if j = 0 then 2 else 0
  | .radioExt => Config.serial.toNat
  | .radioBudget => if j = 1 then 36000 else 3600000
  | .radioHwres => if j = 1 then 360 else 36000
  | .monCfg => if i < 12 then 0xA0007 else 0xA0002
  | .monGain => if i < 8 then (Config.monGain i).toNat else 0x100000
  | .monOffset => if i < 8 then (Config.monOffset i).toNat else 0
  | .monThaCtl => if i = 8 ∨ i = 10 then 0x803 else 0x800
  | .fcSevAct => [1, 3, 5, 7, 15, 13, 31, 31].getD j 1
  | _ => d.reset

/-- Default severity of a fault source (R467). -/
def sourceSev (s : Nat) : Nat :=
  if s = 6 ∨ s = 36 ∨ s = 373 then 6
  else if s = 410 then 7
  else if s = 397 then 4
  else if s = 8 ∨ (16 ≤ s ∧ s ≤ 23) ∨ s = 319 then 0
  else if s = 9 ∨ s = 11 ∨ s = 12 ∨ s = 13 ∨ s = 32 then 1
  else if s = 10 ∨ s = 14 ∨ (37 ≤ s ∧ s ≤ 64) then 3
  else if 65 ≤ s ∧ s ≤ 128 then (if (s - 65) % 4 = 1 then 1 else 3)
  else if 129 ≤ s ∧ s ≤ 136 then 1
  else if 137 ≤ s ∧ s ≤ 232 then (if (s - 137) % 3 = 1 then 1 else 3)
  else if s = 245 ∨ s = 324 then 3
  else if 325 ≤ s ∧ s ≤ 372 then 1
  else if 374 ≤ s ∧ s ≤ 377 then 1
  else if (383 ≤ s ∧ s ≤ 390) ∨ s = 393 ∨ s = 396 ∨ s = 408 ∨ s = 409 then 3
  else if s = 391 then 1
  else 2

/-- Class of a fault source: 0 CORRECTED, 1 CONTAINED, 2 FATAL (R466, R467). -/
def sourceClass (s : Nat) : Nat :=
  if s = 6 ∨ s = 36 ∨ s = 373 ∨ s = 410 then 2
  else if s = 1 ∨ s = 2 ∨ s = 4 ∨ s = 7 ∨ s = 8 ∨ s = 11 ∨ s = 12 ∨ s = 13 ∨ (16 ≤ s ∧ s ≤ 23) ∨ s = 32 then 0
  else if 65 ≤ s ∧ s ≤ 128 then (if (s - 65) % 4 = 1 then 0 else 1)
  else if 137 ≤ s ∧ s ≤ 232 then (if (s - 137) % 3 = 1 then 0 else 1)
  else if (241 ≤ s ∧ s ≤ 243) ∨ s = 249 ∨ s = 250 ∨ s = 319 ∨ s = 323 then 0
  else if 325 ≤ s ∧ s ≤ 372 then (if (s - 325) % 3 = 0 then 1 else 0)
  else if s = 376 ∨ s = 377 ∨ s = 395 ∨ s = 407 then 0
  else 1

/-- Route of a fault source: 0 O, 1 D, 2 K (R467). -/
def sourceRoute (s : Nat) : Nat :=
  if (8 ≤ s ∧ s ≤ 15) ∨ (32 ≤ s ∧ s ≤ 34) ∨ s = 324 then 1
  else if (41 ≤ s ∧ s ≤ 232) ∨ (325 ≤ s ∧ s ≤ 372) ∨ (374 ≤ s ∧ s ≤ 393) then 0
  else 2

/-- The reset value of the register at a key. Offsets that name no register read 0. -/
def regReset (key : Nat) : Nat :=
  if 2 ^ 24 ≤ key % 2 ^ 32 then
    -- word 0 of an MSP group: SD_EN and WTR 5 (R270)
    (if 2 ^ 24 + 0x440000 ≤ key ∧ key < 2 ^ 24 + 0x440200 ∧ key % 32 = 0 then 0x0A000200 else 0)
  else
    match regLocate (key % 2 ^ 24) with
    | some l => if l.desc.name = .fcSrc then sourceSev l.j else resetOf l.desc l.i l.j
    | none => 0

/-- The entry listed at an index, if any. -/
def tgetO {α : Type} : Tab α → Nat → Option α
  | [], _ => none
  | (i, v) :: t, k => if i = k then some v else tgetO t k

/-- The stored value of a register. -/
def rget (s : State) (key : Nat) : Nat := (tgetO s.regs key).getD (regReset key)

/-- Store a register's value, keeping the store canonical. -/
def rset (s : State) (key v : Nat) : State :=
  { s with regs := if v = regReset key then tdel s.regs key else tins (tdel s.regs key) key v }

/-- Change a stored value. -/
def rmod (s : State) (key : Nat) (f : Nat → Nat) : State := rset s key (f (rget s key))

/-- Bits `[lo+w-1:lo]` of a stored register. -/
def rbits (s : State) (key lo w : Nat) : Nat := bits (rget s key) lo w

/-- Bit `k` of a stored register. -/
def rbit (s : State) (key k : Nat) : Bool := bit (rget s key) k

/-- Classes of the object map: first entry and number of entries (R93). -/
def objClasses : List (Nat × Nat) :=
  [(0, 16), (16, 32), (48, 64), (112, 32), (144, 8), (152, 8), (160, 6), (166, 8), (174, 24), (198, 2), (200, 4), (204, 1), (205, 1)]

/-- How many objects the class that begins at entry `c` has. -/
def classSize (c : Nat) : Nat := ((objClasses.find? (fun p => p.1 == c)).map (·.2)).getD 0

/-- Object map entry (class base `c`, local index `k`) as MODE and PHYS: S0's is the identity (R91); MODE 3 and a PHYS outside the class
range are NOT_FITTED (R93). -/
def objEntry (s : State) (seat c k : Nat) : Nat × Nat :=
  if classSize c ≤ k then (0, 0)
  else if seat = 0 then (1, k)
  else
    let e := c + k
    let w := rget s (kP (0x10000 + 0x1000 * seat + 4 * (e / 2)))
    let v := bits w (16 * (e % 2)) 16
    let mode := bits v 12 2
    let phys := bits v 0 12
    if mode = 3 ∨ classSize c ≤ phys then (0, 0) else (mode, phys)

/-- Physical number of a Seat's object, when OWNED or OBSERVED. -/
def fittedPhys (s : State) (seat c k : Nat) : Option Nat :=
  match objEntry s seat c k with
  | (0, _) => none
  | (_, p) => some p

/-- Physical number of a Seat's object, when OWNED. -/
def ownedPhys (s : State) (seat c k : Nat) : Option Nat :=
  match objEntry s seat c k with
  | (1, p) => some p
  | _ => none

/-- The Seat-local number under which a Seat has a physical object, with the MODE: the lowest one. -/
def localOf (s : State) (seat c p : Nat) : Option (Nat × Nat) :=
  (List.range (classSize c)).findSome? (fun k =>
    match objEntry s seat c k with
    | (0, _) => none
    | (m, q) => if q = p then some (k, m) else none)

/-- The Seat OWNS the physical object. -/
def owns (s : State) (seat c p : Nat) : Bool :=
  (List.range (classSize c)).any (fun k => objEntry s seat c k = (1, p))

/-- The Seat OWNS or OBSERVES the physical object. -/
def fitted (s : State) (seat c p : Nat) : Bool :=
  (List.range (classSize c)).any (fun k => objEntry s seat c k = (1, p) ∨ objEntry s seat c k = (2, p))

/-- The Seats, S0 to S15. -/
def seats : List Nat := List.range 16

/-- The owner among S1 to S15, else S0 (R94: at most one). -/
def ownerOf (s : State) (c p : Nat) : Nat := ((List.range 15).find? (fun n => owns s (n + 1) c p)).elim 0 (· + 1)

/-- SEAT_CTL.ENABLE of a Seat; S0 is always enabled (R89). -/
def seatEnabled (s : State) (seat : Nat) : Bool := seat == 0 || rbit s (kP 0x20) seat

/-- Backplane port u of a Seat: the physical pair that contains its lane 2u, when it OWNS both lanes of that pair (R238). -/
def pairPhys (s : State) (seat u : Nat) : Option Nat :=
  match ownedPhys s seat 16 (2 * u) with
  | some l => if owns s seat 16 (l / 2 * 2) && owns s seat 16 (l / 2 * 2 + 1) then some (l / 2) else none
  | none => none

/-- Data page map entry k of a Seat: VALID, PHYS, HOST_WR, STRAND_WR (R95). -/
structure PageEntry where
  valid : Bool
  phys : Nat
  hostWr : Bool
  strandWr : Bool

/-- A 16-bit page map entry. -/
def pageEntry (v : Nat) : PageEntry := ⟨bit v 12, bits v 0 12, bit v 13, bit v 14⟩

/-- Data page k of a Seat; S0's map is data like any other Seat's. -/
def dataPage (s : State) (seat k : Nat) : PageEntry :=
  pageEntry (rbits s (kP (0x10600 + 0x1000 * seat + 4 * (k / 2))) (16 * (k % 2)) 16)

/-- Code page k of a Seat. -/
def codePage (s : State) (seat k : Nat) : PageEntry :=
  pageEntry (rbits s (kP (0x10680 + 0x1000 * seat + 4 * (k / 2))) (16 * (k % 2)) 16)

/-- The physical page holds mirrored state: VALID in a code page map, or marked in MATE_PAGE_MIR (R296). -/
def pageMirrored (s : State) (page : Nat) : Bool :=
  rbit s (kP (0xD0100 + 4 * (page / 32))) (page % 32)
    || seats.any (fun n => (List.range 1024).any (fun k => let e := codePage s n k; e.valid && e.phys == page))

/-- A Seat quota, by its map-page offset (R97): S0's are the maximum. -/
def quota (s : State) (seat off : Nat) : Nat :=
  if seat = 0 then
    match off with
    | 0x200 => 27648
    | 0x204 => 512
    | 0x208 => 64
    | 0x214 => 255
    | _ => 65535
  else rget s (kP (0x10000 + 0x1000 * seat + off))

/-- A SRAM byte; a byte that nothing has written reads 0. -/
def sramGet (s : State) (a : Nat) : Byte :=
  ((s.sram.find? (fun c => c.1 == a)).map (·.2)).getD 0

/-- Write a SRAM byte, keeping the canonical form; a byte that is written has its check bits again. -/
def sramSet (s : State) (a : Nat) (b : Byte) : State := { s with sram := tset 0 s.sram a b, ecc := s.ecc.filter (fun q => q != a) }

/-- Read `n` SRAM bytes. -/
def sramRead (s : State) (a n : Nat) : List Byte := (List.range n).map (fun k => sramGet s (a + k))

/-- Write bytes from an address on. -/
def sramWrite (s : State) (a : Nat) : List Byte → State
  | [] => s
  | b :: bs => sramWrite (sramSet s a b) (a + 1) bs

/-- A fresh free value (32 bits), and the state that has taken it. -/
def takeFree (s : State) : Word × State := (Config.freeValue s.freeCtr, { s with freeCtr := s.freeCtr + 1 })

/-- The word of a SRAM byte has an uncorrectable error (R182). -/
def wordBad (s : State) (p : Nat) : Bool := s.ecc.any (fun q => q / 4 == p / 4)

/-- An uncorrectable error strikes the SRAM word at a word address: its bytes are free from then on. -/
def sramUpset (p : Nat) (s : State) : State :=
  let (v, t) := takeFree s
  let u := sramWrite t p ((leBytes 4 v.toNat).map (fun b => BitVec.ofNat 8 b))
  { u with ecc := (List.range 4).map (fun j => p + j) ++ u.ecc }

/-- Phase units in a frame. -/
def phasesPerFrame : Nat := 19440

/-- The present position, in phase units from LT 0.0. -/
def nowPos (s : State) : Nat := s.lt.frame * phasesPerFrame + s.lt.phase

/-- The last phase of the frame in progress: where it has been cut short (R33), 19 438 when it is a shortened one (R32), else 19 439. -/
def frameLast (s : State) : Nat := min 19439 (s.lt.cutPhase.getD (if s.lt.frameAdj < 0 then 19438 else 19439))

/-- Stage codes. -/
def Stage.code : Stage → Nat
  | .dark => 0 | .safe => 1 | .framed => 2 | .loaded => 3 | .inService => 4

/-- Role codes. -/
def Role.code : Role → Nat
  | .none => 0 | .holder => 1 | .standby => 2

/-- Rein state codes (R304). -/
def Rein.code : Rein → Nat
  | .off => 0 | .pre => 1 | .listen => 2 | .standby => 3 | .holder => 4 | .releasing => 5 | .out => 6

/-- Sync state codes. -/
def Sync.code : Sync → Nat
  | .unsynced => 0 | .snapshot => 1 | .synced => 2

/-- The part is in SAFE or a later stage: AON runs. -/
def alive (s : State) : Bool := decide (1 ≤ s.pwr.stage.code)

/-- The state of switched domain `d`. -/
def domState (s : State) (d : Nat) : DomState := tget .gated s.pwr.dom d

/-- A domain whose logic runs: ON, or waiting to gate. -/
def domOn (s : State) (d : Nat) : Bool := domState s d = .on || domState s d = .gatePending

/-- The part holds its own rein: HOLDER, or OFF (R22, R295). -/
def holdsRein (s : State) : Bool := s.mate.rein = .holder || s.mate.rein = .off

/-- Requests that would change mirrored state are refused: STANDBY, RELEASING, OUT (R297), or OFF with ALIVE stopped (R472). -/
def mirrorRefused (s : State) : Bool :=
  s.mate.rein = .standby || s.mate.rein = .releasing || s.mate.rein = .out || (s.mate.rein = .off && s.flt.stopped)

end Sys2Proof.Machine
end

