-- ==== Sys2Proof/Machine/Ops.lean ====
section
/-!
DEFINITION. Operations every block uses: causes and vectors (R108, R109), outcomes counted (R486), Seat data memory as strands, DMA and
descriptors reach it (R95), frame fields of 32 bits (R174), the late rule (R48).
-/
namespace Sys2Proof.Machine

open Sys2Proof

/-- The outcome codes of the table "Outcome codes". -/
def oDone : Nat := 0x00
def oDelayed : Nat := 0x01
def oDeferred : Nat := 0x02
def oCapacity : Nat := 0x10
def oBudget : Nat := 0x11
def oLate : Nat := 0x12
def oSelftest : Nat := 0x13
def oLedger : Nat := 0x14
def oSeat : Nat := 0x15
def oFaulted : Nat := 0x20

/-- Count an outcome given to a request of a Seat (R486): DONE itself has no counter. -/
def countOutcome (seat code : Nat) (s : State) : State :=
  match [oDelayed, oDeferred, oCapacity, oBudget, oLate, oSelftest, oLedger, oSeat, oFaulted].idxOf? code with
  | some k => { s with book := { s.book with outcomes := tmod 0 s.book.outcomes (16 * seat + k) (fun n => satAdd 65535 n 1) } }
  | none => s

/-- Some enabled cause of vector `v` of a Seat is set (R108, R109, and the vectors the blocks name). -/
def vectorCause (s : State) (seat v : Nat) : Bool :=
  let both (a b : Nat) : Bool := (rget s (kS seat a) &&& rget s (kS seat b)) ≠ 0
  match v with
  | 0 => both 0x20010 0x20020
  | 1 => (rget s (kS seat 0x20014) &&& rget s (kS seat 0x20024)) % 4 ≠ 0
  | 2 => bits (rget s (kS seat 0x20014) &&& rget s (kS seat 0x20024)) 8 2 ≠ 0
  | 3 => (rget s (kP 0x7C0030) &&& rget s (kP 0x7C0034)) ≠ 0
  | 4 => (List.range 13).any (fun w => both (0x780A00 + 4 * w) (0x780A40 + 4 * w))
  | 5 => rget s (kS seat 0x48010) ≠ 0 || rget s (kS seat 0x48014) ≠ 0
  | 10 => (List.range 16).any (fun p =>
      (rget s (kP (0x80008 + 0x4000 * p)) &&& rget s (kP (0x8000C + 0x4000 * p))) ≠ 0 && fitted s seat 0 p)
  | 11 => both 0xC0000 0xC0004
  | 12 => both 0x100300 0x100304
  | 13 => both 0xC0100 0xC0104
  | 14 => both 0xD0060 0xD0064
  | 15 => both 0xEF000 0xEF004
  | 16 => both 0x4F0000 0x4F0004
  | 17 => both 0x500F00 0x500F04
  | 18 => both 0x600F00 0x600F04
  | 19 => both 0x700F00 0x700F04
  | 31 => both 0x2001C 0x2002C
  | _ =>
    if 6 ≤ v ∧ v ≤ 9 then bits (rget s (kS seat 0x21800) &&& rget s (kS seat 0x21804)) (8 * (v - 6)) 8 ≠ 0
    else if 20 ≤ v ∧ v ≤ 30 then bit (rget s (kS seat 0x20018) &&& rget s (kS seat 0x20028)) (v - 20)
    else false

/-- SEAT_INT_PEND: vectors pending under R108. -/
def pendVectors (s : State) (seat : Nat) : Nat :=
  let mask := rget s (kS seat 0x20004)
  (List.range 32).foldl (fun a v => if vectorCause s seat v && !bit mask v then a + 2 ^ v else a) 0

/-- INT_N is pulled low (R108). -/
def intLow (s : State) : Bool := seats.any (fun n => rbit s (kP 0x20008) n && pendVectors s n ≠ 0)

/-- A function's MSI-X entry: address in bits 63-0, data in 95-64, the vector mask in bit 96, set at reset. -/
def msixEntry (f : PcieFn) (v : Nat) : Nat := tget (2 ^ 96) f.table v

/-- A vector that becomes pending sends its message, or is noted in the PBA while it is masked or the link is down (R108, R114). -/
def msixRaise (seat v : Nat) (s : State) : State :=
  let f := tget .reset s.host.fns seat
  if ¬ (f.msixEn ∧ ¬ f.flr) ∨ (seat ≠ 0 ∧ ¬ f.enabled) then s
  else
    let e := msixEntry f v
    if f.msixMask ∨ bit e 96 ∨ ¬ s.host.linkUp then
      { s with host := { s.host with fns := tset .reset s.host.fns seat { f with pba := setBit f.pba v } } }
    else { s with host := { s.host with msix := ⟨seat, v, bits e 0 64, bits e 64 32⟩ :: s.host.msix } }

/-- Vectors noted in the PBA that are no longer held back: one still pending sends its message (R108, PCI rules). -/
def msixFlush (seat : Nat) (s : State) : State :=
  let f := tget .reset s.host.fns seat
  if f.pba = 0 ∨ ¬ (f.msixEn ∧ ¬ f.flr ∧ s.host.linkUp) ∨ f.msixMask then s
  else (setPositions 32 f.pba).foldl (fun t v =>
    if bit (msixEntry f v) 96 then t
    else
      let g := tget .reset t.host.fns seat
      msixRaise seat v { t with host := { t.host with fns := tset .reset t.host.fns seat { g with pba := clrBit g.pba v } } }) s

/-- Evaluate a Seat's vectors: a vector that has become pending raises its message; one that is pending no longer leaves the PBA. -/
def notify (seat : Nat) (s : State) : State :=
  let pend := pendVectors s seat
  let fresh := clrMask pend (tget 0 s.host.pendSeen seat)
  let f := tget .reset s.host.fns seat
  let fns := if f.pba &&& pend = f.pba then s.host.fns else tset .reset s.host.fns seat { f with pba := f.pba &&& pend }
  let s1 := { s with host := { s.host with pendSeen := tset 0 s.host.pendSeen seat pend, fns := fns } }
  (setPositions 32 fresh).foldl (fun t v => msixRaise seat v t) s1

/-- Evaluate every Seat's vectors. -/
def notifyAll (s : State) : State := seats.foldl (fun t n => notify n t) s

/-- Set bit `k` of a Seat's cause register. -/
def setCause (seat off k : Nat) (s : State) : State := notify seat (rmod s (kS seat off) (fun v => setBit v k))

/-- Set bit `k` of a cause register in each Seat of a list. -/
def setCauses (ns : List Nat) (off k : Nat) (s : State) : State := ns.foldl (fun t n => setCause n off k t) s

/-- Set bit `k` of a cause register that the part has once. -/
def setCauseP (off k : Nat) (s : State) : State := notifyAll (rmod s (kP off) (fun v => setBit v k))

/-- The enabled Seats. -/
def enabledSeats (s : State) : List Nat := seats.filter (seatEnabled s)

/-- The Seats that OWN or OBSERVE an object. -/
def fittedSeats (s : State) (c p : Nat) : List Nat := seats.filter (fun n => fitted s n c p)

/-- Physical address of a byte of a Seat's data memory that is readable there: its page is VALID and below the mapped range's end. -/
def dataPhys (s : State) (seat a : Nat) : Option Nat :=
  if 0x40000 ≤ a then none
  else
    let e := dataPage s seat (a / 4096)
    if e.valid ∧ e.phys ≤ 0xF7F then some (4096 * e.phys + a % 4096) else none

/-- The page of a data byte accepts strand, DMA and block writes: STRAND_WR, and not write-protected by R297. -/
def dataWritable (s : State) (seat a : Nat) : Bool :=
  let e := dataPage s seat (a / 4096)
  e.strandWr && !(mirrorRefused s && pageMirrored s e.phys)

/-- Read `n` bytes of a Seat's data memory; none where a byte is unmapped. -/
def dataRead (s : State) (seat a n : Nat) : Option (List Byte) :=
  (List.range n).mapM (fun k => (dataPhys s seat (a + k)).map (sramGet s))

/-- A number from its bytes, least significant first (R4). -/
def bytesVal (bs : List Byte) : Nat := ofLe (bs.map (·.toNat))

/-- The low `n` bytes of a number. -/
def toBytes (n v : Nat) : List Byte := (leBytes n v).map (fun b => BitVec.ofNat 8 b)

/-- A 32-bit frame field as a frame count: the count nearest the present frame with those low 32 bits (R174). DESIGN CHOICE (entry 57): one that would
lie before count 0 is frame 0. -/
def frame32 (s : State) (v : Nat) : Nat :=
  let f := s.lt.frame
  let base := f - f % 2 ^ 32 + v % 2 ^ 32
  if f % 2 ^ 32 + 2 ^ 31 ≤ v % 2 ^ 32 then base - 2 ^ 32
  else if v % 2 ^ 32 + 2 ^ 31 < f % 2 ^ 32 then base + 2 ^ 32
  else base

/-- A position as its LT image: frame in the low 48 bits, phase above. -/
def ltImage (pos : Nat) : Nat := pos / phasesPerFrame % 2 ^ 48 + (pos % phasesPerFrame) * 2 ^ 48

/-- A periodic action due at the cycles that are `ofs` modulo `per` is taken at the boundary that leads from cycle `old` to cycle `c`: its cycle
is `c`, or lies among those skipped (R501). -/
def cycleDue (old c per ofs : Nat) : Bool :=
  if old < c then decide ((c + per - ofs) / per ≠ (old + per - ofs) / per) else c % per == ofs

/-- E of R48: the frame of acceptance plus 2. -/
def earliest (s : State) : Nat := s.lt.frame + 2

/-- The late rule of R48 on a position: on time, delayed to the first cycle boundary at or after E, or refused. -/
inductive LateResult where
  | onTime (pos : Nat)
  | delayed (pos : Nat)
  | late

/-- The first cycle boundary at or after a frame. -/
def cycleUp (f : Nat) : Nat := (f + 15) / 16 * 16

/-- Apply the late rule (R48): at or after E.0 stands; not more than 32 frames before acceptance moves; older is refused. A position before LT 0.0
(R54) is negative. -/
def lateRule (s : State) (pos : Int) : LateResult :=
  if ((earliest s * phasesPerFrame : Nat) : Int) ≤ pos then .onTime pos.toNat
  else if (nowPos s : Int) ≤ pos + ((32 * phasesPerFrame : Nat) : Int) then .delayed (cycleUp (earliest s) * phasesPerFrame)
  else .late

/-- LT_SEAT_PRI of a Seat. -/
def seatPri (s : State) (seat : Nat) : Nat := rbits s (kP 0x1050) (4 * seat) 3

/-- Tokens held by a Seat. -/
def heldTokens (s : State) (seat : Nat) : Nat := tget 0 s.book.held seat

/-- Tokens held by all Seats. -/
def heldSeats (s : State) : Nat := (seats.map (heldTokens s)).foldl (· + ·) 0

/-- POOL and HWRES of BOOK_TOKENS. -/
def tokPool (s : State) : Nat := rbits s (kP 0x500) 0 12
def tokHwres (s : State) : Nat := rbits s (kP 0x500) 16 12

/-- `n` tokens are available to a Seat and to the part (R495). -/
def tokensFree (s : State) (seat n : Nat) : Bool :=
  decide (heldTokens s seat + n ≤ quota s seat 0x214) && decide (heldSeats s + n ≤ tokPool s - tokHwres s)
    && decide (heldSeats s + s.book.hwHeld + n ≤ tokPool s)

/-- `n` tokens are available to a hardware frame (R495). -/
def tokensFreeHw (s : State) (n : Nat) : Bool := decide (heldSeats s + s.book.hwHeld + n ≤ tokPool s)

/-- Hold and release tokens of a Seat. -/
def holdTokens (seat n : Nat) (s : State) : State :=
  { s with book := { s.book with held := tmod 0 s.book.held seat (· + n) } }
def dropTokens (seat n : Nat) (s : State) : State :=
  { s with book := { s.book with held := tmod 0 s.book.held seat (· - n) } }

/-- Hold and release tokens of hardware frames. -/
def holdHw (n : Nat) (s : State) : State := { s with book := { s.book with hwHeld := s.book.hwHeld + n } }
def dropHw (n : Nat) (s : State) : State := { s with book := { s.book with hwHeld := s.book.hwHeld - n } }

end Sys2Proof.Machine
end

