-- ==== Sys2Proof/Machine/Ledger.lean ====
section
/-!
DEFINITION. The change ledger: appending records (R126 to R134), seals (R135, R136), losses and gaps (R141), space (R142, R143), the key
(R137, R138). A first loss is left in `lossDue`: the fault collector, whose records the ledger takes, stands above this file.
-/
namespace Sys2Proof.Machine

open Sys2Proof

/-- Who makes a change (R129): the Seat, the path code (0 PCIe, 1 legacy bus, 2 SPI, 3 strand, 4 DMA, 5 hardware) and the unit. -/
structure Agent where
  seat : Nat
  path : Nat
  unit : Nat
deriving DecidableEq, Repr

/-- A host path's code. -/
def pathCode : HostPath → Nat
  | .pcie => 0 | .lb => 1 | .spi => 2

/-- A Seat on a host path. -/
def hostAgent (w : HostWho) : Agent := ⟨w.seat.toNat, pathCode w.path, 0⟩

/-- The key of what is kept for each (Seat, path) and each strand (R506); a DMA channel has its own, read by nothing. -/
def Agent.pk (a : Agent) : Nat :=
  if a.path < 3 then hostPk a.seat a.path else if a.path = 3 then 64 + a.unit else 128 + a.unit

/-- Free space F (R142). -/
def ledgerFree (s : State) : Nat := 8192 - s.led.used

/-- Entries that a record takes. -/
def LedgerRec.size (r : LedgerRec) : Nat := 1 + r.conts.length

/-- Bytes 12 to 27 of a head entry (R128, R129). -/
def headMid (r : LedgerRec) (rsv : Bool) : Nat :=
  (r.seat + 16 * r.path + 128 * r.unit) + 2 ^ 16 * r.kind
    + 2 ^ 24 * (r.conts.length + 16 * b2n rsv + 32 * b2n r.kflag)
    + 2 ^ 32 * (r.object % 2 ^ 32) + 2 ^ 64 * (r.old % 2 ^ 32) + 2 ^ 96 * (r.new % 2 ^ 32)

/-- The first 28 bytes of an entry. -/
def entryHead (seq frame phase mid : Nat) : List Nat :=
  leBytes 4 seq ++ leBytes 6 frame ++ leBytes 2 phase ++ leBytes 16 mid

/-- The 32 bytes of an entry (R128). -/
def LedgerEntry.bytes (e : LedgerEntry) : List Nat := entryHead e.seq e.frame e.phase e.mid ++ leBytes 4 e.crc

/-- Append one entry: number it, chain it, write sequence number and chain value through to the retention cell (R78, R133). -/
def pushEntry (seat kind frame phase mid : Nat) (s : State) : State :=
  let crc := crc32c (leBytes 4 s.pwr.ret.chain ++ entryHead s.pwr.ret.seq frame phase mid)
  let e : LedgerEntry := ⟨s.pwr.ret.seq, frame, phase, mid, crc, seat, kind⟩
  { s with
    pwr := { s.pwr with ret := { s.pwr.ret with seq := wrap32 s.pwr.ret.seq 1, chain := crc } }
    led := { s.led with ring := (e :: s.led.ring).take 8192, used := s.led.used + 1, sinceSeal := s.led.sinceSeal + 1
                        lastFrame := frame, lastPhase := phase } }

/-- The LT a record is stamped with: its own, raised to that of the last entry of the segment (R131). -/
def stampOf (s : State) (r : LedgerRec) : Nat × Nat :=
  if r.frame < s.led.lastFrame ∨ (r.frame = s.led.lastFrame ∧ r.phase < s.led.lastPhase)
  then (s.led.lastFrame, s.led.lastPhase) else (r.frame, r.phase)

/-- NEAR_FULL and HW_ONLY when F falls to 2048 and below 1025 (R143). -/
def spaceCauses (before : Nat) (s : State) : State :=
  let f := ledgerFree s
  let s1 := if 2048 < before ∧ f ≤ 2048 then setCauseP 0x7C0030 0 s else s
  if 1025 ≤ before ∧ f < 1025 then setCauseP 0x7C0030 1 s1 else s1

/-- Append a whole record (R134). -/
def appendRec (r : LedgerRec) (s : State) : State :=
  let before := ledgerFree s
  let (frame, phase) := stampOf s r
  let s1 := pushEntry r.seat r.kind frame phase (headMid r (decide (before < 1024 + r.size))) s
  let s2 := r.conts.foldl (fun t c => pushEntry r.seat r.kind frame phase c t) s1
  spaceCauses before s2

/-- A record of the ledger's own unit. -/
def ownRec (s : State) (kind object old new : Nat) (kflag : Bool) (conts : List Nat) : LedgerRec :=
  ⟨kind, 0, 5, 7, object, old, new, kflag, conts, s.lt.frame, s.lt.phase⟩

/-- A key of 32 zero bytes is no key (R137, R138). -/
def keyed (s : State) : Bool := s.pwr.ret.key.any (· ≠ 0)

/-- The fingerprint of a key (R137). -/
def fingerprint (key : List Nat) : Nat := ofLe ((hmacSha256 key []).take 4)

/-- The SEAL record: the entries since the previous SEAL or from the START record on, and their MAC (R135). -/
def sealRec (s : State) : LedgerRec :=
  let n := s.led.sinceSeal
  let covered := (s.led.ring.take n).reverse.flatMap LedgerEntry.bytes
  let mac := if keyed s then ofLe ((hmacSha256 s.pwr.ret.key covered).take 16) else 0
  ownRec s 0x21 ((s.pwr.ret.seq + 2 ^ 32 - n) % 2 ^ 32) n (b2n (keyed s)) (!keyed s) [mac]

/-- The GAP record (R141). -/
def gapRec (s : State) : LedgerRec :=
  ownRec s 0x22 s.led.lostUnits s.led.lost s.led.lostEntries false [s.led.lostFirst + 2 ^ 64 * s.led.lostLast]

/-- A record that finds no free entry (R141). -/
def loseRec (r : LedgerRec) (s : State) : State :=
  let lt := r.frame + 2 ^ 48 * r.phase
  let first := s.led.lost = 0
  let l := { s.led with
    lost := satAdd (2 ^ 32 - 1) s.led.lost 1, lostEntries := s.led.lostEntries + r.size
    lostUnits := setBit s.led.lostUnits r.unit, lostLast := lt, lostFirst := if first then lt else s.led.lostFirst
    lossDue := first || s.led.lossDue }
  let s1 := { s with led := l }
  if first then setCauseP 0x7C0030 2 s1 else s1

/-- Every record of the append queue is lost. -/
def loseQueue (s : State) : State :=
  let q := s.led.queue
  q.foldl (fun t r => loseRec r t) { s with led := { s.led with queue := [] } }

/-- The START record is appended; the seal count restarts with it (R135, R139). -/
def appendStart (r : LedgerRec) (s : State) : State :=
  appendRec r { s with led := { s.led with startWaiting := none, sinceSeal := 0, lastFrame := 0, lastPhase := 0 } }

/-- Appends that can be made now, in their order: START, a due SEAL (whose computation starts), a due GAP, the queue. -/
def ledgerPump : Nat → State → State
  | 0, s => s
  | n + 1, s =>
      match s.led.startWaiting with
      | some r => if 2 ≤ ledgerFree s then ledgerPump n (appendStart r s) else loseQueue s
      | none =>
          if s.led.sealBusy then s
          else if 256 ≤ s.led.sinceSeal then
            if 2 ≤ ledgerFree s then { s with led := { s.led with sealBusy := true } } else loseQueue s
          else if s.led.lost ≠ 0 then
            if 2 ≤ ledgerFree s then
              ledgerPump n (appendRec (gapRec s)
                { s with led := { s.led with lost := 0, lostEntries := 0, lostUnits := 0, lostFirst := 0, lostLast := 0 } })
            else loseQueue s
          else
            match s.led.queue with
            | [] => s
            | r :: q =>
                let s1 := { s with led := { s.led with queue := q } }
                if r.size ≤ ledgerFree s1 then ledgerPump n (appendRec r s1) else ledgerPump n (loseRec r s1)

/-- Enough rounds for a full queue. -/
def pumpRounds : Nat := 80

/-- Append what can be appended. -/
def ledgerDrain (s : State) : State := ledgerPump pumpRounds s

/-- A hardware-originated record (R126): appended, queued behind a seal, or lost (R136, R141). -/
def ledgerAppendHw (r : LedgerRec) (s : State) : State :=
  if 64 ≤ s.led.queue.length then loseRec r s
  else ledgerDrain { s with led := { s.led with queue := s.led.queue ++ [r] } }

/-- A hardware-originated record of a unit; its Seat is the one given (R129). -/
def rawHwSeat (seat unit kind object old new : Nat) (kflag : Bool) (conts : List Nat) (s : State) : State :=
  ledgerAppendHw ⟨kind, seat, 5, unit, object, old, new, kflag, conts, s.lt.frame, s.lt.phase⟩ s

/-- A hardware-originated record with Seat 0. -/
def rawHw (unit kind object old new : Nat) (kflag : Bool) (conts : List Nat) (s : State) : State :=
  rawHwSeat 0 unit kind object old new kflag conts s

/-- The end of a seal's computation: the SEAL is appended and the waiting appends proceed (R136). -/
def sealDone (s : State) : State :=
  if s.led.sealBusy then
    let s1 := { s with led := { s.led with sealBusy := false } }
    if 2 ≤ ledgerFree s1 then
      let s2 := appendRec (sealRec s1) s1
      ledgerDrain { s2 with led := { s2.led with sinceSeal := 0 } }
    else ledgerDrain s1
  else s

/-- A management record (R142): none when it cannot be appended (REFUSED_LEDGER). A seal in progress completes first (R136). -/
def rawMgmt (a : Agent) (kind object old new : Nat) (kflag : Bool) (conts : List Nat) (s : State) : Option State :=
  let s1 := ledgerDrain (sealDone s)
  let r : LedgerRec := ⟨kind, a.seat, a.path, a.unit, object, old, new, kflag, conts, s.lt.frame, s.lt.phase⟩
  if s1.led.startWaiting = none ∧ 1024 + r.size ≤ ledgerFree s1 then some (ledgerDrain (appendRec r s1)) else none

/-- The continuations of a value record: 8 bytes of old and of new value each (R128). -/
def valueConts (bytes old new : Nat) : List Nat :=
  (List.range ((bytes + 3) / 8)).map (fun k =>
    bits old (32 + 64 * k) 64 + 2 ^ 64 * bits new (32 + 64 * k) 64)

/-- The sequence number of the last record's last entry, and of the next. -/
def ledgerSeq (s : State) : Nat := s.pwr.ret.seq
def lastSeq (s : State) : Nat := (s.pwr.ret.seq + 2 ^ 32 - 1) % 2 ^ 32

/-- SEQ of the oldest entry not released. -/
def oldestSeq (s : State) : Nat := (s.pwr.ret.seq + 2 ^ 32 - s.led.used) % 2 ^ 32

end Sys2Proof.Machine
end

