-- ==== Sys2Proof/Machine/StrandOps.lean ====
section
/-!
DEFINITION. What every block needs of the strands: starts (R185 to R187), the issue slot (R191), events (R175), traps (R182, R193), aborts
(R188), wake-ups at a boundary (R174), a change of owner (R208).
-/
namespace Sys2Proof.Machine

open Sys2Proof

/-- The strand of a physical number. -/
def strandAt (s : State) (n : Nat) : Strand := tget .reset s.st.strands n

/-- Put a strand back. -/
def setStrand (n : Nat) (t : Strand) (s : State) : State :=
  { s with st := { s.st with strands := tset .reset s.st.strands n t } }

/-- Change a strand. -/
def modStrand (n : Nat) (f : Strand → Strand) (s : State) : State := setStrand n (f (strandAt s n)) s

/-- ST_CTL, ST_ENTRY and ST_ARG of a physical strand. -/
def stCtlOf (s : State) (n : Nat) : Nat := rget s (kP (0x40000 + 0x100 * n))
def stEntryOf (s : State) (n : Nat) : Nat := rget s (kP (0x40004 + 0x100 * n))
def stArgOf (s : State) (n : Nat) : Nat := rget s (kP (0x4000C + 0x100 * n))

/-- ST_CTL.PRIORITY. -/
def priorityOf (s : State) (n : Nat) : Nat := bits (stCtlOf s n) 1 3

/-- The Seat of a strand. -/
def strandSeat (s : State) (n : Nat) : Nat := ownerOf s 48 n

/-- Its Seat-local number. -/
def strandLocal (s : State) (n : Nat) : Nat := ((localOf s (strandSeat s n) 48 n).map (·.1)).getD n

/-- General register `r` of a strand; g0 reads 0 (R151). -/
def Strand.reg (t : Strand) (r : Nat) : Word := if r = 0 then 0 else tget 0 t.g r

/-- Write a general register; a write of g0 is discarded (R151). -/
def Strand.setReg (r : Nat) (v : Word) (t : Strand) : Strand := if r = 0 then t else { t with g := tset 0 t.g r v }

/-- Write the T flag. -/
def Strand.setT (b : Bool) (t : Strand) : Strand := { t with flags := { t.flags with t := b } }

/-- How far physical strand `n` stands behind `last` in the round robin of a cluster. -/
def robin (last n : Nat) : Nat := (n + 63 - last) % 8

/-- The strand that the slot passes to among some: highest priority, then round robin after the last grant (R191). -/
def bestStrand (s : State) (last : Nat) (ns : List Nat) : Option Nat :=
  let hi := (ns.map (priorityOf s)).foldl max 0
  (ns.filter (fun n => priorityOf s n = hi)).foldl (fun b n =>
    match b with
    | none => some n
    | some m => if robin last n < robin last m then some n else some m) none

/-- Grant the slot of a cluster. -/
def grant (k n : Nat) (s : State) : State :=
  let s1 := modStrand n (fun t => { t with mode := .running, sliceOver := false }) s
  { s1 with st := { s1.st with lastGrant := tset 64 s1.st.lastGrant k n } }

/-- A landing point of cluster `k`, or a strand has become runnable in it (R191). -/
def reschedule (k : Nat) (s : State) : State :=
  let ns := (List.range 8).map (8 * k + ·)
  let ready := ns.filter (fun n => (strandAt s n).mode = .runnable)
  let last := tget 64 s.st.lastGrant k
  match bestStrand s last ready with
  | none => s
  | some c =>
      match ns.find? (fun n => (strandAt s n).mode = .running) with
      | none => grant k c s
      | some r =>
          if priorityOf s r < priorityOf s c ∨ (priorityOf s r = priorityOf s c ∧ (strandAt s r).sliceOver) then
            grant k c (modStrand r (fun t => { t with mode := .runnable }) s)
          else s

/-- A strand becomes RUNNABLE. -/
def makeRunnable (n : Nat) (f : Strand → Strand) (s : State) : State :=
  reschedule (n / 8) (modStrand n (fun t => { f t with mode := .runnable, wait := none, stall := none }) s)

/-- The register latches of a strand are cleared (R151, R185). -/
def clearLatches (n : Nat) (s : State) : State :=
  { s with host := { s.host with paths := tmod .reset s.host.paths (64 + n) (fun p => { p with latches := [] }) } }

/-- A start of an IDLE strand (R185). -/
def startIdle (n : Nat) (arg : Word) (s : State) : State :=
  let entry := BitVec.ofNat 32 (stEntryOf s n)
  makeRunnable n (fun t =>
    { t with g := tset 0 [] 1 arg, flags := .clear, pc := entry, fault := 0, faddr := 0, epc := 0, prog := 0, snapHi := 0
             snapPhase := 0, pending := none, abortDue := false, sliceOver := false }) (clearLatches n s)

/-- A start request (R185): its outcome and effect. -/
def startStrand (n : Nat) (arg : Word) (s : State) : Nat × State :=
  let t := strandAt s n
  match t.mode with
  | .disabled => (oSeat, s)
  | .idle => (oDone, startIdle n arg s)
  | _ =>
      if t.pending = none then (oDeferred, setStrand n { t with pending := some arg } s) else (oCapacity, s)

/-- The event flags of a Seat. -/
def eventFlags (s : State) (seat : Nat) : Nat := tget 0 s.st.events seat

/-- Replace them. -/
def setEventFlags (seat v : Nat) (s : State) : State :=
  { s with st := { s.st with events := tset 0 s.st.events seat v } }

/-- The strands of a Seat, by Seat-local number and physical number, as OWNED, lowest local number first. -/
def seatStrands (s : State) (seat : Nat) : List (Nat × Nat) :=
  (List.range 64).filterMap (fun k =>
    match ownedPhys s seat 48 k with
    | some p => if strandSeat s p = seat then some (k, p) else none
    | none => none)

/-- A strand waits for event `e` in WEV with the given peek. -/
def waitsFor (t : Strand) (e : Nat) (peek : Bool) : Bool :=
  match t.mode, t.wait with
  | .waiting, some (.ev mask p _ _) => mask.testBit e && p == peek
  | _, _ => false

/-- An IDLE strand whose start mask holds event `e` (R187). -/
def startsOn (s : State) (n e : Nat) : Bool :=
  (strandAt s n).mode = .idle && bit (stCtlOf s n) 4 && bits (stCtlOf s n) 8 6 == e

/-- A waiter wakes with event `e` (R175). -/
def wakeEv (n e : Nat) (s : State) : State :=
  match (strandAt s n).wait with
  | some (.ev _ _ rd _) => makeRunnable n (fun t => (t.setReg rd (BitVec.ofNat 32 e)).setT true) s
  | _ => s

/-- The one candidate that takes event `e` (R187): highest priority, a waiter before a starter, the lowest local number. -/
def eventTaker (s : State) (seat e : Nat) : Option (Nat × Bool) :=
  (seatStrands s seat).foldl (fun best (kp : Nat × Nat) =>
    let p := kp.2
    let isW := waitsFor (strandAt s p) e false
    if isW || startsOn s p e then
      match best with
      | none => some (p, isW)
      | some (q, qW) =>
          if priorityOf s q < priorityOf s p ∨ (priorityOf s q = priorityOf s p ∧ isW ∧ ¬ qW) then some (p, isW) else best
    else best) none

/-- An event that is set wakes every peek waiter, then is taken by at most one candidate, which clears it (R175, R187). -/
def serveEvent (seat e : Nat) (s : State) : State :=
  if ¬ (eventFlags s seat).testBit e then s
  else
    let s1 := (seatStrands s seat).foldl (fun u (kp : Nat × Nat) =>
      if waitsFor (strandAt u kp.2) e true then wakeEv kp.2 e u else u) s
    match eventTaker s1 seat e with
    | none => s1
    | some (n, isW) =>
        let s2 := setEventFlags seat (clrBit (eventFlags s1 seat) e) s1
        if isW then wakeEv n e s2 else startIdle n (BitVec.ofNat 32 e) s2

/-- Set event `e` of a Seat. -/
def setEvent (seat e : Nat) (s : State) : State := serveEvent seat e (setEventFlags seat (setBit (eventFlags s seat) e) s)

/-- A strand that has entered IDLE competes for an event already set (R187). -/
def idleEvents (n : Nat) (s : State) : State :=
  if (strandAt s n).mode = .idle ∧ bit (stCtlOf s n) 4 then serveEvent (strandSeat s n) (bits (stCtlOf s n) 8 6) s else s

/-- Entry to IDLE through STOP or a completed wake: a pending start is taken (R184, R185). -/
def enterIdle (n : Nat) (s : State) : State :=
  let s1 := modStrand n (fun t => { t with mode := .idle, wait := none, stall := none }) s
  match (strandAt s1 n).pending with
  | some a => startIdle n a s1
  | none => reschedule (n / 8) (idleEvents n s1)

/-- R188 at once: the strand ends IDLE, or DISABLED; s.prog, the context and a pending start are discarded. -/
def abortNow (n : Nat) (s : State) : State :=
  let en := bit (stCtlOf s n) 0
  let s1 := setStrand n { Strand.reset with
    mode := if en then .idle else .disabled, lastOutcome := (strandAt s n).lastOutcome, startDrop := (strandAt s n).startDrop } (clearLatches n s)
  reschedule (n / 8) (idleEvents n s1)

/-- ABORT, or ENABLE cleared (R188): a STALLED strand ends when its outcome is known. -/
def abortStrand (n : Nat) (s : State) : State :=
  match (strandAt s n).mode with
  | .stalled => modStrand n (fun t => { t with abortDue := true, pending := none }) s
  | _ => abortNow n s

/-- A trap (R182, R193): the trap registers, TRAPPED, the Seat's cause and vector 5, the handler. -/
def trapStrand (n code detail faddr : Nat) (wr : Bool) (s : State) : State :=
  let seat := strandSeat s n
  let loc := strandLocal s n
  let s1 := modStrand n (fun t =>
    { t with mode := .trapped, fault := BitVec.ofNat 32 (code + 256 * (detail % 256) + 65536 * b2n wr)
             faddr := BitVec.ofNat 32 faddr, epc := t.pc, wait := none, stall := none }) s
  let s2 := setCause seat (0x48010 + 4 * (loc / 32)) (loc % 32) s1
  let ctl := stCtlOf s2 n
  let s3 :=
    if bit ctl 16 ∧ bits ctl 24 6 ≠ loc then
      match ownedPhys s2 seat 48 (bits ctl 24 6) with
      | some h => (startStrand h (BitVec.ofNat 32 loc) s2).2
      | none => s2
    else s2
  reschedule (n / 8) s3

/-- s.lt_lo of a strand is read: the snapshot and FRAME[31:0] (R154). -/
def readLtLo (s : State) (t : Strand) : Word × Strand :=
  (BitVec.ofNat 32 s.lt.frame, { t with snapHi := s.lt.frame / 2 ^ 32 % 65536, snapPhase := s.lt.phase })

/-- A WLT that has been reached resumes (R154, R174). DESIGN CHOICE (entry 57): it takes a whole snapshot, s.lt_hi and s.phase with rd. -/
def wakeLt (n : Nat) (s : State) : State :=
  match (strandAt s n).mode, (strandAt s n).wait with
  | .waiting, some (.lt _ _ rd) =>
      makeRunnable n (fun t => let (v, t1) := readLtLo s t; (t1.setReg rd v).setT true) s
  | _, _ => s

/-- The present frame starts a boundary of the kind (0 frame, 1 multiframe, 2 tick, 3 cycle). -/
def boundaryKind (f kind : Nat) : Bool :=
  match kind with
  | 0 => true
  | 1 => f % 4 == 0
  | 2 => f % 8 == 0
  | _ => f % 16 == 0

/-- Step 9: WLT and WBND wake-ups at the boundary f.0, in order of physical strand number (R174). -/
def boundaryWake (n : Nat) (s : State) : State :=
  match (strandAt s n).mode, (strandAt s n).wait with
  | .waiting, some (.lt f p _) => if f * phasesPerFrame + p ≤ nowPos s then wakeLt n s else s
  | .waiting, some (.bnd k m rd) =>
      if ¬ boundaryKind s.lt.frame k then s
      else if m ≤ 1 then makeRunnable n (fun t => (t.setReg rd (BitVec.ofNat 32 s.lt.frame)).setT true) s
      else modStrand n (fun t => { t with wait := some (.bnd k (m - 1) rd) }) s
  | _, _ => s

/-- Clear a strand for a new owner (R198, R208). -/
def clearStrand (n : Nat) (s : State) : State :=
  let page (a : Nat) : Bool := decide (4096 * (0xF80 + n) ≤ a ∧ a < 4096 * (0xF81 + n))
  let s1 := { s with sram := s.sram.filter (fun c => !page c.1), ecc := s.ecc.filter (fun a => !page a) }
  let s2 := rset (rset s1 (kP (0x40000 + 0x100 * n)) 0) (kP (0x40004 + 0x100 * n)) 0
  let s3 := { s2 with host := { s2.host with paths := tset .reset s2.host.paths (64 + n) .reset } }
  reschedule (n / 8) (setStrand n .reset s3)

end Sys2Proof.Machine
end

