-- ==== Sys2Proof/Machine/MateMsg.lean ====
section
/-!
DEFINITION. The messages of the mate link as bytes (R311) and the queue from which the link takes them (R311, R348).
-/
namespace Sys2Proof.Machine

open Sys2Proof

/-- A message with the CRC-32C of all before it at its end. -/
def withCrc (h : List Nat) : List Nat := h ++ leBytes 4 (crc32c h)

/-- HEARTBEAT, 40 bytes. -/
def heartbeatBytes (h : Heartbeat) : List Nat :=
  withCrc ([1, h.rein.toNat + 16 * h.sync.toNat,
    b2n h.countOk + 2 * b2n h.feedA + 4 * b2n h.feedB + 8 * b2n h.vstb + 16 * b2n h.takeBlock, h.pri.toNat]
    ++ leBytes 6 h.frame.toNat ++ [h.rev.toNat, 0] ++ leBytes 4 h.term.toNat ++ leBytes 4 h.leaseEnd.toNat ++ leBytes 4 h.seq.toNat
    ++ leBytes 8 h.serial.toNat ++ leBytes 4 0)

/-- EPOCH_OPEN, 24 bytes. -/
def openBytes (e : EpochBody) : List Nat :=
  withCrc ([2, 0, 0, 0] ++ leBytes 4 e.seq ++ leBytes 6 e.startFrame ++ [0, 0] ++ leBytes 4 e.term)

/-- DELTA, 16 + LEN bytes. -/
def deltaBytes (d : MateDelta) : List Nat :=
  [3, d.space.toNat, b2n d.delete + 2 * b2n d.snap + 4 * b2n d.more, 0] ++ leBytes 2 d.data.length ++ [0, 0]
    ++ leBytes 4 d.addr.toNat ++ leBytes 4 d.ledgerSeq.toNat ++ d.data.map (·.toNat)

/-- EPOCH_TRAILER, 32 bytes. -/
def trailerBytes (t : EpochTrailer) : List Nat :=
  withCrc ([4, b2n t.overflow + 2 * b2n t.final, 0, 0] ++ leBytes 4 t.seq.toNat ++ leBytes 4 t.nDelta.toNat ++ leBytes 4 t.bodyBytes.toNat
    ++ leBytes 4 t.bodyCrc.toNat ++ leBytes 4 t.ledgerFirst.toNat ++ leBytes 4 t.ledgerCount.toNat)

/-- RELEASE, 24 bytes. -/
def releaseBytes (r : ReleaseMsg) : List Nat :=
  withCrc ([5, r.kind.toNat, 0, 0] ++ leBytes 4 r.finalSeq.toNat ++ leBytes 4 r.takeCycle.toNat ++ leBytes 4 r.term.toNat
    ++ leBytes 4 r.pendingDeltas.toNat)

/-- SNAP_REQ, 12 bytes. -/
def snapReqBytes (lastSeq : Nat) : List Nat := withCrc ([6, 0, 0, 0] ++ leBytes 4 lastSeq)

/-- SNAP_BEGIN, 16 bytes. -/
def snapBeginBytes (base chunks : Nat) : List Nat := withCrc ([7, 0, 0, 0] ++ leBytes 4 base ++ leBytes 4 chunks)

/-- SNAP_END, 16 bytes. -/
def snapEndBytes (chunks crc : Nat) : List Nat := withCrc ([8, 0, 0, 0] ++ leBytes 4 chunks ++ leBytes 4 crc)

/-- BODY_CRC: the OPEN and every DELTA in order of sending. -/
def bodyCrc (e : EpochBody) : Nat := crc32c (openBytes e ++ e.deltas.reverse.flatMap deltaBytes)

/-- CRC over the SNAP-flagged DELTAs, given newest first. -/
def snapCrc (ds : List MateDelta) : Nat := crc32c (ds.reverse.flatMap deltaBytes)

/-- Length of a message by its first unit (R311); none for an unknown TYPE or a LEN that is none. -/
def msgLen (u : List Nat) : Option Nat :=
  match u.headD 0 with
  | 1 => some 40 | 2 => some 24
  | 3 => let n := ofLe ((u.drop 4).take 2); if n ≤ 4096 ∧ n % 4 = 0 then some (16 + n) else none
  | 4 => some 32
  | 5 => some 24 | 6 => some 12 | 7 => some 16 | 8 => some 16 | _ => none

/-- Places in the order of the link (R311): heartbeat and release, epoch, snapshot. -/
def rankHb : Nat := 0
def rankEpoch : Nat := 1
def rankSnap : Nat := 2

/-- A message goes behind those of its rank and of the ranks before. -/
def linkInsert (m : LinkMsg) (q : List LinkMsg) : List LinkMsg :=
  q.takeWhile (fun x => x.rank ≤ m.rank) ++ m :: q.dropWhile (fun x => x.rank ≤ m.rank)

/-- A trailer: what its epoch still has queued leaves before it, and both before everything else (R348). -/
def linkTrailer (m : LinkMsg) (q : List LinkMsg) : List LinkMsg :=
  let up (x : LinkMsg) : LinkMsg := if x.rank = rankEpoch then { x with rank := rankHb } else x
  linkInsert { m with rank := rankHb } (q.map up)

/-- The heartbeat of a boundary goes directly after the trailer closed there (R299, R348). -/
def linkHeartbeat (m : LinkMsg) (q : List LinkMsg) : List LinkMsg :=
  let isTrailer (x : LinkMsg) : Bool := x.bytes.headD 0 == 4
  if q.any isTrailer then
    let after := (q.reverse.takeWhile (fun x => !isTrailer x)).reverse
    q.take (q.length - after.length) ++ m :: after
  else linkInsert m q

/-- Change the mate function's state. -/
def modMate (f : MateState → MateState) (s : State) : State := { s with mate := f s.mate }

/-- A message is queued. -/
def linkSend (rank : Nat) (bytes : List Nat) (s : State) : State := modMate (fun m => { m with outq := linkInsert ⟨rank, bytes⟩ m.outq }) s

/-- DELTAs of the open epoch that no frame has carried. -/
def unsentDeltas (s : State) : Nat :=
  (s.mate.outq.filter (fun x => x.rank == rankEpoch && x.bytes.headD 0 == 3)).length + s.mate.waiting.length

/-- The queued messages of the open epoch are withdrawn. -/
def linkDropEpoch (s : State) : State :=
  modMate (fun m => { m with outq := m.outq.filter (fun x => x.rank != rankEpoch), open_ := none, waiting := [], queueBytes := 0 }) s

end Sys2Proof.Machine
end

