-- ==== Sys2Proof/Machine/MateCore.lean ====
section
/-!
DEFINITION. What every block needs of the mate function: deltas of mirrored state (R296, R312, R314), the rein state with its record and role
(R304, R321), the immediate release (R307).
-/
namespace Sys2Proof.Machine

open Sys2Proof

/-- The role that a rein state gives (R304). -/
def reinRole : Rein → Role
  | .off => .holder
  | .holder => .holder
  | .standby => .standby
  | _ => .none

/-- A transition of R305: the state, the role with its STAGE cause (R74, R109). MATE_PULSE_OUT is low in OUT (R298). -/
def reinChange (new : Rein) (s : State) : State :=
  let s0 := { s with mate := { s.mate with rein := new, pulseOut := s.mate.pulseOut && new != .out }, pwr := { s.pwr with role := reinRole new } }
  if s.pwr.stage = .inService ∧ reinRole new ≠ s.pwr.role then setCauses seats 0x2001C 1 s0 else s0

/-- The mate unit as an agent (R129). -/
def mateUnit : Agent := ⟨0, 5, 5⟩

/-- OBJECT, OLD and NEW of the REIN record of a transition (R321). -/
def reinObject (s : State) : Nat := 0xFF000000 + s.mate.term % 2 ^ 24
def reinNew (new : Rein) (cause : Nat) : Nat := new.code + 256 * cause

/-- A transition that the part makes, with its hardware-originated REIN record (R321), of the mate's UNIT 5 (R129). -/
def setRein (new : Rein) (cause : Nat) (s : State) : State :=
  reinChange new (rawHw 5 0x10 (reinObject s) s.mate.rein.code (reinNew new cause) false [] s)

/-- A cause of MATE_INT in each enabled Seat, or in S0 only. -/
def mateCauseAll (k : Nat) (s : State) : State := setCauses (enabledSeats s) 0xD0060 k s
def mateCause0 (k : Nat) (s : State) : State := setCause 0 0xD0060 k s

/-- Bytes that a DELTA adds to the body of an epoch (R311). -/
def deltaLen (d : MateDelta) : Nat := 16 + d.data.length

/-- A delta enters the send queue. -/
def queueDelta (d : MateDelta) (s : State) : State :=
  linkSend rankEpoch (deltaBytes d) (modMate (fun m => { m with queueBytes := m.queueBytes + deltaLen d }) s)

/-- A delta of a holder belongs to the open epoch from the moment of its change, in the order of the changes (R312). DESIGN CHOICE (entry 39): of
a management change or DMA burst that finds the 8 KiB send queue full, the delta's place in the queue waits, not the change; what comes later,
a hardware-originated delta too, stays behind it. -/
def sendDelta (mgmt : Bool) (d : MateDelta) (s : State) : State :=
  if s.mate.rein ≠ .holder then s
  else
    let s1 := modMate (fun m => { m with open_ := m.open_.map (fun e => { e with deltas := d :: e.deltas, bytes := e.bytes + deltaLen d }) }) s
    if s.mate.waiting ≠ [] ∨ (mgmt ∧ 8192 < s.mate.queueBytes + deltaLen d) then modMate (fun m => { m with waiting := m.waiting ++ [d] }) s1
    else queueDelta d s1

/-- The waiting deltas that the queue has room for follow in order (R312). -/
def queueWaiting (limit : Nat) : List MateDelta → State → State
  | [], s => modMate (fun m => { m with waiting := [] }) s
  | d :: ds, s =>
      if limit < s.mate.queueBytes + deltaLen d then modMate (fun m => { m with waiting := d :: ds }) s
      else queueWaiting limit ds (queueDelta d s)

/-- The pieces of an item's data, at most 4096 bytes each, MORE set in each but the last (R311). -/
def deltaPieces (space addr seq : Nat) : Nat → List Byte → List MateDelta
  | 0, _ => []
  | n + 1, data =>
      let mk (more : Bool) (d : List Byte) : MateDelta :=
        ⟨BitVec.ofNat 8 space, false, false, more, BitVec.ofNat 32 addr, BitVec.ofNat 32 seq, d⟩
      if data.length ≤ 4096 then [mk false data] else mk true (data.take 4096) :: deltaPieces space addr seq n (data.drop 4096)

/-- The ledger sequence number of a change with no record. -/
def noSeq : Nat := 0xFFFFFFFF

/-- The delta of an item's new value (R312). -/
def mirrorItem (mgmt : Bool) (space addr seq : Nat) (data : List Byte) (s : State) : State :=
  (deltaPieces space addr seq (data.length + 1) data).foldl (fun t d => sendDelta mgmt d t) s

/-- The delta of an item removed. -/
def mirrorDelete (mgmt : Bool) (space addr seq : Nat) (s : State) : State :=
  sendDelta mgmt ⟨BitVec.ofNat 8 space, true, false, false, BitVec.ofNat 32 addr, BitVec.ofNat 32 seq, []⟩ s

/-- SPACE 0x01: a mirrored register at an S0-window offset. -/
def mirrorReg (mgmt : Bool) (off bytes v seq : Nat) (s : State) : State := mirrorItem mgmt 1 off seq (toBytes bytes v) s

/-- SPACE 0x05: a word of a Seat map page. -/
def mirrorMap (mgmt : Bool) (seat off v seq : Nat) (s : State) : State :=
  mirrorItem mgmt 5 (4096 * seat + off) seq (toBytes 4 v) s

/-- SPACE 0x06: the aligned words that a write of `n` bytes at a physical address touches, when its page is mirrored. -/
def mirrorSram (a n : Nat) (s : State) : State :=
  if n = 0 ∨ ¬ pageMirrored s (a / 4096) then s
  else
    let lo := a / 4 * 4
    let hi := (a + n + 3) / 4 * 4
    mirrorItem true 6 lo noSeq (sramRead s lo (hi - lo)) s

/-- Mirrored pages (SPACE 0x06). -/
def mirrorPages (s : State) : List Nat :=
  ((List.range 124).flatMap (fun w => (setPositions 32 (rget s (kP (0xD0100 + 4 * w)))).map (fun k => 32 * w + k))
    ++ seats.flatMap (fun n => (List.range 1024).filterMap (fun k => let e := codePage s n k; if e.valid then some e.phys else none))).eraseDups

/-- DELTA bytes of an epoch (R314). -/
def EpochBody.used (e : EpochBody) : Nat := e.bytes - 24

/-- The DELTA bytes of the open epoch have reached the 1 MiB budget of the cycle (R314). -/
def overBudget (s : State) : Bool :=
  s.mate.rein = .holder && decide (2 ^ 20 ≤ (s.mate.open_.map (·.used)).getD 0)

/-- The immediate release (R307): RELEASE with FINAL_SEQ and PENDING_DELTAS, OUT; the transmitters follow the rein state. Deltas that no frame has
carried are withdrawn (entry 39). -/
def immediateRelease (block : Bool) (s : State) : State :=
  if s.mate.rein = .holder ∨ s.mate.rein = .releasing then
    let pend := (s.mate.open_.map (fun e => e.deltas.length)).getD 0 - unsentDeltas s
    let msg : ReleaseMsg := ⟨0, BitVec.ofNat 32 s.mate.seq, 0, BitVec.ofNat 32 s.mate.term, BitVec.ofNat 32 pend⟩
    let s1 := modMate (fun m => { m with sentRelease := some msg, relDue := none, takeBlock := m.takeBlock || block, snapOn := false
                                         listenEnd := false, relTimeout := false }) (linkSend rankHb (releaseBytes msg) (linkDropEpoch s))
    mateCauseAll 2 (setRein .out 3 s1)
  else s

end Sys2Proof.Machine
end

