-- ==== Sys2Proof/Machine/Collector.lean ====
section
/-!
DEFINITION. The fault collector as every block uses it (R463 to R476, R481), and the ledger's appends with the raise of LEDGER_LOST
(source 406) that a first loss makes.
-/
namespace Sys2Proof.Machine

open Sys2Proof

/-- The collector's state for a source. -/
def faultSrc (s : State) (k : Nat) : FaultSrc := tget .reset s.flt.src k

/-- Change it. -/
def modFaultSrc (k : Nat) (f : FaultSrc → FaultSrc) (s : State) : State :=
  { s with flt := { s.flt with src := tmod .reset s.flt.src k f } }

/-- The power domain behind whose boundary a source's pair lies (R465); none where the source is in AON. -/
def sourceDomain (k : Nat) : Option Nat :=
  if 41 ≤ k ∧ k ≤ 64 then some (86 + (k - 41) / 3)
  else if 65 ≤ k ∧ k ≤ 128 then some ((k - 65) / 4)
  else if 129 ≤ k ∧ k ≤ 136 then some (94 + (k - 129))
  else if 137 ≤ k ∧ k ≤ 232 then some (16 + (k - 137) / 3)
  else if 233 ≤ k ∧ k ≤ 240 then some (48 + (k - 233) / 2)
  else if 251 ≤ k ∧ k ≤ 318 then some (52 + (k - 251) / 2)
  else if k = 374 ∨ k = 375 then some (102 + (k - 374))
  else if 378 ≤ k ∧ k ≤ 381 then some (106 + (k - 378))
  else if k = 382 then some 105
  else if k = 391 ∨ k = 392 then some 110
  else none

/-- The Seats among S1 to S15 that OWN a source's object (R468). -/
def sourceOwners (s : State) (k : Nat) : List Nat :=
  let own (c p : Nat) : List Nat := (List.range 16).filter (fun n => n ≠ 0 && owns s n c p)
  if 41 ≤ k ∧ k ≤ 64 then
    (List.range 16).filter (fun n => n ≠ 0 && (List.range 8).any (fun i => owns s n 48 (8 * ((k - 41) / 3) + i)))
  else if 65 ≤ k ∧ k ≤ 128 then own 0 ((k - 65) / 4)
  else if 129 ≤ k ∧ k ≤ 136 then own 166 (k - 129)
  else if 137 ≤ k ∧ k ≤ 232 then own 16 ((k - 137) / 3)
  else if 325 ≤ k ∧ k ≤ 372 then own 0 ((k - 325) / 3)
  else if k = 374 ∨ k = 375 then
    (List.range 16).filter (fun n => n ≠ 0 && (List.range 8).any (fun c =>
      bits (rget s (kP (0x400800 + 4 * c))) 0 1 == k - 374 && owns s n 144 c))
  else if k = 376 ∨ k = 377 then own 198 (k - 376)
  else if 378 ≤ k ∧ k ≤ 382 then own 205 0
  else if 383 ≤ k ∧ k ≤ 390 then own 152 (k - 383)
  else if 391 ≤ k ∧ k ≤ 393 then own 204 0
  else []

/-- The Seats that the SEAT action interrupts (R468). -/
def sourceSeats (s : State) (k : Nat) : List Nat :=
  match sourceRoute k with
  | 0 => match sourceOwners s k with
    | [] => [0]
    | ns => ns
  | 1 => enabledSeats s
  | _ => [0]

/-- FC_SRC.SEV. -/
def sevOf (s : State) (k : Nat) : Nat := rbits s (kP (0x780000 + 4 * k)) 0 3

/-- FC_SEV_ACT: LEDGER is always set; RELEASE and STOP_ALIVE are for severities 6 and 7 (R470). -/
def sevActions (s : State) (sev : Nat) : Nat :=
  (rbits s (kP (0x780800 + 4 * sev)) 0 5) ||| (if 6 ≤ sev then 25 else 1)

/-- Set a source's bit in a Seat's FC_SEAT_CAUSE (R481). -/
def faultCause (k : Nat) (seat : Nat) (s : State) : State := setCause seat (0x780A00 + 4 * (k / 32)) (k % 32) s

/-- How a raise meets the first-error latch (R474 to R476): FIRST, MERGED, OVERFLOW of its record, and the latch after it. -/
def latchStep (s : State) (k cls sev act : Nat) (pair injected : Bool) : Bool × Bool × Bool × Option FaultLatch :=
  match s.flt.latch with
  | none =>
      (true, false, false, some { source := k, cls := cls, sev := sev, pair := pair, injected := injected, frame := s.lt.frame
                                  phase := s.lt.phase, actions := act, merged := 0, overflow := false
                                  fatalSeen := cls == 2, handling := true, clearDue := false })
  | some l =>
      let fatal := l.fatalSeen || cls == 2
      if l.handling then
        (false, true, false, some { l with merged := satAdd 255 l.merged 1, actions := l.actions ||| act, fatalSeen := fatal })
      else (false, false, true, some { l with overflow := true, fatalSeen := fatal })

/-- SEAT of a source's FAULT record (R129): the Seat that OWNS its object; 0 where none does, or where the source watches a unit that several
Seats share parts of. -/
def faultSeat (s : State) (k : Nat) : Nat :=
  match sourceOwners s k with
  | [n] => n
  | _ => 0

/-- The FAULT record (R473): one for a source and tick; the others are only counted. -/
def faultRecord (k cls sev act : Nat) (pair injected first merged overflow : Bool) (s : State) : State :=
  let src := faultSrc s k
  let tick := s.lt.frame / 8 + 1
  if src.recTick = tick then modFaultSrc k (fun x => { x with since := x.since + 1 }) s
  else
    let old := cls + 4 * sev + 32 * b2n pair + 64 * b2n injected + 256 * min 255 (src.since + 1)
    let new := act + 256 * b2n first + 512 * b2n merged + 1024 * b2n overflow + 65536 * s.mate.rein.code
      + 2 ^ 20 * s.pwr.stage.code
    rawHwSeat (faultSeat s k) 6 0x12 (0xFF000000 + k) old new merged []
      (modFaultSrc k (fun x => { x with since := 0, recTick := tick }) s)

/-- The RELEASE action (R471). -/
def releaseAction (s : State) : State :=
  match s.mate.rein with
  | .holder => immediateRelease true s
  | .releasing => immediateRelease true s
  | .standby => modMate (fun m => { m with takeBlock := true }) s
  | .listen => modMate (fun m => { m with takeBlock := true }) s
  | .pre => modMate (fun m => { m with takeBlock := true }) s
  | .off => s
  | .out => s

/-- The STOP_ALIVE action (R472) after its release; MATE_PULSE_OUT is driven low (R298). -/
def stopAlive (s : State) : State :=
  if s.flt.stopped then s
  else { s with flt := { s.flt with stopped := true, stopFrame := s.lt.frame, stopPhase := s.lt.phase }, mate := { s.mate with pulseOut := false } }

/-- One raise of a source (R473 to R476, R481): counts, record, latch, actions. `limited`: injected with SAFE = 1 (R478). -/
def raiseOne (k : Nat) (pair injected limited : Bool) (s : State) : State :=
  let s0 := { s with flt := { s.flt with count := satAdd 65535 s.flt.count 1 } }
  let s1 := modFaultSrc k (fun x => { x with count := satAdd 65535 x.count 1, raised := true }) s0
  let sev := sevOf s1 k
  let cls := sourceClass k
  let act := if limited then sevActions s1 sev &&& 7 else sevActions s1 sev
  let (first, merged, overflow, latch) :=
    if limited then (false, false, false, s1.flt.latch) else latchStep s1 k cls sev act pair injected
  let s2 := { s1 with flt := { s1.flt with latch := latch } }
  let s3 := faultRecord k cls sev act pair injected first merged overflow s2
  let s4 := if act.testBit 1 then (sourceSeats s3 k).foldl (fun t n => faultCause k n t) s3 else s3
  let s5 := if act.testBit 2 then faultCause k 0 s4 else s4
  let s6 := if act.testBit 3 ∨ act.testBit 4 then releaseAction s5 else s5
  if act.testBit 4 then stopAlive s6 else s6

/-- A source can raise: the collector runs, its domain is not isolated, its pair is not held raised (R463, R465). -/
def canRaise (s : State) (k : Nat) : Bool :=
  alive s && !(faultSrc s k).pairBad
    && (match sourceDomain k with
        | none => true
        | some d => domOn s d)

/-- A raise of LEDGER_LOST that a first loss has left due (R141, R467). -/
def reportLoss (s : State) : State :=
  if s.led.lossDue then
    let s1 := { s with led := { s.led with lossDue := false } }
    if canRaise s1 406 then
      let s2 := raiseOne 406 false false false s1
      { s2 with led := { s2.led with lossDue := false } }
    else s1
  else s

/-- A source is detected: a raise, when it can raise. -/
def faultRaise (k : Nat) (s : State) : State := if canRaise s k then reportLoss (raiseOne k false false false s) else s

/-- Sources that raise in one sample, in the order in which the latch and the merges take them: highest class, highest severity, lowest
number (R474). -/
def faultRank (s : State) (k : Nat) : Nat := 4096 * sourceClass k + 512 * sevOf s k + (511 - k)
def insertFault (s : State) (k : Nat) : List Nat → List Nat
  | [] => [k]
  | j :: js => if faultRank s j < faultRank s k then k :: j :: js else j :: insertFault s k js
def faultRaiseAll (ks : List Nat) (s : State) : State := (ks.foldr (insertFault s) []).foldl (fun t k => faultRaise k t) s

/-- A hardware-originated record whose Seat is given (R126, R129). -/
def ledgerHwSeat (seat unit kind object old new : Nat) (kflag : Bool) (conts : List Nat) (s : State) : State :=
  reportLoss (rawHwSeat seat unit kind object old new kflag conts s)

/-- A hardware-originated record with Seat 0. -/
def ledgerHw (unit kind object old new : Nat) (kflag : Bool) (conts : List Nat) (s : State) : State :=
  ledgerHwSeat 0 unit kind object old new kflag conts s

/-- A management record (R142); none is REFUSED_LEDGER. -/
def ledgerMgmt (a : Agent) (kind object old new : Nat) (kflag : Bool) (conts : List Nat) (s : State) : Option State :=
  (rawMgmt a kind object old new kflag conts s).map reportLoss

end Sys2Proof.Machine
end

