-- ==== Sys2Proof/Machine/Pointer.lean ====
section
/-!
DEFINITION. Framing and pointer rules of the line ports as functions of one port's state: the framer (R215), trace
acceptance (R220), pointer interpreters (R224), multiframe counts (R225), pointer generators (R228, R229), signal-degrade
windows (R223).
-/
namespace Sys2Proof.Machine

open Sys2Proof

/-- Bits per line frame at a RATE (section "Ports, rates and slots"). -/
def rateBits (rate : Nat) : Nat := 19440 * 4 ^ rate

/-- STS-1 slots present at a RATE (R211). -/
def rateSlots (rate : Nat) : Nat := 3 * 4 ^ rate

/-- Keep a candidate list to 4, without repeats (R215). -/
def keepCands (old new : List Nat) : List Nat := (old ++ new.filter (fun x => !old.contains x)).take 4

/-- Runs of consecutive frames end with SYNC (R219, R220). -/
def dropRuns (p : LinePort) : LinePort :=
  { p with kRun := 0, kNone := 0, s1Run := 0, aisRun := 0, aisClr := 0, rdiRun := 0, rdiClr := 0, j0Buf := [], j0Run := 0 }

/-- A frame period in PRESYNC, by rising position: the candidate that is confirmed, or the candidates kept at its end. A pattern met while 4 are kept
is ignored (R215). -/
def presyncWalk (pats : List Nat) : List Nat → List Nat → List Nat → Option Nat × List Nat
  | [], old, new => (none, old ++ new)
  | q :: qs, old, new =>
      if old.contains q then
        if pats.contains q then (some q, [q]) else presyncWalk pats qs (old.filter (· != q)) new
      else if old.length + new.length < 4 then presyncWalk pats qs old (new ++ [q])
      else presyncWalk pats qs old new

/-- Positions of candidates and patterns, rising. -/
def checkOrder (cands pats : List Nat) : List Nat := (cands ++ pats).eraseDups.mergeSort (· ≤ ·)

/-- Candidates found while hunting: PRESYNC with the first, HUNT with none (R215). -/
def huntWith (pats : List Nat) (p : LinePort) : LinePort :=
  match keepCands [] pats with
  | [] => { p with framer := .hunt, cands := [], wasOut := true }
  | c :: cs => { p with framer := .presync, cands := c :: cs, wasOut := true }

/-- An entry to HUNT from SYNC, counted in OOF_EVENTS. -/
def outOfSync (p : LinePort) : LinePort :=
  dropRuns { p with framer := .hunt, cands := [], errRun := 0, wasOut := true, cnt := tmod 0 p.cnt 3 (fun n => wrap32 n 1) }

/-- One frame period of the framer (R215, R216). After the fourth errored pattern the search goes on one bit after the expected position. -/
def framerStep (pats : List Nat) (trans : Bool) (p : LinePort) : LinePort :=
  match p.framer with
  | .hunt => huntWith pats p
  | .presync =>
      match presyncWalk pats (checkOrder p.cands pats) p.cands [] with
      | (some c, _) => { p with framer := .sync, cands := [c], errRun := 0, wasIn := true, los := if trans then false else p.los }
      | (none, []) => { p with framer := .hunt, cands := [], wasOut := true }
      | (none, cs) => { p with cands := cs, wasOut := true }
  | .sync =>
      if p.cands.any (fun c => pats.contains c) then { p with errRun := 0, wasIn := true }
      else if p.errRun + 1 < 4 then { p with errRun := p.errRun + 1, wasIn := true }
      else huntWith (pats.filter (fun q => p.cands.all (fun c => decide (c < q)))) (outOfSync p)

/-- Acceptance after `n` identical values: the new candidate, its run, and the value when it is accepted. -/
def acceptRun (n cand run v : Nat) : Nat × Nat × Option Nat :=
  let r := if v = cand then run + 1 else 1
  (v, min n r, if n ≤ r then some v else none)

/-- A condition declared by 3 frames with the code and cleared by 3 without (R219): runs and state. -/
def threeRun (hit : Bool) (run clr : Nat) (on : Bool) : Nat × Nat × Bool :=
  if hit then (min 3 (run + 1), 0, on || decide (3 ≤ run + 1))
  else (0, min 3 (clr + 1), on && decide (clr + 1 < 3))

/-- CRC-7 of a 16-byte trace with its own CRC bits taken as 0: x^7 + x^3 + 1 (R220, the trace format of G.707). -/
def crc7 (bytes : List Nat) : Nat :=
  let bitsOf := bytes.flatMap (fun b => (List.range 8).map (fun i => b.testBit (7 - i)))
  bitsOf.foldl (fun r d =>
    let fb := (r.testBit 6) != d
    let r' := (r <<< 1) % 128
    if fb then r' ^^^ 9 else r') 0

/-- A 16-byte trace with the CRC-7 put into byte 0 behind its marker bit (R220). -/
def withCrc7 (t : List Nat) : List Nat :=
  match t with
  | [] => []
  | _ :: r => (128 + crc7 (128 :: r)) :: r

/-- What a trace byte brings (R220): nothing whole, a trace period that does not stand, a trace. -/
inductive TraceEnd where
  | part
  | bad
  | whole (t : List Nat)

/-- The bytes kept after this one and what it ends (R220): one byte, 16 bytes aligned on bit 7 with a correct CRC-7, or 64 bytes that end in
0x0D 0x0A. A marker out of place, or missing, ends the period badly. -/
def traceStep (j0len : Nat) (buf : List Nat) (b : Nat) : List Nat × TraceEnd :=
  if j0len = 0 then ([], .whole [b])
  else if j0len = 1 then
    if b.testBit 7 then ([b], if buf = [] then .part else .bad)
    else if buf = [] then ([], .bad)
    else if (buf ++ [b]).length = 16 then ([], if withCrc7 (buf ++ [b]) = buf ++ [b] then .whole (buf ++ [b]) else .bad)
    else (buf ++ [b], .part)
  else
    let buf' := (buf ++ [b]).drop (buf.length - 63)
    if buf'.length < 64 then (buf', .part)
    else if buf'.drop 62 = [0x0D, 0x0A] then ([], .whole buf') else (buf', .bad)

/-- The trace received: 3 consecutive identical trace periods accept it (R220). -/
def j0Step (cfg b : Nat) (p : LinePort) : LinePort :=
  match traceStep (bits cfg 6 2) p.j0Buf b with
  | (buf, .part) => { p with j0Buf := buf }
  | (buf, .bad) => { p with j0Buf := buf, j0Run := 0 }
  | (buf, .whole t) =>
      let run := if p.j0Run ≠ 0 ∧ t = p.j0Cand then p.j0Run + 1 else 1
      if 3 ≤ run then { p with j0Buf := buf, j0Cand := t, j0Run := 3, j0 := t, j0Seen := true }
      else { p with j0Buf := buf, j0Cand := t, j0Run := run }

/-- Set bits of a 4-bit difference from `m`. -/
def ham4 (a m : Nat) : Nat := (setPositions 4 (a ^^^ m)).length

/-- Normal NDF: 0b0110 or three of its four bits matching (R224). -/
def ndfNormal (w : Nat) : Bool := decide (ham4 (bits w 12 4) 6 ≤ 1)

/-- NDF enabled: 0b1001 or three of its four bits matching (R224). -/
def ndfEnabled (w : Nat) : Bool := decide (ham4 (bits w 12 4) 9 ≤ 1)

/-- How many of the I bits (positions 9, 7, 5, 3, 1) differ from the current offset. -/
def iInverted (w off : Nat) : Nat := ([9, 7, 5, 3, 1].filter (fun k => (w ^^^ off).testBit k)).length

/-- How many of the D bits (positions 8, 6, 4, 2, 0) differ from the current offset. -/
def dInverted (w off : Nat) : Nat := ([8, 6, 4, 2, 0].filter (fun k => (w ^^^ off).testBit k)).length

/-- What an interpreter counted in one step: increments, decrements, ignored, NDF. -/
structure PtrCount where
  inc : Nat
  dec : Nat
  ignored : Nat
  ndf : Nat

/-- Nothing counted. -/
def PtrCount.zero : PtrCount := ⟨0, 0, 0, 0⟩

/-- Three identical valid pointers in a row: the new run and whether it reached 3. -/
def candStep (off : Nat) (i : PtrInterp) : PtrInterp × Bool :=
  let run := if i.candRun ≠ 0 ∧ i.cand = off then i.candRun + 1 else 1
  ({ i with cand := off, candRun := min 3 run }, decide (3 ≤ run))

/-- One step of a pointer interpreter on a pointer word; offsets run from 0 to `range - 1` (R224). A valid pointer that also inverts I or D bits counts
toward three identical ones; the third takes the new offset (entry 19). -/
def ptrStep (range w : Nat) (i0 : PtrInterp) : PtrInterp × PtrCount :=
  let i := { i0 with since := min 3 (i0.since + 1) }
  let off := bits w 0 10
  let inRange := decide (off < range)
  let ones := decide (w = 0xFFFF)
  let onesRun := if ones then i.onesRun + 1 else 0
  let valid := ndfNormal w && inRange
  let ndf := ndfEnabled w && inRange
  let norm (o : Nat) (k : PtrInterp) : PtrInterp :=
    { k with mode := .norm, offset := o, since := 0, invRun := 0, ndfRun := 0, onesRun := 0, cand := o, candRun := 0 }
  let three := (candStep off i).2
  let seen (k : PtrInterp) : PtrInterp := if valid then { k with cand := off, candRun := (candStep off i).1.candRun } else k
  if 3 ≤ onesRun ∧ i.mode ≠ .ais then
    ({ i with mode := .ais, onesRun := 3, invRun := 0, ndfRun := 0, candRun := 0 }, .zero)
  else
    match i.mode with
    | .norm =>
        if ndfNormal w && decide (3 ≤ iInverted w i.offset ∧ dInverted w i.offset < 3) then
          if valid && three then (norm off i, .zero)
          else if 3 ≤ i.since then (seen (norm ((i.offset + 1) % range) i), { PtrCount.zero with inc := 1 })
          else (seen { i with invRun := 0, ndfRun := 0, onesRun := 0, candRun := 0 }, { PtrCount.zero with ignored := 1 })
        else if ndfNormal w && decide (3 ≤ dInverted w i.offset ∧ iInverted w i.offset < 3) then
          if valid && three then (norm off i, .zero)
          else if 3 ≤ i.since then (seen (norm ((i.offset + range - 1) % range) i), { PtrCount.zero with dec := 1 })
          else (seen { i with invRun := 0, ndfRun := 0, onesRun := 0, candRun := 0 }, { PtrCount.zero with ignored := 1 })
        else if valid then
          if off = i.offset then ({ i with invRun := 0, ndfRun := 0, onesRun := 0, candRun := 0 }, .zero)
          else
            let (k, three) := candStep off { i with invRun := 0, ndfRun := 0, onesRun := 0 }
            if three then (norm off k, .zero) else (k, .zero)
        else if ndfEnabled w then
          if 8 ≤ i.ndfRun + 1 then ({ i with mode := .lop, ndfRun := 0, invRun := 0, onesRun := 0, candRun := 0 }, .zero)
          else if inRange then
            ({ norm off i with ndfRun := i.ndfRun + 1 }, { PtrCount.zero with ndf := 1 })
          else ({ i with ndfRun := i.ndfRun + 1, invRun := i.invRun + 1, onesRun := 0, candRun := 0 }, .zero)
        else if 8 ≤ i.invRun + 1 then
          ({ i with mode := .lop, invRun := 0, ndfRun := 0, onesRun := 0, candRun := 0 }, .zero)
        else ({ i with invRun := i.invRun + 1, ndfRun := 0, onesRun := onesRun, candRun := 0 }, .zero)
    | .ais =>
        if valid then
          let (k, three) := candStep off { i with invRun := 0, ndfRun := 0, onesRun := 0 }
          if three then (norm off k, .zero) else (k, .zero)
        else if ndf then (norm off i, .zero)
        else if ones then ({ i with onesRun := 3, invRun := 0, candRun := 0 }, .zero)
        else if 8 ≤ i.invRun + 1 then ({ i with mode := .lop, invRun := 0, ndfRun := 0, onesRun := 0, candRun := 0 }, .zero)
        else ({ i with invRun := i.invRun + 1, onesRun := 0, candRun := 0 }, .zero)
    | .lop =>
        if valid then
          let (k, three) := candStep off { i with invRun := 0, ndfRun := 0, onesRun := 0 }
          if three then (norm off k, .zero) else (k, .zero)
        else ({ i with onesRun := onesRun, candRun := 0 }, .zero)

/-- A continuation slot: its runs of indications and of other values; 8 of these lose the concatenation (R224). -/
def concStep (w : Nat) (i : PtrInterp) : PtrInterp :=
  if ndfEnabled w && decide (bits w 0 10 = 0x3FF) then
    { i with concBad := 0, concGood := min 3 (i.concGood + 1), lopc := false }
  else { i with concGood := 0, concBad := min 8 (i.concBad + 1), lopc := decide (8 ≤ i.concBad + 1) }

/-- One frame of a carrier's multiframe count (R225). -/
def mfStep (h : Nat) (m : MfCount) : MfCount :=
  let ok := m.expect = none ∨ m.expect = some h
  let bad := if ok then 0 else min 2 (m.bad + 1)
  let good := if ok then min 2 (m.good + 1) else 0
  let oom := if 2 ≤ bad then true else if 2 ≤ good then false else m.oom
  let oomRun := if oom then min 8 (m.oomRun + 1) else 0
  let okRun := if oom then 0 else min 8 (m.okRun + 1)
  { expect := some ((h + 1) % 4), bad := bad, good := good, oom := oom, oomRun := oomRun, okRun := okRun
    lom := if 8 ≤ oomRun then true else if 8 ≤ okRun then false else m.lom }

/-- One frame (AU) or multiframe (TU) of a pointer generator whose store now holds `fill` units (R228, R229): the generator
and 1 increment, 2 decrement, 3 jump, or 0. -/
def genStep (range fill : Nat) (g0 : PtrGen) : PtrGen × Nat :=
  let g := { g0 with fill := fill, since := min 4 (g0.since + 1) }
  if fill ≤ 1 ∨ 15 ≤ fill then
    ({ g with fill := 8, offset := (g.offset + 8 + range - min fill range) % range, since := 0, sent := 3 }, 3)
  else if 11 ≤ fill ∧ 4 ≤ g.since then
    ({ g with fill := fill - 1, offset := (g.offset + range - 1) % range, since := 0, sent := 2 }, 2)
  else if fill ≤ 5 ∧ 4 ≤ g.since then
    ({ g with fill := fill + 1, offset := (g.offset + 1) % range, since := 0, sent := 1 }, 1)
  else ({ g with sent := 0 }, 0)

/-- Window length W of exponent `n` at a rate (R223). -/
def b2W (rate n : Nat) : Nat := 8 * ((10 ^ (n + 1) + 8 * rateBits rate - 1) / (8 * rateBits rate))

/-- Declare count D (R223). -/
def b2D (rate n : Nat) : Nat := b2W rate n * rateBits rate / 10 ^ n

/-- Clear count C (R223). -/
def b2C (rate n : Nat) : Nat := b2D rate n / 10

/-- The end of a window and the start of the next (R223); no decision while LOS is declared (R218). -/
def b2End (los : Bool) (rate now expo : Nat) (w : B2Window) : B2Window :=
  let declared :=
    if w.sawLof || los then w.declared
    else if b2D rate w.expo ≤ w.count then true
    else if w.count ≤ b2C rate w.expo then false
    else w.declared
  { start := some now, expo := expo, count := 0, sawLof := false, declared := declared, ends := false }

end Sys2Proof.Machine
end

