-- ==== Sys2Proof/Machine/FabricCore.lean ====
section
/-!
DEFINITION. Slots, connection numbers and entries of the slot fabric (R237 to R245), the structure rules as functions of a page (R211, R246,
R247, R323), the state of a connection and its record (R286, R294).
-/
namespace Sys2Proof.Machine

open Sys2Proof

/-- Object address of connection number N (R240). -/
def connAddr (n : Nat) : Nat := if n < 8192 then 0x200000 + 8 * n else 0x210000 + 4 * (n - 8192)

/-- The connection number at an object address of the two connection ranges. -/
def connOfAddr (a : Nat) : Option Nat :=
  if 0x200000 ≤ a ∧ a < 0x210000 then some ((a - 0x200000) / 8)
  else if 0x210000 ≤ a ∧ a < 0x2D0000 then some (8192 + (a - 0x210000) / 4)
  else none

/-- An assigned number (R240). -/
def connAssigned (n : Nat) : Bool := decide (n < 6144) || (decide (8192 ≤ n ∧ n < 8192 + 32 * 6144) && decide ((n - 8192) % 32 < 28))

/-- A high-order number. -/
def isHo (n : Nat) : Bool := decide (n < 8192)

/-- Output slot X and tributary of a connection. -/
def connX (n : Nat) : Nat := if n < 8192 then n else (n - 8192) / 32
def connJ (n : Nat) : Nat := (n - 8192) % 32

/-- The line port or backplane pair of a high-order index, and the slot in it (R237). -/
def xLine (x : Nat) : Bool := decide (x < 3072)
def xPort (x : Nat) : Nat := (x % 3072) / 192
def xSlot (x : Nat) : Nat := x % 192

/-- A Seat OWNS the port or both lanes of the pair of a physical index; it OWNS or OBSERVES the port, or OWNS the pair (R238, R244). -/
def ownsX (s : State) (seat x : Nat) : Bool :=
  if xLine x then owns s seat 0 (xPort x) else owns s seat 16 (2 * xPort x) && owns s seat 16 (2 * xPort x + 1)
def fittedX (s : State) (seat x : Nat) : Bool := if xLine x then fitted s seat 0 (xPort x) else ownsX s seat x

/-- A Seat-local high-order index as a physical one (R87, R238). -/
def xPhys (s : State) (seat x : Nat) (write : Bool) : Option Nat :=
  if x < 3072 then
    (if write then ownedPhys s seat 0 (x / 192) else fittedPhys s seat 0 (x / 192)).map (fun p => 192 * p + x % 192)
  else if x < 6144 then (pairPhys s seat ((x - 3072) / 192)).map (fun q => 3072 + 192 * q + x % 192)
  else none

/-- A physical index in a Seat's numbering; 0 where the Seat has no number for it. -/
def xLocal (s : State) (seat x : Nat) : Nat :=
  if xLine x then ((localOf s seat 0 (xPort x)).elim 0 (fun k => 192 * k.1 + xSlot x))
  else ((List.range 16).find? (fun u => pairPhys s seat u = some (xPort x))).elim 0 (fun u => 3072 + 192 * u + xSlot x)

/-- A Seat-local connection number as a physical one, when the Seat reaches its output. -/
def connPhys (s : State) (seat n : Nat) (write : Bool) : Option Nat :=
  if ¬ connAssigned n then none
  else (xPhys s seat (connX n) write).map (fun x => if isHo n then x else 8192 + 32 * x + connJ n)

/-- A connection that a Seat holds under a number of its own whose output it has lost since (R102). -/
def connKept (s : State) (seat n : Nat) : Option Nat :=
  if seat = 0 then none else (s.fab.conns.find? (fun e => e.2.holder = some seat ∧ e.2.num = n)).map (·.1)

/-- A Seat-local connection number as a physical one, for a read and for a deletion (R102). -/
def connRead (s : State) (seat n : Nat) : Option Nat :=
  match connPhys s seat n false with
  | some m => some m
  | none => if connAssigned n then connKept s seat n else none

/-- A physical connection number in a Seat's numbering; of a connection whose output the Seat has lost, the number that it had (R102). -/
def connLocal (s : State) (seat n : Nat) : Nat :=
  let c := tget Conn.reset s.fab.conns n
  let x := xLocal s seat (connX n)
  if ¬ fittedX s seat (connX n) ∧ c.holder = some seat then c.num else if isHo n then x else 8192 + 32 * x + connJ n

/-- The owner of a connection's output among S1 to S15, else S0. -/
def connOwner (s : State) (n : Nat) : Nat := ((List.range 15).find? (fun k => ownsX s (k + 1) (connX n))).elim 0 (· + 1)

/-- Fields of an entry (R241, R242). -/
def eKind (ho : Bool) (e : Nat) : Nat := if ho then bits e 14 3 else bits e 19 3
def eSrc (e : Nat) : Nat := bits e 0 14
def eSrcJ (e : Nat) : Nat := bits e 14 5
def eWidth (ho : Bool) (e : Nat) : Nat := if ho then bits e 17 3 else 0

/-- KIND names the AIS generator, the unequipped generator, a selector. -/
def kAis (ho : Bool) : Nat := if ho then 4 else 3
def kUneq (ho : Bool) : Nat := if ho then 5 else 4

/-- Slots of a WIDTH. -/
def widthSlots (w : Nat) : Nat := [1, 3, 12, 48, 192].getD w 1

/-- The last value that a list of writes gives a key. -/
def stagedVal (ws : List StagedWrite) (key : Nat) : Option Nat := (ws.reverse.find? (fun w => w.key = key)).map (·.value)

/-- A register's value with writes laid over it. -/
def cfgWith (s : State) (ws : List StagedWrite) (key : Nat) : Nat := (stagedVal ws key).getD (rget s key)

/-- Staging key of a connection: 2^24 and its physical object address. -/
def connKey (n : Nat) : Nat := 2 ^ 24 + connAddr n

/-- The connection that a staging key names. -/
def keyConn (key : Nat) : Option Nat := if 2 ^ 24 ≤ key then connOfAddr (key - 2 ^ 24) else none

/-- What is kept for a connection. -/
def connAt (s : State) (n : Nat) : Conn := tget .reset s.fab.conns n

/-- Change it. -/
def modConn (n : Nat) (f : Conn → Conn) (s : State) : State :=
  { s with fab := { s.fab with conns := tmod .reset s.fab.conns n f } }

/-- An entry of a page: the active page with writes laid over it. -/
def pageVal (s : State) (ws : List StagedWrite) (n : Nat) : Nat := (stagedVal ws (connKey n)).getD (connAt s n).entry

/-- The declaration of the group of three slots that holds a physical index (R213, R325). -/
def auDecl (s : State) (ws : List StagedWrite) (x : Nat) : Nat :=
  cfgWith s ws (if xLine x then kP (0x80200 + 0x4000 * xPort x + 4 * (xSlot x / 3)) else kP (0xE2000 + 0x800 * xPort x + 4 * (xSlot x / 3)))

/-- TYPE and CONC of a declaration. -/
def auType (s : State) (ws : List StagedWrite) (x : Nat) : Nat := bits (auDecl s ws x) 0 3
def auConc (s : State) (ws : List StagedWrite) (x : Nat) : Nat := bits (auDecl s ws x) 3 2

/-- The head slot, within its port or pair, of the structure that holds a physical index (R213, R246, R331). -/
def structHead (s : State) (ws : List StagedWrite) (x : Nat) : Nat :=
  let sl := xSlot x
  let t := auType s ws x
  if t = 1 ∨ t = 4 ∨ t = 5 then sl
  else if t = 7 then
    ((List.range 64).find? (fun k => decide (k ≤ sl / 3) && auType s ws (x - sl + 3 * (sl / 3 - k)) == 6)).elim sl (fun k => 3 * (sl / 3 - k))
  else sl - sl % 3

/-- RATE of a line port; GEN of a lane. -/
def lpRate (s : State) (ws : List StagedWrite) (p : Nat) : Nat := bits (cfgWith s ws (kP (0x80000 + 0x4000 * p))) 0 2
def laneGen (s : State) (ws : List StagedWrite) (l : Nat) : Nat := bits (cfgWith s ws (kP (0xE0000 + 0x100 * l))) 0 2

/-- A lane of a GEN carries pair slot `sl` (R323). -/
def genCarries (gen : Nat) (odd : Bool) (sl : Nat) : Bool :=
  gen == 2 || (gen == 1 && (if odd then decide (96 ≤ sl) else decide (sl < 96)))

/-- The slot exists at the configured rate or generations (R211, R323). -/
def slotPresent (s : State) (ws : List StagedWrite) (x : Nat) : Bool :=
  if xLine x then decide (xSlot x < rateSlots (lpRate s ws (xPort x)))
  else genCarries (laneGen s ws (2 * xPort x)) false (xSlot x) || genCarries (laneGen s ws (2 * xPort x + 1)) true (xSlot x)

/-- The pair slot is carried by both lanes (R323). -/
def slotDual (s : State) (q sl : Nat) : Bool :=
  genCarries (laneGen s [] (2 * q)) false sl && genCarries (laneGen s [] (2 * q + 1)) true sl

/-- GFP_CFG of a physical channel; PORT is kept physical. -/
def gfpCfg (s : State) (ws : List StagedWrite) (c : Nat) : Nat := cfgWith s ws (kP (0x22000 + 0x40 * c))

/-- Slots of a GFP-F SIZE (R230). -/
def gfpSlots (size : Nat) : Nat := [1, 3, 12, 48].getD size 1

/-- The channel maps physical index x. -/
def gfpMaps (s : State) (ws : List StagedWrite) (c x : Nat) : Bool :=
  let v := gfpCfg s ws c
  bit v 0 && xLine x && bits v 4 4 == xPort x && decide (bits v 8 8 ≤ xSlot x ∧ xSlot x < bits v 8 8 + gfpSlots (bits v 16 2))

/-- Some channel maps it. -/
def gfpMapped (s : State) (ws : List StagedWrite) (x : Nat) : Bool := (List.range 8).any (fun c => gfpMaps s ws c x)

/-- Word 0 of an MSP group; WORK is kept physical. -/
def mspWord (s : State) (ws : List StagedWrite) (p : Nat) : Nat := cfgWith s ws (2 ^ 24 + 0x440000 + 32 * p)

/-- The index lies on the protection port of an enabled MSP group (R272). -/
def onProtPort (s : State) (ws : List StagedWrite) (x : Nat) : Bool := xLine x && bit (mspWord s ws (xPort x)) 0

/-- The input slot whose signal a physical index carries: a working port's slots carry the selected signal (R272). -/
def effSlot (s : State) (x : Nat) : Nat :=
  if ¬ xLine x then x
  else
    match (List.range 16).find? (fun p => bit (mspWord s [] p) 0 && bits (mspWord s [] p) 4 4 == xPort x && (tget ProtCtl.reset s.prot.msp p).selected) with
    | some p => 192 * p + xSlot x
    | none => x

/-- Tributaries of a declaration: 21 for TU-12 (VT2), 28 for TU-11 (VT1.5), 0 for none (R239). -/
def tribs (ty : Nat) : Nat := if ty = 2 ∨ ty = 5 then 21 else if ty = 3 ∨ ty = 4 then 28 else 0

/-- A head output slot whose structure matches a WIDTH (R246). -/
def outFits (s : State) (ws : List StagedWrite) (x w : Nat) : Bool :=
  let t := auType s ws x
  if w = 0 then t == 1
  else if w = 1 then t == 0 && xSlot x % 3 == 0
  else t == 6 && auConc s ws x == w - 2 && xSlot x % 3 == 0

/-- A head input slot whose structure matches a WIDTH (R246). -/
def inFits (s : State) (ws : List StagedWrite) (x w : Nat) : Bool :=
  let t := auType s ws x
  if w = 0 then t == 1 || t == 4 || t == 5
  else if w = 1 then (t == 0 || t == 2 || t == 3) && xSlot x % 3 == 0
  else t == 6 && auConc s ws x == w - 2 && xSlot x % 3 == 0

/-- The indices of a width are all present. -/
def spanPresent (s : State) (ws : List StagedWrite) (x w : Nat) : Bool :=
  (List.range (widthSlots w)).all (fun k => slotPresent s ws (x + k))

/-- A selector by physical number: high-order, or 2048 and the low-order number. -/
def selAt (s : State) (n : Nat) : Option Selector := (tgetO s.prot.sels n).getD none

/-- Staging key of word w of a physical selector. -/
def selKey (n w : Nat) : Nat := if n < 2048 then 2 ^ 24 + 0x400000 + 16 * n + 4 * w else 2 ^ 24 + 0x410000 + 16 * (n - 2048) + 4 * w

/-- A selector's word with writes laid over it. -/
def selWord (s : State) (ws : List StagedWrite) (n w : Nat) : Nat :=
  (stagedVal ws (selKey n w)).getD (match selAt s n with
    | some x => [x.w0, x.w1, x.w2].getD w 0
    | none => if w = 2 then 5 * 2 ^ 23 else 0)

/-- A source of a low-order connection or selector carries tributaries of the type and has tributary j (R247). -/
def tribFits (s : State) (ws : List StagedWrite) (x j ty : Nat) : Bool := tribs (auType s ws x) == tribs ty && decide (j < tribs ty)

/-- A selector's sources fit (R273). -/
def selSourceOk (s : State) (ws : List StagedWrite) (n : Nat) : Bool :=
  let w2 := selWord s ws n 2
  let a := selWord s ws n 0
  let b := selWord s ws n 1
  if ¬ bit w2 0 then true
  else if n < 2048 then
    [a, b].all (fun w => decide (eSrc w < 6144) && inFits s ws (eSrc w) (bits w2 1 3) && spanPresent s ws (eSrc w) (bits w2 1 3)
      && !onProtPort s ws (eSrc w))
  else
    [a, b].all (fun w => decide (eSrc w < 6144) && slotPresent s ws (eSrc w) && tribFits s ws (eSrc w) (eSrcJ w) (auType s ws (eSrc a))
      && !onProtPort s ws (eSrc w))

/-- An entry of number n meets R246, R247 and the rules on absent slots, mapped outputs and protection ports in the page of `ws`. -/
def entryOk (s : State) (ws : List StagedWrite) (n : Nat) : Bool :=
  let e := pageVal s ws n
  let x := connX n
  let ho := isHo n
  let k := eKind ho e
  if k = 0 then eWidth ho e == 0
  else
    let w := eWidth ho e
    let src := eSrc e
    slotPresent s ws x && !gfpMapped s ws x && !onProtPort s ws x &&
    (if ho then
      let t := auType s ws x
      if 2 ≤ t ∧ t ≤ 5 then (k == 3 || k == 4 || k == 5) && w == 0
      else k != 3 && outFits s ws x w && spanPresent s ws x w
        && (List.range (widthSlots w - 1)).all (fun i => eKind true (pageVal s ws (x + 1 + i)) == 0 && !gfpMapped s ws (x + 1 + i))
        && (k != 1 || (inFits s ws src w && spanPresent s ws src w && !onProtPort s ws src))
        && (k != 2 || (bit (selWord s ws src 2) 0 && bits (selWord s ws src 2) 1 3 == w && selSourceOk s ws src))
    else
      let t := auType s ws x
      eKind true (pageVal s ws x) == 3 && decide (connJ n < tribs t)
        && (k != 1 || (slotPresent s ws src && tribFits s ws src (eSrcJ e) t && !onProtPort s ws src))
        && (k != 2 || (bit (selWord s ws (2048 + src) 2) 0 && selSourceOk s ws (2048 + src)
              && tribFits s ws (eSrc (selWord s ws (2048 + src) 0)) (eSrcJ (selWord s ws (2048 + src) 0)) t)))

/-- TYPE 2 and 3: all three slots of a group take KIND LO, or none (R246). -/
def loGroupOk (s : State) (ws : List StagedWrite) (x : Nat) : Bool :=
  let t := auType s ws x
  if t = 2 ∨ t = 3 then
    let b := x - xSlot x % 3
    let isLo (y : Nat) : Bool := eKind true (pageVal s ws y) == 3
    isLo b == isLo (b + 1) && isLo b == isLo (b + 2)
  else true

/-- The connections that a page holds or may hold: those with an active entry and those written. -/
def pageConns (s : State) (ws : List StagedWrite) : List Nat :=
  (s.fab.conns.map (·.1) ++ ws.filterMap (fun w => keyConn w.key)).eraseDups

/-- Output slots of a page with KIND LO. -/
def loSlots (s : State) (ws : List StagedWrite) : List Nat :=
  (pageConns s ws).filter (fun n => isHo n && eKind true (pageVal s ws n) == 3)

/-- The physical selectors that exist, or that writes name. -/
def pageSelectors (s : State) (ws : List StagedWrite) : List Nat :=
  (s.prot.sels.map (fun (e : Nat × Option Selector) => e.1) ++ ws.filterMap (fun (w : StagedWrite) =>
    if 2 ^ 24 + 0x400000 ≤ w.key ∧ w.key < 2 ^ 24 + 0x408000 then some ((w.key - (2 ^ 24 + 0x400000)) / 16)
    else if 2 ^ 24 + 0x410000 ≤ w.key ∧ w.key < 2 ^ 24 + 0x430000 then some (2048 + (w.key - (2 ^ 24 + 0x410000)) / 16)
    else none)).eraseDups

/-- The page of `ws` meets every structure rule (R246 to R248). -/
def pageOk (s : State) (ws : List StagedWrite) : Bool :=
  (pageConns s ws).all (fun n => entryOk s ws n && (!isHo n || loGroupOk s ws n)) && decide ((loSlots s ws).length ≤ 768)
    && (pageSelectors s ws).all (selSourceOk s ws)

/-- Groups by landing frame; within a frame the one whose value stands comes last (R50). -/
def groupBefore (s : State) (a b : CommitGroup) : Bool :=
  if a.frame ≠ b.frame then decide (a.frame < b.frame)
  else if seatPri s a.seat ≠ seatPri s b.seat then decide (seatPri s a.seat < seatPri s b.seat)
  else if a.fromEpoch ≠ b.fromEpoch then b.fromEpoch
  else decide (b.goSeq ≤ a.goSeq)

/-- Writes of the accepted groups in landing order, so that the last write of a key is the one that R50 leaves standing (R250). -/
def pendingWrites (s : State) : List StagedWrite := (s.lt.groups.mergeSort (groupBefore s)).flatMap (·.writes)

/-- The changes that the shadow page holds over the active one: each connection's entry and landing frame (R250). -/
def shadowWant (s : State) : Tab ShadowEntry :=
  (s.lt.groups.mergeSort (groupBefore s)).foldl (fun t g =>
    g.writes.foldl (fun u w => match keyConn w.key with
      | some n => tins (tdel u n) n ⟨w.value, g.frame⟩
      | none => u) t) []

/-- The shadow page follows the accepted groups; each change of it is a delta of SPACE 0x02, page 1 (R250, R311). -/
def shadowSync (mgmt : Bool) (seq : Nat) (s : State) : State :=
  let want := shadowWant s
  let old := s.fab.shadow
  if want = old then s
  else ((old ++ want).map (·.1)).eraseDups.foldl (fun t n =>
    match tgetO want n with
    | none => mirrorDelete mgmt 2 (2 ^ 31 + connAddr n) noSeq t
    | some e => if tgetO old n = some e then t
        else mirrorItem mgmt 2 (2 ^ 31 + connAddr n) seq (toBytes (if isHo n then 8 else 4) e.value ++ toBytes 8 e.frame) t)
    { s with fab := { s.fab with shadow := want } }

/-- The head of which a high-order slot is a continuation in a page. -/
def headOf (s : State) (ws : List StagedWrite) (x : Nat) : Option Nat :=
  (List.range 191).findSome? (fun k =>
    let h := x - (k + 1)
    if k + 1 ≤ xSlot x ∧ eKind true (pageVal s ws h) ≠ 0 ∧ k + 1 < widthSlots (eWidth true (pageVal s ws h)) then some h else none)

/-- The current group's writes of a Seat. -/
def seatLt (s : State) (seat : Nat) : SeatLt := tget .reset s.lt.seats seat
def seatGroup (s : State) (seat : Nat) : List StagedWrite := (seatLt s seat).group

/-- ESTATE keeps an expectation attached in the active page. -/
def attached (x : Expect) : Bool := x.state = .armed || x.state = .met || x.state = .detaching

/-- The expectation at a table index. -/
def expectAt (s : State) (i : Nat) : Option Expect := (tgetO s.prot.expects i).getD none

/-- The expectations attached to a connection, by index. -/
def connExpects (s : State) (n : Nat) : List (Nat × Expect) :=
  s.prot.expects.filterMap (fun p => match p.2 with
    | some x => if x.conn = n ∧ attached x then some (p.1, x) else none
    | none => none)

/-- PROOF: at least one expectation is attached in the active page (R288). -/
def hasProof (s : State) (n : Nat) : Bool := !(connExpects s n).isEmpty

/-- Code of a connection's state in the active page. -/
def ConnMode.code : ConnMode → Nat
  | .unbuckled => 2 | .buckled => 3 | .live => 4 | .none => 7

/-- State, tag and stored value of the newest entry that a Seat may see (R245). -/
def newestEntry (s : State) (seat n : Nat) (activeOnly : Bool) : Nat × Nat × Nat :=
  let act := ((connAt s n).mode.code, 0, (connAt s n).entry)
  if activeOnly then act
  else
    match stagedVal (seatGroup s seat) (connKey n) with
    | some v => (0, 2, v)
    | none =>
        match tgetO s.fab.shadow n with
        | some e => (1, 1, e.value)
        | none => act

/-- The entry as a Seat reads it, word 0 low (R241, R242, R245). -/
def entryImage (s : State) (seat n : Nat) (activeOnly : Bool) : Nat :=
  let (st, tag, v) := newestEntry s seat n activeOnly
  let ho := isHo n
  let k := eKind ho v
  let src :=
    if k = 1 then xLocal s seat (eSrc v)
    else if k = 2 ∧ tag ≠ 2 then
      match selAt s (if ho then eSrc v else 2048 + eSrc v) with
      | some x => if seat = 0 then eSrc v else x.num
      | none => eSrc v
    else eSrc v
  let pf := b2n (hasProof s n)
  if ho then
    let head := headOf s [] n
    (setBits (v % 2 ^ 32) 0 14 src) + st * 2 ^ 20 + tag * 2 ^ 23 + pf * 2 ^ 25 + b2n head.isSome * 2 ^ 26
      + 2 ^ 32 * (bits v 32 16 + (connAt s n).mode.code * 2 ^ 16 + (head.elim 0 (xLocal s seat ·)) * 2 ^ 19)
  else setBits v 0 14 src + st * 2 ^ 22 + tag * 2 ^ 25 + pf * 2 ^ 27 + (connAt s n).mode.code * 2 ^ 28

/-- A CONN_STATE record (R294), hardware-originated: UNIT 2 for the fabric's own, 4 for proof. -/
def connRecord (unit n old new cause : Nat) (s : State) : State :=
  ledgerHwSeat (connOwner s n) unit 8 (2 ^ 24 + connAddr n) old (new + 256 * cause) false [] s

/-- A connection's state, override, holder and the holder's number for it as SPACE 0x08 carries them. -/
def connImage (c : Conn) : Nat := c.mode.code + 8 * b2n c.override + 16 * (match c.holder with | some n => n + 1 | none => 0) + 512 * c.num

/-- Change a connection's state in the active page, with its record and its delta (R286, R293). -/
def connTo (n : Nat) (m : ConnMode) (cause : Nat) (s : State) : State :=
  let old := (connAt s n).mode
  if old = m then s
  else
    let s1 := connRecord (if cause = 3 then 2 else 4) n old.code m.code cause (modConn n (fun c => { c with mode := m }) s)
    mirrorItem false 8 n (lastSeq s1) (toBytes 4 (connImage (connAt s1 n))) s1

/-- A connection carries its entry's source: the AIS of UNBUCKLED ends only where it goes LIVE (R257). -/
def connCarries (s : State) (n : Nat) : Bool := (connAt s n).mode = .live

/-- A cause of PX_INT for the Seat of a connection. -/
def pxCause (n k : Nat) (s : State) : State := setCause (connOwner s n) 0xC0100 k s

/-- PX_CTL's event when a connection of a Seat becomes UNBUCKLED or reads a wrong cord. -/
def pxEvent (n : Nat) (s : State) : State :=
  let seat := connOwner s n
  let ctl := rget s (kS seat 0xC0108)
  if bit ctl 6 then setEvent seat (bits ctl 0 6) s else s

end Sys2Proof.Machine
end

