-- ==== Sys2Proof/Machine/Stage.lean ====
section
/-!
DEFINITION. Staging: a Seat's current commit group and its shadow (R46), drafted connection entries (R243, R244, R492), attaches and detaches of
cord expectations (R287, R288).
-/
namespace Sys2Proof.Machine

open Sys2Proof

/-- Change what Line Time keeps for a Seat. -/
def modSeatLt (seat : Nat) (f : SeatLt → SeatLt) (s : State) : State :=
  { s with lt := { s.lt with seats := tmod .reset s.lt.seats seat f } }

/-- Writes of a Seat's own accepted groups. -/
def ownPending (s : State) (seat : Nat) : List StagedWrite := (s.lt.groups.filter (fun g => g.seat = seat)).flatMap (·.writes)

/-- The physical selector that a Seat's number names: high-order, or 2048 and the low-order number (R271). -/
def selOf (s : State) (seat num : Nat) (lo : Bool) : Option Nat :=
  let base := if lo then 2048 else 0
  if seat = 0 then (if (selAt s (base + num)).isSome then some (base + num) else none)
  else s.prot.sels.findSome? (fun e => match e.2 with
    | some x => if x.seat = seat ∧ x.num = num ∧ (2048 ≤ e.1) = (lo = true) then some e.1 else none
    | none => none)

/-- Staging key of a Seat's own selector number. -/
def selLocalKey (num w : Nat) (lo : Bool) : Nat := selKey (if lo then 2048 + num else num) w

/-- A register's value in a Seat's shadow (R46). -/
def shadowVal (s : State) (seat key : Nat) : Nat :=
  match stagedVal (seatGroup s seat) key with
  | some v => v
  | none => (stagedVal (ownPending s seat) key).getD (rget s key)

/-- The group holds fewer than 256 writes (R46). -/
def groupRoom (s : State) (seat : Nat) : Bool := decide ((seatGroup s seat).length < 256)

/-- A write that stays out of a full group (R46). -/
def groupOverflow (seat : Nat) (s : State) : State := modSeatLt seat (fun x => { x with stageFull := true }) s

/-- A write enters the current group. -/
def pushStaged (seat : Nat) (w : StagedWrite) (s : State) : State := modSeatLt seat (fun x => { x with group := x.group ++ [w] }) s

/-- A staged write of a value over the shadow's value: STAGE_WRITE when a bit of the shadow changes (R46, R125). `object` is its OBJECT. -/
def stageValue (a : Agent) (key object bytes old new : Nat) (s : State) : Nat × State :=
  if ¬ groupRoom s a.seat then (oCapacity, groupOverflow a.seat s)
  else if old = new then (oDone, pushStaged a.seat ⟨key, new⟩ s)
  else
    match ledgerMgmt a 2 object old new false (valueConts bytes old new) s with
    | none => (oLedger, s)
    | some t => (oDone, pushStaged a.seat ⟨key, new⟩ t)

/-- The Seat charged for a connection: its holder, while its newest entry there is not NONE (R492). -/
def connHolder (s : State) (n : Nat) : Option Nat :=
  match (connAt s n).holder with
  | some k => if eKind (isHo n) (newestEntry s k n false).2.2 ≠ 0 then some k else none
  | none => none

/-- CONN_USED (R492). -/
def connUsed (s : State) (seat : Nat) : Nat := (s.fab.conns.filter (fun e => connHolder s e.1 = some seat)).length

/-- The RWS fields of an entry as written, with SRC and SRC_J stored as 0 where KIND does not use them (R241, R242). -/
def entryNorm (ho : Bool) (v : Nat) : Nat :=
  let k := eKind ho v
  if ho then bits v 14 6 * 2 ^ 14 + (if k = 1 ∨ k = 2 then bits v 0 14 else 0) + bits v 32 16 * 2 ^ 32
  else bits v 19 3 * 2 ^ 19 + (if k = 1 ∨ k = 2 then bits v 0 14 else 0) + (if k = 1 then bits v 14 5 * 2 ^ 14 else 0)

/-- KIND and WIDTH are assigned values (R244). -/
def entryCoded (ho : Bool) (v : Nat) : Bool := decide (eKind ho v ≤ (if ho then 5 else 4)) && decide (eWidth ho v ≤ 4)

/-- The CONN_STATE record of a transition that a request makes (R286, R294), a management record (R142): none is REFUSED_LEDGER, and the whole
request then changes nothing. -/
def connStateBy (a : Agent) (n old new cause : Nat) (s : State) : Option State :=
  if old = new then some s else ledgerMgmt a 8 (2 ^ 24 + connAddr n) old (new + 256 * cause) false [] s

/-- A Seat still reaches what an entry's source names, both sources of a selector included (R102). -/
def sourceKept (s : State) (seat : Nat) (ho : Bool) (e : Nat) : Bool :=
  match eKind ho e with
  | 1 => fittedX s seat (eSrc e)
  | 2 => match selAt s (if ho then eSrc e else 2048 + eSrc e) with
    | some x => fittedX s seat (eSrc x.w0) && fittedX s seat (eSrc x.w1)
    | none => true
  | _ => true

/-- An entry write of a Seat-local connection number (R243, R244): its outcome. A connection that uses an object which its Seat has lost takes
only a deletion from it (R102). -/
def stageConn (a : Agent) (num v0 : Nat) (s : State) : Nat × State :=
  let ho := isHo num
  let v := entryNorm ho v0
  let k := eKind ho v
  let src := if k = 1 then xPhys s a.seat (eSrc v) false else some (eSrc v)
  let own := connPhys s a.seat num true
  let reach := match own with
    | some n => some n
    | none => (connRead s a.seat num).filter (fun n => decide (k = 0) && (connAt s n).holder == some a.seat)
  match reach, src with
  | some n, some x =>
      let w := setBits v 0 14 x
      let (st, _, old) := newestEntry s a.seat n false
      let fresh := decide (k ≠ 0 ∧ (connHolder s n).isNone)
      let act := (connAt s n).entry
      let lost := decide (a.seat ≠ 0 ∧ k ≠ 0) && (connAt s n).holder == some a.seat && !sourceKept s a.seat ho act
      if ¬ entryCoded ho v ∨ lost then (oSeat, s)
      else if fresh && decide (a.seat ≠ 0) && decide (quota s a.seat 0x200 ≤ connUsed s a.seat) then (oBudget, s)
      else if ¬ groupRoom s a.seat then (oCapacity, groupOverflow a.seat s)
      else
        match ledgerMgmt a 7 (2 ^ 24 + connAddr n) (old % 2 ^ 32) (w % 2 ^ 32) false
            (if ho then [bits old 32 32 + 2 ^ 64 * bits w 32 32] else []) s with
        | none => (oLedger, s)
        | some t =>
            let mine := decide (fresh ∨ (connAt s n).holder = some a.seat)
            let t1 := if mine then modConn n (fun c => { c with holder := some a.seat, num := num }) t else t
            match connStateBy a n st 0 0 (pushStaged a.seat ⟨connKey n, w⟩ t1) with
            | none => (oLedger, s)
            | some u => (oDone, u)
  | _, _ => (oSeat, s)

/-- The fields of a 40-byte expectation (R287). -/
def bodyOf (v : Nat) : ExpectBody :=
  { num := bits v 0 8, port := bits v 8 4, source := bits v 16 2, len := bits v 24 8, symMask := bits v 32 6
    supervise := bit v 48, code := leBytes 32 (v >>> 64) }

/-- The 40 bytes of an expectation. -/
def bodyVal (b : ExpectBody) : Nat :=
  b.num + 2 ^ 8 * b.port + 2 ^ 16 * b.source + 2 ^ 24 * b.len + 2 ^ 32 * b.symMask + 2 ^ 48 * b2n b.supervise + 2 ^ 64 * ofLe b.code

/-- An expectation obeys R287. -/
def bodyValid (b : ExpectBody) : Bool :=
  decide (b.num ≤ 1) && decide (b.source ≠ 0) && decide (1 ≤ b.len ∧ b.len ≤ 32) && (b.code.drop b.len).all (· == 0)

/-- Staging key of a table entry. -/
def expectKey (i : Nat) : Nat := 2 ^ 24 + 0x450000 + 64 * i

/-- The table index that a staging key names. -/
def keyExpect (key : Nat) : Option Nat :=
  if 2 ^ 24 + 0x450000 ≤ key ∧ key < 2 ^ 24 + 0x458000 then some ((key - (2 ^ 24 + 0x450000)) / 64) else none

/-- A detach of the entry is staged or pending. -/
def detachDue (s : State) (i : Nat) : Bool :=
  seats.any (fun n => stagedVal (seatGroup s n) (expectKey i) == some 0) || stagedVal (pendingWrites s) (expectKey i) == some 0

/-- ESTATE as it reads (R287, R288). -/
def estateOf (s : State) (i : Nat) (x : Expect) : EState :=
  if x.state ≠ .pending ∧ detachDue s i then .detaching else x.state

/-- Table entries held by a Seat. -/
def expectUsed (s : State) (seat : Nat) : Nat :=
  (s.prot.expects.filter (fun e => match e.2 with | some x => x.seat == seat | none => false)).length

/-- EXPECT_QUOTA of a Seat. -/
def expectQuota (s : State) (seat : Nat) : Nat := min 512 (quota s seat 0x204)

/-- Put or free a table entry. -/
def setExpect (i : Nat) (x : Option Expect) (s : State) : State :=
  { s with prot := { s.prot with expects := tset none s.prot.expects i x } }

/-- The 64 bytes of a table entry (R287), the port and the connection's address as given. -/
def expectImage (s : State) (i : Nat) (x : Expect) (port addr : Nat) : Nat :=
  let st := match estateOf s i x with | .free => 0 | .pending => 1 | .armed => 2 | .met => 3 | .detaching => 4
  bodyVal { x.body with port := port } + 2 ^ 320 * (addr % 2 ^ 24 + 2 ^ 24 * st) + 2 ^ 352 * (x.armFrame + 2 ^ 48 * x.armPhase)
    + 2 ^ 416 * (x.matchFrame + 2 ^ 48 * x.matchPhase) + 2 ^ 480 * x.lastRead + 2 ^ 496 * x.wrong

/-- The delta of a table entry (R293, R312). -/
def mirrorExpect (mgmt : Bool) (i : Nat) (s : State) : State :=
  match expectAt s i with
  | some x => mirrorItem mgmt 7 i (lastSeq s) (toBytes 64 (expectImage s i x x.body.port (connAddr x.conn))) s
  | none => mirrorDelete mgmt 7 i (lastSeq s) s

/-- The entry that holds an expectation number of a connection. -/
def expectNum (s : State) (n num : Nat) : Option Nat :=
  s.prot.expects.findSome? (fun e => match e.2 with
    | some x => if x.conn = n ∧ x.body.num = num then some e.1 else none
    | none => none)

/-- The connection of a Seat-local object address, when the Seat OWNS its output. -/
def connOwned (s : State) (seat addr : Nat) : Option Nat := (connOfAddr addr).bind (fun n => connPhys s seat n true)

/-- An attach (R288): outcome and table index. -/
def stageAttach (a : Agent) (addr v : Nat) (s : State) : Nat × Nat × State :=
  let b := bodyOf v
  match connOwned s a.seat addr, fittedPhys s a.seat 0 b.port with
  | some n, some p =>
      if mirrorRefused s ∨ ¬ bodyValid b then (oSeat, 0, s)
      else
        let pb := { b with port := p }
        let held := expectNum s n b.num
        let free := (List.range 512).find? (fun i => (expectAt s i).isNone)
        match held, free with
        | none, none => (oCapacity, 0, s)
        | _, _ =>
            let i := match held with | some k => k | none => free.getD 0
            if held.isNone ∧ a.seat ≠ 0 ∧ expectQuota s a.seat ≤ expectUsed s a.seat then (oBudget, 0, s)
            else
              let old := (stagedVal (seatGroup s a.seat) (expectKey i)).getD (((expectAt s i).map (fun x => bodyVal x.body)).getD 0)
              let (o, t) := stageValue a (expectKey i) (2 ^ 25 + i) 40 old (bodyVal pb) s
              if o ≠ oDone then (o, 0, t)
              else if held.isSome then (oDone, i, t)
              else (oDone, i, mirrorExpect true i (setExpect i (some ⟨pb, n, a.seat, .pending, 0, 0, 0, 0, 0, 0⟩) t))
  | _, _ => (oSeat, 0, s)

/-- A detach (R288): outcome and table index. -/
def stageDetach (a : Agent) (addr num : Nat) (s : State) : Nat × Nat × State :=
  match connOwned s a.seat addr with
  | some n =>
      match expectNum s n num with
      | some i =>
          if mirrorRefused s then (oSeat, 0, s)
          else
            let old := ((expectAt s i).map (fun x => bodyVal x.body)).getD 0
            let (o, t) := stageValue a (expectKey i) (2 ^ 25 + i) 40 old 0 s
            (o, if o = oDone then i else 0, t)
      | none => (oSeat, 0, s)
  | none => (oSeat, 0, s)

/-- The reservations that a list of writes made and that have not landed are freed (R288). -/
def freeReserved (ws : List StagedWrite) (s : State) : State :=
  ws.foldl (fun t w => match keyExpect w.key with
    | some i => match expectAt t i with
      | some x => if x.state = .pending then mirrorExpect true i (setExpect i none t) else t
      | none => t
    | none => t) s

end Sys2Proof.Machine
end

