-- ==== Sys2Proof/Machine/Paths.lean ====
section
/-!
DEFINITION. What is kept for a Seat and path: refused writes (R107), not-fitted accesses (R103), discards and pairing errors (R112, R243, R507).
-/
namespace Sys2Proof.Machine

open Sys2Proof

/-- What is kept for a path key. -/
def pathAt (s : State) (pk : Nat) : PathState := tget .reset s.host.paths pk

/-- Change it. -/
def modPath (pk : Nat) (f : PathState → PathState) (s : State) : State :=
  { s with host := { s.host with paths := tmod .reset s.host.paths pk f } }

/-- A cause of SEAT_CAUSE_HOST (R109). -/
def hostCause (seat k : Nat) (s : State) : State := setCause seat 0x20010 k s

/-- A host write that is refused (R107). -/
def refuseHost (a : Agent) (off code : Nat) (s : State) : State :=
  hostCause a.seat 0 (countOutcome a.seat code
    (modPath a.pk (fun p => { p with wrOutcome := code, wrCount := satAdd (2 ^ 24 - 1) p.wrCount 1, wrAddr := off }) s))

/-- An access to not-fitted hardware (R103). -/
def notFitted (a : Agent) (off : Nat) (s : State) : State :=
  hostCause a.seat 1 (modPath a.pk (fun p => { p with nfCount := satAdd (2 ^ 32 - 1) p.nfCount 1, nfAddr := off }) s)

/-- A pairing error (R243, R507). -/
def pairMiss (a : Agent) (s : State) : State :=
  hostCause a.seat 2 (modPath a.pk (fun p => { p with pairMiss := satAdd 65535 p.pairMiss 1, held := none }) s)

/-- A PCIe request or fragment discarded (R112, R113). -/
def discardCount (a : Agent) (s : State) : State :=
  hostCause a.seat 3 (modPath a.pk (fun p => { p with discard := satAdd 65535 p.discard 1 }) s)

/-- The end of a host write with an outcome: a refusal is recorded (R107). -/
def hostEnd (a : Agent) (off : Nat) (r : Nat × State) : State :=
  if r.1 < 0x10 then r.2 else refuseHost a off r.1 r.2

/-- A host's request reaches the part: its stage has host ports, the Seat is enabled (R69, R89). `who` names the Seat that the path reaches. -/
def hostDo (w : HostWho) (f : Agent → State → State) (s : State) : Result :=
  .next (if alive s && seatEnabled s w.seat.toNat then f (hostAgent w) s else s)

/-- The offset at which the aperture shows an object address (R511). -/
def apertureOff (addr : Nat) : Nat := 0xE00000 + addr % 0x200000

end Sys2Proof.Machine
end

