-- ==== Sys2Proof/Machine/ProtEngine.lean ====
section
/-!
DEFINITION. The protection engine on one MSP group or selector: conditions and hold-off (R275), requests and their order
(R276), the decision at a frame boundary (R277 to R281), received K bytes (R280), commands (R284).
-/
namespace Sys2Proof.Machine

open Sys2Proof

/-- What the engine needs of a group's or selector's configuration. -/
structure ProtCfg where
  /-- 0 1+1 unidirectional, 1 1+1 bidirectional, 2 1:1 bidirectional, 3 1:1 unidirectional; selectors act as 0 (R283). -/
  scheme : Nat
  revertive : Bool
  hiPri : Bool
  condSrc : Bool
  holdoff : Nat
  wtr : Nat
  /-- False for a selector: no K bytes, no exercise. -/
  msp : Bool

/-- A request: rank, K1 code, channel (R276). -/
structure Req where
  rank : Nat
  code : Nat
  chan : Nat
deriving DecidableEq, Repr

/-- One boundary of conditions: runs, and effective conditions when the hold-off is 0; a fall acts at once (R275). -/
def condStep (holdoff raw : Nat) (c : ProtCtl) : ProtCtl :=
  let runs := (List.range 4).map (fun k => if raw.testBit k then c.runs.getD k 0 + 1 else 0)
  let eff := if holdoff = 0 then raw else c.eff &&& raw
  { c with raw := raw, runs := runs, eff := eff }

/-- A hold-off that has run out: the condition is effective (R275). -/
def holdoffExpire (holdoff k : Nat) (c : ProtCtl) : ProtCtl :=
  if c.raw.testBit k ∧ holdoff * 800 ≤ c.runs.getD k 0 then { c with eff := c.eff ||| 2 ^ k } else c

/-- The code of SF (of either priority) and of SD (R276). -/
def sfCode (hi : Bool) : Nat := if hi then 0xD else 0xC
def sdCode (hi : Bool) : Nat := if hi then 0xB else 0xA

/-- The request of an external command (R276, R284). -/
def extReq (ext : Nat) : Option Req :=
  match ext with
  | 1 => some ⟨1, 0xF, 0⟩
  | 2 => some ⟨3, 0xE, 1⟩
  | 3 => some ⟨3, 0xE, 0⟩
  | 4 => some ⟨7, 8, 1⟩
  | 5 => some ⟨7, 8, 0⟩
  | 6 => some ⟨9, 4, 1⟩
  | _ => none

/-- The local requests but WTR, DNR and NR, highest first is chosen by `localReq`. -/
def condReqs (cfg : ProtCfg) (c : ProtCtl) : List Req :=
  (if c.eff.testBit 1 then [⟨2, sfCode cfg.hiPri, 0⟩] else [])
    ++ (if c.eff.testBit 0 then [⟨4, sfCode cfg.hiPri, 1⟩] else [])
    ++ (if c.eff.testBit 2 then [⟨5, sdCode cfg.hiPri, 1⟩] else [])
    ++ (if c.eff.testBit 3 then [⟨6, sdCode cfg.hiPri, 0⟩] else [])

/-- The higher-ranked of two requests; the first of equal rank. -/
def Req.better (a b : Req) : Req := if b.rank < a.rank then b else a

/-- Commands and conditions, the highest-ranked; none when there is none. -/
def activeReq (cfg : ProtCfg) (c : ProtCtl) : Option Req :=
  let ext := match extReq c.ext with | some r => if c.ext = 6 ∧ ¬ c.exerRun then [] else [r] | none => []
  match ext ++ condReqs cfg c with
  | [] => none
  | r :: rs => some (rs.foldl Req.better r)

/-- The local request, WTR, DNR and NR included (R276, R281). In a revertive group nothing requested returns to working; in
another, traffic on protection requests DNR. NR names the channel in use. -/
def localReq (cfg : ProtCfg) (c : ProtCtl) : Req :=
  match activeReq cfg c with
  | some r => if c.wtrRun ∧ 8 < r.rank then ⟨8, 6, 1⟩ else r
  | none =>
      if c.wtrRun then ⟨8, 6, 1⟩
      else if c.selNext && !cfg.revertive then ⟨11, 1, 1⟩
      else ⟨12, 0, b2n c.selected⟩

/-- A K1 code is one of R276; channels above 1 are invalid (section "Linear MSP"). -/
def k1Valid (k1 : Nat) : Bool :=
  decide (k1 % 16 ≤ 1) && [0xF, 0xE, 0xD, 0xC, 0xB, 0xA, 8, 6, 4, 2, 1, 0].contains (k1 / 16)

/-- The remote request in an accepted K1; a reverse request answers and asks for nothing (R276). -/
def remoteReq (k1 : Nat) : Option Req :=
  let chan := k1 % 16
  match k1 / 16 with
  | 0xF => some ⟨1, 0xF, chan⟩
  | 0xE => some ⟨3, 0xE, chan⟩
  | 0xD => some ⟨if chan = 0 then 2 else 4, 0xD, chan⟩
  | 0xC => some ⟨if chan = 0 then 2 else 4, 0xC, chan⟩
  | 0xB => some ⟨if chan = 1 then 5 else 6, 0xB, chan⟩
  | 0xA => some ⟨if chan = 1 then 5 else 6, 0xA, chan⟩
  | 8 => some ⟨7, 8, chan⟩
  | 6 => some ⟨8, 6, chan⟩
  | 4 => some ⟨9, 4, chan⟩
  | 1 => some ⟨11, 1, chan⟩
  | _ => none

/-- The group runs bidirectionally: the scheme says so and no mismatch or failure of protocol stands (R280). -/
def bidir (cfg : ProtCfg) (c : ProtCtl) : Bool :=
  cfg.msp && (cfg.scheme == 1 || cfg.scheme == 2) && !c.fop && !c.archMm && !c.modeMm

/-- The remote request that counts: of a group that runs bidirectionally (R276, R279, R280). -/
def remoteIn (cfg : ProtCfg) (c : ProtCtl) : Option Req := if bidir cfg c then remoteReq c.remote else none

/-- WTR begins when the working side's SF or SD falls and leaves traffic on protection in a revertive group; a higher request, local or remote, ends
it (R281). -/
def wtrStep (cfg : ProtCfg) (oldEff : Nat) (c : ProtCtl) : ProtCtl :=
  let fell := decide (oldEff &&& 5 ≠ 0 ∧ c.eff &&& 5 = 0)
  let above (r : Option Req) : Bool := r.any (fun r => decide (r.rank < 8))
  if above (activeReq cfg c) || above (remoteIn cfg c) then { c with wtrRun := false, wtrLeft := 0 }
  else if fell && c.selNext && cfg.revertive then { c with wtrRun := true, wtrLeft := cfg.wtr * 480000 }
  else { c with wtrLeft := c.wtrLeft - 1 }

/-- The request in force: the remote one where it outranks the local one (R276). -/
def forceOf (cfg : ProtCfg) (c : ProtCtl) : Req := (remoteIn cfg c).elim (localReq cfg c) (localReq cfg c).better

/-- The accepted K bytes of the protection port at a boundary: the remote request that stands, mismatches, runs of FOP causes
(R280). `hold`: SF-P is effective or K_INCONS is set. -/
def rxStep (cfg : ProtCfg) (k1 k2 : Nat) (hold : Bool) (c : ProtCtl) : ProtCtl :=
  if ¬ cfg.msp then c
  else
    let isBi := cfg.scheme == 1 || cfg.scheme == 2
    let arch := decide (2 ≤ cfg.scheme)
    let remote := if hold || !k1Valid k1 then c.remote else k1
    let mism := isBi && decide (k2 / 16 ≠ c.txK1 % 16)
    let bad := isBi && !k1Valid k1
    let fopRun := if mism then min 400 (c.fopRun + 1) else 0
    let badRun := if bad then min 400 (c.badRun + 1) else 0
    let clr := if mism || bad then 0 else min 8 (c.fopClr + 1)
    { c with rxK1 := k1, rxK2 := k2, remote := remote
             archMm := (k2.testBit 3) != arch
             modeMm := isBi && decide (k2 % 8 = 4)
             fopRun := fopRun, badRun := badRun, fopClr := clr
             fop := c.fop && decide (clr < 8)
             exerSeen := c.exerSeen || (c.exerRun && decide (remote = 0x21) && !hold) }

/-- The decision at a frame boundary: request in force, next selection and bridge, next K bytes (R276 to R279). An exercise changes neither selection
nor bridge (R282). No request in force leads back to working, though its K1 names the channel in use (R276, R281; entry 54). -/
def decideStep (cfg : ProtCfg) (c : ProtCtl) : ProtCtl :=
  let force := forceOf cfg c
  let sendCode := if force.rank < (localReq cfg c).rank then 2 else force.code
  let chan := if force.rank = 12 then 0 else force.chan
  let exercise := force.rank == 9
  let oneToOne := cfg.msp && decide (2 ≤ cfg.scheme)
  let k1 := if cfg.msp then 16 * sendCode + force.chan else 0
  let sel :=
    if exercise then c.selNext
    else if oneToOne then (if c.rxK2 / 16 = chan then chan == 1 else c.selNext)
    else chan == 1
  let br := if ¬ cfg.msp then false else if ¬ oneToOne then true else if exercise then c.brNext else decide (k1 % 16 = 1)
  let k2chan :=
    if oneToOne then b2n br
    else if bidir cfg c then c.remote % 16 else k1 % 16
  let k2 := if cfg.msp then 16 * k2chan + (if oneToOne then 8 else 0) + (if cfg.scheme == 1 || cfg.scheme == 2 then 5 else 4) else 0
  { c with rank := force.rank, code := force.code, selNext := sel, brNext := br, nextK1 := k1, nextK2 := k2
           exerLeft := c.exerLeft - 1 }

/-- One boundary of the engine (R277). -/
def engineStep (cfg : ProtCfg) (raw k1 k2 : Nat) (kIncons : Bool) (c : ProtCtl) : ProtCtl :=
  let oldEff := c.eff
  let c1 := condStep cfg.holdoff (if cfg.condSrc then c.raw else raw) c
  let c2 := rxStep cfg k1 k2 (kIncons || c1.eff.testBit 1) c1
  decideStep cfg (wtrStep cfg oldEff c2)

/-- Step 5 of the next boundary: what was decided applies (R277). -/
def applyStep (c : ProtCtl) : ProtCtl :=
  { c with selected := c.selNext, bridged := c.brNext, txK1 := c.nextK1, txK2 := c.nextK2
           switches := if c.selected = c.selNext then c.switches else wrap32 c.switches 1 }

/-- A command code is valid for the object (R284). -/
def cmdValid (cfg : ProtCfg) (code : Nat) : Bool :=
  if code ≤ 5 then true
  else if code = 6 then cfg.msp && (cfg.scheme == 1 || cfg.scheme == 2)
  else if 8 ≤ code ∧ code ≤ 0xD then cfg.condSrc
  else false

/-- The request that a command is held against: the one in force, a command of a switch-request word not against the Seat's own (R283, R284). -/
def standing (cfg : ProtCfg) (hw : Bool) (c : ProtCtl) : Req :=
  forceOf cfg (if c.extHw && !hw then { c with ext := 0, extHw := false } else c)

/-- A command from 0x2 to 0x6 that the request in force outranks (R284); EXERCISE needs NR or DNR in force (R282). -/
def cmdOutranked (cfg : ProtCfg) (hw : Bool) (c : ProtCtl) (code : Nat) : Bool :=
  let rank := (standing cfg hw c).rank
  if code = 6 then decide (rank ≠ 11 ∧ rank ≠ 12)
  else match (if 2 ≤ code ∧ code ≤ 5 then extReq code else none) with
    | some r => decide (rank < r.rank)
    | none => false

/-- A condition command's change of the reported conditions (R284): SF sets SF and clears SD, and so on. -/
def condCmd (code raw : Nat) : Nat :=
  match code with
  | 0x8 => (clrMask raw 5) ||| 1
  | 0x9 => (clrMask raw 5) ||| 4
  | 0xA => clrMask raw 5
  | 0xB => (clrMask raw 10) ||| 2
  | 0xC => (clrMask raw 10) ||| 8
  | 0xD => clrMask raw 10
  | _ => raw

/-- An accepted command (R282, R284). -/
def cmdApply (hw : Bool) (code : Nat) (c : ProtCtl) : ProtCtl :=
  if 8 ≤ code then { c with raw := condCmd code c.raw }
  else if code = 0 then { c with ext := 0, extHw := false, exerRun := false }
  else if code = 6 then { c with ext := 6, extHw := hw, exerRun := true, exerLeft := 16, exerSeen := false }
  else { c with ext := code, extHw := hw, exerRun := false }

end Sys2Proof.Machine
end

