-- ==== Sys2Proof/Machine/Line.lean ====
section
/-!
DEFINITION. Line ports and GFP-F channels: reception (R215 to R226), windows (R223), the transmit monitor (R236), GFP-F frames received (R230 to R234), block streams (R233 to R235), the status flip (R216, R217, R222, R499).
-/
namespace Sys2Proof.Machine

open Sys2Proof

/-- A line port. -/
def portAt (s : State) (p : Nat) : LinePort := tget .reset s.line.ports p

/-- Put a port back; change it. -/
def setPort (p : Nat) (x : LinePort) (s : State) : State := { s with line := { s.line with ports := tset .reset s.line.ports p x } }
def modPort (p : Nat) (f : LinePort → LinePort) (s : State) : State := setPort p (f (portAt s p)) s

/-- LP_CFG of a port. -/
def lpCfg (s : State) (p : Nat) : Nat := rget s (kP (0x80000 + 0x4000 * p))

/-- A port's receiver frames: from FRAMED on, with its domain awake (R64, R80). -/
def lineRuns (s : State) (p : Nat) : Bool := decide (2 ≤ s.pwr.stage.code) && domOn s p

/-- The part sends traffic: IN_SERVICE as rein holder, ALIVE running (R75, R307, R472). -/
def carriesTraffic (s : State) : Bool := s.pwr.stage = .inService && s.pwr.role = .holder && !s.flt.stopped

/-- What a line transmitter sends: 0 idle, 1 MS-AIS, 2 path AIS in every slot, 3 the fabric output (R64, R75, R76, R472). -/
def txKind (s : State) (p : Nat) : Nat :=
  if s.flt.stopped then 0
  else match s.pwr.stage with
    | .dark => 0
    | .safe => if s.pwr.txMute then 0 else 1
    | .inService => if s.pwr.role = .holder ∧ domOn s p then 3 else 0
    | _ => if s.pwr.txMute ∨ ¬ domOn s p ∨ s.mate.rein = .out ∨ s.mate.rein = .releasing then 0 else 2

/-- Counter i of a port (R499: they wrap). -/
def cntAdd (i n : Nat) (x : LinePort) : LinePort := { x with cnt := tmod 0 x.cnt i (fun v => wrap32 v n) }

/-- TYPE of the group that holds a slot of a port. -/
def lpType (s : State) (p sl : Nat) : Nat := auType s [] (192 * p + sl)

/-- Counts of one pointer step. -/
def cntPtr (k : PtrCount) (x : LinePort) : LinePort :=
  cntAdd 8 k.ignored (cntAdd 7 k.ndf (cntAdd 6 k.dec (cntAdd 5 k.inc x)))

/-- One received AU pointer word (R224). -/
def rxAu (s : State) (p : Nat) (x : LinePort) (r : AuRx) : LinePort :=
  let sl := r.slot.toNat
  let t := lpType s p sl
  let i := { tget PtrInterp.reset x.au sl with uneq := r.uneq }
  if rateSlots (lpRate s [] p) ≤ sl then x
  else if t = 7 ∨ (t = 6 ∧ sl % 3 ≠ 0) then { x with au := tset .reset x.au sl (concStep r.word.toNat i) }
  else if (t = 1 ∨ t = 4 ∨ t = 5) ∨ sl % 3 = 0 then
    let (j, k) := ptrStep 783 r.word.toNat i
    cntPtr k { x with au := tset .reset x.au sl j }
  else x

/-- One received TU pointer word (R224, R225): index 84·group + place in it. -/
def rxTu (s : State) (p : Nat) (x : LinePort) (r : TuRx) : LinePort :=
  let t := lpType s p (3 * (r.index.toNat / 84))
  if tribs t = 0 ∨ 3 * tribs t ≤ r.index.toNat % 84 then x
  else
    let (j, k) := ptrStep (if tribs t = 21 then 140 else 104) r.word.toNat { tget PtrInterp.reset x.tu r.index.toNat with uneq := r.uneq }
    cntPtr k { x with tu := tset .reset x.tu r.index.toNat j }

/-- H4 of a carrier (R225). -/
def rxH4 (x : LinePort) (h : BitVec 8 × BitVec 2) : LinePort :=
  { x with mf := tmod .reset x.mf h.1.toNat (mfStep h.2.toNat) }

/-- K1, K2, S1, MS-AIS, MS-RDI of a frame received in SYNC (R219). -/
def rxOverhead (r : LineRx) (x : LinePort) : LinePort :=
  let k := r.k1.toNat + 256 * r.k2.toNat
  let (kc, kr, ka) := acceptRun 3 x.kCand x.kRun k
  let (sc, sr, sa) := acceptRun 8 x.s1Cand x.s1Run r.s1.toNat
  let (ar, ac, ms) := threeRun (r.k2.toNat % 8 == 7) x.aisRun x.aisClr x.msAis
  let (rr, rc, rd) := threeRun (r.k2.toNat % 8 == 6) x.rdiRun x.rdiClr x.msRdi
  let kNone := if ka.isSome then 0 else min 12 (x.kNone + 1)
  { x with
    kCand := kc, kRun := kr, kNone := kNone, k1 := (ka.map (· % 256)).getD x.k1, k2 := (ka.map (· / 256)).getD x.k2
    kIncons := if ka.isSome then false else x.kIncons || decide (12 ≤ kNone)
    s1Cand := sc, s1Run := sr, s1 := sa.getD x.s1
    aisRun := ar, aisClr := ac, msAis := ms, rdiRun := rr, rdiClr := rc, msRdi := rd }

/-- REI of M1: a value above the cap of R221 counts as 0. -/
def m1Cap (rate : Nat) : Nat := if rate = 0 then 24 else if rate = 1 then 96 else 255

/-- Slots of a concatenation that a group of slots is the head of. -/
def concSlots (s : State) (p sl : Nat) : Nat := if lpType s p sl = 6 then [12, 48, 192].getD (auConc s [] (192 * p + sl)) 3 else 3

/-- LOPC of each concatenated payload, kept by its head: set by a continuation slot that has lost its indication, cleared when every one of them has
received 3 (R224). -/
def lopcStep (s : State) (p : Nat) (x : LinePort) : LinePort :=
  (List.range 64).foldl (fun y a =>
    if lpType s p (3 * a) ≠ 6 then y
    else
      let conts := (List.range (concSlots s p (3 * a) - 1)).map (fun k => tget PtrInterp.reset y.au (3 * a + 1 + k))
      let i := tget PtrInterp.reset y.au (3 * a)
      let l := if conts.any (·.lopc) then true else if conts.all (fun c => decide (3 ≤ c.concGood)) then false else i.lopc
      { y with au := tset .reset y.au (3 * a) { i with lopc := l } }) x

/-- A slot feeds path AIS to the fabric: LOS or LOF of the port, or its VC's interpreter in AIS or LOP (R218, R226). -/
def lineSlotAis (s : State) (p sl : Nat) (x : LinePort) : Bool :=
  x.los || x.lof || (tget PtrInterp.reset x.au (structHead s [] (192 * p + sl))).mode ≠ .norm

/-- The slot of a TU index, and a TU that feeds TU path AIS to the low-order fabric (R225). -/
def tuSlot (s : State) (p t : Nat) : Nat := 3 * (t / 84) + t % 84 / tribs (lpType s p (3 * (t / 84)))
def lineTribAis (s : State) (p t : Nat) (x : LinePort) : Bool :=
  lineSlotAis s p (tuSlot s p t) x || (tget MfCount.reset x.mf (structHead s [] (192 * p + tuSlot s p t))).lom
    || (tget PtrInterp.reset x.tu t).mode ≠ .norm

/-- One slot, and one TU, of a frame enter the input frame in progress (R226, R252). -/
def rxCells (s : State) (p : Nat) (x : LinePort) (r : SlotRx) : LinePort :=
  let sl := r.slot.toNat
  if rateSlots (lpRate s [] p) ≤ sl then x
  else { x with rxSlots := tins (tdel x.rxSlots sl) sl (if lineSlotAis s p sl x then .ais else .cells r.cells) }
def rxTribCells (s : State) (p : Nat) (x : LinePort) (r : TribRx) : LinePort :=
  let t := r.index.toNat
  if tribs (lpType s p (3 * (t / 84))) = 0 then x
  else { x with rxTribs := tins (tdel x.rxTribs t) t (if lineTribAis s p t x then .ais else .cells r.cells) }

/-- Append bytes to a DCC buffer of 1 KiB: the newest that do not fit are dropped (R235). -/
def dccPut (buf new : List Byte) : List Byte × Nat := ((buf ++ new).take 1024, (buf ++ new).length - 1024)

/-- One received line frame (R215, R216, R218 to R225, R235). -/
def lineReceive (p : Nat) (r : LineRx) (s : State) : State :=
  let cfg := lpCfg s p
  let old := portAt s p
  let x0 := framerStep (r.patterns.map (· % rateBits (bits cfg 0 2))) r.transitions { old with cdrLock := r.cdrLock }
  if ¬ (old.framer = .sync ∧ x0.framer = .sync) then setPort p x0 s
  else
    let ok := !x0.los && !x0.lof
    let x1 := cntAdd 15 r.unsup { x0 with
      lastB2 := r.b2, cap := r.e1.toNat + 256 * r.f1.toNat + 65536 * r.e2.toNat
      sdWin := { x0.sdWin with count := x0.sdWin.count + r.b2 }, excWin := { x0.excWin with count := x0.excWin.count + r.b2 } }
    let x2 := if ok then
        let x := cntAdd 1 r.b2 (cntAdd 0 r.b1 (rxOverhead r x1))
        let x := cntAdd 2 (if r.m1.toNat ≤ m1Cap (bits cfg 0 2) then r.m1.toNat else 0) x
        let x := j0Step cfg r.j0.toNat x
        let (a, da) := if bit cfg 16 then dccPut x.dccSRx (r.dccS.take 3) else (x.dccSRx, 0)
        let (b, db) := if bit cfg 17 then dccPut x.dccLRx (r.dccL.take 9) else (x.dccLRx, 0)
        cntAdd 13 (da + db) { x with dccSRx := a, dccLRx := b }
      else x1
    let x3 := lopcStep s p (r.h4.foldl rxH4 (r.aus.foldl (rxAu s p) x2))
    let x4 := r.tus.foldl (rxTu s p) x3
    setPort p (r.tribs.foldl (rxTribCells s p) (r.slots.foldl (rxCells s p) x4)) s

/-- LINE_FRAME_RECEIVE (R215). -/
def execLineFrameReceive (p : BitVec 4) (r : LineRx) (s : State) : Result :=
  .next (if lineRuns s p.toNat then lineReceive p.toNat r s else s)

/-- LOS_DECLARE (R216): LOS, HUNT, every candidate dropped. -/
def execLosDeclare (p : BitVec 4) (s : State) : Result :=
  .next (if lineRuns s p.toNat then
      modPort p.toNat (fun x =>
        let y := { (if x.framer = .sync then outOfSync x else x) with los := true, cdrLock := false, framer := .hunt, cands := [], errRun := 0, wasOut := true }
        if x.los then y else cntAdd 4 1 y) s
    else s)

/-- A detector's window may end at the next boundary, a tick W frames or more after its start (R223). -/
def windowDue (s : State) (rate : Nat) (w : B2Window) : Bool :=
  match w.start with
  | some f => decide (f + b2W rate w.expo ≤ s.lt.bounds + 1) && decide ((s.lt.frame + 1) % 8 = 0)
  | none => false

/-- SD_WINDOW_END (R223): the window of the SD or of the EXC detector ends at the tick boundary that the LT frame in progress runs up to (entry 50). -/
def execSdWindowEnd (p : BitVec 4) (exc : Bool) (s : State) : Result :=
  let x := portAt s p.toNat
  let rate := bits (lpCfg s p.toNat) 0 2
  .next (if ¬ lineRuns s p.toNat then s
    else if exc then
      if windowDue s rate x.excWin then setPort p.toNat { x with excWin := { x.excWin with ends := true } } s else s
    else if windowDue s rate x.sdWin then setPort p.toNat { x with sdWin := { x.sdWin with ends := true } } s
    else s)

/-- A detector at a boundary, before the flip: LOF in the frame that ends, or a skip, spoils its window; at a tick a window that ends is judged and the
next one starts (R223, R501). -/
def windowStep (tick skip : Bool) (rate expo now : Nat) (x : LinePort) (w : B2Window) : B2Window :=
  let w1 := { w with sawLof := w.sawLof || x.lof || skip || w.start.isNone }
  let closes := w1.ends || w1.start.isNone || (skip && w1.start.any (fun f => decide (f + b2W rate w1.expo ≤ now)))
  if tick && closes then b2End x.los rate now expo w1 else w1

/-- The windows of a port at a boundary. -/
def portWindows (tick skip : Bool) (p : Nat) (s : State) : State :=
  if ¬ lineRuns s p then s
  else
    let cfg := lpCfg s p
    modPort p (fun x => { x with
      sdWin := windowStep tick skip (bits cfg 0 2) (bits cfg 8 4) s.lt.bounds x x.sdWin
      excWin := windowStep tick skip (bits cfg 0 2) (bits cfg 12 4) s.lt.bounds x x.excWin }) s

/-- The place of a TU's start marker in its multiframe: positions of one frame after the V byte, counted from the byte after V2 (R227, G.707). -/
def tuMark (quarter : Nat) (l : List Cell) : Option Nat :=
  match l.findIdx? (fun c => c.getLsbD 8) with
  | some (k + 1) => some ((quarter + 3) % 4 * (l.length - 1) + k)
  | _ => none

/-- The place of a slot's start marker as an AU pointer offset: SPE bytes after H3, 87 to a row (R331, G.707). -/
def auMark (l : List Cell) : Option Nat :=
  (l.findIdx? (fun c => c.getLsbD 8)).map (fun k => ((k / 90 + 6) * 87 + k % 90 + 783 - 3) % 783)

/-- A frame boundary: the input frame is complete and the next one begins (R252). -/
def portShift (runs : Bool) (quarter : Nat) (x : LinePort) : LinePort :=
  { x with
    inSlots := x.rxSlots, rxSlots := [], inTribs := x.rxTribs, rxTribs := [], inDark := x.los || x.lof || !runs
    tribMarks := x.rxTribs.foldl (fun m e => match e.2 with
      | .cells l => (tuMark quarter l).elim m (fun o => tins (tdel m e.1) e.1 o)
      | _ => m) x.tribMarks }
def linesShift (s : State) : State :=
  s.line.ports.foldl (fun t e => modPort e.1 (portShift (lineRuns s e.1) (s.lt.frame % 4)) t) s

/-- TIM (R220): the accepted trace differs from the expected one. -/
def timOf (s : State) (p : Nat) (x : LinePort) : Bool :=
  bit (lpCfg s p) 5 && x.j0Seen && decide (x.j0 ≠ (leBytes 64 (rget s (kP (0x80040 + 0x4000 * p)))).take x.j0.length)

/-- The port sends MS-RDI (R221). -/
def sendsRdi (s : State) (p : Nat) (x : LinePort) : Bool := bit (lpCfg s p) 4 && (x.los || x.lof || x.msAis || timOf s p x)

/-- PTR_BEYOND_CLEAR (R229): 8000 consecutive frames without a jump. -/
def execPtrBeyondClear (p : BitVec 4) (s : State) : Result :=
  let x := portAt s p.toNat
  .next (if x.beyond ∧ x.jumpFrame + 8000 ≤ s.lt.bounds then setPort p.toNat { x with beyond := false } s else s)

/-- A transmit fault in the first cycle after a take of the rein (R319). -/
def txFaultAtTake (s : State) : State :=
  if s.mate.rein = .holder ∧ s.mate.takeCycle = s.lt.frame / 16 + 1 ∧ ¬ s.mate.txFault then
    faultRaise 245 (mateCause0 7 (modMate (fun m => { m with txFault := true }) s))
  else s

/-- LINE_TXMON_FAIL (R236): the monitor, which runs while the transmitter is not idle, loses SYNC or meets a B1 error in it, or has not reached SYNC
within 8 LT frames. -/
def execLineTxmonFail (p : BitVec 4) (s : State) : Result :=
  let x := portAt s p.toNat
  .next (if txKind s p.toNat = 0 then s
    else
      let y := { x with monitor := .hunt, txClean := 0 }
      if x.monitor ≠ .sync ∧ x.monAge < 8 ∨ x.txFail then setPort p.toNat y s
      else txFaultAtTake (faultRaise (65 + 4 * p.toNat) (setPort p.toNat { y with txFail := true } s)))

/-- LINE_TXMON_CLEAR (R236): 16 LT frames in SYNC with no B1 error. -/
def execLineTxmonClear (p : BitVec 4) (s : State) : Result :=
  let x := portAt s p.toNat
  .next (if txKind s p.toNat ≠ 0 ∧ 16 ≤ x.txClean then setPort p.toNat { x with txFail := false } s else s)

/-- The monitor over one frame sent: it meets the pattern, and again a frame later (R215, R236). -/
def monitorStep (x : LinePort) : LinePort :=
  let m : Framer := match x.monitor with | .hunt => .presync | _ => .sync
  { x with monitor := m, monAge := min 8 (x.monAge + 1), txClean := if x.monitor = .sync then min 16 (x.txClean + 1) else 0 }

/-- A GFP-F channel. -/
def gfpAt (s : State) (c : Nat) : GfpChan := tget .reset s.line.gfp c
def setGfp (c : Nat) (x : GfpChan) (s : State) : State := { s with line := { s.line with gfp := tset .reset s.line.gfp c x } }

/-- Counter i of a channel. -/
def gfpCnt (i : Nat) (x : GfpChan) : GfpChan := { x with cnt := tmod 0 x.cnt i (fun v => wrap32 v 1) }

/-- Zeros up to a multiple of 4 bytes (R234). -/
def pad4 (bs : List Byte) : List Byte := bs ++ List.replicate ((4 - bs.length % 4) % 4) 0

/-- The receive record of a frame (R234). -/
def gfpRecord (s : State) (r : GfpRx) (bad : Bool) : List Byte :=
  pad4 (toBytes 2 r.payload.length ++ [BitVec.ofNat 8 (b2n bad + 2 * b2n (r.pti == 4) + 4 * b2n r.pfi), r.upi]
    ++ toBytes 4 (s.lt.frame % 2 ^ 32) ++ r.payload)

/-- A client frame in SYNC (R232). -/
def gfpDeliver (s : State) (c : Nat) (r : GfpRx) (x : GfpChan) : GfpChan :=
  if r.idle then x
  else if ¬ r.thecOk ∨ r.exi ≠ 0 ∨ (r.pti ≠ 0 ∧ r.pti ≠ 4) ∨ 9600 < r.payload.length then gfpCnt 2 x
  else
    let bad := r.pfi && !r.fcsOk
    let x1 := if bad then gfpCnt 3 x else x
    if bad ∧ bit (gfpCfg s [] c) 18 then x1
    else
      let rec_ := gfpRecord s r bad
      if 16384 < x1.rx.length + rec_.length then gfpCnt 4 x1 else gfpCnt 0 { x1 with rx := x1.rx ++ rec_ }

/-- A channel whose container is in AIS or LOP hunts (R232). -/
def gfpContainer (s : State) (c : Nat) (x : GfpChan) : GfpChan :=
  let v := gfpCfg s [] c
  if lineSlotAis s (bits v 4 4) (bits v 8 8) (portAt s (bits v 4 4)) then { x with delin := .hunt } else x

/-- GFP_FRAME_RECEIVE (R232). -/
def execGfpFrameReceive (c : BitVec 3) (r : GfpRx) (s : State) : Result :=
  let v := gfpCfg s [] c.toNat
  .next (if ¬ (bit v 0 ∧ domOn s (94 + c.toNat) ∧ lineRuns s (bits v 4 4)) then s
    else
      let x := { gfpAt s c.toNat with plm := r.c2 != 0x1B }
      let y :=
        if lineSlotAis s (bits v 4 4) (bits v 8 8) (portAt s (bits v 4 4)) then { x with delin := .hunt }
        else match x.delin, r.chec with
          | .hunt, .ok => { x with delin := .presync }
          | .hunt, _ => x
          | .presync, .ok => gfpDeliver s c.toNat r { x with delin := .sync }
          | .presync, _ => { x with delin := .hunt }
          | .sync, .ok => gfpDeliver s c.toNat r x
          | .sync, .corrected => gfpDeliver s c.toNat r (gfpCnt 1 x)
          | .sync, .bad => { x with delin := .hunt }
      setGfp c.toNat y s)

/-- Change of the port's LP_STATUS word at a flip; bits as LP_STATUS (R216, R217, R219, R220, R223, R229, R236). -/
def lpStatusWord (tim : Bool) (x : LinePort) : Nat :=
  b2n x.los + 2 * b2n (x.framer != .sync) + 4 * b2n x.lof + 8 * b2n x.msAis + 16 * b2n x.msRdi + 32 * b2n x.sdWin.declared
    + 64 * b2n x.excWin.declared + 128 * b2n tim + 256 * b2n x.kIncons + 512 * b2n x.txFail + 1024 * b2n x.beyond
    + 2048 * b2n x.cdrLock + 4096 * (match x.framer with | .hunt => 0 | .presync => 1 | .sync => 2)

/-- LOF at a frame boundary: 24 frames out of SYNC throughout declare it, 24 in SYNC throughout clear it (R217). -/
def lofStep (x : LinePort) : LinePort :=
  let out := if x.wasIn then 0 else min 24 (x.outRun + 1)
  let inn := if x.wasOut then 0 else min 24 (x.inRun + 1)
  let lof := if 24 ≤ out then true else if 24 ≤ inn then false else x.lof
  { x with outRun := out, inRun := inn, lof := lof, wasIn := x.framer = .sync, wasOut := x.framer ≠ .sync }

/-- The PTR code of an interpreter. -/
def PtrMode.code : PtrMode → Nat
  | .norm => 0 | .ais => 1 | .lop => 2

/-- LP_AU_STATUS of a slot. -/
def auStatus (s : State) (p sl : Nat) (x : LinePort) : Nat :=
  let i := tget PtrInterp.reset x.au sl
  i.mode.code + 4 * b2n i.uneq + 8 * b2n (tget PtrInterp.reset x.au (structHead s [] (192 * p + sl))).lopc + 16 * b2n ((tget MfCount.reset x.mf sl).lom) + 65536 * i.offset

/-- One 16-bit entry of LP_TU_STATUS; an undeclared TU reads 0. -/
def tuStatus (s : State) (p t : Nat) (x : LinePort) : Nat :=
  let ty := lpType s p (3 * (t / 84))
  if tribs ty = 0 ∨ 3 * tribs ty ≤ t % 84 then 0
  else
    let i := tget PtrInterp.reset x.tu t
    i.mode.code + 4 * b2n i.uneq

/-- The registers of a port as they stand, by offset in its block. -/
def portView (s : State) (p : Nat) (x : LinePort) : Tab Nat :=
  let base := [(0x04, lpStatusWord (timOf s p x) x), (0x10, x.k1 + 256 * x.k2 + 65536 * x.s1), (0x18, x.cap)]
    ++ (List.range 16).map (fun i => (0xC0 + 4 * i, ofLe ((x.j0.drop (4 * i)).take 4)))
    ++ (List.range 16).map (fun i => (0x100 + 4 * i, tget 0 x.cnt i))
  let aus := (List.range 192).map (fun i => (0x400 + 4 * i, auStatus s p i x))
  let tus := (List.range 2688).map (fun i => (0x1000 + 4 * i, tuStatus s p (2 * i) x + 65536 * tuStatus s p (2 * i + 1) x))
  (base ++ aus ++ tus).filter (fun e => e.2 ≠ 0)

/-- A port's step 2: LOF, SF and SD for the protection block, the flip, LP_INT, a due clear of the counters (R217, R222, R499). -/
def portFlip (p : Nat) (s : State) : State :=
  if ¬ lineRuns s p then s
  else
    let x0 := lofStep (portAt s p)
    let x1 := if x0.cntClr then { x0 with cnt := [], cntClr := false } else x0
    let tim := timOf s p x1
    let before := if x1.view = [] then 7 else tget 0 x1.view 4
    let now := lpStatusWord tim x1
    let sf := x1.los || x1.lof || x1.msAis || x1.excWin.declared || tim
    let s1 := setPort p { x1 with view := portView s p x1, sfOut := sf, sdOut := x1.sdWin.declared } s
    let chg := (before ^^^ now) % 2048
    if chg = 0 then s1 else notifyAll (rmod s1 (kP (0x80008 + 0x4000 * p)) (fun v => v ||| chg))

/-- A channel's step 2. -/
def gfpFlip (c : Nat) (s : State) : State :=
  if ¬ domOn s (94 + c) then s
  else
    let x := if bit (gfpCfg s [] c) 0 then gfpContainer s c (gfpAt s c) else gfpAt s c
    let st := (match x.delin with | .hunt => 0 | .presync => 1 | .sync => 2) + 4 * b2n x.plm
    setGfp c { x with view := ((4, st) :: (List.range 7).map (fun i => (0x10 + 4 * i, tget 0 x.cnt i))).filter (fun e => e.2 ≠ 0) } s

/-- A slot of a line port has signal fail for a selector (R274): AIS or LOP, LOPC, LOM of its carrier, UNEQ when it counts, SF of the port. -/
def lineSlotSf (s : State) (x : Nat) (trib : Option Nat) (uneqSf : Bool) : Bool :=
  let p := xPort x
  let sl := xSlot x
  let pt := portAt s p
  let ty := lpType s p sl
  let head := structHead s [] x
  let au := tget PtrInterp.reset pt.au head
  let base := pt.sfOut || au.mode ≠ .norm || au.lopc
  match trib with
  | none => base || (tribs ty ≠ 0 && (tget MfCount.reset pt.mf head).lom) || (uneqSf && au.uneq)
  | some j =>
      let t := tget PtrInterp.reset pt.tu (84 * (sl / 3) + tribs ty * (sl % 3) + j)
      base || (tget MfCount.reset pt.mf head).lom || t.mode ≠ .norm || (uneqSf && t.uneq)

/-- A port whose RATE or MODE has changed re-enters HUNT; one disabled or enabled keeps its counters (R213). -/
def portRestart (p : Nat) (s : State) : State :=
  modPort p (fun x => if x.framer = .sync then outOfSync x else { x with framer := .hunt, cands := [], errRun := 0, wasOut := true }) s

/-- The physical stream that a Seat's line stream names; none where the Seat does not OWN its port or channel (R100, R233). -/
def lineStream (s : State) (seat st : Nat) (dst : Bool) : Option Nat :=
  let gfp (base : Nat) : Option Nat := (ownedPhys s seat 166 (st - base)).map (base + ·)
  let dcc (base : Nat) : Option Nat := (ownedPhys s seat 0 ((st - base) / 2)).map (fun p => base + 2 * p + st % 2)
  if dst then
    if 0x110 ≤ st ∧ st < 0x118 then gfp 0x110
    else if 0x240 ≤ st ∧ st < 0x260 then dcc 0x240 else none
  else if 0x100 ≤ st ∧ st < 0x108 then gfp 0x100
  else if 0x200 ≤ st ∧ st < 0x220 then dcc 0x200 else none

/-- Bytes that a physical source stream holds, or that a destination stream has free; none where its port, channel or enable is off (R233). -/
def lineRoom (s : State) (st : Nat) (dst : Bool) : Option Nat :=
  if st < 0x200 then
    let c := st % 8
    if bit (gfpCfg s [] c) 0 then some (if dst then 16384 - (gfpAt s c).tx.length else (gfpAt s c).rx.length) else none
  else
    let p := st % 32 / 2
    let x := portAt s p
    let line := st % 2 = 1
    if ¬ bit (lpCfg s p) 3 ∨ ¬ bit (lpCfg s p) (if line then 17 else 16) then none
    else some (if dst then 1024 - (if line then x.dccLTx else x.dccSTx).length else (if line then x.dccLRx else x.dccSRx).length)

/-- Take bytes from a physical line source stream. -/
def lineStreamTake (st n : Nat) (s : State) : List Byte × State :=
  if st < 0x200 then
    let x := gfpAt s (st % 8)
    (x.rx.take n, setGfp (st % 8) { x with rx := x.rx.drop n } s)
  else
    let p := st % 32 / 2
    let x := portAt s p
    if st % 2 = 1 then (x.dccLRx.take n, setPort p { x with dccLRx := x.dccLRx.drop n } s)
    else (x.dccSRx.take n, setPort p { x with dccSRx := x.dccSRx.drop n } s)

/-- Records of a transmit buffer: every header in it is whole and obeys R234; `n` bounds the records. -/
def gfpTxOk : Nat → List Byte → Bool
  | 0, _ => true
  | n + 1, bs =>
      if bs.length < 8 then true
      else
        let len := bytesVal (bs.take 2)
        decide (1 ≤ len ∧ len ≤ 9600) && decide (bytesVal ((bs.drop 2).take 1) < 4) && decide (bytesVal ((bs.drop 4).take 4) = 0)
          && gfpTxOk n (bs.drop (8 + (len + 3) / 4 * 4))

/-- Put bytes into a physical line destination stream; none where the burst holds a header that breaks R234. -/
def lineStreamPut (st : Nat) (bs : List Byte) (s : State) : Option State :=
  if st < 0x200 then
    let x := gfpAt s (st % 8)
    let t := x.tx ++ bs
    if gfpTxOk (t.length / 8 + 1) t then some (setGfp (st % 8) { x with tx := t } s) else none
  else
    let p := st % 32 / 2
    let x := portAt s p
    some (if st % 2 = 1 then setPort p { x with dccLTx := x.dccLTx ++ bs } s else setPort p { x with dccSTx := x.dccSTx ++ bs } s)

end Sys2Proof.Machine
end

