-- ==== Sys2Proof/Machine/MateStream.lean ====
section
/-!
DEFINITION. The byte stream of the mate link (R346, R347, R543): units, the stream unit, messages dealt to the lanes of the stripe and taken from them.
-/
namespace Sys2Proof.Machine

open Sys2Proof

/-- Units that one lane's message area holds in a frame: blocks 2 to 23 672 (R330). -/
def areaUnits : Nat := 23671

/-- Bytes as 8-byte units, the last padded with zeros (R347). -/
def unitsOf (bs : List Nat) : List (List Nat) :=
  (List.range ((bs.length + 7) / 8)).map (fun k =>
    let u := (bs.drop (8 * k)).take 8
    u ++ List.replicate (8 - u.length) 0)

/-- The stream unit of a frame (R347). -/
def streamUnit (first stripe : Nat) : List Nat :=
  let h := leBytes 2 first ++ [stripe, 0]
  h ++ leBytes 4 (crc32c h)

/-- FIRST of a frame in which no message starts. -/
def noFirst : Nat := 0xFFFF

/-- The lanes of a stripe, lowest first. -/
def stripeLanes (mask : Nat) : List Nat := (List.range 4).filter (fun m => bit mask m)

/-- Messages into the units left of a frame: the units sent, those of the message in progress that go on in the next frame, what stays queued. -/
def fillUnits : Nat → List LinkMsg → List (List Nat) × List (List Nat) × List LinkMsg
  | _, [] => ([], [], [])
  | room, m :: q =>
      let u := unitsOf m.bytes
      if room = 0 then ([], [], m :: q)
      else if room < u.length then (u.take room, u.drop room, q)
      else
        let (us, rest, left) := fillUnits (room - u.length) q
        (u ++ us, rest, left)

/-- The units that lane number `i` of a stripe of `n` lanes carries (R346). -/
def laneUnits (i n : Nat) (us : List (List Nat)) : List (List Nat) :=
  (us.zipIdx.filter (fun e => e.2 % n == i)).map (·.1)

/-- The lanes' units in the order of the stream; a lane with no more units carries idle ones. -/
def dealUnits : Nat → List (List (List Nat)) → List (List Nat)
  | 0, _ => []
  | n + 1, ls => ls.map (·.headD (List.replicate 8 0)) ++ dealUnits n (ls.map (·.drop 1))

/-- One unit of a frame's stream joins the message in progress; an unknown TYPE or length drops it until FIRST of the next good frame (R347). -/
def takeUnit (acc : Option (List Nat) × List (List Nat)) (u : List Nat) : Option (List Nat) × List (List Nat) :=
  match acc.1 with
  | none => acc
  | some p =>
      if p = [] ∧ u.headD 0 = 0 then acc
      else
        let q := p ++ u
        match msgLen q with
        | none => (none, acc.2)
        | some n => if n ≤ q.length then (some [], acc.2 ++ [q.take n]) else (some q, acc.2)

/-- Idle units from the end of what a lane was given to the end of its area belong to a message in progress. -/
def padPart (room : Nat) (acc : Option (List Nat) × List (List Nat)) : Option (List Nat) × List (List Nat) :=
  match acc.1 with
  | some (b :: p) =>
      match msgLen (b :: p) with
      | some n =>
          let need := (n - (p.length + 1) + 7) / 8
          (List.range (min need room)).foldl (fun a _ => takeUnit a (List.replicate 8 0)) acc
      | none => acc
  | _ => acc

/-- The messages of one frame's stream (R347): `part` is the message in progress, none while none can be resumed. -/
def readStream (part : Option (List Nat)) (first room : Nat) (us : List (List Nat)) : Option (List Nat) × List (List Nat) :=
  match part with
  | some p => padPart (room - us.length) (us.foldl takeUnit (some p, []))
  | none => if first = noFirst then (none, []) else padPart (room - us.length) ((us.drop (first - 1)).foldl takeUnit (some [], []))

/-- A complete message is valid: its CRC, its reserved bits, its coded fields (R543). -/
def msgValid (b : List Nat) : Bool :=
  let at_ (k : Nat) : Nat := b.getD k 0
  let crc := ofLe (b.drop (b.length - 4)) == crc32c (b.take (b.length - 4))
  let zero (ks : List Nat) : Bool := ks.all (fun k => at_ k == 0)
  match at_ 0 with
  | 1 => crc && at_ 1 &&& 0xC8 == 0 && at_ 1 % 8 != 7 && at_ 1 / 16 != 3 && at_ 2 / 32 == 0 && at_ 3 / 16 == 0 && zero [11, 32, 33, 34, 35]
  | 2 => crc && zero [1, 2, 3, 14, 15]
  | 3 => decide (1 ≤ at_ 1 ∧ at_ 1 ≤ 8) && at_ 2 / 8 == 0 && zero [3, 6, 7]
  | 4 => crc && at_ 1 / 4 == 0 && zero [2, 3]
  | 5 => crc && decide (at_ 1 ≤ 2) && zero [2, 3]
  | _ => crc && zero [1, 2, 3]

/-- A stream unit is good on a lane: its CRC, byte 3, a STRIPE whose lowest lane this is (R346, R347). -/
def streamUnitOk (m : Nat) (u : List Nat) : Bool :=
  ofLe (u.drop 4) == crc32c (u.take 4) && u.getD 3 0 == 0 && decide (u.getD 2 0 < 16) && (stripeLanes (u.getD 2 0)).head? == some m

/-- All lanes of a frame's stripe have come: its messages are taken, or the one in progress is dropped (R347). -/
def finishFrame (d : DunteState) : DunteState :=
  match d.rxAreas.find? (fun a => streamUnitOk a.lane ((unitsOf a.area).headD [])) with
  | none => if 4 ≤ d.rxAreas.length then { d with rxDone := true, rxAreas := [], rxPart := none } else d
  | some a =>
      let u := (unitsOf a.area).headD []
      let lanes := stripeLanes (u.getD 2 0)
      let areas := lanes.filterMap (fun m => d.rxAreas.find? (fun x => x.lane == m))
      if areas.length < lanes.length then d
      else
        let d1 := { d with rxDone := true, rxAreas := [], stripeRx := u.getD 2 0 }
        if areas.any (·.errored) then { d1 with rxPart := none }
        else
          let ls := areas.map (fun x => unitsOf x.area)
          let us := (dealUnits ((ls.map (·.length)).foldl max 0) ls).drop 1
          let (part, msgs) := readStream d.rxPart (ofLe (u.take 2)) (areaUnits * lanes.length - 1) us
          { d1 with rxPart := part, rxMsgs := msgs.filter msgValid }

/-- The message area of one lane's frame arrives (R346, R347). A frame whose lanes have not all come when the next begins is lost. -/
def rxArea (m frame : Nat) (errored : Bool) (area : List Nat) (d : DunteState) : DunteState :=
  let d1 := if d.rxFrame = some frame then d
    else { d with rxFrame := some frame, rxAreas := [], rxDone := false, rxPart := if d.rxDone then d.rxPart else none }
  if d1.rxDone then d1 else finishFrame { d1 with rxAreas := d1.rxAreas ++ [⟨m, errored, area⟩] }

end Sys2Proof.Machine
end

