-- ==== Sys2Proof/Machine/Serial.lean ====
section
/-!
DEFINITION. Serial forms: cyclic checks taken most significant bit first, the scramblers of R214, R231 and R327, the octets of a GFP frame (R231), the
bytes of a Dunte header (R328), the code groups of R326 and the blocks of R327, the bytes of a slot (R252, R256) and of a line frame (R214, R219).
PRESUMED (entry 52): what the chapters take from G.707, G.7041 and IEEE 802.3 by name alone.
-/
namespace Sys2Proof.Machine

open Sys2Proof

/-- One bit of a cyclic check of width `w`. -/
def crcBit (w poly r : Nat) (d : Bool) : Nat :=
  if (r.testBit (w - 1)) != d then ((r * 2) % 2 ^ w) ^^^ poly else (r * 2) % 2 ^ w

/-- The bits of a byte, most significant first. -/
def msbFirst (b : Nat) : List Bool := (List.range 8).map (fun i => b.testBit (7 - i))

/-- Bits, most significant first, as a number. -/
def ofMsb (l : List Bool) : Nat := l.foldl (fun a d => 2 * a + b2n d) 0

/-- A cyclic check over bytes, each most significant bit first. -/
def crcMsb (w poly init : Nat) (bs : List Nat) : Nat := bs.foldl (fun r b => (msbFirst b).foldl (crcBit w poly) r) init

/-- HCRC of a Dunte header (R328). -/
def headerCrc (bs : List Nat) : Nat := crcMsb 8 0x07 0 bs

/-- cHEC and tHEC: x^16 + x^12 + x^5 + 1 (R231, G.7041). -/
def hec (bs : List Nat) : Nat := crcMsb 16 0x1021 0 bs

/-- pFCS (R231, G.7041). -/
def pfcs (bs : List Nat) : Nat := crcMsb 32 0x04C11DB7 0xFFFFFFFF bs ^^^ 0xFFFFFFFF

/-- A self-synchronous scrambler over a sequence of bits: taps are delays of the scrambled sequence; the state's bit k is the bit sent k + 1 before. -/
def selfScramble (width : Nat) (taps : List Nat) : Nat → List Bool → List Bool × Nat
  | st, [] => ([], st)
  | st, d :: ds =>
      let o := taps.foldl (fun a k => a != st.testBit (k - 1)) d
      let (os, e) := selfScramble width taps ((2 * st + b2n o) % 2 ^ width) ds
      (o :: os, e)

/-- Bits as octets, most significant first. -/
def octetsOf (l : List Bool) : List Nat := (List.range (l.length / 8)).map (fun k => ofMsb ((l.drop (8 * k)).take 8))

/-- The payload area of a GFP frame through 1 + x^43 (R231): octets and the scrambler's state. -/
def gfpScramble (st : Nat) (bs : List Nat) : List Nat × Nat :=
  let (o, e) := selfScramble 43 [43] st (bs.flatMap msbFirst)
  (octetsOf o, e)

/-- A core header: PLI and cHEC with 0xB6AB_31E0 over them (R231). -/
def coreHeader (pli : Nat) : List Nat :=
  let h := beBytes 2 pli
  beBytes 4 ((pli * 65536 + hec h) ^^^ 0xB6AB31E0)

/-- A GFP idle frame. -/
def gfpIdle : List Nat := coreHeader 0

/-- A client frame (R231): core header, then type header, payload and pFCS through the scrambler. -/
def gfpFrame (st : Nat) (cmf fcs : Bool) (upi : Nat) (payload : List Nat) : List Nat × Nat :=
  let t := [128 * b2n cmf + 16 * b2n fcs, upi]
  let area := t ++ beBytes 2 (hec t) ++ payload ++ (if fcs then beBytes 4 (pfcs payload) else [])
  let (o, e) := gfpScramble st area
  (coreHeader area.length ++ o, e)

/-- H0 to H14 of a Dunte header (R328). -/
def headerBytes (h : DunteHeader) : List Nat :=
  let b := [h.gen.toNat * 64 + h.lane.toNat] ++ leBytes 6 h.frame.toNat
    ++ [b2n h.long + 2 * b2n h.rxok + 4 * b2n h.run + 8 * b2n h.countOk + 16 * b2n h.mate]
    ++ leBytes 2 h.markRx.toNat ++ leBytes 2 h.markTx.toNat ++ [0, 0]
  b ++ [headerCrc b]

/-- The header that 15 received bytes hold; reserved bits are ignored. -/
def readHeader (l : List Byte) : DunteHeader :=
  let b := l.map (·.toNat)
  let at_ (k n : Nat) : Nat := ofLe ((b.drop k).take n)
  let f := at_ 7 1
  { hcrcOk := decide (b.length = 15 ∧ headerCrc (b.take 14) = at_ 14 1), gen := BitVec.ofNat 2 (bits (at_ 0 1) 6 2), lane := BitVec.ofNat 6 (at_ 0 1)
    frame := BitVec.ofNat 48 (at_ 1 6), long := bit f 0, rxok := bit f 1, run := bit f 2, countOk := bit f 3, mate := bit f 4
    markRx := BitVec.ofNat 16 (at_ 8 2), markTx := BitVec.ofNat 16 (at_ 10 2) }

/-- The frame-synchronous scrambler 1 + x^6 + x^7 over bytes, from all ones at the first (R214). -/
def frameScramble : Nat → List Nat → List Nat
  | _, [] => []
  | st, b :: bs =>
      let (p, e) := (List.range 8).foldl (fun (a : Nat × Nat) _ =>
        (2 * a.1 + b2n (a.2.testBit 6), (2 * a.2 + b2n (a.2.testBit 6 != a.2.testBit 5)) % 128)) (0, st)
      (b ^^^ p) :: frameScramble e bs

/-- Exclusive or of bytes: even parity, bit by bit. -/
def parity (bs : List Nat) : Nat := bs.foldl (· ^^^ ·) 0

/-- A tributary's byte of one frame, position 0 the V byte: V1 or V2 in the first two frames of a multiframe (R227). -/
def TribSent.byte (t : TribSent) (quarter pos : Nat) : Nat :=
  match t.body with
  | .ais => 255
  | b =>
      if pos = 0 then (if quarter = 0 then t.word / 256 % 256 else if quarter = 1 then t.word % 256 else 0)
      else match b with
        | .cells l => (l.getD pos 0).toNat % 256
        | .unstated => (Config.openOctet pos).toNat
        | _ => 0

/-- A path overhead byte, J1 to N1 by row: J1 and G1 are 0 (R231, R256). -/
def PathOh.byte (o : PathOh) (row : Nat) : Nat := if row = 1 then o.b3 else if row = 2 then o.c2 else if row = 5 then o.h4 else 0

/-- A byte of the 84 tributary columns of one slot: TU groups by column, TUs of a group in turn (G.707). -/
def tribByte (quarter : Nat) (tribs : List TribSent) (row col : Nat) : Nat :=
  let m := tribs.length / 7
  let cols := 12 / m
  match tribs[m * (col % 7) + col / 7 % m]? with
  | some t => t.byte quarter (row * cols + col / (7 * m))
  | none => 0

/-- A byte of a slot in the grid, k = 90·row + column, columns 3 to 89 (R252, R256). A VC that the part builds starts in column 3 of row 0 (entry 51). -/
def Content.byte (c : Content) (k : Nat) : Nat :=
  let row := k / 90
  let col := k % 90 - 3
  match c with
  | .cells l => (l.getD k 0).toNat % 256
  | .ais => 255
  | .uneq => 0
  | .unstated => (Config.openOctet k).toNat
  | .carrier oh vc4 q tribs =>
      if col = 0 then oh.elim 0 (·.byte row)
      else if vc4 then (if col < 3 then 0 else tribByte q tribs row (col - 3))
      else if col = 29 ∨ col = 58 then 0
      else tribByte q tribs row (col - 1 - b2n (decide (29 < col)) - b2n (decide (58 < col)))
  | .mapped oh w place os =>
      let x := w / 3
      let vcol := if w = 1 then col else col * w + place % 3 * x + place / 3
      let oct (n : Nat) : Nat := match os[n]? with
        | some o => o.toNat
        | none => (Config.openOctet n).toNat
      if vcol = 0 then oh.byte row
      else if w = 1 then
        if col = 29 ∨ col = 58 then 0 else oct (84 * row + (col - 1 - b2n (decide (29 < col)) - b2n (decide (58 < col))))
      else if vcol < x then 0
      else oct (260 * x * row + (vcol - x))

/-- Parity of the SPE of a slot. -/
def Content.parity (c : Content) : Nat :=
  ((List.range 810).filter (fun k => decide (3 ≤ k % 90))).foldl (fun a k => a ^^^ c.byte k) 0

/-- Octets of client data that a container of a SIZE takes in a frame (R230, G.707). -/
def containerOctets (w : Nat) : Nat := if w = 1 then 84 * 9 else 260 * (w / 3) * 9

/-- A byte of a line frame before the scrambler: row, column among 270·N; N STM-1s (R219, G.707). -/
def TxFrame.byte (f : TxFrame) (n row col : Nat) : Nat :=
  let first := col % (3 * n) = 0
  let third := col / (3 * n)
  let slot := 3 * (col % n) + col % (3 * n) / n
  let d (l : List Byte) (k : Nat) : Nat := (l.getD k 0).toNat
  if 9 * n ≤ col then
    if f.kind = 1 then 255 else (f.slots.getD slot ⟨0, .ais⟩).body.byte (90 * row + 3 + (col - 9 * n) / (3 * n))
  else if row = 0 then
    if third = 0 then 0xF6 else if third = 1 then 0x28 else if first then f.j0 else 0
  else if row = 1 then (if first ∧ third = 0 then f.b1 else 0)
  else if row = 2 then (if first then d f.dccS third else 0)
  else if f.kind = 1 then 255
  else if row = 3 then
    let w := (f.slots.getD slot ⟨0, .ais⟩).word
    if third = 0 then w / 256 % 256 else if third = 1 then w % 256 else 0
  else if row = 4 then
    if third = 0 then f.b2.getD col 0 else if first then (if third = 1 then f.k1 else f.k2) else 0
  else if row ≤ 7 then (if first then d f.dccL (3 * (row - 5) + third) else 0)
  else if col = 0 then f.s1
  else if col = 3 * n + 2 then f.m1
  else 0

/-- The bytes of a line frame, in the order sent, before the scrambler. -/
def TxFrame.bytes (f : TxFrame) (n : Nat) : List Nat := (List.range 9).flatMap (fun r => (List.range (270 * n)).map (f.byte n r))

/-- The frame as it leaves: the scrambler starts after the first row's section overhead (R214). -/
def TxFrame.sent (f : TxFrame) (n : Nat) : List Nat :=
  let l := f.bytes n
  l.take (9 * n) ++ frameScramble 127 (l.drop (9 * n))

/-- B2 of the next frame: bit-interleaved parity over all but the regenerator section overhead (R219). -/
def TxFrame.parityB2 (f : TxFrame) (n : Nat) : List Nat :=
  (List.range (3 * n)).map (fun i =>
    (List.range 9).foldl (fun a r => (List.range 90).foldl (fun v k =>
      if r < 3 ∧ k < 3 then v else v ^^^ f.byte n r (3 * n * k + i)) a) 0)

/-- 5B/6B and 3B/4B codes at negative running disparity, first bit sent in the most significant place; K28 has its own (R326, IEEE 802.3 clause 36). -/
def code6 : List Nat :=
  [0b100111, 0b011101, 0b101101, 0b110001, 0b110101, 0b101001, 0b011001, 0b111000, 0b111001, 0b100101, 0b010101, 0b110100, 0b001101, 0b101100,
    0b011100, 0b010111, 0b011011, 0b100011, 0b010011, 0b110010, 0b001011, 0b101010, 0b011010, 0b111010, 0b110011, 0b100110, 0b010110, 0b110110,
    0b001110, 0b101110, 0b011110, 0b101011]
def code4 : List Nat := [0b1011, 0b1001, 0b0101, 0b1100, 0b1101, 0b1010, 0b0110, 0b1110]

/-- Ones of a code. -/
def onesOf (n v : Nat) : Nat := (setPositions n v).length

/-- A code at a running disparity: unbalanced codes, and those given as two balanced forms, are complemented at positive disparity. -/
def codeAt (n : Nat) (twin : Bool) (plus : Bool) (v : Nat) : Nat := if plus && (decide (2 * onesOf n v ≠ n) || twin) then v ^^^ ones n else v
def codeDisp (n : Nat) (plus : Bool) (v : Nat) : Bool := if 2 * onesOf n v ≠ n then !plus else plus

/-- One 8B/10B code group and the running disparity after it; `none` is K28.5, the frame mark (R326). -/
def code10 (plus : Bool) : Option Nat → Nat × Bool
  | none => (if plus then 0b1100000101 else 0b0011111010, !plus)
  | some b =>
      let x := b % 32
      let y := b / 32 % 8
      let a := codeAt 6 (x == 7) plus (code6.getD x 0)
      let p := codeDisp 6 plus a
      let alt := y == 7 && ((!p && (x == 17 || x == 18 || x == 20)) || (p && (x == 11 || x == 13 || x == 14)))
      let c := codeAt 4 (y == 3) p (if alt then 0b0111 else code4.getD y 0)
      (16 * a + c, codeDisp 4 p c)

/-- Code groups of a v1 frame and the running disparity after it. -/
def code10s : Bool → List (Option Nat) → List Nat × Bool
  | p, [] => ([], p)
  | p, s :: ss =>
      let (c, q) := code10 p s
      let (cs, e) := code10s q ss
      (c :: cs, e)

/-- The bits of a byte, bit 0 first. -/
def lsbFirst (b : Nat) : List Bool := (List.range 8).map (fun i => b.testBit i)

/-- The bits of 66-bit blocks as they are sent and the scrambler's state after them: the sync header, then the payload through 1 + x^39 + x^58 (R327). -/
def blockBits : Nat → List (Bool × List Nat) → List Bool × Nat
  | st, [] => ([], st)
  | st, (ctl, bs) :: r =>
      let (o, e) := selfScramble 58 [39, 58] st (bs.flatMap lsbFirst)
      let (os, f) := blockBits e r
      ((if ctl then [true, false] else [false, true]) ++ o ++ os, f)

end Sys2Proof.Machine
end

