-- ==== Sys2Proof/Machine/Dunte.lean ====
section
/-!
DEFINITION. The Dunte lanes received: frame alignment and headers (R333 to R337), slots, SAW and SRQ (R340), errors and windows (R341, R342), copies (R343,
R344), training (R336), the monitor (R345), the stripe (R346), the status flip.
-/
namespace Sys2Proof.Machine

open Sys2Proof

/-- Number of a lane: 0 to 31 backplane, 32 to 35 mate. -/
def laneIdx : LaneSel → Nat
  | .bl l => l.toNat
  | .ml m => 32 + m.toNat

/-- A lane. -/
def laneAt (s : State) (l : Nat) : Lane := tget .reset s.dun.lanes l
def setLane (l : Nat) (x : Lane) (s : State) : State := { s with dun := { s.dun with lanes := tset .reset s.dun.lanes l x } }
def modLane (l : Nat) (f : Lane → Lane) (s : State) : State := setLane l (f (laneAt s l)) s

/-- Counter i of a lane. -/
def laneCnt (i n : Nat) (x : Lane) : Lane := { x with cnt := tmod 0 x.cnt i (fun v => wrap32 v n) }

/-- MATE_CTL.EN. -/
def mateEn (s : State) : Bool := rbit s (kP 0xD0000) 0

/-- GEN in force: mate lanes run v2 only (R322). -/
def genOf (s : State) (l : Nat) : Nat := if l < 32 then laneGen s [] l else 2

/-- A lane is enabled and its block runs (R64, R80, R295, R322). -/
def laneRuns (s : State) (l : Nat) : Bool :=
  decide (2 ≤ s.pwr.stage.code) && (if l < 32 then genOf s l != 0 && domOn s (16 + l) else mateEn s && domOn s (48 + (l - 32)))

/-- A lane's transmitter may leave IDLE (R336). -/
def laneTxOn (s : State) (l : Nat) : Bool := laneRuns s l && (decide (32 ≤ l) || carriesTraffic s)

/-- Transmitter state, IDLE when muted. -/
def laneTx (s : State) (l : Nat) : LaneTx := if laneTxOn s l then (laneAt s l).tx else .idle

/-- The receiver is in RX_RUN (R337). -/
def rxRun (x : Lane) : Bool := x.rxok && (x.hdr.map (·.run)).getD false

/-- The code of a receiver's state. -/
def rxCode (x : Lane) : Nat := if ¬ x.locked then 0 else if ¬ x.rxok then 1 else if rxRun x then 3 else 2

/-- EXP_LANE, LANE_CHK. -/
def blCfg (s : State) (l : Nat) : Nat := rget s (kP (0xE0000 + 0x100 * l))

/-- LANE_MM (R343). -/
def laneMm (s : State) (l : Nat) (x : Lane) : Bool :=
  match x.hdr with
  | some h => decide (l < 32 ∧ h.lane.toNat ≠ bits (blCfg s l) 8 5)
  | none => false

/-- A lane is SF (R343). -/
def laneSf (s : State) (l : Nat) : Bool :=
  let x := laneAt s l
  !rxRun x || x.exc || x.phaseErr || (laneMm s l x && bit (blCfg s l) 2)

/-- A BP_INT cause for the Seats that OWN or OBSERVE a lane (R349). -/
def bpCause (l k : Nat) (s : State) : State := if l < 32 then setCauses (fittedSeats s 16 l) 0xEF000 k s else s

/-- Slot of the pair that lane slot i of a lane is (R323, R329). -/
def pairSlot (s : State) (l i : Nat) : Nat := if genOf s l = 1 ∧ l % 2 = 1 then 96 + i else i

/-- Head slot that a pair slot follows for SAW, SRQ and copy (R331). -/
def headSlot (s : State) (q sl : Nat) : Nat := structHead s [] (3072 + 192 * q + sl)

/-- What a receiver keeps of a slot. -/
def laneSlot (s : State) (l sl : Nat) : LaneSlot := tget .reset s.dun.slots (192 * l + sl)

/-- The lane whose copy of a pair slot is in use (R323, R344). -/
def copyLane (s : State) (q sl : Nat) : Nat :=
  let h := headSlot s q sl
  if slotDual s q h then 2 * q + b2n (tget false s.dun.copy (192 * q + h))
  else if genCarries (genOf s (2 * q)) false h then 2 * q else 2 * q + 1

/-- A copy of a slot has a copy fault (R343). -/
def copyFault (s : State) (l sl : Nat) : Bool :=
  let x := laneSlot s l sl
  laneSf s l || x.ptr.mode ≠ .norm || bit x.saw 0

/-- A backplane slot is SF: every present copy has a copy fault (R343). -/
def bpSlotSf (s : State) (q sl : Nat) : Bool :=
  let h := headSlot s q sl
  (!genCarries (genOf s (2 * q)) false h || copyFault s (2 * q) h) && (!genCarries (genOf s (2 * q + 1)) true h || copyFault s (2 * q + 1) h)

/-- The accepted alarm word of the copy in use signals SD (R274, R340). -/
def bpSlotSd (s : State) (q sl : Nat) : Bool := bit (laneSlot s (copyLane s q sl) (headSlot s q sl)).saw 1

/-- The words of a lane's slots received so far are no longer consecutive (R340). -/
def breakRuns (l : Nat) (d : DunteState) : DunteState :=
  { d with slots := (List.range 192).foldl (fun t k => tmod .reset t (192 * l + k) (fun x => { x with run := 0 })) d.slots }

/-- One slot of a frame received in RX_RUN: pointer, SAW and SRQ (R331, R340). -/
def rxSlot (l : Nat) (r : DunteSlot) (s : State) : State :=
  let q := l / 2
  let sl := pairSlot s l r.slot.toNat
  let x := laneSlot s l sl
  let t := auType s [] (3072 + 192 * q + sl)
  if t = 7 ∨ (t = 6 ∧ sl % 3 ≠ 0) then
    { s with dun := { s.dun with slots := tset .reset s.dun.slots (192 * l + sl) { x with ptr := concStep r.ptr.toNat x.ptr } } }
  else if headSlot s q sl ≠ sl then s
  else
    let (ptr, _) := ptrStep 783 r.ptr.toNat x.ptr
    let w := r.saw.toNat + 256 * r.srq.toNat
    let (c, run, acc) := acceptRun 3 x.cand x.run w
    let code := bits w 8 4
    let first := acc.isSome && !(x.run == 3 && x.cand == w)
    let x1 := { x with ptr := ptr, cand := c, run := run, saw := if acc.isSome then bits w 0 8 else x.saw
                       srq := if acc.isSome ∧ code ≤ 5 then code else x.srq }
    let s1 := { s with dun := { s.dun with slots := tset .reset s.dun.slots (192 * l + sl) x1 } }
    if first ∧ 5 < code then { s1 with dun := { s1.dun with srqBad := tmod 0 s1.dun.srqBad q (fun v => wrap32 v 1) } }
    else if acc.isSome ∧ code ≤ 5 ∧ code ≠ x.srq ∧ copyLane s q sl = l then
      bpCause l 7 { s1 with dun := { s1.dun with srqDue := s1.dun.srqDue ++ [⟨q, sl, code⟩] } }
    else s1

/-- A slot of a lane is in AIS or LOP. -/
def laneSlotAis (s : State) (l sl : Nat) : Bool := (laneSlot s l (headSlot s (l / 2) sl)).ptr.mode ≠ .norm

/-- One slot, and one TU, of a frame in window enter the next input frame (R252, R334). -/
def rxLaneCells (l : Nat) (r : DunteSlot) (s : State) : State :=
  let sl := pairSlot s l r.slot.toNat
  let c : Content := if laneSlotAis s l sl then .ais else .cells r.cells
  { s with dun := { s.dun with rxSlots := tins (tdel s.dun.rxSlots (192 * l + sl)) (192 * l + sl) c } }
def rxLaneTrib (l : Nat) (r : TribRx) (s : State) : State :=
  let t := r.index.toNat
  let n := tribs (auType s [] (3072 + 192 * (l / 2) + 3 * (t / 84)))
  if n = 0 then s
  else
    let c : TribContent := if laneSlotAis s l (3 * (t / 84) + t % 84 / n) then .ais else .cells r.cells
    { s with dun := { s.dun with rxTribs := tins (tdel s.dun.rxTribs (8192 * l + t)) (8192 * l + t) c } }

/-- Frame alignment of a lane (R333); whether the frame was received in SYNC. -/
def laneFramer (marks : List Nat) (x : Lane) : Lane × Bool :=
  match x.framer with
  | .hunt =>
      match keepCands [] marks with
      | [] => ({ x with cands := [] }, false)
      | c :: cs => ({ x with framer := .presync, cands := c :: cs }, false)
  | .presync =>
      match presyncWalk marks (checkOrder x.cands marks) x.cands [] with
      | (some c, _) => ({ x with framer := .sync, cands := [c], errRun := 0 }, true)
      | (none, []) => ({ x with framer := .hunt, cands := [] }, false)
      | (none, cs) => ({ x with cands := cs }, false)
  | .sync =>
      if x.cands.any (fun c => marks.contains c) then ({ x with errRun := 0 }, true)
      else if x.errRun + 1 < 4 then ({ x with errRun := x.errRun + 1 }, true)
      else ({ x with framer := .hunt, cands := [], errRun := 0, goodHdr := 0, rxok := false }, false)

/-- MARK_TX of a lane: BL_TX_OFFSET (R332). -/
def txOffset (gen : Nat) : Nat := if gen = 1 then 112 else 96

/-- A valid header (R333, R335 to R337). -/
def laneHeader (s : State) (l : Nat) (h : DunteHeader) (arrival : Nat) (x : Lane) : Lane :=
  let good := if h.gen.toNat = genOf s l then min 2 (x.goodHdr + 1) else 0
  let peer := if h.rxok then min 2 (x.peerRun + 1) else 0
  let d := ((arrival + 19440 - h.markTx.toNat % 19440) % 19440 + (h.markRx.toNat + 19440 - txOffset (genOf s l)) % 19440) / 2
  { x with
    hdr := some h, goodHdr := good
    rxok := if h.gen.toNat = genOf s l then x.rxok || decide (2 ≤ good) else false
    peerRun := peer, peerRxok := h.rxok && decide (2 ≤ peer)
    accepted := if x.tx = .train ∧ x.accepted = none ∧ 2 ≤ peer then some s.lt.frame else x.accepted
    cycleOk := x.cycleOk && h.rxok, cycleSeen := true
    cntMm := h.frame.toNat ≠ s.lt.frame, arrival := arrival
    delay := if h.markRx = 0xFFFF then x.delay else d }

/-- A received Dunte frame (R333 to R337, R340, R341). -/
def laneReceive (l : Nat) (r : DunteRx) (s : State) : State :=
  let (x0, inSync) := laneFramer r.marks (laneAt s l)
  let h := readHeader r.header
  if ¬ inSync then setLane l { x0 with winBad := true } { s with dun := breakRuns l s.dun }
  else
    let x1 := if h.hcrcOk then laneHeader s l h r.arrival.toNat x0 else laneCnt 2 1 { x0 with goodHdr := if x0.rxok then x0.goodHdr else 0 }
    let x2 := laneCnt 3 r.sbip (laneCnt 1 (b2n (!r.fcrcOk)) (laneCnt 0 r.cv x1))
    let x3 := { x2 with winErr := x2.winErr + b2n (decide (0 < r.cv) || !r.fcrcOk), winBad := x2.winBad || !rxRun x2 }
    let inWin := decide (r.arrival.toNat ≤ 9719)
    let x4 :=
      if inWin then
        let n := min 16 (x3.phaseOkRun + 1)
        { x3 with phaseOkRun := n, phaseErr := x3.phaseErr && decide (n < 16) }
      else laneCnt 4 1 { x3 with phaseOkRun := 0, phaseErr := true }
    let s1 := setLane l x4 s
    let s2 := if !inWin && !x3.phaseErr then
        let t := bpCause l 4 s1
        if l < 32 then faultRaise (138 + 3 * l) t else t
      else s1
    if l < 32 then (if rxRun x4 ∧ inWin then
        r.tribs.foldl (fun t k => rxLaneTrib l k t) (r.slots.foldl (fun t k => rxLaneCells l k t) (r.slots.foldl (fun t k => rxSlot l k t) s2))
      else { s2 with dun := breakRuns l s2.dun })
    else if rxRun x4 ∧ h.hcrcOk then
      { s2 with dun := rxArea (l - 32) h.frame.toNat (decide (0 < r.cv) || !r.fcrcOk) (r.area.map (·.toNat)) s2.dun }
    else s2

/-- DUNTE_FRAME_RECEIVE (R333). -/
def execDunteFrameReceive (l : LaneSel) (r : DunteRx) (s : State) : Result :=
  .next (if laneRuns s (laneIdx l) && (laneAt s (laneIdx l)).locked then laneReceive (laneIdx l) r s else s)

/-- DUNTE_CODE_LOCK (R337): DOWN ends. -/
def execDunteCodeLock (l : LaneSel) (s : State) : Result :=
  .next (if laneRuns s (laneIdx l) then modLane (laneIdx l) (fun x => { x with locked := true }) s else s)

/-- A lane falls to DOWN. -/
def laneDown (x : Lane) : Lane :=
  let y := { x with locked := false, framer := .hunt, cands := [], errRun := 0, goodHdr := 0, rxok := false, winBad := true, cycleOk := false }
  if x.locked then laneCnt 5 1 y else y

/-- A lane drops to DOWN; its slots' words are no longer consecutive (R340). -/
def laneDrop (l : Nat) (s : State) : State := modLane l laneDown { s with dun := breakRuns l s.dun }

/-- DUNTE_LOS (R337): LOS, or code or block lock lost. -/
def execDunteLos (l : LaneSel) (s : State) : Result := .next (laneDrop (laneIdx l) s)

/-- TRAIN_TIMEOUT (R336): RUN without an acceptance, at a multiframe boundary at least 160 frames after leaving IDLE. -/
def execTrainTimeout (l : LaneSel) (s : State) : Result :=
  let k := laneIdx l
  let x := laneAt s k
  .next (if laneTx s k = .train ∧ x.accepted = none ∧ x.leftIdle + 160 ≤ s.lt.bounds ∧ s.lt.frame % 4 = 0 then
      bpCause k 8 (setLane k (laneCnt 6 1 { x with tx := .run }) s)
    else s)

/-- SD_THR and EXC_THR; a mate lane has the reset values. -/
def laneThr (s : State) (l : Nat) : Nat × Nat := if l < 32 then (bits (blCfg s l) 16 8, bits (blCfg s l) 24 8) else (4, 80)

/-- LANE_WINDOW_END (R342): the window of 800 frames ends at the window start that the LT frame in progress runs up to (entry 50). -/
def execLaneWindowEnd (l : LaneSel) (s : State) : Result :=
  let k := laneIdx l
  .next (if ¬ laneRuns s k ∨ (s.lt.frame + 1) % 800 ≠ 0 then s else modLane k (fun x => { x with winEnds := true }) s)

/-- A lane's window at a boundary, before the flip: a skip spoils it; at a window start one that ends is judged and the next one starts (R342, R501). -/
def laneWindow (start skip : Bool) (k : Nat) (s : State) : State :=
  if ¬ laneRuns s k then s
  else
    let x0 := laneAt s k
    let x := { x0 with winBad := x0.winBad || skip }
    if ¬ (start && (x.winEnds || skip)) then (if x0 = x then s else setLane k x s)
    else
      let (sdT, exT) := laneThr s k
      let judge (on : Bool) (thr : Nat) : Bool :=
        if x.winBad then on else if thr ≤ x.winErr then true else if x.winErr ≤ thr / 10 then false else on
      let sd := judge x.sd sdT
      let exc := judge x.exc exT
      let s1 := setLane k { x with sd := sd, exc := exc, winErr := 0, winBad := !rxRun x, winEnds := false } s
      let s2 := if sd ≠ x.sd then bpCause k 1 s1 else s1
      if exc ≠ x.exc then bpCause k 2 s2 else s2

/-- LANE_TXMON_FAIL (R345): the monitor loses SYNC or meets an FCRC error in it, or has not reached SYNC within 8 LT frames. -/
def execLaneTxmonFail (l : LaneSel) (s : State) : Result :=
  let k := laneIdx l
  let x := laneAt s k
  .next (if laneTx s k = .idle then s
    else
      let y := { x with monitor := .hunt, txClean := 0 }
      if x.monitor ≠ .sync ∧ x.monAge < 8 ∨ x.txFail then setLane k y s
      else
        let s1 := bpCause k 3 (setLane k { y with txFail := true } s)
        if k < 32 then txFaultAtTake (faultRaise (137 + 3 * k) s1) else faultRaise (233 + 2 * (k - 32)) s1)

/-- Boundary work of a lane's transmitter: it leaves or returns to IDLE, and enters RUN after an acceptance (R325, R336). -/
def laneTxBoundary (l : Nat) (s : State) : State :=
  let x := laneAt s l
  if ¬ laneTxOn s l then (if x.tx = .idle then s else setLane l { x with tx := .idle, accepted := none, monitor := .hunt, monAge := 0, txClean := 0 } s)
  else match x.tx with
    | .idle => setLane l { x with tx := .train, leftIdle := s.lt.bounds, accepted := none, monitor := .hunt, monAge := 0, txClean := 0 } s
    | .train => if x.accepted.isSome ∧ s.lt.frame % 4 = 0 then setLane l { x with tx := .run } s else s
    | .run => s

/-- BL_STATUS. -/
def laneStatus (s : State) (l : Nat) (x : Lane) : Nat :=
  rxCode x + 4 * (match laneTx s l with | .idle => 0 | .train => 1 | .run => 2) + 16 * b2n (laneSf s l) + 32 * b2n x.sd + 64 * b2n x.exc
    + 128 * b2n x.txFail + 256 * b2n x.phaseErr + 512 * b2n (laneMm s l x) + 1024 * b2n x.cntMm + 2048 * b2n x.peerRxok
    + 65536 * (x.hdr.elim 0 (fun h => h.lane.toNat % 32))

/-- A lane's step 2: the flip, BP_INT causes of state changes, a due clear of the counters (R499). -/
def laneFlip (l : Nat) (s : State) : State :=
  if ¬ laneRuns s l then s
  else
    let x0 := laneAt s l
    let x := if x0.cntClr then { x0 with cnt := [], cntClr := false } else x0
    let before := if x.view = [] then 16 else tget 0 x.view 8
    let now := laneStatus s l x
    let v := ((8, now) :: (0xC, x.delay + 65536 * x.arrival) :: (List.range 7).map (fun i => (0x10 + 4 * i, tget 0 x.cnt i))).filter (fun e => e.2 ≠ 0)
    let s1 := setLane l { x with view := v } s
    let s2 := if before % 4 ≠ now % 4 then bpCause l 0 s1 else s1
    if bit now 9 ∧ ¬ bit before 9 then bpCause l 5 s2 else s2

/-- BP_SLOT_STATUS (R340, R343, R344). -/
def slotStatus (s : State) (q sl : Nat) : Nat :=
  let h := headSlot s q sl
  let l := copyLane s q sl
  let x := laneSlot s l h
  let here := slotPresent s [] (3072 + 192 * q + sl)
  b2n here + 2 * b2n (slotDual s q sl) + 4 * b2n (l % 2 == 1) + 8 * b2n (bpSlotSf s q sl) + 16 * b2n (laneAt s l).sd + 32 * b2n (bit x.saw 2)
    + 64 * b2n (bit x.saw 3) + 256 * x.srq + 4096 * x.ptr.mode.code

/-- Step 2 of the pairs and of ML_LINK. -/
def dunteFlip (s : State) : State :=
  let slots := (List.range 16).flatMap (fun q =>
    if laneRuns s (2 * q) ∨ laneRuns s (2 * q + 1) then (List.range 192).map (fun sl => (192 * q + sl, slotStatus s q sl)) else [])
  let bad := (List.range 16).map (fun q => (100000 + q, tget 0 s.dun.srqBad q))
  let low := ((List.range 4).find? (fun m => bit s.dun.stripeTx m)).elim 0 (fun m => (laneAt s (32 + m)).delay)
  let link := [(200000, s.dun.stripeTx + 16 * s.dun.stripeRx + 256 * (low % 65536))]
  { s with dun := { s.dun with view := (slots ++ bad ++ link).filter (fun e => e.2 ≠ 0) } }

/-- The copy of a dual slot decided at a boundary, from the one decided last (R344). -/
def decideCopy (s : State) (q sl : Nat) : Bool :=
  let cur := tget false s.dun.copyNext (192 * q + sl)
  let ctl := rget s (kP (0xE2200 + 0x800 * q))
  if bit ctl 0 then bit ctl 1
  else
    let l := 2 * q + b2n cur
    let o := 2 * q + b2n (!cur)
    if copyFault s l sl && !copyFault s o sl then !cur else cur

/-- The copies decided now, for step 5 of the next boundary. -/
def decideCopies (s : State) : State :=
  let cs := (List.range 16).flatMap (fun q => (List.range 192).filterMap (fun sl =>
    if slotDual s q sl ∧ headSlot s q sl = sl then some (192 * q + sl, decideCopy s q sl) else none))
  { s with dun := { s.dun with copyNext := cs.filter (fun e => e.2) } }

/-- Step 5: the copies decided at the last boundary apply; `due` is what it decided. The switch-request word accepted is that of the copy in use:
one that differs changes with the copy (R340, R344). -/
def applyCopies (due : Tab Bool) (s : State) : State :=
  let s1 := { s with dun := { s.dun with copy := due } }
  (List.range 16).foldl (fun t q =>
    let moved := (List.range 192).filter (fun sl => tget false s.dun.copy (192 * q + sl) != tget false due (192 * q + sl))
    if moved = [] then t
    else moved.foldl (fun u sl =>
      let srq (v : State) : Nat := (laneSlot v (copyLane v q sl) sl).srq
      if srq s = srq u then u
      else bpCause (2 * q) 7 { u with dun := { u.dun with srqDue := u.dun.srqDue ++ [⟨q, sl, srq u⟩] } }) (bpCause (2 * q) 6 t)) s1

/-- A frame boundary: the input frame is complete, and what was received in window begins the next one (R252, R334). -/
def lanesShift (s : State) : State :=
  let d := s.dun
  let q := s.lt.frame % 4
  { s with dun := { d with
      inSlots := d.midSlots, midSlots := d.rxSlots, rxSlots := [], inTribs := d.midTribs, midTribs := d.rxTribs, rxTribs := []
      tribMarks := d.midTribs.foldl (fun m e => match e.2 with
        | .cells l => (tuMark q l).elim m (fun o => tins (tdel m e.1) e.1 o)
        | _ => m) d.tribMarks } }

/-- The stripe of the next cycle, at a cycle boundary (R346); the stripe received is STRIPE of the last good stream unit. -/
def stripeStep (s : State) : State :=
  let ok := (List.range 4).filter (fun m =>
    let x := laneAt s (32 + m)
    (laneTx s (32 + m)) = .run && decide (2 ≤ rxCode x) && x.cycleOk && x.cycleSeen)
  let mask := ok.foldl (fun a m => a + 2 ^ m) 0
  let silent := (List.range 4).all (fun m => !rxRun (laneAt s (32 + m)))
  let s1 := { s with dun := { s.dun with stripeTx := mask, stripeRx := if silent then 0 else s.dun.stripeRx, txRest := if mask = 0 then [] else s.dun.txRest } }
  (List.range 4).foldl (fun t m => modLane (32 + m) (fun x => { x with cycleOk := true, cycleSeen := false }) t) s1

end Sys2Proof.Machine
end

