-- ==== Sys2Proof/Machine/Slots.lean ====
section
/-!
DEFINITION. What each output of the fabric carries in a frame (R252, R253, R255 to R257): its source, the content of that source in the input frame
before, and the pointer words of the transmitters (R212, R227 to R229, R331). An output frame f takes the input frame f - 1.
-/
namespace Sys2Proof.Machine

open Sys2Proof

/-- The selected source of a selector in the active page: its physical input index and tributary. -/
def selSource (s : State) (n : Nat) : Option (Nat × Nat) :=
  (selAt s n).map (fun x => let w := if x.ctl.selected then x.w1 else x.w0; (eSrc w, eSrcJ w))

/-- A connection's output carries the AIS generator whatever its KIND: it is UNBUCKLED, and stays so until step 7 of the boundary at which it goes
LIVE (R257). -/
def aisOverride (c : Conn) : Bool := c.mode = .unbuckled || c.mode = .buckled

/-- The source of an output slot (R75, R255 to R257). -/
def outSource (s : State) (x : Nat) : SlotSource :=
  if ¬ carriesTraffic s then .ais false
  else
    let n := (headOf s [] x).getD x
    let c := connAt s n
    if aisOverride c then .ais true
    else match eKind true c.entry with
      | 1 => .input (eSrc c.entry + (x - n))
      | 2 => (selSource s (eSrc c.entry)).elim .uneq (fun k => .input (k.1 + (x - n)))
      | 3 => .carrier
      | 4 => .ais false
      | _ => .uneq

/-- The source of tributary j of a carrier-sourced output slot (R75, R255 to R257). -/
def loSource (s : State) (x j : Nat) : SlotSource :=
  if ¬ carriesTraffic s then .ais false
  else
    let c := connAt s (8192 + 32 * x + j)
    if aisOverride c then .ais true
    else match eKind false c.entry with
      | 1 => .trib (eSrc c.entry) (eSrcJ c.entry)
      | 2 => (selSource s (2048 + eSrc c.entry)).elim .uneq (fun k => .trib k.1 k.2)
      | 3 => .ais false
      | _ => .uneq

/-- The slot whose signal a slot is sent with: the protection port of an MSP group carries the working port's while its bridge does (R272, R279). -/
def bridgedSlot (s : State) (x : Nat) : Nat :=
  let w := mspWord s [] (xPort x)
  if xLine x ∧ bit w 0 ∧ (bits w 1 2 < 2 ∨ (tget ProtCtl.reset s.prot.msp (xPort x)).bridged) then 192 * bits w 4 4 + xSlot x else x

/-- The source of a transmitted slot of a line port or pair: a mapped slot is no fabric output (R230, R237). -/
def slotSource (s : State) (x : Nat) : SlotSource :=
  let y := bridgedSlot s x
  if ¬ carriesTraffic s then .ais false
  else match (List.range 8).find? (fun c => gfpMaps s [] c y) with
    | some c => .mapped c
    | none => outSource s y

/-- An input slot in the input frame completed at the last boundary; a working port's slots carry the selected signal (R252, R272). -/
def inContent (s : State) (x : Nat) : Content :=
  let y := effSlot s x
  if xLine y then
    let p := portAt s (xPort y)
    (tgetO p.inSlots (xSlot y)).getD (if p.inDark then .ais else .unstated)
  else (tgetO s.dun.inSlots (192 * copyLane s (xPort y) (xSlot y) + xSlot y)).getD .ais

/-- The TU index of tributary j of a slot within its port or pair. -/
def tuIndex (s : State) (x j : Nat) : Nat := 84 * (xSlot x / 3) + tribs (auType s [] x) * (xSlot x % 3) + j

/-- A tributary of an input slot in that input frame, and the last offset of its start marker. -/
def inTrib (s : State) (x j : Nat) : TribContent × Option Nat :=
  let y := effSlot s x
  let t := tuIndex s y j
  if xLine y then
    let p := portAt s (xPort y)
    ((tgetO p.inTribs t).getD (if p.inDark then .ais else .unstated), tgetO p.tribMarks t)
  else
    let k := 8192 * copyLane s (xPort y) (xSlot y) + t
    ((tgetO s.dun.inTribs k).getD .ais, tgetO s.dun.tribMarks k)

/-- What a low-order source sends, and its start marker; the unequipped generator's VC starts behind V1 (entry 51). -/
def tribOf (s : State) (range : Nat) : SlotSource → TribContent × Option Nat
  | .trib x j => inTrib s x j
  | .ais _ => (.ais, none)
  | _ => (.uneq, some (range / 4 * 3))

/-- AU pointer offset of a VC that the part builds: it starts in column 3 of row 0 (entry 51). -/
def builtMark : Nat := 522

/-- The start marker of a slot's content, as an AU pointer offset. -/
def contentMark : Content → Option Nat
  | .cells l => auMark l
  | .ais => none
  | .unstated => none
  | _ => some builtMark

/-- One frame (AU) or multiframe (TU) of a pointer generator: all ones for AIS; NDF where a new source's start marker lies elsewhere, and after all
ones; else the elastic store's rules (R227 to R229, R253). The second result: 1 increment, 2 decrement, 3 jump, 4 NDF, or 0. -/
def genFrame (range : Nat) (src : SlotSource) (ones : Bool) (mark : Option Nat) (units : Int) (g : PtrGen) : PtrGen × Nat :=
  let rest : PtrGen := { g with src := src, fill := 8, since := min 4 (g.since + 1) }
  if ones then ({ rest with sent := 4 }, 0)
  else if src ≠ g.src ∨ g.sent = 4 then
    match mark with
    | some o => if o ≠ g.offset ∨ g.sent = 4 then ({ rest with offset := o, since := 0, sent := 3 }, 4) else ({ rest with sent := 0 }, 0)
    | none => ({ rest with sent := 0 }, 0)
  else genStep range (clampI 0 16 (g.fill + units)).toNat g

/-- H1/H2 or V1/V2 of a generator: NDF, SS (the size bits of a TU), the offset, with its I or D bits inverted for a justification (R212, R224). -/
def ptrWord (ss range : Nat) (g : PtrGen) : Nat :=
  match g.sent with
  | 4 => 0xFFFF
  | 3 => 0x9000 + 1024 * ss + g.offset
  | 2 => 0x6000 + 1024 * ss + ((g.offset + 1) % range ^^^ 0x155)
  | 1 => 0x6000 + 1024 * ss + ((g.offset + range - 1) % range ^^^ 0x2AA)
  | _ => 0x6000 + 1024 * ss + g.offset

/-- The concatenation indication (R224). -/
def concWord (ss : Nat) : Nat := 0x9000 + 1024 * ss + 0x3FF

/-- Range of a TU type's offsets and the size bits of its pointer (G.707). -/
def tuRange (n : Nat) : Nat := if n = 21 then 140 else 104
def tuSize (n : Nat) : Nat := if n = 21 then 2 else 3

/-- SAW of an output slot (R339). -/
def sawOf (s : State) (x : Nat) : Nat :=
  match outSource s x with
  | .ais u => 1 + 4 * b2n u
  | .uneq => 8
  | .input z =>
      let y := effSlot s z
      if xLine y then b2n (lineSlotSf s y none false) + 2 * b2n (portAt s (xPort y)).sdOut
      else b2n (bpSlotSf s (xPort y) (xSlot y)) + 2 * b2n (laneAt s (copyLane s (xPort y) (xSlot y))).sd
  | _ => 0

end Sys2Proof.Machine
end

