-- ==== Sys2Proof/Machine/Prot.lean ====
section
/-!
DEFINITION. Protection groups and selectors in the part: their conditions (R274), their evaluation and application at a boundary (R277), commands
(R284), words as read and staged (R270, R271).
-/
namespace Sys2Proof.Machine

open Sys2Proof

/-- An MSP group by its physical protection port, or a selector by its physical number (low-order at 2048). -/
inductive ProtRef where
  | msp (p : Nat)
  | sel (n : Nat)
deriving DecidableEq, Repr

/-- The run state of a group or selector. -/
def ctlAt (s : State) : ProtRef → ProtCtl
  | .msp p => tget .reset s.prot.msp p
  | .sel n => ((selAt s n).map (·.ctl)).getD .reset

/-- Replace it. -/
def setCtl (r : ProtRef) (c : ProtCtl) (s : State) : State :=
  match r with
  | .msp p => { s with prot := { s.prot with msp := tset .reset s.prot.msp p c } }
  | .sel n => { s with prot := { s.prot with sels := tmod none s.prot.sels n (fun o => o.map (fun x => { x with ctl := c })) } }

/-- Its configuration in force. -/
def cfgOf (s : State) : ProtRef → ProtCfg
  | .msp p =>
      let w := mspWord s [] p
      ⟨bits w 1 2, bit w 3 || decide (2 ≤ bits w 1 2), bit w 8, bit w 10, bits w 18 7, bits w 25 4, true⟩
  | .sel n =>
      let w := selWord s [] n 2
      ⟨0, bit w 4, false, bit w 7, bits w 16 7, bits w 23 4, false⟩

/-- It exists and is enabled. -/
def protOn (s : State) : ProtRef → Bool
  | .msp p => bit (mspWord s [] p) 0
  | .sel n => ((selAt s n).map (fun x => x.live && bit x.w2 0)).getD false

/-- The Seat that its causes and events go to. -/
def protSeat (s : State) : ProtRef → Nat
  | .msp p => ownerOf s 0 p
  | .sel n => ((selAt s n).map (·.seat)).getD 0

/-- Its event, when EV_EN is set. -/
def protEvent (r : ProtRef) (s : State) : State :=
  let (en, ev) := match r with
    | .msp p => (bit (mspWord s [] p) 11, bits (mspWord s [] p) 12 6)
    | .sel n => (bit (selWord s [] n 2) 9, bits (selWord s [] n 2) 10 6)
  if en then setEvent (protSeat s r) ev s else s

/-- OBJECT of its records (R294). -/
def protObject : ProtRef → Nat
  | .msp p => 0xFF100000 + p
  | .sel n => if n < 2048 then 0xFF200000 + n else 0xFF300000 + (n - 2048)

/-- ADDR in SPACE 0x08 of its external command. -/
def commandAddr (r : ProtRef) : Nat := 2 ^ 31 + protObject r % 2 ^ 24

/-- NEW of its records. -/
def protNew (c : ProtCtl) : Nat :=
  b2n c.selected + 2 * b2n c.bridged + 16 * (c.code % 16) + 256 * (c.ext % 16) + 65536 * (c.txK1 % 256)

/-- A PROTECT record that the part makes (R294). -/
def protRecord (r : ProtRef) (event before : Nat) (s : State) : State :=
  ledgerHwSeat (protSeat s r) 3 0xC (protObject r) (event + 256 * (before % 256)) (protNew (ctlAt s r)) false [] s

/-- Signal fail and signal degrade of a selector's source (R274). -/
def sourceCond (s : State) (w : Nat) (lo uneqSf sdEn : Bool) : Bool × Bool :=
  let x := effSlot s (eSrc w)
  if xLine x then (lineSlotSf s x (if lo then some (eSrcJ w) else none) uneqSf, false)
  else (bpSlotSf s (xPort x) (xSlot x), sdEn && bpSlotSd s (xPort x) (xSlot x))

/-- SF_W, SF_P, SD_W, SD_P of an object as the part sees them (R274). -/
def rawCond (s : State) : ProtRef → Nat
  | .msp p =>
      let w := mspWord s [] p
      let a := portAt s (bits w 4 4)
      let b := portAt s p
      let sd := bit w 9
      b2n a.sfOut + 2 * b2n b.sfOut + 4 * b2n (sd && a.sdOut) + 8 * b2n (sd && b.sdOut)
  | .sel n =>
      let w2 := selWord s [] n 2
      let lo := decide (2048 ≤ n)
      let a := sourceCond s (selWord s [] n 0) lo (bit w2 5) (bit w2 6)
      let b := sourceCond s (selWord s [] n 1) lo (bit w2 5) (bit w2 6)
      b2n a.1 + 2 * b2n b.1 + 4 * b2n a.2 + 8 * b2n b.2

/-- Every group and selector. -/
def protRefs (s : State) : List ProtRef := (List.range 16).map .msp ++ s.prot.sels.map (fun e => .sel e.1)

/-- The low byte of its configuration word, which its configuration records name as the value before (R294; entry 54). -/
def protConfig (s : State) : ProtRef → Nat
  | .msp p => mspWord s [] p % 256
  | .sel n => selWord s [] n 2 % 256

/-- The evaluation of one object at a boundary (R277), with what its mismatches and FOP report (R280). -/
def protEval (r : ProtRef) (s : State) : State :=
  if ¬ protOn s r then s
  else
    let c := ctlAt s r
    let port := match r with | .msp p => portAt s p | .sel _ => LinePort.reset
    let d := engineStep (cfgOf s r) (rawCond s r) port.k1 port.k2 port.kIncons c
    let s1 := setCtl r d s
    match r with
    | .sel _ => s1
    | .msp p =>
        let mm (event k : Nat) (was now : Bool) (t : State) : State :=
          if was = now then t
          else
            let t1 := protRecord r event (b2n was) t
            if now then setCause (protSeat t1 r) 0xC0000 3 (faultRaise (325 + 3 * p + k) t1) else t1
        let s2 := mm 6 2 c.modeMm d.modeMm (mm 5 1 c.archMm d.archMm s1)
        if c.fop ∧ ¬ d.fop then protEvent r (protRecord r 4 1 s2) else s2

/-- A command to a group or selector (R284): outcome; `hw` for a switch-request word (R283). -/
def protCommand (a : Agent) (hw : Bool) (r : ProtRef) (code : Nat) (s : State) : Nat × State :=
  let cfg := cfgOf s r
  let c := ctlAt s r
  if ¬ cmdValid cfg code ∨ (code < 8 ∧ mirrorRefused s) then (oSeat, s)
  else if cmdOutranked cfg hw c code then (oCapacity, s)
  else
    let d := cmdApply hw code c
    let new := protNew d
    let put (t : State) : State :=
      let t1 := setCtl r d t
      if code < 8 ∧ d.ext ≠ c.ext then
        mirrorItem (!hw) 8 (commandAddr r) (lastSeq t1) (toBytes 4 d.ext) t1
      else t1
    if hw then (oDone, ledgerHwSeat (protSeat s r) 3 0xC (protObject r) (2 + 256 * c.ext) new false [] (put s))
    else
      match ledgerMgmt a 0xC (protObject r) (2 + 256 * c.ext) new false [] s with
      | none => (oLedger, s)
      | some t => (oDone, put t)

/-- A refused command sets CMD_REFUSED. -/
def cmdEnd (seat : Nat) (x : Nat × State) : Nat × State :=
  if x.1 < 0x10 then x else (x.1, setCause seat 0xC0000 4 x.2)

/-- The protection object at a Seat's object address: its reference and the word in it. -/
def protAt (s : State) (seat addr : Nat) : Option (ProtRef × Nat) :=
  if 0x440000 ≤ addr ∧ addr < 0x440200 then
    (ownedPhys s seat 0 ((addr - 0x440000) / 32)).map (fun p => (.msp p, (addr % 32) / 4))
  else if 0x400000 ≤ addr ∧ addr < 0x408000 then (selOf s seat ((addr - 0x400000) / 16) false).map (fun n => (.sel n, (addr % 16) / 4))
  else if 0x410000 ≤ addr ∧ addr < 0x430000 then (selOf s seat ((addr - 0x410000) / 16) true).map (fun n => (.sel n, (addr % 16) / 4))
  else none

/-- A selector exists for its Seat: its creation has landed (R271). -/
def protLive (s : State) : ProtRef → Bool
  | .msp _ => true
  | .sel n => ((selAt s n).map (·.live)).getD false

/-- A command by an agent to the object at an address (R270, R284). -/
def commandAt (a : Agent) (addr code : Nat) (s : State) : Nat × State :=
  match protAt s a.seat addr with
  | some (r, _) => if protLive s r then cmdEnd a.seat (protCommand a false r code s) else cmdEnd a.seat (oSeat, s)
  | none => cmdEnd a.seat (oSeat, s)

/-- Switch-request words accepted since the last boundary act as commands, the working source's first (R283, R340). -/
def srqCommands (s : State) : State :=
  let due := s.dun.srqDue
  let s0 := { s with dun := { s.dun with srqDue := [] } }
  s0.prot.sels.foldl (fun t e =>
    if ¬ (protOn t (.sel e.1) && bit (selWord t [] e.1 2) 8) then t
    else
      [0, 1].foldl (fun u w =>
        due.foldl (fun v q =>
          if eSrc (selWord v [] e.1 w) = 3072 + 192 * q.pair + q.slot then
            (cmdEnd (protSeat v (.sel e.1)) (protCommand ⟨protSeat v (.sel e.1), 5, 3⟩ true (.sel e.1) q.code v)).2
          else v) u) t) s0

/-- The evaluation after the status flip (R277). -/
def protEvaluate (s : State) : State := (protRefs s).foldl (fun t r => protEval r t) (srqCommands s)

/-- Step 5 for one object: what was decided at the last boundary, `before` this one's evaluation, applies, with its records, causes and events
(R277, R294). -/
def protApply1 (before : State) (r : ProtRef) (s : State) : State :=
  if ¬ protOn s r then s
  else
    let c := ctlAt s r
    let p := ctlAt before r
    let e := applyStep { c with selNext := p.selNext, brNext := p.brNext, nextK1 := p.nextK1, nextK2 := p.nextK2 }
    let d := { e with selNext := c.selNext, brNext := c.brNext, nextK1 := c.nextK1, nextK2 := c.nextK2 }
    let s1 := setCtl r d s
    let s2 := if c.selected = d.selected then s1
      else setCause (protSeat s1 r) 0xC0000 (match r with | .msp _ => 0 | .sel _ => 1) (protRecord r 0 (b2n c.selected) s1)
    let s3 := if c.bridged = d.bridged then s2 else protRecord r 1 (b2n c.bridged) s2
    let quiet := match r with
      | .msp _ => c.bridged == d.bridged
      | .sel _ => true
    if c.selected = d.selected ∧ quiet = true then s3 else protEvent r s3

/-- Step 5 of the boundary; `before` is the state before the boundary's evaluation. -/
def protApply (before s : State) : State := (protRefs s).foldl (fun t r => protApply1 before r t) s

/-- The object that a time-driven command names. -/
def protObjRef : ProtObj → ProtRef
  | .msp p => .msp p.toNat
  | .ho n => .sel n.toNat
  | .lo n => .sel (2048 + n.toNat)

/-- HOLDOFF_EXPIRY (R275): condition k has been present for the hold-off. -/
def execHoldoffExpiry (o : ProtObj) (k : BitVec 2) (s : State) : Result :=
  let r := protObjRef o
  .next (if protOn s r then setCtl r (holdoffExpire (cfgOf s r).holdoff k.toNat (ctlAt s r)) s else s)

/-- WTR_EXPIRY (R281): the wait-to-restore has run out. -/
def execWtrExpiry (o : ProtObj) (s : State) : Result :=
  let r := protObjRef o
  let c := ctlAt s r
  .next (if protOn s r ∧ c.wtrRun ∧ c.wtrLeft = 0 then setCtl r { c with wtrRun := false } s else s)

/-- EXERCISE_END (R282): 16 frames of exercise have been sent; the command leaves force, which the mate learns (R293). -/
def execExerciseEnd (p : BitVec 4) (s : State) : Result :=
  let r := ProtRef.msp p.toNat
  let c := ctlAt s r
  .next (if protOn s r ∧ c.exerRun ∧ c.exerLeft = 0 then
      let t := setCtl r { c with exerRun := false, exerOk := c.exerSeen, ext := if c.ext = 6 then 0 else c.ext } s
      if c.ext = 6 then mirrorItem false 8 (commandAddr r) noSeq (toBytes 4 0) t else t
    else s)

/-- FOP_DECLARE (R280): 400 consecutive frames with a cause. -/
def execFopDeclare (p : BitVec 4) (s : State) : Result :=
  let r := ProtRef.msp p.toNat
  let c := ctlAt s r
  .next (if protOn s r ∧ ¬ c.fop ∧ (400 ≤ c.fopRun ∨ 400 ≤ c.badRun) then
      let s1 := protRecord r 4 0 (setCtl r { c with fop := true } s)
      protEvent r (faultRaise (325 + 3 * p.toNat) (setCause (protSeat s1 r) 0xC0000 2 s1))
    else s)

/-- Words 2 to 5 of an MSP group. -/
def mspStatus (c : ProtCtl) (w : Nat) : Nat :=
  match w with
  | 2 => b2n c.selected + 2 * b2n c.bridged + 4 * b2n c.wtrRun + 8 * b2n c.fop + 16 * b2n c.archMm + 32 * b2n c.modeMm
      + 64 * (c.eff % 16) + 1024 * b2n c.exerOk + 4096 * (c.code % 16) + 65536 * (c.ext % 16)
  | 3 => c.txK1 % 256 + 256 * (c.txK2 % 256) + 65536 * (c.rxK1 % 256) + 2 ^ 24 * (c.rxK2 % 256)
  | 4 => c.switches % 2 ^ 32
  | 5 => c.wtrLeft % 2 ^ 23
  | _ => 0

/-- A word of a protection object as a Seat reads it: staged words from its shadow, in its own numbers (R46, R270). -/
def protWord (s : State) (seat addr : Nat) : Option Nat :=
  match protAt s seat addr with
  | none => none
  | some (.msp p, w) =>
      let c := ctlAt s (.msp p)
      if w = 0 then
        match stagedVal (seatGroup s seat) (2 ^ 24 + 0x440000 + 32 * p) with
        | some v => some v
        | none =>
            let v := (stagedVal (ownPending s seat) (2 ^ 24 + 0x440000 + 32 * p)).getD (mspWord s [] p)
            some (setBits v 4 4 (((localOf s seat 0 (bits v 4 4)).map (·.1)).getD 0))
      else some (mspStatus c w)
  | some (.sel n, w) =>
      if ¬ protLive s (.sel n) then none
      else
        let c := ctlAt s (.sel n)
        let lo := decide (2048 ≤ n)
        let num := ((selAt s n).map (·.num)).getD 0
        if w = 3 then
          some (b2n c.selected + 2 * (c.eff % 16) + 32 * b2n c.wtrRun + 64 * (c.code % 16) + 65536 * (c.switches % 65536))
        else
          match stagedVal (seatGroup s seat) (selLocalKey num w lo) with
          | some v => some v
          | none =>
              let v := selWord s (ownPending s seat) n w
              some (if w < 2 then setBits v 0 14 (xLocal s seat (eSrc v)) else v)

/-- Word 0 of an MSP group as stored: REVERTIVE for 1:1, HOLDOFF and WTR in range. -/
def mspNorm (v0 : Nat) : Nat :=
  let v := v0 % 2 ^ 29
  let v1 := if 2 ≤ bits v 1 2 then setBit v 3 else v
  setBits (setBits v1 18 7 (min 100 (bits v1 18 7))) 25 4 (max 1 (min 12 (bits v1 25 4)))

/-- Words of a selector as stored. -/
def selNorm (lo : Bool) (w v : Nat) : Nat :=
  if w < 2 then (if lo then v % 2 ^ 19 else v % 2 ^ 14)
  else
    let v1 := if lo then setBits (v % 2 ^ 27) 1 3 0 else v % 2 ^ 27
    setBits (setBits v1 16 7 (min 100 (bits v1 16 7))) 23 4 (max 1 (min 12 (bits v1 23 4)))

/-- A write of a word of a protection object (R270): none where it is not fitted. A selector's words may be written before it exists: the record
then names it by the Seat's own number, having no physical one to name (R130, R271; DESIGN CHOICE, assumption 48). The expectation table is read-only:
a write of it does nothing (R287). -/
def protWrite (a : Agent) (addr v : Nat) (s : State) : Option (Nat × State) :=
  if 0x440000 ≤ addr ∧ addr < 0x440200 then
    match ownedPhys s a.seat 0 ((addr - 0x440000) / 32) with
    | none => none
    | some p =>
        match (addr % 32) / 4 with
        | 0 => some (stageValue a (2 ^ 24 + 0x440000 + 32 * p) (2 ^ 24 + 0x440000 + 32 * p) 4 ((protWord s a.seat addr).getD 0) (mspNorm v) s)
        | 1 => some (commandAt a addr (v % 16) s)
        | _ => some (oDone, s)
  else if (0x400000 ≤ addr ∧ addr < 0x408000) ∨ (0x410000 ≤ addr ∧ addr < 0x430000) then
    let lo := decide (0x410000 ≤ addr)
    let num := (addr - (if lo then 0x410000 else 0x400000)) / 16
    let w := (addr % 16) / 4
    if w = 3 then
      match protAt s a.seat addr with
      | some (r, _) => if protLive s r then some (commandAt a addr (v % 16) s) else none
      | none => none
    else
      let key := selLocalKey num w lo
      let nv := selNorm lo w v
      if w = 2 ∧ ¬ lo ∧ 4 < bits nv 1 3 then some (oSeat, s)
      else
        let old := match stagedVal (seatGroup s a.seat) key with
          | some x => x
          | none => (protWord s a.seat addr).getD (if w = 2 then 5 * 2 ^ 23 else 0)
        let object := ((selOf s a.seat num lo).map (fun n => selKey n w)).getD key
        some (stageValue a key object 4 old nv s)
  else if 0x450000 ≤ addr ∧ addr < 0x458000 then some (oDone, s)
  else none

end Sys2Proof.Machine
end

