-- ==== Sys2Proof/Machine/Proof.lean ====
section
/-!
DEFINITION. Patch proof: reads and matching (R289, R290), buckling and losses (R286), the Keeper's override (R291), attach and detach by a host (R288),
step 7 of the boundary (R25, R286).
-/
namespace Sys2Proof.Machine

open Sys2Proof

/-- A PROOF record that the part makes (R294). -/
def proofRecord (i before event radio : Nat) (s : State) : State :=
  let seat := ((expectAt s i).map (fun x => connOwner s x.conn)).getD 0
  ledgerHwSeat seat 4 0xD (0x02000000 + i) before (event + 16 * radio) false [] s

/-- Code of an ESTATE. -/
def EState.code : EState → Nat
  | .free => 0 | .pending => 1 | .armed => 2 | .met => 3 | .detaching => 4

/-- Every expectation attached to a connection is MET. -/
def allMet (s : State) (n : Nat) : Bool := hasProof s n && (connExpects s n).all (fun e => e.2.state == .met)

/-- A connection becomes BUCKLED (R286). -/
def buckle (n cause : Nat) (s : State) : State := pxCause n 1 (connTo n .buckled cause s)

/-- A connection becomes UNBUCKLED. -/
def unbuckle (n cause : Nat) (s : State) : State := pxEvent n (pxCause n 0 (connTo n .unbuckled cause s))

/-- An expectation is ARMED from a position on. -/
def armAt (i frame phase : Nat) (s : State) : State :=
  match expectAt s i with
  | some x => mirrorExpect false i (setExpect i (some { x with state := .armed, armFrame := frame, armPhase := phase }) s)
  | none => s

/-- A loss of proof, or a cleared override, that step 7 of the next multiframe boundary acts on. -/
def noteLoss (n i : Nat) (s : State) : State := { s with prot := { s.prot with losses := s.prot.losses ++ [(n, i)] } }

/-- A read compared with one expectation (R289, R290). -/
def readOne (radio symbology : Nat) (code : List Byte) (pos i : Nat) (s : State) : State :=
  match expectAt s i with
  | none => s
  | some x =>
      let st := estateOf s i x
      if ¬ (st = .armed ∨ st = .met) ∨ pos < x.armFrame * phasesPerFrame + x.armPhase ∨ ¬ bit x.body.source radio then s
      else
        let codeOk := code.length == x.body.len && code.map (·.toNat) == x.body.code.take x.body.len
        let symOk := radio == 1 || x.body.symMask == 0 || bit x.body.symMask symbology
        let n := x.conn
        if codeOk && symOk then
          let y := { x with state := .met, matchFrame := s.lt.frame, matchPhase := s.lt.phase, lastRead := 1 }
          let s1 := proofRecord i st.code 2 radio (mirrorExpect false i (setExpect i (some y) s))
          if (connAt s1 n).mode = .unbuckled ∧ allMet s1 n then buckle n 4 s1 else s1
        else
          let mode := (connAt s n).mode
          let loss := x.body.supervise && (mode = .buckled || mode = .live)
          let y := { x with lastRead := 2, wrong := satAdd 65535 x.wrong 1, state := if mode = .unbuckled then .armed else x.state }
          let s1 := pxEvent n (pxCause n 3 (proofRecord i st.code 3 radio (mirrorExpect false i (setExpect i (some y) s))))
          if loss then noteLoss n i (pxCause n 4 (proofRecord i st.code 4 radio s1)) else s1

/-- A read at a physical port (R289): `radio` 0 camera, 1 radio; `pos` the position of its exposure or reception. A standby matches nothing (R293). -/
def proofRead (port radio symbology : Nat) (code : List Byte) (pos : Nat) (s : State) : State :=
  if s.mate.rein = .standby then s
  else
    (s.prot.expects.map (·.1)).foldl (fun t i =>
      match expectAt t i with
      | some x => if x.body.port = port then readOne radio symbology code pos i t else t
      | none => t) s

/-- Step 7 of a multiframe boundary: losses first, then BUCKLED connections named in `ready` go LIVE (R25, R286). -/
def proofStep7 (ready : List Nat) (s : State) : State :=
  let due := s.prot.losses
  let s0 := { s with prot := { s.prot with losses := [] } }
  let s1 := due.foldl (fun t e =>
    let m := (connAt t e.1).mode
    if m = .live ∨ m = .buckled then unbuckle e.1 8 (armAt e.2 t.lt.frame 0 t)
    else if m = .unbuckled ∧ due.any (fun d => d.1 == e.1) then armAt e.2 t.lt.frame 0 t
    else t) s0
  ready.foldl (fun t n => if (connAt t n).mode = .buckled then pxCause n 2 (connTo n .live 7 t) else t) s1

/-- The connections BUCKLED now, which the next step 7 takes. -/
def buckledConns (s : State) : List Nat := (s.fab.conns.filter (fun e => e.2.mode = .buckled)).map (·.1)

/-- Expectations of a connection that are not MET. -/
def notMet (s : State) (n : Nat) : List Nat := ((connExpects s n).filter (fun e => e.2.state ≠ .met)).map (·.1)

/-- A write of PX_OVERRIDE by S0 (R291): outcome. -/
def overrideWrite (a : Agent) (v : Nat) (s : State) : Nat × State :=
  let set := bit v 24
  match connOfAddr (bits v 0 24) with
  | none => (oSeat, s)
  | some n =>
      match connExpects s n with
      | [] => (oSeat, s)
      | (i, x) :: _ =>
          let c := connAt s n
          if mirrorRefused s then (oSeat, s)
          else if ¬ set ∧ ¬ c.override then (oDone, s)
          else
            match ledgerMgmt a 0xD (0x02000000 + i) (estateOf s i x).code (if set then 5 else 6) true [] s with
            | none => (oLedger, s)
            | some t =>
                let t0 := modConn n (fun y => { y with override := set }) t
                let t1 := pxCause n 5 (mirrorItem true 8 n (lastSeq t0) (toBytes 4 (connImage (connAt t0 n))) t0)
                if set then (oDone, if c.mode = .unbuckled then buckle n 5 t1 else t1)
                else
                  let open_ := notMet t1 n
                  if open_ = [] then (oDone, t1)
                  else if c.mode = .buckled then (oDone, unbuckle n 5 t1)
                  else if c.mode = .live then (oDone, open_.foldl (fun u k => noteLoss n k u) t1)
                  else (oDone, t1)

/-- The host write of PX_OVERRIDE (R92, R291). A write with both or neither of SET and CLEAR is discarded. -/
def hostOverride (a : Agent) (v : Nat) (s : State) : Nat × State :=
  if bit v 24 = bit v 25 then (oDone, s)
  else
    let (o, t) := overrideWrite a v s
    (o, countOutcome 0 o { t with prot := { t.prot with overrideOutcome := o } })

/-- A write of PX_CMD by a path or strand (R288): outcome and index in PX_CMD_STATUS. -/
def pxCommand (a : Agent) (v : Nat) (s : State) : Nat × State :=
  if bit v 24 = bit v 25 then (oDone, s)
  else
    let stage := rget s (kPath a.pk 0xC0300)
    let (o, i, t) := if bit v 24 then stageAttach a (bits v 0 24) stage s else stageDetach a (bits v 0 24) (bits v 26 1) s
    (o, countOutcome a.seat o (modPath a.pk (fun p => { p with pxOutcome := o, pxIndex := i }) t))

/-- The landing of an attach or a detach (R286, R288), at the landing frame. -/
def landExpect (i v : Nat) (s : State) : State :=
  match expectAt s i with
  | none => s
  | some x =>
      if v ≠ 0 then
        let y := { x with body := bodyOf v, state := .armed, armFrame := s.lt.frame, armPhase := 0, lastRead := 0 }
        proofRecord i x.state.code 0 0 (mirrorExpect false i (setExpect i (some y) s))
      else
        let s1 := proofRecord i x.state.code 1 0 s
        let s2 := mirrorExpect false i (setExpect i none s1)
        let m := (connAt s2 x.conn).mode
        if x.state = .pending then s2
        else if m = .unbuckled ∧ (¬ hasProof s2 x.conn ∨ allMet s2 x.conn) then buckle x.conn 6 s2
        else s2

/-- A deleted connection frees its expectations (R288). -/
def freeExpects (n : Nat) (s : State) : State :=
  s.prot.expects.foldl (fun t e => match e.2 with
    | some x => if x.conn = n then mirrorExpect false e.1 (setExpect e.1 none t) else t
    | none => t) s

end Sys2Proof.Machine
end

