-- ==== Sys2Proof/Machine/Fabric.lean ====
section
/-!
DEFINITION. The slot fabric at boundaries and its tiles: page swaps (R250 to R253), carriers (R239), rotation, comparison, handover, halts, spare-in
(R259 to R267) and their commands.
-/
namespace Sys2Proof.Machine

open Sys2Proof

/-- A swap of a fabric is due at multiframe boundary m: some accepted group that lands there writes it (R250). -/
def swapDue (s : State) (lo : Bool) (m : Nat) : Bool :=
  s.lt.groups.any (fun g => g.frame == m && g.writes.any (fun w => match keyConn w.key with | some n => isHo n == !lo | none => false))

/-- ADDR in SPACE 0x08 of the carrier of a low-order output slot, and of a selector's assignment (the others: a connection's number; 2^31 and
OBJECT of a group or selector for its external command). -/
def carrierAddr (x : Nat) : Nat := 2 ^ 29 + x
def selectorAddr (n : Nat) : Nat := 2 ^ 30 + n

/-- Carriers follow the two pages: freed with the last KIND LO of a slot, the lowest free given to each new one (R239). -/
def carrierSync (s : State) : State :=
  let want := ((loSlots s []) ++ (loSlots s (pendingWrites s))).eraseDups.mergeSort (· ≤ ·)
  let kept := s.fab.carriers.filter (fun e => want.contains e.1)
  let all := want.foldl (fun (t : Tab Nat) x =>
    if tget 0 t x ≠ 0 then t
    else
      match (List.range 768).find? (fun c => t.all (fun e => e.2 ≠ c + 1)) with
      | some c => tset 0 t x (c + 1)
      | none => t) kept
  let s1 := { s with fab := { s.fab with carriers := all } }
  ((s.fab.carriers ++ all).map (·.1)).eraseDups.foldl (fun t x =>
    let c := tget 0 all x
    if tget 0 s.fab.carriers x = c then t
    else if c = 0 then mirrorDelete true 8 (carrierAddr x) noSeq t else mirrorItem true 8 (carrierAddr x) noSeq (toBytes 4 c) t) s1

/-- The change of one connection in step 6 (R251, R286). -/
def swapConn (n v : Nat) (s : State) : State :=
  let seat := connOwner s n
  let s1 := modConn n (fun c => { c with entry := v, override := false }) s
  if eKind (isHo n) v = 0 then
    let s2 := freeExpects n (modConn n (fun c => { c with mode := .none }) s1)
    let s3 := ledgerHwSeat seat 2 8 (2 ^ 24 + connAddr n) 1 (7 + 256 * 3) false [] s2
    mirrorDelete false 2 (connAddr n) (lastSeq s3) s3
  else
    let proof := hasProof s1 n
    let mode : ConnMode := if proof then .unbuckled else .live
    let s2 := (connExpects s1 n).foldl (fun t e => armAt e.1 t.lt.frame 0 t) (modConn n (fun c => { c with mode := mode }) s1)
    let s3 := ledgerHwSeat seat 2 8 (2 ^ 24 + connAddr n) 1 (mode.code + 256 * 3) false [] s2
    let s4 := mirrorItem false 2 (connAddr n) (lastSeq s3) (toBytes (if isHo n then 8 else 4) v ++ toBytes 8 (2 ^ 64 - 1)) s3
    let s5 := mirrorItem false 8 n (lastSeq s3) (toBytes 4 (connImage (connAt s4 n))) s4
    if proof then pxEvent n (pxCause n 0 s5) else pxCause n 2 s5

/-- Step 6: the changes marked for this boundary become active; each fabric touched has swapped (R251). -/
def pageSwap (ws : List StagedWrite) (s : State) : State :=
  let cs := ws.filterMap (fun w => (keyConn w.key).map (fun n => (n, w.value)))
  if cs = [] then s
  else
    let ho := cs.any (fun c => isHo c.1)
    let lo := cs.any (fun c => !isHo c.1)
    let s1 := cs.foldl (fun t c => swapConn c.1 c.2 t) s
    let f := s1.fab
    let s2 := { s1 with fab := { f with
      hoSwaps := if ho then (f.hoSwaps + 1) % 65536 else f.hoSwaps, loSwaps := if lo then (f.loSwaps + 1) % 65536 else f.loSwaps
      lastHo := if ho then s.lt.frame else f.lastHo, lastLo := if lo then s.lt.frame else f.lastLo } }
    let s3 := carrierSync s2
    cs.foldl (fun t c => setCause (connOwner t c.1) 0x100300 (if isHo c.1 then 0 else 1) t) s3

/-- Rotation of a fabric. -/
def rotAt (s : State) (lo : Bool) : Rotation := if lo then s.fab.rotLo else s.fab.rotHo
def setRot (lo : Bool) (r : Rotation) (s : State) : State :=
  { s with fab := if lo then { s.fab with rotLo := r } else { s.fab with rotHo := r } }
def modRot (lo : Bool) (f : Rotation → Rotation) (s : State) : State := setRot lo (f (rotAt s lo)) s

/-- Number of groups of a fabric; its last tile. -/
def groupsOf (lo : Bool) : Nat := if lo then 8 else 24

/-- Tile t of a rotation. -/
def tileAt (lo : Bool) (r : Rotation) (t : Nat) : Tile := tget (Tile.reset (groupsOf lo) t) r.tiles t
def modTile (lo : Bool) (t : Nat) (f : Tile → Tile) (r : Rotation) : Rotation := { r with tiles := tins (tdel r.tiles t) t (f (tileAt lo r t)) }

/-- The tile that serves a group. -/
def serverOf (lo : Bool) (r : Rotation) (g : Nat) : Nat := ((List.range (groupsOf lo + 1)).find? (fun t => (tileAt lo r t).group == g)).getD 0

/-- The fabric has its tiles: the low-order ones only while LO_EN = 1 and they are awake (R268). -/
def tilesOn (s : State) (lo : Bool) : Bool :=
  alive s && (!lo || (rbit s (kP 0x100000) 0 && (List.range 9).all (fun k => domOn s (77 + k))))

/-- ROT_EN of the fabric. -/
def rotEn (s : State) (lo : Bool) : Bool := rbit s (kP 0x100000) (if lo then 2 else 1)

/-- The output group that a tile holds: the one it serves, or the one that it is being loaded with or compared for (R259, R260, R265). -/
def tileHolds (lo : Bool) (r : Rotation) (t : Nat) : Option Nat :=
  let x := tileAt lo r t
  if x.group ≠ 31 then some x.group
  else if x.mode = .loading ∨ x.mode = .comparing then some (if r.phase = .spareIn then r.spareGroup else r.cursor)
  else none

/-- The output group of a connection (R259). -/
def connGroup (s : State) (n : Nat) : Nat := if isHo n then connX n / 256 else (tget 0 s.fab.carriers (connX n) - 1) / 96

/-- A tile's copy: of its group's connections the active entries, pending changes, selector choices and proof overrides (R259). -/
structure TileCopy where
  active : Tab Nat
  pending : Tab ShadowEntry
  choices : Tab Bool
  overrides : Tab Bool
deriving DecidableEq, Repr

/-- The copy that a tile holds. Every change is written through to every tile that holds the group, so a copy is at every moment what the fabric holds of
the group, and needs no storage of its own (R259; entry 53). -/
def tileCopy (s : State) (lo : Bool) (t : Nat) : Option TileCopy :=
  let r := if lo then s.fab.rotLo else s.fab.rotHo
  (tileHolds lo r t).map (fun g =>
    let mine (n : Nat) : Bool := isHo n == !lo && connGroup s n == g
    let conns := s.fab.conns.filter (fun e => mine e.1)
    let chosen (e : Nat × Conn) : Option (Nat × Bool) :=
      if eKind (!lo) e.2.entry = 2 then
        (selAt s (if lo then 2048 + eSrc e.2.entry else eSrc e.2.entry)).map (fun x => (e.1, x.ctl.selected))
      else none
    ⟨conns.map (fun e => (e.1, e.2.entry)), s.fab.shadow.filter (fun e => mine e.1), conns.filterMap chosen,
      conns.map (fun e => (e.1, aisOverride e.2))⟩)

/-- A TILE record (R269). -/
def tileRecord (lo : Bool) (incoming outgoing event group : Nat) (s : State) : State :=
  ledgerHw 2 0xA (0xFF000000 + 65536 * b2n lo + 256 * incoming + outgoing) event (group % 256 + 256 * (rotAt s lo).attempt) false [] s

/-- A cause of FAB_INT in S0. -/
def fabCause (k : Nat) (s : State) : State := setCause 0 0x100300 k s

/-- The first fault source of a tile. -/
def tileSource (lo : Bool) (t : Nat) : Nat := 251 + 2 * (if lo then 25 + t else t)

/-- Rotation halts (R266). -/
def rotHalt (lo : Bool) (s : State) : State :=
  if (rotAt s lo).phase = .halted then s
  else
    let r := rotAt s lo
    let s1 := tileRecord lo r.resting (serverOf lo r r.cursor) 5 r.cursor s
    faultRaise (if lo then 322 else 321) (fabCause 5 (modRot lo (fun r => { r with phase := .halted, stepDue := false, mismatchBist := false }) s1))

/-- The resting tile fails a BIST pass (R263, R264). -/
def tileFail (lo : Bool) (t : Nat) (s : State) : State :=
  let r := rotAt s lo
  let s1 := setRot lo (modTile lo t (fun x => { x with mode := .failed, fail := satAdd 255 x.fail 1, passed := false, runPass := 0 })
    { r with retest := 0, mismatchBist := false }) s
  rotHalt lo (faultRaise (tileSource lo t + 1) (fabCause 4 (tileRecord lo t (serverOf lo r r.cursor) 2 r.cursor s1)))

/-- Every low-order tile has completed a pass since it woke (R268). -/
def tilesProven (lo : Bool) (r : Rotation) : Bool := !lo || (List.range 9).all (fun t => (tileAt lo r t).proven)

/-- The first cycle after `c` at which a scheduled step starts (R260). -/
def nextStep (lo : Bool) (c : Nat) : Nat :=
  let b := if lo then 2048 else 0
  c + 1 + (b + 4096 - (c + 1) % 4096) % 4096

/-- A cycle boundary, which leads on from cycle `old`: a step starts when one is due, R has passed and no other step runs (R260, R263, R501). -/
def rotStart (lo : Bool) (old : Nat) (s : State) : State :=
  let r := rotAt s lo
  let c := s.lt.frame / 16
  let sched := cycleDue old c 4096 (if lo then 2048 else 0)
  if ¬ (tilesOn s lo && rotEn s lo) then setRot lo { r with nextCycle := nextStep lo c } s
  else
    let due := (r.stepDue || sched) && r.phase ≠ .halted
    let r0 := { r with nextCycle := nextStep lo c, stepDue := due }
    let rest := tileAt lo r0 r0.resting
    if due && r0.phase = .bist && rest.passed && rest.mode = .resting && tilesProven lo r0 then
      setRot lo (modTile lo r0.resting (fun x => { x with mode := .loading })
        { r0 with phase := .load, stepDue := false, loaded := false, handover := s.lt.frame + 36
                  attempt := if r.mismatchBist then r.attempt else 0, waits := if r.mismatchBist then r.waits else 0
                  mismatchBist := false, suspectSwap := false }) s
    else setRot lo r0 s

/-- The tile that leaves rests, SUSPECT when it was; the other serves its group (R261, R263, R265). A rotation halted before a spare-in stays halted
(R266). -/
def handOver (lo : Bool) (s : State) : State :=
  let r := rotAt s lo
  let spare := decide (r.phase = .spareIn)
  let g := if spare then r.spareGroup else r.cursor
  let t := serverOf lo r g
  let rr := r.resting
  let out := if r.suspectSwap ∨ (tileAt lo r t).mode = .suspect then TileMode.suspect else .resting
  let r1 := modTile lo rr (fun x => { x with mode := .serving, group := g, passed := false, runPass := 0 })
    (modTile lo t (fun x => { x with mode := out, group := 31, passed := false, runPass := 0, faulty := false }) r)
  let s1 := tileRecord lo rr t (if spare then 4 else 0) g s
  let s2 := setRot lo { r1 with resting := t, cursor := if spare then r.cursor else (g + 1) % groupsOf lo
                                phase := if spare && r.wasHalted then .halted else .bist, suspectSwap := false, loaded := false
                                wasHalted := false } s1
  fabCause (if spare then 6 else 2) s2

/-- Step 8 of a multiframe boundary: a comparison starts, or a handover is made or waits (R260, R262, R265). `swapped`: the fabric's pages swap
here, so no handover is made (R20). -/
def tileStep8 (lo swapped : Bool) (s : State) : State :=
  let r := rotAt s lo
  let m := s.lt.frame
  let free := !swapped && (r.free || r.freeFrame != m)
  if ¬ tilesOn s lo then s
  else
    match r.phase with
    | .load =>
        if r.loaded ∧ r.handover ≤ m + 32 then
          setRot lo (modTile lo r.resting (fun x => { x with mode := .comparing })
            { r with phase := .compare, attempt := min 3 (r.attempt + 1), handover := m + 32 }) s
        else s
    | .compare | .waitSwap | .spareIn =>
        if m < r.handover ∨ (r.phase = .spareIn ∧ ¬ r.loaded) then s
        else if free then handOver lo s
        else
          let s1 := setRot lo { r with waits := min 63 (r.waits + 1) } s
          if r.waits + 1 = 16 then faultRaise 323 (fabCause 7 s1) else s1
    | _ => s

/-- LT m−1.0: whether multiframe boundary m is free of swaps of the fabric (R262). -/
def freeDecision (lo : Bool) (s : State) : State :=
  let r := rotAt s lo
  let m := s.lt.frame + 1
  if m % 4 ≠ 0 then s
  else
    let free := !swapDue s lo m
    let wait := !free && decide (r.handover ≤ m) && r.phase == .compare
    setRot lo { r with free := free, freeFrame := m, phase := if wait then .waitSwap else r.phase } s

/-- TILE_LOAD_COMPLETE (R260, R265). -/
def execTileLoadComplete (lo : Bool) (s : State) : Result :=
  let r := rotAt s lo
  .next (if tilesOn s lo ∧ (r.phase = .load ∨ r.phase = .spareIn) then setRot lo { r with loaded := true } s else s)

/-- TILE_COMPARE_MISMATCH (R263). -/
def execTileCompareMismatch (lo : Bool) (s : State) : Result :=
  let r := rotAt s lo
  .next (if ¬ tilesOn s lo ∨ ¬ (r.phase = .compare ∨ r.phase = .waitSwap) ∨ r.suspectSwap then s
    else
      let t := serverOf lo r r.cursor
      let count (x : Tile) : Tile := { x with mismatch := satAdd 255 x.mismatch 1 }
      let s1 := fabCause 3 (tileRecord lo r.resting t 1 r.cursor (setRot lo (modTile lo t count (modTile lo r.resting count r)) s))
      faultRaise 319 (if r.attempt < 2 then
        modRot lo (fun r => modTile lo r.resting (fun x => { x with mode := .resting, passed := false })
          { r with phase := .bist, mismatchBist := true }) s1
      else
        let s2 := faultRaise 320 (tileRecord lo r.resting t 3 r.cursor (modRot lo (modTile lo t (fun x => { x with mode := .suspect })) s1))
        if rbit s2 (kP 0x100000) 4 then modRot lo (fun r => { r with phase := .waitSwap, suspectSwap := true, handover := s.lt.frame + 1 }) s2
        else rotHalt lo (modRot lo (fun r => modTile lo r.resting (fun x => { x with mode := .resting }) r) s2)))

/-- TILE_BIST_PASS_END (R264): of the resting tile, or of a low-order tile that has just woken (R268). Under stage 3 of thermal shedding the
resting tile runs no pass (R459). -/
def execTileBistPassEnd (lo : Bool) (t : BitVec 5) (fail : Bool) (s : State) : Result :=
  let n := t.toNat
  if groupsOf lo < n then .fault .noSuchObject
  else
    let r := rotAt s lo
    let x := tileAt lo r n
    .next (if ¬ tilesOn s lo then s
      else if n ≠ r.resting then
        (if lo ∧ ¬ x.proven ∧ ¬ fail then
          setRot lo (modTile lo n (fun x => { x with pass := satAdd 255 x.pass 1, proven := true }) r) s
        else s)
      else if ¬ (r.phase = .bist ∨ r.phase = .halted) then s
      else if bit s.mon.shed 2 ∨ (x.mode = .failed ∧ r.retest = 0) then s
      else if fail then tileFail lo n s
      else
        let run := x.runPass + 1
        let again := decide (0 < r.retest)
        let done := (again && decide (r.retest = 1)) || (!again && x.mode = .suspect && decide (4 ≤ run))
        let ok := done || x.mode = .resting
        let r1 := modTile lo n (fun x => { x with pass := satAdd 255 x.pass 1, runPass := run, passed := ok, proven := true, mode := if done then .resting else x.mode }) r
        setRot lo { r1 with retest := r.retest - 1, stepDue := r.stepDue || (r.mismatchBist && ok)
                            phase := if done && again then .bist else r.phase } s)

/-- R may replace a tile (R265). -/
def spareReady (lo : Bool) (r : Rotation) : Bool :=
  let x := tileAt lo r r.resting
  x.passed && (x.mode == .resting || x.mode == .loading || x.mode == .comparing)

/-- TILE_DATAPATH_FAULT (R265, R266). -/
def execTileDatapathFault (lo : Bool) (t : BitVec 5) (s : State) : Result :=
  let n := t.toNat
  if groupsOf lo < n then .fault .noSuchObject
  else
    let s1 := if tilesOn s lo then faultRaise (tileSource lo n) s else s
    let r := rotAt s1 lo
    let x := tileAt lo r n
    .next (if ¬ tilesOn s lo then s
      else if n = r.resting then
        (if r.phase = .load ∨ r.phase = .compare ∨ r.phase = .waitSwap ∨ r.phase = .spareIn then
          tileFail lo n (modRot lo (fun r => { r with phase := .bist, suspectSwap := false }) s1)
        else s1)
      else if rbit s1 (kP 0x100000) 3 ∧ spareReady lo r ∧ r.phase ≠ .spareIn then
        setRot lo (modTile lo n (fun x => { x with faulty := true }) (modTile lo r.resting (fun x => { x with mode := .loading })
          { r with phase := .spareIn, spareGroup := x.group, wasHalted := decide (r.phase = .halted), loaded := false, handover := s.lt.frame + 1, suspectSwap := false, mismatchBist := false })) s1
      else modRot lo (modTile lo n (fun x => { x with faulty := true })) s1)

/-- Rotation disabled: a load or comparison is abandoned and the resting tile runs BIST. -/
def rotDisable (lo : Bool) (s : State) : State :=
  modRot lo (fun r =>
    if r.phase = .load ∨ r.phase = .compare ∨ r.phase = .waitSwap then
      modTile lo r.resting (fun x => { x with mode := .resting }) { r with phase := .bist, suspectSwap := false, stepDue := false }
    else { r with stepDue := false }) s

/-- LO_EN has changed (R268): every low-order tile needs a pass again, and what runs of a step is abandoned. -/
def loWake (s : State) : State :=
  let fresh (r : Rotation) : Rotation := { r with tiles := r.tiles.map (fun e => (e.1, { e.2 with proven := false, passed := false, runPass := 0 })) }
  modRot true fresh (rotDisable true (modRot true (fun r => if r.phase = .spareIn then { r with phase := .load } else r) s))

/-- FAB_ROT_CMD by S0 (R267): outcome. -/
def rotCommand (a : Agent) (v : Nat) (s : State) : Nat × State :=
  let lo := bit v 2
  let r := rotAt s lo
  let rest := tileAt lo r r.resting
  let t := serverOf lo r r.cursor
  let (ok, f) : Bool × (Rotation → Rotation) :=
    match bits v 0 2 with
    | 1 => (rest.mode == .failed || rest.mode == .suspect,
        fun r => modTile lo r.resting (fun x => { x with runPass := 0 }) { r with retest := 4 })
    | 2 => (r.phase == .halted && (tileAt lo r t).mode == .suspect && !rbit s (kP 0x100000) 4,
        fun r => { r with phase := .waitSwap, suspectSwap := true, handover := s.lt.frame + 1 })
    | 3 => (rotEn s lo && r.phase == .bist, fun r => { r with stepDue := true })
    | _ => (false, id)
  if ¬ ok then (oSeat, s)
  else
    match ledgerMgmt a 1 0x100110 0 (v % 8) false [] s with
    | none => (oLedger, s)
    | some u => (oDone, modRot lo f (tileRecord lo r.resting t 6 r.cursor u))

/-- A host write of FAB_ROT_CMD. CMD 0 commands nothing. -/
def hostRotCmd (a : Agent) (v : Nat) (s : State) : Nat × State :=
  if v % 4 = 0 then (oDone, s)
  else
    let (o, t) := rotCommand a v s
    (o, countOutcome 0 o (modRot (bit v 2) (fun r => { r with cmdOutcome := o }) t))

/-- FAB_ROT_STATUS. -/
def rotStatus (r : Rotation) : Nat :=
  let ph := match r.phase with | .bist => 0 | .load => 1 | .compare => 2 | .waitSwap => 3 | .halted => 4 | .spareIn => 5
  r.resting + 256 * r.cursor + 8192 * ph + 65536 * r.attempt + 2 ^ 18 * r.waits + 2 ^ 24 * r.cmdOutcome

/-- FAB_TILE_STATUS. -/
def tileStatus (x : Tile) : Nat :=
  let m := match x.mode with | .serving => 0 | .resting => 1 | .loading => 2 | .comparing => 3 | .suspect => 4 | .failed => 5
  m + 8 * x.group + 256 * x.pass + 65536 * x.fail + 2 ^ 24 * x.mismatch

/-- Step 2 of the fabric: its status registers by offset. -/
def fabFlip (s : State) : State :=
  let f := s.fab
  let v := [(0x10, f.hoSwaps + 65536 * f.loSwaps), (0x100, rotStatus f.rotHo), (0x104, rotStatus f.rotLo)]
    ++ (List.range 25).map (fun t => (0x200 + 4 * t, tileStatus (tileAt false f.rotHo t)))
    ++ (List.range 9).map (fun t => (0x280 + 4 * t, tileStatus (tileAt true f.rotLo t)))
  { s with fab := { f with view := v.filter (fun e => e.2 ≠ 0) } }

end Sys2Proof.Machine
end

