-- ==== Sys2Proof/Machine/Domains.lean ====
section
/-!
DEFINITION. Power domains: what provisions them (the table of "Power domains", R80), waking and gating (R81, R82), and the state as it would stand
with staged writes applied, which the checks at GO look at (R99, R248, R272).
-/
namespace Sys2Proof.Machine

open Sys2Proof

/-- A staging key of a register or of an MSP word, whose value lives in the register store. -/
def keyIsReg (key : Nat) : Bool := decide (key < 2 ^ 24) || decide (2 ^ 24 + 0x440000 ≤ key ∧ key < 2 ^ 24 + 0x440200)

/-- The RWS bits of the register at a staging key; all of an object word. -/
def rwsMask (key : Nat) : Nat :=
  if 2 ^ 24 ≤ key then 2 ^ 32 - 1 else match regLocate key with | some l => l.desc.rws | none => 0

/-- The value that a staged write leaves in a register: its RWS fields (R46). -/
def landValue (s : State) (w : StagedWrite) : Nat :=
  let m := rwsMask w.key
  (w.value &&& m) ||| clrMask (rget s w.key) m

/-- The state with the register writes of a list applied, in order. -/
def withWrites (s : State) (ws : List StagedWrite) : State :=
  ws.foldl (fun t w => if keyIsReg w.key then rset t w.key (landValue t w) else t) s

/-- An object is OWNED or OBSERVED by a Seat other than S0. -/
def assigned (s : State) (c p : Nat) : Bool := (List.range 15).any (fun n => fitted s (n + 1) c p)

/-- The heads of the slots that an active connection's entry takes its signal from: its source, or both sources of its selector. -/
def entrySources (s : State) (n e : Nat) : List Nat :=
  match eKind (isHo n) e with
  | 1 => [eSrc e]
  | 2 => (selAt s (if isHo n then eSrc e else 2048 + eSrc e)).elim [] (fun x => [eSrc x.w0, eSrc x.w1])
  | _ => []

/-- A LIVE connection uses a slot of the port or pair: an output slot, a source's slot, or the one that MSP gives a source (R82, R272). -/
def liveOn (s : State) (f : Nat → Bool) : Bool :=
  s.fab.conns.any (fun e => e.2.mode = .live &&
    (let w := widthSlots (eWidth (isHo e.1) e.2.entry)
     (List.range w).any (fun k => f (connX e.1 + k) || (entrySources s e.1 e.2.entry).any (fun x => f (x + k) || f (effSlot s (x + k))))))

/-- A camera bound to receiver r is assigned (R353). -/
def cameraOn (s : State) (r : Nat) : Bool :=
  (List.range 8).any (fun c => rbits s (kP (0x400800 + 4 * c)) 0 1 == r && assigned s 144 c)

/-- The domain is provisioned. -/
def provisioned (s : State) (d : Nat) : Bool :=
  if d < 16 then (assigned s 0 d && rbit s (kP (0x80000 + 0x4000 * d)) 3) || liveOn s (fun x => xLine x && xPort x == d)
  else if d < 48 then
    let l := d - 16
    (assigned s 16 l && rbits s (kP (0xE0000 + 0x100 * l)) 0 2 != 0)
      || liveOn s (fun x => !xLine x && xPort x == l / 2 && genCarries (laneGen s [] l) (l % 2 == 1) (xSlot x))
  else if d < 52 then mateEn s
  else if d < 77 then true
  else if d < 86 then rbit s (kP 0x100000) 0
  else if d < 94 then (List.range 8).any (fun i => bit (stCtlOf s (8 * (d - 86) + i)) 0)
  else if d < 102 then bit (gfpCfg s [] (d - 94)) 0
  else if d < 104 then cameraOn s (d - 102)
  else if d = 104 then [0, 1].any (fun r => cameraOn s r || domState s (102 + r) ≠ .gated)
  else if d < 110 then rbit s (kP 0x500000) 0
  else if d = 110 then rbit s (kP 0x600000) 0 || s.radio.onAir.isSome || s.radio.frames.any (·.waitAck)
  else (List.range 8).any (fun l => rbit s (kP (0x502000 + 0x10 * l)) 0)

/-- The domains gated together with a domain (the table "Power domains"): the first and how many. -/
def domGroup (d : Nat) : Nat × Nat :=
  if 48 ≤ d ∧ d < 52 then (48, 4) else if 77 ≤ d ∧ d < 86 then (77, 9) else if 106 ≤ d ∧ d < 110 then (106, 4) else (d, 1)

/-- The members of that group. -/
def domMates (d : Nat) : List Nat := (List.range (domGroup d).2).map (fun k => (domGroup d).1 + k)

/-- PWR_DOM_HOLD: a domain held awake keeps those gated together with it. -/
def domHeld (s : State) (d : Nat) : Bool := (domMates d).any (fun k => rbit s (kP (0x440 + 4 * (k / 32))) (k % 32))

/-- The domain is to be awake in the present stage (R80). -/
def domWanted (s : State) (d : Nat) : Bool :=
  match s.pwr.stage with
  | .dark => false
  | .safe | .framed => decide (d < 86) || (decide (d < 94) && provisioned s d)
  | _ => provisioned s d || domHeld s d || (decide (52 ≤ d ∧ d < 77))

/-- Set a domain's state. -/
def setDom (d : Nat) (x : DomState) (s : State) : State := { s with pwr := { s.pwr with dom := tset .gated s.pwr.dom d x } }

/-- Set the state of a domain and of those gated together with it. -/
def setDoms (d : Nat) (x : DomState) (s : State) : State := (domMates d).foldl (fun t k => setDom k x t) s

/-- The state that a domain moves to when wanted or not (R81, R82). -/
def domMove (want : Bool) (x : DomState) : DomState :=
  if want then (match x with | .gated => .waking | .gatePending => .on | y => y)
  else match x with | .on => .gatePending | y => y

/-- Wakes and gates follow what is wanted now, and what an accepted group will provision when it lands: its wake starts when the group is accepted
(R81). -/
def domUpdate (s : State) : State :=
  if ¬ alive s then s
  else
    let views := s :: s.lt.groups.map (fun g => withWrites s g.writes)
    (List.range 112).foldl (fun t d => setDom d (domMove (views.any (fun v => domWanted v d)) (domState t d)) t) s

/-- From LOADED on, some domain that the writes provision is not awake (R81). -/
def wakeWait (s : State) (ws : List StagedWrite) : Bool :=
  decide (3 ≤ s.pwr.stage.code) &&
    (let later := withWrites s ws
     (List.range 112).any (fun d => domWanted later d && !domWanted s d && !domOn s d))

/-- DOMAIN_WAKE_TIMEOUT (R467): a domain is not ON 20 µs after its wake starts. -/
def execDomainWakeTimeout (d : BitVec 7) (s : State) : Result :=
  if 112 ≤ d.toNat then .fault .noSuchObject
  else .next (if domState s d.toNat = .waking then faultRaise 5 s else s)

/-- DOMAIN_GATE (R82): the block of a domain with a gate pending has become idle. -/
def execDomainGate (d : BitVec 7) (s : State) : Result :=
  if 112 ≤ d.toNat then .fault .noSuchObject
  else .next (if domState s d.toNat = .gatePending then domUpdate (setDoms d.toNat .gated s) else s)

end Sys2Proof.Machine
end

