-- ==== Sys2Proof/Machine/Calendar.lean ====
section
/-!
DEFINITION. Time of day (R54), the late rule on a target (R48), the calendar's entries: reading, adding and removing them (R41 to R45).
-/
namespace Sys2Proof.Machine

open Sys2Proof

/-- A ToD value (seconds, nanoseconds) as an LT position under the anchor in force (R54): negative before LT 0.0. -/
def todToPos (s : State) (sec ns : Nat) : Int :=
  let d : Int := ((sec * 1000000000 + ns : Nat) : Int) - ((s.lt.anchorSec * 1000000000 + s.lt.anchorNs : Nat) : Int)
  let frames := d / 125000
  let r := (d % 125000).toNat
  let phase := (r * phasesPerFrame + 124999) / 125000
  ((s.lt.anchorFrame : Int) + frames) * phasesPerFrame + phase

/-- The ToD of a position: seconds and nanoseconds (R54). DESIGN CHOICE (entry 35): before TAI 0 under the anchor it reads 0 s 0 ns. -/
def posToTod (s : State) (pos : Nat) : Nat × Nat :=
  let d : Int := ((pos : Int) - ((s.lt.anchorFrame * phasesPerFrame : Nat) : Int)) * 125000 / phasesPerFrame
  let t := (((s.lt.anchorSec * 1000000000 + s.lt.anchorNs : Nat) : Int) + d).toNat
  (t / 1000000000, t % 1000000000)

/-- The 16 bytes of a calendar entry (R41). -/
def calImage (e : CalEntry) : Nat :=
  e.frame % 2 ^ 48 + 2 ^ 48 * e.phase + 2 ^ 64 * e.repeatN + 2 ^ 80 * (e.kind + 16 * e.cls) + 2 ^ 88 * e.seat + 2 ^ 96 * e.target + 2 ^ 112 * e.arg

/-- The entry at an index. -/
def calAt (s : State) (i : Nat) : CalEntry := tget .empty s.lt.cal i
def setCal (i : Nat) (e : CalEntry) (s : State) : State := { s with lt := { s.lt with cal := tset .empty s.lt.cal i e } }

/-- The position at which an entry issues: an entry that the late rule has moved issues at a cycle boundary (R48). -/
def calPos (e : CalEntry) : Nat := e.frame * phasesPerFrame + (if e.moved then 0 else e.phase)

/-- Entries that a Seat holds; its limit. -/
def calHeld (s : State) (seat : Nat) : Nat := (s.lt.cal.filter (fun e => e.2.kind ≠ 0 ∧ e.2.seat = seat)).length
def calLimit (s : State) (seat : Nat) : Nat := min 1024 (rbits s (kP (0x1200 + 4 * seat)) 0 11)

/-- The lowest free index, when the Seat may hold one more (R43). -/
def calFree (s : State) (seat : Nat) : Option Nat :=
  if calLimit s seat ≤ calHeld s seat then none else (List.range 1024).find? (fun i => (calAt s i).kind = 0)

/-- The delta of an entry. -/
def mirrorCal (mgmt : Bool) (i : Nat) (s : State) : State :=
  let e := calAt s i
  if e.kind = 0 then mirrorDelete mgmt 4 i noSeq s else mirrorItem mgmt 4 i e.seq (toBytes 16 (calImage e)) s

/-- The object of a block action is OWNED by the Seat; the action is one of the table (R42). -/
def actionOk (s : State) (seat t : Nat) : Bool :=
  if 0x100 ≤ t ∧ t < 0x104 then (ownedPhys s seat 200 (t - 0x100)).isSome
  else if 0x200 ≤ t ∧ t < 0x208 then (ownedPhys s seat 152 (t - 0x200)).isSome
  else if t = 0x300 then (ownedPhys s seat 204 0).isSome
  else if 0x400 ≤ t ∧ t < 0x418 then (ownedPhys s seat 174 (t - 0x400)).isSome
  else false

/-- The target of an entry is one that the Seat may name (R43). -/
def calTargetOk (s : State) (seat kind t : Nat) : Bool :=
  match kind with
  | 1 => (ownedPhys s seat 48 t).isSome
  | 2 => decide (t < 64)
  | 4 => actionOk s seat t
  | 5 => (ownedPhys s seat 112 t).isSome
  | _ => false

/-- A CAL record of an agent (R45): the entry before and after. -/
def calRecord (a : Agent) (i old new : Nat) (s : State) : Option State :=
  ledgerMgmt a 6 (0x04000000 + i) (old % 2 ^ 32) (new % 2 ^ 32) false (valueConts 16 old new) s

/-- ADD (R43): outcome and index. DESIGN CHOICE (entry 36): a TARGET_PHASE of 19 440 or more, outside R41's range, ends REFUSED_SEAT. -/
def calAdd (a : Agent) (v : Nat) (tod : Bool) (s : State) : Nat × Nat × State :=
  let kind := bits v 80 4
  let cls := bits v 84 3
  let target := bits v 96 16
  let ct := rget s (kS a.seat 0x1088)
  let pos := if tod then todToPos s (bits ct 32 48) (bits ct 0 32) else ((bits v 0 48 * phasesPerFrame + bits v 48 16 : Nat) : Int)
  if mirrorRefused s ∨ cls = 0 ∨ ¬ calTargetOk s a.seat kind target ∨ (¬ tod ∧ phasesPerFrame ≤ bits v 48 16) then (oSeat, 0, s)
  else
    match calFree s a.seat with
    | none => (oCapacity, 0, s)
    | some i =>
        let put (o p : Nat) (moved : Bool) : Nat × Nat × State :=
          let e : CalEntry := { frame := p / phasesPerFrame, phase := (pos % phasesPerFrame).toNat, repeatN := bits v 64 16, kind := kind, cls := cls
                                seat := a.seat, target := target, arg := bits v 112 16, fromEpoch := false, seq := ledgerSeq s
                                moved := moved, reqFrame := pos / phasesPerFrame }
          match calRecord a i 0 (calImage e) s with
          | none => (oLedger, 0, s)
          | some t => (o, i, mirrorCal true i (setCal i { e with seq := lastSeq t } t))
        match lateRule s pos with
        | .onTime p => put oDone p false
        | .delayed p => put oDelayed p true
        | .late => (oLate, 0, s)

/-- REMOVE (R45): outcome. -/
def calRemove (a : Agent) (i : Nat) (s : State) : Nat × State :=
  let e := calAt s i
  if mirrorRefused s ∨ e.kind = 0 ∨ e.kind = 3 ∨ (e.seat ≠ a.seat ∧ a.seat ≠ 0) then (oSeat, s)
  else
    match calRecord a i (calImage e) 0 s with
    | none => (oLedger, s)
    | some t => (oDone, mirrorCal true i (setCal i .empty t))

/-- A write of LT_CAL_CTL (R43, R45): a write with both ADD and REMOVE, or neither, does nothing. -/
def calControl (a : Agent) (v : Nat) (s : State) : Nat × State :=
  if bit v 0 = bit v 1 then (oDone, s)
  else if bit v 0 then
    let (o, i, t) := calAdd a (rget s (kS a.seat 0x10A0)) (bit v 2) s
    (o, countOutcome a.seat o (modSeatLt a.seat (fun x => { x with calOutcome := o, calIndex := i }) t))
  else
    let (o, t) := calRemove a (bits v 16 10) s
    (o, countOutcome a.seat o (modSeatLt a.seat (fun x => { x with calOutcome := o }) t))

/-- An issue that ends other than DONE (R42): LT_CAL_LAST and CAL_FAILED. -/
def calFailed (seat kind i outcome : Nat) (s : State) : State :=
  setCause seat 0x20014 9 (countOutcome seat outcome (modSeatLt seat (fun x => { x with lastOutcome := outcome, lastKind := kind, lastIndex := i }) s))

end Sys2Proof.Machine
end

