-- ==== Sys2Proof/Machine/Lt.lean ====
section
/-!
DEFINITION. Line Time: timing inputs (R27, R28), the reference followed (R29, R30), slewing, realignment and count alignment (R32 to R34), LT states
(R36), the count (R38, R39), and the frame that a boundary starts. A prediction is an LT position, since the NCO that predicts also drives LT.
-/
namespace Sys2Proof.Machine

open Sys2Proof

/-- LT_STATUS.STATE codes. -/
def LtMode.code : LtMode → Nat
  | .acquire => 0 | .locked => 1 | .holdover => 2 | .freeRun => 3

/-- The number of an input in LT_REF_SEL and REF_ACTIVE. -/
def timNum : TimingSel → Nat
  | .fsync => 0 | .mfsync => 1 | .pps => 2

/-- Frames between edges, and in-window edges to qualify (R28). -/
def timFrames : TimingSel → Nat
  | .fsync => 1 | .mfsync => 4 | .pps => 8000
def timNeed : TimingSel → Nat
  | .fsync => 16 | .mfsync => 16 | .pps => 4

/-- The three inputs. -/
def timingSels : List TimingSel := [.fsync, .mfsync, .pps]

/-- What is kept for an input. -/
def timingIn (s : State) : TimingSel → TimingIn
  | .fsync => s.lt.fsync | .mfsync => s.lt.mfsync | .pps => s.lt.pps

/-- Replace it. -/
def setTiming (i : TimingSel) (x : TimingIn) (s : State) : State :=
  match i with
  | .fsync => { s with lt := { s.lt with fsync := x } }
  | .mfsync => { s with lt := { s.lt with mfsync := x } }
  | .pps => { s with lt := { s.lt with pps := x } }

/-- LT_REF_SEL: the ranked references, REVERT, WINDOW; LT_CTL.COUNT_SRC. -/
def refRanks (s : State) : List Nat :=
  let v := rget s (kP 0x1008)
  [bits v 0 2, bits v 2 2, bits v 4 2].filter (· ≠ 3)
def refWindow (s : State) : Nat := rbits s (kP 0x1008) 8 8
def countSrc (s : State) : Nat := rbits s (kP 0x1004) 0 2

/-- An LT_EVENT record (R30). -/
def ltRecord (ident old new : Nat) (s : State) : State := ledgerHw 0 0xE (0xFF000000 + ident) (old % 2 ^ 32) (new % 2 ^ 32) false [] s

/-- A change of LT state (R30, R36): record, HOLDOVER count and the fault source of the state entered. -/
def setLtMode (m : LtMode) (s : State) : State :=
  if s.lt.mode = m then s
  else
    let s1 := ltRecord 0 s.lt.mode.code m.code { s with lt := { s.lt with mode := m, everLocked := s.lt.everLocked || m == .locked } }
    match m with
    | .holdover => faultRaise 9 { s1 with lt := { s1.lt with evHoldover := satAdd 255 s1.lt.evHoldover 1 } }
    | .freeRun => faultRaise 10 s1
    | _ => s1

/-- A change of the reference followed (R29, R30): the new one slews or realigns at its next edge (R33). -/
def setRef (r : Nat) (s : State) : State :=
  if s.lt.ref = r then s
  else faultRaise 8 (ltRecord 1 s.lt.ref r
    { s with lt := { s.lt with ref := r, phaseOk := decide (r ≠ 3), realignDue := decide (r ≠ 3), slew := 0 } })

/-- An enabled and qualified reference. -/
def refQualified (s : State) (r : Nat) : Bool :=
  (refRanks s).contains r && timingSels.any (fun i => timNum i == r && (timingIn s i).qualified)

/-- The reference to follow (R29). -/
def refChoice (s : State) : Nat :=
  let best := ((refRanks s).find? (refQualified s)).getD 3
  if refQualified s s.lt.ref ∧ ¬ rbit s (kP 0x1008) 6 then s.lt.ref else best

/-- The count is established (R38): LOCKED while a reference is followed. -/
def establish (s : State) : State :=
  let s1 := { s with lt := { s.lt with countOk := true } }
  if s1.lt.mode = .acquire ∧ s1.lt.phaseOk then setLtMode .locked s1 else s1

/-- Follow the reference of R29 and change state as R36 states. -/
def reselect (s : State) : State :=
  if s.lt.mode = .freeRun then s
  else if refChoice s = 3 then setRef 3 (if s.lt.mode = .locked then setLtMode .holdover s else s)
  else
    let s1 := setRef (refChoice s) s
    match s1.lt.mode with
      | .acquire => if s1.lt.countOk ∨ countSrc s1 = 0 then establish s1 else s1
      | .holdover => setLtMode .locked s1
      | _ => s1

/-- A learnt NCO period within the capture range (the filter is open), and FREQ_OFFSET from it. -/
def ncoLearn (s : State) : State :=
  let (x, s1) := takeFree s
  let d : Int := ((x.toNat % 13045963 : Nat) : Int) - 6522981
  { s1 with lt := { s1.lt with ncoPeriod := ((19440 * 2 ^ 24 : Int) + d).toNat, freqOffset := img 16 (-(d * 1000000000 / (19440 * 2 ^ 24 : Int))) } }

/-- An edge of the followed reference: a new one slews to LT or cuts the frame short (R33); else the offset from its prediction is slewed (R32). -/
def followEdge (p : Nat) (e : Int) (s : State) : State :=
  let s1 := ncoLearn s
  if s1.lt.realignDue then
    let d : Int := if p < 9720 then (p : Int) else (p : Int) - 19440
    let w : Int := refWindow s1
    let s2 := { s1 with lt := { s1.lt with realignDue := false } }
    if -w ≤ d ∧ d ≤ w then { s2 with lt := { s2.lt with slew := d } } else { s2 with lt := { s2.lt with slew := 0, cutPhase := some p } }
  else { s1 with lt := { s1.lt with slew := s1.lt.slew + e } }

/-- Prediction and qualification (R27, R28) at an edge at phase `p`: the offset from the prediction when the edge is in window. -/
def qualifyEdge (i : TimingSel) (s : State) : Option Int × State :=
  let x := timingIn s i
  let pos := nowPos s
  let next := pos + phasesPerFrame * timFrames i
  match x.predicted with
  | none => (none, setTiming i ⟨false, 0, 0, some next⟩ s)
  | some q =>
      let e : Int := (pos : Int) - (q : Int)
      let w : Int := refWindow s
      if -w ≤ e ∧ e ≤ w then
        let run := x.run + 1
        let ok := x.qualified || decide (timNeed i ≤ run)
        (some e, setTiming i ⟨ok, run, 0, some next⟩ s)
      else (none, s)

/-- MF_ALIGN and PPS_ALIGN, or ACQUIRE (R34). -/
def alignOn (s : State) (k : Nat) : Bool := s.lt.mode = .acquire || rbit s (kP 0x1004) k

/-- The mismatch flags of R34 and their fault sources. -/
def setMf (b : Bool) (s : State) : State :=
  let s1 := { s with lt := { s.lt with mfMismatch := b } }
  if b ∧ ¬ s.lt.mfMismatch then faultRaise 12 s1 else s1
def setPps (b : Bool) (s : State) : State :=
  let s1 := { s with lt := { s.lt with ppsMismatch := b } }
  if b ∧ ¬ s.lt.ppsMismatch then faultRaise 13 s1 else s1

/-- Which boundary an MFSYNC or PPS_IN edge at phase `p` marks (R34): the nearest one; the one before only within the window. -/
def markEdge (i : TimingSel) (p : Nat) (s : State) : State :=
  let w := refWindow s
  let before := phasesPerFrame ≤ 2 * p ∨ s.lt.cutPhase = some p
  let bad := decide (s.lt.frame % timFrames i ≠ 0)
  match i with
  | .fsync => s
  | .mfsync =>
      if before then { s with lt := { s.lt with markMf := true } }
      else if p ≤ w then
        let s1 := setMf bad s
        if bad && alignOn s1 2 then { s1 with lt := { s1.lt with lateMf := true } } else s1
      else s
  | .pps =>
      if before then { s with lt := { s.lt with markPps := true } }
      else if p ≤ w then
        let s1 := setPps bad s
        if bad && alignOn s1 3 then { s1 with lt := { s1.lt with latePps := true } } else s1
      else s

/-- Timing inputs are sampled: from entry to FRAMED, while REFCLK155 is present (R28, R70). -/
def timingSampled (s : State) : Bool := decide (2 ≤ s.pwr.stage.code) && s.lt.refclkOk && s.lt.mode != .freeRun && bit s.pwr.vioOk 5

/-- An edge at the present position. -/
def timingEdge (i : TimingSel) (s : State) : State :=
  let p := s.lt.phase
  let s1 := if i = .pps then { s with lt := { s.lt with ppsFrame := s.lt.frame, ppsPhase := p } } else s
  let (e, s2) := if (refRanks s1).contains (timNum i) then qualifyEdge i s1 else (none, s1)
  let s3 := match e with
    | some d =>
        let was := decide (s2.lt.ref = timNum i)
        let t := reselect s2
        if was ∧ t.lt.ref = timNum i then followEdge p d t else t
    | none => s2
  markEdge i p s3

/-- TIMING_INPUT_EDGE (R27): the edge comes at this phase of the frame in progress. A phase that has passed is the present one, and none lies
behind the frame's last. -/
def execTimingInputEdge (i : TimingSel) (phase : BitVec 15) (s : State) : Result :=
  if 19440 ≤ phase.toNat then .fault .noSuchObject
  else if ¬ timingSampled s then .next s
  else .next (timingEdge i { s with lt := { s.lt with phase := max s.lt.phase (min (frameLast s) phase.toNat) } })

/-- The end of the window of an expected edge (R27, R28): a miss; an unqualified run ends with it. -/
def timingMiss (i : TimingSel) (q : Nat) (s : State) : State :=
  let x := timingIn s i
  let followed := decide (s.lt.ref = timNum i)
  let endp := q + refWindow s
  let s1 := if endp / phasesPerFrame = s.lt.frame then { s with lt := { s.lt with phase := max s.lt.phase (min (frameLast s) (endp % phasesPerFrame)) } } else s
  if ¬ x.qualified then setTiming i .reset s1
  else
    let s2 := if followed then { s1 with lt := { s1.lt with evMiss := satAdd 255 s1.lt.evMiss 1 } } else s1
    if 3 ≤ x.misses + 1 then reselect (setTiming i .reset s2)
    else setTiming i { x with misses := x.misses + 1, predicted := some (q + phasesPerFrame * timFrames i) } s2

/-- TIMING_INPUT_MISS (R27): the window of the edge expected next has ended. -/
def execTimingInputMiss (i : TimingSel) (s : State) : Result :=
  match (timingIn s i).predicted with
  | none => .next s
  | some q => .next (if timingSampled s ∧ (q + refWindow s) / phasesPerFrame ≤ s.lt.frame then timingMiss i q s else s)

/-- REFCLK_LOSS (R36): absent for 64 ns. Every input loses its qualification (R28). -/
def execRefclkLoss (s : State) : Result :=
  let s1 := { s with lt := { s.lt with refclkOk := false } }
  if ¬ alive s then .next s1
  else .next (setRef 3 (setLtMode .freeRun { s1 with lt := { s1.lt with fsync := .reset, mfsync := .reset, pps := .reset } }))

/-- REFCLK_RETURN (R36): present for 1 ms. -/
def execRefclkReturn (s : State) : Result :=
  let s1 := { s with lt := { s.lt with refclkOk := true } }
  if alive s ∧ s.lt.mode = .freeRun then .next (setLtMode (if s.lt.countOk then .holdover else .acquire) s1) else .next s1

/-- A change of LT_REF_SEL: only enabled inputs are predicted (R27). -/
def refSelHook (s : State) : State :=
  reselect (timingSels.foldl (fun t i => if (refRanks t).contains (timNum i) then t else setTiming i .reset t) s)

/-- A write of frame value F to LT_FRAME_LOAD is acceptable (R39); the writer is S0. -/
def frameLoadOk (s : State) (f : Nat) : Bool :=
  s.lt.mode = .acquire && countSrc s == 1 && f % 16 == 0 && decide (s.lt.frame + 32 ≤ f)

/-- An accepted load. -/
def frameLoad (f : Nat) (s : State) : State := { s with lt := { s.lt with jump := some (.load f) } }

/-- LT_EVENTS cleared (R30). -/
def clearEvents (s : State) : State := { s with lt := { s.lt with evRealign := 0, evHoldover := 0, evMiss := 0, evAlign := 0 } }

/-- Add to the predictions: LT has moved against the edges by this many phase units. -/
def shiftPredictions (d : Int) (s : State) : State :=
  let f (x : TimingIn) : TimingIn := { x with predicted := x.predicted.map (fun q => ((q : Int) + d).toNat) }
  { s with lt := { s.lt with fsync := f s.lt.fsync, mfsync := f s.lt.mfsync, pps := f s.lt.pps } }

/-- The number that the next boundary starts under R39 and R300, with its record; the jump is used up when it is due. -/
def boundaryJump (n : Nat) : Option CountJump → Option (Nat × Nat)
  | some (.load f) => if n % 16 = 0 ∧ n ≤ f then some (4, f) else none
  | some (.adopt l f) => if l ≤ n ∧ n ≤ f then some (5, f) else none
  | none => none

/-- The smallest number at or after `n` that the rule allows. -/
def ruleUp (m n : Nat) : Nat := (n + m - 1) / m * m

/-- Count alignments due at the boundary (R34): the number to start, with OBJECT, OLD and NEW of each record. -/
def boundaryAligns (s : State) (n : Nat) : Nat × List (Nat × Nat × Nat) :=
  let lt := s.lt
  let step (a : Nat × List (Nat × Nat × Nat)) (m : Nat) (late mark on : Bool) : Nat × List (Nat × Nat × Nat) :=
    let a1 := if late && decide (a.1 < ruleUp m lt.frame + 1) then (ruleUp m lt.frame + 1, a.2 ++ [(3, a.1, ruleUp m lt.frame + 1)]) else a
    if mark && on && decide (a1.1 % m ≠ 0) then (ruleUp m a1.1, a1.2 ++ [(3, a1.1, ruleUp m a1.1)]) else a1
  let a := step (n, []) 4 lt.lateMf lt.markMf (alignOn s 2)
  step a 8000 lt.latePps lt.markPps (alignOn s 3)

/-- The start of the next frame (R31 to R34, R39, R300), before step 1 of R19. A slew is corrected by one period in each frame to come: the frame
that starts takes its share. -/
def startFrame (s : State) : State :=
  let prev := s.lt.frame
  let plain := prev + 1
  let j := boundaryJump plain s.lt.jump
  let n0 := (j.map (·.2)).getD plain
  let (n, acts) := boundaryAligns s n0
  let s0 := if s.lt.markMf then setMf (decide (n0 % 4 ≠ 0)) s else s
  let s1 := if s.lt.markPps then setPps (decide (n0 % 8000 ≠ 0)) s0 else s0
  let adj : Int := if s.lt.slew < 0 then -1 else if 0 < s.lt.slew then 1 else 0
  let cut := s.lt.cutPhase
  let moved : Int := ((n - plain : Nat) : Int) * 19440 + (match cut with | some p => ((19440 - p : Nat) : Int) | none => -s.lt.frameAdj)
  let s2 := shiftPredictions moved { s1 with lt := { s1.lt with
    frame := n, phase := 0, bounds := s1.lt.bounds + 1, slew := s1.lt.slew - adj, frameAdj := adj, cutPhase := none
    markMf := false, markPps := false, lateMf := false, latePps := false, jump := if j.isSome then none else s1.lt.jump
    evRealign := if cut.isSome then satAdd 255 s1.lt.evRealign 1 else s1.lt.evRealign
    evAlign := satAdd 255 s1.lt.evAlign acts.length } }
  let s3 := match cut with
    | some p => faultRaise 11 (ltRecord 2 prev p s2)
    | none => s2
  let s4 := match j with
    | some (k, f) => establish (ltRecord k plain f s3)
    | none => s3
  acts.foldl (fun t a => ltRecord a.1 a.2.1 a.2.2 t) s4

end Sys2Proof.Machine
end

