-- ==== Sys2Proof/Machine/Objects.lean ====
section
/-!
DEFINITION. The object address space as a Seat reads it (R240, R245, R270, R287, R510) and the block streams (R199, R233, R375, R400, R436, R461).
-/
namespace Sys2Proof.Machine

open Sys2Proof

/-- An object address of the two connection ranges, unassigned numbers included (R240). -/
def isConnAddr (a : Nat) : Bool := decide (0x200000 ≤ a ∧ a < 0x2D0000)

/-- The entry and the word of it at a connection address of a Seat: none where it is not fitted; an unassigned number reads 0. -/
def connWord (s : State) (seat a : Nat) (activeOnly : Bool) : Option Nat :=
  match connOfAddr a with
  | none => none
  | some num =>
      if ¬ connAssigned num then some 0
      else
        match connRead s seat num with
        | none => none
        | some n =>
            let v := entryImage s seat n activeOnly
            some (if isHo num then bits v (8 * (a % 8)) 32 else v % 2 ^ 32)

/-- A word of the expectation table: the holder and S0 read it, every other Seat reads 0 (R287). -/
def expectWord (s : State) (seat a : Nat) : Nat :=
  let i := (a - 0x450000) / 64
  match expectAt s i with
  | none => 0
  | some x =>
      if seat ≠ 0 ∧ x.seat ≠ seat then 0
      else
        let port := ((localOf s seat 0 x.body.port).map (·.1)).getD 0
        bits (expectImage s i x port (connAddr (connLocal s seat x.conn))) (8 * (a % 64)) 32

/-- The word at a word-aligned object address as a Seat reads it; none where it is NOT_FITTED. -/
def objWord (s : State) (seat a : Nat) (activeOnly : Bool) : Option Nat :=
  if isConnAddr a then connWord s seat a activeOnly
  else if 0x450000 ≤ a ∧ a < 0x458000 then some (expectWord s seat a)
  else if 0x400000 ≤ a ∧ a < 0x450000 then protWord s seat a
  else none

/-- `n` words of object space from an address on, as bytes; none where some word is NOT_FITTED. -/
def objBytes (s : State) (seat a n : Nat) : Option (List Byte) :=
  ((List.range n).mapM (fun k => objWord s seat (a + 4 * k) false)).map (fun ws => ws.flatMap (toBytes 4))

/-- Monitor channel, camera, tap and Seat records that the streams draw on. -/
def monChan (s : State) (c : Nat) : MonChan := tget (.reset 17) s.mon.chans c
def camAt (s : State) (c : Nat) : Camera := tget .reset s.cam.cams c
def tapAt (s : State) (t : Nat) : CamTap := tget .reset s.cam.taps t
def scanSeat (s : State) (n : Nat) : ScanSeat := tget .reset s.scan.seats n
def radioSeat (s : State) (n : Nat) : RadioSeat := tget .reset s.radio.seats n

/-- Take `n` bytes from a list of records, the first of which may be left in part. -/
def takeRecords {α : Type} : Nat → List (List α) → List α × List (List α)
  | _, [] => ([], [])
  | n, r :: rs =>
      if n = 0 then ([], r :: rs)
      else if n < r.length then (r.take n, r.drop n :: rs)
      else
        let (a, b) := takeRecords (n - r.length) rs
        (r ++ a, b)

/-- The physical stream that a Seat's block stream names, a stream of the Seat's own with its number above: none where the Seat may not use it
(R100, R199, R233). -/
def blockPhys (s : State) (seat st : Nat) (dst : Bool) : Option Nat :=
  let own (c base : Nat) : Option Nat := (ownedPhys s seat c (st - base)).map (base + ·)
  if st < 0x300 then lineStream s seat st dst
  else if dst then none
  else if st < 0x306 then own 160 0x300
  else if 0x330 ≤ st ∧ st < 0x338 then own 144 0x330
  else if st = 0x340 then (if fitted s seat 205 0 || (scanSeat s seat).onRecord then some (st + 0x10000 * seat) else none)
  else if st = 0x350 then (if fitted s seat 204 0 then some (st + 0x10000 * seat) else none)
  else if 0x360 ≤ st ∧ st < 0x378 then (fittedPhys s seat 174 (st - 0x360)).map (0x360 + ·)
  else none

/-- A physical stream's bytes held, or free; none where it refuses a burst (R233). -/
def blockRoom (s : State) (st : Nat) (dst : Bool) : Option Nat :=
  let k := st % 0x10000
  if k < 0x300 then lineRoom s k dst
  else if k < 0x306 then (if rbit s (kP (0x490000 + 0x40 * (k - 0x300))) 0 then some (tapAt s (k - 0x300)).buf.length else none)
  else if k < 0x338 then
    (if rbit s (kP (0x410000 + 0x10000 * (k - 0x330))) 0 then some ((camAt s (k - 0x330)).stream.map (·.length)).sum else none)
  else if k = 0x340 then some (scanSeat s (st / 0x10000)).stream.length
  else if k = 0x350 then some ((radioSeat s (st / 0x10000)).rx.map (·.length)).sum
  else some (monChan s (k - 0x360)).stream.length

/-- Take bytes from a physical source stream that holds them. -/
def blockTake (st n : Nat) (s : State) : List Byte × State :=
  let k := st % 0x10000
  let seat := st / 0x10000
  if k < 0x300 then lineStreamTake k n s
  else if k < 0x306 then
    let x := tapAt s (k - 0x300)
    (x.buf.take n, { s with cam := { s.cam with taps := tset .reset s.cam.taps (k - 0x300) { x with buf := x.buf.drop n } } })
  else if k < 0x338 then
    let x := camAt s (k - 0x330)
    let (a, b) := takeRecords n x.stream
    (a.map (fun v => BitVec.ofNat 8 v), { s with cam := { s.cam with cams := tset .reset s.cam.cams (k - 0x330) { x with stream := b } } })
  else if k = 0x340 then
    let x := scanSeat s seat
    (x.stream.take n, { s with scan := { s.scan with seats := tset .reset s.scan.seats seat { x with stream := x.stream.drop n } } })
  else if k = 0x350 then
    let x := radioSeat s seat
    let (a, b) := takeRecords n x.rx
    (a, { s with radio := { s.radio with seats := tset .reset s.radio.seats seat { x with rx := b } } })
  else
    let x := monChan s (k - 0x360)
    (x.stream.take n, { s with mon := { s.mon with chans := tset (.reset 17) s.mon.chans (k - 0x360) { x with stream := x.stream.drop n } } })

end Sys2Proof.Machine
end

