-- ==== Sys2Proof/Machine/Dma.lean ====
section
/-!
DEFINITION. The DMA engine: descriptors (R199, R200), starts and stops (R201, R202), bursts, credit and arbitration (R203, R204, R485), ends and
write-back (R205), the status word (R207), a change of owner (R208), the loss of the host (R86, R113, R114).
-/
namespace Sys2Proof.Machine

open Sys2Proof

/-- A physical channel. -/
def chanAt (s : State) (c : Nat) : Channel := tget .reset s.dma.chans c
def setChan (c : Nat) (x : Channel) (s : State) : State := { s with dma := { s.dma with chans := tset .reset s.dma.chans c x } }

/-- Its Seat and Seat-local number. -/
def chanSeat (s : State) (c : Nat) : Nat := ownerOf s 112 c
def chanLocal (s : State) (c : Nat) : Nat := ((localOf s (chanSeat s c) 112 c).map (·.1)).getD c

/-- CAP of a Seat in ST_PRI_CAP. -/
def priCap (s : State) (seat : Nat) : Nat := rbits s (kP 0x48020) (4 * seat) 3

/-- A class as a Seat's request is arbitrated (R485). -/
def capClass (s : State) (seat cls : Nat) : Nat :=
  if seat = 0 then cls else if cls = 2 then 3 else if cls = 1 ∧ priCap s seat < 7 then 3 else cls

/-- The class a channel is arbitrated in. -/
def chanClass (s : State) (c : Nat) : Nat := capClass s (chanSeat s c) (rbits s (kP (0x21000 + 0x40 * c)) 0 3)

/-- The burst in flight on a mover; the mover that carries a channel's burst. -/
def moverAt (s : State) (m : Nat) : Option Burst := tget none s.dma.movers m
def setMover (m : Nat) (b : Option Burst) (s : State) : State := { s with dma := { s.dma with movers := tset none s.dma.movers m b } }
def moverOf (s : State) (c : Nat) : Option Nat :=
  (List.range 4).find? (fun m => match moverAt s m with | some b => b.chan == c | none => false)

/-- Credit left in this tick. -/
def dmaCredit (s : State) (seat : Nat) : Nat := tget 0 s.dma.credit seat

/-- The page of a descriptor is VALID with STRAND_WR, and its address is aligned. -/
def descReach (s : State) (seat addr : Nat) : Bool := addr % 32 == 0 && (dataPhys s seat addr).isSome && dataWritable s seat addr

/-- A descriptor from its 32 bytes (R199). -/
def descOf (v : Nat) : Descriptor :=
  { src := bits v 0 64, dst := bits v 64 64, length := bits v 128 32, done := bits v 160 32, srcSpace := bits v 192 3
    dstSpace := bits v 195 3, int := bit v 198, next := bits v 224 32 }

/-- It can be carried out (R199, R200). -/
def descOk (v : Nat) : Bool :=
  let d := descOf v
  decide (d.srcSpace ≤ 3) && (d.dstSpace == 0 || d.dstSpace == 1 || d.dstSpace == 3) && !bit v 199 && bits v 218 6 == 0
    && decide (d.length ≤ 0x1000000)
    && (d.srcSpace != 2 || (d.src % 4 == 0 && decide (d.src < 2 ^ 24) && d.length % 4 == 0 && d.done % 4 == 0))
    && (d.srcSpace != 3 || decide (d.src < 2 ^ 16)) && (d.dstSpace != 3 || decide (d.dst < 2 ^ 16))

/-- The write-back of bytes 20 to 27 under a Seat's map (R205): whether it could be made. -/
def writeBack (seat addr : Nat) (d : Descriptor) (outcome detail : Nat) (stopped unconf : Bool) (s : State) : Bool × State :=
  match dataPhys s seat addr with
  | none => (false, s)
  | some p =>
      if ¬ dataWritable s seat addr then (false, s)
      else
        let b24 := d.srcSpace + 8 * d.dstSpace + 64 * b2n d.int
        let v := d.done + 2 ^ 32 * (b24 + 256 * outcome + 65536 * detail + 2 ^ 24 * (b2n stopped + 2 * b2n unconf))
        (true, mirrorSram (p + 20) 8 (sramWrite s (p + 20) (toBytes 8 v)))

/-- The end of the descriptor in hand (R205) under a Seat's map, NEXT apart; `cause` gives the bit of DMA_INT. -/
def endDescAs (seat c outcome detail : Nat) (stopped unconf : Bool) (cause : State → Option Nat) (s : State) : State :=
  let x := chanAt s c
  match x.desc with
  | none => s
  | some d =>
      let (ok, s1) := writeBack seat x.addr d outcome detail stopped unconf s
      let s2 := setChan c { x with mode := if outcome = oFaulted then .faulted else .idle, desc := none, outcome := outcome, detail := detail
                                   stopped := stopped, unconfirmed := unconf, wbLost := !ok, done := d.done } s1
      let s3 := countOutcome seat outcome s2
      if outcome = oFaulted ∨ d.int then
        match cause s3 with
        | some k => setCause seat 0x21800 k s3
        | none => s3
      else s3

/-- The same for the channel's owner, whose DMA_INT bit is its Seat-local number. -/
def endDesc (seat c outcome detail : Nat) (stopped unconf : Bool) (s : State) : State :=
  endDescAs seat c outcome detail stopped unconf (fun t => (localOf t seat 112 c).map (·.1)) s

/-- A channel whose Seat has no credit left waits (R204). -/
def creditMark (c : Nat) (s : State) : State :=
  let x := chanAt s c
  if x.mode = .active ∧ moverOf s c = none ∧ dmaCredit s (chanSeat s c) = 0 then setChan c { x with mode := .creditWait } s else s

/-- Mark every channel. -/
def creditMarks (s : State) : State := (List.range 32).foldl (fun t c => creditMark c t) s

/-- Take up the descriptor at an address and those that follow it at once (R200, R205). After `n` of them the channel stays ACTIVE with the next in
hand, and goes on at the next DMA_BURST_GRANT. -/
def runDesc : Nat → Nat → Nat → State → State
  | 0, c, addr, s =>
      let d := descOf (bytesVal ((dataRead s (chanSeat s c) addr 32).getD []))
      setChan c { chanAt s c with mode := .active, addr := addr, desc := some d, done := d.done } s
  | n + 1, c, addr, s =>
      let seat := chanSeat s c
      let v := bytesVal ((dataRead s seat addr 32).getD [])
      let d := descOf v
      let s1 := setChan c { chanAt s c with mode := .active, addr := addr, desc := some d, done := d.done } s
      if ¬ descOk v then endDesc seat c oFaulted 0xA false false s1
      else if d.done < d.length then creditMark c s1
      else if d.next = 0 then endDesc seat c oDone 0 false false s1
      else if ¬ descReach s1 seat d.next then endDesc seat c oFaulted 0xA false false s1
      else runDesc n c d.next (endDesc seat c oDone 0 false false s1)

/-- As many descriptors as a Seat's data memory holds. -/
def chainMax : Nat := 8192

/-- The last burst of a descriptor has completed. -/
def doneDesc (c : Nat) (s : State) : State :=
  let seat := chanSeat s c
  match (chanAt s c).desc with
  | none => s
  | some d =>
      if d.next = 0 then endDesc seat c oDone 0 false false s
      else if ¬ descReach s seat d.next then endDesc seat c oFaulted 0xA false false s
      else runDesc chainMax c d.next (endDesc seat c oDone 0 false false s)

/-- A start (R201): outcome. -/
def dmaStart (c addr : Nat) (s : State) : Nat × State :=
  let x := chanAt s c
  if x.mode ≠ .idle ∧ x.mode ≠ .faulted then (oCapacity, s)
  else if ¬ descReach s (chanSeat s c) addr then (oSeat, s)
  else (oDone, runDesc chainMax c addr s)

/-- A stop (R202). -/
def dmaStop (c : Nat) (s : State) : State :=
  let x := chanAt s c
  if x.mode = .active ∨ x.mode = .creditWait then
    if (moverOf s c).isSome then setChan c { x with mode := .stopping } s else endDesc (chanSeat s c) c oDone 0 true false s
  else s

/-- DMA_CH_DESC of a channel. -/
def chanDesc (s : State) (c : Nat) : Nat := rget s (kP (0x21004 + 0x40 * c))

/-- A start from a host path or the calendar: its outcome in START_OUTCOME (R201). -/
def dmaStartBy (c : Nat) (s : State) : Nat × State :=
  let (o, t) := dmaStart c (chanDesc s c) s
  (o, setChan c { chanAt t c with startOutcome := o } t)

/-- A write of DMA_CH_CMD: outcome of the write (R125, R201, R202, R542). -/
def dmaCommand (a : Agent) (c v : Nat) (s : State) : Nat × State :=
  match v % 4 with
  | 0 => (oDone, s)
  | 3 => (oSeat, s)
  | k =>
      match ledgerMgmt a 1 (0x21008 + 0x40 * c) 0 k false [] s with
      | none => (oLedger, s)
      | some t =>
          if k = 1 then
            let (o, u) := dmaStartBy c t
            (oDone, countOutcome (chanSeat s c) o u)
          else (oDone, countOutcome (chanSeat s c) oDone (dmaStop c t))

/-- The channel status word (R207). -/
def chanStatus (s : State) (c : Nat) : Nat :=
  let x := chanAt s c
  let st := match x.mode with
    | .idle => 0 | .active => 1 | .creditWait => 2 | .stopping => 3 | .faulted => 4
  x.outcome + 256 * x.detail + 65536 * st + 2 ^ 19 * b2n x.stopped + 2 ^ 20 * b2n x.unconfirmed + 2 ^ 21 * b2n x.wbLost + 2 ^ 24 * x.startOutcome

/-- Bytes up to the next 256-byte boundary of an address; a stream has none. -/
def toBoundary (space a : Nat) : Nat := if space = 3 then 256 else 256 - a % 256

/-- Length of a descriptor's next burst (R203). -/
def burstLen (d : Descriptor) : Nat :=
  min (d.length - d.done) (min (toBoundary d.srcSpace (d.src + d.done)) (toBoundary d.dstSpace (d.dst + d.done)))

/-- A burst of the same physical stream is in flight. -/
def streamBusy (s : State) (st : Nat) (dst : Bool) : Bool :=
  (List.range 4).any (fun m => match moverAt s m with
    | some b => if dst then b.dstSpace == 3 && b.dstPhys == st else b.srcSpace == 3 && b.srcPhys == st
    | none => false)

/-- The physical stream of a Seat's block stream that takes part in a burst, with the bytes it holds or has free; none where it refuses (R233). -/
def streamSide (s : State) (seat st : Nat) (dst : Bool) : Option (Nat × Nat) :=
  (blockPhys s seat st dst).bind (fun p => (blockRoom s p dst).map (fun n => (p, n)))

/-- A stream side of a burst lets it be granted: it is ready, or it refuses (R233). -/
def sideReady (s : State) (seat space st len : Nat) (dst : Bool) : Bool :=
  space != 3 || (match streamSide s seat st dst with
    | none => true
    | some (p, n) => decide (len ≤ n) && !streamBusy s p dst)

/-- The channel's next burst could be granted on a mover of this kind. -/
def grantable (s : State) (host : Bool) (c : Nat) : Bool :=
  let x := chanAt s c
  match x.desc with
  | none => false
  | some d =>
      let seat := chanSeat s c
      x.mode = .active && (moverOf s c).isNone && (d.srcSpace == 1 || d.dstSpace == 1) == host && decide (0 < dmaCredit s seat)
        && sideReady s seat d.srcSpace d.src (burstLen d) false && sideReady s seat d.dstSpace d.dst (burstLen d) true

/-- The channel that a free mover grants (R204). -/
def nextChan (s : State) (host : Bool) : Option Nat :=
  let cs := (List.range 32).filter (grantable s host)
  let best := (cs.map (chanClass s)).foldl min 7
  let last := tget 32 s.dma.lastGrant best
  (cs.filter (fun c => chanClass s c = best)).foldl (fun b c =>
    match b with
    | none => some c
    | some m => if (c + 63 - last) % 32 < (m + 63 - last) % 32 then some c else some m) none

/-- The Seat's function can reach host memory (R205): DETAIL of the failure. -/
def hostFail (s : State) (seat : Nat) : Option Nat :=
  let f := tget .reset s.host.fns seat
  if ¬ s.host.linkUp ∨ s.host.perst ∨ f.flr then some 5
  else if ¬ f.bme ∨ (seat ≠ 0 ∧ ¬ f.enabled) then some 6
  else none

/-- The burst of a channel as it starts: both sides translated, the on-chip source read (R203). -/
def burstOf (s : State) (c : Nat) (d : Descriptor) : Burst :=
  let seat := chanSeat s c
  let len := burstLen d
  let sa := d.src + d.done
  let da := d.dst + d.done
  let host := if d.srcSpace = 1 ∨ d.dstSpace = 1 then hostFail s seat else none
  let src : Except Nat (Nat × List Byte) :=
    match d.srcSpace with
    | 0 => match dataPhys s seat sa with
      | some p => .ok (p, sramRead s p len)
      | none => .error 1
    | 2 => match objBytes s seat sa (len / 4) with
      | some bs => .ok (sa, bs)
      | none => .error 8
    | 3 => match streamSide s seat d.src false with
      | some (p, _) => .ok (p, (blockTake p len s).1)
      | none => .error 9
    | _ => .ok (sa, [])
  let dst : Except Nat Nat :=
    match d.dstSpace with
    | 0 => match dataPhys s seat da with
      | some p => if dataWritable s seat da then .ok p else .error 2
      | none => .error 2
    | 3 => match streamSide s seat d.dst true with
      | some (p, _) => .ok p
      | none => .error 9
    | _ => .ok da
  let mk (sp dp : Nat) (bs : List Byte) (f : Option Nat) : Burst :=
    ⟨c, seat, len, sp, dp, d.srcSpace, d.dstSpace, bs, f⟩
  match src, dst with
  | .error e, _ => mk sa da [] (some e)
  | _, .error e => mk sa da [] (some e)
  | .ok (sp, bs), .ok dp =>
      mk sp dp bs (if d.srcSpace = 0 ∧ (List.range len).any (fun j => wordBad s (sp + j)) then some 3 else host)

/-- A channel in hand of a descriptor with nothing left to move goes on along its chain (R200). -/
def chainsOn (s : State) : State :=
  (List.range 32).foldl (fun t c =>
    let x := chanAt t c
    match x.desc with
    | some d => if x.mode = .active ∧ (moverOf t c).isNone ∧ d.length ≤ d.done then runDesc chainMax c x.addr t else t
    | none => t) s

/-- Grant the next burst of a mover that is free (R204). -/
def burstGrant (m : Nat) (s0 : State) : State :=
  let s := chainsOn s0
  if (moverAt s m).isSome then s
  else
    match nextChan s (decide (2 ≤ m)) with
    | none => s
    | some c =>
        match (chanAt s c).desc with
        | none => s
        | some d =>
            let seat := chanSeat s c
            let s1 := setMover m (some (burstOf s c d)) s
            let dm := s1.dma
            creditMarks { s1 with dma := { dm with credit := tmod 0 dm.credit seat (· - 1), granted := tmod 0 dm.granted seat (· + 1)
                                                   lastGrant := tset 32 dm.lastGrant (chanClass s c) c } }

/-- DMA_BURST_GRANT (R204). -/
def execDmaBurstGrant (m : BitVec 2) (s : State) : Result := .next (if alive s then burstGrant m.toNat s else s)

/-- A channel that changed owner ends, its former Seat and the number that it had there given, and is IDLE with its registers at reset (R208). -/
def ownerLostEnd (c : Nat) (former : Nat × Nat) (s : State) : State :=
  let s1 := endDescAs former.1 c oFaulted 7 false false (fun _ => some former.2) s
  let old := rget s1 (kP (0x21000 + 0x40 * c))
  let s2 := rset (rset s1 (kP (0x21000 + 0x40 * c)) 7) (kP (0x21004 + 0x40 * c)) 0
  let s3 := ledgerHwSeat (chanSeat s c) 13 0xB (0x21000 + 0x40 * c) old 7 false [] (setChan c .reset s2)
  mirrorReg false (0x21000 + 0x40 * c) 4 7 (lastSeq s3) s3

/-- A map epoch has changed a channel's owner (R208). -/
def chanOwnerLost (c : Nat) (former : Nat × Nat) (s : State) : State :=
  if (moverOf s c).isSome then setChan c { chanAt s c with lost := some former } s else ownerLostEnd c former s

/-- A burst has ended without writing (R203, R205). -/
def burstFail (c detail : Nat) (s : State) : State :=
  match (chanAt s c).lost with
  | some f => ownerLostEnd c f s
  | none =>
      let host := ((chanAt s c).desc.map (·.dstSpace)) == some 1
      endDesc (chanSeat s c) c oFaulted detail false (detail == 5 && host) s

/-- A burst has written all its bytes: the channel goes on (R203 to R205). -/
def burstDone (b : Burst) (s : State) : State :=
  let x := chanAt s b.chan
  match x.desc with
  | none => s
  | some d =>
      let d1 := { d with done := d.done + b.len }
      let s1 := setChan b.chan { x with desc := some d1, done := d1.done } s
      match x.lost with
      | some f => ownerLostEnd b.chan f s1
      | none =>
          if x.mode = .stopping then endDesc (chanSeat s1 b.chan) b.chan oDone 0 true false s1
          else if d1.length ≤ d1.done then doneDesc b.chan s1
          else creditMark b.chan s1

/-- The bytes of a burst go to its destination: SRAM, the host, a block FIFO with room; none where the FIFO has no room. -/
def burstPut (b : Burst) (data : List Byte) (s : State) : Option State :=
  match b.dstSpace with
  | 0 => some (mirrorSram b.dstPhys b.len (sramWrite s b.dstPhys data))
  | 1 => some { s with dma := { s.dma with lastHostWrite := some (b.seat, b.dstPhys, data) } }
  | _ => if (blockRoom s b.dstPhys true).isSome then lineStreamPut b.dstPhys data s else none

/-- DMA_BURST_COMPLETE (R203): `hostData` are the bytes of a host read. DETAIL ECC raises the SRAM source of the bank (R205). -/
def execDmaBurstComplete (m : BitVec 2) (hostData : List Byte) (s : State) : Result :=
  match moverAt s m.toNat with
  | none => .next s
  | some b =>
      let s1 := setMover m.toNat none s
      match b.fail with
      | some e => .next (burstFail b.chan e (if e = 3 then Sys2Proof.Machine.faultRaise (24 + b.srcPhys / 0x200000) s1 else s1))
      | none =>
          let data := if b.srcSpace = 1 then hostData else b.data
          if data.length ≠ b.len then .next (burstFail b.chan 4 s1)
          else
            match burstPut b data s1 with
            | none => .next (burstFail b.chan 9 s1)
            | some s2 =>
                let s3 := if b.srcSpace = 3 then (blockTake b.srcPhys b.len s2).2 else s2
                .next (burstDone b s3)

/-- An error that a function reports in its AER status: 5 Surprise Down, 12 Poisoned TLP Received, 14 Completion Timeout, 16 Unexpected Completion
(R113); the fatal one raises source 33, the others 32 (R466; PRESUMED, assumption 45). -/
def aerSet (fn k : Nat) (s : State) : State :=
  let f := tget .reset s.host.fns fn
  faultRaise (if k = 5 then 33 else 32) { s with host := { s.host with fns := tset .reset s.host.fns fn { f with aer := setBit f.aer k } } }

/-- DMA_HOST_COMPLETION_FAULT (R113, R205): no good completion for the host read of mover `m`: none in time, or one with UR or CA. -/
def execDmaHostCompletionFault (m : BitVec 2) (s : State) (timeout : Bool := true) : Result :=
  match moverAt s m.toNat with
  | none => .next s
  | some b =>
      .next (if b.srcSpace = 1 then burstFail b.chan (b.fail.getD 4) (setMover m.toNat none (aerSet b.seat (if timeout then 14 else 16) s)) else s)

/-- Every channel of some Seats with a host-memory transfer in flight stops FAULTED (R86, R113, R114). -/
def dmaHostStop (hit : Nat → Bool) (s : State) : State :=
  (List.range 32).foldl (fun t c =>
    let x := chanAt t c
    match x.desc with
    | none => t
    | some d =>
        if (d.srcSpace = 1 ∨ d.dstSpace = 1) ∧ hit ((x.lost.map (·.1)).getD (chanSeat t c)) then
          let t1 := match moverOf t c with
            | some m => setMover m none t
            | none => t
          burstFail c 5 t1
        else t) s

/-- Step 2 of a tick boundary: the credit of every Seat is its quota, and waiting channels go on (R204, R493). -/
def dmaRefill (s : State) : State :=
  let s1 := { s with dma := { s.dma with granted := [], credit := seats.foldl (fun t n => tset 0 t n (quota s n 0x20C)) [] } }
  (List.range 32).foldl (fun t c =>
    let x := chanAt t c
    if x.mode = .creditWait ∧ 0 < dmaCredit t (chanSeat t c) then setChan c { x with mode := .active } t else t) s1

end Sys2Proof.Machine
end

