-- ==== Sys2Proof/Machine/Image.lean ====
section
/-!
DEFINITION. The correction chain of the camera pipeline on a whole frame (R354, R362 to R365) and the statistics (R372): pure functions of
the lines received and the latched bank.
-/
namespace Sys2Proof.Machine

open Sys2Proof

/-- What a frame is corrected with (R367): its size, mosaic and phase, the bank's words and the valid defects. -/
structure ChainCfg where
  width : Nat
  height : Nat
  mosaic : Nat
  px : Nat
  py : Nat
  word : Nat → Nat
  defects : List (Nat × Nat)

/-- A pixel: its value, and whether it is padding. -/
structure Px where
  value : Nat
  pad : Bool

/-- A frame of pixels by row and column. -/
abbrev Plane := Array (Array Px)

/-- The pixel at a column and row inside the frame. -/
def Plane.at (p : Plane) (x y : Nat) : Px := (p.getD y #[]).getD x ⟨0, true⟩

/-- Build a frame from a function of column and row. -/
def planeOf (w h : Nat) (f : Nat → Nat → Px) : Plane :=
  ((List.range h).map (fun y => ((List.range w).map (fun x => f x y)).toArray)).toArray

/-- Base patterns (R362): kinds 0 R, 1 GA, 2 GB, 3 B, 4 IR. -/
def basePattern : Nat → List (List Nat)
  | 0 => [[1]]
  | 1 => [[0, 1], [2, 3]]
  | 2 => [[0, 1, 3, 1], [2, 4, 2, 4], [3, 1, 0, 1], [2, 4, 2, 4]]
  | 3 => [[0, 1], [2, 2]]
  | _ => [[0, 1], [2, 3]]

/-- The kind of a position, which may lie outside the frame (R362). -/
def kindAt (c : ChainCfg) (x y : Int) : Nat :=
  let b := basePattern c.mosaic
  let p : Int := b.length
  (b.getD ((y + c.py) % p).toNat []).getD ((x + c.px) % p).toNat 0

/-- The kinds that the mosaic has. -/
def kindsOf (c : ChainCfg) : List Nat := (List.range 5).filter (fun k => (basePattern c.mosaic).any (fun r => r.contains k))

/-- A position lies inside the frame. -/
def inFrame (c : ChainCfg) (x y : Int) : Bool := decide (0 ≤ x ∧ x < c.width ∧ 0 ≤ y ∧ y < c.height)

/-- Positions of a square window, in raster order. -/
def window (r : Nat) (x y : Int) : List (Int × Int) :=
  (List.range (2 * r + 1)).flatMap (fun b => (List.range (2 * r + 1)).map (fun a => (x + a - r, y + b - r)))

/-- The nearest pixel of its own kind inside the frame that a window position takes (R363). -/
def nearestIn (c : ChainCfg) (x y : Int) : Option (Nat × Nat) :=
  if inFrame c x y then some (x.toNat, y.toNat)
  else
    let d (q : Int × Int) : Int := (q.1 - x) * (q.1 - x) + (q.2 - y) * (q.2 - y)
    let all := (window 6 x y).filter (fun q => inFrame c q.1 q.2 && kindAt c q.1 q.2 == kindAt c x y)
    let best := all.foldl (fun m q => match m with
      | none => some (d q)
      | some v => some (min v (d q))) none
    let near := all.filter (fun q => some (d q) == best)
    (near[if near.length = 1 then 0 else Config.nearestTie x y near.length % near.length]?).map (fun q => (q.1.toNat, q.2.toNat))

/-- Radius of the window of R363: 3 × 3, 5 × 5 for RGB-IR. -/
def radiusOf (c : ChainCfg) : Nat := if c.mosaic = 2 then 2 else 1

/-- The values of kind `j` in the window of radius `r` around a pixel: padding excluded, and the pixel itself unless `self` (R363). -/
def windowVals (c : ChainCfg) (p : Plane) (r x y j : Nat) (self : Bool) : List Nat :=
  (window r x y).filterMap (fun q =>
    if kindAt c q.1 q.2 = j ∧ (self ∨ q ≠ ((x : Int), (y : Int))) then
      match nearestIn c q.1 q.2 with
      | some (a, b) => if (a = x ∧ b = y ∧ ¬ self) ∨ (p.at a b).pad then none else some (p.at a b).value
      | none => none
    else none)

/-- A quotient rounded to nearest; halfway as `Config.tieUp` says. -/
def roundDiv (n : Int) (d : Nat) : Int :=
  let q := n / (d : Int)
  let r := n % (d : Int)
  if 2 * r < d then q
  else if 2 * r > d then q + 1
  else if Config.tieUp n d then q + 1 else q

/-- Clamp to a pixel value (R364). -/
def pixClamp (v : Int) : Nat := (clampI 0 4095 v).toNat

/-- The neighbour mean of kind `j` (R363). -/
def neighbourMean (c : ChainCfg) (p : Plane) (x y j : Nat) : Nat :=
  let vs := windowVals c p (radiusOf c) x y j false
  if vs = [] then 0 else (roundDiv vs.sum vs.length).toNat

/-- Entries of the bank (bank layout): BLACK, M, L. -/
def bankBlack (c : ChainCfg) (k : Nat) : Nat := bits (c.word (k / 2)) (16 * (k % 2)) 12
def bankM (c : ChainCfg) (k j : Nat) : Int :=
  let i := 5 * k + j
  sgn 16 (bits (c.word (4 + i / 2)) (16 * (i % 2)) 16)
def bankL (c : ChainCfg) (k : Nat) : Nat := bits (c.word (24 + k / 2)) (16 * (k % 2)) 16

/-- The raw frame as delivered: padding takes the black level of its kind (R360). -/
def rawPlane (c : ChainCfg) (lines : List (List (Option Nat))) : Plane :=
  let rows := (lines.map List.toArray).toArray
  planeOf c.width c.height (fun x y =>
    match (rows.getD y #[]).getD x none with
    | some v => ⟨v, false⟩
    | none => ⟨bankBlack c (kindAt c x y), true⟩)

/-- Black level (R364). -/
def blackStage (c : ChainCfg) (p : Plane) : Plane :=
  planeOf c.width c.height (fun x y => let q := p.at x y; { q with value := q.value - bankBlack c (kindAt c x y) })

/-- Cross-talk (R364). -/
def crossStage (c : ChainCfg) (p : Plane) : Plane :=
  planeOf c.width c.height (fun x y =>
    let q := p.at x y
    let k := kindAt c x y
    let sum : Int := ((kindsOf c).map (fun j => bankM c k j * (if j = k then (q.value : Int) else (neighbourMean c p x y j : Nat)))).sum
    { q with value := pixClamp (roundDiv sum 4096) })

/-- Green imbalance (R364): half the difference of the means, toward zero. -/
def greenStage (c : ChainCfg) (p : Plane) : Plane :=
  if ¬ bit (c.word 20) 0 then p
  else
    planeOf c.width c.height (fun x y =>
      let q := p.at x y
      let k := kindAt c x y
      if k ≠ 1 ∧ k ≠ 2 then q
      else
        let a := windowVals c p 2 x y 1 true
        let b := windowVals c p 2 x y 2 true
        if a = [] ∨ b = [] then { q with value := (Config.loneGreen x y q.value).toNat }
        else
          let num : Int := (a.sum * b.length : Nat) - (b.sum * a.length : Nat)
          let den : Nat := a.length * b.length
          let half := Int.tdiv num (2 * den : Nat)
          if num.natAbs ≤ bits (c.word 20) 16 12 * den then
            { q with value := pixClamp (if k = 1 then q.value - half else q.value + half) }
          else q)

/-- Insert into an ascending list. -/
def insertAsc (v : Nat) : List Nat → List Nat
  | [] => [v]
  | w :: ws => if v ≤ w then v :: w :: ws else w :: insertAsc v ws

/-- The lower median (R364). -/
def lowerMedian (vs : List Nat) : Nat := ((vs.foldr insertAsc []).getD ((vs.length - 1) / 2) 0)

/-- Defect correction of a pixel: its replacement, if it is replaced (R360, R364). -/
def defectAt (c : ChainCfg) (p : Plane) (x y : Nat) : Option Nat :=
  let q := p.at x y
  let vs := windowVals c p (radiusOf c) x y (kindAt c x y) false
  let lone := (Config.loneDefect x y q.value).map (·.toNat)
  if c.defects.contains (x, y) then some (if vs = [] then lone.getD q.value else lowerMedian vs)
  else if bit (c.word 21) 0 ∧ ¬ q.pad then
    if vs = [] then lone
    else if vs.all (fun w => decide (bits (c.word 21) 16 12 < (max w q.value) - (min w q.value))) then some (lowerMedian vs)
    else none
  else none

/-- Defect correction of a frame: the corrected mosaic and the pixels replaced (R364, R368). -/
def defectStage (c : ChainCfg) (p : Plane) : Plane × Nat :=
  let fixed := ((List.range c.height).map (fun y => ((List.range c.width).map (fun x => defectAt c p x y)).toArray)).toArray
  let count := (fixed.toList.map (fun r => (r.toList.filter Option.isSome).length)).sum
  (planeOf c.width c.height (fun x y => let q := p.at x y; { q with value := ((fixed.getD y #[]).getD x none).getD q.value }), count)

/-- The corrected mosaic of a frame and the pixels replaced. -/
def correct (c : ChainCfg) (raw : Plane) : Plane × Nat := defectStage c (greenStage c (crossStage c (blackStage c raw)))

/-- i_j at a pixel of the corrected mosaic: its own value for its own kind, else the neighbour mean (R365). -/
def kindValue (c : ChainCfg) (p : Plane) (x y j : Nat) : Nat :=
  if j = kindAt c x y then (p.at x y).value else neighbourMean c p x y j

/-- Y at a pixel (R365). -/
def lumaAt (c : ChainCfg) (p : Plane) (x y : Nat) : Nat :=
  match bits (c.word 22) 0 2 with
  | 0 =>
      let den := ((kindsOf c).map (bankL c)).sum
      if den = 0 then 0 else pixClamp (roundDiv (((kindsOf c).map (fun k => bankL c k * kindValue c p x y k)).sum : Nat) den)
  | 1 => let k := bits (c.word 22) 4 3; if (kindsOf c).contains k then kindValue c p x y k else 0
  | _ => (p.at x y).value

/-- The scan plane by rows (R365). -/
def scanPlane (c : ChainCfg) (p : Plane) : List (List Nat) :=
  (List.range c.height).map (fun y => (List.range c.width).map (fun x => lumaAt c p x y))

/-- Demosaiced RGB at a pixel (R365). -/
def rgbAt (c : ChainCfg) (p : Plane) (x y : Nat) : Nat × Nat × Nat :=
  let v (k : Nat) : Nat := if (kindsOf c).contains k then kindValue c p x y k else 0
  (v 0, pixClamp (roundDiv (v 1 + v 2 : Nat) 2), v 3)

/-- Histogram of a kind: 256 counts of value div 16, padding excluded (R372). -/
def histogram (c : ChainCfg) (p : Plane) (k : Nat) : List Nat :=
  let vals := (List.range c.height).flatMap (fun y => (List.range c.width).filterMap (fun x =>
    let q := p.at x y
    if kindAt c x y = k ∧ ¬ q.pad then some (q.value / 16) else none))
  (vals.foldl (fun (a : Array Nat) v => a.setIfInBounds v (a.getD v 0 + 1)) (Array.replicate 256 0)).toList

/-- The mean of a kind in a zone, in units of 1/16 (R372). -/
def zoneMean (c : ChainCfg) (p : Plane) (zc zr k : Nat) : Nat :=
  let zw := c.width / 64 * 4
  let zh := c.height / 48 * 4
  let nx := if zc = 15 then c.width - 15 * zw else zw
  let ny := if zr = 11 then c.height - 11 * zh else zh
  let vals := (List.range ny).flatMap (fun b => (List.range nx).filterMap (fun a =>
    let x := zc * zw + a
    let y := zr * zh + b
    let q := p.at x y
    if kindAt c x y = k ∧ ¬ q.pad then some q.value else none))
  if vals = [] then 0
  else
    let n := 16 * vals.sum
    if n % vals.length ≠ 0 ∧ Config.roundUp n vals.length then n / vals.length + 1 else n / vals.length

/-- The number of pixels counted (R372). -/
def countedPixels (c : ChainCfg) (p : Plane) : Nat :=
  ((List.range c.height).map (fun y => ((List.range c.width).filter (fun x => ¬ (p.at x y).pad)).length)).sum

/-- The histograms and zones of a set, 7040 bytes (R372). -/
def statsBody (c : ChainCfg) (p : Plane) : List Nat :=
  let ks := kindsOf c
  let hists := (List.range 5).flatMap (fun k => if ks.contains k then histogram c p k else List.replicate 256 0)
  let zones := (List.range 12).flatMap (fun zr => (List.range 16).flatMap (fun zc => (List.range 5).map (fun k =>
    if ks.contains k then zoneMean c p zc zr k else 0)))
  hists.flatMap (leBytes 4) ++ zones.flatMap (leBytes 2)

/-- Unpack a line's payload as CSI-2 packs it, normalised to 12 bits, whole groups only (R354): packing 0 RAW8, 1 RAW10, 2 RAW12. -/
def unpackRaw8 (bs : List Nat) : List Nat := bs.map (fun b => 16 * b)
def unpackRaw10 : List Nat → List Nat
  | a :: b :: c :: d :: e :: r =>
      4 * (4 * a + bits e 0 2) :: 4 * (4 * b + bits e 2 2) :: 4 * (4 * c + bits e 4 2) :: 4 * (4 * d + bits e 6 2) :: unpackRaw10 r
  | _ => []
def unpackRaw12 : List Nat → List Nat
  | a :: b :: e :: r => (16 * a + bits e 0 4) :: (16 * b + bits e 4 4) :: unpackRaw12 r
  | _ => []

/-- Pixels of a payload, and whether a trailing partial group is lost (R358). -/
def unpack (packing : Nat) (bs : List Nat) : List Nat × Bool :=
  match packing with
  | 0 => (unpackRaw8 bs, false)
  | 1 => (unpackRaw10 bs, decide (bs.length % 5 ≠ 0))
  | _ => (unpackRaw12 bs, decide (bs.length % 3 ≠ 0))

end Sys2Proof.Machine
end

