-- ==== Sys2Proof/Machine/Strand.lean ====
section
/-!
DEFINITION. Strands as a host, the calendar and the Keeper see them: ST_CTL (R184, R188, R189), the commands of ST_CMD (R195), the context (R194),
calendar starts (R186), host events, and the end of a cluster's wake (R184).
-/
namespace Sys2Proof.Machine

open Sys2Proof

/-- ST_CTL may be written with this value (R189). -/
def stCtlOk (s : State) (seat v : Nat) : Bool := seat == 0 || decide (bits v 1 3 ≤ priCap s seat)

/-- The power domain of a strand's cluster. -/
def clusterDom (n : Nat) : Nat := 86 + n / 8

/-- A strand's ENABLE is set (R184). One whose abort still waits for its outcome is not yet DISABLED, and that abort then ends in IDLE (R188). -/
def enableStrand (n : Nat) (s : State) : State :=
  let s1 := domUpdate s
  if (strandAt s n).mode ≠ .disabled then s1
  else if domOn s1 (clusterDom n) then reschedule (n / 8) (idleEvents n (modStrand n (fun t => { t with mode := .idle }) s1))
  else modStrand n (fun t => { t with mode := .waking }) s1

/-- ABORT, or ENABLE cleared, by an agent: a strand's own RST stalls it, so the abort waits for that outcome (R188). -/
def abortBy (a : Agent) (n : Nat) (s : State) : State :=
  if a.path = 3 ∧ a.unit = n then modStrand n (fun t => { t with abortDue := true, pending := none }) s else abortStrand n s

/-- What a change of ST_CTL starts. -/
def stCtlHook (a : Agent) (n old new : Nat) (s : State) : State :=
  if ¬ bit old 0 ∧ bit new 0 then enableStrand n s
  else if bit old 0 ∧ ¬ bit new 0 then domUpdate (abortBy a n s)
  else reschedule (n / 8) (idleEvents n s)

/-- The wake of a cluster's domain ends: its WAKING strands enter IDLE (R184). -/
def clusterAwake (k : Nat) (s : State) : State :=
  (List.range 8).foldl (fun t i => if (strandAt t (8 * k + i)).mode = .waking then enterIdle (8 * k + i) t else t) s

/-- RETRY and SKIP (R195). -/
def resumeStrand (n : Nat) (skip : Bool) (s : State) : State :=
  makeRunnable n (fun t => if skip then { t with pc := (t.epc + 4) &&& 0x3FFFFC, prog := 0 } else { t with pc := t.epc }) s

/-- The action of an ST_CMD command (R195): outcome. -/
def stAction (a : Agent) (n cmd : Nat) (s : State) : Nat × State :=
  let m := (strandAt s n).mode
  match cmd with
  | 1 => startStrand n (BitVec.ofNat 32 (stArgOf s n)) s
  | 2 => if m = .trapped then (oDone, resumeStrand n false s) else (oSeat, s)
  | 3 => if m = .trapped then (oDone, resumeStrand n true s) else (oSeat, s)
  | 4 => if m = .disabled then (oSeat, s) else (oDone, abortBy a n s)
  | _ => (oDone, s)

/-- A write of ST_CMD: outcome of the write (R125, R195). -/
def stCommand (a : Agent) (n v : Nat) (s : State) : Nat × State :=
  let cmd := v % 8
  if cmd = 0 ∨ 5 ≤ cmd then (oDone, s)
  else
    match ledgerMgmt a 1 (0x40008 + 0x100 * n) 0 cmd false [] s with
    | none => (oLedger, s)
    | some t =>
        let (o, u) := stAction a n cmd t
        (oDone, countOutcome a.seat o (modStrand n (fun x => { x with lastOutcome := o }) u))

/-- A start by a calendar entry (R186): outcome. -/
def calStartStrand (n arg : Nat) (s : State) : Nat × State :=
  let (o, t) := startStrand n (BitVec.ofNat 32 arg) s
  (o, modStrand n (fun x => { x with lastOutcome := o, startDrop := if o = oCapacity then satAdd 255 x.startDrop 1 else x.startDrop }) t)

/-- The flags in the layout of GETF: Z, N, C, V, T in bits 0 to 4. -/
def flagsWord (f : Flags) : Nat := b2n f.z + 2 * b2n f.n + 4 * b2n f.c + 8 * b2n f.v + 16 * b2n f.t
def flagsOf (v : Nat) : Flags := ⟨bit v 0, bit v 1, bit v 2, bit v 3, bit v 4⟩

/-- A word of ST_CTX by its offset from the strand base (R194). -/
def ctxWord (s : State) (n off : Nat) : Nat :=
  let t := strandAt s n
  match off with
  | 0x20 => t.pc.toNat
  | 0x24 => flagsWord t.flags
  | 0x28 => t.fault.toNat
  | 0x2C => t.faddr.toNat
  | 0x30 => t.epc.toNat
  | 0x34 => t.prog.toNat
  | _ => if 0x40 ≤ off ∧ off < 0x80 then (t.reg ((off - 0x40) / 4)).toNat else 0

/-- The context with a word of it written; RO words stay. -/
def ctxPut (off v : Nat) (t : Strand) : Strand :=
  let w := BitVec.ofNat 32 v
  match off with
  | 0x20 => { t with pc := w &&& 0x3FFFFC }
  | 0x24 => { t with flags := flagsOf v }
  | 0x28 => { t with fault := w &&& 0x1FFFF }
  | 0x34 => { t with prog := w }
  | _ => if 0x40 ≤ off ∧ off < 0x80 then t.setReg ((off - 0x40) / 4) w else t

/-- A write of a word of ST_CTX: outcome (R194). -/
def ctxWrite (a : Agent) (n off v : Nat) (s : State) : Nat × State :=
  let t := strandAt s n
  if t.mode ≠ .idle ∧ t.mode ≠ .trapped then (oSeat, s)
  else
    let u := ctxPut off v t
    if u = t then (oDone, s)
    else
      match ledgerMgmt a 1 (0x40000 + 0x100 * n + off) (ctxWord s n off) (ctxWord (setStrand n u s) n off) false [] s with
      | none => (oLedger, s)
      | some x => (oDone, setStrand n u x)

/-- ST_STATUS (R183, R195). -/
def stStatus (s : State) (n : Nat) : Nat :=
  let t := strandAt s n
  let st := match t.mode with
    | .disabled => 0 | .idle => 1 | .runnable => 2 | .running => 3 | .waiting => 4 | .stalled => 5 | .trapped => 6 | .waking => 7
  st + 8 * b2n t.pending.isSome + 256 * t.lastOutcome + 2 ^ 24 * t.startDrop

/-- A host's write of ST_EVENT_SET0 or 1. -/
def eventSetWrite (seat : Nat) (high : Bool) (v : Nat) (s : State) : State :=
  (setPositions 32 v).foldl (fun t k => setEvent seat (k + if high then 32 else 0) t) s

/-- DOMAIN_WAKE_DONE (R81, R184): the domain's wake ends. -/
def execDomainWakeDone (d : BitVec 7) (s : State) : Result :=
  if 112 ≤ d.toNat then .fault .noSuchObject
  else if domState s d.toNat ≠ .waking then .next s
  else
    let s1 := domUpdate (setDoms d.toNat .on s)
    .next (if 86 ≤ d.toNat ∧ d.toNat < 94 then clusterAwake (d.toNat - 86) s1 else s1)

/-- A strand that has changed owner is cleared for the new one, with its MAP record, its mirrored registers with their deltas (R208, R312). -/
def strandCleared (n : Nat) (s : State) : State :=
  let s1 := ledgerHwSeat (strandSeat s n) 13 0xB (0x40000 + 0x100 * n) (stCtlOf s n) 0 false [] (clearStrand n s)
  domUpdate (mirrorReg false (0x40004 + 0x100 * n) 4 0 noSeq (mirrorReg false (0x40000 + 0x100 * n) 4 0 (lastSeq s1) s1))

/-- The owner of a strand has changed at a map epoch (R208): a STALLED one is cleared when its outcome is known (R188). -/
def strandOwnerLost (n : Nat) (s : State) : State :=
  if (strandAt s n).mode = .stalled then modStrand n (fun t => { t with ownerLost := true, pending := none }) s else strandCleared n s

/-- Strands and DMA channels that have changed owner since `old` meet R208. -/
def ownerChanges (old s : State) : State :=
  if s.regs = old.regs then s
  else
    let s1 := foldUpto 64 (fun n t => if ownerOf t 48 n = ownerOf old 48 n then t else strandOwnerLost n t) s
    foldUpto 32 (fun c t => if ownerOf t 112 c = ownerOf old 112 c then t
      else chanOwnerLost c (ownerOf old 112 c, ((localOf old (ownerOf old 112 c) 112 c).map (·.1)).getD c) t) s1

end Sys2Proof.Machine
end

