-- ==== Sys2Proof/Machine/Camera.lean ====
section
/-!
DEFINITION. The camera pipeline (R350 to R376): receivers, packets, frames, taps, statistics, I²C masters and triggers.
-/
namespace Sys2Proof.Machine

open Sys2Proof

/-- Records of the block by physical number. -/
def rxAt (s : State) (r : Nat) : CamRx := tget .reset s.cam.rx r
def modRx (r : Nat) (f : CamRx → CamRx) (s : State) : State := { s with cam := { s.cam with rx := tmod .reset s.cam.rx r f } }
def modCam (c : Nat) (f : Camera → Camera) (s : State) : State := { s with cam := { s.cam with cams := tmod .reset s.cam.cams c f } }
def modTap (t : Nat) (f : CamTap → CamTap) (s : State) : State := { s with cam := { s.cam with taps := tmod .reset s.cam.taps t f } }
def i2cAt (s : State) (i : Nat) : CamI2c := tget .reset s.cam.i2c i
def modI2c (i : Nat) (f : CamI2c → CamI2c) (s : State) : State := { s with cam := { s.cam with i2c := tmod .reset s.cam.i2c i f } }
def trigAt (s : State) (t : Nat) : CamTrig := tget .reset s.cam.trigs t
def modTrig (t : Nat) (f : CamTrig → CamTrig) (s : State) : State := { s with cam := { s.cam with trigs := tmod .reset s.cam.trigs t f } }

/-- Registers of a receiver and a camera. -/
def crCfg (s : State) (r : Nat) : Nat := rget s (kP (0x400000 + 0x100 * r))
def camCfgOf (s : State) (c : Nat) : Nat := rget s (kP (0x410000 + 0x10000 * c))
def camBindOf (s : State) (c : Nat) : Nat := rget s (kP (0x400800 + 4 * c))

/-- A cause of CAM_INT in each Seat that OWNS or OBSERVES the object; `step` is 1 where each local number has a bit of its own. -/
def camCause (cls p base step : Nat) (s : State) : State :=
  seats.foldl (fun t n => match localOf t n cls p with
    | some (k, _) => setCause n 0x4F0000 (base + step * k) t
    | none => t) s

/-- A receiver's counter (0 SOT_CORR, 1 SOT_ERR, 2 NO_DESKEW, 3 ECC_CORR, 4 ECC_ERR, 5 CRC_ERR, 6 UNSUP, 7 GEN_SHORT, 8 VC_UNUSED, 9 OUTSIDE)
with the RX_ERR cause of every Seat that has a camera on the receiver. -/
def rxCount (r k : Nat) (s : State) : State :=
  let s1 := modRx r (fun x => { x with cnt := tmod 0 x.cnt k (fun v => wrap32 v 1) }) s
  seats.foldl (fun t n =>
    if (List.range 8).any (fun c => bits (camBindOf t c) 0 1 == r && fitted t n 144 c) then setCause n 0x4F0000 14 t else t) s1

/-- The enabled camera bound to a receiver and virtual channel (R353). -/
def camOf (s : State) (r vc : Nat) : Option Nat :=
  (List.range 8).find? (fun c => bits (camBindOf s c) 0 1 == r && bits (camBindOf s c) 4 2 == vc && bit (camCfgOf s c) 0)

/-- Data-type code and packing of a DT value on a receiver (R354). -/
def dtCode (s : State) (r dt : Nat) : Nat × Nat :=
  let u := rget s (kP (0x400004 + 0x100 * r))
  match dt with
  | 0 => (0x2A, 0)
  | 1 => (0x2B, 1)
  | 2 => (0x2C, 2)
  | 3 => (bits u 0 6, bits u 6 2)
  | _ => (bits u 8 6, bits u 14 2)

/-- A data type is a pixel line's (R357). -/
def isPixelDt (s : State) (r code : Nat) : Bool := (List.range 5).any (fun d => (dtCode s r d).1 == code)

/-- The valid part of the static defect list, and whether an entry out of order ended it (R368). -/
def defectScan (e : Nat → Nat) : Nat → Nat → Option (Nat × Nat) → List (Nat × Nat) × Bool
  | 0, _, _ => ([], false)
  | n + 1, i, prev =>
      let v := e i
      if ¬ bit v 31 then ([], false)
      else
        let p := (bits v 0 12, bits v 16 12)
        let ok := match prev with
          | none => true
          | some q => decide (q.2 < p.2 ∨ (q.2 = p.2 ∧ q.1 < p.1))
        if ok then
          let (l, o) := defectScan e n (i + 1) (some p)
          (p :: l, o)
        else ([], true)

/-- The chain's parameters that a frame latched (R367). -/
def chainOf (f : CamFrame) : ChainCfg :=
  { width := bits f.geom 0 13, height := bits f.geom 16 13, mosaic := bits f.cfg 4 3, px := bits f.cfg 8 2, py := bits f.cfg 10 2
    word := fun k => tget 0 f.words k, defects := f.defects }

/-- A frame record (R361) with the camera's number in the reader's numbering left 0. The lines padded are those received short and the missing ones
(R360). -/
def frameRecord (s : State) (f : CamFrame) (flags : Nat) : Nat :=
  f.seq + 2 ^ 32 * f.num + 2 ^ 48 * (16 * f.bank) + 2 ^ 64 * (f.frame % 2 ^ 48) + 2 ^ 112 * f.phase
    + 2 ^ 128 * (s.lt.frame % 2 ^ 48) + 2 ^ 176 * s.lt.phase + 2 ^ 192 * (f.count % 65536)
    + 2 ^ 208 * min 65535 (f.adjusted + (bits f.geom 16 13 - f.lines.length)) + 2 ^ 224 * flags

/-- The record with a reader's number for the camera. -/
def recordFor (fr k : Nat) : Nat := fr + 2 ^ 48 * k

/-- Bits 0 to 11 or 14: the frame is flagged (R361). -/
def isFlagged (flags : Nat) : Bool := (flags &&& 0x4FFF) ≠ 0

/-- Missing lines of a frame, padded (R360), oldest first. -/
def fullLines (f : CamFrame) : List (List (Option Nat)) :=
  let h := bits f.geom 16 13
  f.lines.reverse ++ List.replicate (h - f.lines.length) []

/-- The items that a tap writes for a frame: lines of its crop window, or embedded payloads with their lengths (R374). -/
def tapItems (f : CamFrame) (cfg crop0 crop1 : Nat) : List (List Byte) :=
  let c := chainOf f
  let raw := rawPlane c (fullLines f)
  let xs := (List.range (bits crop1 0 13)).map (fun k => bits crop0 0 13 + k) |>.filter (fun x => decide (x < c.width))
  let ys := (List.range (bits crop1 16 13)).map (fun k => bits crop0 16 13 + k) |>.filter (fun y => decide (y < c.height))
  match bits cfg 4 3 with
  | 0 => ys.map (fun y => xs.flatMap (fun x => toBytes 2 ((raw.at x y).value + 4096 * kindAt c x y)))
  | 1 =>
      let p := (correct c raw).1
      ys.map (fun y => xs.flatMap (fun x => toBytes 2 ((p.at x y).value + 4096 * kindAt c x y)))
  | 2 =>
      let p := (correct c raw).1
      ys.map (fun y => xs.flatMap (fun x => toBytes 2 (lumaAt c p x y)))
  | 3 =>
      let p := (correct c raw).1
      ys.map (fun y => xs.flatMap (fun x => let (a, b, d) := rgbAt c p x y; toBytes 2 a ++ toBytes 2 b ++ toBytes 2 d ++ toBytes 2 0))
  | _ => f.embedded.map (fun b => toBytes 4 b.length ++ b)

/-- Length padded to a multiple of 4. -/
def pad4Len (n : Nat) : Nat := (n + 3) / 4 * 4

/-- What fits of a tap's items: the bytes, lines written, lines dropped (R375). Room is kept for this trailer and the next record and trailer. -/
def tapFit (held : Nat) (items : List (List Byte)) : List Byte × Nat × Nat :=
  items.foldl (fun (acc : List Byte × Nat × Nat) it =>
    if held + 32 + pad4Len (acc.1.length + it.length) + 48 ≤ 65536 then (acc.1 ++ it, acc.2.1 + 1, acc.2.2)
    else (acc.1, acc.2.1, acc.2.2 + 1)) ([], 0, 0)

/-- A tap writes a frame at its close: record, lines, trailer. -/
def tapWrite (f : CamFrame) (c fr : Nat) (e : Nat × Nat × Nat × Nat) (s : State) : State :=
  let t := e.1
  let k := ((localOf s (ownerOf s 160 t) 144 c).map (·.1)).getD 0
  let x := tapAt s t
  let (bs, ok, lost) := tapFit x.buf.length (tapItems f e.2.1 e.2.2.1 e.2.2.2)
  let body := bs ++ List.replicate (pad4Len bs.length - bs.length) 0
  let s1 := modTap t (fun x => { x with buf := x.buf ++ toBytes 32 (recordFor fr k) ++ body ++ toBytes 4 ok ++ toBytes 4 lost
                                        drop := wrap32 x.drop lost }) s
  if lost = 0 then s1 else camCause 160 t 13 0 s1

/-- A statistics set (R372). -/
def statsSet (f : CamFrame) (flags : Nat) (c : ChainCfg) (p : Plane) : List Nat :=
  leBytes 32 (f.seq + 2 ^ 64 * (f.frame % 2 ^ 48) + 2 ^ 112 * f.phase + 2 ^ 192 * countedPixels c p + 2 ^ 224 * flags) ++ statsBody c p

/-- The scan attempts learn that a frame of camera `c` has closed (R387). -/
def scanClosed (seq : Nat) (flagged : Bool) (c : Nat) (s : State) : State :=
  let mine (a : ScanAttempt) : Bool := a.taken = some seq && !a.closed && a.cam == c
  { s with scan := { s.scan with attempts := (s.scan.attempts.filter (fun a => !(mine a && a.done))).map (fun a =>
      if mine a then { a with closed := true, flagged := flagged, closeFrame := s.lt.frame } else a) } }

/-- The scan attempts take the first frame whose FS lies at or after their trigger edge (R388). -/
def scanTakes (seq c : Nat) (s : State) : State :=
  let mine (a : ScanAttempt) : Bool := a.taken.isNone && !a.closed && decide (a.edge ≤ nowPos s) && a.cam == c
  { s with scan := { s.scan with attempts := s.scan.attempts.map (fun a => if mine a then { a with taken := some seq } else a) } }

/-- Close the open frame of a camera with flags of the cause (R359 to R361, R366, R372 to R374). -/
def camClose (c extra : Nat) (s : State) : State :=
  match (camAt s c).cur with
  | none => s
  | some f =>
      let short := decide (f.lines.length < bits f.geom 16 13)
      let flags := f.flags ||| extra ||| (if short then 4 else 0)
      let fr := frameRecord s f flags
      let ch := chainOf f
      let (p, fixed) := correct ch (rawPlane ch (fullLines f))
      let set := statsSet f flags ch p
      let s1 := modCam c (fun x =>
        let full := decide (2 ≤ x.stream.length)
        { x with cur := none, last := fr, defCount := min 4095 fixed, statsNext := some set, closing := some f
                 stream := if full then x.stream else x.stream ++ [set]
                 statDrop := if full then satAdd 65535 x.statDrop 1 else x.statDrop }) s
      let s2 := f.taps.foldl (fun t e => tapWrite f c fr e t) s1
      let s3 := scanClosed f.seq (isFlagged flags) c s2
      let s4 := camCause 144 c 0 1 s3
      let s5 := if isFlagged flags then camCause 144 c 8 0 s4 else s4
      if bit f.cfg 18 then setEvent (ownerOf s5 144 c) (bits f.cfg 12 6) s5 else s5

/-- The taps that take the frame whose FS this is (R374); a tap skips DECIM frames after one that it takes. -/
def tapsFor (c : Nat) (s : State) : List (Nat × Nat × Nat × Nat) × State :=
  (List.range 6).foldl (fun (acc : List (Nat × Nat × Nat × Nat) × State) t =>
    let cfg := rget s (kP (0x490000 + 0x40 * t))
    let mine := bit cfg 0 && fittedPhys s (ownerOf s 160 t) 144 (bits cfg 1 3) == some c
    if ¬ bit cfg 0 then (acc.1, modTap t (fun x => { x with skip := 0 }) acc.2)
    else if ¬ mine then acc
    else if (tapAt acc.2 t).skip ≠ 0 then (acc.1, modTap t (fun x => { x with skip := x.skip - 1 }) acc.2)
    else
      let e := (t, cfg, rget s (kP (0x490004 + 0x40 * t)), rget s (kP (0x490008 + 0x40 * t)))
      (acc.1 ++ [e], modTap t (fun x => { x with skip := bits cfg 8 8 }) acc.2)) ([], s)

/-- The completed jobs that wait for this FS and lie within the guard (R371): 10·(u − t) ≤ GUARD·15552. -/
def ambigNow (s : State) (c : Nat) : List AmbigWait :=
  let guard := rbits s (kP (0x41000C + 0x10000 * c)) 16 8
  (camAt s c).ambigWait.filter (fun w => decide (w.pos < nowPos s ∧ 10 * (nowPos s - w.pos) ≤ guard * 15552))

/-- Set AMBIG in a completion record. -/
def markAmbig (w : AmbigWait) (s : State) : State :=
  modI2c w.master (fun x => { x with ring := tmod 0 x.ring w.record (fun v => setBit v 24) }) s

/-- Contents of a bank, or of any 256 words, as an array. -/
def latchWords (s : State) (base : Nat) : Tab Nat :=
  (List.range 256).foldl (fun t k => tset 0 t k (rget s (kP (base + 4 * k)))) []

/-- An FS of a camera: the open frame closes with NO_FE, the next opens (R359, R367, R370, R371). -/
def camFs (c num : Nat) (s : State) : State :=
  let s0 := camClose c 0x10 s
  let amb := ambigNow s0 c
  let s1 := amb.foldl (fun t w => markAmbig w t) s0
  let x := camAt s1 c
  let seq := (x.seq + 1) % 2 ^ 32
  let due := x.switches.filter (fun w => w.1 = seq)
  let bank := match due.getLast? with
    | some w => w.2
    | none => if x.bankWritten then rbits s1 (kP (0x410004 + 0x10000 * c)) 0 2 else x.bank
  let ambSeqs := x.ambigSeqs ++ amb.map (·.due)
  let base := 0x410000 + 0x10000 * c
  let (taps, s2) := tapsFor c s1
  let (defs, order) := defectScan (fun i => rget s1 (kP (base + 0x2000 + 4 * i))) 256 0 none
  let flags := (if bank ≠ x.bank then 0x1000 else 0) + (if ambSeqs.contains seq then 0x2000 else 0) + (if x.orphan then 0x4000 else 0)
  let f : CamFrame :=
    { seq := seq, num := num, bank := bank, frame := s1.lt.frame, phase := s1.lt.phase, bound := s1.lt.bounds, flags := flags
      words := latchWords s1 (base + 0x1000 + 0x400 * bank), defects := defs, cfg := camCfgOf s1 c
      geom := rget s1 (kP (base + 8)), time := rget s1 (kP (base + 0xC)), taps := taps, lines := [], count := 0
      adjusted := 0, embedded := [] }
  scanTakes seq c (modCam c (fun x => { x with
    seq := seq, cur := some f, bank := bank, bankWritten := false, orphan := false, defOrder := order, ambigWait := []
    switches := x.switches.filter (fun w => w.1 ≠ seq), ambigSeqs := ambSeqs.filter (fun n => n ≠ seq) }) s2)

/-- An FE of a camera (R359). -/
def camFe (r c num : Nat) (s : State) : State :=
  match (camAt s c).cur with
  | none => rxCount r 9 s
  | some f => camClose c (if num ≠ 0 ∧ f.num ≠ 0 ∧ num ≠ f.num then 0x800 else 0) s

/-- Set flags in the open frame of a camera. -/
def camFlag (c flags : Nat) (s : State) : State :=
  modCam c (fun x => { x with cur := x.cur.map (fun f => { f with flags := f.flags ||| flags }) }) s

/-- A long packet outside a frame (R357). -/
def camOrphan (r c : Nat) (s : State) : State := rxCount r 9 (modCam c (fun x => { x with orphan := true }) s)

/-- The payload's CRC fails: counted, and flagged in the open frame (R358). -/
def crcCheck (r c : Nat) (payload : List Byte) (crc : Nat) (s : State) : State :=
  if crc16csi (payload.map (·.toNat)) = crc then s else camFlag c 0x40 (rxCount r 5 s)

/-- A pixel line of the camera's own data type (R358, R360). -/
def camLine (c packing : Nat) (payload : List Byte) (s : State) : State :=
  modCam c (fun x => { x with cur := x.cur.map (fun f =>
    let (px, frag) := unpack packing (payload.map (·.toNat))
    let w := bits f.geom 0 13
    if bits f.geom 16 13 ≤ f.lines.length then { f with count := f.count + 1, flags := f.flags ||| 8 }
    else
      let fl := (if px.length < w then 1 else 0) + (if w < px.length then 2 else 0) + (if frag then 0x400 else 0)
      let line := ((px.take w).map some) ++ List.replicate (w - px.length) none
      { f with lines := line :: f.lines, count := f.count + 1, flags := f.flags ||| fl
               adjusted := f.adjusted + (if fl ≠ 0 then 1 else 0) }) }) s

/-- An HS burst is accepted: receiver enabled and awake, deskewed above 1500 Mbit/s, sync byte good (R351). -/
def rxBurst (r : Nat) (sot : SotRx) (s : State) : Bool × State :=
  if ¬ (bit (crCfg s r) 0 ∧ domOn s (102 + r)) then (false, s)
  else
    let s0 := modRx r (fun x => { x with hsActive := true, clkHs := true }) s
    if 1500 < bits (crCfg s r) 4 12 ∧ ¬ (rxAt s r).deskewOk then (false, rxCount r 2 s0)
    else
      match sot with
      | .ok => (true, s0)
      | .corrected => (true, rxCount r 0 s0)
      | .bad => (false, rxCount r 1 s0)

/-- A packet after its header (R353, R357); `fix` when the header was corrected (R356). -/
def rxPacket (r vc dt data : Nat) (payload : List Byte) (crc : Nat) (fix : Bool) (s : State) : State :=
  match camOf s r vc with
  | none => rxCount r 8 s
  | some c =>
      let s1 := if fix ∧ dt ≠ 0 then camFlag c 0x80 s else s
      if dt = 0 then (if fix then camFlag c 0x80 (camFs c data s1) else camFs c data s1)
      else if dt = 1 then camFe r c data s1
      else if dt < 4 then s1
      else if dt < 8 then rxCount r 6 s1
      else if dt < 0x10 then rxCount r 7 s1
      else if (camAt s1 c).cur.isNone then camOrphan r c s1
      else if dt = 0x12 then
        crcCheck r c payload crc (modCam c (fun x => { x with cur := x.cur.map (fun f => { f with embedded := f.embedded ++ [payload] }) }) s1)
      else if isPixelDt s1 r dt then
        let (code, packing) := dtCode s1 r (((camAt s1 c).cur.map (fun f => bits f.cfg 1 3)).getD 0)
        if code = dt then crcCheck r c payload crc (camLine c packing payload s1) else camFlag c 0x200 s1
      else rxCount r 6 s1

/-- CSI2_PACKET_RECEIVE (R356). -/
def execCsi2PacketReceive (r : BitVec 1) (p : CsiPacket) (s : State) : Result :=
  let (ok, s1) := rxBurst r.toNat p.sot s
  .next (if ¬ ok then s1
  else
    match p.ecc with
    | .ok => rxPacket r.toNat p.vc.toNat p.dt.toNat p.data.toNat p.payload p.crc.toNat false s1
    | .corrected => rxPacket r.toNat p.vc.toNat p.dt.toNat p.data.toNat p.payload p.crc.toNat true (rxCount r.toNat 3 s1)
    | .extension => rxCount r.toNat 6 s1
    | .bad => foldUpto 8 (fun c t => if bits (camBindOf t c) 0 1 = r.toNat then camFlag c 0x100 t else t) (rxCount r.toNat 4 s1))

/-- A packet whose burst and header are good. -/
def goodPacket (r vc dt data : Nat) (payload : List Byte) (crc : Nat) (s : State) : Result :=
  let (ok, s1) := rxBurst r .ok s
  .next (if ok then rxPacket r vc dt data payload crc false s1 else s1)

/-- FRAME_START (R359). -/
def execFrameStart (r : BitVec 1) (vc : BitVec 2) (num : BitVec 16) (s : State) : Result := goodPacket r.toNat vc.toNat 0 num.toNat [] 0 s

/-- FRAME_END (R359). -/
def execFrameEnd (r : BitVec 1) (vc : BitVec 2) (num : BitVec 16) (s : State) : Result := goodPacket r.toNat vc.toNat 1 num.toNat [] 0 s

/-- PIXEL_LINE (R358). -/
def execPixelLine (r : BitVec 1) (vc : BitVec 2) (dt : BitVec 6) (payload : List Byte) (crc : BitVec 16) (s : State) : Result :=
  goodPacket r.toNat vc.toNat dt.toNat payload.length payload crc.toNat s

/-- EMBEDDED_DATA (R357). -/
def execEmbeddedData (r : BitVec 1) (vc : BitVec 2) (payload : List Byte) (crc : BitVec 16) (s : State) : Result :=
  goodPacket r.toNat vc.toNat 0x12 payload.length payload crc.toNat s

/-- FRAME_TIMEOUT (R359): FRAME_TO frames have passed since the FS. -/
def execFrameTimeout (c : BitVec 3) (s : State) : Result :=
  .next (match (camAt s c.toNat).cur with
  | some f =>
      if (f.bound + bits f.time 0 16) * phasesPerFrame + f.phase ≤ s.lt.bounds * phasesPerFrame + s.lt.phase then camClose c.toNat 0x30 s else s
  | none => s)

/-- LINK_IDLE_TIMEOUT (R359): the receiver has left HS operation for 1 ms. -/
def execLinkIdleTimeout (r : BitVec 1) (s : State) : Result :=
  let s1 := modRx r.toNat (fun x => { x with hsActive := false, clkHs := false }) s
  .next (foldUpto 8 (fun c t => if bits (camBindOf t c) 0 1 = r.toNat then camClose c 0x10 t else t) s1)

/-- SCAN_PLANE_COMPLETE (R366): the scan plane of the frame that has closed. -/
def execScanPlaneComplete (c : BitVec 3) (s : State) : Result :=
  .next (modCam c.toNat (fun x => match x.closing with
  | some f =>
      let ch := chainOf f
      { x with closing := none, planeSeq := f.seq, plane := scanPlane ch (correct ch (rawPlane ch (fullLines f))).1 }
  | none => x) s)

/-- DESKEW_BURST (R351): the v1.2 initial deskew burst. -/
def execDeskewBurst (r : BitVec 1) (s : State) : Result :=
  let cfg := crCfg s r.toNat
  .next (if bit cfg 0 ∧ bit cfg 1 ∧ domOn s (102 + r.toNat) then
    modRx r.toNat (fun x => { x with deskewOk := true, hsActive := true, clkHs := true }) s else s)

/-- A CR_CFG write is allowed (R350): while EN = 0, or one that changes EN alone; the rate within the PHY version's range. -/
def crCfgOk (old v : Nat) : Bool :=
  (!bit old 0 || old / 2 == v / 2) && decide (80 ≤ bits v 4 12) && decide (bits v 4 12 ≤ if bit v 1 then 2500 else 1500)

/-- After a CR_CFG write: DESKEW_OK counts from the setting of EN. -/
def crCfgHook (r old new : Nat) (s : State) : State :=
  if bit old 0 = bit new 0 then s else modRx r (fun x => { x with deskewOk := false, hsActive := false, clkHs := false }) s

/-- Outcome of a CAM_BIND write (R353). -/
def camBindOutcome (s : State) (c v : Nat) : Nat :=
  if (List.range 8).any (fun d => d ≠ c && bits (camBindOf s d) 0 1 == bits v 0 1 && bits (camBindOf s d) 4 2 == bits v 4 2) then oCapacity
  else if bit (camCfgOf s c) 0 then oSeat
  else oDone

/-- A CAM_CFG write is allowed (R355, R362): format and mosaic change only while EN = 0, and every field is in range. -/
def camCfgOk (old v : Nat) : Bool :=
  let m := bits v 4 3
  let period := if m = 0 then 1 else if m = 2 then 4 else 2
  (!bit old 0 || (bits old 1 11 == bits v 1 11)) && decide (bits v 1 3 ≤ 4) && decide (m ≤ 4)
    && decide (bits v 8 2 < period) && decide (bits v 10 2 < period)

/-- A CAM_GEOM write is allowed (R355). -/
def camGeomOk (s : State) (c old v : Nat) : Bool :=
  let w := bits v 0 13
  let h := bits v 16 13
  (!bit (camCfgOf s c) 0 || old == v) && decide (w % 4 = 0 ∧ 64 ≤ w ∧ w ≤ 4096) && decide (h % 4 = 0 ∧ 16 ≤ h ∧ h ≤ 4096)

/-- A CAM_TIME write is allowed (R355): FRAME_TO from 8 on. -/
def camTimeOk (v : Nat) : Bool := decide (8 ≤ bits v 0 16)

/-- After a CAM_CFG write: clearing EN closes the open frame (R359). -/
def camCfgHook (c old new : Nat) (s : State) : State := if bit old 0 ∧ ¬ bit new 0 then camClose c 0x10 s else s

/-- After a CAM_CTL write: the next FS takes BANK unless a switch is due (R370). -/
def camCtlHook (c : Nat) (s : State) : State := modCam c (fun x => { x with bankWritten := true }) s

/-- The fields of a job keep the layout of R369. -/
def jobOk (v : Nat) : Bool :=
  !bit v 7 && decide (bits v 8 2 ≤ 2) && bits v 12 4 == 0 && decide (bits v 16 8 ≤ 16) && bits v 29 3 == 0
    && decide (1 ≤ bits v 32 8 ∧ bits v 32 8 ≤ 15) && bits v 40 24 == 0 && bits v 80 16 == 0

/-- SUBMIT of CI_CMD by a Seat on a master it OWNS, with the job of its path (R369). -/
def ciSubmit (a : Agent) (i job : Nat) (s : State) : State :=
  let x := i2cAt s i
  let cam := ownedPhys s a.seat 144 (bits job 24 3)
  let tagged := bit job 11
  let fin (code : Nat) (s : State) : State := countOutcome a.seat code (modI2c i (fun x => { x with outcome := code }) s)
  if ¬ jobOk job ∨ (tagged ∧ cam.isNone) then fin oSeat s
  else if 16 ≤ x.queue.length then fin oCapacity s
  else
    let sf := bits job 96 32
    let start := frame32 s sf
    let j : I2cJob := { ident := x.nextId, seat := a.seat, body := job, cam := cam.getD 0, start := if sf = 0 then 0 else start
                        late := decide (sf ≠ 0 ∧ start * phasesPerFrame < nowPos s) }
    fin oDeferred (modI2c i (fun x => { x with queue := x.queue ++ [j], ident := x.nextId, nextId := (x.nextId + 1) % 256 }) s)

/-- CI_CMD (R369): FLUSH, then SUBMIT. -/
def ciCommand (a : Agent) (i job v : Nat) (s : State) : State :=
  let s1 := if bit v 1 then modI2c i (fun x => { x with queue := [] }) s else s
  if bit v 0 then ciSubmit a i job s1 else s1

/-- The camera I²C masters run: from LOADED on (R64), bank VIO_C present (R62). -/
def camI2cRuns (s : State) : Bool := decide (3 ≤ s.pwr.stage.code) && bit s.pwr.vioOk 2

/-- I2C_JOB_START (R369): the master runs and is free, and the first job's start has come. -/
def execI2cJobStart (i : BitVec 1) (s : State) : Result :=
  let x := i2cAt s i.toNat
  .next (match x.running, x.queue with
  | none, j :: q =>
      if ¬ camI2cRuns s then s
      else if j.start = 0 ∨ j.late ∨ j.start ≤ s.lt.frame then modI2c i.toNat (fun x => { x with running := some j, queue := q }) s else s
  | _, _ => s)

/-- A job ends: its completion record, the switch that a tagged job sets, the causes (R369 to R371), its final outcome in
the submitter's books (R486). -/
def i2cEnd (i detail : Nat) (data : List Byte) (s : State) : State :=
  match (i2cAt s i).running with
  | none => s
  | some j =>
      let outcome := if detail ≠ 0 then oFaulted else if j.late then oDelayed else oDone
      let set := bit j.body 11 && detail == 0
      let seq := (camAt s j.cam).seq
      let due := (seq + bits j.body 32 8) % 2 ^ 32
      let x := i2cAt s i
      let rd := if bit j.body 10 then bytesVal (data.take (bits j.body 16 8)) else 0
      let fr := outcome + 2 ^ 8 * detail + 2 ^ 16 * j.ident + 2 ^ 25 * b2n set + 2 ^ 32 * ltImage (nowPos s)
        + 2 ^ 96 * (if set then seq else 0) + 2 ^ 128 * rd
      let s1 := modI2c i (fun x => { x with running := none, ring := tset 0 x.ring x.next fr, next := (x.next + 1) % 16 }) s
      let s2 := if set then
          modCam j.cam (fun c => { c with switches := c.switches ++ [(due, bits j.body 27 2)]
                                          ambigWait := c.ambigWait ++ [⟨i, x.next, nowPos s, due⟩] }) s1
        else s1
      let s3 := camCause 198 i 10 1 (countOutcome j.seat outcome s2)
      let s4 := if detail ≠ 0 then camCause 198 i 12 0 s3 else s3
      if detail = 3 then faultRaise (376 + i) s4 else s4

/-- I2C_JOB_COMPLETE (R370): the STOP condition, or a NACK or a stuck bus. -/
def execI2cJobComplete (i : BitVec 1) (detail : BitVec 2) (data : List Byte) (s : State) : Result := .next (i2cEnd i.toNat detail.toNat data s)

/-- I2C_STRETCH_TIMEOUT (R369). -/
def execI2cStretchTimeout (i : BitVec 1) (s : State) : Result := .next (i2cEnd i.toNat 4 [] s)

/-- Time comes to a position that lies ahead in the frame in progress, at most to the frame's last phase. -/
def advanceTo (pos : Nat) (s : State) : State :=
  if pos / phasesPerFrame = s.lt.frame ∧ s.lt.phase < pos % phasesPerFrame then
    { s with lt := { s.lt with phase := max s.lt.phase (min (frameLast s) (pos % phasesPerFrame)) } } else s

/-- A pulse of trigger t is requested for a target position; width 0 takes TRIG_CFG.WIDTH (R376). -/
def trigRequest (t p w : Nat) (s : State) : State :=
  let width := if w = 0 then rbits s (kP (0x4B0000 + 0x10 * t)) 16 16 else w
  modTrig t (fun x => { x with due := x.due ++ [(p + 160, width)] }) s

/-- The earliest pulse requested. -/
def earliestDue : List (Nat × Nat) → Option (Nat × Nat)
  | [] => none
  | d :: ds => match earliestDue ds with
    | none => some d
    | some e => if e.1 < d.1 then some e else some d

/-- TRIGGER_PULSE_START (R376): held below LOADED; with bank VIO_C absent the pin does not drive (R62, R63). -/
def execTriggerPulseStart (t : BitVec 2) (s : State) : Result :=
  let k := t.toNat
  .next (match earliestDue (trigAt s k).due with
  | none => s
  | some d =>
      if s.lt.frame < d.1 / phasesPerFrame then s
      else
        let s1 := advanceTo d.1 (modTrig k (fun x => { x with due := x.due.erase d }) s)
        if s.pwr.stage.code < 3 then modTrig k (fun x => { x with held := satAdd 255 x.held 1 }) s1
        else if ¬ bit s.pwr.vioOk 2 then s1
        else if (trigAt s k).active then
          modTrig k (fun x => { x with until_ := max x.until_ (d.1 + d.2), merge := satAdd 255 x.merge 1 }) s1
        else
          modTrig k (fun x => { x with active := true, until_ := d.1 + d.2, count := satAdd 65535 x.count 1
                                       lastFrame := d.1 / phasesPerFrame, lastPhase := d.1 % phasesPerFrame }) s1)

/-- TRIGGER_PULSE_END (R376). -/
def execTriggerPulseEnd (t : BitVec 2) (s : State) : Result :=
  let x := trigAt s t.toNat
  .next (if x.active ∧ x.until_ / phasesPerFrame ≤ s.lt.frame then
    modTrig t.toNat (fun x => { x with active := false }) (advanceTo x.until_ s) else s)

/-- CAM_STATUS as it stands. -/
def camStatusNow (x : Camera) : Nat :=
  b2n x.cur.isSome + 2 * x.bank + 8 * b2n x.defOrder + 16 * x.defCount + 65536 * x.statDrop

/-- Step 2: the statistics view of a camera (R373). -/
def statsFlip (c : Nat) (s : State) : State :=
  match (camAt s c).statsNext with
  | none => s
  | some set =>
      if rbit s (kP (0x410004 + 0x10000 * c)) 2 then modCam c (fun x => { x with statsNext := none }) s
      else camCause 144 c 9 0 (modCam c (fun x => { x with statsNext := none, stats := set }) s)

/-- Step 2: status and counters of the block (R19, R373). -/
def camFlip (s : State) : State :=
  let s1 := foldUpto 8 statsFlip s
  let rxView (x : CamRx) : CamRx :=
    { x with view := tset 0 (x.cnt.filter (fun e => decide (e.1 < 10))) 10 (b2n x.hsActive + 2 * b2n x.deskewOk + 4 * b2n x.clkHs) }
  let s2 := foldUpto 2 (fun r t => modRx r rxView t) s1
  let v1 := foldUpto 8 (fun c v => tset 0 (tset 0 v c (camStatusNow (camAt s2 c))) (8 + c) (camAt s2 c).seq) ([] : Tab Nat)
  let v2 := foldUpto 6 (fun t v => tset 0 v (16 + t) (tapAt s2 t).drop) v1
  let v3 := foldUpto 4 (fun t v => let x := trigAt s2 t; tset 0 v (24 + t) (x.count + 65536 * x.merge + 2 ^ 24 * x.held)) v2
  { s2 with cam := { s2.cam with view := v3 } }

end Sys2Proof.Machine
end

