-- ==== Sys2Proof/Machine/Scan.lean ====
section
/-!
DEFINITION. The scan engine (R377 to R403): lanterns and strobes, jobs, exposures, finder and decode units, records, self-test.
-/
namespace Sys2Proof.Machine

open Sys2Proof

/-- Change what the engine keeps. -/
def modScan (f : ScanState → ScanState) (s : State) : State := { s with scan := f s.scan }
def modScanSeat (n : Nat) (f : ScanSeat → ScanSeat) (s : State) : State :=
  modScan (fun x => { x with seats := tmod .reset x.seats n f }) s
def unitAt (s : State) (u : Nat) : ScanUnit := tget .reset s.scan.units u
def setUnit (u : Nat) (x : ScanUnit) (s : State) : State := modScan (fun y => { y with units := tset .reset y.units u x }) s

/-- A word of LANT_CFG of a physical lantern. -/
def lantWord (s : State) (l w : Nat) : Nat := rget s (kP (0x502000 + 0x10 * l + 4 * w))
def lantEn (s : State) (l : Nat) : Bool := bit (lantWord s l 0) 0

/-- CRC-8 of a setpoint word over its upper 16 bits (R378): polynomial 0x07, most significant bit first. -/
def crc8 (v : Nat) : Nat :=
  ((List.range 16).reverse).foldl (fun c k =>
    let d := b2n (bit c 7) ^^^ b2n (bit v k)
    ((2 * c) % 256) ^^^ (if d = 1 then 7 else 0)) 0

/-- A setpoint word (R378). -/
def setpointWord (ch sp : Nat) (en : Bool) : Nat :=
  let hi := 8192 * ch + 4096 * b2n en + 4 * sp
  256 * hi + crc8 hi

/-- SETPOINT_WORD_SEND (R378): no pin of the setpoint link drives while bank VIO_D is absent (R62, R63). -/
def sendSetpoint (ch sp : Nat) (en : Bool) (s : State) : State :=
  if ¬ bit s.pwr.vioOk 3 then s
  else modScan (fun x => { x with lastWord := tset 0 x.lastWord ch (setpointWord ch sp en), lastSp := tset 0 x.lastSp ch sp }) s

/-- The eight words of entry to SAFE (R379). -/
def setpointsOff (s : State) : State := foldUpto 8 (fun l t => sendSetpoint l 0 false t) s

/-- The strobe pins are driven as scheduled: from LOADED on (R64, R66), the lantern domain on (R83), bank VIO_D present (R62). -/
def strobesRun (s : State) : Bool := decide (3 ≤ s.pwr.stage.code) && domOn s 111 && bit s.pwr.vioOk 3

/-- Tokens of a strobe (R381). -/
def strobeTokens (s : State) (l sp : Nat) : Nat := (sp * bits (lantWord s l 2) 0 8 + 1022) / 1023

/-- Lantern shedding is in force (R459). -/
def lanternShed (s : State) : Bool := bit s.mon.shed 0

/-- A strobe of the lantern overlaps a span. -/
def spanBusy (s : State) (l start stop : Nat) : Bool := s.scan.strobes.any (fun b => b.lant == l && decide (b.start < stop ∧ start < b.stop))

/-- A stand-alone strobe of the calendar (R382): target position, width; the outcome of its issue. Below LOADED, where no strobe may be asserted
(R66), and on a lantern that a pin fault blocks (R482), it ends as a scan job does there: REFUSED_SEAT (DESIGN CHOICE, assumption 49). -/
def calStrobe (seat l p w : Nat) (s : State) : Nat × State :=
  let sp := bits (lantWord s l 2) 16 10
  let tok := strobeTokens s l sp
  if ¬ (3 ≤ s.pwr.stage.code ∧ rbit s (kP 0x500000) 0 ∧ lantEn s l ∧ ¬ bit s.scan.blocked l ∧ 1 ≤ w ∧ w ≤ bits (lantWord s l 1) 0 24 ∧ sp ≤ bits (lantWord s l 0) 16 10) then (oSeat, s)
  else if lanternShed s then (oBudget, s)
  else if spanBusy s l (p + 9720) (p + 9720 + w) ∨ ¬ tokensFree s seat tok then (oCapacity, s)
  else
    let b : Strobe := { lant := l, start := p + 9720, stop := p + 9720 + w, tokens := tok, seat := seat, active := false }
    (oDone, sendSetpoint l sp true (holdTokens seat tok (modScan (fun x => { x with strobes := x.strobes ++ [b] }) s)))

/-- The strobe to act on: the earliest by `f` among a list. -/
def firstStrobe (f : Strobe → Nat) : List Strobe → Option Strobe
  | [] => none
  | b :: bs => match firstStrobe f bs with
    | none => some b
    | some c => if f c < f b then some c else some b

/-- STROBE_ON (R387): the lantern's strobe pin goes active, unless its EN is 0, a pin fault holds it (R380, R482), or no strobe runs (R62, R66, R83). -/
def execStrobeOn (l : BitVec 3) (s : State) : Result :=
  let k := l.toNat
  .next (match firstStrobe (·.start) (s.scan.strobes.filter (fun b => b.lant == k && !b.active)) with
  | none => s
  | some b =>
      if s.lt.frame < b.start / phasesPerFrame then s
      else
        let t := advanceTo b.start s
        if ¬ lantEn t k ∨ bit t.scan.blocked k ∨ ¬ strobesRun t then t
        else
          modScan (fun x => { x with strobes := x.strobes.map (fun c => if c = b then { c with active := true } else c)
                                     strobeCount := tmod 0 x.strobeCount k (fun n => (n + 1) % 65536) }) t)

/-- STROBE_OFF (R387): the strobe ends; its tokens are released. -/
def execStrobeOff (l : BitVec 3) (s : State) : Result :=
  .next (match firstStrobe (·.stop) (s.scan.strobes.filter (fun b => b.lant == l.toNat)) with
  | none => s
  | some b =>
      if s.lt.frame < b.stop / phasesPerFrame then s
      else dropTokens b.seat b.tokens (modScan (fun x => { x with strobes := x.strobes.erase b }) (advanceTo b.stop s)))

/-- After a write of LANT_CFG word 0: a pin fault's refusal ends (R482), and EN = 0 keeps the strobe pin inactive (R380). -/
def lantHook (l v : Nat) (s : State) : State :=
  modScan (fun x => { x with blocked := clrBit x.blocked l
                             strobes := x.strobes.map (fun b => if b.lant = l ∧ ¬ bit v 0 then { b with active := false } else b) }) s

/-- A job by its identifier. -/
def jobAt (s : State) (i : Nat) : Option ScanJob := s.scan.jobs.find? (fun j => j.ident == i)
def modJob (i : Nat) (f : ScanJob → ScanJob) (s : State) : State :=
  modScan (fun x => { x with jobs := x.jobs.map (fun j => if j.ident = i then f j else j) }) s

/-- The attempt of a job whose record is not written. -/
def attemptAt (s : State) (i : Nat) : Option ScanAttempt := s.scan.attempts.find? (fun a => a.job == i && !a.done)
def modAttempt (i : Nat) (f : ScanAttempt → ScanAttempt) (s : State) : State :=
  modScan (fun x => { x with attempts := x.attempts.map (fun a => if a.job = i ∧ ¬ a.done then f a else a) }) s

/-- Setpoint of local lantern l in a job's body. -/
def jobSp (body l : Nat) : Nat := bits body (320 + 16 * l) 10

/-- ROI of a job lies inside the camera's frame (R384). -/
def roiOk (body geom : Nat) : Bool :=
  let x0 := bits body 256 16
  let y0 := bits body 272 16
  let x1 := bits body 288 16
  let y1 := bits body 304 16
  bits body 256 64 == 0 || decide (x0 ≤ x1 ∧ x1 < bits geom 0 13 ∧ y0 ≤ y1 ∧ y1 < bits geom 16 13)

/-- Reserved fields are 0 and every field is in range (R383). -/
def jobFieldsOk (body : Nat) : Bool :=
  bits body 19 5 == 0 && bits body 27 5 == 0 && bits body 43 5 == 0 && decide (1 ≤ bits body 40 3 ∧ bits body 40 3 ≤ 4)
    && decide (bits body 48 8 ≤ 32) && decide (bits body 56 8 ≤ 32) && decide (bits body 96 16 < phasesPerFrame)
    && (bits body 64 32 != 0 || bits body 96 16 == 0) && bits body 112 16 == 0 && decide (bits body 160 32 ≤ 19440)
    && decide (1 ≤ bits body 192 32 ∧ bits body 192 32 ≤ 155520) && bits body 230 10 == 0 && !bit body 247 && bits body 248 8 == 0
    && bits body 448 64 == 0
    && (List.range 8).all (fun l => bits body (330 + 16 * l) 6 == 0 && (bit body (32 + l) || jobSp body l == 0))

/-- The lantern may be strobed as the job asks (R377, R380, R482). -/
def lantOk (s : State) (seat body l : Nat) : Bool :=
  match ownedPhys s seat 152 l with
  | none => false
  | some p =>
      lantEn s p && decide (jobSp body l ≤ bits (lantWord s p 0) 16 10)
        && decide (bits (lantWord s p 0) 8 8 + bits body 192 32 ≤ bits (lantWord s p 1) 0 24) && !bit s.scan.blocked p

/-- Rights and limits of a job (R377, R384). -/
def jobRights (s : State) (seat body : Nat) : Bool :=
  match ownedPhys s seat 144 (bits body 16 3) with
  | none => false
  | some c =>
      bit (camCfgOf s c) 0 && jobFieldsOk body && roiOk body (rget s (kP (0x410008 + 0x10000 * c)))
        && (bit body 26 || (ownedPhys s seat 200 (bits body 24 2)).isSome)
        && (List.range 8).all (fun l => !bit body (32 + l) || lantOk s seat body l)

/-- Jobs that a Seat holds. -/
def jobsHeld (s : State) (seat : Nat) : Nat := (s.scan.jobs.filter (fun j => j.seat == seat)).length

/-- SUBMIT of a 64-byte job (R384): outcome, job ID or frames to the retry, state. -/
def scanSubmit (seat body : Nat) (s : State) : Nat × Nat × State :=
  let fin (code x : Nat) (t : State) : Nat × Nat × State := (code, x, countOutcome seat code t)
  if s.scan.bistDue ∨ s.scan.bistRun ∨ s.lt.frame < s.scan.retryFrame then fin oSelftest (min 65535 (s.scan.retryFrame - s.lt.frame)) s
  else if ¬ rbit s (kP 0x500000) 0 ∨ s.pwr.stage.code < 3 then fin oSeat 0 s
  else if ¬ jobRights s seat body then fin oSeat 0 s
  else if quota s seat 0x208 ≤ jobsHeld s seat then fin oBudget 0 s
  else if 64 ≤ s.scan.jobs.length then fin oCapacity 0 s
  else
    let sf := bits body 64 32
    let want := if sf = 0 then earliest s * phasesPerFrame else frame32 s sf * phasesPerFrame + bits body 96 16
    let place : Option (Nat × Bool) := match lateRule s want with
      | .onTime p => some (p, false)
      | .delayed p => some (p, true)
      | .late => none
    match place with
    | none => fin oLate 0 s
    | some (p, moved) =>
        let dl := frame32 s (bits body 128 32)
        if dl < p / phasesPerFrame + 4 then fin oLate 0 s
        else
          let i := s.scan.nextId
          let lants := (List.range 8).filterMap (fun l =>
            if bit body (32 + l) then (ownedPhys s seat 152 l).map (fun q => (q, jobSp body l)) else none)
          let j : ScanJob :=
            { ident := i, seat := seat, body := body, cam := (ownedPhys s seat 144 (bits body 16 3)).getD 0
              trig := (ownedPhys s seat 200 (bits body 24 2)).getD 0, lants := lants, pos := p, phase := p % phasesPerFrame
              deadline := dl, tries := 0, moved := moved, shifted := moved, codes := [], busy := false, last := false }
          let t := modScan (fun x => { x with jobs := x.jobs ++ [j], nextId := (i + 1) % 65536 }) s
          fin oDeferred i (modScanSeat seat (fun x => { x with onRecord := true }) t)

/-- Header of a record (R398). -/
def recordHeader (s : State) (j : ScanJob) (outcome detail index nsym ncand nfail : Nat) (last : Bool) (expose : Option Nat)
    (seq flags : Nat) : List Byte :=
  toBytes 1 outcome ++ toBytes 1 detail ++ toBytes 2 j.ident ++ toBytes 1 (bits j.body 16 3 + 16 * (index % 8) + 128 * b2n last)
    ++ toBytes 1 nsym ++ toBytes 1 ncand ++ toBytes 1 nfail
    ++ toBytes 8 (match expose with | some p => ltImage p | none => 2 ^ 64 - 1)
    ++ toBytes 8 (ltImage (nowPos s)) ++ toBytes 4 seq ++ toBytes 2 (bits j.body 0 16) ++ toBytes 1 flags ++ toBytes 1 0

/-- A symbol entry (R398) with its PORT and PROOF bytes. -/
def symEntry (x : SymbolRx) (port proof : Nat) : List Byte :=
  toBytes 1 x.symbology.toNat ++ toBytes 1 (clrBit x.sflags.toNat 0 + b2n (decide (48 < x.data.length))) ++ toBytes 2 x.data.length
    ++ toBytes 2 x.x.toNat ++ toBytes 2 x.y.toNat ++ toBytes 2 x.angle.toNat ++ toBytes 2 x.module.toNat
    ++ toBytes 1 port ++ toBytes 1 proof ++ toBytes 1 x.quality.toNat ++ [x.extra]
    ++ x.data.take 48 ++ List.replicate (48 - x.data.length) 0

/-- Deliver a record to its Seat: stream, completion ring, causes (R400). -/
def deliverRecord (seat : Nat) (hdr : List Byte) (syms : List (List Byte)) (final : Bool) (s : State) : State :=
  let body := hdr ++ syms.flatten
  let x := scanSeat s seat
  let fits := decide (x.stream.length + body.length ≤ 16384)
  let entry := bytesVal (hdr ++ syms.headD [])
  let s1 := modScanSeat seat (fun x =>
    { x with stream := if fits then x.stream ++ body else x.stream, resDrop := if fits then x.resDrop else satAdd 65535 x.resDrop 1
             ring := tset 0 x.ring x.next entry, next := (x.next + 1) % 16
             overflow := if tget 0 x.ring x.next = 0 then x.overflow else satAdd 255 x.overflow 1 }) s
  let s2 := setCause seat 0x500F00 0 s1
  let s3 := if fits then s2 else setCause seat 0x500F00 2 s2
  if final then setCause seat 0x500F00 1 s3 else s3

/-- The end of a job after its final record: event, outcome counted, quota and queue entry released (R384, R400). -/
def jobEnd (j : ScanJob) (outcome : Nat) (s : State) : State :=
  let s1 := countOutcome j.seat outcome (modScan (fun x => { x with jobs := x.jobs.filter (fun k => k.ident ≠ j.ident) }) s)
  if bit j.body 246 then setEvent j.seat (bits j.body 240 6) s1 else s1

/-- A final record without an attempt (R386, R390, R391, R399, R403). -/
def endUnexposed (j : ScanJob) (outcome detail : Nat) (cancelled : Bool) (s : State) : State :=
  let flags := 4 * b2n (!holdsRein s) + 8 * b2n cancelled + 16 * b2n j.moved
  jobEnd j outcome (deliverRecord j.seat (recordHeader s j outcome detail j.tries 0 0 0 true none 0 flags) [] true s)

/-- The port window that holds a point of a camera's frame: index and port (R396). -/
def windowAt (s : State) (c x y : Nat) : Option (Nat × Nat) :=
  (List.range 16).findSome? (fun w =>
    let b := 0x501000 + 0x100 * c + 0x10 * w
    let w0 := rget s (kP b)
    let w1 := rget s (kP (b + 4))
    let w2 := rget s (kP (b + 8))
    if bit w2 31 ∧ bits w0 0 12 ≤ x ∧ x ≤ bits w1 0 12 ∧ bits w0 16 12 ≤ y ∧ y ≤ bits w1 16 12 then some (w, bits w2 0 4) else none)

/-- Expectations of a port with which a camera read at a position is compared (R289). -/
def comparable (s : State) (port pos : Nat) : List Nat :=
  (s.prot.expects.map (·.1)).filter (fun i => match expectAt s i with
    | some x =>
        let st := estateOf s i x
        x.body.port == port && (st == .armed || st == .met) && decide (x.armFrame * phasesPerFrame + x.armPhase ≤ pos) && bit x.body.source 0
    | none => false)

/-- One read, compared: PROOF 1, 2 or 3 (R289, R397). -/
def cameraRead (port : Nat) (x : SymbolRx) (pos : Nat) (s : State) : Nat × State :=
  let is := comparable s port pos
  let t := proofRead port 0 x.symbology.toNat x.data pos s
  if is = [] then (3, s)
  else if is.any (fun i => match expectAt s i with
    | some e => (x.data.length == e.body.len && x.data.map (·.toNat) == e.body.code.take e.body.len
        && (e.body.symMask == 0 || bit e.body.symMask x.symbology.toNat))
    | none => false) then (1, t)
  else (2, t)

/-- Reads of a record (R397), in ascending symbol index: entries so far, codes read by window with their PROOF, state. -/
def readSymbols (seat c pos : Nat) (compare : Bool) (all : List SymbolRx) :
    List SymbolRx → List (Nat × List Byte × Nat) → State → List (List Byte) × State
  | [], _, s => ([], s)
  | x :: xs, seen, s =>
      match windowAt s c x.x.toNat x.y.toNat with
      | none =>
          let (es, t) := readSymbols seat c pos compare all xs seen s
          (symEntry x 0xFF 0 :: es, t)
      | some (w, p) =>
          let port := ((localOf s seat 0 p).map (·.1)).getD 0xFE
          let amb := all.any (fun y => (windowAt s c y.x.toNat y.y.toNat).map (·.1) == some w && y.data != x.data)
          let old := seen.find? (fun e => e.1 == w && e.2.1 == x.data)
          let (proof, s1) :=
            if ¬ compare then (4, s)
            else if amb then (5, s)
            else match old with
              | some e => (e.2.2, s)
              | none => cameraRead p x pos s
          let (es, t) := readSymbols seat c pos compare all xs ((w, x.data, proof) :: seen) s1
          (symEntry x port proof :: es, t)

/-- Windows that hold two or more distinct codes in this frame (R397). -/
def multiWindows (s : State) (c : Nat) (all : List SymbolRx) : Nat :=
  ((List.range 16).filter (fun w => all.any (fun x => all.any (fun y =>
    (windowAt s c x.x.toNat x.y.toNat).map (·.1) == some w && (windowAt s c y.x.toNat y.y.toNat).map (·.1) == some w && x.data != y.data)))).length

/-- Insert a symbol by its candidate number. -/
def insertSym (x : ScanSym) : List ScanSym → List ScanSym
  | [] => [x]
  | y :: ys => if x.cand ≤ y.cand then x :: y :: ys else y :: insertSym x ys

/-- An attempt's record, its reads, and what the job does next (R389, R397 to R400). -/
def writeRecord (j : ScanJob) (a : ScanAttempt) (s : State) : State :=
  let syms := (a.syms.foldr insertSym []).map (·.sym)
  let codes := syms.foldl (fun l x => if l.contains x.data then l else l ++ [x.data]) j.codes
  let next := ((if a.closed ∧ a.taken.isSome then a.closeFrame else s.lt.frame) + 1) * phasesPerFrame + j.phase
  let more := !j.last && decide (j.tries < bits j.body 40 3) && (bits j.body 48 8 == 0 || decide (codes.length < bits j.body 48 8))
    && decide (next / phasesPerFrame + 4 ≤ j.deadline)
  let moved := a.moved || (!more && j.moved)
  let outcome := if a.detail ≠ 0 then oFaulted else if moved then oDelayed else oDone
  let compare := !a.flagged && holdsRein s
  let (es, s1) := readSymbols j.seat j.cam a.expose compare syms syms [] s
  let s2 := modScanSeat j.seat (fun x => { x with multi := satAdd 65535 x.multi (multiWindows s j.cam syms) }) s1
  let flags := b2n a.candOver + 2 * b2n a.flagged + 4 * b2n (!holdsRein s) + 16 * b2n moved
  let hdr := recordHeader s j outcome a.detail (j.tries - 1) syms.length a.cands a.fails (!more) (some a.expose) (a.taken.getD 0) flags
  let s3 := deliverRecord j.seat hdr es (!more) s2
  let s4 := modScan (fun x =>
    { x with attempts := (x.attempts.map (fun b => if b.job = j.ident ∧ ¬ b.done then { b with done := true } else b)).filter (fun b => !(b.done && b.closed)) }) s3
  if more then modJob j.ident (fun k => { k with pos := next, busy := false, shifted := false, codes := codes }) s4
  else jobEnd j outcome s4

/-- A decode unit is in service. -/
def inService (u : ScanUnit) : Bool := u.mode ≠ .failed && u.mode ≠ .offline
def anyInService (s : State) : Bool := (List.range 4).any (fun u => inService (unitAt s u))

/-- The attempt with candidates to take whose job has the earliest DEADLINE. -/
def nextFrame (s : State) : Option ScanAttempt :=
  (s.scan.attempts.filter (fun a => !a.done && a.listed && decide (a.nextCand < a.cands))).foldl (fun b a =>
    let dl (x : ScanAttempt) : Nat := ((jobAt s x.job).map (·.deadline)).getD 0
    match b with
    | none => some a
    | some c => if dl a < dl c then some a else some c) none

/-- A free unit: an idle one, else one whose online BIST yields (R402). -/
def freeUnit (s : State) : Option Nat :=
  match (List.range 4).find? (fun u => (unitAt s u).mode = .idle) with
  | some u => some u
  | none => (List.range 4).find? (fun u => (unitAt s u).mode = .bist)

/-- Units that are free take candidates (R394). -/
def assignUnits (s : State) : State :=
  foldUpto 4 (fun _ t => match freeUnit t, nextFrame t with
    | some u, some a =>
        modAttempt a.job (fun b => { b with nextCand := b.nextCand + 1, inWork := b.inWork + 1 }) (setUnit u ⟨.busy, a.job, a.nextCand⟩ t)
    | _, _ => t) s

/-- Commit order (R385): the first argument's job commits before the second's. -/
def commitsBefore (s : State) (a b : ScanJob) : Bool :=
  if a.pos ≠ b.pos then decide (a.pos < b.pos)
  else if a.deadline ≠ b.deadline then decide (a.deadline < b.deadline)
  else if seatPri s a.seat ≠ seatPri s b.seat then decide (seatPri s b.seat < seatPri s a.seat)
  else decide (a.ident < b.ident)

/-- Trigger edge (p where none is pulsed) and exposure start of an attempt (R387, R388). -/
def attemptEdge (j : ScanJob) : Nat := if bit j.body 26 then j.pos else j.pos + 160
def exposeAt (j : ScanJob) : Nat := attemptEdge j + bits j.body 160 32

/-- Span of a lantern's strobe. -/
def strobeSpan (s : State) (j : ScanJob) (l : Nat) : Nat × Nat :=
  (exposeAt j - bits (lantWord s l 0) 8 8, exposeAt j + bits j.body 192 32)

/-- Commit an attempt (R387). -/
def commitAttempt (j : ScanJob) (s : State) : State :=
  let s1 := j.lants.foldl (fun t e =>
    let tok := strobeTokens t e.1 e.2
    let sp := strobeSpan t j e.1
    holdTokens j.seat tok (modScan (fun x =>
      { x with strobes := x.strobes ++ [{ lant := e.1, start := sp.1, stop := sp.2, tokens := tok, seat := j.seat, active := false }] }) t)) s
  let s2 := foldUpto 8 (fun l t => match j.lants.find? (fun e => e.1 == l) with
    | some e => sendSetpoint l e.2 true t
    | none => t) s1
  let s3 := if (unitAt s2 4).mode = .bist then setUnit 4 .reset s2 else s2
  let s4 := if bit j.body 26 then s3 else trigRequest j.trig j.pos 0 s3
  let a : ScanAttempt :=
    { job := j.ident, cam := j.cam, pos := j.pos, edge := attemptEdge j, expose := exposeAt j, moved := j.shifted, taken := none, closed := false
      flagged := false, closeFrame := 0, listed := false, cands := 0, candOver := false, nextCand := 0, inWork := 0, fails := 0
      syms := [], detail := 0, done := false }
  modJob j.ident (fun k => { k with pos := j.pos, moved := j.moved, shifted := j.shifted, busy := true, tries := k.tries + 1 }) (modScan (fun x => { x with attempts := x.attempts ++ [a] }) s4)

/-- An attempt of the camera holds it. -/
def cameraHeld (s : State) (c : Nat) : Bool :=
  s.scan.attempts.any (fun a => !a.closed && a.cam == c)

/-- The job with its position moved by whole frames, the fewest that leave its commit point in the frame in progress or ahead of it: a further attempt's
position, which follows the close of the last frame, has passed when the record is written (R386, R389; DESIGN CHOICE, entry 55). -/
def jobCaughtUp (s : State) (j : ScanJob) : ScanJob :=
  let late := s.lt.frame - (j.pos - phasesPerFrame) / phasesPerFrame
  if late = 0 then j else { j with pos := j.pos + late * phasesPerFrame, moved := true, shifted := true }

/-- SCAN_COMMIT (R386): at the commit point the attempt commits, or moves by one frame, or the job ends. -/
def execScanCommit (job : BitVec 16) (s : State) : Result :=
  .next (match jobAt s job.toNat with
  | none => s
  | some j0 =>
      let j := jobCaughtUp s j0
      let point := j.pos - phasesPerFrame
      if j.busy ∨ j.last ∨ s.lt.frame < point / phasesPerFrame ∨ s.scan.jobs.any (fun k => !k.busy && k.ident != j.ident && commitsBefore s k j) then s
      else
        let t := advanceTo point s
        let shed := lanternShed t && j.lants != []
        let tok := (j.lants.map (fun e => strobeTokens t e.1 e.2)).sum
        if j.lants.any (fun e => bit t.scan.blocked e.1) then endUnexposed j oSeat 0 false t
        else if ¬ (cameraHeld t j.cam ∨ j.lants.any (fun e => let sp := strobeSpan t j e.1; spanBusy t e.1 sp.1 sp.2)
            ∨ ¬ tokensFree t j.seat tok ∨ shed) then commitAttempt j t
        else if j.tries = 0 ∧ (j.deadline - 4) * phasesPerFrame ≤ j.pos + phasesPerFrame then
          endUnexposed j (if shed then oBudget else oLate) (if shed then 4 else 0) false t
        else modJob j.ident (fun k => { k with pos := j.pos + phasesPerFrame, moved := true, shifted := true }) t)

/-- SCAN_NO_FRAME (R388): no FS within FRAME_TO frames of the trigger (of p when none is pulsed); the camera is released. -/
def execScanNoFrame (job : BitVec 16) (s : State) : Result :=
  .next (match s.scan.attempts.find? (fun a => a.job == job.toNat && a.taken.isNone && !a.closed) with
  | some a =>
      let frames := rbits s (kP (0x41000C + 0x10000 * a.cam)) 0 16
      if nowPos s < a.edge + frames * phasesPerFrame then s
      else if a.done then modScan (fun x => { x with attempts := x.attempts.erase a }) s
      else
        let b := { a with closed := true, listed := true, detail := 1 }
        modScan (fun x => { x with attempts := x.attempts.map (fun c => if c = a then b else c) }) s
  | none => s)

/-- FINDER_COMPLETE (R392, R402): the candidate list of the frame is complete. -/
def execFinderComplete (job : BitVec 16) (n : BitVec 6) (more : Bool) (s : State) : Result :=
  .next (match jobAt s job.toNat, attemptAt s job.toNat with
  | some j, some a =>
      if ¬ a.closed ∨ a.listed then s
      else if ¬ inService (unitAt s 4) then modAttempt j.ident (fun b => { b with listed := true, detail := 3 }) s
      else
        let cap := if bits j.body 56 8 = 0 then 32 else bits j.body 56 8
        let k := min n.toNat cap
        let over_ := more || decide (cap < n.toNat)
        if ¬ anyInService s then
          modAttempt j.ident (fun b => { b with listed := true, cands := k, nextCand := k, candOver := over_, detail := 3 }) s
        else assignUnits (modAttempt j.ident (fun b => { b with listed := true, cands := k, candOver := over_ }) s)
  | _, _ => s)

/-- A decoded symbol is one that the units deliver (R394): a listed symbology of SYM_MASK, within the lengths of SCAN_CFG. -/
def symbolOk (s : State) (body : Nat) (x : SymbolRx) : Bool :=
  let y := x.symbology.toNat
  let cfg := rget s (kP 0x500000)
  let e := x.extra.toNat
  decide (y ≤ 5) && (bits body 224 16 == 0 || bit body (224 + y))
    && (y != 0 || decide (bits cfg 10 6 ≤ e ∧ e ≤ 80)) && (y != 2 || decide (e % 2 = 0 ∧ bits cfg 4 6 ≤ e ∧ e ≤ 48))
    && (y != 1 || (decide (e < 8) && (bits cfg 2 2 != 2 || decide (4 ≤ e))))

/-- DECODE_COMPLETE (R394): a unit ends a candidate and is free. -/
def execDecodeComplete (u : BitVec 2) (r : Option SymbolRx) (s : State) : Result :=
  let x := unitAt s u.toNat
  .next (if x.mode ≠ .busy then s
  else
    let body := ((jobAt s x.job).map (·.body)).getD 0
    let t := modAttempt x.job (fun b => match r with
      | some y => if symbolOk s body y then { b with inWork := b.inWork - 1, syms := ⟨x.cand, y⟩ :: b.syms } else { b with inWork := b.inWork - 1, fails := b.fails + 1 }
      | none => { b with inWork := b.inWork - 1, fails := b.fails + 1 }) s
    assignUnits (setUnit u.toNat .reset t))

/-- SCAN_RESULT_RECORD (R398): the attempt's work has ended. -/
def execScanResultRecord (job : BitVec 16) (s : State) : Result :=
  .next (match jobAt s job.toNat, attemptAt s job.toNat with
  | some j, some a => if a.inWork = 0 ∧ ((a.listed ∧ a.cands ≤ a.nextCand) ∨ a.detail ≠ 0) then writeRecord j a s else s
  | _, _ => s)

/-- SCAN_DEADLINE (R399): at DEADLINE.0 candidates not taken are abandoned; the record follows the candidates in progress. -/
def execScanDeadline (job : BitVec 16) (s : State) : Result :=
  .next (match jobAt s job.toNat with
  | none => s
  | some j =>
      if s.lt.frame < j.deadline then s
      else
        match attemptAt s job.toNat with
        | none => endUnexposed j oFaulted 2 false s
        | some a =>
            if a.detail ≠ 0 ∨ (a.listed ∧ a.cands ≤ a.nextCand ∧ a.inWork = 0) then s
            else
              let b := { a with detail := 2, nextCand := a.cands, listed := true }
              let t := modAttempt j.ident (fun _ => b) s
              if a.inWork = 0 then writeRecord j b t else t)

/-- CANCEL (R390): outcome. -/
def scanCancel (seat i : Nat) (s : State) : Nat × State :=
  match jobAt s i with
  | none => (oSeat, countOutcome seat oSeat s)
  | some j =>
      if j.seat ≠ seat then (oSeat, countOutcome seat oSeat s)
      else if j.busy ∨ 0 < j.tries then (oLate, countOutcome seat oLate s)
      else (oDone, endUnexposed j oDone 0 true s)

/-- A write of SCAN_CMD by a path (R383, R390): a write with both or neither of SUBMIT and CANCEL is discarded. -/
def scanCommand (a : Agent) (v : Nat) (s : State) : State :=
  if bit v 0 = bit v 1 then s
  else if bit v 0 then
    let (o, i, t) := scanSubmit a.seat (rget s (kPath a.pk 0x500100)) s
    modPath a.pk (fun p => { p with scanOutcome := o, scanJob := i }) t
  else
    let (o, t) := scanCancel a.seat (bits v 16 16) s
    modPath a.pk (fun p => { p with scanOutcome := o, scanJob := bits v 16 16 }) t

/-- Jobs that have not committed end with a final record; no further attempt of the others commits (R391, R403). -/
def endWaiting (outcome detail : Nat) (s : State) : State :=
  s.scan.jobs.foldl (fun t j => if j.busy then modJob j.ident (fun k => { k with last := true }) t else endUnexposed j outcome detail false t) s

/-- After a write of SCAN_CFG: clearing EN (R391). -/
def scanCfgHook (old new : Nat) (s : State) : State := if bit old 0 ∧ ¬ bit new 0 then endWaiting oSeat 5 s else s

/-- START of SCAN_BIST_CMD (R403). -/
def scanBistOrder (s : State) : State :=
  if s.scan.bistDue ∨ s.scan.bistRun then s
  else
    let last := (s.scan.jobs.filter (·.busy)).foldl (fun m j => max m j.deadline) s.lt.frame
    endWaiting oSelftest 0 (modScan (fun x => { x with bistDue := true, bistOutcome := oDone, retryFrame := last + 337 + Config.scanRetrySlack }) s)

/-- SCAN_OFFLINE_BIST_BEGIN (R403): no attempt is committed. -/
def execScanOfflineBistBegin (s : State) : Result :=
  .next (if s.scan.bistDue ∧ s.scan.attempts.all (·.done) then
    foldUpto 5 (fun u t => setUnit u ⟨.offline, 0, 0⟩ t) (modScan (fun x => { x with bistDue := false, bistRun := true }) s)
  else s)

/-- A unit or the finder fails (R402). -/
def unitFails (u : Nat) (s : State) : State := setCause 0 0x500F00 3 (faultRaise (378 + u) (setUnit u ⟨.failed, 0, 0⟩ s))

/-- SCAN_OFFLINE_BIST_END (R403): every passing unit is back in service. -/
def execScanOfflineBistEnd (failed : BitVec 5) (s : State) : Result :=
  .next (if s.scan.bistRun then
    setCause 0 0x500F00 4 (foldUpto 5 (fun u t => if bit failed.toNat u then unitFails u t else setUnit u .reset t)
      (modScan (fun x => { x with bistRun := false }) s))
  else s)

/-- DECODE_BIST_START (R402): an idle unit, or the finder with no attempt committed, starts an online pass. -/
def execDecodeBistStart (u : BitVec 3) (s : State) : Result :=
  if 5 ≤ u.toNat then .fault .noSuchObject
  else
    .next (if (unitAt s u.toNat).mode = .idle ∧ domOn s (if u.toNat = 4 then 105 else 106 + u.toNat) ∧ (u.toNat ≠ 4 ∨ s.scan.attempts.all (·.done)) then
      setUnit u.toNat ⟨.bist, 0, 0⟩ s else s)

/-- DECODE_BIST_END (R402). -/
def execDecodeBistEnd (u : BitVec 3) (fail : Bool) (s : State) : Result :=
  if 5 ≤ u.toNat then .fault .noSuchObject
  else .next (if (unitAt s u.toNat).mode ≠ .bist then s else if fail then unitFails u.toNat s else setUnit u.toNat .reset s)

/-- Codes of SCAN_UNIT_STATUS. -/
def UnitMode.code : UnitMode → Nat
  | .idle => 0 | .busy => 1 | .bist => 2 | .failed => 3 | .offline => 4

/-- SCAN_UNIT_STATUS; the finder is BUSY while a taken frame has no list. -/
def scanUnitStatus (s : State) : Nat :=
  let f := (unitAt s 4).mode
  let fb := f = .idle && s.scan.attempts.any (fun a => !a.done && a.taken.isSome && !a.listed)
  ((List.range 4).map (fun u => (unitAt s u).mode.code * 8 ^ u)).sum + 4096 * (if fb then 1 else f.code)

/-- SCAN_USE for a Seat. -/
def scanUse (s : State) (seat : Nat) : Nat :=
  jobsHeld s seat % 128 + 256 * (quota s seat 0x208 % 128) + 65536 * (s.scan.jobs.length % 128) + 2 ^ 24 * (heldTokens s seat % 256)

end Sys2Proof.Machine
end

