-- ==== Sys2Proof/Machine/Radio.lean ====
section
/-!
DEFINITION. The cord radio's queues and transmissions (R404 to R416, R420, R430 to R435, R439 to R444): airtime accounts, PSDUs, channel
access, beacons, submissions, enabling and disabling, self-test. Times in units of 1/25 phase unit: one µs is 3888 of them.
-/
namespace Sys2Proof.Machine

open Sys2Proof

def modRadio (f : RadioState → RadioState) (s : State) : State := { s with radio := f s.radio }
def nbrAt (s : State) (i : Nat) : Neighbour := tget .free s.radio.nbrs i
def modNbr (i : Nat) (f : Neighbour → Neighbour) (s : State) : State := modRadio (fun x => { x with nbrs := tmod .free x.nbrs i f }) s
def radioCount (k n : Nat) (s : State) : State := modRadio (fun x => { x with cnt := tmod 0 x.cnt k (fun v => wrap32 v n) }) s
def modFrame (i : Nat) (f : RadioFrame → RadioFrame) (s : State) : State :=
  modRadio (fun x => { x with frames := x.frames.map (fun g => if g.ident = i then f g else g) }) s
def frameAt (s : State) (i : Nat) : Option RadioFrame := s.radio.frames.find? (fun f => f.ident == i)

/-- A cause of RADIO_INT in each Seat that OWNS or OBSERVES the radio. -/
def radioCause (k : Nat) (s : State) : State := setCauses (fittedSeats s 204 0) 0x600F00 k s

/-- A transaction of the radio port (R405, R406): its command byte and the bytes that follow it. -/
def rpSend (bs : List Nat) (s : State) : State := modRadio (fun x => { x with port := bs.map (fun b => BitVec.ofNat 8 b) }) s

/-- SET_MODE (R406): 0 SLEEP, 1 IDLE, 2 RX. -/
def rpMode (m : Nat) (s : State) : State := rpSend [1, m] (modRadio (fun x => { x with mode := m }) s)

/-- Registers of the radio. -/
def radioCfg (s : State) : Nat := rget s (kP 0x600000)
def radioEn (s : State) : Bool := bit (radioCfg s) 0
def radioPhy (s : State) : Nat := rget s (kP 0x600018)
def phyOf (s : State) : Nat := bits (radioPhy s) 0 2
def tokPa (s : State) : Nat := bits (radioPhy s) 16 8
def radioSec (s : State) : Nat := rget s (kP 0x600020)
def ownPan (s : State) : Nat := rbits s (kP 0x600008) 0 16
def ownShort (s : State) : Nat := rbits s (kP 0x600008) 16 16
def ownExt (s : State) : Nat := rget s (kP 0x600010)

/-- The radio port operates: from LOADED on (R64), its domain on, bank VIO_E present (R62). -/
def radioPort (s : State) : Bool := decide (3 ≤ s.pwr.stage.code) && domOn s 110 && bit s.pwr.vioOk 4

/-- The radio transmits and receives: enabled, IDENT answered, no test, no failure, its port operating (R409, R443). -/
def radioRuns (s : State) : Bool := radioEn s && s.radio.up && !s.radio.bistRun && !s.radio.bistFail && radioPort s

/-- Radio-TX shedding is in force (R442, R459). -/
def radioShed (s : State) : Bool := bit s.mon.shed 1

/-- Figures of the PHY modes in µs (R410, R411). -/
def airUs (s : State) (len : Nat) : Nat := if phyOf s = 0 then (6 + len) * 32 else (12 + len) * 160
def shrUs (s : State) : Nat := if phyOf s = 0 then 160 else 1600
def turnUs (s : State) : Nat := if phyOf s = 0 then 192 else 1000
def ackDelayUs (s : State) : Nat := if phyOf s = 0 then rbits s (kP 0x600024) 16 10 else 1000

/-- A position from units of 1/25 phase unit, within one phase unit (R407, R408). -/
def posOf25 (u : Nat) : Nat := if u % 25 ≠ 0 ∧ Config.roundUp u 25 then u / 25 + 1 else u / 25

/-- TXD in phase units, and where the SHR starts when TX_EN may rise now and the SHR lies not before a position (R407). -/
def txdPhases (s : State) : Nat := posOf25 (3888 * bits (radioPhy s) 4 6)
def shrAt (s : State) (e : Nat) : Nat := max e (nowPos s + txdPhases s)

/-- SET_CHAN with the channel settings in RADIO_CHAN, which come into force (R406, R412). -/
def rpChan (s : State) : State :=
  let v := rget s (kP 0x600004)
  rpSend [2, phyOf s, bits v 0 8, 0, bits v 8 8] (modRadio (fun x => { x with sfChan := v }) s)

/-- RADIO_CFG as it is in force: that of the superframe in progress (R412). -/
def sfCfgNow (s : State) : Nat := if s.radio.sfCycle.isSome then s.radio.sfCfg else radioCfg s

/-- Airtime accounts (R439): 0 to 2 the bands, 3 + n Seat n; minute of a position. -/
def minuteOf (pos : Nat) : Nat := pos / phasesPerFrame / 480000
def acct (a m : Nat) : Nat := a * 2 ^ 40 + m
def airUse (s : State) (a m : Nat) : Nat :=
  ((List.range 60).map (fun k => if k ≤ m then tget 0 s.radio.airtime (acct a (m - k)) else 0)).sum
def airAdd (a m n : Nat) (s : State) : State := modRadio (fun x => { x with airtime := tmod 0 x.airtime (acct a m) (· + n) }) s
def airSub (a m n : Nat) (s : State) : State := modRadio (fun x => { x with airtime := tmod 0 x.airtime (acct a m) (· - n) }) s
def bandLimit (s : State) : Nat := 1000 * rget s (kP (0x600040 + 4 * phyOf s))
def bandReserve (s : State) : Nat := 1000 * rget s (kP (0x600050 + 4 * phyOf s))

/-- The band account lets a hardware frame pass; both accounts let a Seat frame pass at a minute (R439). -/
def hwAdmits (s : State) (a : Nat) : Bool := decide (airUse s (phyOf s) (minuteOf (nowPos s)) + a ≤ bandLimit s)
def seatAdmits (s : State) (seat a m : Nat) : Bool :=
  decide (airUse s (phyOf s) m + a ≤ bandLimit s - bandReserve s) && decide (airUse s (3 + seat) m + a ≤ 1000 * quota s seat 0x210)

/-- The fields of a MAC header (IEEE 802.15.4). -/
structure MacHdr where
  ftype : Nat
  pending : Bool
  ackReq : Bool
  version : Nat
  dst : RadioDst
  hasSrc : Bool
  seqn : Nat
  level : Nat
  key : Nat
  fc : Nat
  ies : List Nat

/-- Length of an address. -/
def dstLen : RadioDst → Nat
  | .none => 0
  | .short _ => 2
  | .ext _ => 8

/-- Bytes of the MAC header with the auxiliary header (key identifier mode 1) and the header IEs (R428, R432). -/
def macHeader (s : State) (h : MacHdr) : List Nat :=
  let dm := match h.dst with | .none => 0 | .short _ => 2 | .ext _ => 3
  let comp := dm != 0 && h.hasSrc && (decide (h.version < 2) || dm == 2)
  let fcf := h.ftype + 8 * b2n (h.level != 0) + 16 * b2n h.pending + 32 * b2n h.ackReq + 64 * b2n comp + 512 * b2n (h.ies != [])
    + 1024 * dm + 4096 * h.version + 16384 * (if h.hasSrc then 3 else 0)
  let dst := match h.dst with
    | .none => []
    | .short a => leBytes 2 (ownPan s) ++ leBytes 2 a.toNat
    | .ext a => leBytes 2 (ownPan s) ++ leBytes 8 a.toNat
  let src := if h.hasSrc then (if dm = 0 then leBytes 2 (ownPan s) else []) ++ leBytes 8 (ownExt s) else []
  let aux := if h.level = 0 then [] else (h.level + 8) :: leBytes 4 h.fc ++ [h.key]
  leBytes 2 fcf ++ [h.seqn] ++ dst ++ src ++ aux ++ h.ies

/-- MIC length of a security level (R428). -/
def micLen (level : Nat) : Nat := [0, 4, 8, 16].getD (level % 4) 0

/-- The nonce of R428. -/
def radioNonce (ext fc level : Nat) : List Nat := beBytes 8 ext ++ beBytes 4 fc ++ [level]

/-- A key of the table, byte 0 first (R430). -/
def radioKey (s : State) (k : Nat) : List Nat := leBytes 16 (bits (tget 0 s.radio.keys k) 0 128)

/-- The FCS: the 2-byte CRC of IEEE 802.15.4. -/
def fcs16 (bs : List Nat) : Nat :=
  bs.foldl (fun c b => (List.range 8).foldl (fun d _ => if d % 2 = 1 then (d / 2) ^^^ 0x8408 else d / 2) (c ^^^ b)) 0

/-- A whole PSDU (R428, R432). -/
def buildPsdu (s : State) (h : MacHdr) (payload : List Nat) : List Byte :=
  let mhr := macHeader s h
  let body :=
    if h.level = 0 then mhr ++ payload
    else
      let key := radioKey s h.key
      let nonce := radioNonce (ownExt s) h.fc h.level
      if 4 ≤ h.level then mhr ++ ccmCrypt key nonce payload ++ ccmMic key nonce mhr payload (micLen h.level)
      else mhr ++ payload ++ ccmMic key nonce (mhr ++ payload) [] (micLen h.level)
  (body ++ leBytes 2 (fcs16 body)).map (fun b => BitVec.ofNat 8 b)

/-- The outgoing counter for one secured frame (R431); none while secured transmission is withheld. -/
def takeFc (s : State) : Option (Nat × State) :=
  if ¬ s.radio.fcSet ∨ s.radio.keyNeeded then none
  else
    let fc := rget s (kP 0x600030)
    let n := fc + 1
    let t := rset s (kP 0x600030) n
    let t1 := if n = 0xFFFF0000 then radioCause 5 (modRadio (fun x => { x with fcNear := true }) t) else t
    some (fc, if n = 0xFFFFFFFF then modRadio (fun x => { x with keyNeeded := true, fcSet := false }) t1 else t1)

/-- The counter of a frame of a level: none is taken for an unsecured one. -/
def fcFor (level : Nat) (s : State) : Option (Nat × State) := if level = 0 then some (0, s) else takeFc s

/-- The next sequence number. -/
def takeSeq (s : State) : Nat × State := (s.radio.nextSeq, modRadio (fun x => { x with nextSeq := (x.nextSeq + 1) % 256 }) s)

/-- TX_EN rises for a frame: tokens held, airtime added to the minute of its SHR (R407, R439, R441). -/
def beginAir (frame : Option Nat) (hw : Bool) (seat start : Nat) (psdu : List Byte) (s : State) : State :=
  let a := airUs s psdu.length
  let t := if hw then holdHw (tokPa s) s else holdTokens seat (tokPa s) s
  let t1 := airAdd (phyOf s) (minuteOf start) a t
  rpSend (3 :: psdu.length :: psdu.map (·.toNat)) (modRadio (fun x => { x with onAir := some ⟨frame, hw, seat, tokPa s, start, a⟩, lastTx := psdu }) t1)

/-- A hardware frame is admitted by the band account and the tokens, else counted (R440, R441). -/
def hwGate (len : Nat) (s : State) : Bool × State :=
  if ¬ hwAdmits s (airUs s len) then (false, radioCount 10 1 s)
  else if ¬ tokensFreeHw s (tokPa s) then (false, radioCount 11 1 s)
  else (true, s)

/-- Destination of a queued frame (R432): 0xFFFF with BCAST, else the entry's SHORT, or its EXT when it has none. -/
def frameDst (s : State) (desc : Nat) : RadioDst :=
  if bit desc 3 then .short 0xFFFF
  else
    let b := (nbrAt s (bits desc 16 16)).body
    if bits b 64 16 = 0xFFFE then .ext (BitVec.ofNat 64 (bits b 0 64)) else .short (BitVec.ofNat 16 (bits b 64 16))

/-- Length of the PSDU of a queued frame. -/
def frameLen (s : State) (desc n : Nat) : Nat :=
  let level := bits desc 8 3
  13 + dstLen (frameDst s desc) + (if level = 0 then 0 else 6 + micLen level) + n + 2

/-- The header of a queued frame. -/
def frameHdr (s : State) (f : RadioFrame) (pending : Bool) : MacHdr :=
  { ftype := 1, pending := pending, ackReq := bit f.desc 0, version := bits f.desc 4 2, dst := frameDst s f.desc, hasSrc := true
    seqn := f.seqn.getD 0, level := bits f.desc 8 3
    key := if bit f.desc 3 then bits (radioSec s) 20 4 else bits (nbrAt s f.nbr).body 88 4, fc := f.fc, ies := [] }

/-- Give a frame its sequence number and counter at its first transmission; none while secured frames are withheld. -/
def numberFrame (f : RadioFrame) (s : State) : Option (RadioFrame × State) :=
  match f.seqn with
  | some _ => some (f, s)
  | none =>
      match fcFor (bits f.desc 8 3) s with
      | none => none
      | some (fc, t) =>
          let (n, u) := takeSeq t
          some ({ f with seqn := some n, fc := fc }, u)

/-- A completion record (R435) and the end of the frame: reservation refunded when nothing was sent. -/
def radioEnd (f : RadioFrame) (outcome detail : Nat) (s : State) : State :=
  let v := outcome + 2 ^ 8 * detail + 2 ^ 16 * bits f.desc 32 16 + 2 ^ 32 * f.ident + 2 ^ 48 * f.tries
    + 2 ^ 64 * (match f.txPos with | some p => ltImage p | none => 2 ^ 64 - 1)
  let s1 := if f.reserved then airSub (3 + f.seat) f.minute f.air (airSub (phyOf s) f.minute f.air s) else s
  let old := tgetO (tget .reset s.radio.seats f.seat).ring (tget .reset s.radio.seats f.seat).next
  let s2 := if old.isSome then radioCount (200 + f.seat) 1 s1 else s1
  let s3 := modRadio (fun x => { x with
    frames := x.frames.filter (fun g => g.ident ≠ f.ident)
    hw := x.hw.filter (fun h => h.frame ≠ some f.ident)
    seats := tmod .reset x.seats f.seat (fun y => { y with ring := tset 0 y.ring y.next v, next := (y.next + 1) % 16 }) }) s2
  radioCause 0 (countOutcome f.seat outcome s3)

/-- The kind of the slot at the present position (R413, R414): 0 OFF, 1 SHARED, 2 LISTEN; and the frame at which the slot ends. -/
def slotNow (s : State) : Nat × Nat :=
  match s.radio.sfCycle with
  | none => (0, 0)
  | some c =>
      let len := 2 ^ bits s.radio.sfCfg 5 4
      let k := (s.lt.frame - 16 * c) / len
      let stop := 16 * c + (k + 1) * len
      if s.lt.frame < 16 * c ∨ 16 ≤ k then (0, stop) else if k = 0 then (1, stop) else (bits s.radio.sfSlot (2 * (k - 1)) 2, stop)

/-- A listen window of a tag is open at the present position (R422). -/
def windowOpen (s : State) : Bool :=
  s.radio.nbrs.any (fun e => e.2.windows.any (fun x => decide (50 * 10 ^ 6 * (max x.1 (nowPos s) - min x.1 (nowPos s)) ≤ x.2)))

/-- The rescue listen window (R423): 500 µs, four frames, on each side of LT (16c + 8).0. -/
def rescueOpen (s : State) : Bool :=
  let mid := (s.lt.frame / 16 * 16 + 8) * phasesPerFrame
  s.radio.nbrs.any (fun e => e.2.state = .lostSync && decide (1 ≤ e.2.resc ∧ e.2.resc ≤ 64))
    && decide (mid ≤ nowPos s + 77760 ∧ nowPos s ≤ mid + 77760)

/-- A transmission that starts now and takes `dur` units of 1/25 phase unit would lie in a listen window or a rescue window (R422, R423). -/
def windowClash (s : State) (dur : Nat) : Bool :=
  let a := 25 * nowPos s
  let mid := 25 * ((s.lt.frame / 16 * 16 + 8) * phasesPerFrame)
  windowOpen s || s.radio.nbrs.any (fun e => e.2.windows.any (fun x =>
      decide (50 * 10 ^ 6 * x.1 < 2 * 10 ^ 6 * (a + dur) + x.2 ∧ 2 * 10 ^ 6 * a < 50 * 10 ^ 6 * x.1 + x.2)))
    || (s.radio.nbrs.any (fun e => e.2.state = .lostSync && decide (1 ≤ e.2.resc ∧ e.2.resc ≤ 64))
      && decide (mid ≤ a + dur + 25 * 77760 ∧ a ≤ mid + 25 * 77760))

/-- A frame of the radio is in channel access or waits for an acknowledgement. -/
def radioBusy (s : State) : Bool := s.radio.onAir.isSome || s.radio.frames.any (fun f => f.inCca || f.waitAck) || s.radio.hw.any (·.inCca)

/-- The length of a frame exchange in units of 1/25 phase unit, from TX_EN on: the frame, the turnaround and the acknowledgement (R414). -/
def exchange25 (s : State) (f : RadioFrame) : Nat :=
  let ack := if ¬ bit f.desc 0 then 0
    else if bits f.desc 4 2 < 2 then turnUs s + airUs s 5
    else ackDelayUs s + airUs s (21 + (if bits f.desc 8 3 = 0 then 0 else micLen (bits f.desc 8 3)))
  3888 * (bits (radioPhy s) 4 6 + f.air + ack)

/-- An exchange of a length that starts now lies in a SHARED slot, ends before the slot does and touches no window (R414, R422). -/
def sharedFits (s : State) (dur : Nat) : Bool :=
  (slotNow s).1 == 1 && decide (25 * nowPos s + dur ≤ 25 * ((slotNow s).2 * phasesPerFrame)) && !windowClash s dur

/-- Order of the direct queue (R434). -/
def frameBefore (s : State) (a b : RadioFrame) : Bool :=
  if a.legal ≠ b.legal then decide (a.legal < b.legal)
  else if seatPri s a.seat ≠ seatPri s b.seat then decide (seatPri s b.seat < seatPri s a.seat)
  else decide (a.ident < b.ident)

/-- A queued direct frame may start an attempt now (R434, R440, R442). -/
def mayAttempt (s : State) (f : RadioFrame) : Bool :=
  !f.indirect && decide (f.legal ≤ nowPos s) && decide (s.lt.frame < f.deadline) && !radioBusy s && !radioShed s
    && sharedFits s (exchange25 s f) && s.radio.hw.all (fun h => h.kind = .rebroadcast || (h.kind = .extraBeacon && decide (nowPos s < h.eligible)))
    && s.radio.frames.all (fun g => g.indirect || decide (nowPos s < g.legal) || g.ident == f.ident || !frameBefore s g f)

/-- Rank of hardware frames (R416, R434): acknowledgements, beacons, poll replies, extra beacons, rebroadcasts. -/
def HwKind.rank : HwKind → Nat
  | .immAck => 0 | .enhAck => 0 | .beacon => 1 | .pollReply => 2 | .extraBeacon => 3 | .rebroadcast => 4

/-- The hardware frame to send next: one whose TX_EN may rise in this frame; a rebroadcast only within its life (R438). -/
def nextHw (s : State) : Option HwFrame :=
  (s.radio.hw.filter (fun h => h.ready && decide ((h.eligible - txdPhases s) / phasesPerFrame ≤ s.lt.frame)
    && (h.kind != .rebroadcast || decide (s.lt.frame / 16 < h.expiry)))).foldl (fun b h => match b with
    | none => some h
    | some c => if h.kind.rank < c.kind.rank then some h else some c) none

def dropHwFrame (h : HwFrame) (s : State) : State := modRadio (fun x => { x with hw := x.hw.erase h }) s

/-- The end of a calendar entry's beacon that is not sent (R416). -/
def calBeaconEnd (h : HwFrame) (outcome : Nat) (s : State) : State :=
  match h.cal with
  | some (seat, i) => calFailed seat 4 i outcome s
  | none => s

/-- The header of a beacon (R415). -/
def beaconHdr (s : State) (n fc : Nat) : MacHdr :=
  { ftype := 0, pending := false, ackReq := false, version := 2, dst := .none, hasSrc := true, seqn := n
    level := bits (radioSec s) 0 3, key := bits (radioSec s) 20 4, fc := fc, ies := [] }

/-- Length of the PSDU of a beacon by that of its descriptor. -/
def beaconLen (s : State) (n : Nat) : Nat :=
  let level := bits (radioSec s) 0 3
  13 + (if level = 0 then 0 else 6 + micLen level) + n + 2

/-- Send a beacon with a descriptor whose SHR starts at a position; `cnt` counts it. DONE, REFUSED_BUDGET where the account or the tokens
do not let it pass, FAULTED where it is withheld for want of an outgoing counter (R416, R431, R440, R441). -/
def sendBeacon (payload : List Byte) (start cnt : Nat) (s : State) : Nat × State :=
  let level := bits (radioSec s) 0 3
  let (ok, s1) := hwGate (beaconLen s payload.length) s
  if ¬ ok then (oBudget, s1)
  else
    match fcFor level s1 with
    | none => (oFaulted, radioCount 12 1 s1)
    | some (fc, s2) =>
        let (n, s3) := takeSeq s2
        (oDone, radioCount cnt 1 (beginAir none true 0 start (buildPsdu s3 (beaconHdr s3 n fc) (payload.map (·.toNat))) s3))

/-- The header of a rebroadcast (R438). -/
def floodHdr (s : State) (n fc : Nat) : MacHdr :=
  { ftype := 1, pending := false, ackReq := false, version := 2, dst := .short 0xFFFF, hasSrc := true, seqn := n
    level := bits (radioSec s) 16 3, key := bits (radioSec s) 20 4, fc := fc, ies := [] }

/-- Length of the PSDU of a rebroadcast by that of its payload. -/
def floodLen (s : State) (n : Nat) : Nat :=
  let level := bits (radioSec s) 16 3
  15 + (if level = 0 then 0 else 6 + micLen level) + n + 2

/-- Send a flood rebroadcast. -/
def sendFlood (payload : List Byte) (s : State) : State :=
  let level := bits (radioSec s) 16 3
  let (ok, s1) := hwGate (floodLen s payload.length) s
  if ¬ ok then s1
  else
    match fcFor level s1 with
    | none => radioCount 12 1 s1
    | some (fc, s2) =>
        let (n, s3) := takeSeq s2
        beginAir none true 0 (shrAt s3 0) (buildPsdu s3 (floodHdr s3 n fc) (payload.map (·.toNat))) s3

/-- The transmission of a queued frame, its SHR at a position: as a poll reply or after a clear channel (R419, R434, R440, R441). -/
def sendFrame (f : RadioFrame) (hw : Bool) (start : Nat) (s : State) : State :=
  let a := f.air
  let m := minuteOf start
  if ¬ f.reserved ∧ ¬ (if hw then hwAdmits s a else seatAdmits s f.seat a m) then radioEnd f oFaulted 8 s
  else if hw ∧ ¬ tokensFreeHw s (tokPa s) then radioCount 11 1 s
  else if ¬ hw ∧ ¬ tokensFree s f.seat (tokPa s) then s
  else
    match numberFrame f s with
    | none => radioCount 12 1 s
    | some (g, t) =>
        let t1 := if g.reserved then airSub (3 + g.seat) g.minute a (airSub (phyOf t) g.minute a t) else t
        let more := hw && t1.radio.frames.any (fun k => k.indirect && k.nbr == g.nbr && k.ident != g.ident)
        let psdu := buildPsdu t1 (frameHdr t1 g more) (g.payload.map (·.toNat))
        let t2 := airAdd (3 + g.seat) m a t1
        let t3 := beginAir (some g.ident) hw g.seat start psdu t2
        modFrame g.ident (fun _ => { g with reserved := false, tries := g.tries + 1, txPos := some start, chanFail := false, inCca := false, backoffs := 0 }) t3

/-- A hardware frame without channel access: TX_EN rises TXD before its SHR, one turnaround or ACK_DELAY after what it follows (R407, R419,
R429). -/
def sendHw (h : HwFrame) (s : State) : State :=
  let u := advanceTo (h.eligible - txdPhases s) s
  let t := dropHwFrame h u
  match h.kind with
  | .beacon => (sendBeacon h.payload (shrAt t h.eligible) 15 t).2
  | .pollReply =>
      if radioShed t then t
      else
        match h.frame.bind (frameAt t) with
        | some f =>
            if f.deadline ≤ t.lt.frame then t
            else if hwAdmits t f.air ∨ f.reserved then sendFrame f true (shrAt t h.eligible) t else radioCount 10 1 t
        | none => t
  | _ =>
      let (ok, t1) := hwGate h.payload.length t
      if ok then beginAir none true 0 (shrAt t1 h.eligible) h.payload t1 else t1

/-- An extra, rescue or flood frame may start an attempt: an extra beacon in any slot, a rebroadcast as R434 has it (R416, R422, R438). -/
def hwFits (s : State) (h : HwFrame) : Bool :=
  if h.kind = .rebroadcast then sharedFits s (3888 * (bits (radioPhy s) 4 6 + airUs s (floodLen s h.payload.length)))
  else decide (h.eligible ≤ nowPos s + txdPhases s) && !windowClash s (3888 * (bits (radioPhy s) 4 6 + airUs s (beaconLen s h.payload.length)))

/-- The next hardware frame is sent, or starts channel access (R416, R434, R438); shedding ends a calendar's beacon REFUSED_BUDGET and
a rescue beacon, and holds a rebroadcast (R416, R442). -/
def hwAttempt (s : State) : State :=
  match nextHw s with
  | none => s
  | some h =>
      if s.radio.onAir.isSome then s
      else if h.kind = .extraBeacon ∨ h.kind = .rebroadcast then
        if radioShed s then (if h.kind = .extraBeacon then calBeaconEnd h oBudget (dropHwFrame h s) else s)
        else if radioBusy s ∨ ¬ hwFits s h then s
        else rpSend [5] (modRadio (fun x => { x with hw := x.hw.map (fun k => if k = h then { k with inCca := true, backoffs := k.backoffs + 1 } else k) }) s)
      else sendHw h s

/-- TRANSMIT_ATTEMPT (R434): a queued Seat frame by its ID, or the next hardware frame. -/
def execTransmitAttempt (id : Option (BitVec 16)) (s : State) : Result :=
  .next (if ¬ radioRuns s ∨ s.radio.txBlocked then s
  else
    match id with
    | some i =>
        match frameAt s i.toNat with
        | none => s
        | some f =>
            if ¬ mayAttempt s f then s
            else if f.seqn.isNone ∧ bits f.desc 8 3 ≠ 0 ∧ (¬ s.radio.fcSet ∨ s.radio.keyNeeded) then radioCount 12 1 s
            else if ¬ tokensFree s f.seat (tokPa s) then s
            else rpSend [5] (modFrame f.ident (fun g => { g with inCca := true, backoffs := g.backoffs + 1 }) s)
    | none => hwAttempt s)

/-- A channel access failure uses up one attempt (R434). -/
def accessFailed (f : RadioFrame) (s : State) : State :=
  let g := { f with inCca := false, backoffs := 0, tries := f.tries + 1, chanFail := true }
  if g.tries < (if bit f.desc 0 then 4 else 1) then modFrame f.ident (fun _ => g) s
  else radioEnd g oFaulted 2 s

/-- CCA_COMPLETE (R434): clear starts the transmission; busy backs off again, 4 backoffs at most. -/
def execCcaComplete (busy : Bool) (s : State) : Result :=
  .next (match s.radio.hw.find? (·.inCca), s.radio.frames.find? (·.inCca) with
  | some h, _ =>
      let idle := { h with inCca := false }
      let back (s : State) : State := modRadio (fun x => { x with hw := x.hw.map (fun k => if k = h then idle else k) }) s
      if busy then
        if h.backoffs < 4 then back s
        else
          let t := calBeaconEnd h oFaulted (dropHwFrame h s)
          if h.kind = .rebroadcast then radioCount 9 1 t else t
      else if radioShed s ∧ h.kind ≠ .rebroadcast then calBeaconEnd h oBudget (dropHwFrame h s)
      else if ¬ radioRuns s ∨ s.radio.txBlocked ∨ radioShed s ∨ s.radio.onAir.isSome ∨ ¬ hwFits s h then back s
      else if h.kind = .rebroadcast then sendFlood h.payload (dropHwFrame h s)
      else
        let (o, t) := sendBeacon h.payload (shrAt s h.eligible) 16 (dropHwFrame h s)
        if o = oDone then t else calBeaconEnd h o t
  | none, some f =>
      if busy then (if f.backoffs < 4 then modFrame f.ident (fun g => { g with inCca := false }) s else accessFailed f s)
      else if ¬ radioRuns s ∨ s.radio.txBlocked ∨ radioShed s ∨ s.radio.onAir.isSome ∨ f.deadline ≤ s.lt.frame ∨ ¬ sharedFits s (exchange25 s f) then
        modFrame f.ident (fun g => { g with inCca := false }) s
      else sendFrame { f with inCca := false } false (shrAt s 0) (modFrame f.ident (fun g => { g with inCca := false }) s)
  | none, none => s)

/-- TX_EN falls: tokens released (R407, R441). -/
def endAir (s : State) : State :=
  match s.radio.onAir with
  | none => s
  | some a =>
      let t := modRadio (fun x => { x with onAir := none }) s
      if a.hw then dropHw a.tokens t else dropTokens a.seat a.tokens t

/-- With the radio disabled, its domain gates once the last frame on the air has ended (R444). -/
def radioRest (s : State) : State := if radioEn s then s else domUpdate s

/-- TRANSMISSION_END (R407): a frame with ACK_REQ waits for its acknowledgement, any other is DONE. -/
def execTransmissionEnd (s : State) : Result :=
  .next (match s.radio.onAir with
  | none => s
  | some a =>
      let t := endAir s
      match a.frame.bind (frameAt t) with
      | none => radioRest t
      | some f => if bit f.desc 0 ∧ ¬ bit f.desc 3 then modFrame f.ident (fun g => { g with waitAck := true }) t else radioRest (radioEnd f oDone 0 t))

/-- ACK_TIMEOUT (R434): up to 3 retries; a retry that the accounts do not let pass is not made (R440). -/
def execAckTimeout (id : BitVec 16) (s : State) : Result :=
  .next (match frameAt s id.toNat with
  | none => s
  | some f =>
      if ¬ f.waitAck then s
      else
        let g := { f with waitAck := false }
        if 4 ≤ f.tries ∨ ¬ radioEn s then radioRest (radioEnd g oFaulted 1 s)
        else if ¬ seatAdmits s f.seat f.air (minuteOf (nowPos s)) then radioEnd g oFaulted 8 s
        else modFrame f.ident (fun _ => g) s)

/-- RADIO_FRAME_DEADLINE (R435, R442). -/
def execRadioFrameDeadline (id : BitVec 16) (s : State) : Result :=
  .next (match frameAt s id.toNat with
  | none => s
  | some f =>
      if s.lt.frame < f.deadline ∨ f.waitAck ∨ (s.radio.onAir.map (·.frame)) = some (some f.ident) then s
      else if f.txPos.isSome then radioEnd f oFaulted (if f.chanFail then 2 else 1) s
      else if radioShed s then radioEnd f oBudget 4 s
      else radioEnd f oLate 3 s)

/-- The fields of a descriptor are in range and its reserved fields 0 (R432, R433). -/
def txdOk (s : State) (d : Nat) : Bool :=
  let ver := bits d 4 2
  let nbr := nbrAt s (bits d 16 16)
  let kind := bits nbr.body 80 2
  bits d 6 2 == 0 && bits d 11 5 == 0 && bits d 52 4 == 0 && bits d 160 96 == 0 && ver != 3 && ((bits d 8 3 == 0) == (ver == 0))
    && decide (bits d 56 8 ≤ if bit d 2 then 70 else 82) && (!bit d 2 || bit d 3)
    && (if bit d 3 then !bit d 1
        else decide (bits d 16 16 < 512) && (kind == 1 || kind == 2) && nbr.state != .dropped && (bit d 1 == (kind == 1)))

/-- The earliest legal position of a frame of airtime `a` (R440); none where no minute admits it. -/
def earliestLegal (s : State) (seat a start : Nat) : Option Nat :=
  let m0 := minuteOf start
  let frees := s.radio.airtime.filterMap (fun e =>
    let acc := e.1 / 2 ^ 40
    let m := e.1 % 2 ^ 40 + 60
    if (acc = phyOf s ∨ acc = 3 + seat) ∧ m0 < m then some m else none)
  let ok := (m0 :: frees).filter (fun m => seatAdmits s seat a m)
  match ok with
  | [] => none
  | m :: ms =>
      let best := ms.foldl min m
      some (if best = m0 then start else best * 480000 * phasesPerFrame)

/-- A frame enters the seen cache, which holds 64 pairs (R438). -/
def seenAdd (origin fseq : Nat) (s : State) : State :=
  let life := s.lt.frame / 16 + rbits s (kP 0x600028) 16 16
  modRadio (fun x => { x with seen := (if 64 ≤ x.seen.length then x.seen.drop 1 else x.seen) ++ [(origin, fseq, life)] }) s

/-- A submitted frame of a Seat joins the queue with its minute's budget taken; a flood frame enters the seen list (R433, R436, R439). -/
def radioQueue (seat d : Nat) (body : List Byte) (a p dl : Nat) (s : State) : State :=
  let i := s.radio.nextId
  let f : RadioFrame :=
    { ident := i, seat := seat, desc := d, payload := body, indirect := bit d 1, nbr := bits d 16 16, legal := p, deadline := dl
      air := a, minute := minuteOf p, reserved := true, tries := 0, txPos := none, chanFail := false, seqn := none, fc := 0
      backoffs := 0, inCca := false, waitAck := false }
  let t := airAdd (3 + seat) (minuteOf p) a (airAdd (phyOf s) (minuteOf p) a s)
  let t1 := modRadio (fun x => { x with frames := x.frames ++ [f], nextId := (i + 1) % 65536 }) t
  if bit d 2 ∧ bit (radioCfg s) 23 then modRadio (fun x => { x with ownFseq := (x.ownFseq + 1) % 65536 }) t1
  else if bit d 2 then seenAdd (ownExt s) s.radio.ownFseq (modRadio (fun x => { x with ownFseq := (x.ownFseq + 1) % 65536 }) t1) else t1

/-- SUBMIT (R433): outcome; frame ID, or frames to the retry; the earliest legal LT as an image, where the check has been reached. -/
def radioSubmit (seat d : Nat) (s : State) : Nat × Nat × Option Nat × State :=
  let fin (o x : Nat) (l : Option Nat) (t : State) : Nat × Nat × Option Nat × State := (o, x, l, countOutcome seat o t)
  let nb := bits d 64 32
  let nbf := if nb = 0 then 0 else frame32 s nb
  let dl := frame32 s (bits d 96 32)
  if s.radio.bistRun then fin oSelftest (min 65535 (s.radio.retryFrame - s.lt.frame)) none s
  else
    match dataRead s seat (bits d 128 32) (bits d 56 8) with
    | none => fin oSeat 0 none s
    | some pay =>
      if ¬ (radioEn s ∧ 3 ≤ s.pwr.stage.code ∧ owns s seat 204 0 ∧ txdOk s d) then fin oSeat 0 none s
      else if dl < s.lt.frame + 2 ∨ dl < nbf then fin oLate 0 none s
      else if (if bit d 1 then 256 else 64) ≤ (s.radio.frames.filter (fun f => f.indirect == bit d 1)).length then fin oCapacity 0 none s
      else if quota s seat 0x214 < tokPa s then fin oBudget 0 none s
      else
        let flood := bit d 2
        let head := if flood then 0xC6 :: bits d 48 4 :: leBytes 8 (ownExt s) ++ leBytes 2 s.radio.ownFseq else []
        let body := head.map (fun b => BitVec.ofNat 8 b) ++ pay
        let a := airUs s (frameLen s d body.length)
        let start := max (nowPos s) (nbf * phasesPerFrame)
        match earliestLegal s seat a start with
        | none =>
            let (x, t) := takeFree s
            let (y, u) := takeFree t
            fin oBudget 0 (some (x.toNat + 2 ^ 32 * y.toNat)) u
        | some p =>
            if p ≠ start ∧ (dl - 1) * phasesPerFrame ≤ p then fin oBudget 0 (some (ltImage p)) s
            else
              fin (if p = start then oDone else oDeferred) s.radio.nextId (some (ltImage p)) (radioQueue seat d body a p dl s)

/-- CANCEL (R433): outcome. -/
def radioCancel (seat i : Nat) (s : State) : Nat × State :=
  match frameAt s i with
  | none => (oSeat, countOutcome seat oSeat s)
  | some f =>
      if f.seat ≠ seat then (oSeat, countOutcome seat oSeat s)
      else if f.txPos.isSome then (oLate, countOutcome seat oLate s)
      else (oDone, radioEnd f oDone 9 s)

/-- ADMIT (R418): a DROPPED entry returns to NEW with FC_IN kept; one management change. -/
def radioAdmit (a : Agent) (i v : Nat) (s : State) : Nat × State :=
  let n := nbrAt s i
  if 512 ≤ i ∨ n.state ≠ .dropped then (oSeat, countOutcome a.seat oSeat s)
  else
    match ledgerMgmt a 1 0x600480 0 v false [] s with
    | none => (oLedger, countOutcome a.seat oLedger s)
    | some t => (oDone, countOutcome a.seat oDone (modNbr i (fun n => { n with state := .new, windowPolls := 0, missed := 0, resc := 0, windows := [], decided := 0 }) t))

/-- A write of RADIO_CMD by a path (R418, R433). -/
def radioCommand (a : Agent) (v : Nat) (s : State) : Nat × State :=
  let put (o x : Nat) (t : State) : State := modPath a.pk (fun p => { p with radioOutcome := o, radioFrame := x }) t
  match v % 4 with
  | 1 =>
      let (o, x, l, t) := radioSubmit a.seat (rget s (kPath a.pk 0x600400)) s
      let t1 := put o x t
      match l with
      | some p => (o, modRadio (fun y => { y with legal := tset 0 y.legal a.pk p }) t1)
      | none => (o, t1)
  | 2 => let (o, t) := radioCancel a.seat (bits v 16 16) s; (o, put o (bits v 16 16) t)
  | 3 => let (o, t) := radioAdmit a (bits v 16 16) v s; (o, put o (bits v 16 16) t)
  | _ => (oDone, s)

/-- End the queued frames of an entry (R418, R424). -/
def endNbrFrames (i detail : Nat) (s : State) : State :=
  (s.radio.frames.filter (fun f => f.indirect && f.nbr == i)).foldl (fun t f => radioEnd f oSeat detail t) s

/-- The 32 bytes of an entry as written are allowed (R418). -/
def nbrOk (s : State) (i v : Nat) : Bool :=
  let dup := (List.range 512).any (fun j => let n := nbrAt s j
    j != i && n.state != .free && (bits n.body 0 64 == bits v 0 64 || (bits n.body 64 16 == bits v 64 16 && bits v 64 16 != 0xFFFE)))
  decide (bits v 80 2 ≤ 2) && decide (bits v 96 4 ≤ 14) && decide (bits v 104 16 < phasesPerFrame) && decide (bits v 128 16 < 2 ^ bits v 96 4)
    && !dup

/-- The writable bits of an entry (R417): reserved ones are discarded (R7). -/
def nbrMask : Nat := 2 ^ 82 - 1 + 15 * 2 ^ 88 + (2 ^ 24 - 1) * 2 ^ 96 + (2 ^ 16 - 1) * 2 ^ 128

/-- Apply an entry, written whole (R418): outcome. -/
def nbrApply (a : Agent) (i v : Nat) (s : State) : Nat × State :=
  if ¬ nbrOk s i v then (oSeat, s)
  else
    let n := nbrAt s i
    let body := v &&& nbrMask
    if body = n.body then (oDone, s)
    else
      match ledgerMgmt a 1 (0x604000 + 32 * i) (n.body % 2 ^ 32) (body % 2 ^ 32) false (valueConts 32 n.body body) s with
      | none => (oLedger, s)
      | some t =>
          let keep := n.state ≠ .free ∧ bits n.body 0 64 = bits v 0 64 ∧ bits v 80 2 ≠ 0
          let m : Neighbour :=
            if keep then { n with body := body, windowPolls := 0, windows := [], decided := 0 }
            else if bits v 80 2 = 0 then { Neighbour.free with body := body, drift := rbits s (kP 0x600024) 0 8 }
            else { Neighbour.free with body := body, state := .new, drift := rbits s (kP 0x600024) 0 8 }
          let t1 := if bits v 80 2 = 0 ∨ ¬ keep then endNbrFrames i 6 t else t
          (oDone, modNbr i (fun _ => m) t1)

/-- The key check value (R430); 0, the reset value of RADIO_KCV, of a key never written. -/
def keyCheck (k : Nat) : Nat := if bit k 128 then ofLe ((aes128 (leBytes 16 (bits k 0 128)) (List.replicate 16 0)).take 4) else 0

/-- Apply a key (R430): outcome. -/
def keyApply (a : Agent) (k v0 : Nat) (s : State) : Nat × State :=
  let v := setBit (bits v0 0 128) 128
  match ledgerMgmt a 1 (0x600100 + 16 * k) (keyCheck (tget 0 s.radio.keys k)) (keyCheck v) false [] s with
  | none => (oLedger, s)
  | some t => (oDone, modRadio (fun x => { x with keys := tset 0 x.keys k v, keyNeeded := false }) t)

/-- After a write of RADIO_FC_OUT (R431). -/
def fcOutHook (v : Nat) (s : State) : State :=
  let near := decide (0xFFFF0000 ≤ v)
  let t := modRadio (fun x => { x with fcSet := v != 0xFFFFFFFF, fcNear := near, keyNeeded := x.keyNeeded || v == 0xFFFFFFFF }) s
  if near ∧ ¬ s.radio.fcNear then radioCause 5 t else t

/-- IDENT (R409). -/
def identReply (reply : Nat) (s : State) : State :=
  if bits reply 0 8 = 0x5A ∧ bits reply 8 8 = 1 ∧ bit reply (16 + phyOf s) then
    rpMode 2 (rpChan (modRadio (fun x => { x with up := true, portFault := false, bands := bits reply 16 4 }) s))
  else if s.radio.portFault then modRadio (fun x => { x with bands := bits reply 16 4 }) s
  else setCause 0 0x600F00 6 (faultRaise 391 (modRadio (fun x => { x with up := false, portFault := true, bands := bits reply 16 4 }) s))

/-- IDENT_RETRY (R409): while enabled without a correct reply. -/
def execIdentRetry (reply : BitVec 32) (s : State) : Result :=
  .next (if radioEn s ∧ ¬ s.radio.up ∧ ¬ s.radio.bistFail ∧ radioPort s then identReply reply.toNat (rpSend [7] s) else s)

/-- The frame in progress ends with a fault of the port (R409, R482): the one on the air, in channel access or awaiting its
acknowledgement; a rebroadcast among them is dropped, a calendar's beacon ends FAULTED. -/
def portFaultEnds (s : State) : State :=
  let air := s.radio.onAir.bind (·.frame)
  let t := (s.radio.frames.filter (fun f => some f.ident == air || f.inCca || f.waitAck)).foldl (fun t f => radioEnd f oFaulted 7 t) (endAir s)
  (t.radio.hw.filter (·.inCca)).foldl (fun u h =>
    let w := calBeaconEnd h oFaulted (dropHwFrame h u)
    if h.kind = .rebroadcast then radioCount 9 1 w else w) t

/-- RADIO_PORT_FAULT (R409). -/
def execRadioPortFault (s : State) : Result :=
  .next (if ¬ (radioEn s ∧ s.radio.up) then s
  else
    let t := portFaultEnds (modRadio (fun x => { x with up := false, portFault := true }) s)
    setCause 0 0x600F00 6 (faultRaise 391 t))

/-- The effect of clearing RADIO_CFG.EN (R444). -/
def radioDisable (s : State) : State :=
  let onAir := s.radio.onAir.bind (·.frame)
  let s1 := (s.radio.frames.filter (fun f => !f.waitAck && some f.ident != onAir)).foldl (fun t f => radioEnd f oSeat 10 t) s
  let lost := (s1.radio.hw.filter (fun h => h.kind = .rebroadcast)).length
  let s2 := s1.radio.hw.foldl (fun t h => calBeaconEnd h oSeat t) (radioCount 9 lost s1)
  rpMode 0 (modRadio (fun x => { x with hw := [], up := false, sfCycle := none
                                        nbrs := x.nbrs.map (fun e => (e.1, { e.2 with windows := [] })) }) s2)

/-- After a write of RADIO_CFG: EN rising issues IDENT, EN falling disables (R409, R444). -/
def radioCfgHook (old new : Nat) (s : State) : State :=
  if bit old 0 = bit new 0 then s
  else if bit new 0 then rpSend [7] (modRadio (fun x => { x with up := false, mode := 1 }) s)
  else radioDisable s

/-- A RADIO_CFG write is allowed (R413). -/
def radioCfgOk (v : Nat) : Bool :=
  decide (bits v 1 4 ≤ 14) && decide (bits v 5 4 ≤ 10) && decide (bits v 5 4 ≤ bits v 1 4) && decide (bits v 9 14 < 2 ^ bits v 1 4)

/-- A RADIO_PHY write is allowed (R412): PHY and SCK change only while EN = 0; codes 3 are reserved. -/
def radioPhyOk (s : State) (old v : Nat) : Bool := (!radioEn s || bits old 0 4 == bits v 0 4) && bits v 0 2 != 3 && bits v 2 2 != 3

/-- After a RADIO_PHY write (R482). -/
def radioPhyHook (s : State) : State := modRadio (fun x => { x with txBlocked := false }) s

/-- The beacon descriptor (R415): its cycle, RESCUE, the entries listed. -/
def beaconBody (s : State) (rescue : Bool) (list : List Nat) : List Byte :=
  let bs := 0xC7 :: (bits (sfCfgNow s) 1 4 + 16 * bits (sfCfgNow s) 5 4) :: leBytes 4 (bits (if s.radio.sfCycle.isSome then s.radio.sfSlot else rget s (kP 0x60001C)) 0 30)
    ++ leBytes 6 (s.lt.frame / 16 * 16) ++ leBytes 2 (ackDelayUs s)
    ++ [b2n rescue + 2 * b2n (radioShed s) + 4 * list.length, 0] ++ list.flatMap (fun i => leBytes 8 (bits (nbrAt s i).body 0 64))
  bs.map (fun b => BitVec.ofNat 8 b)

/-- The tags in rescue (R423), and the four that the next beacon lists, rotating in ascending entry order. -/
def inRescue (s : State) : List Nat :=
  (s.radio.nbrs.filter (fun e => e.2.state = .lostSync && decide (1 ≤ e.2.resc ∧ e.2.resc ≤ 64))).map (·.1)
def rescueList (s : State) : List Nat :=
  let all := inRescue s
  ((all.filter (fun i => decide (s.radio.rotate ≤ i))) ++ all.filter (fun i => decide (i < s.radio.rotate))).take 4

/-- An extra or rescue beacon waits for channel access. -/
def queueBeacon (cal : Option (Nat × Nat)) (eligible : Nat) (payload : List Byte) (s : State) : State :=
  modRadio (fun x => { x with hw := x.hw ++ [{ kind := .extraBeacon, payload := payload, frame := none, cal := cal, eligible := eligible
                                               ready := true, expiry := 0, backoffs := 0, inCca := false }] }) s

/-- The calendar's extra beacon (R416): the outcome, none while it is being sent. -/
def calBeacon (seat i p arg : Nat) (s : State) : Option Nat × State :=
  if ¬ (owns s seat 204 0 ∧ radioEn s ∧ arg = 0) then (some oSeat, s)
  else
    let list := rescueList s
    if radioShed s then (some oBudget, s)
    else if ¬ hwAdmits s (airUs s (beaconLen s (16 + 8 * list.length))) then (some oBudget, radioCount 10 1 s)
    else if ¬ tokensFreeHw s (tokPa s) then (some oBudget, radioCount 11 1 s)
    else (none, queueBeacon (some (seat, i)) (p + 160) (beaconBody s true list) s)

/-- What the radio does at a cycle boundary (R412, R413, R423): rescue cycles count, settings come into force, beacons. `old` is
the cycle before the boundary; a beacon due in cycles left out is sent now (R501). -/
def radioCycle (old : Nat) (s : State) : State :=
  if ¬ radioEn s then s
  else
    let c := s.lt.frame / 16
    let s1 := modRadio (fun x => { x with nbrs := x.nbrs.map (fun e =>
      (e.1, if e.2.state = .lostSync then { e.2 with resc := min 65 (e.2.resc + 1) } else e.2)) }) s
    let inOld := match s1.radio.sfCycle with
      | some b => decide (c < b + 2 ^ bits s1.radio.sfCfg 5 4) && (bits s1.radio.sfCfg 1 22 != bits (radioCfg s1) 1 22 || s1.radio.sfSlot != rget s1 (kP 0x60001C))
      | none => false
    let newDue := cycleDue old c (2 ^ bits (radioCfg s1) 1 4) (bits (radioCfg s1) 9 14) && !inOld
    let oldDue := s1.radio.sfCycle.isSome && cycleDue old c (2 ^ bits s1.radio.sfCfg 1 4) (bits s1.radio.sfCfg 9 14)
    let kept := modRadio (fun x => { x with hw := x.hw.filter (fun h => h.kind != .extraBeacon || h.cal.isSome) }) s1
    let s2 := if newDue then rpChan (modRadio (fun x => { x with sfCycle := some c, sfCfg := radioCfg s1, sfSlot := rget s1 (kP 0x60001C) }) kept)
      else if oldDue then modRadio (fun x => { x with sfCycle := some c }) kept else kept
    if ¬ radioRuns s2 ∨ s2.radio.txBlocked then s2
    else
      let list := rescueList s2
      let s3 := modRadio (fun x => { x with rotate := (list.getLast?.map (· + 1)).getD x.rotate }) s2
      if newDue || oldDue then
        let body := beaconBody s3 false list
        if s3.radio.onAir.isNone then (sendBeacon body (nowPos s3 + 160) 15 s3).2
        else modRadio (fun x => { x with hw := x.hw ++ [{ kind := .beacon, payload := body, frame := none, cal := none
                                                          eligible := nowPos s3 + 160, ready := true, expiry := 0, backoffs := 0, inCca := false }] }) s3
      else if list = [] ∨ radioShed s3 then s3
      else queueBeacon none (nowPos s3 + 160) (beaconBody s3 true list) s3

/-- RADIO_BIST_PASS_END (R443). -/
def execRadioBistPassEnd (fail : Bool) (s : State) : Result :=
  .next (if fail ∧ radioEn s then
    faultRaise 392 (rpMode 0 (modRadio (fun x => { x with bistFail := true, portFault := false, up := false }) s)) else s)

/-- START of RADIO_BIST_CMD (R443): 20 ms are at most 168 frames. -/
def radioBistOrder (s : State) : State :=
  if s.radio.bistRun then s
  else modRadio (fun x => { x with bistRun := true, bistOutcome := oDone, retryFrame := s.lt.frame + 169 }) s

/-- RADIO_OFFLINE_BIST_END (R443). -/
def execRadioOfflineBistEnd (s : State) : Result :=
  .next (if s.radio.bistRun then
    setCause 0 0x600F00 7 (modRadio (fun x => { x with bistRun := false, bistFail := false, retryFrame := s.lt.frame + 2 }) s) else s)

end Sys2Proof.Machine
end

