-- ==== Sys2Proof/Machine/RadioRx.lean ====
section
/-!
DEFINITION. What the cord radio receives (R408, R417 to R429, R436 to R438): checks, acknowledgements, tag polls, cord reports, floods,
records, and the tracking of sleepy tags. The step of a received frame stands at the rising edge of RX_TS.
-/
namespace Sys2Proof.Machine

open Sys2Proof

/-- RX_LT of a frame stamped now, and its arrival, in units of 1/25 phase unit (R408). -/
def rxLt25 (s : State) : Nat := 25 * nowPos s - 3888 * bits (radioPhy s) 10 6
def arrival25 (s : State) : Nat := rxLt25 s - 3888 * shrUs s

/-- RX_LT as a position; the end of a frame of a length, in units of 1/25 phase unit (R411). -/
def rxLtPos (s : State) : Nat := posOf25 (rxLt25 s)
def frameEnd25 (s : State) (r : RadioRx) : Nat := arrival25 s + 3888 * airUs s r.length.toNat

/-- The entry of a source (R426 step 5). -/
def srcEntry (s : State) (src : RadioSrc) : Option Nat :=
  (s.radio.nbrs.find? (fun e => e.2.state != .free && (match src with
    | .none => false
    | .short a => bits e.2.body 64 16 == a.toNat && a.toNat != 0xFFFE
    | .ext a => bits e.2.body 0 64 == a.toNat))).map (·.1)

/-- Fields of an entry. -/
def nbrKind (n : Neighbour) : Nat := bits n.body 80 2
def nbrKey (n : Neighbour) : Nat := bits n.body 88 4

/-- The drift in force (R421). -/
def driftOf (s : State) (n : Neighbour) : Nat :=
  if ¬ bit (radioCfg s) 26 ∨ n.windowPolls < 2 then rbits s (kP 0x600024) 0 8 else n.drift

/-- The entry's window in which the arrival lies, the oldest of several (R422). -/
def windowOf (s : State) (n : Neighbour) : Option (Nat × Nat) :=
  n.windows.find? (fun x => decide ((max (arrival25 s) (25 * x.1) - min (arrival25 s) (25 * x.1)) * 2 * 10 ^ 6 ≤ x.2))
def inWindow (s : State) (n : Neighbour) : Bool := (windowOf s n).isSome

/-- A frame is queued for an entry. -/
def hasQueued (s : State) (i : Nat) : Bool := s.radio.frames.any (fun f => f.indirect && f.nbr == i)

/-- Queue an acknowledgement that starts a delay in µs after the end of the received frame (R429). -/
def queueAck (kind : HwKind) (r : RadioRx) (delay : Nat) (psdu : List Byte) (s : State) : State :=
  modRadio (fun x => { x with hw := x.hw ++ [{ kind := kind, payload := psdu, frame := none, cal := none
                                               eligible := posOf25 (frameEnd25 s r + 3888 * delay), ready := true
                                               expiry := 0, backoffs := 0, inCca := false }] }) s

/-- The Imm-Ack of a frame (R429). -/
def immAck (r : RadioRx) (i : Option Nat) (s : State) : State :=
  let h : MacHdr := { ftype := 2, pending := (i.map (hasQueued s)).getD false, ackReq := false, version := 0, dst := .none, hasSrc := false
                      seqn := r.seq.toNat, level := 0, key := 0, fc := 0, ies := [] }
  queueAck .immAck r (turnUs s) (buildPsdu s h []) s

/-- The Time Correction IE (R429): −e in µs, 12 bits. -/
def timeIe (e : Int) : List Nat :=
  let q := (-e) / 3888
  let c := if (-e) % 3888 ≠ 0 ∧ Config.roundUp (-e) 3888 then q + 1 else q
  leBytes 2 0x0F02 ++ leBytes 2 (img 12 c)

/-- The Enh-Ack of a frame (R429); withheld without an outgoing counter (R431). -/
def enhAck (r : RadioRx) (i : Nat) (e : Int) (s : State) : State :=
  let level := if r.secured then r.level.toNat else 0
  match fcFor level s with
  | none => radioCount 12 1 s
  | some (fc, t) =>
      let dst : RadioDst := match r.src with
        | .none => .none
        | .short a => .short a
        | .ext a => .ext a
      let h : MacHdr := { ftype := 2, pending := hasQueued s i, ackReq := false, version := 2, dst := dst, hasSrc := false, seqn := r.seq.toNat
                          level := level, key := nbrKey (nbrAt s i), fc := fc, ies := timeIe e }
      queueAck .enhAck r (ackDelayUs t) (buildPsdu t h []) t

/-- CCM* of a received frame (R428): the payload in clear when the MIC verifies. -/
def rxVerify (s : State) (n : Neighbour) (r : RadioRx) : Option (List Byte) :=
  let level := r.level.toNat
  let key := radioKey s (nbrKey n)
  let nonce := radioNonce (bits n.body 0 64) r.counter.toNat level
  let hdr := r.header.map (·.toNat)
  let pay := r.payload.map (·.toNat)
  let clear := if 4 ≤ level then ccmCrypt key nonce pay else pay
  let mic := if 4 ≤ level then ccmMic key nonce hdr clear (micLen level) else ccmMic key nonce (hdr ++ pay) [] (micLen level)
  if mic = r.mic.map (·.toNat) then some (clear.map (fun b => BitVec.ofNat 8 b)) else none

/-- A received frame as it is dispatched. -/
structure RxInfo where
  kind : Nat
  entry : Nat
  level : Nat
  fc : Nat
  ext : Nat
  unknown : Bool
  dropped : Bool
  read : Bool
  noPort : Bool
  notHolder : Bool
  relayed : Bool
  port : Option Nat
  payload : List Byte

/-- A receive record as a Seat gets it (R436). -/
def rxRecord (s : State) (seat : Nat) (r : RadioRx) (x : RxInfo) : List Byte :=
  let flags := b2n r.secured + 2 * b2n x.unknown + 4 * b2n x.dropped + 8 * b2n x.read + 16 * b2n x.noPort + 32 * b2n x.notHolder + 64 * b2n x.relayed
  let port := if x.kind = 3 then (match x.port with
    | some p => ((localOf s seat 0 p).map (·.1)).getD 0xFE
    | none => 0xFF) else 0
  toBytes 1 x.kind ++ toBytes 1 flags ++ toBytes 2 x.entry ++ [r.rssi, r.lqi] ++ toBytes 1 x.level ++ toBytes 1 x.payload.length
    ++ toBytes 8 (ltImage (rxLtPos s)) ++ toBytes 8 x.ext ++ toBytes 4 x.fc ++ [r.seq] ++ toBytes 1 port ++ toBytes 2 0
    ++ x.payload ++ List.replicate ((4 - x.payload.length % 4) % 4) 0

/-- Deliver a record to every Seat with the radio and RX_EN (R436). -/
def rxDeliver (r : RadioRx) (x : RxInfo) (s : State) : State :=
  (seats.filter (fun n => fitted s n 204 0 && rbit s (kS n 0x600074) 0)).foldl (fun t n =>
    if 64 ≤ (radioSeat t n).rx.length then setCause n 0x600F00 2 (radioCount (100 + n) 1 t)
    else setCause n 0x600F00 1 (modRadio (fun y => { y with seats := tmod .reset y.seats n (fun z => { z with rx := z.rx ++ [rxRecord t n r x] }) }) t)) s

/-- A sync without drift measurement (R419). -/
def syncEntry (s : State) (n : Neighbour) : Neighbour :=
  { n with lastSync := arrival25 s, missed := 0, resc := 0, state := .tracked }

/-- A window poll: sync and drift (R419, R421): m = |e| / (arrival − previous sync) in ppm, rounded up. -/
def windowPoll (s : State) (n : Neighbour) (e : Int) : Neighbour :=
  let gap := arrival25 s - n.lastSync
  let m := if gap = 0 then 0 else (e.natAbs * 10 ^ 6 + gap - 1) / gap
  let k := n.windowPolls + 1
  let d0 := driftOf s n
  let d := if bit (radioCfg s) 26 ∧ 2 ≤ k then max (rbits s (kP 0x600024) 8 8) (max (m + 2) (d0 - 1)) else rbits s (kP 0x600024) 0 8
  { syncEntry s n with windowPolls := min k 2, drift := d, windows := match windowOf s n with | some w => n.windows.erase w | none => n.windows }

/-- The oldest queued frame follows one turnaround after the end of a poll's acknowledgement, or of the poll where it asked for none (R419). -/
def queueReply (r : RadioRx) (i : Nat) (s : State) : State :=
  let after := match (s.radio.hw.filter (fun h => h.kind = .immAck || h.kind = .enhAck)).getLast? with
    | some h => 25 * h.eligible + 3888 * airUs s h.payload.length
    | none => frameEnd25 s r
  match s.radio.frames.find? (fun f => f.indirect && f.nbr == i) with
  | none => s
  | some f =>
      if radioShed s ∨ s.radio.hw.any (fun h => h.frame == some f.ident) then s
      else
        modRadio (fun x => { x with hw := x.hw ++ [{ kind := .pollReply, payload := [], frame := some f.ident, cal := none
                                                     eligible := posOf25 (after + 3888 * turnUs s), ready := true, expiry := 0, backoffs := 0
                                                     inCca := false }] }) s

/-- A cord report's PRESENT, PID and CODE (R437). -/
def reportOf (p : List Byte) : Option (Bool × Nat × List Byte) :=
  match p with
  | a :: f :: b0 :: b1 :: b2 :: b3 :: l :: code =>
      if a = 0xC5 ∧ f.toNat / 4 = 0 ∧ 1 ≤ l.toNat ∧ l.toNat ≤ 32 ∧ code.length = l.toNat then
        some (f.getLsbD 0, bytesVal [b0, b1, b2, b3], code)
      else none
  | _ => none

/-- The line port of a port identity (R437). -/
def portOfPid (s : State) (pid : Nat) : Option Nat :=
  (List.range 16).findSome? (fun k => let v := rget s (kP (0x600300 + 8 * k))
    if bit v 63 ∧ bits v 0 32 = pid then some (bits v 32 4) else none)

/-- A flood from a PEER (R438): dropped as already seen, or delivered and queued for rebroadcast. -/
def rxFlood (r : RadioRx) (x : RxInfo) (s : State) : State :=
  let p := x.payload
  let origin := bytesVal ((p.drop 2).take 8)
  let fseq := bytesVal ((p.drop 10).take 2)
  let ttl := ((p.getD 1 0).toNat) % 16
  if bit (radioCfg s) 23 then rxDeliver r x s
  else if s.radio.seen.any (fun e => e.1 == origin && e.2.1 == fseq && decide (s.lt.frame / 16 < e.2.2)) ∨ origin = ownExt s then radioCount 8 1 s
  else
    let s1 := rxDeliver r { x with relayed := true } (seenAdd origin fseq s)
    if ttl = 0 ∨ ¬ bit (radioCfg s) 24 then s1
    else
      let body := p.take 1 ++ toBytes 1 ((p.getD 1 0).toNat / 16 * 16 + (ttl - 1)) ++ p.drop 2
      modRadio (fun y => { y with hw := y.hw ++ [{ kind := .rebroadcast, payload := body, frame := none, cal := none, eligible := nowPos s
                                                   ready := false, expiry := s.lt.frame / 16 + rbits s (kP 0x600028) 16 16, backoffs := 0, inCca := false }] }) s1

/-- Kind of a record: 0 data, 1 beacon, 2 MAC command. -/
def rxKindCode : RadioKind → Nat
  | .beacon => 1 | .command => 2 | .data => 0 | .ack => 0 | .other => 0

/-- Step 11: polls, cord reports, floods, the record (R419, R423, R436 to R438). `e` is given for a window poll. -/
def rxDispatch (r : RadioRx) (i : Nat) (payload : List Byte) (e : Option Int) (s : State) : State :=
  let n := nbrAt s i
  let report := if r.kind = .data then reportOf payload else none
  let level := if r.secured then r.level.toNat else 0
  let tag := nbrKind n == 1 && n.state != .dropped
  let poll := tag && (e.isSome || ((r.dataRequest || report.isSome) && ((slotNow s).1 != 0 || n.state == .lostSync)))
  let s1 :=
    match e with
    | some d => if tag ∧ n.state = .tracked then modNbr i (fun n => windowPoll s n d) s else if tag then modNbr i (syncEntry s) s else s
    | none => if tag ∧ (poll ∨ n.state = .lostSync) then modNbr i (syncEntry s) s else s
  let s2 := if poll then queueReply r i s1 else s1
  let now := (nbrAt s2 i).state
  let port := report.bind (fun x => portOfPid s x.2.1)
  let isRead := match report with
    | some (present, _, _) => present && (now = .tracked || now = .new) && tag && decide (bits (radioSec s) 12 3 ≤ level) && port.isSome && holdsRein s
    | none => false
  let flood := r.kind = .data && nbrKind n == 2 && payload.head? == some 0xC6 && decide (12 ≤ payload.length)
  let x : RxInfo :=
    { kind := if report.isSome then 3 else if flood then 4 else rxKindCode r.kind, entry := i, level := level, fc := r.counter.toNat
      ext := bits n.body 0 64, unknown := false, dropped := n.state == .dropped, read := isRead, noPort := report.isSome && port.isNone
      notHolder := report.isSome && !holdsRein s, relayed := false, port := port, payload := payload }
  let s3 := match report, port with
    | some (_, _, code), some p => if isRead then proofRead p 1 0 code (rxLtPos s) s2 else s2
    | _, _ => s2
  if flood then rxFlood r x s3 else rxDeliver r x s3

/-- The frame that waits for this acknowledgement: an Imm-Ack for versions 0 and 1, an Enh-Ack for version 2 (R429), by its sequence number,
and from its destination where the Enh-Ack names its source. -/
def ackFor (r : RadioRx) (i : Option Nat) (s : State) : Option RadioFrame :=
  s.radio.frames.find? (fun f => f.waitAck && f.seqn == some r.seq.toNat && (decide (bits f.desc 4 2 < 2) == decide (r.version.toNat < 2))
    && (match i with | some k => f.nbr == k | none => true))

/-- An acknowledgement that a frame waits for ends the frame (R434, R435). -/
def rxAck (r : RadioRx) (i : Option Nat) (s : State) : State :=
  match ackFor r i s with
  | some f => radioRest (radioEnd { f with waitAck := false } oDone 0 s)
  | none => s

/-- Steps 9 and 10 and the dispatch (R426). -/
def rxAccepted (r : RadioRx) (i : Nat) (payload : List Byte) (dup : Bool) (s : State) : State :=
  let n := nbrAt s i
  let level := if r.secured then r.level.toNat else 0
  let least := match r.kind with
    | .data => bits (radioSec s) 4 3
    | .command => bits (radioSec s) 8 3
    | _ => 0
  let e : Option Int := if nbrKind n = 1 then (windowOf s n).map (fun w => (arrival25 s : Int) - 25 * (w.1 : Int)) else none
  if level < least then radioCount 6 1 s
  else
    let s1 := if dup then radioCount 7 1 s
      else modNbr i (fun n => { n with lastSeq := r.seq.toNat, fcIn := if r.secured then r.counter.toNat else n.fcIn, fcValid := n.fcValid || r.secured }) s
    let s2 := if r.version = 2 ∧ r.ackReq ∧ n.state ≠ .dropped then enhAck r i (e.getD 0) s1 else s1
    if dup then s2
    else if r.kind = .ack then rxAck r (some i) s2
    else rxDispatch r i payload e s2

/-- Steps 5 to 8 (R426 to R428). -/
def rxSecured (r : RadioRx) (s : State) : State :=
  match (if r.kind = .ack ∧ r.src = .none then (ackFor r none s).map (·.nbr) else srcEntry s r.src) with
  | none =>
      if ¬ r.secured ∧ bit (radioCfg s) 25 then
        rxDeliver r { kind := rxKindCode r.kind, entry := 0xFFFF, level := 0, fc := r.counter.toNat
                      ext := match r.src with | .ext a => a.toNat | _ => 0
                      unknown := true, dropped := false, read := false, noPort := false, notHolder := false, relayed := false, port := none
                      payload := r.payload } s
      else radioCount 2 1 s
  | some i =>
      let n := nbrAt s i
      if ¬ r.secured then rxAccepted r i r.payload false s
      else if r.keyMode = 1 ∧ r.keyIndex.toNat ≠ nbrKey n then radioCount 3 1 s
      else
        let c := r.counter.toNat
        let pass := c ≠ 0xFFFFFFFF ∧ (¬ n.fcValid ∨ n.fcIn < c)
        let dup := c ≠ 0xFFFFFFFF ∧ n.fcValid ∧ c = n.fcIn ∧ r.seq.toNat = n.lastSeq
        if ¬ pass ∧ ¬ dup then radioCount 4 1 s
        else
          match rxVerify s n r with
          | none => radioCount 5 1 s
          | some payload => rxAccepted r i payload (decide dup) s

/-- The destination of a frame is this part (R426 step 3). -/
def rxForUs (s : State) (r : RadioRx) : Bool :=
  match r.dst with
  | .none => r.kind == .beacon || (r.kind == .ack && (ackFor r none s).isSome)
  | .short a => (r.dstPan.toNat == ownPan s || r.dstPan.toNat == 0xFFFF) && (a.toNat == 0xFFFF || a.toNat == ownShort s)
  | .ext a => (r.dstPan.toNat == ownPan s || r.dstPan.toNat == 0xFFFF) && a.toNat == ownExt s

/-- The radio listens now (R414, R422, R423): a slot that is not OFF, a window, a rescue window, an awaited acknowledgement. -/
def listening (s : State) : Bool :=
  (slotNow s).1 != 0 || windowOpen s || rescueOpen s || s.radio.frames.any (·.waitAck) || s.radio.nbrs.any (fun e => inWindow s e.2)

/-- With the radio disabled, the wait of the last frame for its acknowledgement goes on (R444). -/
def ackOnly (s : State) (r : RadioRx) : Bool := !radioEn s && r.kind == .ack && s.radio.frames.any (·.waitAck) && radioPort s && !s.radio.bistRun

/-- RADIO_FRAME_RECEIVE (R426): READ_RX, then the checks. -/
def execRadioFrameReceive (r : RadioRx) (s0 : State) : Result :=
  let s := rpSend [4] s0
  .next (if ¬ (radioRuns s0 ∧ listening s0) ∧ ¬ ackOnly s0 r then s0
  else if ¬ r.fcsOk then radioCount 0 1 s
  else if r.version = 3 ∨ r.kind = .other ∨ ¬ r.addrOk ∨ (r.secured ∧ (r.version = 0 ∨ 2 ≤ r.keyMode.toNat)) then radioCount 1 1 s
  else if r.kind = .ack ∧ r.version.toNat < 2 ∧ ¬ r.secured then rxAck r none s
  else if ¬ rxForUs s r then s
  else
    let i := srcEntry s r.src
    let unicast : Bool := match r.dst with
      | .short a => a.toNat != 0xFFFF
      | .ext _ => true
      | .none => false
    let dropped : Bool := match i with
      | some k => (nbrAt s k).state == .dropped
      | none => false
    rxSecured r (if r.version.toNat < 2 ∧ r.ackReq ∧ unicast ∧ ¬ dropped then immAck r i s else s))

/-- The first scheduled poll of an entry after a position (R419). -/
def nextPoll (n : Neighbour) (pos : Nat) : Nat :=
  let per := 2 ^ bits n.body 96 4
  let ofs := bits n.body 128 16
  let at_ (c : Nat) : Nat := (16 * c + bits n.body 100 4) * phasesPerFrame + bits n.body 104 16
  let c0 := pos / phasesPerFrame / 16
  let c1 := c0 + (ofs + per - c0 % per) % per
  if pos < at_ c1 then at_ c1 else at_ (c1 + per)

/-- POLL_WINDOW_DECISION (R422): at P − 4 ms, 32 frames. -/
def execPollWindowDecision (i : BitVec 9) (s : State) : Result :=
  let n := nbrAt s i.toNat
  let p := nextPoll n (max (nowPos s) n.decided)
  .next (if ¬ radioEn s ∨ n.state ≠ .tracked ∨ nbrKind n ≠ 1 ∨ s.lt.frame + 32 < p / phasesPerFrame then s
  else
    let t := advanceTo (p - 32 * phasesPerFrame) s
    let w := 192 * 3888 * 10 ^ 6 + 2 * driftOf s n * (25 * p - n.lastSync)
    if w ≤ 8000 * 3888 * 10 ^ 6 then modNbr i.toNat (fun n => { n with windows := n.windows ++ [(p, w)], decided := p }) t
    else radioCause 3 (modNbr i.toNat (fun n => { n with state := .lostSync, resc := 0, windows := [], decided := p }) t))

/-- POLL_WINDOW_MISS (R422): the oldest window has ended with no poll. -/
def execPollWindowMiss (i : BitVec 9) (s : State) : Result :=
  .next (match (nbrAt s i.toNat).windows.head? with
  | none => s
  | some (p, w) =>
      let stop := p + (w + 50 * 10 ^ 6 - 1) / (50 * 10 ^ 6)
      if s.lt.frame < stop / phasesPerFrame then s
      else modNbr i.toNat (fun n => { n with windows := n.windows.drop 1, missed := satAdd 255 n.missed 1 }) (advanceTo stop s))

/-- TAG_DROP (R424): the cycle boundary that ends the 64th rescue cycle has come. -/
def execTagDrop (i : BitVec 9) (s : State) : Result :=
  let n := nbrAt s i.toNat
  .next (if n.state ≠ .lostSync ∨ n.resc < 65 then s
  else
    let k := (s.radio.frames.filter (fun f => f.indirect && f.nbr == i.toNat)).length
    let t := endNbrFrames i.toNat 5 (modNbr i.toNat (fun n => { n with state := .dropped, windows := [] }) s)
    radioCause 4 (radioCount 17 1 (ledgerHwSeat (ownerOf s 204 0) 11 0x14 (0xFF000000 + i.toNat) 3 k false [] t)))

/-- FLOOD_REBROADCAST_ELIGIBLE (R438): the oldest rebroadcast whose jitter delay has expired. -/
def execFloodRebroadcastEligible (s : State) : Result :=
  .next (match s.radio.hw.find? (fun h => h.kind = .rebroadcast && !h.ready) with
  | none => s
  | some h => modRadio (fun x => { x with hw := x.hw.map (fun k => if k = h then { k with ready := true, eligible := nowPos s } else k) }) s)

/-- SEEN_ENTRY_EXPIRY (R438): seen pairs and unsent rebroadcasts older than SEEN_LIFE cycles. -/
def execSeenEntryExpiry (s : State) : Result :=
  let c := s.lt.frame / 16
  let lost := (s.radio.hw.filter (fun h => h.kind = .rebroadcast && decide (h.expiry ≤ c))).length
  .next (radioCount 9 lost (modRadio (fun x =>
    { x with seen := x.seen.filter (fun e => decide (c < e.2.2))
             hw := x.hw.filter (fun h => !(h.kind = .rebroadcast && decide (h.expiry ≤ c))) }) s))

/-- Status bytes of an entry (R417), 16 bytes from byte 16 on: POLL_OFS as written, then the RO fields. -/
def nbrImage (s : State) (i : Nat) : Nat :=
  let n := nbrAt s i
  let st := match n.state with | .free => 0 | .new => 1 | .tracked => 2 | .lostSync => 3 | .dropped => 4
  let ind := (s.radio.frames.filter (fun f => f.indirect && f.nbr == i)).length
  n.body + 2 ^ 144 * (st + 128 * b2n n.fcValid) + 2 ^ 152 * ((if n.state = .free then n.drift else driftOf s n) % 256) + 2 ^ 160 * n.fcIn + 2 ^ 192 * n.lastSeq + 2 ^ 200 * n.missed
    + 2 ^ 208 * min 64 n.resc + 2 ^ 216 * (ind % 256) + 2 ^ 224 * (n.lastSync / 25 / phasesPerFrame % 2 ^ 32)

/-- RADIO_STAT as it stands. -/
def radioStat (s : State) : Nat :=
  b2n s.radio.fcSet + 2 * b2n s.radio.portFault + 4 * b2n s.radio.bistFail + 8 * b2n (radioShed s) + 16 * b2n s.radio.fcNear + 256 * s.radio.bands

/-- Step 2: the counters flip (R19). -/
def radioFlip (s : State) : State := modRadio (fun x => { x with view := x.cnt }) s

end Sys2Proof.Machine
end

