-- ==== Sys2Proof/Machine/Monitor.lean ====
section
/-!
DEFINITION. The monitor chain (R446 to R462): conversions, filters, settling, DC block, thresholds, thermal levels and shedding.
-/
namespace Sys2Proof.Machine

open Sys2Proof

def modMon (f : MonState → MonState) (s : State) : State := { s with mon := f s.mon }
def modMonChan (c : Nat) (f : MonChan → MonChan) (s : State) : State := modMon (fun x => { x with chans := tmod (.reset 17) x.chans c f }) s

/-- Registers of a channel. -/
def monReg (s : State) (c off : Nat) : Nat := rget s (kP (0x700000 + 0x40 * c + off))
def monCfg (s : State) (c : Nat) : Nat := monReg s c 0
def monEnabled (s : State) (c : Nat) : Bool := decide (c < 12) || bit (monCfg s c) 0

/-- K, T, R, N and unity shift of a response (R449). -/
def respK (r : Nat) : Nat := if r < 4 then 3 else 4
def respT (r : Nat) : Nat := if r < 4 then 32 else 64
def respR (r : Nat) : Nat := [16, 64, 256, 1024].getD (r % 4) 16
def respN (r : Nat) : Nat := if r < 4 then 17 else 34
def respUnity (r : Nat) : Nat := [1, 7, 13, 19, 4, 12, 20, 28].getD r 1
/-- Input samples that the impulse response spans (R452). -/
def respSpan (r : Nat) : Nat := if r < 4 then 17 * respR r - 2 else 33 * respR r + respR r / 2 - 3

/-- A cause of MON_INT in each Seat that OWNS or OBSERVES the channel. -/
def monCause (c k : Nat) (s : State) : State := setCauses (fittedSeats s 174 c) 0x700F00 k s

/-- A settling event that keeps the filter state (R452). -/
def monSettle (c : Nat) (s : State) : State := modMonChan c (fun x => { x with unsettled := respN (bits (monCfg s c) 1 3) }) s

/-- A jump of the frame count or a realignment settles every enabled channel (R452). -/
def monSettleAll (s : State) : State := foldUpto 24 (fun c t => if monEnabled t c then monSettle c t else t) s

/-- Sums of `m` neighbouring values of a list. -/
def boxcar (m : Nat) (xs : List Int) : List Int := (List.range xs.length).map (fun i => ((xs.drop i).take m).sum)

/-- The CIC outputs that the FIR stage sees, newest first (R449): a decimator of order K by R/2, every R/2 samples back. -/
def cicOutputs (resp : Nat) (win : List Int) : List Int :=
  let m := respR resp / 2
  let xs := (List.range (respSpan resp)).map (fun i => win.getD i 0)
  let ys := (List.range (respK resp)).foldl (fun v _ => boxcar m v) xs
  (List.range (respT resp)).map (fun i => ys.getD (i * m) 0)

/-- An arithmetic shift right, left for a negative count. -/
def shiftR (v n : Int) : Int := if 0 ≤ n then v / (2 ^ n.toNat : Nat) else v * (2 ^ (-n).toNat : Nat)

/-- Clamp to a signed width. -/
def satSigned (w : Nat) (v : Int) : Int := clampI (-(2 ^ (w - 1) : Nat)) ((2 ^ (w - 1) : Nat) - 1) v

/-- The filter (R451): the output and whether a stage saturated. -/
def monFilterOut (cfg : Nat) (win : List Int) : Int × Bool :=
  let resp := bits cfg 1 3
  let raw := (cicOutputs resp win).map (fun v => shiftR v (respUnity resp + sgn 4 (bits cfg 4 4)))
  let sat := raw.map (satSigned Config.monCicWidth)
  let f := Config.monFir resp sat / (2 ^ bits cfg 8 3 : Nat)
  let y := satSigned 24 f
  (y, decide (sat ≠ raw) || decide (y ≠ f))

/-- One output of a threshold (R455, R456): the threshold after it, and whether it raises an event. -/
def thStep (falling : Bool) (level : Int) (hyst dwell : Nat) (eng : Int) (t : Threshold) : Threshold × Bool :=
  let above := if falling then decide (eng ≤ level) else decide (level ≤ eng)
  let below := if falling then decide (level + hyst ≤ eng) else decide (eng ≤ level - hyst)
  let need := max 1 dwell
  let a := if above ∧ t.mode ≠ .set then t.above + 1 else 0
  let b := if below ∧ t.mode ≠ .clear then t.below + 1 else 0
  if need ≤ a then (⟨.set, 0, 0⟩, true)
  else if need ≤ b then (⟨.clear, 0, 0⟩, t.mode = .set)
  else (⟨t.mode, a, b⟩, false)

/-- A threshold register pair of a channel: EN (always for MC8 and MC10 threshold A), DIR, DWELL, HYST, LEVEL. -/
def thSettings (s : State) (c off : Nat) : Bool × Bool × Nat × Nat × Int :=
  let v := monReg s c (off + 4)
  let feed := off == 0xC && (c == 8 || c == 10)
  (feed || bit v 0, feed || bit v 1, bits v 8 8, bits v 16 16, sgn 32 (monReg s c off))

/-- Step threshold A (offset 0xC) or B (0x14) of a channel at an output; held in INIT while disabled. -/
def thRun (s : State) (c off : Nat) (unsettled : Bool) (eng : Int) (t : Threshold) : Threshold × Bool :=
  let (en, dir, dwell, hyst, level) := thSettings s c off
  if ¬ en then (.reset, false) else if unsettled then (t, false) else thStep dir level hyst dwell eng t

/-- A threshold event: the bit of MON_EVT_A or MON_EVT_B and TH_EVENT, in each Seat with the channel. -/
def thEvent (c reg : Nat) (s : State) : State :=
  seats.foldl (fun t n => match localOf t n 174 c with
    | some (k, _) => setCause n 0x700F00 0 (rmod t (kS n reg) (fun v => setBit v k))
    | none => t) s

/-- Twice the median of eight values: the sum of the two in the middle. -/
def twiceMedian (vs : List Int) : Int :=
  let rank (v : Int) : Nat := (vs.filter (fun w => decide (w < v))).length
  let upTo (v : Int) : Nat := (vs.filter (fun w => decide (w ≤ v))).length
  let pick (k : Nat) : Int := (vs.find? (fun v => decide (rank v ≤ k ∧ k < upTo v))).getD 0
  pick 3 + pick 4

/-- The die sensor's comparison with the median of MC0 to MC7, and whether its source raises (source 398 + s of R467). -/
def sensorCheck (c : Nat) (eng : Int) (s : State) : Bool × State :=
  let s1 := modMonChan c (fun x => { x with eng := eng }) s
  let med := twiceMedian ((List.range 8).map (fun k => (monChan s1 k).eng))
  let run := if 320 < (2 * eng - med).natAbs then (monChan s1 c).checkRun + 1 else 0
  (decide (run = 8), modMonChan c (fun x => { x with checkRun := min 9 run }) s1)

/-- A level is SET on some die sensor. -/
def levelSet (s : State) (f : MonChan → Threshold) : Bool := (List.range 8).any (fun k => (f (monChan s k)).mode = .set)

/-- The level of R458 from the threshold states. -/
def thermalLevel (s : State) : Nat := if levelSet s (·.shut) then 3 else if levelSet s (·.alarm) then 2 else if levelSet s (·.warn) then 1 else 0

/-- WARN, ALARM, SHUTDOWN of a die sensor at a settled output (R457, R458): a level that becomes SET raises its source. The
sensor's own check is of the same sample (R474). -/
def thermalRun (c : Nat) (eng : Int) (before : State) : State :=
  let (off, s) := sensorCheck c eng before
  let v := rget s (kP 0x700800)
  let go (lo : Nat) (t : Threshold) : Threshold := (thStep false (bits v lo 16) (bits v 48 8) (bits v 56 8) eng t).1
  let x := monChan s c
  let y := { x with warn := go 0 x.warn, alarm := go 16 x.alarm, shut := go 32 x.shut }
  let s0 := modMonChan c (fun _ => y) s
  let s1 := if thermalLevel s0 = thermalLevel s then s0 else modMon (fun m => { m with mover := c }) s0
  let up (f : MonChan → Threshold) (k : Nat) : List Nat := if levelSet s1 f ∧ ¬ levelSet s f then [k] else []
  faultRaiseAll (up (·.shut) 397 ++ up (·.alarm) 396 ++ up (·.warn) 395 ++ (if off then [398 + c] else [])) s1

/-- A record (R461). -/
def monRecord (eng y : Int) (flags frame phase : Nat) : Nat :=
  img 32 eng + 2 ^ 32 * img 24 y + 2 ^ 56 * flags + 2 ^ 64 * (frame % 2 ^ 48) + 2 ^ 112 * phase

/-- An output of a channel, stamped with a phase (R450, R451, R454 to R457, R461). -/
def monOutput (c phase : Nat) (s : State) : State :=
  let cfg := monCfg s c
  let x := monChan s c
  let win := x.window.take (respSpan (bits cfg 1 3))
  let (y, ovf) := monFilterOut cfg win
  let clip := win.any (fun v => v = -2048 ∨ v = 2047)
  let un := decide (0 < x.unsettled)
  let dcb := decide (12 ≤ c) && bit cfg 11
  let frozen := dcb && bit cfg 12
  let y' := if dcb then y - x.dc else y
  let dc := if dcb && !frozen then x.dc + (y - x.dc) / (2 ^ bits cfg 16 5 : Nat) else x.dc
  let eng := satSigned 32 (y' * sgn 32 (monReg s c 4) / (2 ^ 20 : Nat) + sgn 32 (monReg s c 8))
  let (tA, evA) := thRun s c 0xC un eng x.thA
  let (tB, evB) := thRun s c 0x14 un eng x.thB
  let flags := b2n un + 2 * b2n ovf + 4 * b2n clip + 8 * b2n frozen + 16 * b2n (tA.mode == .set) + 32 * b2n (tB.mode == .set)
  let out := monRecord eng y' flags s.lt.frame phase
  let full := decide (4096 < x.stream.length + 16)
  let s1 := modMonChan c (fun x => { x with
    unsettled := x.unsettled - 1, dc := dc, thA := tA, thB := tB, prev := x.out, out := out
    stream := if full then x.stream else x.stream ++ toBytes 16 out, drop := if full then wrap32 x.drop 1 else x.drop }) s
  let s2 := if full then monCause c 1 s1 else s1
  let s3 := if ovf ∨ clip then monCause c 2 s2 else s2
  let s4 := if evA then thEvent c 0x700900 s3 else s3
  let s5 := if evB then thEvent c 0x700904 s4 else s4
  if c < 8 ∧ ¬ un then thermalRun c eng s5 else s5

/-- FEED_A_OK and FEED_B_OK (R460). -/
def feedOk (s : State) (b : Bool) : Bool := (monChan s (if b then 10 else 8)).thA.mode = .clear

/-- Some feed counts as OK (R320). -/
def anyFeed (s : State) : Bool := feedOk s false || feedOk s true

/-- The feed release (R320): both feeds of a holder have stopped being OK, and its mate's last valid heartbeat showed SYNCED and a feed OK. -/
def feedRelease (before : Bool) (s : State) : State :=
  match s.mate.peer with
  | none => s
  | some h =>
      if s.mate.rein = .holder ∧ rbit s (kP 0xD0000) 2 ∧ before ∧ ¬ anyFeed s ∧ h.sync = 2 ∧ (h.feedA ∨ h.feedB) then immediateRelease false s else s

/-- Phase of a conversion slot (R447). -/
def slotPhase (k : Nat) : Nat := 1944 * k / 25

/-- A sample of a channel (R447, R448, R450, R453). -/
def monSample (c j code : Nat) (s : State) : State :=
  let phase := slotPhase (25 * j + c)
  let s0 := match (monChan s c).stepAt with
    | some p => if p ≤ s.lt.frame * phasesPerFrame + phase then modMonChan c (fun x => { x with stepAt := none }) (monSettle c s) else s
    | none => s
  let resp := bits (monCfg s0 c) 1 3
  let s1 := modMonChan c (fun x => { x with window := ((code - 2048 : Int) :: x.window).take (respSpan resp) }) s0
  if monEnabled s1 c ∧ (10 * s1.lt.frame + j) % respR resp = respR resp - 1 then feedRelease (anyFeed s1) (monOutput c phase s1) else s1

/-- A result of the calibration slot (R447). -/
def monCalibrate (fail : Bool) (s : State) : State :=
  let was := s.mon.calFail
  let t := modMon (fun x => { x with calFail := fail, calAge := if fail then x.calAge else 0 }) s
  if fail ∧ ¬ was then setCause 0 0x700F00 5 (faultRaise 394 t) else t

/-- ADC_CONVERSION (R447): slot s samples at phase floor(77.76 s); the slots cut off by a realignment do not exist (R452). -/
def execAdcConversion (slot : BitVec 8) (code : BitVec 12) (calFail : Bool) (s : State) : Result :=
  let k := slot.toNat
  if 250 ≤ k then .fault .noSuchObject
  else
    .next (if ¬ alive s ∨ k < s.mon.slot ∨ frameLast s < slotPhase k then s
    else
      let t := modMon (fun x => { x with slot := k + 1 }) (advanceTo (s.lt.frame * phasesPerFrame + slotPhase k) s)
      if k % 25 = 24 then monCalibrate calFail t else monSample (k % 25) (k / 25) code.toNat t)

/-- The calendar's settling event (R453): outcome. -/
def calSettle (seat k p arg : Nat) (s : State) : Nat × State :=
  match ownedPhys s seat 174 k with
  | none => (oSeat, s)
  | some c =>
      if (c < 12 ∧ seat ≠ 0) ∨ ¬ monEnabled s c ∨ arg ≠ 0 then (oSeat, s)
      else (oDone, modMonChan c (fun x => { x with stepAt := some p }) s)

/-- After a write of MON_CFG (R452, R454, R456); `step`: STEP was written 1. -/
def monCfgHook (c old new : Nat) (step : Bool) (s : State) : State :=
  let on := bit new 0 && !bit old 0 && decide (12 ≤ c)
  let respNew := bits old 1 3 != bits new 1 3
  let s1 := if respNew then modMonChan c (fun x => { x with window := [], dc := 0 }) s else s
  let s2 := if bit new 11 ∧ ¬ bit old 11 then modMonChan c (fun x => { x with dc := 0 }) s1 else s1
  let s3 := if bit new 0 ≠ bit old 0 then modMonChan c (fun x => { x with thA := .reset, thB := .reset }) s2 else s2
  if on ∨ respNew ∨ bits old 4 7 ≠ bits new 4 7 ∨ step then monSettle c s3 else s3

/-- After a write of a threshold's CTL register (R456): off 0xC for A, 0x14 for B. -/
def monThHook (c off old new : Nat) (s : State) : State :=
  if bit old 0 = bit new 0 then s
  else if off = 0xC then modMonChan c (fun x => { x with thA := .reset }) s else modMonChan c (fun x => { x with thB := .reset }) s

/-- A MON_THERM write is allowed (R457). -/
def monThermOk (v : Nat) : Bool :=
  decide (bits v 0 16 < bits v 16 16 ∧ bits v 16 16 < bits v 32 16 ∧ bits v 32 16 ≤ 1840 ∧ bits v 48 8 ≤ 160)

/-- The shed mask of a level with FORCE (R459). -/
def shedMask (s : State) (level : Nat) : Nat := (2 ^ level - 1) ||| rbits s (kP 0x70080C) 0 3

/-- SHED_CHANGE (R459, R462). -/
def setShed (mask object : Nat) (s : State) : State :=
  if mask = s.mon.shed then s
  else
    let s1 := modMon (fun x => { x with shed := mask }) s
    setCause 0 0x700F00 4 (ledgerHw 12 0x13 (0xFF000000 + object) s.mon.shed (mask + 256 * s.mon.level) false [] s1)

/-- Step 2 (R458, R459): the thermal level and the shed mask; the calibration's age. -/
def thermalFlip (s : State) : State :=
  let level := thermalLevel s
  let s1 := modMon (fun x => { x with level := level, slot := 0, calAge := satAdd 255 x.calAge 1 }) s
  let s2 := if level ≠ s.mon.level then setCause 0 0x700F00 3 s1 else s1
  setShed (shedMask s2 level) (if level ≠ s.mon.level then s.mon.mover else 255) s2

/-- After a write of MON_SHED_CTL (R459). -/
def shedForceHook (s : State) : State := setShed (shedMask s s.mon.level) 255 s

/-- MON_TH_STATE. -/
def ThMode.code : ThMode → Nat
  | .init => 0 | .clear => 1 | .set => 2
def monThState (s : State) (c : Nat) : Nat :=
  let x := monChan s c
  x.thA.mode.code + 4 * x.thB.mode.code + 256 * x.unsettled

/-- MON_THERM_STATE. -/
def monThermState (s : State) : Nat :=
  let top (k : Nat) : Nat :=
    let x := monChan s k
    if x.shut.mode = .set then 3 else if x.alarm.mode = .set then 2 else if x.warn.mode = .set then 1 else 0
  s.mon.level + 256 * s.mon.shed + ((List.range 8).map (fun k => top k * 4 ^ k)).sum * 65536

/-- MON_OUT_DROP of a Seat. -/
def monDrops (s : State) (seat : Nat) : Nat :=
  (((List.range 24).filterMap (fun k => (fittedPhys s seat 174 k).map (fun c => (monChan s c).drop))).sum) % 2 ^ 32

end Sys2Proof.Machine
end

