-- ==== Sys2Proof/Machine/FaultCmds.lean ====
section
/-!
DEFINITION. The collector's own commands (chapter "Fault Collection and ALIVE"): raises and sweeps (R463 to R465), the handling window and the
clear of the first-error latch (R475, R477), injection (R478), the readbacks of ALIVE and of the emitters (R480, R482).
-/
namespace Sys2Proof.Machine

open Sys2Proof

/-- Number of fault sources. -/
def faultSources : Nat := 412

/-- A pair fault is declared (R463): the source is held raised and PAIR_BAD is set; it counts as a raise with PAIR. -/
def pairFault (k : Nat) (injected limited : Bool) (s : State) : State :=
  if canRaise s k then
    reportLoss (raiseOne k true injected limited (modFaultSrc k (fun x => { x with pairBad := true, good := 0 }) s))
  else modFaultSrc k (fun x => { x with good := 0 }) s

/-- The error that SRAM_UE of a bank reports lies in a word of the bank. -/
def upsetAt (src : Nat) (word : Option (BitVec 19)) (s : State) : State :=
  match word with
  | some w => if 24 ≤ src ∧ src < 32 then sramUpset (0x200000 * (src - 24) + 4 * w.toNat) s else s
  | none => s

/-- FAULT_RAISE (R463): a source changes from clear to raised, or its pair holds an invalid code for two samples. -/
def execFaultRaise (src : BitVec 9) (pair : Bool) (word : Option (BitVec 19)) (s : State) : Result :=
  if faultSources ≤ src.toNat then .fault .noSuchObject
  else
    let s1 := upsetAt src.toNat word s
    .next (if pair then pairFault src.toNat false false s1 else Sys2Proof.Machine.faultRaise src.toNat s1)

/-- FC_INJECT: SOURCE, MODE, SAFE. -/
def injSource (s : State) : Nat := rbits s (kP 0x780920) 0 9
def injMode (s : State) : Nat := rbits s (kP 0x780920) 12 2
def injSafe (s : State) : Bool := rbit s (kP 0x780920) 15

/-- The injected check of a source (R478): it raises the source with INJECTED, and DONE is set. -/
def injectCheck (k : Nat) (s : State) : State :=
  let s1 := { s with flt := { s.flt with injDone := true } }
  if injMode s = 3 then pairFault k true (injSafe s) s1
  else if canRaise s1 k then reportLoss (raiseOne k false true (injSafe s) s1)
  else s1

/-- An injected check of the source is due: once, or for every check (R478). -/
def injectDue (s : State) (k : Nat) : Bool :=
  injSource s == k && (injMode s == 2 || (injMode s != 0 && !s.flt.injDone))

/-- The source's domain is not isolated (R465). -/
def sourceOn (s : State) (k : Nat) : Bool := alive s && (match sourceDomain k with | none => true | some d => domOn s d)

/-- The sweep of a source (R464): it passes, or the pair fails and a pair fault is declared. -/
def sweepOne (k : Nat) (passed : Bool) (s : State) : State :=
  if ¬ passed then pairFault k false false s
  else if (faultSrc s k).pairBad then
    modFaultSrc k (fun x => if 15 ≤ x.good then { x with pairBad := false, good := 0 } else { x with good := x.good + 1 }) s
  else s

/-- FAULT_SWEEP (R464): the source's sweep in this frame, at phase 16 s. Its checker makes its check of the frame with it, on which an injection acts. -/
def execFaultSweep (src : BitVec 9) (passed : Bool) (s : State) : Result :=
  let k := src.toNat
  if faultSources ≤ k then .fault .noSuchObject
  else .next (if sourceOn s k then
    let t := advanceTo (s.lt.frame * phasesPerFrame + 16 * k) s
    sweepOne k passed (if injectDue t k then injectCheck k t else t) else s)

/-- The latch empties, and TAKE_BLOCK clears (R477). -/
def clearLatch (s : State) : State :=
  modMate (fun m => { m with takeBlock := false }) { s with flt := { s.flt with latch := none } }

/-- HANDLING_WINDOW_END (R475, R477): 64 µs after the latch was taken; a valid clear written meanwhile takes effect. -/
def execHandlingWindowEnd (s : State) : Result :=
  .next (match s.flt.latch with
    | none => s
    | some l =>
        if ¬ l.handling then s
        else if l.clearDue then clearLatch s
        else { s with flt := { s.flt with latch := some { l with handling := false } } })

/-- The outcome of a clear in FC_CLR_STATUS. -/
def clearEnd (seat code : Nat) (s : State) : State := countOutcome seat code { s with flt := { s.flt with clrOutcome := code } }

/-- A write of FC_FIRST_CLR (R477). -/
def firstClear (a : Agent) (v : Nat) (s : State) : Nat × State :=
  if ¬ bit v 31 then (oDone, s)
  else match s.flt.latch with
    | none => (oSeat, clearEnd a.seat oSeat s)
    | some l =>
        if l.source ≠ bits v 0 9 then (oSeat, clearEnd a.seat oSeat s)
        else match ledgerMgmt a 1 0x780910 0 v false [] s with
          | none => (oLedger, clearEnd a.seat oLedger s)
          | some t =>
              let t1 := clearEnd a.seat oDone t
              (oDone, if l.handling then { t1 with flt := { t1.flt with latch := some { l with clearDue := true } } } else clearLatch t1)

/-- After a write of FC_INJECT (R478): a new test begins; in pair mode the pair is driven at once, where its domain is not isolated. -/
def injectHook (s : State) : State :=
  if injMode s = 0 then s
  else
    let s1 := { s with flt := { s.flt with injDone := false } }
    if injMode s = 3 ∧ sourceOn s (injSource s) then injectCheck (injSource s) s1 else s1

/-- ALIVE as driven (R479): bit 3 of the frame count from entry to SAFE, low while stopped. -/
def aliveLevel (s : State) : Bool := alive s && !s.flt.stopped && bit s.lt.frame 3

/-- ALIVE_READBACK (R480). -/
def execAliveReadback (s : State) : Result :=
  .next (if alive s then Sys2Proof.Machine.faultRaise 411 { s with flt := { s.flt with readbackOk := false } } else s)

/-- A pin fault of a lantern (R482): strobe inactive, the word with EN = 0 and SP = 0, the lantern blocked. -/
def lanternPinFault (l : Nat) (s : State) : State :=
  Sys2Proof.Machine.faultRaise (383 + l) (sendSetpoint l 0 false
    (modScan (fun x => { x with blocked := setBit x.blocked l
                                strobes := x.strobes.map (fun b => if b.lant = l then { b with active := false } else b) }) s))

/-- A pin fault of TX_EN (R482): TX_EN low, the frame in progress ends FAULTED, nothing further is sent. -/
def txEnPinFault (s : State) : State :=
  Sys2Proof.Machine.faultRaise 393 (portFaultEnds (modRadio (fun x => { x with txBlocked := true }) s))

/-- EMITTER_READBACK_MISMATCH (R482). -/
def execEmitterReadbackMismatch (e : Emitter) (s : State) : Result :=
  .next (if alive s then (match e with | .lantern l => lanternPinFault l.toNat s | .txEn => txEnPinFault s) else s)

/-- FC_ALIVE. -/
def fcAliveWord (s : State) : Nat :=
  b2n (alive s && !s.flt.stopped) + 2 * b2n (aliveLevel s) + 4 * b2n s.flt.stopped + 8 * b2n (alive s && s.flt.readbackOk)

/-- A source is routed to a Seat (R468, R481); S0 sees all. -/
def routedTo (s : State) (seat k : Nat) : Bool := seat == 0 || (sourceSeats s k).contains seat

/-- FC_SRC as a Seat reads it. -/
def fcSrcWord (s : State) (seat k : Nat) : Nat :=
  if ¬ routedTo s seat k then 0
  else
    let x := faultSrc s k
    let shows := x.pairBad || (x.raised && sourceOn s k && Config.railRaised k x.count s.lt.bounds)
    sevOf s k + 16 * sourceClass k + 64 * sourceRoute k + 256 * b2n shows + 512 * b2n x.pairBad + 65536 * x.count

/-- FC_FIRST; other Seats than S0 read 0. -/
def fcFirst (s : State) (seat : Nat) : Nat :=
  if seat ≠ 0 then 0
  else match s.flt.latch with
    | none => 0xFFFF
    | some l =>
        l.source + 2 ^ 16 * (l.cls + 4 * l.sev + 32 * b2n l.pair + 64 * b2n l.injected + 128)
          + 2 ^ 24 * (b2n l.overflow + 2 * b2n l.fatalSeen + 4 * b2n l.handling)
          + 2 ^ 32 * (l.frame % 2 ^ 48) + 2 ^ 80 * l.phase + 2 ^ 96 * l.actions + 2 ^ 104 * l.merged

/-- Word w of FC_SEAT_CAUSE as a Seat reads it: sources not routed to it read 0 (R481). -/
def fcCauseWord (s : State) (seat w : Nat) : Nat :=
  let v := rget s (kS seat (0x780A00 + 4 * w))
  (setPositions 32 v).foldl (fun a j => if routedTo s seat (32 * w + j) then a + 2 ^ j else a) 0

end Sys2Proof.Machine
end

