-- ==== Sys2Proof/Machine/LedgerCmds.lean ====
section
/-!
DEFINITION. The ledger's own events: the START record (R139), seals (R136), gaps (R141), the key time-out (R137), the spill (R145 to R148).
-/
namespace Sys2Proof.Machine

open Sys2Proof

/-- LEDGER_SPILL_CTL fields. -/
def spillEn (s : State) : Bool := rbit s (kP 0x7C0010) 0
def spillPull (s : State) : Bool := rbit s (kP 0x7C0010) 1
def spillSize (s : State) : Nat := 2 ^ rbits s (kP 0x7C0010) 8 5

/-- LEDGER_SPILL_PROD (R145). -/
def spillProd (s : State) : Nat := if spillPull s then s.pwr.ret.seq else s.led.prod

/-- Entries still to be spilled in push mode. -/
def unspilled (s : State) : Nat := (s.pwr.ret.seq + 2 ^ 32 - s.led.prod) % 2 ^ 32

/-- Room in the host ring (R146). -/
def spillRoom (s : State) : Nat := spillSize s - (s.led.prod + 2 ^ 32 - s.led.cons) % 2 ^ 32

/-- Entries before a sequence number are released. -/
def releaseTo (seq : Nat) (s : State) : State :=
  { s with led := { s.led with used := (s.pwr.ret.seq + 2 ^ 32 - seq) % 2 ^ 32 } }

/-- The oldest unspilled entry is one tick (8 frames) old. -/
def spillOld (s : State) : Bool :=
  match s.led.ring[unspilled s - 1]? with
  | some e => decide (0 < unspilled s ∧ (e.frame + 8) * phasesPerFrame + e.phase ≤ nowPos s)
  | none => false

/-- Host address of the slot of entry SEQ (R146). -/
def spillSlot (s : State) (seq : Nat) : Nat := rget s (kP 0x7C0018) + 32 * (seq % spillSize s)

/-- The k-th unspilled entry, the oldest first. -/
def unspilledEntry (s : State) (k : Nat) : Option LedgerEntry := s.led.ring[unspilled s - 1 - k]?

/-- A write put before others: one burst with the next one, unless that begins a 256-byte block or does not follow on (R146). -/
def joinBurst (w : HostWrite) : List HostWrite → List HostWrite
  | [] => [w]
  | x :: xs => if x.addr = w.addr + w.bytes.length ∧ x.addr % 256 ≠ 0 then ⟨w.addr, w.bytes ++ x.bytes⟩ :: xs else w :: x :: xs

/-- The host writes of a batch of n entries: the entries in bursts, then the producer record (R146). -/
def batchWrites (s : State) (n : Nat) : List HostWrite :=
  let next := wrap32 s.led.prod n
  let entries := (List.range n).filterMap (fun k => (unspilledEntry s k).map (fun e => HostWrite.mk (spillSlot s (wrap32 s.led.prod k)) e.bytes))
  let crc := ((unspilledEntry s (n - 1)).map (·.crc)).getD 0
  entries.foldr joinBurst [] ++ [⟨rget s (kP 0x7C0020), leBytes 4 next ++ leBytes 4 crc⟩]

/-- A batch from PROD up to HEAD - 1, as far as the host ring has room: its entries and the producer record are written (R146). -/
def startBatch (s : State) : State :=
  let n := min (unspilled s) (spillRoom s)
  if n = 0 then s else { s with led := { s.led with batch := some ⟨s.led.prod, n⟩, hostOut := batchWrites s n } }

/-- After a write of LEDGER_SPILL_CTL: enabling sets PROD and CONS to the oldest unreleased entry (R148); disabling drops the batch in flight,
since nothing is released while spill is disabled (R145). -/
def spillCtlHook (old new : Nat) (s : State) : State :=
  if bit new 0 ∧ ¬ bit old 0 then { s with led := { s.led with prod := oldestSeq s, cons := oldestSeq s } }
  else if bit old 0 ∧ ¬ bit new 0 then { s with led := { s.led with batch := none } }
  else s

/-- A SPILL record (R147). -/
def spillRecord (new : Nat) (s : State) : State := ledgerHw 7 0x15 0xFF000000 s.led.prod new false [] s

/-- The batch in flight fails with a cause: 0 timed out, 1 UR or CA, 2 link down (R147). -/
def spillFail (cause : Nat) (s : State) : State :=
  match s.led.batch with
  | none => s
  | some _ =>
      let s1 := { s with led := { s.led with batch := none } }
      if s1.led.spillFault then s1
      else spillRecord (256 * cause) (faultRaise 407 (setCauseP 0x7C0030 3 { s1 with led := { s1.led with spillFault := true } }))

/-- START_RECORD (R139): the START record that waits is appended once two entries are free. -/
def execStartRecord (s : State) : Result :=
  .next (match s.led.startWaiting with
    | some _ => if 2 ≤ ledgerFree s then reportLoss (ledgerDrain s) else s
    | none => s)

/-- SEAL_COMPLETE (R136). -/
def execSealComplete (s : State) : Result := .next (reportLoss (sealDone s))

/-- GAP_APPEND (R141): the losses are recorded once space exists. -/
def execGapAppend (s : State) : Result := .next (if s.led.lost ≠ 0 then reportLoss (ledgerDrain s) else s)

/-- LEDGER_KEY_TIMEOUT (R137): a partial key load is discarded. -/
def execLedgerKeyTimeout (s : State) : Result := .next { s with led := { s.led with keyWords := [] } }

/-- SPILL_BATCH_START (R146). -/
def execSpillBatchStart (s : State) : Result :=
  .next (if spillEn s && !spillPull s && s.led.batch.isNone && !s.led.spillFault && (decide (8 ≤ unspilled s) || spillOld s)
    then startBatch s else s)

/-- SPILL_RETRY (R147): a tick boundary while SPILL_FAULT stands. -/
def execSpillRetry (s : State) : Result :=
  .next (if spillEn s && !spillPull s && s.led.batch.isNone && s.led.spillFault && s.lt.frame % 8 == 0 then startBatch s else s)

/-- SPILL_FLUSH_COMPLETE (R146, R147): the batch is released; after a fault a second SPILL record follows. -/
def execSpillFlushComplete (s : State) : Result :=
  .next (match s.led.batch with
    | none => s
    | some b =>
        let p := wrap32 b.from_ b.count
        let s1 := reportLoss (ledgerDrain (releaseTo p { s with led := { s.led with batch := none, prod := p } }))
        if s1.led.spillFault then spillRecord 1 { s1 with led := { s1.led with spillFault := false } } else s1)

/-- SPILL_FLUSH_FAIL (R147): the flush read timed out, or returned UR or CA; cause 2 where the link is down. -/
def execSpillFlushFail (s : State) (urCa : Bool := false) : Result := .next (spillFail (if s.host.linkUp then b2n urCa else 2) s)

end Sys2Proof.Machine
end

