-- ==== Sys2Proof/Machine/Commit.lean ====
section
/-!
DEFINITION. Commit groups: the checks at GO (R46 to R49, R56, R99, R230, R248, R249, R268, R271 to R273, R288), acceptance, cancelling (R52).
-/
namespace Sys2Proof.Machine

open Sys2Proof

/-- A write of the Seat maps or of SEAT_CTL (R98). -/
def isMapKey (key : Nat) : Bool := key == 0x20 || decide (0x10000 ≤ key ∧ key < 0x20000)

/-- A write that may land only on a multiframe boundary (R49, R213, R230, R250, R268, R270, R288, R325): LP_CFG when RATE, MODE or ENABLE changes. -/
def multiOnly (s : State) (before : List StagedWrite) (w : StagedWrite) : Bool :=
  if 2 ^ 24 ≤ w.key then true
  else
    match regLocate w.key with
    | some l =>
        match l.desc.name with
        | .lpCfg => bits w.value 0 4 != bits (cfgWith s before w.key) 0 4
        | .lpAuCfg | .gfpCfg | .blCfg | .bpAuCfg | .fabCtl => true
        | _ => false
    | none => false

/-- The writes in force at a frame: those of the groups that land by then (R248). -/
def writesBy (s : State) (gs : List CommitGroup) (f : Nat) : List StagedWrite :=
  ((gs.filter (fun g => g.frame ≤ f)).mergeSort (groupBefore s)).flatMap (·.writes)

/-- R94 holds of the maps of a state. -/
def mapsOk (s : State) : Bool :=
  let objs := objClasses.all (fun c =>
    (List.range c.2).all (fun p => ((List.range 15).filter (fun n => owns s (n + 1) c.1 p)).length ≤ 1)
      && (List.range 15).all (fun n =>
        let ps := (List.range c.2).filterMap (fun k => fittedPhys s (n + 1) c.1 k)
        decide (ps.eraseDups.length = ps.length)))
  let pages := seats.flatMap (fun n =>
    (List.range 64).map (fun k => let e := dataPage s n k; (e, e.hostWr || e.strandWr))
      ++ (List.range 1024).map (fun k => let e := codePage s n k; (e, e.hostWr)))
  let valid := pages.filter (fun e => e.1.valid)
  let written := (valid.filter (fun e => e.2)).map (fun e => e.1.phys)
  objs && valid.all (fun e => decide (e.1.phys ≤ 0xF7F)) && decide (written.eraseDups.length = written.length)

/-- The containers of an enabled GFP-F channel are declared (R230). -/
def gfpDeclared (s : State) (ws : List StagedWrite) (v : Nat) : Bool :=
  let x := 192 * bits v 4 4 + bits v 8 8
  let t := auType s ws x
  match bits v 16 2 with
  | 0 => t == 1
  | 1 => t == 0 && xSlot x % 3 == 0
  | sz => t == 6 && auConc s ws x == sz - 2 && xSlot x % 3 == 0

/-- Some connection of a page outputs to an index. -/
def outputUsed (s : State) (ws : List StagedWrite) (x : Nat) : Bool :=
  (pageConns s ws).any (fun n => eKind (isHo n) (pageVal s ws n) != 0
    && decide (connX n ≤ x ∧ x < connX n + (if isHo n then widthSlots (eWidth true (pageVal s ws n)) else 1)))

/-- A write changes what a GFP-F channel maps, or enables it (R230). -/
def gfpChanged (s : State) (before : List StagedWrite) (w : StagedWrite) : Bool :=
  let old := cfgWith s before w.key
  (bit w.value 0 && !bit old 0) || bits w.value 4 14 != bits old 4 14

/-- What GO checks of GFP_CFG in the page of `ws`, of an enabled channel and of one whose mapping the group changes (R230): it is declared, shares no
slot with another channel, outputs to no connection's slot, and lies on no protection port (R272). -/
def gfpOk (s : State) (ws : List StagedWrite) (must : Bool) (c : Nat) : Bool :=
  let v := gfpCfg s ws c
  (!bit v 0 && !must) ||
    (gfpDeclared s ws v && !onProtPort s ws (192 * bits v 4 4)
      && (List.range (gfpSlots (bits v 16 2))).all (fun k =>
        slotPresent s ws (192 * bits v 4 4 + bits v 8 8 + k) && !outputUsed s ws (192 * bits v 4 4 + bits v 8 8 + k)
          && (List.range 8).all (fun d => d == c || !gfpMaps s ws d (192 * bits v 4 4 + bits v 8 8 + k))))

/-- What GO checks of an MSP group in the page of `ws` (R272). -/
def mspOk (s : State) (ws : List StagedWrite) (p : Nat) : Bool :=
  let v := mspWord s ws p
  let q := bits v 4 4
  !bit v 0 ||
    (p != q && bits (cfgWith s ws (kP (0x80000 + 0x4000 * p))) 0 3 == bits (cfgWith s ws (kP (0x80000 + 0x4000 * q))) 0 3
      && (List.range 64).all (fun g => auDecl s ws (192 * p + 3 * g) == auDecl s ws (192 * q + 3 * g))
      && (List.range 16).all (fun r => r == p || !bit (mspWord s ws r) 0
            || (r != q && bits (mspWord s ws r) 4 4 != p && bits (mspWord s ws r) 4 4 != q)))

/-- A concatenation declared in a port or pair is whole: its head is followed by X - 1 continuation groups and fits within the slots present (section
"Registers" of the line ports, R325). -/
def concOk (s : State) (ws : List StagedWrite) (base : Nat) : Bool :=
  (List.range 64).all (fun a => auType s ws (base + 3 * a) != 6 ||
    (let n := [4, 16, 64].getD (auConc s ws (base + 3 * a)) 65
     decide (a + n ≤ 64) && (List.range n).all (fun k => (k == 0 || auType s ws (base + 3 * (a + k)) == 7)
       && (List.range 3).all (fun i => slotPresent s ws (base + 3 * (a + k) + i)))))

/-- The port or pair, by its first index, whose declarations or slots a register write changes. -/
def declBase (key : Nat) : Option Nat :=
  match regLocate key with
  | some l => (match l.desc.name with
      | .lpCfg | .lpAuCfg => some (192 * l.i)
      | .blCfg => some (3072 + 192 * (l.i / 2))
      | .bpAuCfg => some (3072 + 192 * l.i)
      | _ => none)
  | none => none

/-- Writes that change a declaration, a rate, a mapping, LO_EN or an MSP group. -/
def configWrites (ws : List StagedWrite) : List StagedWrite :=
  ws.filter (fun w => decide (w.key < 2 ^ 24) || decide (2 ^ 24 + 0x440000 ≤ w.key ∧ w.key < 2 ^ 24 + 0x440200))

/-- The group makes a connection of the active page, or a pending one, break the structure rules, and neither removes nor rewrites it (R211, R248, R268,
R272, R325). -/
def breaksStanding (s : State) (ws : List StagedWrite) : Bool :=
  let cfg := configWrites ws
  let own (n : Nat) : Bool := ws.any (fun w => keyConn w.key == some n)
  let off := !bit (cfgWith s ws (kP 0x100000)) 0
  let broken (base : List StagedWrite) (n : Nat) : Bool :=
    let v := pageVal s base n
    !own n && eKind (isHo n) v != 0
      && ((entryOk s base n && !entryOk s (base ++ cfg) n) || (off && (!isHo n || eKind true v == 3)))
  cfg != [] && (s.fab.conns.any (fun e => broken [] e.1)
    || s.lt.groups.any (fun h => h.writes.any (fun w => (keyConn w.key).any (fun n => broken (pendingWrites s ++ [w]) n))))

/-- LO_EN and the low-order connections of a page agree (R248, R268). -/
def loEnOk (s : State) (ws : List StagedWrite) : Bool :=
  bit (cfgWith s ws (kP 0x100000)) 0
    || (pageConns s ws).all (fun n => if isHo n then eKind true (pageVal s ws n) != 3 else eKind false (pageVal s ws n) == 0)

/-- Fields of the group in physical numbers: selector numbers and sources, WORK and PORT (R87, R271). None where a number names nothing of the
Seat's (REFUSED_SEAT), or the pool of selectors is empty: the outcome is given. -/
def transWrite (s : State) (seat : Nat) (new : List (Nat × Nat)) (w : StagedWrite) : Nat × StagedWrite :=
  let selNum (key : Nat) : Option (Nat × Nat) :=
    -- local selector (high-order, or 2048 and low-order) and word
    if 2 ^ 24 + 0x400000 ≤ key ∧ key < 2 ^ 24 + 0x408000 then some ((key - (2 ^ 24 + 0x400000)) / 16, key % 16 / 4)
    else if 2 ^ 24 + 0x410000 ≤ key ∧ key < 2 ^ 24 + 0x430000 then some (2048 + (key - (2 ^ 24 + 0x410000)) / 16, key % 16 / 4)
    else none
  let phys (l : Nat) : Option Nat :=
    match selOf s seat (if l < 2048 then l else l - 2048) (decide (2048 ≤ l)) with
    | some n => some n
    | none => tgetO new l
  match keyConn w.key with
  | some n =>
      if eKind (isHo n) w.value = 2 then
        match phys (if isHo n then eSrc w.value else 2048 + eSrc w.value) with
        | some m => (oDone, { w with value := setBits w.value 0 14 (if isHo n then m else m - 2048) })
        | none => (oCapacity, w)
      else (oDone, w)
  | none =>
      match selNum w.key with
      | some (l, k) =>
          match phys l with
          | none => (oCapacity, w)
          | some m =>
              if k = 2 then (oDone, ⟨selKey m 2, w.value⟩)
              else
                match xPhys s seat (eSrc w.value) false with
                | some x => (oDone, ⟨selKey m k, setBits w.value 0 14 x⟩)
                | none => (oSeat, w)
      | none =>
          if 2 ^ 24 + 0x440000 ≤ w.key ∧ w.key < 2 ^ 24 + 0x440200 then
            match ownedPhys s seat 0 (bits w.value 4 4) with
            | some q => (if owns s seat 0 ((w.key - (2 ^ 24 + 0x440000)) / 32) then oDone else oSeat, { w with value := setBits w.value 4 4 q })
            | none => (oSeat, w)
          else if 0x22000 ≤ w.key ∧ w.key < 0x22200 then
            if (bit w.value 0 ∨ gfpChanged s [] w) ∧ ¬ owns s seat 166 ((w.key - 0x22000) / 0x40) then (oSeat, w)
            else match ownedPhys s seat 0 (bits w.value 4 4) with
            | some q => (oDone, { w with value := setBits w.value 4 4 q })
            | none => (if bit w.value 0 ∨ gfpChanged s [] w then oSeat else oDone, w)
          else (oDone, w)

/-- The Seat's own selector numbers that a group writes and that have no physical selector yet. -/
def newSelectors (s : State) (seat : Nat) (ws : List StagedWrite) : List Nat :=
  (ws.filterMap (fun w =>
    if 2 ^ 24 + 0x400000 ≤ w.key ∧ w.key < 2 ^ 24 + 0x408000 then some ((w.key - (2 ^ 24 + 0x400000)) / 16)
    else if 2 ^ 24 + 0x410000 ≤ w.key ∧ w.key < 2 ^ 24 + 0x430000 then some (2048 + (w.key - (2 ^ 24 + 0x410000)) / 16)
    else none)).eraseDups.filter (fun l => (selOf s seat (if l < 2048 then l else l - 2048) (decide (2048 ≤ l))).isNone)

/-- The lowest free physical selectors for them (R271); S0's numbers are physical. -/
def assignSelectors (s : State) (seat : Nat) : List Nat → List (Nat × Nat) → Option (List (Nat × Nat))
  | [], acc => some acc
  | l :: ls, acc =>
      let base := if l < 2048 then 0 else 2048
      let size := if l < 2048 then 2048 else 8192
      let free (n : Nat) : Bool := (selAt s n).isNone && acc.all (fun e => e.2 != n)
      let pick := if seat = 0 then (if free l then some l else none)
        else ((List.range size).find? (fun k => free (base + k))).map (base + ·)
      match pick with
      | some n => assignSelectors s seat ls ((l, n) :: acc)
      | none => none

/-- Check codes joined: the first refusal stands. -/
def firstRefusal : List Nat → Nat
  | [] => oDone
  | c :: cs => if c < 0x10 then firstRefusal cs else c

/-- The checks of GO on a group in physical numbers that would land at frame f (after R47 to R49): DONE, or the refusal. -/
def goCheck (s : State) (seat f : Nat) (ws : List StagedWrite) : Nat :=
  let g : CommitGroup := ⟨seat, 0, ws, f, false, false, false, ledgerSeq s, 0, false, false⟩
  let gs := s.lt.groups ++ [g]
  let frames := f :: (s.lt.groups.filter (fun h => f < h.frame)).map (·.frame)
  let here := writesBy s gs f
  let maps := ws.any (fun w => isMapKey w.key)
  let mapWs := gs.flatMap (fun h => h.writes.filter (fun w => isMapKey w.key))
  let anchors := (ws.any (fun w => w.key = 0x1030), ws.any (fun w => w.key = 0x1038))
  let touches (p : Nat → Bool) : Bool := ws.any (fun w => p w.key)
  let isObj (k : Nat) : Bool := decide (2 ^ 24 ≤ k)
  let decl (k : Nat) : Bool := match regLocate k with
    | some l => (match l.desc.name with | .lpCfg | .lpAuCfg | .gfpCfg | .blCfg | .bpAuCfg | .fabCtl => true | _ => false)
    | none => false
  let structural := touches (fun k => isObj k || decl k)
  let sels := (pageSelectors s ws).filter (fun n => [0, 1, 2].any (fun k => (stagedVal ws (selKey n k)).isSome))
  let prior := writesBy s s.lt.groups f
  let msps := touches (fun k => decide (2 ^ 24 + 0x440000 ≤ k ∧ k < 2 ^ 24 + 0x440200))
  firstRefusal
    [ -- the anchor pair is written whole, with phase 0 (R56)
      if anchors.1 ≠ anchors.2 ∨ ws.any (fun w => w.key = 0x1030 ∧ 2 ^ 48 ≤ w.value) then oSeat else oDone,
      -- map-bearing groups (R99)
      if maps ∧ (¬ mapsOk (withWrites s mapWs) ∨ s.lt.groups.any (fun h => f < h.frame && h.writes.any (fun w => isMapKey w.key))) then oSeat else oDone,
      -- selectors' sources reached by the Seat (R273)
      if sels.any (fun n => bit (selWord s here n 2) 0 && [0, 1].any (fun k => decide (6144 ≤ eSrc (selWord s here n k)) || !fittedX s seat (eSrc (selWord s here n k)))) then oSeat else oDone,
      -- one pending landing frame for a connection (R249)
      if ws.any (fun w => (keyConn w.key).isSome && s.lt.groups.any (fun h => h.frame != f && h.writes.any (fun v => v.key == w.key))) then oCapacity else oDone,
      -- pages, carriers, LO_EN (R246 to R248, R268)
      if structural ∧ frames.any (fun x => !pageOk s (writesBy s gs x) || !loEnOk s (writesBy s gs x)) then oCapacity else oDone,
      if structural ∧ frames.any (fun x => (List.range 8).any (fun c => !gfpOk s (writesBy s gs x)
        (ws.any (fun w => w.key == kP (0x22000 + 0x40 * c) && gfpChanged s prior w)) c)) then oCapacity else oDone,
      if (ws.filterMap (fun w => declBase w.key)).eraseDups.any (fun b => frames.any (fun x => !concOk s (writesBy s gs x) b)) then oCapacity else oDone,
      if breaksStanding s ws then oCapacity else oDone,
      -- a continuation slot whose head stands (R246)
      if ws.any (fun w => (keyConn w.key).any (fun n => isHo n && (headOf s prior n).isSome && (headOf s here n).isSome)) then oCapacity else oDone,
      if msps ∧ (List.range 16).any (fun p => !mspOk s here p) then oCapacity else oDone,
      -- an attach needs its connection (R288)
      if ws.any (fun w => match keyExpect w.key with
          | some i => w.value != 0 && (match expectAt s i with
              | some x => eKind (isHo x.conn) (pageVal s here x.conn) == 0
              | none => true)
          | none => false) then oCapacity else oDone ]

/-- One pair of a pending group's delta (R311): offset and value of each 32-bit word. -/
def groupPairs (w : StagedWrite) : List (Nat × Nat) :=
  if w.key < 2 ^ 24 then
    let n := match regLocate w.key with | some l => l.desc.bytes / 4 | none => 1
    (List.range n).map (fun k => (w.key + 4 * k, bits w.value (32 * k) 32))
  else
    match keyConn w.key with
    | some n => (List.range (if isHo n then 2 else 1)).map (fun k => (connAddr n + 4 * k, bits w.value (32 * k) 32))
    | none =>
        match keyExpect w.key with
        | some _ => if w.value = 0 then [(apertureOff (w.key - 2 ^ 24), 0)]
            else (List.range 10).map (fun k => (apertureOff (w.key - 2 ^ 24) + 4 * k, bits w.value (32 * k) 32))
        | none => [(apertureOff (w.key - 2 ^ 24), w.value % 2 ^ 32)]

/-- The delta of a pending group. -/
def mirrorGroup (mgmt : Bool) (g : CommitGroup) (s : State) : State :=
  let ps := g.writes.flatMap groupPairs
  mirrorItem mgmt 3 (256 * g.seat + g.ident) g.goSeq
    (toBytes 8 g.frame ++ toBytes 4 ps.length ++ ps.flatMap (fun p => toBytes 4 p.1 ++ toBytes 4 p.2)) s

/-- The writes of the current group, each key once: the last write of a key stands; the count is kept by R46. -/
def groupWrites (s : State) (seat : Nat) : List StagedWrite :=
  let g := seatGroup s seat
  (g.map (·.key)).eraseDups.filterMap (fun k => (stagedVal g k).map (fun v => ⟨k, v⟩))

/-- A refused group (R47): its staged writes stay, its reservations are freed (R288). -/
def goRefuse (seat code : Nat) (s : State) : Nat × Nat × State :=
  let ws := seatGroup s seat
  let s1 := freeReserved ws s
  let keep := ws.filter (fun w => match keyExpect w.key with
    | some i => (expectAt s1 i).isSome
    | none => true)
  (code, 0, modSeatLt seat (fun x => { x with group := keep, stageFull := false }) s1)

/-- A selector as GO makes it: its sources are the Seat's own index 0 until they are written (section "Selector layout"); where the Seat has none there,
an index that is no slot. -/
def newSelector (s : State) (seat l : Nat) : Selector :=
  let x := (xPhys s seat 0 false).getD 16383
  ⟨seat, if l < 2048 then l else l - 2048, x, x, 5 * 2 ^ 23, false, .reset⟩

/-- The selectors that GO assigns, in place (R271). -/
def withSelectors (seat : Nat) (new : List (Nat × Nat)) (s : State) : State :=
  new.foldl (fun u e => { u with prot := { u.prot with sels := tset none u.prot.sels e.2 (some (newSelector s seat e.1)) } }) s

/-- The accepted group and what it draws: calendar entry, selectors, staged connections, carriers, wakes (R46, R47, R81, R250, R271). -/
def goAccept (a : Agent) (f : Nat) (delayed : Bool) (idx : Nat) (ws : List StagedWrite) (new : List (Nat × Nat)) (s : State) : Nat × Nat × State :=
  let seat := a.seat
  let id := (seatLt s seat).nextId
  match ledgerMgmt a 3 (0x05000000 + 256 * seat + id) (seatGroup s seat).length (f % 2 ^ 32) false [] s with
  | none => goRefuse seat oLedger s
  | some t =>
      let seq := lastSeq t
      let conns := ws.filterMap (fun w => keyConn w.key)
      let g : CommitGroup := { seat := seat, ident := id, writes := ws, frame := f, delayed := delayed, skipped := false, fromEpoch := false, goSeq := seq, calIndex := idx
                               swapHo := conns.any isHo, swapLo := conns.any (fun n => !isHo n) }
      let t1 := modSeatLt seat (fun x => { x with group := [], stageFull := false, lastId := id, nextId := (id + 1) % 256 }) t
      let t2 := setCal idx { CalEntry.empty with frame := f, kind := 3, cls := 3, seat := seat, target := id, seq := seq } t1
      let t3 := new.foldl (fun u e => mirrorItem true 8 (selectorAddr e.2) seq (toBytes 4 (seat + 16 * (newSelector s seat e.1).num)) u) (withSelectors seat new t2)
      let t4 := { t3 with lt := { t3.lt with groups := t3.lt.groups ++ [g] } }
      match conns.foldl (fun u n => u.bind (connStateBy a n 0 1 1)) (some t4) with
      | none => goRefuse seat oLedger s
      | some t5 => (oDeferred, id, mirrorCal true idx (mirrorGroup true g (domUpdate (shadowSync true seq (carrierSync t5)))))

/-- GO with a target position (R47 to R49): outcome, ID. -/
def goGroup (a : Agent) (target : Int) (s : State) : Nat × Nat × State :=
  let seat := a.seat
  let pos := (target + phasesPerFrame - 1) / phasesPerFrame * phasesPerFrame
  let ws0 := groupWrites s seat
  let news := newSelectors s seat ws0
  if mirrorRefused s then goRefuse seat oSeat s
  else if (seatLt s seat).stageFull then goRefuse seat oCapacity s
  else
    let land : Option (Nat × Bool) := match lateRule s pos with
      | .onTime p => some (p / phasesPerFrame, false)
      | .delayed p => some (p / phasesPerFrame, true)
      | .late => none
    match land, assignSelectors s seat news [], calFree s seat with
    | none, _, _ => goRefuse seat oLate s
    | some _, none, _ => goRefuse seat oCapacity s
    | some _, some _, none => goRefuse seat oCapacity s
    | some (f0, d0), some new, some idx =>
        if 8 ≤ (s.lt.groups.filter (fun g => g.seat = seat)).length then goRefuse seat oCapacity s
        else
          let tr := ws0.map (transWrite s seat new)
          let ws := tr.map (·.2)
          let multi := ws.any (multiOnly s (writesBy s s.lt.groups f0))
          let f := if multi then (f0 + 3) / 4 * 4 else f0
          let code := firstRefusal (tr.map (·.1) ++ [goCheck (withSelectors seat new s) seat f ws])
          if code ≠ oDone then goRefuse seat code s
          else goAccept a f (d0 || f != f0) idx ws new s

/-- The rein state in which a part lands no group (R308, R315, R502). -/
def noLanding (s : State) : Bool := s.mate.rein = .standby || s.mate.rein = .releasing || s.mate.rein = .out

/-- Free the physical selectors that do not exist and that nothing names (R271). -/
def freeSelectors (s : State) : State :=
  let pend := pendingWrites s
  let named (n : Nat) : Bool :=
    (pageConns s pend).any (fun c => (isHo c == decide (n < 2048)) &&
      [(connAt s c).entry, pageVal s pend c].any (fun v => eKind (isHo c) v == 2 && eSrc v == (if n < 2048 then n else n - 2048)))
      || [0, 1, 2].any (fun k => (stagedVal pend (selKey n k)).isSome)
  let keep (e : Nat × Option Selector) : Bool := match e.2 with
    | some x => bit x.w2 0 || named e.1
    | none => false
  (s.prot.sels.filter (fun e => !keep e)).foldl (fun t e => mirrorDelete false 8 (selectorAddr e.1) noSeq t)
    { s with prot := { s.prot with sels := s.prot.sels.filter keep } }

/-- A selector that a landing deleted, or whose last connection a swap removed, is free from then on; a part that lands nothing takes this from its
mate (R271). -/
def selectorsSettle (s : State) : State := if noLanding s then s else freeSelectors s

/-- Write a completion record (R53, section "Completion records"). -/
def pushDone (seat : Nat) (r : DoneRec) (s : State) : State :=
  let x := seatLt s seat
  let full := (tgetO x.done x.doneNext).isSome
  let s1 := modSeatLt seat (fun y => { y with done := tins (tdel y.done y.doneNext) y.doneNext r, doneNext := (y.doneNext + 1) % 16
                                              doneOvf := if full then satAdd 255 y.doneOvf 1 else y.doneOvf }) s
  let s2 := setCause seat 0x20014 0 s1
  let s3 := if full then setCause seat 0x20014 1 s2 else s2
  let ctl := rget s3 (kS seat 0x10B8)
  if bit ctl 6 then setEvent seat (bits ctl 0 6) s3 else s3

/-- Remove an accepted group: its calendar entry and its deltas. -/
def dropGroup (mgmt : Bool) (g : CommitGroup) (s : State) : State :=
  let s1 := { s with lt := { s.lt with groups := s.lt.groups.filter (fun h => ¬ (h.seat = g.seat ∧ h.ident = g.ident)) } }
  mirrorDelete mgmt 3 (256 * g.seat + g.ident) noSeq (mirrorCal mgmt g.calIndex (setCal g.calIndex .empty s1))

/-- The connections that a group writes. -/
def groupConns (g : CommitGroup) : List Nat := g.writes.filterMap (fun w => keyConn w.key)

/-- A group discarded at a take-over: no completion record (R317); its connections return to the active page's state (R286, R294). -/
def discardGroup (g : CommitGroup) (s : State) : State :=
  let s1 := shadowSync false noSeq (carrierSync (freeSelectors (freeReserved g.writes (dropGroup false g s))))
  (groupConns g).foldl (fun t n => connRecord 2 n 1 (newestEntry t g.seat n false).1 9 t) s1

/-- CANCEL of a group (R52, R99): outcome. -/
def cancelGroup (a : Agent) (id : Nat) (s : State) : Nat × State :=
  match s.lt.groups.find? (fun g => g.seat = a.seat ∧ g.ident = id) with
  | none => (oSeat, s)
  | some g =>
      let maps (h : CommitGroup) : Bool := h.writes.any (fun w => isMapKey w.key)
      let later := (s.lt.groups.dropWhile (fun h => ¬ (h.seat = g.seat ∧ h.ident = g.ident))).drop 1
      if mirrorRefused s ∨ (maps g ∧ later.any maps) then (oSeat, s)
      else if g.frame < s.lt.frame + 2 then (oLate, s)
      else
        match ledgerMgmt a 5 (0x05000000 + 256 * g.seat + g.ident) 0 0 false [] s with
        | none => (oLedger, s)
        | some t =>
            let seq := lastSeq t
            let t1 := shadowSync true seq (carrierSync (freeSelectors (freeReserved g.writes (dropGroup true g t))))
            match (groupConns g).foldl (fun u n => u.bind (fun v => connStateBy a n 1 (newestEntry v g.seat n false).1 2 v)) (some t1) with
            | none => (oLedger, s)
            | some t2 => (oDone, pushDone g.seat ⟨oDone, g.ident, 4, 0, seq⟩ (domUpdate t2))

/-- A write of LT_COMMIT_CTL (R47, R52): with both GO and CANCEL, or neither, it does nothing. -/
def commitControl (a : Agent) (v : Nat) (s : State) : Nat × State :=
  if bit v 0 = bit v 2 then (oDone, s)
  else if bit v 0 then
    let tod := rget s (kS a.seat 0x1088)
    let target := if bit v 1 then todToPos s (bits tod 32 48) (bits tod 0 32) else ((bits (rget s (kS a.seat 0x1080)) 0 48 * phasesPerFrame : Nat) : Int)
    let (o, _, t) := goGroup a target s
    (o, countOutcome a.seat o (modSeatLt a.seat (fun x => { x with outcome := o }) t))
  else
    let (o, t) := cancelGroup a (bits v 8 8) s
    (o, countOutcome a.seat o (modSeatLt a.seat (fun x => { x with outcome := o }) t))

end Sys2Proof.Machine
end

