-- ==== Sys2Proof/Machine/Landing.lean ====
section
/-!
DEFINITION. Landing of commit groups in step 3 and of Seat maps in step 4 (R50, R51, R56, R81, R98, R101, R140, R314), with their records.
-/
namespace Sys2Proof.Machine

open Sys2Proof

/-- The Seat owns the object that a write lands on (R101); a deletion by the connection's holder stands (R102). -/
def writeOwned (s : State) (seat : Nat) (w : StagedWrite) : Bool :=
  if seat = 0 then true
  else
    match keyConn w.key with
    | some n => ownsX s seat (connX n) || (eKind (isHo n) w.value == 0 && (connAt s n).holder == some seat)
    | none =>
        match keyExpect w.key with
        | some i => ((expectAt s i).map (fun x => ownsX s seat (connX x.conn))).getD false
        | none =>
            if 2 ^ 24 + 0x440000 ≤ w.key then owns s seat 0 ((w.key - (2 ^ 24 + 0x440000)) / 32)
            else if 2 ^ 24 ≤ w.key then true
            else
              match regLocate w.key with
              | some l =>
                  match l.desc.cls with
                  | some 1000 => owns s seat 16 (2 * l.i) && owns s seat 16 (2 * l.i + 1)
                  | some c => owns s seat c l.i
                  | none => true
              | none => true

/-- The protection object of a staging key. -/
def keyProt (key : Nat) : Option ProtRef :=
  if 2 ^ 24 + 0x440000 ≤ key ∧ key < 2 ^ 24 + 0x440200 then some (.msp ((key - (2 ^ 24 + 0x440000)) / 32))
  else if 2 ^ 24 + 0x400000 ≤ key ∧ key < 2 ^ 24 + 0x408000 then some (.sel ((key - (2 ^ 24 + 0x400000)) / 16))
  else if 2 ^ 24 + 0x410000 ≤ key ∧ key < 2 ^ 24 + 0x430000 then some (.sel (2048 + (key - (2 ^ 24 + 0x410000)) / 16))
  else none

/-- Pages that are mirrored from now on, marked or VALID as code, are sent whole (R296, R312, section "Registers" of the mate function). -/
def mirrorPagesNew (ps : List Nat) (s : State) : State :=
  ps.foldl (fun t p => mirrorItem false 6 (4096 * p) noSeq (sramRead t (4096 * p) 4096) t) s

/-- What a landed register starts in its block (R213, R268, R325). -/
def landHook (key old new : Nat) (s : State) : State :=
  match regLocate key with
  | none => s
  | some l =>
      match l.desc.name with
      | .lpCfg => if bits old 0 3 = bits new 0 3 then s else portRestart l.i s
      | .lpAuCfg =>
          if old = new then s
          else modPort l.i (fun x => { x with
            au := x.au.filter (fun e => ¬ (3 * l.j ≤ e.1 ∧ e.1 < 3 * l.j + 3)), tu := x.tu.filter (fun e => ¬ (84 * l.j ≤ e.1 ∧ e.1 < 84 * l.j + 84))
            mf := x.mf.filter (fun e => ¬ (3 * l.j ≤ e.1 ∧ e.1 < 3 * l.j + 3)) }) s
      | .fabCtl => if bit old 0 = bit new 0 then s else loWake s
      | .gfpCfg => if old = new then s else setGfp l.i { gfpAt s l.i with delin := .hunt } s
      | .matePageMir => mirrorPagesNew ((setPositions 32 (clrMask new old)).map (fun k => 32 * l.j + k)) s
      | .blCfg => if bits old 0 2 = bits new 0 2 then s else modLane l.i (fun x => { x with tx := .idle, accepted := none }) (laneDrop l.i s)
      | _ => s

/-- One write of step 3 other than an anchor or a connection. -/
def landWrite (w : StagedWrite) (s : State) : State :=
  match keyExpect w.key with
  | some i => landExpect i w.value s
  | none =>
      match keyProt w.key with
      | some (.sel n) =>
          match selAt s n with
          | none => s
          | some x =>
              let k := w.key % 16 / 4
              let y := if k = 0 then { x with w0 := w.value } else if k = 1 then { x with w1 := w.value }
                else { x with w2 := w.value, live := bit w.value 0, ctl := if x.live then x.ctl else .reset }
              let s1 := { s with prot := { s.prot with sels := tset none s.prot.sels n (some y) } }
              mirrorItem false 1 (apertureOff (w.key - 2 ^ 24)) noSeq (toBytes 4 w.value) s1
      | some (.msp p) =>
          let old := rget s w.key
          let s1 := rset s w.key w.value
          let s2 := if bit old 0 = bit w.value 0 then s1 else setCtl (.msp p) .reset s1
          mirrorItem false 1 (apertureOff (w.key - 2 ^ 24)) noSeq (toBytes 4 w.value) s2
      | none =>
          let old := rget s w.key
          let new := landValue s w
          let bytes := (regLocate w.key).elim 4 (fun l => l.desc.bytes)
          mirrorReg false w.key bytes new noSeq (landHook w.key old new (rset s w.key new))

/-- The anchor pair lands (R56, R140). -/
def landAnchor (seat : Nat) (ws : List StagedWrite) (s : State) : State :=
  match stagedVal ws 0x1030, stagedVal ws 0x1038 with
  | some lt, some tod =>
      let pair (f sec ns : Nat) : Nat := f % 2 ^ 48 + 2 ^ 48 * sec + 2 ^ 96 * ns
      let old := pair s.lt.anchorFrame s.lt.anchorSec s.lt.anchorNs
      let f := bits lt 0 48
      let sec := bits tod 32 48
      let ns := bits tod 0 32
      let s1 := rset (rset s 0x1030 lt) 0x1038 tod
      let s2 := { s1 with lt := { s1.lt with anchorFrame := f, anchorSec := sec, anchorNs := ns, anchorSet := true } }
      let s3 := ledgerHwSeat seat 13 0x20 0xFF000001 (s.lt.anchorFrame % 2 ^ 32) (f % 2 ^ 32) false [old, pair f sec ns] s2
      mirrorReg false 0x1038 12 tod (lastSeq s3) (mirrorReg false 0x1030 8 lt (lastSeq s3) s3)
  | _, _ => s

/-- What is passed from group to group at one boundary: keys written and by which Seat, connection and map writes for later steps. -/
structure Landed where
  keys : List (Nat × Nat)
  conns : List StagedWrite
  maps : List (Nat × StagedWrite)

/-- One group lands (R50, R51, R101). Map words of one frame apply over each other in GO order (R99). A connection entry that does not apply leaves
its connection in the active page's state (R286, R294). -/
def landGroup (g : CommitGroup) (acc : Landed × State) : Landed × State :=
  let (l, s) := acc
  let skipped := g.skipped || decide (g.frame < s.lt.frame)
  let ws := g.writes
  let taken (w : StagedWrite) : Option Nat := if isMapKey w.key then none else (l.keys.find? (fun k => k.1 = w.key)).map (·.2)
  let drops := ws.filter (fun w => (taken w).isSome || !writeOwned s g.seat w)
  let keep := ws.filter (fun w => !((taken w).isSome || !writeOwned s g.seat w))
  let by_ := match drops with
    | [] => 0
    | w :: _ => (taken w).getD 0
  let conns := keep.filter (fun w => (keyConn w.key).isSome)
  let maps := keep.filter (fun w => isMapKey w.key)
  let rest := keep.filter (fun w => !((keyConn w.key).isSome || isMapKey w.key || w.key == 0x1030 || w.key == 0x1038))
  let delayed := g.delayed || skipped
  let flags := b2n (decide (drops ≠ [])) + 2 * b2n skipped + 16 * by_
  let ho := (conns.filter (fun w => match keyConn w.key with | some n => isHo n | none => false)).length
  let lo := conns.length - ho
  let obj := 0x05000000 + 256 * g.seat + g.ident
  let s0 := dropGroup false g s
  let s1 := if conns = [] then ledgerHwSeat g.seat 13 4 obj (keep.length + 65536 * drops.length) flags false [] s0
    else ledgerHwSeat g.seat 13 9 obj (b2n (decide (0 < ho)) + 2 * b2n (decide (0 < lo))) (ho + 65536 * lo) false [] s0
  let lost := decide (s0.led.lost < s1.led.lost)
  let wait := (s1.led.queue.map LedgerRec.size).foldl (· + ·) 0
  let seq := if lost then 0 else if wait = 0 then lastSeq s1 else wrap32 (lastSeq s1) (wait + 2 * b2n s1.led.sealBusy)
  let s2 := rest.foldl (fun t w => landWrite w t) (landAnchor g.seat keep s1)
  let refs := (rest.filterMap (fun w => keyProt w.key)).eraseDups
  let s3 := refs.foldl (fun t r => protRecord r 3 (protConfig s r) t) s2
  let s3 := (drops.filterMap (fun w => keyConn w.key)).foldl (fun t n => connRecord 2 n 1 (connAt t n).mode.code 2 t) s3
  let code := if delayed then oDelayed else oDone
  let s4 := pushDone g.seat ⟨code, g.ident, flags + 8 * b2n lost, s.lt.frame, seq⟩ (countOutcome g.seat code s3)
  let s5 := modMate (fun m => { m with landed := true }) s4
  ({ keys := l.keys ++ keep.map (fun w => (w.key, g.seat)), conns := l.conns ++ conns, maps := l.maps ++ maps.map (fun w => (g.seat, w)) }, s5)

/-- A due group that has to wait: for a multiframe boundary, for a domain (R81), or for the epoch budget (true, R314). None when it lands now. DESIGN
CHOICE (entry 37): a group of R49 from skipped time waits for the next multiframe boundary (R17, R49, R250), not for the boundary that ends the
skip (R35). -/
def landWait (g : CommitGroup) (s : State) : Option (CommitGroup × Bool) :=
  let f := s.lt.frame
  let multi := g.writes.any (multiOnly s [])
  let move (n : Nat) : CommitGroup := { g with frame := if multi then (n + 3) / 4 * 4 else n, delayed := true, skipped := g.skipped || decide (g.frame < f) }
  if multi ∧ f % 4 ≠ 0 then some (move f, false)
  else if wakeWait s g.writes then some (move (f + 1), false)
  else if overBudget s ∧ s.mate.landed ∧ f % 16 ≠ 0 then some (move ((f / 16 + 1) * 16), true)
  else none

/-- A group takes its later landing frame: its calendar entry follows, and the mate learns it (R312). -/
def moveGroup (g : CommitGroup) (s : State) : State :=
  let s1 := { s with lt := { s.lt with groups := s.lt.groups.map (fun x => if x.seat = g.seat ∧ x.ident = g.ident then g else x) } }
  let s2 := setCal g.calIndex { calAt s1 g.calIndex with frame := g.frame } s1
  mirrorCal false g.calIndex (mirrorGroup false g s2)

/-- MATE_DELAY.groups delayed (R314). -/
def countDelay (s : State) : State := modMate (fun m => { m with delayed := satAdd 65535 m.delayed 1 }) s

/-- Step 3: the groups due now, in the order of R50. -/
def landDue (s : State) : Landed × State :=
  if noLanding s then (⟨[], [], []⟩, s)
  else
    let due := ((s.lt.groups.filter (fun g => g.frame ≤ s.lt.frame)).mergeSort (fun a b => groupBefore s { b with frame := 0 } { a with frame := 0 }))
    due.foldl (fun acc g =>
      match landWait g acc.2 with
      | some (h, budget) => (acc.1, moveGroup h (if budget then countDelay acc.2 else acc.2))
      | none => landGroup g acc) (⟨[], [], []⟩, s)

/-- BOOK_OVERCOMMIT (R491). -/
def overcommitEval (s : State) : State :=
  let sum (f : Nat → Nat) : Nat := ((List.range 15).map (fun n => f (n + 1))).foldl (· + ·) 0
  let q (off : Nat) : Nat := sum (fun n => quota s n off)
  let cal := (seats.map (calLimit s)).foldl (· + ·) 0
  let v := b2n (decide (27648 < q 0x200)) + 2 * b2n (decide (512 < q 0x204)) + 4 * b2n (decide (64 < q 0x208)) + 8 * b2n (decide (1024 < cal))
    + 16 * b2n (decide (31104 < q 0x20C)) + 32 * b2n (decide (tokPool s - tokHwres s < q 0x214))
  { s with book := { s.book with overcommit := v } }

/-- One map write of step 4 with its MAP records (R98). -/
def landMap (w : StagedWrite) (s : State) : State :=
  let old := rget s w.key
  let new := landValue s w
  if old = new then s
  else
    let s1 := rset s w.key new
    if w.key = 0x20 then
      let s2 := seats.foldl (fun t n =>
        if bit old n = bit new n then t
        else setCause n 0x2001C 0 (ledgerHwSeat n 13 0xB 0x20 old new false [] t)) s1
      mirrorReg false 0x20 4 new (lastSeq s2) s2
    else
      let seat := (w.key - 0x10000) / 0x1000
      let off := w.key % 0x1000
      let whole := decide (0x200 ≤ off ∧ off < 0x220)
      let s2 := (if whole then [0] else [0, 1]).foldl (fun t h =>
        let a := if whole then old else bits old (16 * h) 16
        let b := if whole then new else bits new (16 * h) 16
        if a = b then t else ledgerHwSeat seat 13 0xB (0x03000000 + 2 ^ 20 * seat + off + 2 * h) a b false [] t) s1
      mirrorMap false seat off new (lastSeq s2) (setCause seat 0x2001C 0 s2)

/-- Step 4: the map epoch. -/
def landMaps (ws : List (Nat × StagedWrite)) (s : State) : State :=
  if ws = [] then s
  else
    let t := overcommitEval (ws.foldl (fun t w => landMap w.2 t) s)
    let before := mirrorPages s
    mirrorPagesNew ((mirrorPages t).filter (fun p => !before.contains p)) t

end Sys2Proof.Machine
end

