-- ==== Sys2Proof/Machine/Stages.lean ====
section
/-!
DEFINITION. Start stages (R69 to R75): a stage change with its record, the entries to LOADED and IN_SERVICE at cycle boundaries, the writes of
PWR_STAGE_CTL.
-/
namespace Sys2Proof.Machine

open Sys2Proof

/-- PWR_STAGE.ROLE: none before IN_SERVICE. -/
def roleShown (s : State) : Nat := if s.pwr.stage = .inService then s.pwr.role.code else 0

/-- Stage and role as a STAGE record holds them (R74). -/
def stageImage (s : State) : Nat := s.pwr.stage.code + 256 * roleShown s

/-- Cycles of a listen window (R305). -/
def listenCycles : Nat := 12

/-- A new listen window starts (R305). -/
def listenStart (s : State) : State :=
  modMate (fun m => { m with listenLeft := listenCycles, listenSilent := !(m.pulseAlive || m.msgAlive), listenLower := true
                             listenHeard := false, standbyDue := false, listenEnd := false }) s

/-- A stage change with its STAGE record; what is to be awake follows (R74, R80). Entry to LOADED starts the listen window (R305). -/
def enterStage (new : Stage) (s : State) : State :=
  let old := stageImage s
  let s1 := { s with pwr := { s.pwr with stage := new, stageFrame := s.lt.frame, stagePhase := s.lt.phase } }
  let s2 := setCauses seats 0x2001C 1 (ledgerHw 1 0xF 0xFF000000 old (stageImage s1) false [] s1)
  let s3 := if new = .loaded ∧ s2.mate.rein = .pre then listenStart (setRein .listen 0 s2) else s2
  domUpdate s3

/-- IN_SERVICE may be entered (R73). -/
def serviceReady (s : State) : Bool :=
  s.pwr.stage = .loaded && s.lt.countOk && (holdsRein s || (s.mate.rein = .standby && s.mate.sync = .synced))

/-- Entry to IN_SERVICE when its conditions hold. -/
def serviceEntry (s : State) : State := if serviceReady s then enterStage .inService s else s

/-- The stage changes of a cycle boundary (R72, R73). -/
def stageBoundary (s : State) : State :=
  let s1 := if s.pwr.stage = .framed ∧ s.pwr.advPending then
      enterStage .loaded { s with pwr := { s.pwr with advPending := false } } else s
  serviceEntry s1

/-- PWR_STAGE_STATUS.OUTCOME. -/
def stageEnd (seat code : Nat) (s : State) : State := countOutcome seat code { s with pwr := { s.pwr with stageOutcome := code } }

/-- The REG_WRITE record of an accepted RELEASE or ADVANCE, then the change (R70, R72). -/
def stageAccept (a : Agent) (v code : Nat) (f : PwrState → PwrState) (s : State) : Nat × State :=
  match ledgerMgmt a 1 0x410 0 v false [] s with
  | none => (oLedger, stageEnd a.seat oLedger s)
  | some t => (code, stageEnd a.seat code { t with pwr := f t.pwr })

/-- A write of PWR_STAGE_CTL by S0: one that sets both bits is discarded (R70, R72). The outcome of the command, and the state. -/
def stageControl (a : Agent) (v : Nat) (s : State) : Nat × State :=
  if bit v 0 = bit v 1 then (oDone, s)
  else if bit v 0 then
    if ¬ s.pwr.bootHold ∨ s.pwr.stage ≠ .safe then (oSeat, stageEnd a.seat oSeat s)
    else if s.pwr.released then (oDone, stageEnd a.seat oDone s)
    else stageAccept a 1 oDone (fun p => { p with released := true }) s
  else if s.pwr.stage ≠ .framed then (oSeat, stageEnd a.seat oSeat s)
  else if s.pwr.advPending then (oDeferred, stageEnd a.seat oDeferred s)
  else stageAccept a 2 oDeferred (fun p => { p with advPending := true }) s

/-- SAFE may be left for FRAMED: BOOT_HOLD is 0, or RELEASE is accepted (R70). -/
def framedFree (s : State) : Bool := s.pwr.stage = .safe && (!s.pwr.bootHold || s.pwr.released)

/-- FRAMED_ENTRY (R71): every SerDes PLL is locked and the SRAM is initialised; the fabric outputs are sourced from the AIS generator. -/
def execFramedEntry (s : State) : Result := .next (if framedFree s then enterStage .framed s else s)

/-- STAGE_TIMEOUT (R71): the conditions of FRAMED are not met within the guaranteed time. -/
def execStageTimeout (s : State) : Result := .next (if framedFree s then Sys2Proof.Machine.faultRaise 0 s else s)

end Sys2Proof.Machine
end

