-- ==== Sys2Proof/Machine/MateApply.lean ====
section
/-!
DEFINITION. Mirrored state as items (R296, R311, R316): the items of a snapshot, and an item applied on a standby.
-/
namespace Sys2Proof.Machine

open Sys2Proof

/-- SPACE, ADDR, LEDGER_SEQ and data of an item. -/
structure MateItem where
  space : Nat
  addr : Nat
  seq : Nat
  data : List Byte

/-- The register arrays that hold mirrored fields, the maps apart. -/
def mirroredArrays : List RegDesc :=
  (regsSys ++ regsLt ++ regsHd ++ regsSt ++ regsLp ++ regsPr ++ regsMa ++ regsBl ++ regsFb).filter (fun d => d.mir ≠ 0)

/-- Mirrored registers (SPACE 0x01). -/
def regItems (s : State) : List MateItem :=
  mirroredArrays.flatMap (fun d => (List.range d.n).flatMap (fun i => (List.range d.n2).map (fun j =>
    let off := d.offset i j
    ⟨1, off, noSeq, toBytes d.bytes (rget s (kP off))⟩)))

/-- Configuration of MSP groups (word 0) and of selectors (SPACE 0x01), with the assignment of the selectors (SPACE 0x08). -/
def protItems (s : State) : List MateItem :=
  (List.range 16).map (fun p => ⟨1, apertureOff (0x440000 + 32 * p), noSeq, toBytes 4 (rget s (2 ^ 24 + 0x440000 + 32 * p))⟩)
    ++ s.prot.sels.flatMap (fun e => match e.2 with
      | none => []
      | some x => ⟨8, selectorAddr e.1, noSeq, toBytes 4 (x.seat + 16 * x.num)⟩ ::
          [(0, x.w0), (1, x.w1), (2, x.w2)].map (fun w => ⟨1, apertureOff (selKey e.1 w.1 - 2 ^ 24), noSeq, toBytes 4 w.2⟩))

/-- External commands in force (SPACE 0x08). -/
def commandItems (s : State) : List MateItem :=
  (protRefs s).filterMap (fun r =>
    if (ctlAt s r).ext = 0 then none else some ⟨8, commandAddr r, noSeq, toBytes 4 (ctlAt s r).ext⟩)

/-- Both pages, the states of connections, and carriers (SPACE 0x02, 0x08). -/
def connItems (s : State) : List MateItem :=
  s.fab.conns.flatMap (fun e =>
    if eKind (isHo e.1) e.2.entry = 0 then []
    else [⟨2, connAddr e.1, noSeq, toBytes (if isHo e.1 then 8 else 4) e.2.entry ++ toBytes 8 (2 ^ 64 - 1)⟩, ⟨8, e.1, noSeq, toBytes 4 (connImage e.2)⟩])
    ++ s.fab.shadow.map (fun e => ⟨2, 2 ^ 31 + connAddr e.1, noSeq, toBytes (if isHo e.1 then 8 else 4) e.2.value ++ toBytes 8 e.2.frame⟩)
    ++ s.fab.carriers.map (fun e => ⟨8, carrierAddr e.1, noSeq, toBytes 4 e.2⟩)

/-- Data of a pending group (SPACE 0x03). -/
def groupData (g : CommitGroup) : List Byte :=
  let ps := g.writes.flatMap groupPairs
  toBytes 8 g.frame ++ toBytes 4 ps.length ++ ps.flatMap (fun p => toBytes 4 p.1 ++ toBytes 4 p.2)

/-- Pending groups, calendar entries (SPACE 0x03, 0x04). -/
def timeItems (s : State) : List MateItem :=
  s.lt.groups.map (fun g => ⟨3, 256 * g.seat + g.ident, g.goSeq, groupData g⟩)
    ++ s.lt.cal.map (fun e => ⟨4, e.1, e.2.seq, toBytes 16 (calImage e.2)⟩)

/-- Words of the Seat maps (SPACE 0x05). -/
def mapItems (s : State) : List MateItem :=
  seats.flatMap (fun n => regsMap.flatMap (fun d => (List.range d.n2).map (fun j =>
    ⟨5, 4096 * n + (d.base - 0x10000) + 4 * j, noSeq, toBytes 4 (rget s (kP (d.offset n j)))⟩)))

/-- Page data: one item per page. -/
def pageItems (s : State) : List MateItem := (mirrorPages s).map (fun p => ⟨6, 4096 * p, noSeq, sramRead s (4096 * p) 4096⟩)

/-- Cord expectations (SPACE 0x07). -/
def expectItems (s : State) : List MateItem :=
  s.prot.expects.filterMap (fun e => e.2.map (fun x => ⟨7, e.1, noSeq, toBytes 64 (expectImage s e.1 x x.body.port (connAddr x.conn))⟩))

/-- Every mirrored item once (R316). -/
def mirrorItems (s : State) : List MateItem :=
  regItems s ++ mapItems s ++ pageItems s ++ protItems s ++ connItems s ++ expectItems s ++ timeItems s ++ commandItems s

/-- The chunks of one item of a snapshot (R316). -/
def itemChunks (i : MateItem) : List MateDelta := (deltaPieces i.space i.addr i.seq (i.data.length + 1) i.data).map (fun d => { d with snap := true })

/-- The chunks of a snapshot that is sent now. -/
def snapDeltas (s : State) : List MateDelta := (mirrorItems s).flatMap itemChunks

/-- A mirrored register takes the mirrored fields of a delta. -/
def applyReg (off v : Nat) (s : State) : State :=
  match regLocate off with
  | none => s
  | some l =>
      let key := kP (l.desc.offset l.i l.j)
      let old := rget s key
      let new := (v &&& l.desc.mir) ||| clrMask old l.desc.mir
      let s1 := landHook key old new (rset s key new)
      if off = 0x1030 then { s1 with lt := { s1.lt with anchorFrame := bits v 0 48, anchorSet := true } }
      else if l.desc.name = .stCtl then stCtlHook mateUnit l.i old new s1
      else if off = 0x1038 then { s1 with lt := { s1.lt with anchorSec := bits v 32 48, anchorNs := bits v 0 32, anchorSet := true } }
      else s1

/-- A word of a protection object's configuration takes a delta. -/
def applyProt (off v : Nat) (s : State) : State := landWrite ⟨2 ^ 24 + 0x400000 + (off - 0xE00000), v⟩ s

/-- The writes of a group from its pairs: the words of one object are joined. -/
def pairKey (off : Nat) : Option (Nat × Nat) :=
  match connOfAddr off with
  | some n => some (connKey n, (off - connAddr n) / 4)
  | none =>
      if 0xE00000 ≤ off then
        let k := 2 ^ 24 + 0x400000 + (off - 0xE00000)
        match keyExpect k with
        | some i => some (expectKey i, (k - expectKey i) / 4)
        | none => some (k, 0)
      else (regLocate off).map (fun l => (l.desc.offset l.i l.j, l.word))

/-- Join a pair to the writes so far. -/
def joinPair (ws : List StagedWrite) (p : Nat × Nat) : List StagedWrite :=
  match pairKey p.1 with
  | none => ws
  | some (k, w) =>
      if ws.any (fun x => x.key == k) then ws.map (fun x => if x.key = k then { x with value := setBits x.value (32 * w) 32 p.2 } else x)
      else ws ++ [⟨k, p.2 * 2 ^ (32 * w)⟩]

/-- A pending group from its data (SPACE 0x03). -/
def groupOf (addr seq : Nat) (data : List Byte) : CommitGroup :=
  let v := bytesVal data
  let ws := ((List.range (bits v 64 32 % 4096)).map (fun k => (bits v (96 + 64 * k) 32, bits v (128 + 64 * k) 32))).foldl joinPair []
  let conns := ws.filterMap (fun w => keyConn w.key)
  { seat := bits addr 8 4, ident := addr % 256, writes := ws, frame := bits v 0 64, delayed := false, skipped := false, fromEpoch := true, goSeq := seq, calIndex := 1024
    swapHo := conns.any isHo, swapLo := conns.any (fun n => !isHo n) }

/-- Put a group in the place of the one with its Seat and ID. -/
def putGroup (g : CommitGroup) (s : State) : State :=
  let old := s.lt.groups.find? (fun h => h.seat == g.seat && h.ident == g.ident)
  let g1 := { g with calIndex := (old.map (·.calIndex)).getD g.calIndex }
  { s with lt := { s.lt with groups := s.lt.groups.filter (fun h => !(h.seat == g.seat && h.ident == g.ident)) ++ [g1] } }

/-- A calendar entry from its image (SPACE 0x04). -/
def calOf (v seq : Nat) : CalEntry :=
  { frame := bits v 0 48, phase := bits v 48 16, repeatN := bits v 64 16, kind := bits v 80 4, cls := bits v 84 3, seat := bits v 88 4
    target := bits v 96 16, arg := bits v 112 16, fromEpoch := true, seq := seq, moved := false, reqFrame := bits v 0 48 }

/-- A calendar entry takes its place; that of a timed commit names its group's index. -/
def putCal (i : Nat) (e : CalEntry) (s : State) : State :=
  let s1 := setCal i e s
  if e.kind = 3 then
    { s1 with lt := { s1.lt with groups := s1.lt.groups.map (fun g => if g.seat = e.seat ∧ g.ident = e.target then { g with calIndex := i } else g) } }
  else s1

/-- An expectation from the 64 bytes of its entry (SPACE 0x07). -/
def expectOf (s : State) (v : Nat) : Option Expect :=
  (connOfAddr (bits v 320 24)).map (fun n =>
    { body := bodyOf (v % 2 ^ 320), conn := n, seat := ((connAt s n).holder).getD (connOwner s n)
      state := match bits v 344 8 with | 1 => .pending | 2 => .armed | 3 => .met | 4 => .detaching | _ => .free
      armFrame := bits v 352 48, armPhase := bits v 400 16, matchFrame := bits v 416 48, matchPhase := bits v 464 16
      lastRead := bits v 480 16, wrong := bits v 496 16 })

/-- State, override and holder of a connection from SPACE 0x08. -/
def connState (v : Nat) (c : Conn) : Conn :=
  { c with mode := match bits v 0 3 with | 2 => .unbuckled | 3 => .buckled | 4 => .live | _ => .none
           override := bit v 3, holder := if bits v 4 5 = 0 then none else some (bits v 4 5 - 1), num := bits v 9 18 }

/-- The group or selector whose OBJECT identity is given. -/
def protOfObject (v : Nat) : Option ProtRef :=
  match v / 2 ^ 20 with
  | 1 => some (.msp (v % 16))
  | 2 => some (.sel (v % 2 ^ 20))
  | 3 => some (.sel (2048 + v % 2 ^ 20))
  | _ => none

/-- A control-table item (SPACE 0x08). -/
def applyControl (addr v : Nat) (gone : Bool) (s : State) : State :=
  if 2 ^ 31 ≤ addr then
    match protOfObject (addr % 2 ^ 24) with
    | some r => setCtl r { ctlAt s r with ext := if gone then 0 else v % 16, extHw := false } s
    | none => s
  else if 2 ^ 30 ≤ addr then
    let n := addr - 2 ^ 30
    let x : Option Selector := if gone then none else match selAt s n with
      | some y => some { y with seat := v % 16, num := v / 16 }
      | none => some { newSelector s (v % 16) 0 with num := v / 16 }
    { s with prot := { s.prot with sels := tset none s.prot.sels n x } }
  else if 2 ^ 29 ≤ addr then { s with fab := { s.fab with carriers := tset 0 s.fab.carriers (addr - 2 ^ 29) (if gone then 0 else v) } }
  else modConn addr (connState v) s

/-- One item applied on a standby (R315, R316). -/
def applyItem (gone : Bool) (i : MateItem) (s : State) : State :=
  let v := bytesVal i.data
  match i.space with
  | 1 => if 0xE00000 ≤ i.addr then applyProt i.addr v s else applyReg i.addr v s
  | 2 =>
      match connOfAddr (i.addr % 2 ^ 24) with
      | none => s
      | some n =>
          let entry := v % 2 ^ (if isHo n then 64 else 32)
          if 2 ^ 31 ≤ i.addr then
            let rest := tdel s.fab.shadow n
            { s with fab := { s.fab with shadow := if gone then rest else tins rest n ⟨entry, bits v (if isHo n then 64 else 32) 64⟩ } }
          else if gone then { s with fab := { s.fab with conns := tdel s.fab.conns n } }
          else modConn n (fun c => { c with entry := entry }) s
  | 3 =>
      if gone then { s with lt := { s.lt with groups := s.lt.groups.filter (fun g => !(256 * g.seat + g.ident == i.addr)) } }
      else putGroup (groupOf i.addr i.seq i.data) s
  | 4 => if gone then setCal i.addr .empty s else putCal i.addr (calOf v i.seq) s
  | 5 =>
      let key := kP (0x10000 + i.addr)
      if (regLocate (0x10000 + i.addr)).isSome then rset s key (v &&& rwsMask key) else s
  | 6 => sramWrite s i.addr i.data
  | 7 => setExpect i.addr (if gone then none else expectOf s v) s
  | 8 => applyControl i.addr v gone s
  | _ => s

/-- Items from deltas, oldest first: pieces with MORE are joined. `held` are the data of the pieces so far. -/
def applyDeltas (held : List Byte) : List MateDelta → State → State
  | [], s => s
  | d :: ds, s =>
      if d.more then applyDeltas (held ++ d.data) ds s
      else applyDeltas [] ds (applyItem d.delete ⟨d.space.toNat, d.addr.toNat, d.ledgerSeq.toNat, held ++ d.data⟩ s)

/-- The collections of mirrored state emptied before a snapshot fills them (R297, R316). -/
def clearMirror (s : State) : State :=
  { s with lt := { s.lt with groups := [], cal := [] }, fab := { s.fab with conns := [], shadow := [], carriers := [] }
           prot := { s.prot with sels := [], expects := [], msp := s.prot.msp.map (fun e => (e.1, { e.2 with ext := 0, extHw := false })) } }

end Sys2Proof.Machine
end

