-- ==== Sys2Proof/Machine/Transmit.lean ====
section
/-!
DEFINITION. Transmission: line frames with their overhead, pointers and content (R214, R219 to R221, R227 to R229, R231, R235, R256), GFP frames (R231),
Dunte frames with their headers, slot words and content (R324, R326 to R332, R339, R345).
-/
namespace Sys2Proof.Machine

open Sys2Proof

/-- All ones. -/
def Content.isAis : Content → Bool
  | .ais => true
  | _ => false

/-- What an act of a pointer generator counts; a jump sets PTR_BEYOND (R228, R229, R253). -/
def countGen (s : State) (act : Nat) (x : LinePort) : LinePort :=
  match act with
  | 1 => cntAdd 9 1 x
  | 2 => cntAdd 10 1 x
  | 3 => cntAdd 12 1 (cntAdd 11 1 { x with beyond := true, jumpFrame := s.lt.bounds })
  | 4 => cntAdd 11 1 x
  | _ => x

/-- Units that the elastic store of an index gained. -/
def unitsOfStore (g : List TxStore) (i : Nat) : Int := ((g.filter (fun t => t.index.toNat = i)).map (·.units)).foldl (· + ·) 0

/-- A generator of a port takes its turn. -/
def runGen (s : State) (i range : Nat) (src : SlotSource) (ones : Bool) (mark : Option Nat) (g : List TxStore) (x : LinePort) : LinePort :=
  let (k, act) := genFrame range src ones mark (unitsOfStore g i) (tget PtrGen.reset x.gens i)
  countGen s act { x with gens := tset .reset x.gens i k }

/-- The tributaries of a carrier of a line port: their generators act at the start of a TU multiframe (R227). -/
def txTribs (s : State) (p sl : Nat) (g : List TxStore) (x : LinePort) : LinePort × List TribSent :=
  let n := tribs (lpType s p sl)
  (List.range n).foldl (fun acc j =>
    let src := loSource s (bridgedSlot s (192 * p + sl)) j
    let (body, mark) := tribOf s (tuRange n) src
    let i := 1000 + tuIndex s (192 * p + sl) j
    let y := if s.lt.frame % 4 = 0 then runGen s i (tuRange n) src (body == .ais) mark g acc.1 else acc.1
    (y, acc.2 ++ [⟨ptrWord (tuSize n) (tuRange n) (tget PtrGen.reset y.gens i), body⟩])) (x, [])

/-- Slots of the structure that a slot of a port or pair heads. -/
def structWidth (s : State) (x : Nat) : Nat :=
  let t := auType s [] x
  if t = 1 ∨ t = 4 ∨ t = 5 then 1 else if t = 6 then [12, 48, 192].getD (auConc s [] x) 3 else 3

/-- B3: parity over the VC of the frame before (R231, R256). -/
def pathB3 (before : Nat → Option SlotSent) (head w : Nat) : Nat :=
  (List.range w).foldl (fun a k => a ^^^ (before (head + k)).elim 0 (·.body.parity)) 0

/-- One slot of a transmitted line frame (R226, R227, R231, R256). On a bridged protection port a GFP-F container is what the working port last sent
(entry 51). -/
def txSlot (s : State) (p : Nat) (g : List TxStore) (os : Tab (List Byte)) (acc : LinePort × List SlotSent) (sl : Nat) : LinePort × List SlotSent :=
  let (x, out) := acc
  let z := 192 * p + sl
  let head := structHead s [] z
  let ss := if bit (lpCfg s p) 2 then 0 else 2
  let t := lpType s p sl
  let src := slotSource s z
  let oh (c2 h4 : Nat) : PathOh := ⟨c2, pathB3 (fun k => x.tx.slots[k]?) head (structWidth s (192 * p + head)), h4⟩
  let (x1, body) : LinePort × Content := match src with
    | .ais _ => (x, .ais)
    | .uneq => (x, .uneq)
    | .input y => (x, inContent s y)
    | .carrier =>
        let (y, ts) := txTribs s p sl g x
        (y, .carrier (if sl = head then some (oh 2 (s.lt.frame % 4)) else none) (t == 2 || t == 3) (s.lt.frame % 4) ts)
    | .mapped c => (x, if bridgedSlot s z ≠ z then ((portAt s (xPort (bridgedSlot s z))).tx.slots[sl]?).elim .unstated (·.body) else
        .mapped (oh 0x1B 0) (gfpSlots (bits (gfpCfg s [] c) 16 2)) (sl - bits (gfpCfg s [] c) 8 8) (tget [] os c))
    | .trib _ _ => (x, .unstated)
  if sl = head then
    let x2 := runGen s sl 783 src body.isAis (contentMark body) g x1
    (x2, out ++ [⟨ptrWord ss 783 (tget PtrGen.reset x2.gens sl), body⟩])
  else (x1, out ++ [⟨if body.isAis then 0xFFFF else concWord ss, body⟩])

/-- Take `n` bytes of a DCC transmit buffer, 0x7E where it has none; what is left; whether a position could not be filled (R235). -/
def dccTake (n : Nat) (buf : List Byte) : List Byte × List Byte × Bool :=
  (buf.take n ++ List.replicate (n - buf.length) 0x7E, buf.drop n, decide (buf.length < n))

/-- The channels that fill containers of a port take the octets of one frame (R231). -/
def takeOctets (s : State) (p : Nat) : Tab (List Byte) × State :=
  (List.range 8).foldl (fun acc c =>
    let v := gfpCfg acc.2 [] c
    if txKind s p = 3 ∧ bit v 0 ∧ bits v 4 4 = p then
      let n := containerOctets (gfpSlots (bits v 16 2))
      let x := gfpAt acc.2 c
      (tset [] acc.1 c (x.out.take n), setGfp c { x with out := x.out.drop n } acc.2)
    else acc) ([], s)

/-- The J0 byte of the frame sent now (R220). -/
def txJ0 (s : State) (p : Nat) : Nat :=
  let cfg := lpCfg s p
  let tr := leBytes 64 (rget s (kP (0x80080 + 0x4000 * p)))
  if bits cfg 6 2 = 0 then tr.getD 0 0
  else if bits cfg 6 2 = 1 then (withCrc7 (tr.take 16)).getD (s.lt.frame % 16) 0
  else tr.getD (s.lt.frame % 64) 0

/-- One transmitted line frame (R214, R219, R220, R221, R227 to R229, R231, R235). While MS-AIS is sent, all after the regenerator section overhead is
all ones. -/
def lineTransmit (p : Nat) (g : List TxStore) (s0 : State) : State :=
  let kind := txKind s0 p
  if kind = 0 then modPort p (fun x => { x with tx := .idle, monitor := .hunt, monAge := 0, txClean := 0 }) s0
  else
    let (os, s) := takeOctets s0 p
    let cfg := lpCfg s p
    let x := portAt s p
    let rate := bits cfg 0 2
    let ctl := tget ProtCtl.reset s.prot.msp p
    let en := bit (mspWord s [] p) 0
    let k2 := if en then ctl.txK2 else 0
    let k2 := if sendsRdi s p x then setBits k2 0 3 6 else k2
    let ais := kind == 1
    let ff (v : Nat) : Nat := if ais then 255 else v
    let (ds, a, ua) := if bit cfg 16 then dccTake 3 x.dccSTx else (List.replicate 3 0x7E, x.dccSTx, false)
    let (dl, b, ub) := if bit cfg 17 ∧ ¬ ais then dccTake 9 x.dccLTx else (List.replicate 9 0x7E, x.dccLTx, false)
    let x1 := { x with dccSTx := a, dccLTx := b }
    let x2 := if ua || ub then cntAdd 14 1 x1 else x1
    let (x3, slots) := (List.range (rateSlots rate)).foldl (txSlot s p g os) (x2, [])
    let f : TxFrame := { kind := kind, j0 := txJ0 s p, k1 := ff (if en then ctl.txK1 else 0), k2 := ff k2, s1 := ff (rbits s (kP (0x80014 + 0x4000 * p)) 0 8)
                         m1 := ff (min (m1Cap rate) x.lastB2), b1 := x.nextB1, b2 := if ais then x.nextB2.map (fun _ => 255) else x.nextB2
                         dccS := ds, dccL := if ais then dl.map (fun _ => 255) else dl, slots := slots }
    setPort p (monitorStep { x3 with tx := f, nextB1 := parity (f.sent (4 ^ rate)), nextB2 := f.parityB2 (4 ^ rate) }) s

/-- LINE_FRAME_TRANSMIT (R214). -/
def execLineFrameTransmit (p : BitVec 4) (g : List TxStore) (s : State) : Result := .next (lineTransmit p.toNat g s)

/-- GFP_FRAME_TRANSMIT (R231): the oldest client frame of the buffer, or an idle frame, joins the octets for the container. -/
def execGfpFrameTransmit (c : BitVec 3) (s : State) : Result :=
  let v := gfpCfg s [] c.toNat
  .next (if ¬ (bit v 0 ∧ domOn s (94 + c.toNat) ∧ txKind s (bits v 4 4) = 3) then s
    else
      let x := gfpAt s c.toNat
      let len := bytesVal (x.tx.take 2)
      let size := 8 + (len + 3) / 4 * 4
      let octets (l : List Nat) : List Byte := l.map (fun b => BitVec.ofNat 8 b)
      if 8 ≤ x.tx.length ∧ size ≤ x.tx.length then
        let flags := bytesVal ((x.tx.drop 2).take 1)
        let body := (x.tx.drop 8).take len
        let (f, e) := gfpFrame x.scr (bit flags 1) (bit flags 0) (x.tx.getD 3 0).toNat (body.map (·.toNat))
        let pti : Byte := if bit flags 1 then 4 else 0
        let pfi : Byte := if bit flags 0 then 1 else 0
        setGfp c.toNat (gfpCnt 5 { x with
          tx := x.tx.drop size, lastTx := pti :: pfi :: (x.tx.getD 3 0) :: body, out := x.out ++ octets f, scr := e }) s
      else setGfp c.toNat (gfpCnt 6 { x with out := x.out ++ octets gfpIdle }) s)

/-- BP_SRQ_TX of a pair slot. -/
def srqTx (s : State) (q sl : Nat) : Nat := rbits s (kP (0xE2100 + 0x800 * q + 4 * (sl / 4))) (8 * (sl % 4)) 4

/-- The header of a frame sent now (R328, R330, R336, R337). -/
def txHeader (s : State) (l : Nat) : DunteHeader :=
  let x := laneAt s l
  let g := genOf s l
  { hcrcOk := true, gen := BitVec.ofNat 2 g, lane := BitVec.ofNat 6 (if l < 32 then l else l - 32), frame := BitVec.ofNat 48 s.lt.frame
    long := g == 2 && decide (25 ≤ 8 * s.lt.frame % 33), rxok := decide (2 ≤ rxCode x), run := (laneTx s l) = .run
    countOk := s.lt.countOk, mate := decide (32 ≤ l), markRx := if x.hdr.isSome then BitVec.ofNat 16 x.arrival else 0xFFFF
    markTx := BitVec.ofNat 16 (txOffset g) }

/-- A pointer word on the backplane: no stuffing is made, so any other offset than that sent before, and one after all ones, goes with NDF (R331). -/
def backWord (ss : Nat) (ones : Bool) (mark : Option Nat) (before : Option Nat) : Nat :=
  if ones then 0xFFFF
  else
    let was := before.bind (fun w => if w = 0xFFFF then none else some (w % 1024))
    let o := mark.getD (was.getD builtMark)
    (if was = some o then 0x6000 else 0x9000) + 1024 * ss + o

/-- The tributaries of a carrier of a pair slot (R227, R253). -/
def backTribs (s : State) (x : Nat) (before : Option SlotSent) : List TribSent :=
  let n := tribs (auType s [] x)
  let old : List TribSent := match before with
    | some ⟨_, .carrier _ _ _ ts⟩ => ts
    | _ => []
  (List.range n).map (fun j =>
    let (body, mark) := tribOf s (tuRange n) (loSource s x j)
    let was := (old[j]?).map (·.word)
    ⟨if s.lt.frame % 4 = 0 ∨ was.isNone then backWord (tuSize n) (body == .ais) mark was else was.getD 0xFFFF, body⟩)

/-- A slot as a lane sends it: AIS in TRAIN, the fabric output in RUN (R324, R331, R336). -/
def laneSlotSent (s : State) (k : Nat) (run : Bool) (old : Tab SlotSent) (sl : Nat) : SlotSent :=
  let z := 3072 + 192 * (k / 2) + sl
  let head := structHead s [] z
  let t := auType s [] z
  let before := tgetO old sl
  let body : Content := if ¬ run then .ais else match outSource s z with
    | .uneq => .uneq
    | .input y => inContent s y
    | .carrier => .carrier (if sl = head then some ⟨2, pathB3 (tgetO old) head (structWidth s (3072 + 192 * (k / 2) + head)), s.lt.frame % 4⟩ else none)
        (t == 2 || t == 3) (s.lt.frame % 4) (backTribs s z before)
    | _ => .ais
  ⟨if sl = head then backWord 2 body.isAis (contentMark body) (before.map (·.word)) else if body.isAis then 0xFFFF else concWord 2, body⟩

/-- The 810 bytes of a slot on a lane (R331): SAW and SRQ in `words`. -/
def laneSlotBytes (words sbip : Nat) (x : SlotSent) : List Nat :=
  (List.range 810).map (fun k =>
    if 3 ≤ k % 90 then x.body.byte k
    else if k = 0 then words % 256 else if k = 1 then words / 256 else if k = 90 then sbip
    else if k = 270 then x.word / 256 % 256 else if k = 271 then x.word % 256 else 0)

/-- The slot area: byte k of every lane slot in turn (R329, R330). -/
def slotArea (slots : List (List Nat)) : List Nat := (List.range 810).flatMap (fun k => slots.map (fun b => b.getD k 0))

/-- The symbols of a v1 frame, none for K28.5 (R329). -/
def v1Symbols (h : DunteHeader) (slots : List (List Nat)) : List (Option Nat) :=
  let body := headerBytes h ++ slotArea slots ++ List.replicate 345 0
  none :: (body ++ leBytes 4 (crc32c body)).map some

/-- Bytes as 8-byte blocks. -/
def dataBlocks : Nat → List Nat → List (Bool × List Nat)
  | 0, _ => []
  | n + 1, bs => (false, (List.range 8).map (fun i => bs.getD i 0)) :: dataBlocks n (bs.drop 8)

/-- The blocks of a v2 frame (R330): `area` fills blocks 2 to 23 672, zeros behind it; control blocks are marked. -/
def v2Blocks (h : DunteHeader) (area : List Nat) : List (Bool × List Nat) :=
  let hb := headerBytes h
  let body := area ++ List.replicate (8 * areaUnits - area.length) 0
  let fill : List (Bool × List Nat) := if h.long then [(true, 0xD2 :: List.replicate 7 0)] else []
  (true, 0xD1 :: hb.take 7) :: (false, hb.drop 7) :: dataBlocks areaUnits body ++ fill ++ [(false, leBytes 4 (crc32c (hb ++ body)) ++ List.replicate 4 0)]

/-- A frame of a lane is sent (R332): header, slots, message area; 16 clean frames in SYNC clear TXMON_FAIL (R345). -/
def laneSend (k : Nat) (area : List Nat) (s : State) : State :=
  let x := laneAt s k
  match laneTx s k with
    | .idle => setLane k { x with sent := none, sentSlots := [], sentCells := [], sentArea := [], monitor := .hunt, monAge := 0, txClean := 0 } s
    | tx =>
        let q := k / 2
        let run := decide (tx = .run)
        let mine := if 32 ≤ k then [] else (List.range 192).filter (genCarries (genOf s k) (k % 2 == 1))
        let words := mine.map (fun sl =>
          let h := headSlot s q sl
          (sl, (if run then sawOf s (3072 + 192 * q + h) else 1) + 256 * srqTx s q h))
        let cells := mine.map (fun sl => (sl, laneSlotSent s k run x.sentCells sl))
        let octets := words.zip cells |>.map (fun e => laneSlotBytes e.1.2 (tget 0 x.nextSbip e.1.1) e.2.2)
        let h := txHeader s k
        let clean := if x.monitor = .sync then min 16 (x.txClean + 1) else 0
        setLane k { x with
          sent := some h, sentSlots := words.filter (fun e => e.2 ≠ 0), sentCells := cells, sentArea := area
          nextSbip := (mine.zip octets).map (fun e => (e.1, parity e.2))
          disparity := if genOf s k = 1 then (code10s x.disparity (v1Symbols h octets)).2 else x.disparity
          scr := if genOf s k = 2 then (blockBits x.scr (v2Blocks h (if 32 ≤ k then area else slotArea octets))).2 else x.scr
          monitor := (match x.monitor with | .hunt => .presync | _ => .sync), monAge := min 8 (x.monAge + 1), txClean := clean
          txFail := x.txFail && decide (clean < 16) } s

end Sys2Proof.Machine
end

