-- ==== Sys2Proof/Machine/Mate.lean ====
section
/-!
DEFINITION. The mate function's commands and its part of a frame boundary (chapter "Mate Redundancy and the Rein", R295 to R321, R543): heartbeats,
the rein, epochs, snapshots, take-over and releases.
-/
namespace Sys2Proof.Machine

open Sys2Proof

/-- MATE_CTL and the present cycle. -/
def mateCtl (s : State) : Nat := rget s (kP 0xD0000)
def cycleNow (s : State) : Nat := s.lt.frame / 16

/-- Both heartbeat paths are silent (R298, R299). -/
def bothSilent (s : State) : Bool := !s.mate.msgAlive && !s.mate.pulseAlive

/-- The part's messages are exchanged: from SAFE, with the mate function enabled (R64, R295). -/
def mateListens (s : State) : Bool := alive s && s.mate.rein != .off

/-- The REIN record of a transition that a request makes, causes 7 to 9 (R142, R321); none is REFUSED_LEDGER. -/
def reinRecordBy (a : Agent) (new : Rein) (cause : Nat) (s : State) : Option State :=
  ledgerMgmt a 0x10 (reinObject s) s.mate.rein.code (reinNew new cause) false [] s

/-- A number from its low 32 bits: the one nearest to `c`. -/
def near32 (c v : Nat) : Nat :=
  let base := c - c % 2 ^ 32 + v % 2 ^ 32
  if c % 2 ^ 32 + 2 ^ 31 ≤ v % 2 ^ 32 then base - 2 ^ 32
  else if v % 2 ^ 32 + 2 ^ 31 < c % 2 ^ 32 then base + 2 ^ 32
  else base

/-- Rein states by code. -/
def reinOf : Nat → Option Rein
  | 0 => some .off | 1 => some .pre | 2 => some .listen | 3 => some .standby | 4 => some .holder | 5 => some .releasing | 6 => some .out | _ => none

/-- A SNAP_REQ is sent, with the last SEQ applied (R311, R315, R316). -/
def sendSnapReq (s : State) : State :=
  linkSend rankSnap (snapReqBytes s.mate.seq) (modMate (fun m => { m with sentSnapReq := wrap32 m.sentSnapReq 1 }) s)

/-- What the part becomes as an UNSYNCED standby: its epoch ends unsent, and it asks for a snapshot. -/
def standbyState (s : State) : State :=
  sendSnapReq (reinChange .standby (linkDropEpoch (modMate (fun m => { m with
    sync := .unsynced, relDue := none, takeDue := none, snapDue := false, snapOn := false, standbyDue := false, listenEnd := false, relTimeout := false
    rx := none, verified := none, snapEnded := false, snapItems := [], snapChunks := [] }) s)))

/-- The part becomes an UNSYNCED standby, with its REIN record (R321). -/
def toStandby (cause : Nat) (s : State) : State :=
  standbyState (ledgerHw 5 0x10 (reinObject s) s.mate.rein.code (reinNew .standby cause) false [] s)

/-- Synchronisation is lost (R315): the buffered epoch is discarded, SYNC_LOST, SNAP_REQ. -/
def syncLost (s : State) : State :=
  let s1 := modMate (fun m => { m with rx := none, verified := none, sync := .unsynced, snapEnded := false, snapItems := [], snapChunks := [] }) s
  sendSnapReq (faultRaise 243 (mateCause0 4 s1))

/-- A standby that follows epochs or a snapshot. -/
def following (s : State) : Bool := s.mate.rein = .standby && s.mate.sync != .unsynced

/-- A new term (R302). -/
def newTerm (s : State) : State := modMate (fun m => { m with term := max m.highTerm m.term + 1, highTerm := max m.highTerm m.term + 1 }) s

/-- EPOCH_OPEN of the cycle in progress (R312). -/
def openEpoch (s : State) : State :=
  let e : EpochBody := ⟨wrap32 s.mate.seq 1, s.lt.frame / 16 * 16, s.mate.term, [], 24, ledgerSeq s, 0, []⟩
  linkSend rankEpoch (openBytes e) (modMate (fun m => { m with open_ := some e, landed := false }) s)

/-- The rein is held from now on (R305), the new term taken and recorded. -/
def holdState (s : State) : State :=
  openEpoch (reinChange .holder (modMate (fun m => { m with
    lease := cycleNow s + 8, takeDue := none, relDue := none, standbyDue := false, listenEnd := false, relTimeout := false, noHolder := false }) s))

/-- The rein is held from now on with a new term (R302, R305), with the REIN record (R321). -/
def holdRein (cause : Nat) (s : State) : State :=
  let s1 := newTerm s
  holdState (ledgerHw 5 0x10 (reinObject s1) s1.mate.rein.code (reinNew .holder cause) false [] s1)

/-- Every expectation of an UNBUCKLED connection is armed again (R293). -/
def rearmAll (s : State) : State :=
  (s.fab.conns.filter (fun e => e.2.mode = .unbuckled)).foldl (fun t e =>
    (connExpects t e.1).foldl (fun u x => armAt x.1 u.lt.frame u.lt.phase u) t) s

/-- A verified epoch is applied (R315), with its EPOCH record. -/
def applyVerified (s : State) : State :=
  match s.mate.verified with
  | none => s
  | some (e, t) =>
      let ds := (e.deltas.reverse.zipIdx.filter (fun p => !e.skip.contains p.2)).map (·.1)
      let s1 := applyDeltas [] ds (modMate (fun m => { m with verified := none, lastStart := some e.startFrame }) s)
      domUpdate (ownerChanges s (ledgerHw 5 0x11 (0xFF000000 + e.seq % 2 ^ 24) t.ledgerFirst.toNat t.ledgerCount.toNat false [] s1))

/-- The epoch after the last one applied is lost (R317): MATE_LOST, EPOCH_LOST, the EPOCH record with KFLAG. -/
def loseEpoch (s : State) : State :=
  let m := s.mate
  let seq := wrap32 m.seq 1
  let part := match m.rx with
    | some e => if e.seq = seq then some e else none
    | none => none
  let from_ := match part with
    | some e => e.startFrame
    | none => (m.lastStart.map (· + 16)).getD (s.lt.frame / 16 * 16)
  let got := (part.map (fun e => e.deltas.length)).getD 0
  let s1 := modMate (fun x => { x with lostSeq := seq, lostFrom := from_, lostTake := s.lt.frame / 16 * 16, groupsDropped := 0
                                       partialDeltas := min 65535 got, seq := seq }) s
  ledgerHw 5 0x11 (0xFF000000 + seq % 2 ^ 24) seq got true [] (mateCauseAll 0 (faultRaise 244 s1))

/-- Pending groups due before the take (R317): dropped when they land in the lost span, else landed with DONE_DELAYED at the take. -/
def settleGroups (lost : Bool) (s : State) : State :=
  let now := s.lt.frame
  let dropped := s.lt.groups.filter (fun g => decide (g.frame < now) && lost && decide (s.mate.lostFrom ≤ g.frame))
  let s1 := dropped.foldl (fun t g => discardGroup g t) s
  let s2 := modMate (fun m => { m with groupsDropped := if lost then min 65535 dropped.length else m.groupsDropped }) s1
  { s2 with lt := { s2.lt with groups := s2.lt.groups.map (fun g => if g.frame < now then { g with frame := now, delayed := true } else g) } }

/-- Steps 1 to 4 of REIN_TAKE (R317): calendar entries due before are skipped time for the boundary's step 8. -/
def takeSteps (cause : Nat) (lost : Bool) (s : State) : State :=
  let s1 := applyVerified s
  let s2 := if lost then loseEpoch s1 else s1
  modMate (fun m => { m with rx := none, verified := none, sync := .unsynced, onOffer := decide (cause = 5)
                             takeCycle := cycleNow s2 + 1, txFault := false }) (settleGroups lost s2)

/-- Step 5 of REIN_TAKE, the new term taken and recorded. -/
def takeEnd (s : State) : State := serviceEntry (rearmAll (mateCauseAll 1 (holdState s)))

/-- REIN_TAKE (R317) at a cycle boundary, up to its step 5; the steps 3 to 9 of the boundary follow. -/
def takeRein (cause : Nat) (lost : Bool) (s : State) : State :=
  let s1 := newTerm (takeSteps cause lost s)
  takeEnd (ledgerHw 5 0x10 (reinObject s1) s1.mate.rein.code (reinNew .holder cause) false [] s1)

/-- The take of S0's TAKE command: its REIN record is a management record (R321). One that cannot be appended ends the command REFUSED_LEDGER with
no take (R142). -/
def takeReinBy (a : Agent) (s : State) : State :=
  let s1 := newTerm (takeSteps 7 true s)
  match reinRecordBy a .holder 7 s1 with
  | none => modMate (fun m => { m with cmdOutcome := oLedger }) s
  | some t => takeEnd t

/-- A part takes the rein only while COUNT_OK = 1, and not while TAKE_BLOCK is set (R305, R471). -/
def mayTake (s : State) : Bool := s.lt.countOk && !s.mate.takeBlock

/-- The final epoch of a release has been applied or verified. -/
def finalHere (s : State) (seq : Nat) : Bool := s.mate.seq == seq

/-- A take that is due at this cycle boundary (R305, R308). -/
def takeBoundary (s : State) : State :=
  match s.mate.takeDue with
  | none => s
  | some d =>
      let c := cycleNow s
      let drop := modMate (fun m => { m with takeDue := none }) s
      if c < d.cycle then s
      else if s.mate.rein ≠ .standby ∨ ¬ s.lt.countOk then drop
      else if d.cause = 7 then takeReinBy ⟨0, d.path, d.unit⟩ drop
      else if s.mate.sync ≠ .synced ∨ s.mate.takeBlock then drop
      else if d.cause = 2 then (if s.mate.lease + 2 ≤ c ∧ bothSilent s then takeRein 2 true drop else drop)
      else if d.cause = 3 then takeRein 3 (decide (0 < d.pendingDeltas) || !finalHere s d.finalSeq) drop
      else if finalHere s d.finalSeq then takeRein d.cause false drop
      else if d.cycle + 1 ≤ c then takeRein 2 true drop
      else s

/-- The trailer of the open epoch (R311, R313). -/
def trailerOf (s : State) (e : EpochBody) (final : Bool) : EpochTrailer :=
  { overflow := decide (2 ^ 21 ≤ e.used), final := final, seq := BitVec.ofNat 32 e.seq, nDelta := BitVec.ofNat 32 e.deltas.length
    bodyBytes := BitVec.ofNat 32 e.bytes, bodyCrc := BitVec.ofNat 32 (bodyCrc e), ledgerFirst := BitVec.ofNat 32 e.ledgerFirst
    ledgerCount := BitVec.ofNat 32 ((ledgerSeq s + 2 ^ 32 - e.ledgerFirst) % 2 ^ 32) }

/-- EPOCH_CLOSE (R313, R314): the open epoch ends, deltas still waiting are queued, and its trailer is sent. -/
def closeEpoch (final : Bool) (s0 : State) : State :=
  match s0.mate.open_ with
  | none => s0
  | some e =>
      let s := queueWaiting (2 ^ 32) s0.mate.waiting s0
      let t := trailerOf s e final
      let s1 := modMate (fun m => { m with open_ := none, seq := e.seq, use := min (2 ^ 22 - 1) e.used, sentEpoch := some (e, t)
                                           outq := linkTrailer ⟨rankEpoch, trailerBytes t⟩ m.outq, queueBytes := 0
                                           overflows := if t.overflow then satAdd 65535 m.overflows 1 else m.overflows }) s
      if t.overflow then mateCause0 11 s1 else s1

/-- A transmit fault found at take-over (R319): the rein is offered back at LT 16(T+1).0. -/
def offerBack (s : State) : State :=
  let m := s.mate
  let ok := match m.peer with
    | some h => decide (m.peerCycle + 1 = cycleNow s) && h.rein == 3 && h.sync == 2 && !h.takeBlock
    | none => false
  if m.rein = .holder ∧ m.takeCycle = cycleNow s ∧ m.txFault ∧ bit (mateCtl s) 1 ∧ ¬ m.onOffer ∧ ok = true then
    modMate (fun x => { x with relDue := some (cycleNow s, 2) }) s
  else s

/-- A cycle with an empty stripe has carried nothing: what was queued in it is gone (R346, entry 40). -/
def linkIdle (s : State) : State := if s.dun.stripeTx = 0 then modMate (fun m => { m with outq := [] }) s else s

/-- Step 1 of a cycle boundary at the holder (R308, R313): the epoch closes, FINAL when a release is due, which then leaves. -/
def mateStep1 (s0 : State) : State :=
  let s := offerBack (linkIdle s0)
  if s.mate.rein ≠ .holder then s
  else
    match s.mate.relDue with
    | none => closeEpoch false s
    | some (h, kind) =>
        if cycleNow s < h then closeEpoch false s
        else
          let s1 := closeEpoch true s
          let msg : ReleaseMsg := ⟨BitVec.ofNat 8 kind, BitVec.ofNat 32 s1.mate.seq, BitVec.ofNat 32 (cycleNow s1 + 1), BitVec.ofNat 32 s1.mate.term, 0⟩
          let s2 := linkSend rankHb (releaseBytes msg)
            (modMate (fun m => { m with sentRelease := some msg, relTake := cycleNow s1 + 1, relDue := none, snapOn := false }) s1)
          mateCauseAll 2 (setRein .releasing (if kind = 2 then 5 else 4) s2)

/-- The HEARTBEAT of a cycle (R299, R303, R320). -/
def heartbeatOf (s : State) : Heartbeat :=
  let m := s.mate
  { ok := true, rein := BitVec.ofNat 3 m.rein.code, sync := BitVec.ofNat 2 (if m.rein = .standby then m.sync.code else 0)
    countOk := s.lt.countOk, feedA := feedOk s false, feedB := feedOk s true, vstb := s.pwr.vstbA && s.pwr.vstbB, takeBlock := m.takeBlock
    pri := BitVec.ofNat 4 (bits (mateCtl s) 4 4), frame := BitVec.ofNat 48 s.lt.frame, rev := 0x21, term := BitVec.ofNat 32 m.term
    leaseEnd := BitVec.ofNat 32 (if m.rein = .holder then cycleNow s + 8 else 0), seq := BitVec.ofNat 32 m.seq, serial := Config.serial }

/-- SNAPSHOT_START (R316): at a cycle boundary of a holder that has received SNAP_REQ; BASE_SEQ is the epoch now open. The chunks follow as the link
has room for them. -/
def snapStart (s : State) : State :=
  if s.mate.rein = .holder ∧ s.mate.snapDue then
    let base := wrap32 s.mate.seq 1
    linkSend rankSnap (snapBeginBytes base (snapDeltas s).length)
      (modMate (fun m => { m with snapDue := false, snapOn := true, snapKeys := [], sentSnap := [], outq := m.outq.filter (fun x => x.rank != rankSnap) }) s)
  else s

/-- HEARTBEAT_SEND (R299): from FRAMED, with EN = 1. -/
def heartbeatSend (s : State) : State :=
  if 2 ≤ s.pwr.stage.code ∧ s.mate.rein ≠ .off then
    modMate (fun m => { m with sentHb := some (heartbeatOf s), lease := if m.rein = .holder then cycleNow s + 8 else m.lease
                               outq := linkHeartbeat ⟨rankHb, heartbeatBytes (heartbeatOf s)⟩ m.outq }) s
  else s

/-- The counts of a frame boundary (R298, R299, R305): frames with and without an edge, cycles without a heartbeat, the listen window. -/
def mateCounts (cycle : Bool) (s : State) : State :=
  let observed := decide (3 ≤ s.pwr.stage.code)
  let s1 := modMate (fun m => { m with
    edge := false
    edgeRun := if observed && m.edge then min 8 (m.edgeRun + 1) else 0
    quietRun := if observed && !m.edge then min 4 (m.quietRun + 1) else 0
    pulseAlive := m.pulseAlive || (observed && m.edge && decide (7 ≤ m.edgeRun)) }) s
  let s2 := if cycle then modMate (fun m => { m with hbNow := false, hbMiss := if m.hbNow then 0 else min 2 (m.hbMiss + 1)
                                                     listenLeft := m.listenLeft - 1 }) s1 else s1
  modMate (fun m => { m with listenSilent := m.listenSilent && !(m.pulseAlive || m.msgAlive) }) s2

/-- A lease that has expired with the standby unable to take (R467, source 246). -/
def leaseCheck (s : State) : State :=
  let m := s.mate
  if m.rein = .standby ∧ m.lease ≠ 0 ∧ m.lease ≤ cycleNow s ∧ bothSilent s ∧ ¬ (m.sync = .synced ∧ mayTake s) ∧ ¬ m.noHolder then
    faultRaise 246 (mateCause0 10 (modMate (fun x => { x with noHolder := true }) s))
  else s

/-- The end of a listen window (R305): the rein is taken, or a new window starts. -/
def listenDecide (s : State) : State :=
  let m := s.mate
  if mayTake s ∧ (m.listenSilent ∨ (m.listenHeard ∧ m.listenLower)) then
    serviceEntry (mateCauseAll 1 (holdRein 1 (modMate (fun x => { x with onOffer := false, takeCycle := cycleNow s + 1, txFault := false }) s)))
  else listenStart s

/-- A RELEASING part that heard no higher term by the end of TAKE_CYCLE holds the rein again (R305). -/
def releaseDecide (s : State) : State :=
  if s.mate.relTimeout ∧ s.mate.msgAlive ∧ s.lt.countOk then faultRaise 248 (mateCause0 12 (holdRein 10 s))
  else modMate (fun m => { m with relTimeout := false }) s

/-- What LISTEN and RELEASING become at a cycle boundary (R305). -/
def listenBoundary (s : State) : State :=
  match s.mate.rein with
  | .listen => if s.mate.standbyDue then toStandby 0 s else if s.mate.listenEnd ∧ s.mate.listenLeft = 0 then listenDecide s else s
  | .releasing => releaseDecide s
  | _ => s

/-- The rein's slot of a cycle boundary, between step 1 and step 2 (R305). -/
def mateSlot (s : State) : State :=
  let s1 := listenBoundary s
  let s2 := leaseCheck (takeBoundary s1)
  let s3 := if s2.mate.rein = .holder ∧ s2.mate.open_.isNone then openEpoch s2 else modMate (fun m => { m with landed := false }) s2
  snapStart (heartbeatSend s3)

/-- MATE_PULSE_OUT toggles (R64, R298): from LOADED with the mate function enabled, and in IN_SERVICE; low in OUT and while ALIVE is stopped. -/
def pulseOut (s : State) : State :=
  let on := (s.pwr.stage = .inService || (s.pwr.stage = .loaded && bit (mateCtl s) 0)) && s.mate.rein != .out && !s.flt.stopped && bit s.pwr.vioOk 6
  modMate (fun m => { m with pulseOut := on && !m.pulseOut }) s

/-- MATE_PULSE_EDGE (R298): observed from LOADED. -/
def execMatePulseEdge (s : State) : Result :=
  .next (if 3 ≤ s.pwr.stage.code ∧ bit s.pwr.vioOk 6 then modMate (fun m => { m with edge := true }) s else s)

/-- PULSE_PATH_SILENT (R298): four frames have passed without an edge. -/
def execPulsePathSilent (s : State) : Result :=
  .next (if s.mate.pulseAlive ∧ 4 ≤ s.mate.quietRun then
    faultRaise 250 (mateCause0 6 (modMate (fun m => { m with pulseAlive := false }) s)) else s)

/-- MSG_PATH_SILENT (R299): no valid heartbeat in the two cycles before. -/
def execMsgPathSilent (s : State) : Result :=
  .next (if s.mate.msgAlive ∧ 2 ≤ s.mate.hbMiss ∧ ¬ s.mate.hbNow then
    faultRaise 249 (mateCause0 5 (modMate (fun m => { m with msgAlive := false }) s)) else s)

/-- A heartbeat is valid (R299, R543). The cycle check needs an established count. -/
def hbValid (s : State) (h : Heartbeat) : Bool :=
  h.ok && h.rein != 7 && h.sync != 3 && (!s.lt.countOk || h.frame.toNat / 16 == cycleNow s)
    && (!bit (mateCtl s) 3 || h.serial.toNat == rget s (kP 0xD0008))

/-- The local frame whose boundary lies nearest to a phase of the frame in progress, and the distance (R300). -/
def nearestBoundary (s : State) (phase : Nat) : Nat × Nat :=
  if 2 * phase ≤ phasesPerFrame then (s.lt.frame, phase) else (s.lt.frame + 1, phasesPerFrame - phase)

/-- Count adoption (R300). -/
def hbAdopt (h : Heartbeat) (phase : Nat) (s : State) : State :=
  let (f, d) := nearestBoundary s phase
  if ¬ (s.lt.mode = .acquire ∧ s.lt.phaseOk ∧ countSrc s = 2 ∧ h.countOk ∧ s.lt.jump = none ∧ d ≤ refWindow s) then s
  else if h.frame.toNat < f then modMate (fun m => { m with adoptBehind := true }) s
  else { s with lt := { s.lt with jump := some (.adopt (f + 32) (h.frame.toNat + 32)) } }

/-- COUNT_MM (R301). -/
def hbCount (h : Heartbeat) (phase : Nat) (s : State) : State :=
  if ¬ s.lt.countOk then s
  else
    let mm := decide ((nearestBoundary s phase).1 ≠ h.frame.toNat)
    let s1 := modMate (fun m => { m with countMm := mm }) s
    let s2 := if mm ∧ ¬ s.mate.countMm then faultRaise 241 (mateCause0 9 s1) else s1
    if mm ∧ following s2 then syncLost s2 else s2

/-- REV_MM (R295). -/
def hbRev (h : Heartbeat) (s : State) : State :=
  let mm := decide (h.rev ≠ 0x21)
  let s1 := modMate (fun m => { m with revMm := mm }) s
  if mm ∧ ¬ s.mate.revMm then faultRaise 242 s1 else s1

/-- The mate's rank is higher; lower (R302). -/
def mateHigher (s : State) (h : Heartbeat) : Bool :=
  let p := bits (mateCtl s) 4 4
  decide (p < h.pri.toNat) || (p == h.pri.toNat && decide (h.serial.toNat < Config.serial.toNat))
def mateLower (s : State) (h : Heartbeat) : Bool :=
  let p := bits (mateCtl s) 4 4
  decide (h.pri.toNat < p) || (p == h.pri.toNat && decide (Config.serial.toNat < h.serial.toNat))

/-- What a valid heartbeat means for the rein (R303, R305, R309). -/
def hbRein (h : Heartbeat) (s : State) : State :=
  let lease := near32 (cycleNow s) h.leaseEnd.toNat
  match s.mate.rein with
  | .listen =>
      let held := h.rein == 4 || h.rein == 5
      modMate (fun m => { m with listenSilent := false, listenHeard := true
                                 listenLower := m.listenLower && h.rein == 2 && mateLower s h
                                 standbyDue := m.standbyDue || held, lease := if h.rein = 4 then lease else m.lease }) s
  | .standby => if h.rein = 4 then modMate (fun m => { m with lease := lease, noHolder := false }) s else s
  | .holder =>
      if h.rein = 4 ∧ (s.mate.term < h.term.toNat ∨ (s.mate.term = h.term.toNat ∧ mateHigher s h)) then
        faultRaise 247 (mateCause0 8 (modMate (fun m => { m with lease := lease, noHolder := false }) (toStandby 6 s)))
      else s
  | .releasing =>
      if h.rein = 4 ∧ s.mate.term < h.term.toNat then
        setRein .standby 4 (modMate (fun m => { m with sync := .synced, lease := lease, relTake := 0, noHolder := false, lastStart := none }) s)
      else s
  | _ => s

/-- HEARTBEAT_RECEIVE (R299 to R303): `phase` is the mate's boundary in the local frame, the link delay taken off. -/
def execHeartbeatReceive (h : Heartbeat) (phase : BitVec 15) (s : State) : Result :=
  .next (if ¬ mateListens s then s
  else if ¬ hbValid s h then modMate (fun m => { m with hbInvalid := satAdd 65535 m.hbInvalid 1 }) s
  else
    let s1 := modMate (fun m => { m with hbNow := true, hbMiss := 0, msgAlive := true, peer := some h, peerCycle := cycleNow s
                                         highTerm := max m.highTerm h.term.toNat }) s
    hbRein h (hbCount h phase.toNat (hbAdopt h phase.toNat (hbRev h s1))))

/-- LISTEN_WINDOW_END (R305): the window of 12 cycles ends with the cycle in progress; the cycle boundary decides (entry 34). -/
def execListenWindowEnd (s : State) : Result :=
  .next (if s.mate.rein = .listen ∧ s.mate.listenLeft ≤ 1 then modMate (fun m => { m with listenEnd := true }) s else s)

/-- A standby may take by expiry at cycle `c` (R303, R305). -/
def expiryAt (s : State) (c : Nat) : Bool :=
  s.mate.rein = .standby && s.mate.sync = .synced && decide (s.mate.lease + 2 ≤ c) && bothSilent s && mayTake s

/-- RELEASE_RECEIVE (R305, R308). -/
def execReleaseReceive (r : ReleaseMsg) (ok : Bool) (s : State) : Result :=
  .next (if ¬ mateListens s ∨ ¬ ok ∨ 2 < r.kind.toNat then s
  else
    let s1 := modMate (fun m => { m with highTerm := max m.highTerm r.term.toNat }) s
    if s1.mate.rein ≠ .standby then s1
    else
      let due : TakeDue := match r.kind.toNat with
        | 0 => ⟨cycleNow s + 1, 3, r.finalSeq.toNat, r.pendingDeltas.toNat, 5, 5⟩
        | k => ⟨near32 (cycleNow s) r.takeCycle.toNat, 3 + k, r.finalSeq.toNat, 0, 5, 5⟩
      let s2 := mateCauseAll 2 s1
      if s2.mate.sync = .synced then modMate (fun m => { m with takeDue := some due }) s2 else s2)

/-- LEASE_EXPIRY_TAKE (R303, R305): lease and guard end at the next cycle boundary with both paths silent: the take is due there (entry 34). -/
def execLeaseExpiryTake (s : State) : Result :=
  let c := cycleNow s + 1
  .next (if expiryAt s c ∧ s.mate.takeDue.isNone then modMate (fun m => { m with takeDue := some ⟨c, 2, 0, 0, 5, 5⟩ }) s else s)

/-- RELEASE_TIMEOUT (R305): cycle TAKE_CYCLE ends with the cycle in progress, or has ended, with no take; the cycle boundary decides (entry 34). -/
def execReleaseTimeout (s : State) : Result :=
  .next (if s.mate.rein = .releasing ∧ s.mate.relTake ≤ cycleNow s then modMate (fun m => { m with relTimeout := true }) s else s)

/-- The outcome of a MATE_CMD write. -/
def mateEnd (seat code : Nat) (s : State) : State := countOutcome seat code (modMate (fun m => { m with cmdOutcome := code }) s)

/-- An accepted command is recorded with what it does, or refused (R23, R125). -/
def mateAccept (a : Agent) (v : Nat) (f : State → Option State) (s : State) : Nat × State :=
  match (ledgerMgmt a 1 0xD0010 0 v false [] s).bind f with
  | none => (oLedger, mateEnd a.seat oLedger s)
  | some t => (oDone, mateEnd a.seat oDone t)

/-- An orderly release may be made (R308). -/
def releaseOk (s : State) : Bool :=
  s.mate.rein = .holder && (match s.mate.peer with
    | some h => h.rein == 3 && h.sync == 2 && !h.takeBlock && decide ((s.mate.seq + 2 ^ 32 - h.seq.toNat) % 2 ^ 32 ≤ 1)
    | none => false)

/-- A write of MATE_CMD by S0 (R305, R308). -/
def mateCommand (a : Agent) (v : Nat) (s : State) : Nat × State :=
  match bits v 0 2 with
  | 1 =>
      if ¬ releaseOk s then (oSeat, mateEnd a.seat oSeat s)
      else if s.mate.relDue.isSome then (oDone, mateEnd a.seat oDone s)
      else mateAccept a 1 (fun t => some (modMate (fun m => { m with relDue := some (cycleUp (t.lt.frame + (if t.lt.phase = 0 then 2 else 3)) / 16, 1) }) t)) s
  | 2 =>
      if s.mate.rein = .standby ∧ bothSilent s ∧ s.lt.countOk then
        mateAccept a 2 (fun t => some (modMate (fun m => { m with takeDue := some ⟨cycleNow t + 1, 7, 0, 0, a.path, a.unit⟩ }) t)) s
      else (oSeat, mateEnd a.seat oSeat s)
  | 3 => if s.mate.rein = .out then mateAccept a 3 (fun t => (reinRecordBy a .standby 8 t).map standbyState) s else (oSeat, mateEnd a.seat oSeat s)
  | _ => (oDone, s)

/-- EN may change to this value (R310). -/
def mateCtlOk (s : State) (old v : Nat) : Bool :=
  bit old 0 == bit v 0 || decide (s.pwr.stage.code ≤ 2) || (if bit v 0 then s.mate.rein = .off else s.mate.rein = .holder && bothSilent s)

/-- The rein state that a change of EN leads to (R295, R305, R310). -/
def enRein (s : State) (new : Nat) : Rein := if ¬ bit new 0 then .off else if s.pwr.stage.code ≤ 2 then .pre else .holder

/-- The REIN record of a write of MATE_CTL that changes EN (R321); none is REFUSED_LEDGER. -/
def mateCtlRecord (a : Agent) (old new : Nat) (s : State) : Option State :=
  if bit old 0 = bit new 0 then some s
  else
    let r := enRein s new
    (reinRecordBy a r 9 (if r = .holder then newTerm s else s))

/-- After a write of MATE_CTL, the transition recorded (R295, R305, R310). -/
def mateCtlHook (old new : Nat) (s : State) : State :=
  if bit old 0 = bit new 0 then s
  else match enRein s new with
    | .off => domUpdate (reinChange .off (linkDropEpoch (modMate (fun m => { m with
        relDue := none, listenEnd := false, standbyDue := false, snapOn := false, msgAlive := false, peer := none }) s)))
    | .holder => domUpdate (holdState s)
    | r => domUpdate (reinChange r s)

/-- DELTA_QUEUE_ROOM (R312): the send queue has drained; waiting deltas follow in order. -/
def execDeltaQueueRoom (s : State) : Result :=
  .next (queueWaiting 8192 s.mate.waiting (modMate (fun m => { m with queueBytes := 0 }) s))

/-- EPOCH_OPEN_RECEIVE (R315): one that arrives before the trailer it should follow breaks the sequence. -/
def execEpochOpenReceive (e : EpochOpen) (ok : Bool) (s : State) : Result :=
  .next (if s.mate.rein ≠ .standby ∨ ¬ ok then s
  else
    let s1 := if s.mate.rx.isSome ∧ following s then syncLost s else s
    modMate (fun m => { m with rx := some ⟨e.seq.toNat, e.startFrame.toNat, e.term.toNat, [], 24, 0, 0, []⟩ }) s1)

/-- The item of a snapshot that a delta changes: of page data, the page (R316). -/
def itemKey (d : MateDelta) : Nat × Nat := (d.space.toNat, if d.space = 6 then d.addr.toNat / 4096 * 4096 else d.addr.toNat)

/-- A chunk of a snapshot is applied on receipt (R316): the last piece of an item with the pieces before it. -/
def snapChunk (d : MateDelta) (s : State) : State :=
  if s.mate.sync ≠ .snapshot then s
  else
    let s1 := modMate (fun m => { m with snapChunks := d :: m.snapChunks }) s
    if d.more then s1
    else
      let held := (s.mate.snapChunks.takeWhile (·.more)).reverse.flatMap (·.data)
      modMate (fun m => { m with snapItems := itemKey d :: m.snapItems }) (ownerChanges s1 (applyDeltas held [d] s1))

/-- An epoch's delta is buffered; during a snapshot one of an item whose chunk has not come is marked (R315, R316). -/
def epochDelta (d : MateDelta) (s : State) : State :=
  match s.mate.rx with
  | none => s
  | some e =>
      let out := s.mate.sync ≠ .synced && !s.mate.snapEnded && !s.mate.snapItems.contains (itemKey d)
      let e1 := { e with deltas := d :: e.deltas, bytes := e.bytes + deltaLen d, skip := if out then e.deltas.length :: e.skip else e.skip }
      modMate (fun m => { m with rx := some e1 }) s

/-- DELTA_RECEIVE (R315, R316, R543). -/
def execDeltaReceive (d : MateDelta) (ok : Bool) (s : State) : Result :=
  .next (if s.mate.rein ≠ .standby ∨ ¬ ok ∨ d.space.toNat = 0 ∨ 8 < d.space.toNat then s
  else if d.snap then domUpdate (snapChunk d s) else epochDelta d s)

/-- The checks of R315. -/
def trailerOk (s : State) (e : EpochBody) (t : EpochTrailer) : Bool :=
  e.seq == wrap32 s.mate.seq 1 && t.seq.toNat == e.seq && t.nDelta.toNat == e.deltas.length && t.bodyBytes.toNat == e.bytes
    && t.bodyCrc.toNat == bodyCrc e && !t.overflow && decide (e.bytes ≤ 2 ^ 21 + 24)

/-- EPOCH_TRAILER_RECEIVE (R315, R316): the epoch is verified or synchronisation is lost; SYNCED at the first one verified after SNAP_END. -/
def execEpochTrailerReceive (t : EpochTrailer) (ok : Bool) (s : State) : Result :=
  .next (if ¬ following s then s
  else match s.mate.rx with
    | none => syncLost s
    | some e =>
        if ¬ ok ∨ ¬ trailerOk s e t then syncLost s
        else
          let s1 := applyVerified s
          let s2 := modMate (fun m => { m with rx := none, verified := some (e, t), seq := e.seq }) s1
          if s2.mate.sync = .snapshot ∧ s2.mate.snapEnded ∧ ¬ s2.mate.revMm then
            mateCause0 3 (modMate (fun m => { m with sync := .synced, snapEnded := false, snapItems := [], snapChunks := [] }) s2)
          else s2)

/-- SNAP_REQ_RECEIVE (R316). -/
def execSnapReqReceive (lastSeq : BitVec 32) (ok : Bool) (s : State) : Result :=
  .next (if s.mate.rein = .holder ∧ ok = true ∧ lastSeq.toNat < 2 ^ 32 then modMate (fun m => { m with snapDue := true }) s else s)

/-- SNAP_BEGIN_RECEIVE (R316): the snapshot's epoch is the next to follow. -/
def execSnapBeginReceive (base chunks : BitVec 32) (ok : Bool) (s : State) : Result :=
  .next (if s.mate.rein ≠ .standby ∨ ¬ ok ∨ 2 ^ 32 ≤ chunks.toNat then s
  else
    let rx := match s.mate.rx with
      | some e => if e.seq = base.toNat then some { e with skip := List.range e.deltas.length } else none
      | none => none
    domUpdate (modMate (fun m => { m with sync := .snapshot, snapCycle := s.lt.bounds, snapChunks := [], snapItems := [], snapEnded := false
                                          verified := none, rx := rx, seq := (base.toNat + 2 ^ 32 - 1) % 2 ^ 32 }) (clearMirror s)))

/-- SNAP_END_RECEIVE (R316): a bad count or CRC asks for the snapshot again. -/
def execSnapEndReceive (chunks crc : BitVec 32) (ok : Bool) (s : State) : Result :=
  .next (if s.mate.rein ≠ .standby ∨ s.mate.sync ≠ .snapshot then s
  else if ok ∧ chunks.toNat = s.mate.snapChunks.length ∧ crc.toNat = snapCrc s.mate.snapChunks then
    modMate (fun m => { m with snapEnded := true }) s
  else sendSnapReq s)

/-- SNAPSHOT_TIMEOUT (R316): no SNAP_END 50 cycles after SNAP_BEGIN. -/
def execSnapshotTimeout (s : State) : Result :=
  .next (if s.mate.rein = .standby ∧ s.mate.sync = .snapshot ∧ ¬ s.mate.snapEnded ∧ s.mate.snapCycle + 800 ≤ s.lt.bounds then
    sendSnapReq (modMate (fun m => { m with snapCycle := s.lt.bounds }) s) else s)

/-- The items of a snapshot that fill the units left of a frame, in order: their keys, their chunks, and whether none is left over. -/
def snapTake : Nat → List MateItem → List (Nat × Nat) × List MateDelta × Bool
  | _, [] => ([], [], true)
  | room, i :: is =>
      if room = 0 then ([], [], false)
      else
        let cs := itemChunks i
        let (ks, ds, done) := snapTake (room - ((cs.map (fun d => (deltaLen d + 7) / 8)).foldl (· + ·) 0)) is
        ((i.space, i.addr) :: ks, cs ++ ds, done)

/-- Chunks of the snapshot being sent are queued for a frame that has room for them, with the values of this moment; after the last item, SNAP_END
(R316). -/
def snapFeed (room : Nat) (s : State) : State :=
  if ¬ s.mate.snapOn then s
  else
    let (ks, ds, done) := snapTake room ((mirrorItems s).filter (fun i => !s.mate.snapKeys.contains (i.space, i.addr)))
    let s1 := ds.foldl (fun t d => linkSend rankSnap (deltaBytes d) t)
      (modMate (fun m => { m with snapKeys := m.snapKeys ++ ks, sentSnap := ds.reverse ++ m.sentSnap, snapOn := !done }) s)
    if done then linkSend rankSnap (snapEndBytes s1.mate.sentSnap.length (snapCrc s1.mate.sentSnap)) s1 else s1

/-- The mate stream of one frame is put together (R346 to R348): the stream unit, the message in progress, queued messages, chunks of a snapshot. -/
def composeStream (s0 : State) : State :=
  let lanes := stripeLanes s0.dun.stripeTx
  let room := areaUnits * lanes.length - 1
  let carried := s0.dun.txRest.take room
  let queued := (s0.mate.outq.map (fun m => (m.bytes.length + 7) / 8)).foldl (· + ·) 0
  let s := snapFeed (room - carried.length - queued) s0
  let (us, rest, left) := if s.dun.txRest.length ≤ room then fillUnits (room - carried.length) s.mate.outq
    else ([], s.dun.txRest.drop room, s.mate.outq)
  let first := if us = [] then noFirst else carried.length + 1
  { s with mate := { s.mate with outq := left }
           dun := { s.dun with txUnits := streamUnit first s.dun.stripeTx :: carried ++ us, txRest := rest, txAt := s.lt.bounds + 1 } }

/-- DUNTE_FRAME_TRANSMIT (R332): header, slot words, and on a mate lane in RUN its part of the message stream (R336, R346). -/
def execDunteFrameTransmit (l : LaneSel) (s : State) : Result :=
  let k := laneIdx l
  .next (if k < 32 ∨ laneTx s k ≠ .run ∨ ¬ bit s.dun.stripeTx (k - 32) then laneSend k [] s
    else
      let s1 := if s.dun.txAt = s.lt.bounds + 1 then s else composeStream s
      let lanes := stripeLanes s1.dun.stripeTx
      laneSend k (laneUnits (lanes.idxOf (k - 32)) lanes.length s1.dun.txUnits).flatten s1)

/-- MATE_STATUS. -/
def mateStatus (s : State) : Nat :=
  let m := s.mate
  let p := m.peer
  m.rein.code + 16 * (if m.rein = .standby then m.sync.code else 0) + 64 * b2n m.msgAlive + 128 * b2n m.pulseAlive + 256 * b2n m.countMm
    + 512 * b2n m.revMm + 1024 * b2n m.takeBlock + 2048 * b2n m.adoptBehind + 4096 * b2n ((p.map (·.feedA)).getD false)
    + 8192 * b2n ((p.map (·.feedB)).getD false) + 65536 * ((p.map (·.rein.toNat)).getD 0) + 2 ^ 19 * ((p.map (·.sync.toNat)).getD 0)

/-- MATE_LOST. -/
def mateLost (s : State) : Nat :=
  let m := s.mate
  m.lostSeq + 2 ^ 32 * (m.lostFrom % 2 ^ 48) + 2 ^ 80 * (m.lostTake % 2 ^ 48) + 2 ^ 128 * m.groupsDropped + 2 ^ 144 * m.partialDeltas

end Sys2Proof.Machine
end

