-- ==== Sys2Proof/Machine/Power.lean ====
section
/-!
DEFINITION. Supplies, resets and entry to SAFE (chapter "Power, Live Insertion and Staged Start", R60 to R86): what each reset source clears and
keeps, the retention cell, the warm reset.
-/
namespace Sys2Proof.Machine

open Sys2Proof

/-- Everything outside the retention cell is cleared (the table "Reset sources"); pins, supplies and samples are as they are. -/
def clearAll (s : State) : State :=
  { State.reset with
    pwr := { PwrState.reset with
      pwrGood := s.pwr.pwrGood, resetN := s.pwr.resetN, vcoreFeeds := s.pwr.vcoreFeeds, vstbA := s.pwr.vstbA, vstbB := s.pwr.vstbB
      vioOk := s.pwr.vioOk, bootHoldPin := s.pwr.bootHoldPin, txMutePin := s.pwr.txMutePin, bootHold := s.pwr.bootHold
      txMute := s.pwr.txMute, atRisk := !s.pwr.vstbA && !s.pwr.vstbB, ret := s.pwr.ret }
    host := { HostState.reset with perst := s.host.perst, lbMode := s.host.lbMode, i2cReady := s.host.i2cReady, i2cAddr := s.host.i2cAddr }
    lt := { LtState.reset with refclkOk := s.lt.refclkOk }
    mate := { MateState.reset with sentRelease := s.mate.sentRelease }
    freeCtr := s.freeCtr
    pending := s.pending }

/-- Write the retained reset cause (R78). -/
def setRetCause (k : Nat) (s : State) : State := { s with pwr := { s.pwr with ret := { s.pwr.ret with cause := k } } }

/-- Steps 1 to 4 of R67: the release by a rein holder, transmitters idle and ALIVE stopped, DARK. DESIGN CHOICE (entry 38): no STAGE record is
written for the entry to DARK, which clears the ring (R74). -/
def goDark (cause : Nat) (s : State) : State := clearAll (setRetCause cause (immediateRelease false s))

/-- PWR_GOOD_RISE (R65): the straps are sampled; main rails feed the standby node. The dormant count of a Dormant that preceded is
whatever the time in it made it. -/
def execPwrGoodRise (bootHold txMute lbMode : Bool) (i2cAddr : BitVec 2) (s : State) : Result :=
  .next (if s.pwr.pwrGood then s
    else
      let (lo, s1) := takeFree s
      let (hi, s2) := takeFree s1
      let ticks := if s.pwr.vcoreFeeds then s.pwr.ret.dormant else lo.toNat + 2 ^ 32 * (hi.toNat % 2 ^ 16)
      let s3 := clearAll s2
      { s3 with
        pwr := { s3.pwr with pwrGood := true, vcoreFeeds := true, bootHoldPin := bootHold, txMutePin := txMute, bootHold := bootHold
                             txMute := txMute, ret := { s3.pwr.ret with dormant := ticks } }
        host := { s3.host with lbMode := lbMode, i2cAddr := i2cAddr.toNat, i2cReady := false } })

/-- PWR_GOOD_FALL (R67). -/
def execPwrGoodFall (s : State) : Result :=
  .next (if s.pwr.pwrGood then
      let t := goDark 1 s
      { t with pwr := { t.pwr with pwrGood := false }, host := { t.host with i2cReady := false } }
    else s)

/-- RAIL_DETECT (R61): exactly as a fall of PWR_GOOD, with its own cause. -/
def execRailDetect (s : State) : Result :=
  .next (if s.pwr.pwrGood then
      let t := goDark 4 s
      { t with pwr := { t.pwr with pwrGood := false }, host := { t.host with i2cReady := false } }
    else s)

/-- The standby node has no supply: retention is lost (R77). -/
def retentionCheck (s : State) : State :=
  if s.pwr.vcoreFeeds ∨ s.pwr.vstbA ∨ s.pwr.vstbB then s else { s with pwr := { s.pwr with ret := .blank } }

/-- POWER_LOSS (R68): the rails fall; no release is made, and the retention cell holds what it holds while the standby node has a supply. -/
def execPowerLoss (s : State) : Result :=
  let t := clearAll s
  .next (retentionCheck { t with pwr := { t.pwr with pwrGood := false, vcoreFeeds := false }, host := { t.host with i2cReady := false } })

/-- VSTB_CHANGE (R77). -/
def execVstbChange (a b : Bool) (s : State) : Result :=
  let risk := !a && !b && s.pwr.vcoreFeeds
  let s1 := { s with pwr := { s.pwr with vstbA := a, vstbB := b, atRisk := risk } }
  let lost := (if s.pwr.vstbA ∧ a = false then [1] else []) ++ (if s.pwr.vstbB ∧ b = false then [2] else [])
    ++ (if risk ∧ ¬ s.pwr.atRisk then [3] else [])
  .next (retentionCheck (faultRaiseAll lost s1))

/-- RESET_N_ASSERT (R84): low for at least 1 µs; straps are not sampled again. -/
def execResetNAssert (s : State) : Result :=
  let t := goDark 2 s
  .next { t with pwr := { t.pwr with resetN := false } }

/-- Every domain of PD000 to PD085 is awake from entry to SAFE (R80, PWR_DOM_STATE). -/
def safeDomains (s : State) : State := (List.range 86).foldl (fun t d => setDom d .on t) s

/-- Double-buffered status of every block flips (R499). -/
def flipAll (s : State) : State :=
  let s1 := foldUpto 16 portFlip s
  let s2 := foldUpto 36 laneFlip (foldUpto 8 gfpFlip s1)
  thermalFlip (radioFlip (camFlip (fabFlip (dunteFlip s2))))

/-- The retained values of R79: with a wrong check the key and the ledger's numbering are cleared. -/
def retained (s : State) : Retention := if s.pwr.ret.valid then s.pwr.ret else { Retention.blank with valid := false }

/-- The START record (R139). -/
def startRec (r : Retention) : LedgerRec :=
  { kind := 0x20, seat := 0, path := 5, unit := 7, object := 0xFF000000, old := b2n r.valid + 16 * r.cause, new := r.chain, kflag := !r.valid
    conts := [r.lastFrame + 2 ^ 48 * r.dormant], frame := 0, phase := 0 }

/-- Entry to SAFE (R79, R139, R305): LT 0.0 in ACQUIRE, the START record before any other, the STAGE record, PRE; cycle 0 occurs, so a rotation step
of the high-order fabric is due (R260). DESIGN CHOICE (entry 38): OLD of the STAGE record is DARK after every reset source, the warm reset too. -/
def enterSafe (s : State) : State :=
  let r := retained s
  let s1 := { s with
    pwr := { s.pwr with resetN := true, warmPending := false, retValid := r.valid, resetCause := r.cause, retTicks := r.dormant
                        retFrame := r.lastFrame, stage := .safe, ret := { r with dormant := 0, cause := 1, valid := true } }
    led := { s.led with startWaiting := some (startRec r) } }
  let s2 := ledgerDrain (safeDomains s1)
  let s3 := setCauses seats 0x2001C 1 (ledgerHw 1 0xF 0xFF000000 0 1 false [] s2)
  let s4 := setpointsOff (reportLoss (setRein .pre 11 s3))
  let s5 := faultRaiseAll ((if r.valid then [] else [4]) ++ (if s4.pwr.atRisk then [3] else [])) s4
  dmaRefill (flipAll (domUpdate (rotStart true 0 (rotStart false 0 s5))))

/-- SAFE_ENTRY: PWR_GOOD and RESET_N high and REFCLK155 present (R69), or a warm reset under way (R84). -/
def execSafeEntry (s : State) : Result :=
  .next (if s.pwr.stage = .dark ∧ (s.pwr.warmPending ∨ (s.pwr.pwrGood ∧ s.lt.refclkOk)) then enterSafe s else s)

/-- What a Keeper warm reset clears and keeps (R84 and its table). DESIGN CHOICE (entry 38): from the firing to SAFE_ENTRY the stage shown is DARK. -/
def warmClear (s : State) : State :=
  let t := clearAll s
  let keepFn (f : PcieFn) : PcieFn := { f with pba := 0, flr := false }
  { t with
    pwr := { t.pwr with warmPending := true }
    host := { t.host with linkUp := s.host.linkUp, linkLanes := s.host.linkLanes, linkRate := s.host.linkRate
                          fns := s.host.fns.foldl (fun fs e => tset .reset fs e.1 (keepFn e.2)) [] }
    led := { s.led with keyWords := [], startWaiting := none }
    flt := { FaultState.reset with latch := s.flt.latch }
    regs := s.regs.filter (fun e => decide (0x7C0010 ≤ e.1 ∧ e.1 < 0x7C0030)) }

/-- Seals in progress or due complete and what waits behind them is appended: a warm reset loses nothing (R136, R139). -/
def ledgerSettle (s : State) : State := sealDone (ledgerDrain (sealDone s))

/-- A warm reset fires (R85): its record as a management change, then steps 1 to 3 of R67, then the restart. -/
def warmFire (a : Agent) (s : State) : Nat × State :=
  match ledgerMgmt a 0xF 0xFF000001 (stageImage s) 1 false [] s with
  | none => (oLedger, stageEnd a.seat oLedger s)
  | some t => (oDone, warmClear (ledgerSettle (setRetCause 3 (immediateRelease false t))))

/-- A write of PWR_RESET_CTL by S0 (R85). -/
def resetControl (a : Agent) (v : Nat) (s : State) : Nat × State :=
  let disarmed := { s with pwr := { s.pwr with warmArmed := false } }
  if bits v 0 16 = 0xA55A ∧ ¬ bit v 16 then (oDone, { s with pwr := { s.pwr with warmArmed := true } })
  else if bits v 0 16 = 0x5AA5 ∧ bit v 16 ∧ s.pwr.warmArmed then warmFire a disarmed
  else (oDone, disarmed)

/-- WARM_RESET_DISARM (R85). -/
def execWarmResetDisarm (s : State) : Result := .next { s with pwr := { s.pwr with warmArmed := false } }

/-- TAP_RESET (R84): the TAP controller is reset; nothing else changes. -/
def execTapReset (s : State) : Result := .next s

/-- The pins of a bank that loses its power drive nothing (R62, R63): triggers of VIO_C, strobes of VIO_D, MATE_PULSE_OUT of VIO_G. -/
def bankLost (bank : Nat) (s : State) : State :=
  match bank with
  | 2 => (List.range 4).foldl (fun t k => modTrig k (fun x => { x with active := false }) t) s
  | 3 => modScan (fun x => { x with strobes := x.strobes.map (fun b => { b with active := false }) }) s
  | 6 => modMate (fun m => { m with pulseOut := false }) s
  | _ => s

/-- VIO_BANK_POWER_CHANGE (R62). -/
def execVioBankPowerChange (bank : BitVec 3) (present : Bool) (s0 : State) : Result :=
  let s := if present then s0 else bankLost bank.toNat s0
  .next { s with pwr := { s.pwr with vioOk := if present then setBit s.pwr.vioOk bank.toNat else clrBit s.pwr.vioOk bank.toNat } }

/-- PWR_STAGE. -/
def pwrStageWord (s : State) : Nat :=
  s.pwr.stage.code + 8 * roleShown s + 32 * b2n s.pwr.bootHold + 64 * b2n s.pwr.txMute + 128 * b2n s.pwr.retValid + 256 * b2n s.pwr.vstbA
    + 512 * b2n s.pwr.vstbB + 1024 * b2n s.pwr.atRisk + 2048 * b2n s.pwr.advPending + 4096 * s.pwr.resetCause + 65536 * s.pwr.vioOk

/-- Codes of PWR_DOM_STATE. -/
def DomState.code : DomState → Nat
  | .gated => 0 | .waking => 1 | .on => 2 | .gatePending => 3

/-- PWR_DOM_STATE word n. -/
def domWord (s : State) (n : Nat) : Nat := ((List.range 16).map (fun k => (domState s (16 * n + k)).code * 4 ^ k)).foldl (· + ·) 0

/-- PWR_RET, 16 bytes. -/
def pwrRet (s : State) : Nat := s.pwr.retTicks + 2 ^ 48 * s.pwr.retFrame

end Sys2Proof.Machine
end

