-- ==== Sys2Proof/Machine/RegView.lean ====
section
/-!
DEFINITION. What a read of a register returns: where an offset leads for a Seat and path (R87, R103, R505, R506), stored values with the Seat's shadow
laid over staged fields (R46, R500), read-only fields (each chapter's "Registers").
-/
namespace Sys2Proof.Machine

open Sys2Proof

/-- A register that an access reaches: its description, physical index, Seat-local index, second index, word, key. -/
structure RegAt where
  desc : RegDesc
  i : Nat
  li : Nat
  j : Nat
  word : Nat
  key : Nat

/-- Where an offset leads. -/
inductive RegHit where
  | reserved
  | notFitted
  | reg (r : RegAt)

/-- Key of register (i, j) of an array for a Seat and a path key. -/
def regKey (d : RegDesc) (seat pk i j : Nat) : Nat :=
  match d.scope with
  | .part => kP (d.offset i j)
  | .seat => kS seat (d.offset i j)
  | .path => kPath pk (d.offset i j)

/-- The object that a register of the radio or of the scan engine belongs to, and whether a write needs the Seat to OWN it (R377, R404). A Seat
that OBSERVES the radio receives its records, so that it writes RX_EN and its own causes (R436). -/
def engineOf : RegName → Option (Nat × Bool)
  | .radioCfg | .radioChan | .radioPan | .radioExt | .radioSlot | .radioSec | .radioTrk | .radioFlood | .radioFcOut | .radioStat | .radioBandUse
  | .radioSeatUse | .radioKey | .radioKcv | .radioTxd | .radioCmd | .radioStatus | .radioLegal | .radioRetry | .radioCnt | .radioTxdone
  | .radioTxdoneIdx | .radioNbr => some (204, true)
  | .radioSeatCtl | .radioInt | .radioIntEn => some (204, false)
  | .scanCfg => some (205, true)
  | _ => none

/-- Physical index of an object register's Seat-local index; the index itself where the register is of no object. A Seat's own map page is its first. -/
def regPhys (s : State) (d : RegDesc) (seat i : Nat) (write : Bool) : Option Nat :=
  match d.cls with
  | some 1000 => pairPhys s seat i
  | some c => if write then ownedPhys s seat c i else fittedPhys s seat c i
  | none =>
      match d.name with
      | .mapObject | .mapQuota | .mapData | .mapCode => some (if seat ≠ 0 ∧ i = 0 then seat else i)
      | .mlTxEq | .mlStatus | .mlCnt | .mlLink => if seat = 0 then some i else none
      | _ => match engineOf d.name with
        | some (c, own) => if (if write && own then owns s seat c 0 else fitted s seat c 0) then some i else none
        | none => some i

/-- The register that an offset leads to for a Seat and path. -/
def regAt (s : State) (seat pk off : Nat) (write : Bool) : RegHit :=
  match regLocate off with
  | none => .reserved
  | some l =>
      match regPhys s l.desc seat l.i write with
      | none => .notFitted
      | some i => .reg ⟨l.desc, i, l.i, l.j, l.word, regKey l.desc seat pk i l.j⟩

/-- Bitmap of a class of a Seat, from bit `lo` on: OWNED, or OWNED and OBSERVED (R103). -/
def classMap (s : State) (seat c lo : Nat) (owned : Bool) : Nat :=
  (List.range (classSize c)).foldl (fun v k =>
    let m := (objEntry s seat c k).1
    if m = 1 ∨ (m = 2 ∧ owned = false) then v + 2 ^ (lo + k) else v) 0

/-- Word j of SEAT_FITTED or SEAT_OWNED. -/
def fittedWord (s : State) (seat j : Nat) (owned : Bool) : Nat :=
  match j with
  | 0 => classMap s seat 0 0 owned
  | 1 => classMap s seat 16 0 owned
  | 2 => classMap s seat 48 0 owned % 2 ^ 32
  | 3 => classMap s seat 48 0 owned / 2 ^ 32
  | 4 => classMap s seat 112 0 owned
  | 5 => classMap s seat 144 0 owned + classMap s seat 152 8 owned + classMap s seat 160 16 owned + classMap s seat 198 22 owned
      + classMap s seat 200 24 owned + classMap s seat 204 28 owned + classMap s seat 205 29 owned
  | _ => classMap s seat 166 0 owned + classMap s seat 174 8 owned

/-- A strand's path as SEAT_ID shows it: its code in ledger entries (R129). -/
def pathOfPk (pk : Nat) : Nat := if pk < 64 then pk % 4 else 3

/-- LT_STATUS. -/
def ltStatus (s : State) : Nat :=
  s.lt.mode.code + 16 * s.lt.ref + 64 * b2n s.lt.phaseOk + 128 * b2n s.lt.countOk + 256 * b2n s.lt.anchorSet + 512 * b2n s.lt.mfMismatch
    + 1024 * b2n s.lt.ppsMismatch + 2048 * b2n s.lt.refclkOk + 4096 * b2n s.lt.fsync.qualified + 8192 * b2n s.lt.mfsync.qualified
    + 16384 * b2n s.lt.pps.qualified + 65536 * (s.lt.freqOffset % 65536)

/-- A frame and phase in the layout of LT_NOW. -/
def ltPair (frame phase : Nat) : Nat := frame % 2 ^ 48 + 2 ^ 48 * phase

/-- LT_TOD_NOW (R54). -/
def todNow (s : State) : Nat :=
  let (sec, ns) := posToTod s (nowPos s)
  ns + 2 ^ 32 * (sec % 2 ^ 48)

/-- A completion record of 16 bytes. -/
def doneImage (r : DoneRec) : Nat := r.outcome + 256 * r.ident + 65536 * r.flags + 2 ^ 32 * (r.frame % 2 ^ 48) + 2 ^ 96 * r.seq

/-- Groups of a Seat accepted and not landed. -/
def groupsPending (s : State) (seat : Nat) : Nat := (s.lt.groups.filter (fun g => g.seat == seat)).length

/-- The earliest frame of a pending swap of a fabric; all ones when none (FAB_NEXT_SWAP). -/
def nextSwap (s : State) (lo : Bool) : Nat :=
  match ((s.lt.groups.filter (fun g => if lo then g.swapLo else g.swapHo)).map (·.frame)).min? with
  | some f => ltPair f 0
  | none => ones 64

/-- Word j of PX_ARMED: table entries held by the Seat and ARMED. -/
def armedWord (s : State) (seat j : Nat) : Nat :=
  (List.range 32).foldl (fun v k =>
    match expectAt s (32 * j + k) with
    | some x => if x.seat = seat ∧ estateOf s (32 * j + k) x = .armed then v + 2 ^ k else v
    | none => v) 0

/-- KINDs of which every Seat sees the entries whole (R149). -/
def openKinds : List Nat := [0x20, 0x21, 0x22, 0x23, 0xF, 0x10, 0x11, 0xE, 0x15]

/-- An entry as a Seat sees it (R149): whole, or masked with KIND HIDDEN. -/
def viewEntry (seat : Nat) (e : LedgerEntry) : Nat :=
  if seat = 0 ∨ e.seat = seat ∨ openKinds.contains e.kind then ofLe e.bytes
  else ofLe (leBytes 4 e.seq ++ leBytes 6 e.frame ++ leBytes 2 e.phase) + 2 ^ 112 * 0x3E + 2 ^ 224 * e.crc

/-- Word j of LEDGER_VIEW (R149). -/
def ledgerViewWord (s : State) (seat pk j : Nat) : Nat :=
  let q := (rget s (kPath pk 0x7C0080) + j / 8) % 2 ^ 32
  let back := (s.pwr.ret.seq + 2 ^ 32 - q) % 2 ^ 32
  if back = 0 ∨ 8192 < back then 0
  else
    match s.led.ring[back - 1]? with
    | some e => bits (viewEntry seat e) (32 * (j % 8)) 32
    | none => 0

/-- LEDGER_STATUS. -/
def ledgerStatus (s : State) : Nat :=
  let f := ledgerFree s
  f + 16384 * b2n (decide (f < 1025)) + 32768 * b2n (decide (s.led.lost ≠ 0)) + 65536 * b2n (keyed s) + 2 ^ 17 * b2n s.led.spillFault
    + 2 ^ 18 * b2n s.led.sealBusy

/-- BOOK_SEAT, 32 bytes. -/
def bookSeat (s : State) (seat : Nat) : Nat :=
  let strands := ((List.range 64).filter (fun k => (objEntry s seat 48 k).1 == 1)).length
  connUsed s seat + 2 ^ 16 * quota s seat 0x200 + 2 ^ 32 * expectUsed s seat + 2 ^ 48 * expectQuota s seat + 2 ^ 64 * (jobsHeld s seat % 256)
    + 2 ^ 72 * (quota s seat 0x208 % 256) + 2 ^ 80 * (heldTokens s seat % 256) + 2 ^ 88 * (quota s seat 0x214 % 256)
    + 2 ^ 96 * (tget 0 s.dma.granted seat % 65536) + 2 ^ 112 * (quota s seat 0x20C % 65536)
    + 2 ^ 128 * (airUse s (3 + seat) (minuteOf (nowPos s)) % 2 ^ 32) + 2 ^ 160 * (quota s seat 0x210 % 65536) + 2 ^ 176 * strands
    + 2 ^ 192 * calHeld s seat + 2 ^ 208 * calLimit s seat

/-- BOOK_OUTCOMES, 24 bytes. -/
def bookOutcomes (s : State) (seat : Nat) : Nat := ((List.range 9).map (fun k => tget 0 s.book.outcomes (16 * seat + k) * 65536 ^ k)).sum

/-- Word j of the MSI-X table of a Seat's function (PCI rules). -/
def msixWord (s : State) (seat j : Nat) : Nat := bits (msixEntry (tget .reset s.host.fns seat) (j / 4)) (32 * (j % 4)) 32

/-- The five words HOST_WR_STATUS to HOST_ERR. -/
def hostPathWord (p : PathState) (j : Nat) : Nat :=
  match j with
  | 0 => p.wrOutcome + 256 * p.wrCount
  | 1 => p.wrAddr
  | 2 => p.nfCount
  | 3 => p.nfAddr
  | _ => p.discard + 65536 * p.pairMiss

/-- A Seat's quota or map word as it reads: S0's object map is the identity and its quotas are the maximum (R91, R97). -/
def mapWord (s : State) (n j : Nat) (obj : Bool) : Nat :=
  if obj then
    (let e (k : Nat) : Nat := match objClasses.find? (fun p => decide (p.1 ≤ k ∧ k < p.1 + p.2)) with
       | some p => (k - p.1) + 4096
       | none => 0
     if n = 0 then e (2 * j) + 65536 * e (2 * j + 1) else 0)
  else if n = 0 then quota s 0 (0x200 + 4 * j) else 0

/-- Status of a pin-level register, of ID and seat control, stages and books. -/
def viewSys (s : State) (seat pk : Nat) (r : RegAt) : Nat :=
  let p := pathAt s pk
  match r.desc.name with
  | .idPart => 0x00213260
  | .idVendor => 0x1E5A
  | .idSerial => Config.serial.toNat
  | .seatId => seat + 16 * pathOfPk pk + 128 * b2n (seatEnabled s seat) + 256 * b2n (seat == 0)
  | .seatCtl => 1
  | .seatFitted => fittedWord s seat r.j false
  | .seatOwned => fittedWord s seat r.j true
  | .hostBind => s.host.bindPending.getD s.host.bind
  | .hostPath => hostPathWord p r.j
  | .hostLbCtl => 2 * b2n s.host.lbMode + 256 * s.host.strobeErr
  | .hostSpiCtl => 256 * s.host.spiFrameErr + 65536 * s.host.spiLate
  | .pwrStage => pwrStageWord s
  | .pwrStageLt => ltPair s.pwr.stageFrame s.pwr.stagePhase
  | .pwrStageStatus => s.pwr.stageOutcome
  | .pwrDomState => domWord s r.j
  | .pwrRet => pwrRet s
  | .bookTokenUse => (heldSeats s + s.book.hwHeld) % 4096 + 65536 * (s.book.hwHeld % 4096)
  | .bookOvercommit => s.book.overcommit
  | .bookSeat => bookSeat s seat
  | .bookOutcomes => bookOutcomes s seat
  | .mapObject => mapWord s r.i r.j true
  | .mapQuota => mapWord s r.i r.j false
  | .seatIntPend => pendVectors s seat
  | .msixTable => msixWord s seat r.j
  | .msixPba => if r.j = 0 then (tget .reset s.host.fns seat).pba else 0
  | _ => 0

/-- Status of Line Time, the ledger and the faults. -/
def viewLt (s : State) (seat pk : Nat) (r : RegAt) : Nat :=
  let x := seatLt s seat
  match r.desc.name with
  | .ltStatus => ltStatus s
  | .ltEvents => s.lt.evRealign + 256 * s.lt.evHoldover + 65536 * s.lt.evMiss + 2 ^ 24 * s.lt.evAlign
  | .ltNow => ltPair s.lt.frame s.lt.phase
  | .ltTodNow => todNow s
  | .ltPpsCapture => ltPair s.lt.ppsFrame s.lt.ppsPhase
  | .ltCommitStatus => x.outcome + 256 * x.lastId + 65536 * groupsPending s seat + 2 ^ 20 * b2n x.stageFull
  | .ltCommitDonePtr => x.doneNext + 256 * x.doneOvf
  | .ltCalStatus => x.calOutcome + 65536 * x.calIndex
  | .ltCalLast => x.lastOutcome + 256 * x.lastKind + 65536 * x.lastIndex
  | .ltCommitDone => ((tgetO x.done (r.j / 4)).map (fun d => bits (doneImage d) (32 * (r.j % 4)) 32)).getD 0
  | .ltCalendar =>
      let e := calAt s (r.j / 4)
      if e.kind ≠ 0 ∧ (seat = 0 ∨ e.seat = seat) then bits (calImage e) (32 * (r.j % 4)) 32 else 0
  | .ledgerStatus => ledgerStatus s
  | .ledgerHead => s.pwr.ret.seq
  | .ledgerChain => s.pwr.ret.chain
  | .ledgerLost => s.led.lost
  | .ledgerSpillCons => s.led.cons
  | .ledgerSpillProd => spillProd s
  | .ledgerView => ledgerViewWord s seat pk r.j
  | .fcSrc => fcSrcWord s seat r.j
  | .fcFirst => fcFirst s seat
  | .fcClrStatus => s.flt.clrOutcome
  | .fcCount => s.flt.count
  | .fcInject => 65536 * b2n s.flt.injDone
  | .fcSeatCause => fcCauseWord s seat r.j
  | .fcAlive => fcAliveWord s
  | .fcAliveStop => ltPair s.flt.stopFrame s.flt.stopPhase
  | _ => 0

/-- A Tab entry of double-buffered status, with what it reads before the first flip. -/
def viewOr (v : Tab Nat) (k first : Nat) : Nat := if v = [] then first else tget 0 v k

/-- Status of strands, DMA, line ports, GFP-F channels, protection, mate and backplane. -/
def viewLine (s : State) (seat pk : Nat) (r : RegAt) : Nat :=
  let p := pathAt s pk
  match r.desc.name with
  | .dmaChStatus => chanStatus s r.i
  | .dmaChDone => (chanAt s r.i).done
  | .gfpStatus => tget 0 (gfpAt s r.i).view 4
  | .gfpCnt => tget 0 (gfpAt s r.i).view (0x10 + 4 * r.j)
  | .stStatus => stStatus s r.i
  | .stCtx => ctxWord s r.i (0x20 + 4 * r.j)
  | .stG => ctxWord s r.i (0x40 + 4 * r.j)
  | .stEventState => bits (eventFlags s seat) (32 * r.j) 32
  | .lpStatus => viewOr (portAt s r.i).view 4 7
  | .lpOhRx => tget 0 (portAt s r.i).view 0x10
  | .lpOhCap => tget 0 (portAt s r.i).view 0x18
  | .lpTxOffset => (Config.lpTxOffset (lpRate s [] r.i)).toNat
  | .lpJ0Rx => tget 0 (portAt s r.i).view (0xC0 + 4 * r.j)
  | .lpCnt => tget 0 (portAt s r.i).view (0x100 + 4 * r.j)
  | .lpAuStatus => viewOr (portAt s r.i).view (0x400 + 4 * r.j) 1
  | .lpTuStatus => tget 0 (portAt s r.i).view (0x1000 + 4 * r.j)
  | .pxUse => expectUsed s seat % 1024 + 65536 * (expectQuota s seat % 1024)
  | .pxArmed => armedWord s seat r.j
  | .pxOverrideStatus => s.prot.overrideOutcome
  | .pxCmdStatus => p.pxOutcome + 65536 * p.pxIndex
  | .mateCmdStatus => s.mate.cmdOutcome
  | .mateStatus => mateStatus s
  | .mateTerm => s.mate.term % 2 ^ 32
  | .mateLease => s.mate.lease % 2 ^ 32
  | .mateSeq => s.mate.seq % 2 ^ 32
  | .mateLost => mateLost s
  | .mateUse => s.mate.use % 2 ^ 22
  | .mateDelay => s.mate.delayed + 65536 * s.mate.overflows
  | .blStatus => viewOr (laneAt s r.i).view 8 16
  | .blDelay => tget 0 (laneAt s r.i).view 0xC
  | .blCnt => tget 0 (laneAt s r.i).view (0x10 + 4 * r.j)
  | .bpSrqBad => tget 0 s.dun.view (100000 + r.i)
  | .bpSlotStatus => tget 0 s.dun.view (192 * r.i + r.j)
  | .mlStatus => viewOr (laneAt s (32 + r.i)).view 8 16
  | .mlCnt => tget 0 (laneAt s (32 + r.i)).view (0x10 + 4 * r.j)
  | .mlLink => tget 0 s.dun.view 200000
  | .fabPageStatus => tget 0 s.fab.view 0x10
  | .fabLastSwap => ltPair (if r.j = 0 then s.fab.lastHo else s.fab.lastLo) 0
  | .fabNextSwap => nextSwap s (r.j == 1)
  | .fabSeatUse => connUsed s seat % 65536 + 65536 * quota s seat 0x200
  | .fabLoUse => (loSlots s []).length % 1024 + 65536 * ((loSlots s (pendingWrites s)).length % 1024)
  | .fabRotStatus => tget 0 s.fab.view (0x100 + 4 * r.j)
  | .fabRotNext => (rotAt s (r.j == 1)).nextCycle % 2 ^ 32
  | .fabTileStatus => tget 0 s.fab.view (0x200 + 4 * r.j)
  | .fabTileStatusLo => tget 0 s.fab.view (0x280 + 4 * r.j)
  | _ => 0

/-- Status of cameras, the scan engine, the radio and the monitor chain. -/
def viewCam (s : State) (seat pk : Nat) (r : RegAt) : Nat :=
  let p := pathAt s pk
  match r.desc.name with
  | .crStatus => tget 0 (rxAt s r.i).view 10
  | .crCnt => tget 0 (rxAt s r.i).view r.j
  | .camStatus => tget 0 s.cam.view r.i
  | .camSeq => tget 0 s.cam.view (8 + r.i)
  | .camLast => (camAt s r.i).last
  | .camStats => ofLe (((camAt s r.i).stats.drop (4 * r.j)).take 4)
  | .tapDrop => tget 0 s.cam.view (16 + r.i)
  | .ciStatus =>
      let x := i2cAt s r.i
      x.outcome + 256 * (x.ident % 256) + 65536 * x.queue.length + 2 ^ 24 * x.next
  | .ciRing => bits (tget 0 (i2cAt s r.i).ring (r.j / 8)) (32 * (r.j % 8)) 32
  | .trigCount => tget 0 s.cam.view (24 + r.i)
  | .trigLast => ltPair (trigAt s r.i).lastFrame (trigAt s r.i).lastPhase
  | .scanStatus => p.scanOutcome + 65536 * p.scanJob
  | .scanRetry => ltPair s.scan.retryFrame 0
  | .scanUse => scanUse s seat
  | .scanDonePtr => (scanSeat s seat).next + 256 * (scanSeat s seat).overflow
  | .scanCnt => (scanSeat s seat).resDrop + 65536 * (scanSeat s seat).multi
  | .scanDone => bits (tget 0 (scanSeat s seat).ring (r.j / 24)) (32 * (r.j % 24)) 32
  | .scanUnitStatus => scanUnitStatus s
  | .scanBistCmd => 256 * s.scan.bistOutcome
  | .lantCfg =>
      if r.j ≠ 3 then 0
      else tget 0 s.scan.strobeCount r.i % 65536 + 65536 * tget 0 s.scan.lastSp r.i
        + 2 ^ 31 * b2n (s.scan.strobes.any (fun b => b.lant == r.i && b.active))
  | .radioStat => radioStat s
  | .radioBandUse => airUse s r.j (minuteOf (nowPos s)) % 2 ^ 32
  | .radioSeatUse => airUse s (3 + seat) (minuteOf (nowPos s)) % 2 ^ 32
  | .radioKcv => keyCheck (tget 0 s.radio.keys r.j)
  | .radioStatus => p.radioOutcome + 65536 * p.radioFrame
  | .radioLegal => tget 0 s.radio.legal pk
  | .radioRetry => ltPair s.radio.retryFrame 0
  | .radioBistCmd => 256 * s.radio.bistOutcome
  | .radioCnt =>
      -- RX_DROP and TXDONE_OVF count for every Seat; the register has one value for the part (R506)
      if r.j = 13 ∨ r.j = 14 then ((seats.map (fun n => tget 0 s.radio.view (100 * (r.j - 12) + n))).sum) % 2 ^ 32 else tget 0 s.radio.view r.j
  | .radioTxdone => bits (tget 0 (radioSeat s seat).ring (r.j / 4)) (32 * (r.j % 4)) 32
  | .radioTxdoneIdx => (radioSeat s seat).next
  | .radioNbr => nbrImage s r.j
  | .monThState => monThState s r.i
  | .monOut => (monChan s r.i).out
  | .monOutPrev => (monChan s r.i).prev
  | .monThermState => monThermState s
  | .monCal => b2n s.mon.calFail + 256 * s.mon.calAge
  | .monOutDrop => monDrops s seat
  | _ => 0

/-- Fields of a register that software does not write, as a read shows them. -/
def regView (s : State) (seat pk : Nat) (r : RegAt) : Nat :=
  viewSys s seat pk r ||| viewLt s seat pk r ||| viewLine s seat pk r ||| viewCam s seat pk r

/-- Registers of which only the view is read: what is stored under their key is not what they show. -/
def viewOnly : RegName → Bool
  | .hostBind | .fcSrc | .fcSeatCause | .ledgerSpillCons | .radioNbr => true
  | _ => false

/-- The value of a register in a Seat's shadow (R46, R500); PORT of GFP_CFG is shown in the Seat's numbering once the group is accepted (R87). -/
def shadowShown (s : State) (seat : Nat) (r : RegAt) : Nat :=
  match stagedVal (seatGroup s seat) r.key with
  | some v => v
  | none =>
      let v := (stagedVal (ownPending s seat) r.key).getD (rget s r.key)
      if r.desc.name = .gfpCfg then setBits v 4 4 (((localOf s seat 0 (bits v 4 4)).map (·.1)).getD 0) else v

/-- The value of a whole register as a Seat and path read it. -/
def regValue (s : State) (seat pk : Nat) (r : RegAt) : Nat :=
  let d := r.desc
  if d.s0only ∧ seat ≠ 0 then 0
  else if viewOnly d.name then regView s seat pk r
  else
    match d.name with
    | .mapObject | .mapQuota | .mapData | .mapCode =>
        if seat ≠ 0 ∧ r.li ≠ 0 then 0
        else if r.i = 0 ∧ (d.name = .mapObject ∨ d.name = .mapQuota) then regView s seat pk r
        else shadowVal s seat r.key &&& d.rws
    | _ =>
        let stored := rget s r.key &&& (d.rw ||| d.w1c)
        let staged := if d.rws = 0 then 0 else shadowShown s seat r &&& d.rws
        stored ||| staged ||| regView s seat pk r

/-- The word of a register that an offset names. -/
def regWord (s : State) (seat pk : Nat) (r : RegAt) : Nat := bits (regValue s seat pk r) (32 * r.word) 32

end Sys2Proof.Machine
end

