-- ==== Sys2Proof/Machine/RegNorm.lean ====
section
/-!
DEFINITION. What a write of a register stores: reserved fields (R7), values that a table stores as another value, reserved values that are refused
(R542), and the writes that a block refuses.
-/
namespace Sys2Proof.Machine

open Sys2Proof

/-- Clamp into a range. -/
def clampN (lo hi v : Nat) : Nat := max lo (min hi v)

/-- Writable bits of a word of a camera bank. -/
def bankMask (o : Nat) : Nat :=
  if o < 2 then 0x0FFF0FFF
  else if o = 2 then 0xFFF
  else if 4 ≤ o ∧ o < 16 then 0xFFFFFFFF
  else if o = 16 then 0xFFFF
  else if o = 20 ∨ o = 21 then 0x0FFF0001
  else if o = 22 then 0x73
  else if o = 24 ∨ o = 25 then 0xFFFFFFFF
  else if o = 26 then 0xFFFF
  else 0

/-- Byte `k` of a BP_SRQ_TX word: a code above 5 is stored as 0. -/
def srqByte (v k : Nat) : Nat := if 5 < bits v (8 * k) 4 then 0 else bits v (8 * k) 4 * 2 ^ (8 * k)

/-- A written value as the register's table stores it; `old` is the register before the write, as the Seat sees it. DESIGN CHOICE (entry 47): of a
quota the whole 16-bit value is held against the top of its range, the bits above its field too (R97). -/
def regNorm (r : RegAt) (old v0 : Nat) : Nat :=
  let d := r.desc
  let v := v0 &&& (d.rw ||| d.rws)
  match d.name with
  | .ltRefSel => if bits v 8 8 = 0 then setBits v 8 8 1 else v
  | .hostSpiCtl => if v = 0 then 1 else v
  | .seatCtl => setBit v 0
  | .ledgerSpillCtl => if bits v 8 5 < 11 ∨ 25 < bits v 8 5 then setBits v 8 5 11 else v
  | .stPriCap => setBits v 0 3 7
  | .dmaChCtl => if v = 0 then 7 else v
  | .lpCfg => setBits (setBits v 8 4 (clampN 5 9 (bits v 8 4))) 12 4 (clampN 5 9 (bits v 12 4))
  | .mapQuota => min v ([27648, 512, 64, 65535, 65535, 255].getD r.j 65535)
  | .bpSrqTx => srqByte v 0 + srqByte v 1 + srqByte v 2 + srqByte v 3
  | .scanCfg =>
      let m := bits v 4 6
      let v1 := if m < 2 ∨ 48 < m ∨ m % 2 = 1 then setBits v 4 6 6 else v
      if bits v1 10 6 = 0 then setBits v1 10 6 1 else v1
  | .lantCfg => v &&& [0x03FFFF03, 0xFFFFFF, 0x03FF00FF, 0].getD r.j 0
  | .scanPortwin => v &&& [0x0FFF0FFF, 0x0FFF0FFF, 0x8000000F].getD r.j 0
  | .pwrDomHold => if r.j = 3 then v % 65536 else v
  | .monCfg =>
      let v1 := setBits v 16 5 (clampN 4 16 (bits v 16 5))
      if r.i < 12 then setBit v1 0 else v1
  | .monThaCtl => if r.i = 8 ∨ r.i = 10 then setBits v 0 2 3 else v
  | .monGain | .monOffset => if r.i < 8 then old else v
  | .fcSrc => if sourceClass r.j = 2 ∧ v < 6 then 6 else v
  | .fcSevAct => if 6 ≤ r.j then v ||| 0x19 else setBit v 0
  | .fcSeatCause | .fcSeatEn => if r.j = 12 then v % 2 ^ 28 else v
  | .camBank => v &&& bankMask (r.j % 256)
  | _ => v

/-- S0 keeps a path with a HOST_BIND value (R124). -/
def keeperPath (s : State) (v : Nat) : Bool :=
  let f := tget .reset s.host.fns 0
  (s.host.linkUp && !f.flr && f.mse) || (bit v 8 && bits v 0 4 == 0) || (bit v 9 && bits v 4 4 == 0)

/-- The settings of the spill that change only while EN is 0 (R148). -/
def spillLocked (s : State) (name : RegName) (old v : Nat) : Bool :=
  spillEn s && (match name with
    | .ledgerSpillCtl => old / 2 != v / 2
    | .ledgerSpillBase | .ledgerSpillStatusAddr => old != v
    | _ => false)

/-- Some field of the value holds a reserved value (R542), or the block's own rule refuses the write. -/
def regBad (s : State) (a : Agent) (r : RegAt) (old v : Nat) : Bool :=
  match r.desc.name with
  | .hostBind => !keeperPath s v
  | .ltCtl => bits v 0 2 == 3
  | .ltFrameLoad => !frameLoadOk s v
  | .ltCalLimit => decide (1024 < v)
  | .lpCfg => bits v 6 2 == 3
  | .lpAuCfg | .bpAuCfg => bits v 3 2 == 3
  | .blCfg => bits v 0 2 == 3
  | .gfpCfg => decide (192 ≤ bits v 8 8)
  | .stCtl => !stCtlOk s a.seat v
  | .mateCtl => !mateCtlOk s old v
  | .crCfg => !crCfgOk old v
  | .crUdt => bits v 6 2 == 3 || bits v 14 2 == 3 || bits v 0 6 / 8 != 6 || bits v 8 6 / 8 != 6
  | .ltAnchorTod | .ltCommitTod => decide (10 ^ 9 ≤ bits v 0 32)
  | .camCfg => !camCfgOk old v
  | .camGeom => !camGeomOk s r.i old v
  | .camTime => !camTimeOk v
  | .camBank => r.j % 256 == 22 && bits v 0 2 == 3
  | .tapCfg => decide (4 < bits v 4 3)
  | .ciCfg => bits v 0 2 == 3 || bits v 8 8 == 0
  | .scanCfg => bits v 2 2 == 3 || decide (48 < bits v 10 6)
  | .radioCfg => !radioCfgOk v
  | .radioPhy => !radioPhyOk s old v
  | .radioTrk => decide (bits v 16 10 < 192 ∨ 1000 < bits v 16 10)
  | .radioSlot => (List.range 15).any (fun k => bits v (2 * k) 2 == 3)
  | .monTherm => !monThermOk v || bits v 56 8 == 0
  | .monThaCtl | .monThbCtl => bits v 8 8 == 0
  | .bookTokens => decide (bits v 0 12 < bits v 16 12)
  | .ledgerSpillCtl | .ledgerSpillBase | .ledgerSpillStatusAddr => spillLocked s r.desc.name old v
  | _ => false

/-- The outcome with which a write is refused before anything changes; DONE when it is not. -/
def regCheck (s : State) (a : Agent) (r : RegAt) (old v : Nat) : Nat :=
  if r.desc.name = .camBind then camBindOutcome s r.j v
  else if regBad s a r old v then oSeat
  else oDone

/-- Configuration of a monitor channel. -/
def monName : RegName → Bool
  | .monCfg | .monGain | .monOffset | .monThaLevel | .monThaCtl | .monThbLevel | .monThbCtl => true
  | _ => false

/-- Mate-lane registers: they are not fitted, rather than refused, outside S0 (R103, "Keeper-only regions"). -/
def mateLaneName : RegName → Bool
  | .mlTxEq | .mlStatus | .mlCnt | .mlLink => true
  | _ => false

/-- Only S0 writes the register (R92, R505). -/
def keeperOnly (d : RegDesc) : Bool := (d.keeper || d.s0only) && !mateLaneName d.name

/-- The Seat may write the register (R91, R92, R446). -/
def mayWrite (seat : Nat) (r : RegAt) : Bool :=
  if seat = 0 then !(r.i == 0 && (r.desc.name == .mapObject || r.desc.name == .mapQuota))
  else
    !keeperOnly r.desc && !(monName r.desc.name && decide (r.i < 12))

/-- Nothing of the register is writable: a write is discarded (R7). -/
def readOnly (d : RegDesc) : Bool :=
  d.rw == 0 && d.rws == 0 && d.w1c == 0 && d.wo == 0
    && !(d.name == .ledgerKey || d.name == .radioKey || d.name == .radioNbr || d.name == .msixTable
      || d.name == .stCtx || d.name == .stG)

/-- A register of several words that is written in ascending word order (R418, R430, R507). -/
def multiWord (d : RegDesc) : Bool :=
  decide (4 < d.bytes) && (d.rw != 0 || d.rws != 0 || d.name == .radioKey || d.name == .radioNbr)

/-- RS registers: a read of word 0 latches the upper words (R105). -/
def isRs : RegName → Bool
  | .idSerial | .pwrStageLt | .pwrRet | .bookSeat | .bookOutcomes | .ltNow | .ltTodNow | .ltPpsCapture | .mateLost | .fabLastSwap | .fabNextSwap
  | .camLast | .trigLast | .scanRetry | .radioLegal | .radioRetry | .monOut | .monOutPrev | .fcFirst | .fcAliveStop => true
  | _ => false

end Sys2Proof.Machine
end

