-- ==== Sys2Proof/Machine/RegWrite.lean ====
section
/-!
DEFINITION. A write of a register by a host path or a strand: command registers, ledger registers, staged and direct fields with their records
(R23, R46, R90 to R92, R103, R104, R107, R125, R137, R148, R507, R508).
-/
namespace Sys2Proof.Machine

open Sys2Proof

/-- What a direct write starts in its block, by the register's name; `v0` is the word written, `old` and `new` the register before and after. -/
def regHook (a : Agent) (r : RegAt) (old new v0 : Nat) (s : State) : State :=
  match r.desc.name with
  | .ltCtl => if bit v0 4 then clearEvents s else s
  | .ltRefSel => refSelHook s
  | .ltFrameLoad => frameLoad new s
  | .pwrDomHold => domUpdate s
  | .bookTokens | .ltCalLimit => overcommitEval s
  | .stCtl => stCtlHook a r.i old new s
  | .mateCtl => mateCtlHook old new s
  | .fabCtl =>
      let s1 := if bit old 1 ∧ ¬ bit new 1 then rotDisable false s else s
      if bit old 2 ∧ ¬ bit new 2 then rotDisable true s1 else s1
  | .crCfg => domUpdate (crCfgHook r.i old new s)
  | .camCfg => domUpdate (camCfgHook r.i old new s)
  | .camCtl => camCtlHook r.i s
  | .scanCfg => domUpdate (scanCfgHook old new s)
  | .lantCfg => if r.j = 0 then domUpdate (lantHook r.i new s) else s
  | .radioCfg => domUpdate (radioCfgHook old new s)
  | .radioPhy => radioPhyHook s
  | .radioFcOut => fcOutHook new s
  | .monCfg => monCfgHook r.i old new (bit v0 24) s
  | .monThaCtl => monThHook r.i 0xC old new s
  | .monThbCtl => monThHook r.i 0x14 old new s
  | .monShedCtl => shedForceHook s
  | .fcInject => injectHook s
  | .ledgerSpillCtl => spillCtlHook old new s
  | .ledgerInt | .ledgerIntEn | .lpInt | .lpIntEn | .hostIntnSel => notifyAll s
  | _ => if r.desc.scope = .seat then notify a.seat s else s

/-- The S0-window offset of a register, as ledger entries and deltas name it (R130). -/
def regOffset (r : RegAt) : Nat := r.desc.offset r.i r.j

/-- The word of a Seat map that a register is, as OBJECT of a staged write: class 0x03, Seat and page offset (R130). -/
def stageObject (r : RegAt) : Nat :=
  match r.desc.name with
  | .mapObject | .mapQuota | .mapData | .mapCode => 0x03000000 + 2 ^ 20 * r.i + regOffset r % 0x1000
  | _ => regOffset r

/-- The staged fields of a write: a register of staged fields alone enters the group always, another only when a staged field changes (R46). -/
def stagePart (a : Agent) (r : RegAt) (v : Nat) (s : State) : Nat × State :=
  let d := r.desc
  if d.rws = 0 then (oDone, s)
  else
    let old := shadowShown s a.seat r &&& d.rws
    if d.rw ≠ 0 ∧ old = v &&& d.rws then (oDone, s)
    else stageValue a r.key (stageObject r) d.bytes old (v &&& d.rws) s

/-- A stored value changes: recorded before it does (R23, R125). -/
def recordPart (a : Agent) (r : RegAt) (old new : Nat) (s : State) : Option State :=
  if old = new then some s
  else ledgerMgmt a 1 (regOffset r) (old % 2 ^ 32) (new % 2 ^ 32) false (valueConts r.desc.bytes old new) s

/-- The new value is stored; HOST_BIND waits for its ports to be idle (R124). -/
def regStore (r : RegAt) (new : Nat) (s : State) : State :=
  if r.desc.name = .hostBind then { s with host := { s.host with bindPending := some new } } else rset s r.key new

/-- The stored register before a write. -/
def regStored (s : State) (r : RegAt) : Nat :=
  if r.desc.name = .hostBind then s.host.bindPending.getD s.host.bind else rget s r.key

/-- A write of a register with no command of its own: outcome. -/
def regApply (a : Agent) (r : RegAt) (v0 : Nat) (s : State) : Nat × State :=
  let d := r.desc
  let old := regStored s r
  let v := regNorm r old v0
  let new := clrMask ((clrMask old d.rw) ||| (v &&& d.rw)) (v0 &&& d.w1c)
  let c := regCheck s a r old v
  if c ≠ oDone then (c, s)
  else if (old ^^^ new) &&& d.mir &&& d.rw ≠ 0 ∧ mirrorRefused s then (oSeat, s)
  else
    let (o, t) := stagePart a r v s
    if o ≠ oDone then (o, t)
    else
      match (recordPart a r old new t).bind (fun u => if r.desc.name = .mateCtl then mateCtlRecord a old new u else some u) with
      | none => (oLedger, s)
      | some u =>
          let u1 := if old = new then u else regStore r new u
          let u2 := if (old ^^^ new) &&& d.mir = 0 then u1 else mirrorReg true (regOffset r) d.bytes new (lastSeq u) u1
          (oDone, regHook a r old new v0 u2)

/-- START of an offline BIST (R403, R442): recorded, and reads 0 once acted on. -/
def bistStart (a : Agent) (r : RegAt) (v : Nat) (f : State → State) (s : State) : Nat × State :=
  if ¬ bit v 0 then (oDone, s)
  else
    match ledgerMgmt a 1 (regOffset r) 0 1 false [] s with
    | none => (oLedger, s)
    | some t => (oDone, f t)

/-- A word of LEDGER_KEY (R137). -/
def keyWord (a : Agent) (j v : Nat) (s : State) : Nat × State :=
  let ws := if j = 0 then [v] else s.led.keyWords ++ [v]
  let put (l : List Nat) (t : State) : State := { t with led := { t.led with keyWords := l } }
  if j ≠ 0 ∧ s.led.keyWords.length ≠ j then (oDone, put [] s)
  else if ws.length < 8 then (oDone, put ws s)
  else
    let key := ws.flatMap (leBytes 4)
    match ledgerMgmt a 0x23 0xFF000000 (fingerprint s.pwr.ret.key) (fingerprint key) false [] s with
    | none => (oLedger, put [] s)
    | some t => (oDone, setCauseP 0x7C0030 4 (put [] { t with pwr := { t.pwr with ret := { t.pwr.ret with key := key } } }))

/-- LEDGER_SPILL_CONS (R145, R148). -/
def spillCons (a : Agent) (v : Nat) (s : State) : Nat × State :=
  let ahead (x : Nat) : Nat := (x + 2 ^ 32 - s.led.cons) % 2 ^ 32
  if ahead (spillProd s) < ahead v then (if a.path = 3 then (oSeat, s) else (oDone, discardCount a s))
  else
    let s1 := { s with led := { s.led with cons := v } }
    (oDone, if spillEn s && spillPull s then reportLoss (ledgerDrain (releaseTo v s1)) else s1)

/-- HOST_ERR_CLR for a path (R107). -/
def clearPathCounts (pk : Nat) (s : State) : State :=
  modPath pk (fun p => { p with wrOutcome := 0, wrCount := 0, wrAddr := 0, nfCount := 0, nfAddr := 0, discard := 0, pairMiss := 0 }) s

/-- BOOK_CNT_CLR (R486). -/
def clearOutcomes (seat : Nat) (s : State) : State :=
  { s with book := { s.book with outcomes := s.book.outcomes.filter (fun e => e.1 / 16 != seat) } }

/-- A word of a Seat's MSI-X table (PCI rules). -/
def msixWrite (seat j v : Nat) (s : State) : State :=
  let f := tget .reset s.host.fns seat
  let e := setBits (msixEntry f (j / 4)) (32 * (j % 4)) 32 v
  msixFlush seat { s with host := { s.host with fns := tset .reset s.host.fns seat { f with table := tset (2 ^ 96) f.table (j / 4) e } } }

/-- The write of a command register ends DONE for a host path, whose command ends in its own status register (R486); the outcome word of a strand's
RST shows a refusal that any write may meet: by the ledger, or of mirrored state on a standby (R22, R23, R167). -/
def regCmdEnd (a : Agent) (s : State) (r : Nat × State) : Nat × State :=
  (if a.path = 3 ∧ (r.1 = oLedger ∨ (r.1 = oSeat ∧ mirrorRefused s)) then r.1 else oDone, r.2)

/-- Registers whose write is a command, or that no table of masks describes: outcome; none for every other register. -/
def regCommand (a : Agent) (r : RegAt) (v : Nat) (s : State) : Option (Nat × State) :=
  match r.desc.name with
  | .hostErrClr => some (oDone, if bit v 0 then clearPathCounts a.pk s else s)
  | .pwrStageCtl => some (regCmdEnd a s (stageControl a v s))
  | .pwrResetCtl => some (regCmdEnd a s (resetControl a v s))
  | .bookCntClr => some (oDone, if bit v 0 then clearOutcomes a.seat s else s)
  | .ltCommitCtl => some (regCmdEnd a s (commitControl a v s))
  | .ltCalCtl => some (regCmdEnd a s (calControl a v s))
  | .msixTable => some (oDone, msixWrite a.seat r.j v s)
  | .dmaChCmd => some (dmaCommand a r.i v s)
  | .stCmd => some (stCommand a r.i v s)
  | .stCtx => some (ctxWrite a r.i (0x20 + 4 * r.j) v s)
  | .stG => some (ctxWrite a r.i (0x40 + 4 * r.j) v s)
  | .stEventSet => some (oDone, eventSetWrite a.seat (r.j == 1) v s)
  | .lpCntClr => some (oDone, if bit v 0 then modPort r.i (fun x => { x with cntClr := true }) s else s)
  | .blCntClr => some (oDone, if bit v 0 then modLane r.i (fun x => { x with cntClr := true }) s else s)
  | .pxOverride => some (regCmdEnd a s (hostOverride a v s))
  | .pxCmd => some (regCmdEnd a s (pxCommand a v s))
  | .mateCmd => some (regCmdEnd a s (mateCommand a v s))
  | .fabRotCmd => some (regCmdEnd a s (hostRotCmd a v s))
  | .ciCmd => some (oDone, ciCommand a r.i (rget s (kPath a.pk (0x4A0020 + 0x1000 * r.i))) v s)
  | .scanCmd => some (oDone, scanCommand a v s)
  | .scanBistCmd => some (bistStart a r v scanBistOrder s)
  | .radioCmd => some (regCmdEnd a s (radioCommand a v s))
  | .radioBistCmd => some (bistStart a r v radioBistOrder s)
  | .radioKey => some (keyApply a r.j v s)
  | .radioNbr => some (nbrApply a r.j v s)
  | .fcFirstClr => some (regCmdEnd a s (firstClear a v s))
  | .fcInject => if 411 < bits v 0 9 then some (oDone, s) else none
  | .ledgerKey => some (keyWord a r.j v s)
  | .ledgerSpillCons => some (spillCons a v s)
  | .ledgerViewBase => some (oDone, rset s r.key v)
  | _ => none

/-- The words of a register held for a path, with this one; none when it is not begun in order (R507). -/
def heldWords (s : State) (pk key word v : Nat) : Option (List Nat) :=
  if word = 0 then some [v]
  else match (pathAt s pk).held with
    | some (k, ws) => if k = key ∧ ws.length = word then some (ws ++ [v]) else none
    | none => none

/-- The value of 32-bit words, lowest first. -/
def wordsVal (ws : List Nat) : Nat := ofLe (ws.flatMap (leBytes 4))

/-- Any other access of the path or strand discards words held for it (R243, R507): `next` is what this access would add to. -/
def touch (a : Agent) (next : Option (Nat × Nat)) (s : State) : State :=
  match (pathAt s a.pk).held with
  | none => s
  | some (k, ws) => if next = some (k, ws.length) then s else pairMiss a s

/-- The words held for a path are replaced. -/
def setHeld (pk : Nat) (h : Option (Nat × List Nat)) (s : State) : State := modPath pk (fun p => { p with held := h }) s

/-- A word of a register of several words: held, or with the last word applied by `f` (R507). -/
def multiWrite (a : Agent) (key word words v : Nat) (f : Nat → State → Nat × State) (s : State) : Nat × State :=
  match heldWords s a.pk key word v with
  | none => (oDone, pairMiss a s)
  | some ws => if ws.length < words then (oDone, setHeld a.pk (some (key, ws)) s) else f (wordsVal ws) (setHeld a.pk none s)

/-- A write of a whole register value. -/
def regWriteVal (a : Agent) (r : RegAt) (v : Nat) (s : State) : Nat × State :=
  match regCommand a r v s with
  | some x => x
  | none => regApply a r v s

/-- A partial load of LEDGER_KEY ends at a write to another offset (R137). -/
def dropKeyLoad (off : Nat) (s : State) : State :=
  if s.led.keyWords ≠ [] ∧ off ≠ 0x7C0040 + 4 * s.led.keyWords.length then { s with led := { s.led with keyWords := [] } } else s

/-- The place that a write of register space adds to, when the register is written in several words. -/
def regNext (s : State) (a : Agent) (off : Nat) : Option (Nat × Nat) :=
  match regAt s a.seat a.pk off true with
  | .reg r => if multiWord r.desc then some (r.key, r.word) else none
  | _ => none

/-- A 32-bit write of register space below the connection window or above it: outcome; none where the object is not fitted (R103). -/
def regWrite (a : Agent) (off v : Nat) (s0 : State) : Option Nat × State :=
  let s := dropKeyLoad off (touch a (regNext s0 a off) s0)
  match regLocate off with
  | none => (some oDone, s)
  | some l =>
      if keeperOnly l.desc ∧ a.seat ≠ 0 then (some oSeat, s)
      else
        match regAt s a.seat a.pk off true with
        | .reserved => (some oDone, s)
        | .notFitted => (none, s)
        | .reg r =>
            if readOnly r.desc then (some oDone, s)
            else if ¬ mayWrite a.seat r then (some oSeat, s)
            else
              let (o, t) := if multiWord r.desc then multiWrite a r.key r.word ((r.desc.bytes + 3) / 4) v (regWriteVal a r) s else regWriteVal a r v s
              (some o, t)

end Sys2Proof.Machine
end

