-- ==== Sys2Proof/Machine/SeatWindow.lean ====
section
/-!
DEFINITION. The 16 MiB Seat window as a host path or strand reaches it: registers, connection window, code and data pages, object aperture (R87 to
R106, R112, R243, R245, R270, R297, R509 to R511).
-/
namespace Sys2Proof.Machine

open Sys2Proof

/-- The latched value under a key of a path (R106, R509). -/
def latchAt (s : State) (pk key : Nat) : Option Nat := tget none (pathAt s pk).latches key

/-- Latch a value. -/
def setLatch (pk key v : Nat) (s : State) : State := modPath pk (fun p => { p with latches := tset none p.latches key (some v) }) s

/-- A word of a value that is read as one: word 0 latches the whole, an upper word comes from the latch (R105, R509). -/
def latchedWord (pk key word v : Nat) (s : State) : Nat × State :=
  if word = 0 then (v % 2 ^ 32, setLatch pk key v s)
  else (bits ((latchAt s pk key).getD v) (32 * word) 32, s)

/-- A read of register space: the word; none where the object is not fitted (R103). -/
def regRead (a : Agent) (off : Nat) (s0 : State) : Option Nat × State :=
  let s := touch a none s0
  match regAt s a.seat a.pk off false with
  | .reserved => (some 0, s)
  | .notFitted => (none, s)
  | .reg r =>
      if isRs r.desc.name then
        let (w, t) := latchedWord a.pk r.key r.word (regValue s a.seat a.pk r) s
        (some w, t)
      else (some (regWord s a.seat a.pk r), s)

/-- FAB_PAGE_CTL.VIEW of a path (R245). -/
def viewActive (s : State) (pk : Nat) : Bool := rbit s (kPath pk 0x100004) 0

/-- Key of the latch, and of the held word, of a high-order entry. -/
def entryKey (addr : Nat) : Nat := 2 ^ 24 + addr / 8 * 8

/-- An address of the high-order entries. -/
def isHoAddr (addr : Nat) : Bool := decide (0x200000 ≤ addr ∧ addr < 0x210000)

/-- A read of an object word: none where it is NOT_FITTED. -/
def objRead (a : Agent) (addr : Nat) (s0 : State) : Option Nat × State :=
  let s := touch a none s0
  let act := viewActive s a.pk
  match objWord s a.seat addr act with
  | none => (none, s)
  | some w =>
      if isHoAddr addr then
        let base := addr / 8 * 8
        let v := (objWord s a.seat base act).getD 0 + 2 ^ 32 * (objWord s a.seat (base + 4) act).getD 0
        let (x, t) := latchedWord a.pk (entryKey addr) (addr % 8 / 4) v s
        (some x, t)
      else (some w, s)

/-- A write of an object word (R243, R244, R270): outcome; none where the object is not fitted. -/
def objWrite (a : Agent) (addr v : Nat) (s0 : State) : Option Nat × State :=
  if isHoAddr addr then
    let s := touch a (some (entryKey addr, addr % 8 / 4)) s0
    let (o, t) := multiWrite a (entryKey addr) (addr % 8 / 4) 2 v (stageConn a ((addr - 0x200000) / 8)) s
    (some o, t)
  else
    let s := touch a none s0
    match connOfAddr addr with
    | some num => let (o, t) := stageConn a num v s; (some o, t)
    | none =>
        match protWrite a addr v s with
        | some (o, t) => (some o, t)
        | none => (none, s)

/-- The page map entry of an offset in the code window or Seat data memory. -/
def windowPage (s : State) (seat off : Nat) : PageEntry :=
  if off < 0xC00000 then codePage s seat ((off - 0x800000) / 4096) else dataPage s seat ((off - 0xC00000) / 4096)

/-- Physical address of an offset of the two windows; none where the page is not VALID (R95, R96). -/
def windowPhys (s : State) (seat off : Nat) : Option Nat :=
  let e := windowPage s seat off
  if e.valid ∧ e.phys ≤ 0xF7F then some (4096 * e.phys + off % 4096) else none

/-- The physical address at which a host may write (R96, R297). -/
def windowWritable (s : State) (seat off : Nat) : Option Nat :=
  let e := windowPage s seat off
  if e.hostWr ∧ ¬ (mirrorRefused s ∧ pageMirrored s e.phys) then windowPhys s seat off else none

/-- `n` bytes of the windows. -/
def memRead (a : Agent) (off n : Nat) (s0 : State) : Option Nat × State :=
  let s := touch a none s0
  ((windowPhys s a.seat off).map (fun p => bytesVal (sramRead s p n)), s)

/-- The enabled bytes of a value are written from a physical address on. -/
def putBytes (p n be v : Nat) (s : State) : State :=
  foldUpto n (fun k t => if bit be k then sramSet t (p + k) (BitVec.ofNat 8 (bits v (8 * k) 8)) else t) s

/-- A write of `n` bytes of the windows under byte enables (R112). -/
def memWrite (a : Agent) (off n be v : Nat) (s0 : State) : Option Nat × State :=
  let s := touch a none s0
  match windowWritable s a.seat off with
  | none => (none, s)
  | some p => (some oDone, if be % 2 ^ n = 0 then s else mirrorSram p n (putBytes p n be v s))

/-- The object address that an offset of the connection window or of the aperture shows (R511). -/
def objOffset (s : State) (pk off : Nat) : Nat := if off < 0xE00000 then off else 0x200000 * rget s (kPath pk 0x128) + off % 0x200000

/-- Offsets of the connection window and of the object aperture. -/
def isObjOff (off : Nat) : Bool := decide ((0x200000 ≤ off ∧ off < 0x2D0000) ∨ 0xE00000 ≤ off)

/-- Offsets of the code window and of Seat data memory. -/
def isMemOff (off : Nat) : Bool := decide (0x800000 ≤ off ∧ off < 0xC40000)

/-- A 32-bit read of the window by a host path: none where it reaches not-fitted hardware. -/
def seatRead (a : Agent) (off : Nat) (s : State) : Option Nat × State :=
  if isObjOff off then objRead a (objOffset s a.pk off) s
  else if isMemOff off then memRead a off 4 s
  else regRead a off s

/-- A 32-bit write of the window by a host path: outcome. -/
def seatWrite (a : Agent) (off be v : Nat) (s : State) : Option Nat × State :=
  if isObjOff off then objWrite a (objOffset s a.pk off) v (dropKeyLoad off s)
  else if isMemOff off then memWrite a off 4 be v (dropKeyLoad off s)
  else regWrite a off v s

/-- The end of a host's write: a refusal is recorded, not-fitted hardware is counted, everything else completes (R103, R107). -/
def endWrite (a : Agent) (off : Nat) (r : Option Nat × State) : State :=
  match r.1 with
  | none => notFitted a off r.2
  | some c => hostEnd a off (c, r.2)

/-- The end of a host's read: not-fitted hardware reads 0 and is counted. -/
def endRead (a : Agent) (off : Nat) (r : Option Nat × State) : Nat × State :=
  match r.1 with
  | none => (0, notFitted a off r.2)
  | some v => (v, r.2)

/-- Registers that a disabled Seat reads (R89). -/
def alwaysReads (off : Nat) : Bool := decide (off < 0x14)

/-- A whole 32-bit write by a host path (R89). -/
def hostWrite (a : Agent) (off be v : Nat) (s : State) : State :=
  if seatEnabled s a.seat then endWrite a off (seatWrite a off be v s) else s

/-- A whole 32-bit read by a host path (R89). -/
def hostRead (a : Agent) (off : Nat) (s : State) : Nat × State :=
  if seatEnabled s a.seat ∨ alwaysReads off then endRead a off (seatRead a off s) else (0, s)

/-- The state after a whole 32-bit register write at an offset of the Seat window: host paths run from SAFE on (R69). -/
def rowDone (w : HostWho) (off v : Nat) (s : State) : State :=
  if alive s then hostWrite (hostAgent w) off 0xF v s else s

/-- A register write as a row of its own. -/
def rowWrite (w : HostWho) (off v : Nat) (s : State) : Result := .next (rowDone w off v s)

/-- Words written one after the other from an offset on. -/
def hostWords (a : Agent) (off : Nat) : List Nat → State → State
  | [], s => s
  | v :: vs, s => hostWords a (off + 4) vs (hostWrite a off 0xF v s)

/-- The `n` words of a wide register, lowest first. -/
def rowWords (w : HostWho) (off n v : Nat) (s : State) : Result :=
  .next (if alive s then hostWords (hostAgent w) off ((List.range n).map (fun k => bits v (32 * k) 32)) s else s)

end Sys2Proof.Machine
end

