-- ==== Sys2Proof/Machine/Issue.lean ====
section
/-!
DEFINITION. The calendar's issues (R35, R42, R44, R45, R48, R186, R200).
-/
namespace Sys2Proof.Machine

open Sys2Proof

/-- Entry i issues before entry j when both are due (R35, R44): LT order, CLASS, Seat priority, order of addition. -/
def calBefore (s : State) (i j : Nat) : Bool :=
  let a := calAt s i
  let b := calAt s j
  let ca := capClass s a.seat a.cls
  let cb := capClass s b.seat b.cls
  let pa := seatPri s a.seat
  let pb := seatPri s b.seat
  if calPos a ≠ calPos b then decide (calPos a < calPos b)
  else if ca ≠ cb then decide (ca < cb)
  else if pa ≠ pb then decide (pb < pa)
  else if a.fromEpoch ≠ b.fromEpoch then a.fromEpoch
  else decide (a.seq < b.seq)

/-- Insert an index in issue order. -/
def calInsert (s : State) (i : Nat) : List Nat → List Nat
  | [] => [i]
  | j :: js => if calBefore s j i then j :: calInsert s i js else i :: j :: js

/-- The indices due by now, in issue order; commit groups land elsewhere. -/
def calDue (s : State) : List Nat :=
  (s.lt.cal.filter (fun e => e.2.kind ≠ 0 ∧ e.2.kind ≠ 3 ∧ calPos e.2 ≤ nowPos s)).foldl (fun l e => calInsert s e.1 l) []

/-- The action of an entry (R42, R186, R201): its outcome, when known at the issue. Ownership is that of the moment. -/
def calAction (i : Nat) (e : CalEntry) (s : State) : Option Nat × State :=
  let p := calPos e
  if ¬ calTargetOk s e.seat e.kind e.target then (some oSeat, s)
  else
    match e.kind with
    | 1 =>
        match ownedPhys s e.seat 48 e.target with
        | some n => let (o, t) := calStartStrand n e.arg s; (some o, t)
        | none => (some oSeat, s)
    | 2 => (some oDone, setEvent e.seat e.target s)
    | 5 =>
        match ownedPhys s e.seat 112 e.target with
        | some c => let (o, t) := dmaStartBy c s; (some o, t)
        | none => (some oSeat, s)
    | _ =>
        let k := e.target % 256
        if e.target < 0x200 then
          match ownedPhys s e.seat 200 k with
          | some t => (some oDone, trigRequest t p e.arg s)
          | none => (some oSeat, s)
        else if e.target < 0x300 then
          match ownedPhys s e.seat 152 k with
          | some l => let (o, t) := calStrobe e.seat l p e.arg s; (some o, t)
          | none => (some oSeat, s)
        else if e.target < 0x400 then calBeacon e.seat i p e.arg s
        else let (o, t) := calSettle e.seat k p e.arg s; (some o, t)

/-- The entry after its issue: freed, or at its first repeat position after now (R35, R41, R48). -/
def calAfter (s : State) (e : CalEntry) : CalEntry :=
  if e.repeatN = 0 then .empty
  else
    let base : Int := e.reqFrame * phasesPerFrame + e.phase
    let step : Int := ((e.repeatN * phasesPerFrame : Nat) : Int)
    let k : Int := if base ≤ nowPos s then ((nowPos s : Int) - base) / step + 1 else 1
    let f := e.reqFrame + k * e.repeatN
    { e with frame := f.toNat, reqFrame := f, moved := false }

/-- One entry issues (R44, R45). -/
def calIssue (i : Nat) (s : State) : State :=
  let e := calAt s i
  let s1 := mirrorCal false i (setCal i (calAfter s e) s)
  let s2 := if e.repeatN = 0 then setCause e.seat 0x20014 8 s1 else s1
  match calAction i e s2 with
  | (none, t) => t
  | (some o, t) => if o = oDone ∨ o = oDelayed then t else calFailed e.seat e.kind i o t

/-- The calendar runs: the part is alive and no standby (R315). -/
def calRuns (s : State) : Bool := alive s && s.mate.rein != .standby

/-- Step 9: every entry due by the boundary issues. -/
def calBoundary (s : State) : State := if calRuns s then (calDue s).foldl (fun t i => calIssue i t) s else s

/-- CALENDAR_ISSUE (R44): LT reaches the entry's position in the frame in progress; an entry that another due entry precedes does not issue yet. -/
def execCalendarIssue (idx : BitVec 10) (s : State) : Result :=
  let i := idx.toNat
  let e := calAt s i
  .next (if calRuns s && e.kind != 0 && e.kind != 3 && calPos e / phasesPerFrame == s.lt.frame then
      let t := advanceTo (calPos e) s
      if (calDue t).head? = some i then calIssue i t else s
    else s)

end Sys2Proof.Machine
end

