-- ==== Sys2Proof/Machine/Boundary.lean ====
section
/-!
DEFINITION. The LT frame boundary (R19, R501).
-/
namespace Sys2Proof.Machine

open Sys2Proof

/-- Rotation work of a boundary: the decision for the next multiframe boundary, and at a cycle boundary the start of a step (R260, R262); `old` is
the cycle before. -/
def rotBoundary (old : Nat) (s : State) : State :=
  let s1 := if s.lt.frame / 16 ≠ old then rotStart true old (rotStart false old s) else s
  freeDecision true (freeDecision false s1)

/-- Steps 3 to 9. `before` is the state before the protection engine's evaluation, `ready` the connections BUCKLED before the boundary. Pages swap,
connections go LIVE and tiles hand over on multiframe boundaries alone (R17). -/
def boundarySteps (before : State) (ready : List Nat) (s : State) : State :=
  let multi := s.lt.frame % 4 == 0
  let s2 := applyVerified s
  let (l, s3) := landDue s2
  let swaps (ho : Bool) : Bool := l.conns.any (fun w => (keyConn w.key).elim false (fun n => isHo n == ho))
  let s4 := domUpdate (ownerChanges s2 (landMaps l.maps s3))
  let s5 := applyCopies before.dun.copyNext (protApply before s4)
  let s6 := shadowSync false noSeq (if multi then selectorsSettle (pageSwap l.conns s5) else s5)
  let s8 := if multi then tileStep8 true (swaps false) (tileStep8 false (swaps true) (proofStep7 ready s6)) else s6
  foldUpto 64 boundaryWake (calBoundary s8)

/-- Step 2 and what is evaluated with it: the windows of detectors, the flip, DMA credit at a tick, the stripe at a cycle, lane transmitters, the
retention cell. `old` is the frame before; a periodic action that a jump left out is taken now (R501). -/
def statusStep (old : Nat) (s : State) : State :=
  let f := s.lt.frame
  let taken := f / 16 != old / 16
  let tick := f / 8 != old / 8
  let skip := f != old + 1
  let s0 := foldUpto 36 (laneWindow (f / 800 != old / 800) skip) (foldUpto 16 (portWindows tick skip) s)
  let s1 := flipAll s0
  let s2 := if tick then dmaRefill s1 else s1
  let s3 := if taken then stripeStep s2 else s2
  let s4 := foldUpto 36 laneTxBoundary s3
  if taken then { s4 with pwr := { s4.pwr with ret := { s4.pwr.ret with lastFrame := s4.lt.frame } } } else s4

/-- Step 1 of a boundary and the rein's work there; `taken` tells that a cycle boundary occurs, or one that a jump left out is made good (R501). -/
def cycleStep (taken : Bool) (s : State) : State :=
  let s1 := mateCounts taken s
  let s2 := if taken then mateStep1 s1 else s1
  let s3 := if taken then stageBoundary s2 else s2
  pulseOut (if taken then mateSlot s3 else s3)

/-- FRAME_BOUNDARY (R19): the next frame starts. -/
def execFrameBoundary (s : State) : Result :=
  .next (if ¬ alive s then s
    else
      let s1 := lanesShift (linesShift (startFrame s))
      let taken := s1.lt.frame / 16 != s.lt.frame / 16
      let s2 := if s.lt.cutPhase.isSome ∨ s1.lt.frame ≠ s.lt.frame + 1 then monSettleAll s1 else s1
      let ready := buckledConns s2
      let s3 := statusStep s.lt.frame (cycleStep taken s2)
      let s4 := boundarySteps s3 ready (decideCopies (protEvaluate s3))
      let s5 := rotBoundary (s.lt.frame / 16) s4
      if taken then radioCycle (s.lt.frame / 16) s5 else s5)

end Sys2Proof.Machine
end

