-- ==== Sys2Proof/Machine/Flags.lean ====
section
/-!
DEFINITION. The flag computations of Celec (R152, R161 to R163): each operation gives its result and the flags after it.
-/
namespace Sys2Proof.Machine

open Sys2Proof

/-- Z and N of a result; the other flags stay. -/
def Flags.zn (f : Flags) (r : Word) : Flags := { f with z := r == 0, n := r.msb }

/-- A result that sets only Z and N. -/
def znOp (g : Word → Word → Word) (a b : Word) (f : Flags) : Word × Flags := (g a b, f.zn (g a b))

/-- a + b + carry: C carry out, V signed overflow. -/
def addOp (ci : Bool) (a b : Word) (f : Flags) : Word × Flags :=
  let r := a + b + BitVec.ofNat 32 (b2n ci)
  (r, { f.zn r with c := decide (2 ^ 32 ≤ a.toNat + b.toNat + b2n ci), v := decide (a.toInt + b.toInt + (b2n ci : Nat) ≠ r.toInt) })

/-- a − b − borrow: C borrow out, V signed overflow. -/
def subOp (bi : Bool) (a b : Word) (f : Flags) : Word × Flags :=
  let r := a - b - BitVec.ofNat 32 (b2n bi)
  (r, { f.zn r with c := decide (a.toNat < b.toNat + b2n bi), v := decide (a.toInt - b.toInt - (b2n bi : Nat) ≠ r.toInt) })

/-- Shifts and rotates by the low five bits of b; C is the last bit out, unchanged by a shift of 0. -/
def shlOp (a b : Word) (f : Flags) : Word × Flags :=
  let n := b.toNat % 32
  let r := a <<< n
  (r, { f.zn r with c := if n = 0 then f.c else a.getLsbD (32 - n) })
def shrOp (a b : Word) (f : Flags) : Word × Flags :=
  let n := b.toNat % 32
  let r := a >>> n
  (r, { f.zn r with c := if n = 0 then f.c else a.getLsbD (n - 1) })
def sarOp (a b : Word) (f : Flags) : Word × Flags :=
  let n := b.toNat % 32
  let r := a.sshiftRight n
  (r, { f.zn r with c := if n = 0 then f.c else a.getLsbD (n - 1) })
def rorOp (a b : Word) (f : Flags) : Word × Flags :=
  let n := b.toNat % 32
  let r := (a >>> n) ||| (a <<< (32 - n))
  (r, { f.zn r with c := if n = 0 then f.c else r.msb })

/-- MUL: V when the signed product does not fit in 32 bits. -/
def mulOp (a b : Word) (f : Flags) : Word × Flags :=
  let r := a * b
  (r, { f.zn r with v := decide (a.toInt * b.toInt ≠ r.toInt) })

/-- High halves of the products. -/
def mulHu (a b : Word) : Word := BitVec.ofNat 32 (a.toNat * b.toNat / 2 ^ 32)
def mulHs (a b : Word) : Word := BitVec.ofInt 32 (a.toInt * b.toInt / 2 ^ 32)

/-- A division: `v` in its edge case. -/
def divOp (g : Word → Word → Word) (edge : Word → Word → Bool) (a b : Word) (f : Flags) : Word × Flags :=
  (g a b, { f.zn (g a b) with v := edge a b })

/-- Division by zero; also the most negative number by −1. -/
def edgeU (_ b : Word) : Bool := b == 0
def edgeS (a b : Word) : Bool := b == 0 || (a == 0x80000000 && b == 0xFFFFFFFF)

/-- Quotients and remainders with their edge values (R162). -/
def divU (a b : Word) : Word := if b = 0 then 0xFFFFFFFF else BitVec.ofNat 32 (a.toNat / b.toNat)
def remU (a b : Word) : Word := if b = 0 then a else BitVec.ofNat 32 (a.toNat % b.toNat)
def divS (a b : Word) : Word := if b = 0 then 0xFFFFFFFF else BitVec.ofInt 32 (a.toInt.tdiv b.toInt)
def remS (a b : Word) : Word := if b = 0 then a else BitVec.ofInt 32 (a.toInt.tmod b.toInt)

/-- Minima and maxima. -/
def minS (a b : Word) : Word := if a.toInt ≤ b.toInt then a else b
def maxS (a b : Word) : Word := if a.toInt ≤ b.toInt then b else a
def minU (a b : Word) : Word := if a.toNat ≤ b.toNat then a else b
def maxU (a b : Word) : Word := if a.toNat ≤ b.toNat then b else a

/-- Leading zeros, set bits, byte order reversed. -/
def clzOf (a : Word) : Word := BitVec.ofNat 32 (if a = 0 then 32 else 31 - a.toNat.log2)
def popcOf (a : Word) : Word := BitVec.ofNat 32 (setPositions 32 a.toNat).length
def bswapOf (a : Word) : Word :=
  BitVec.ofNat 32 (bits a.toNat 24 8 + 2 ^ 8 * bits a.toNat 16 8 + 2 ^ 16 * bits a.toNat 8 8 + 2 ^ 24 * bits a.toNat 0 8)

/-- TST: the flags of a and b, and T. -/
def tstFlags (a b : Word) (f : Flags) : Flags := { f.zn (a &&& b) with t := (a &&& b) != 0 }

/-- A condition (R161). -/
def condHolds (c : BitVec 4) (f : Flags) : Bool :=
  match c.toNat with
  | 0 => f.z
  | 1 => !f.z
  | 2 => f.c
  | 3 => !f.c
  | 4 => f.n
  | 5 => !f.n
  | 6 => f.t
  | 7 => !f.t
  | 8 => !f.c && !f.z
  | 9 => f.c || f.z
  | 10 => f.n != f.v
  | 11 => f.n == f.v
  | 12 => !f.z && f.n == f.v
  | 13 => f.z || f.n != f.v
  | 14 => f.v
  | _ => true

end Sys2Proof.Machine
end

