-- ==== Sys2Proof/Machine/Operands.lean ====
section
/-!
DEFINITION. Operand forms of Celec: effective addresses, the address spaces of a strand and the checks that trap (R156, R164 to R167, R182).
-/
namespace Sys2Proof.Machine

open Sys2Proof

/-- Why an access traps: code, detail, address, and for an ECC trap the SRAM bank whose fault source it reports (R182). -/
structure Fails where
  code : Nat
  detail : Nat
  addr : Nat
  bank : Option Nat

/-- EA = (ra + sext(imm16)) mod 2^32 (R164). -/
def effAddr (t : Strand) (ra : BitVec 4) (imm : BitVec 16) : Nat := (t.reg ra.toNat + imm.signExtend 32).toNat

/-- A misaligned address of a space: 0 data, 1 scratch, 2 object, 3 register, 4 code. -/
def alignFail (space size a : Nat) : Option Fails := if a % size = 0 then none else some ⟨2, space, a, none⟩

/-- A read of the byte at SRAM address `p`, address `a` of a space, meets an uncorrectable error (R182); a bank has 2 MiB. -/
def eccFail (s : State) (space a p : Nat) : Option Fails := if wordBad s p then some ⟨8, space, a, some (p / 0x200000)⟩ else none

/-- A data byte that a load, or a store, may not reach, or that a load finds in error. -/
def dataFail (s : State) (seat : Nat) (wr : Bool) (a : Nat) : Option Fails :=
  if (dataPhys s seat a).isNone ∨ (wr ∧ ¬ dataWritable s seat a) then some ⟨4, a / 4096, a, none⟩
  else if wr then none else (dataPhys s seat a).bind (fun p => eccFail s 0 a p)

/-- Where a strand's scratch page lies (R198). -/
def scratchBase (n : Nat) : Nat := 4096 * (0xF80 + n)

/-- A scratch byte out of range. -/
def scratchFail (a : Nat) : Option Fails := if 0x1000 ≤ a then some ⟨5, 0, a, none⟩ else none

/-- A scratch byte that a load may not reach or finds in error. -/
def scratchReadFail (s : State) (n a : Nat) : Option Fails := (scratchFail a).orElse (fun _ => eccFail s 1 a (scratchBase n + a))

/-- The first failing of `n` bytes from an address on. -/
def firstFail (f : Nat → Option Fails) (a n : Nat) : Option Fails := (List.range n).findSome? (fun k => f ((a + k) % 2 ^ 32))

/-- `n` bytes of data memory as a load or store, or a request's descriptor, needs them: word alignment, then the pages (R164, R176). -/
def dataCheck (s : State) (seat : Nat) (wr : Bool) (size a n : Nat) : Option Fails :=
  (alignFail 0 size a).orElse (fun _ => firstFail (dataFail s seat wr) a n)

/-- The bytes of data memory as a number, least significant first; unreadable bytes do not occur after a check. -/
def dataVal (s : State) (seat a n : Nat) : Nat := bytesVal ((dataRead s seat a n).getD [])

/-- Bytes are stored in data memory: byte by byte, and carried to the twin when the page is mirrored. -/
def dataStore (seat a : Nat) : List Byte → State → State
  | [], s => s
  | b :: bs, s =>
      match dataPhys s seat a with
      | some p => dataStore seat (a + 1) bs (sramSet s p b)
      | none => dataStore seat (a + 1) bs s

/-- A store of some bytes of one page, and its delta. -/
def dataPutPage (seat a : Nat) (bs : List Byte) (s : State) : State :=
  match dataPhys s seat a with
  | some p => mirrorSram p bs.length (dataStore seat a bs s)
  | none => s

/-- A store of up to a page of bytes. -/
def dataPut (seat a : Nat) (bs : List Byte) (s : State) : State :=
  let m := 4096 - a % 4096
  if bs.length ≤ m then dataPutPage seat a bs s else dataPutPage seat (a + m) (bs.drop m) (dataPutPage seat a (bs.take m) s)

/-- The object map entry that an object address falls under (R93); 0 where none does. -/
def objMapEntry (a : Nat) : Nat :=
  match connOfAddr a with
  | some num => if xLine (connX num) then xPort (connX num) else 16 + 2 * xPort (connX num)
  | none => if 0x440000 ≤ a ∧ a < 0x440200 then (a - 0x440000) / 32 else 0

/-- A strand as an agent: its Seat, path 3, its physical number (R129). -/
def strandAgent (s : State) (n : Nat) : Agent := ⟨strandSeat s n, 3, n⟩

/-- An object word that an OLD or a block read may not reach: beyond the space, or NOT_FITTED. -/
def objFail (s : State) (seat a : Nat) : Option Fails :=
  if 0x1000000 ≤ a ∨ (objWord s seat (a / 4 * 4) false).isNone then some ⟨6, objMapEntry a, a, none⟩ else none

/-- A connection number that a Seat may write: OWNED, or its own connection at an output that it has lost (R102, R238). -/
def connReach (s : State) (seat num : Nat) : Bool :=
  (connPhys s seat num true).isSome
    || ((connRead s seat num).any (fun n => (connAt s n).holder == some seat))

/-- An object address that OST may not write: NOT_FITTED or OBSERVED; an unassigned number never traps (R165, R240). -/
def objWriteFail (s : State) (a : Agent) (addr : Nat) : Option Fails :=
  let bad : Bool :=
    if 0x1000000 ≤ addr then true
    else match connOfAddr addr with
      | some num => connAssigned num && !connReach s a.seat num
      | none => (objWrite a addr 0 s).1.isNone
  if bad then some ⟨6, objMapEntry addr, addr, none⟩ else none

end Sys2Proof.Machine
end

