-- ==== Sys2Proof/Machine/CelecCore.lean ====
section
/-!
DEFINITION. The issue of a Celec instruction (R151, R159, R173, R182, R190, R191): the fetch check, the reserved fields, its end, its stall.
An instruction of a strand that does not hold its cluster's issue slot has no effect.
-/
namespace Sys2Proof.Machine

open Sys2Proof

/-- The instruction after this one; the code space is 4 MiB (R151, R181). -/
def nextPc (pc : Word) : Word := (pc + 4) &&& 0x3FFFFC

/-- The page that a strand fetches from is VALID (R156). -/
def fetchValid (s : State) (n : Nat) : Bool :=
  let e := codePage s (strandSeat s n) ((strandAt s n).pc.toNat / 4096)
  e.valid && decide (e.phys ≤ 0xF7F)

/-- The fetch of a strand meets an uncorrectable error (R182). -/
def fetchEcc (s : State) (n : Nat) : Option Fails :=
  let pc := (strandAt s n).pc.toNat
  eccFail s 4 pc (4096 * (codePage s (strandSeat s n) (pc / 4096)).phys + pc % 4096)

/-- The strand holds the issue slot of its cluster. -/
def issues (s : State) (n : Nat) : Bool := alive s && (strandAt s n).mode == .running

/-- Trap with a failed check; an ECC trap also reports the SRAM fault source of its bank (R182). -/
def trapFail (k : Nat) (wr : Bool) (f : Fails) (s : State) : State :=
  let t := trapStrand k f.code f.detail f.addr wr s
  match f.bank with
  | some b => Sys2Proof.Machine.faultRaise (24 + b) t
  | none => t

/-- Issue an instruction: CODE_MAP or ECC where the fetch fails, ILLEGAL where the word spells none or a reserved field is nonzero, else what it
does. -/
def celec (n : BitVec 6) (unassigned : Option Nat) (op : Nat) (bad : Bool) (body : Nat → State → State) (s : State) : Result :=
  let k := n.toNat
  .next (if ¬ issues s k then s
    else if ¬ fetchValid s k then trapStrand k 3 0 (strandAt s k).pc.toNat false s
    else
      match fetchEcc s k with
      | some f => trapFail k false f s
      | none =>
        match unassigned with
        | some o => trapStrand k 1 o 0 false s
        | none => if bad then trapStrand k 1 op 0 false s else body k s)

/-- ILLEGAL of an instruction whose operand value is not allowed (R182). -/
def illegal (k op : Nat) (s : State) : State := trapStrand k 1 op 0 false s

/-- Go on when a check has passed; else trap. -/
def checked (k : Nat) (wr : Bool) (c : Option Fails) (go : State → State) (s : State) : State :=
  match c with
  | some f => trapFail k wr f s
  | none => go s

/-- The instruction completes: its results, the next pc, a landing point (R190). -/
def retire (k : Nat) (f : Strand → Strand) (s : State) : State :=
  reschedule (k / 8) (modStrand k (fun t => { f t with pc := nextPc t.pc }) s)

/-- Control moves to a target. -/
def jumpTo (k : Nat) (target : Word) (f : Strand → Strand) (s : State) : State :=
  reschedule (k / 8) (modStrand k (fun t => { f t with pc := target }) s)

/-- The strand gives up the slot in a mode, behind the instruction. -/
def park (k : Nat) (m : StrandMode) (f : Strand → Strand) (s : State) : State :=
  reschedule (k / 8) (modStrand k (fun t => { f t with mode := m, pc := nextPc t.pc }) s)

/-- The strand stalls until a result is known (R173). -/
def stallFor (k : Nat) (r : StallResult) (s : State) : State := park k .stalled (fun t => { t with stall := some r }) s

/-- The strand waits (R174). -/
def waitFor (k : Nat) (w : Wait) (s : State) : State := park k .waiting (fun t => { t with wait := some w }) s

/-- An outcome word (R155). -/
def outcomeWord (code detail count : Nat) : Word := BitVec.ofNat 32 (code + 256 * (detail % 256) + 65536 * (count % 65536))

/-- T after a request (R152). -/
def outcomeT (code : Nat) : Bool := decide (code < 0x10)

/-- A request ends: its outcome word and T when the stall ends (R155, R176). -/
def answer (k : Nat) (rd : BitVec 4) (code detail count : Nat) (s : State) : State :=
  stallFor k ⟨rd.toNat, outcomeWord code detail count, some (outcomeT code), none⟩ s

/-- The same, with the outcome counted for the Seat (R486). -/
def answerCounted (k : Nat) (rd : BitVec 4) (code detail count : Nat) (s : State) : State :=
  answer k rd code detail count (countOutcome (strandSeat s k) code s)

/-- A general register of a strand. -/
def regOf (s : State) (k : Nat) (r : BitVec 4) : Word := (strandAt s k).reg r.toNat

end Sys2Proof.Machine
end

