-- ==== Sys2Proof/Machine/CelecAlu.lean ====
section
/-!
DEFINITION. Arithmetic and logic of Celec (R162, R163).
-/
namespace Sys2Proof.Machine

open Sys2Proof

/-- Op 0x01: rd := ra op rb, with the flags of the operation. -/
def aluA (n : BitVec 6) (f : FormA) (bad : Bool) (g : Word → Word → Flags → Word × Flags) (s : State) : Result :=
  celec n f.unassigned 0x01 bad (fun k => retire k (fun t =>
    let (r, fl) := g (t.reg f.ra.toNat) (t.reg f.rb.toNat) t.flags
    { t.setReg f.rd.toNat r with flags := fl })) s

/-- The immediate forms: rd := ra op the immediate. -/
def aluI (n : BitVec 6) (op : Nat) (f : FormI) (bad : Bool) (imm : Word) (g : Word → Word → Flags → Word × Flags) (s : State) : Result :=
  celec n f.unassigned op bad (fun k => retire k (fun t =>
    let (r, fl) := g (t.reg f.ra.toNat) imm t.flags
    { t.setReg f.rd.toNat r with flags := fl })) s

/-- aux is reserved; rb as well; rd as well. -/
def auxBad (f : FormA) : Bool := f.aux != 0
def auxRbBad (f : FormA) : Bool := f.aux != 0 || f.rb != 0
def auxRdBad (f : FormA) : Bool := f.aux != 0 || f.rd != 0

/-- sext and zext of the immediate; the shift immediate, whose upper bits are reserved. -/
def sextImm (f : FormI) : Word := f.imm.signExtend 32
def zextImm (f : FormI) : Word := f.imm.zeroExtend 32
def shiftBad (f : FormI) : Bool := decide (32 ≤ f.imm.toNat)

/-- ADD: rd := ra + rb. -/
def execAdd (n : BitVec 6) (f : FormA) (s : State) : Result := aluA n f (auxBad f) (addOp false) s

/-- ADC: rd := ra + rb + C. -/
def execAdc (n : BitVec 6) (f : FormA) (s : State) : Result := aluA n f (auxBad f) (fun a b fl => addOp fl.c a b fl) s

/-- SUB: rd := ra − rb. -/
def execSub (n : BitVec 6) (f : FormA) (s : State) : Result := aluA n f (auxBad f) (subOp false) s

/-- SBC: rd := ra − rb − C. -/
def execSbc (n : BitVec 6) (f : FormA) (s : State) : Result := aluA n f (auxBad f) (fun a b fl => subOp fl.c a b fl) s

/-- AND. -/
def execAnd (n : BitVec 6) (f : FormA) (s : State) : Result := aluA n f (auxBad f) (znOp (· &&& ·)) s

/-- OR. -/
def execOr (n : BitVec 6) (f : FormA) (s : State) : Result := aluA n f (auxBad f) (znOp (· ||| ·)) s

/-- XOR. -/
def execXor (n : BitVec 6) (f : FormA) (s : State) : Result := aluA n f (auxBad f) (znOp (· ^^^ ·)) s

/-- ANDN: ra and not rb. -/
def execAndn (n : BitVec 6) (f : FormA) (s : State) : Result := aluA n f (auxBad f) (znOp (fun a b => a &&& ~~~b)) s

/-- SHL. -/
def execShl (n : BitVec 6) (f : FormA) (s : State) : Result := aluA n f (auxBad f) shlOp s

/-- SHR. -/
def execShr (n : BitVec 6) (f : FormA) (s : State) : Result := aluA n f (auxBad f) shrOp s

/-- SAR. -/
def execSar (n : BitVec 6) (f : FormA) (s : State) : Result := aluA n f (auxBad f) sarOp s

/-- ROR. -/
def execRor (n : BitVec 6) (f : FormA) (s : State) : Result := aluA n f (auxBad f) rorOp s

/-- MUL. -/
def execMul (n : BitVec 6) (f : FormA) (s : State) : Result := aluA n f (auxBad f) mulOp s

/-- MULHU. -/
def execMulhu (n : BitVec 6) (f : FormA) (s : State) : Result := aluA n f (auxBad f) (znOp mulHu) s

/-- MULHS. -/
def execMulhs (n : BitVec 6) (f : FormA) (s : State) : Result := aluA n f (auxBad f) (znOp mulHs) s

/-- DIVU. -/
def execDivu (n : BitVec 6) (f : FormA) (s : State) : Result := aluA n f (auxBad f) (divOp divU edgeU) s

/-- REMU. -/
def execRemu (n : BitVec 6) (f : FormA) (s : State) : Result := aluA n f (auxBad f) (divOp remU edgeU) s

/-- DIVS. -/
def execDivs (n : BitVec 6) (f : FormA) (s : State) : Result := aluA n f (auxBad f) (divOp divS edgeS) s

/-- REMS. -/
def execRems (n : BitVec 6) (f : FormA) (s : State) : Result := aluA n f (auxBad f) (divOp remS edgeS) s

/-- MINS. -/
def execMins (n : BitVec 6) (f : FormA) (s : State) : Result := aluA n f (auxBad f) (znOp minS) s

/-- MAXS. -/
def execMaxs (n : BitVec 6) (f : FormA) (s : State) : Result := aluA n f (auxBad f) (znOp maxS) s

/-- MINU. -/
def execMinu (n : BitVec 6) (f : FormA) (s : State) : Result := aluA n f (auxBad f) (znOp minU) s

/-- MAXU. -/
def execMaxu (n : BitVec 6) (f : FormA) (s : State) : Result := aluA n f (auxBad f) (znOp maxU) s

/-- CLZ: rb must be 0. -/
def execClz (n : BitVec 6) (f : FormA) (s : State) : Result := aluA n f (auxRbBad f) (znOp (fun a _ => clzOf a)) s

/-- POPC: rb must be 0. -/
def execPopc (n : BitVec 6) (f : FormA) (s : State) : Result := aluA n f (auxRbBad f) (znOp (fun a _ => popcOf a)) s

/-- BSWAP: rb must be 0. -/
def execBswap (n : BitVec 6) (f : FormA) (s : State) : Result := aluA n f (auxRbBad f) (znOp (fun a _ => bswapOf a)) s

/-- CMP: the flags of ra − rb; rd must be 0. -/
def execCmp (n : BitVec 6) (f : FormA) (s : State) : Result := aluA n f (auxRdBad f) (subOp false) s

/-- TST: the flags of ra and rb; rd must be 0. -/
def execTst (n : BitVec 6) (f : FormA) (s : State) : Result := aluA n f (auxRdBad f) (fun a b fl => (0, tstFlags a b fl)) s

/-- CSEL: rd := ra when the condition of aux[3:0] holds, else rb. -/
def execCsel (n : BitVec 6) (f : FormA) (s : State) : Result :=
  aluA n f (decide (16 ≤ f.aux.toNat)) (fun a b fl => (if condHolds (f.aux.extractLsb' 0 4) fl then a else b, fl)) s

/-- ADDI: rd := ra + sext(imm16). -/
def execAddi (n : BitVec 6) (f : FormI) (s : State) : Result := aluI n 0x02 f false (sextImm f) (addOp false) s

/-- CMPI: the flags of ra − sext(imm16); rd must be 0. -/
def execCmpi (n : BitVec 6) (f : FormI) (s : State) : Result := aluI n 0x03 f (f.rd != 0) (sextImm f) (subOp false) s

/-- ANDI. -/
def execAndi (n : BitVec 6) (f : FormI) (s : State) : Result := aluI n 0x04 f false (zextImm f) (znOp (· &&& ·)) s

/-- ORI. -/
def execOri (n : BitVec 6) (f : FormI) (s : State) : Result := aluI n 0x05 f false (zextImm f) (znOp (· ||| ·)) s

/-- XORI. -/
def execXori (n : BitVec 6) (f : FormI) (s : State) : Result := aluI n 0x06 f false (zextImm f) (znOp (· ^^^ ·)) s

/-- SHLI: imm16[15:5] must be 0. -/
def execShli (n : BitVec 6) (f : FormI) (s : State) : Result := aluI n 0x07 f (shiftBad f) (zextImm f) shlOp s

/-- SHRI. -/
def execShri (n : BitVec 6) (f : FormI) (s : State) : Result := aluI n 0x07 f (shiftBad f) (zextImm f) shrOp s

/-- SARI. -/
def execSari (n : BitVec 6) (f : FormI) (s : State) : Result := aluI n 0x07 f (shiftBad f) (zextImm f) sarOp s

/-- RORI. -/
def execRori (n : BitVec 6) (f : FormI) (s : State) : Result := aluI n 0x07 f (shiftBad f) (zextImm f) rorOp s

/-- LUI: rd := imm16 << 16; ra must be 0; no flags. -/
def execLui (n : BitVec 6) (f : FormI) (s : State) : Result := aluI n 0x08 f (f.ra != 0) (zextImm f <<< 16) (fun _ b fl => (b, fl)) s

end Sys2Proof.Machine
end

