-- ==== Sys2Proof/Machine/CelecMem.lean ====
section
/-!
DEFINITION. Loads, stores, atomics, object and register accesses of Celec (R157, R164 to R168).
-/
namespace Sys2Proof.Machine

open Sys2Proof

/-- A data load of `size` bytes; `ext` extends the value to a word. -/
def dataLoad (n : BitVec 6) (op size : Nat) (f : FormI) (ext : Nat → Word) (s : State) : Result :=
  celec n f.unassigned op false (fun k s =>
    let seat := strandSeat s k
    let ea := effAddr (strandAt s k) f.ra f.imm
    checked k false (dataCheck s seat false size ea size)
      (retire k (fun t => t.setReg f.rd.toNat (ext (dataVal s seat ea size)))) s) s

/-- A data store of the low `size` bytes of rd. -/
def dataStoreOp (n : BitVec 6) (size : Nat) (f : FormI) (s : State) : Result :=
  celec n f.unassigned 0x12 false (fun k s =>
    let seat := strandSeat s k
    let ea := effAddr (strandAt s k) f.ra f.imm
    checked k true (dataCheck s seat true size ea size)
      (fun s => retire k id (dataPut seat ea (toBytes size (regOf s k f.rd).toNat) s)) s) s

/-- A scratch store's checks: alignment, then range. -/
def scratchCheck (size ea : Nat) : Option Fails := (alignFail 1 size ea).orElse (fun _ => scratchFail ea)

/-- A scratch load, zero-extending. -/
def scratchLoad (n : BitVec 6) (size : Nat) (f : FormI) (s : State) : Result :=
  celec n f.unassigned 0x13 false (fun k s =>
    let ea := effAddr (strandAt s k) f.ra f.imm
    checked k false ((alignFail 1 size ea).orElse (fun _ => firstFail (scratchReadFail s k) ea size))
      (retire k (fun t => t.setReg f.rd.toNat (BitVec.ofNat 32 (bytesVal (sramRead s (scratchBase k + ea) size))))) s) s

/-- A scratch store. -/
def scratchStore (n : BitVec 6) (size : Nat) (f : FormI) (s : State) : Result :=
  celec n f.unassigned 0x14 false (fun k s =>
    let ea := effAddr (strandAt s k) f.ra f.imm
    checked k true (scratchCheck size ea)
      (fun s => retire k id (sramWrite s (scratchBase k + ea) (toBytes size (regOf s k f.rd).toNat))) s) s

/-- Zero- and sign-extension of a loaded value. -/
def zeroExt (v : Nat) : Word := BitVec.ofNat 32 v
def signExt (w v : Nat) : Word := BitVec.ofInt 32 (sgn w v)

/-- LD.W. -/
def execLdW (n : BitVec 6) (f : FormI) (s : State) : Result := dataLoad n 0x10 4 f zeroExt s

/-- LD.HU. -/
def execLdHu (n : BitVec 6) (f : FormI) (s : State) : Result := dataLoad n 0x10 2 f zeroExt s

/-- LD.BU. -/
def execLdBu (n : BitVec 6) (f : FormI) (s : State) : Result := dataLoad n 0x10 1 f zeroExt s

/-- LDS.H. -/
def execLdsH (n : BitVec 6) (f : FormI) (s : State) : Result := dataLoad n 0x11 2 f (signExt 16) s

/-- LDS.B. -/
def execLdsB (n : BitVec 6) (f : FormI) (s : State) : Result := dataLoad n 0x11 1 f (signExt 8) s

/-- ST.W. -/
def execStW (n : BitVec 6) (f : FormI) (s : State) : Result := dataStoreOp n 4 f s

/-- ST.H: rd[15:0]. -/
def execStH (n : BitVec 6) (f : FormI) (s : State) : Result := dataStoreOp n 2 f s

/-- ST.B: rd[7:0]. -/
def execStB (n : BitVec 6) (f : FormI) (s : State) : Result := dataStoreOp n 1 f s

/-- LDX.W. -/
def execLdxW (n : BitVec 6) (f : FormI) (s : State) : Result := scratchLoad n 4 f s

/-- LDX.HU. -/
def execLdxHu (n : BitVec 6) (f : FormI) (s : State) : Result := scratchLoad n 2 f s

/-- LDX.BU. -/
def execLdxBu (n : BitVec 6) (f : FormI) (s : State) : Result := scratchLoad n 1 f s

/-- STX.W. -/
def execStxW (n : BitVec 6) (f : FormI) (s : State) : Result := scratchStore n 4 f s

/-- STX.H. -/
def execStxH (n : BitVec 6) (f : FormI) (s : State) : Result := scratchStore n 2 f s

/-- STX.B. -/
def execStxB (n : BitVec 6) (f : FormI) (s : State) : Result := scratchStore n 1 f s

/-- OLD: a word of object space; the strand stalls until it arrives (R164, R173, R245). -/
def execOld (n : BitVec 6) (f : FormI) (s : State) : Result :=
  celec n f.unassigned 0x15 false (fun k s =>
    let ea := effAddr (strandAt s k) f.ra f.imm
    checked k false ((alignFail 2 4 ea).orElse (fun _ => if 0x1000000 ≤ ea then some ⟨6, 0, ea, none⟩ else none))
      (fun s =>
        match objRead (strandAgent s k) ea s with
        | (some v, t) => stallFor k ⟨f.rd.toNat, BitVec.ofNat 32 v, none, none⟩ t
        | (none, _) => trapFail k false ⟨6, objMapEntry ea, ea, none⟩ s) s) s

/-- OST: a word of object space; the outcome word in rd (R165, R243). -/
def execOst (n : BitVec 6) (f : FormA) (s : State) : Result :=
  celec n f.unassigned 0x16 (auxBad f) (fun k s =>
    let a := strandAgent s k
    let ea := (regOf s k f.ra).toNat
    checked k true ((alignFail 2 4 ea).orElse (fun _ => objWriteFail s a ea))
      (fun s =>
        let (o, t) := objWrite a ea (regOf s k f.rb).toNat (dropKeyLoad (apertureOff ea) s)
        answerCounted k f.rd (o.getD oDone) 0 0 t) s) s

/-- The checks of a register access that do not depend on the register: alignment, then the end of register space (R167). -/
def regAccessCheck (ea : Nat) : Option Fails := (alignFail 3 4 ea).orElse (fun _ => if 0x800000 ≤ ea then some ⟨7, 0, ea, none⟩ else none)

/-- RLD: a register of the Seat window (R154, R167). -/
def execRld (n : BitVec 6) (f : FormI) (s : State) : Result :=
  celec n f.unassigned 0x18 false (fun k s =>
    let ea := effAddr (strandAt s k) f.ra f.imm
    checked k false (regAccessCheck ea)
      (fun s =>
        match seatRead (strandAgent s k) ea s with
        | (some v, t) => stallFor k ⟨f.rd.toNat, BitVec.ofNat 32 v, none, none⟩ t
        | (none, _) => trapFail k false ⟨7, 0, ea, none⟩ s) s) s

/-- A register write of a strand reaches hardware that it may not write: a connection in the window as OST, any other as a host path (R167). -/
def rstFail (s : State) (a : Agent) (ea : Nat) : Bool :=
  if isObjOff ea then (objWriteFail s a ea).isSome else (regWrite a ea 0 s).1.isNone

/-- RST: a register of the Seat window; the outcome word in rd (R167, R168). -/
def execRst (n : BitVec 6) (f : FormA) (s : State) : Result :=
  celec n f.unassigned 0x19 (auxBad f) (fun k s =>
    let a := strandAgent s k
    let ea := (regOf s k f.ra).toNat
    checked k true ((regAccessCheck ea).orElse (fun _ => if rstFail s a ea then some ⟨7, 0, ea, none⟩ else none))
      (fun s =>
        let (o, t) := seatWrite a ea 0xF (regOf s k f.rb).toNat s
        answerCounted k f.rd (o.getD oDone) 0 0 t) s) s

/-- An atomic on the data word at ra: `g old rd rb` gives the word to be written, none to leave it, and T when it is written (R166). -/
def atomic (n : BitVec 6) (f : FormA) (g : Word → Word → Word → Option Word) (setsT : Bool) (s : State) : Result :=
  celec n f.unassigned 0x1A (auxBad f) (fun k s =>
    let seat := strandSeat s k
    let ea := (regOf s k f.ra).toNat
    checked k true ((dataCheck s seat true 4 ea 4).orElse (fun _ => firstFail (dataFail s seat false) ea 4))
      (fun s =>
        let old := BitVec.ofNat 32 (dataVal s seat ea 4)
        let new := g old (regOf s k f.rd) (regOf s k f.rb)
        let s1 := match new with
          | some w => dataPut seat ea (toBytes 4 w.toNat) s
          | none => s
        retire k (fun t => (if setsT then t.setT new.isSome else t).setReg f.rd.toNat old) s1) s) s

/-- AADD. -/
def execAadd (n : BitVec 6) (f : FormA) (s : State) : Result := atomic n f (fun old _ b => some (old + b)) false s

/-- AAND. -/
def execAand (n : BitVec 6) (f : FormA) (s : State) : Result := atomic n f (fun old _ b => some (old &&& b)) false s

/-- AOR. -/
def execAor (n : BitVec 6) (f : FormA) (s : State) : Result := atomic n f (fun old _ b => some (old ||| b)) false s

/-- AXOR. -/
def execAxor (n : BitVec 6) (f : FormA) (s : State) : Result := atomic n f (fun old _ b => some (old ^^^ b)) false s

/-- ASWP. -/
def execAswp (n : BitVec 6) (f : FormA) (s : State) : Result := atomic n f (fun _ _ b => some b) false s

/-- AMINU. -/
def execAminu (n : BitVec 6) (f : FormA) (s : State) : Result := atomic n f (fun old _ b => some (minU old b)) false s

/-- AMAXU. -/
def execAmaxu (n : BitVec 6) (f : FormA) (s : State) : Result := atomic n f (fun old _ b => some (maxU old b)) false s

/-- CAS: the word is written when it equals rd. -/
def execCas (n : BitVec 6) (f : FormA) (s : State) : Result := atomic n f (fun old d b => if old = d then some b else none) true s

end Sys2Proof.Machine
end

