-- ==== Sys2Proof/Machine/CelecBlock.lean ====
section
/-!
DEFINITION. The block operations BLKMOV and CSETN (R169 to R172): they go unit by unit, count the units in s.prog, stop at a progress point when the
strand loses the slot (`stopAfter` units on), and trap inside a unit that then changes nothing.
-/
namespace Sys2Proof.Machine

open Sys2Proof

/-- How a run of units ends. -/
inductive BlockEnd where
  /-- Every unit is done. -/
  | complete
  /-- Stopped at a progress point. -/
  | paused
  /-- A unit fails a check; the access that fails is a write. -/
  | trap (f : Fails) (wr : Bool)
  /-- The operation ends with a refusal at this unit. -/
  | refused (code : Nat)

/-- s.prog of a strand. -/
def setProg (k v : Nat) (s : State) : State := modStrand k (fun t => { t with prog := BitVec.ofNat 32 v }) s

/-- A block operation may start: at s.epc, or with nothing interrupted (R170). -/
def progConflict (s : State) (k : Nat) : Bool :=
  let t := strandAt s k
  t.prog != 0 && t.epc != t.pc

/-- Units from unit `i` on: `one i` does unit `i`, or says why not. At most `limit` of them in this issue. -/
def runUnits (one : Nat → State → Except BlockEnd State) (total : Nat) : (limit : Nat) → (i : Nat) → State → Nat × BlockEnd × State
  | 0, i, s => (i, if total ≤ i then .complete else .paused, s)
  | limit + 1, i, s =>
      if total ≤ i then (i, .complete, s)
      else
        match one i s with
        | .ok t => runUnits one total limit (i + 1) t
        | .error e => (i, e, s)

/-- The state that the end of a run works on: a trap in the first unit has changed no block state, so the word that the strand holds for an object
write stands as well (R182). -/
def afterUnits (e : BlockEnd) (start done : Nat) (s t : State) : State :=
  match e with
  | .trap _ _ => if done = start then s else t
  | _ => t

/-- The units that this issue may do. -/
def unitLimit (total : Nat) (stopAfter : Option Nat) : Nat :=
  match stopAfter with
  | some m => max 1 m
  | none => total

/-- The end of a run after `done` in the units of s.prog. -/
def endBlock (k : Nat) (e : BlockEnd) (prog : Nat) (finish : BlockEnd → State → State) (s : State) : State :=
  match e with
  | .paused => reschedule (k / 8) (modStrand k (fun t => { t with prog := BitVec.ofNat 32 prog, epc := t.pc }) s)
  | .trap f wr => trapFail k wr f (setProg k prog s)
  | e => finish e (setProg k 0 s)

/-- A byte that a block copy may not read or write: the check of the matching load or store. -/
def spaceFail (s : State) (k seat space : Nat) (wr : Bool) (a : Nat) : Option Fails :=
  match space with
  | 0 => dataFail s seat wr a
  | 1 => if wr then scratchFail a else scratchReadFail s k a
  | _ => objFail s seat a

/-- The bytes of a unit at its source. -/
def spaceBytes (s : State) (k seat space a n : Nat) : List Byte :=
  match space with
  | 0 => (dataRead s seat a n).getD []
  | 1 => sramRead s (scratchBase k + a) n
  | _ => (objBytes s seat a (n / 4)).getD []

/-- Put a unit at its destination. -/
def spacePut (k seat space a : Nat) (bs : List Byte) (s : State) : State :=
  if space = 0 then dataPut seat a bs s else sramWrite s (scratchBase k + a) bs

/-- Unit `i` of a copy of `len` bytes: 64 bytes, the last one shorter; from the high end when `down`. -/
def blkUnit (k seat sp dp src dst len : Nat) (down : Bool) (i : Nat) (s : State) : Except BlockEnd State :=
  let n := min 64 (len - 64 * i)
  let o := if down then len - 64 * i - n else 64 * i
  let sa := (src + o) % 2 ^ 32
  let da := (dst + o) % 2 ^ 32
  match firstFail (spaceFail s k seat sp false) sa n with
  | some f => .error (.trap f false)
  | none =>
      match firstFail (spaceFail s k seat dp true) da n with
      | some f => .error (.trap f true)
      | none => .ok (spacePut k seat dp da (spaceBytes s k seat sp sa n) s)

/-- Spaces of BLKMOV: reserved values and bits. -/
def blkBad (f : FormA) : Bool :=
  decide (16 ≤ f.aux.toNat) || bits f.aux.toNat 0 2 == 3 || decide (2 ≤ bits f.aux.toNat 2 2)

/-- BLKMOV (R171). s.prog counts bytes. DESIGN CHOICE (entry 57): an s.prog inside a unit counts that unit as done; a misaligned object address
traps ALIGN also where rb = 0. -/
def execBlkmov (n : BitVec 6) (f : FormA) (stopAfter : Option Nat) (s : State) : Result :=
  celec n f.unassigned 0x1C (blkBad f) (fun k s =>
    let seat := strandSeat s k
    let sp := bits f.aux.toNat 0 2
    let dp := bits f.aux.toNat 2 2
    let src := (regOf s k f.ra).toNat
    let dst := (regOf s k f.rd).toNat
    let len := (regOf s k f.rb).toNat
    let total := (len + 63) / 64
    let down := decide (sp = dp ∧ src < dst ∧ dst < src + len)
    if progConflict s k then trapStrand k 0xA 0 (strandAt s k).pc.toNat false s
    else if 0x40000 < len then trapStrand k 9 0x1C 0 false s
    else
      checked k false (if sp = 2 then (alignFail 2 4 src).orElse (fun _ => if len % 4 = 0 then none else some ⟨2, 2, src, none⟩) else none)
        (fun s =>
          let s0 := if sp = 2 then touch (strandAgent s k) none s else s
          let start := ((strandAt s k).prog.toNat + 63) / 64
          let (i, e, t) := runUnits (blkUnit k seat sp dp src dst len down) total (unitLimit total stopAfter) start s0
          endBlock k e (64 * i) (fun _ u => retire k id u) (afterUnits e start i s t)) s) s

/-- Offset in data memory of entry `i` of a run that starts at connection `c`: eight bytes each high-order entry, four each low-order one. -/
def entryOffset (c i : Nat) : Nat :=
  let hi := if c < 8192 then min i (8192 - c) else 0
  8 * hi + 4 * (i - hi)

/-- Bytes of an entry. -/
def entrySize (num : Nat) : Nat := if isHo num then 8 else 4

/-- The connection of an aligned object address; a high-order entry is eight bytes. -/
def connAligned (a : Nat) : Option Fails := alignFail 2 (if isHoAddr a then 8 else 4) a

/-- Object addresses that lie in no object (R510). -/
def noObject (a : Nat) : Bool :=
  !(isConnAddr a || decide ((0x400000 ≤ a ∧ a < 0x408000) ∨ (0x410000 ≤ a ∧ a < 0x430000) ∨ (0x440000 ≤ a ∧ a < 0x440200)
    ∨ (0x450000 ≤ a ∧ a < 0x458000)))

/-- Entry `i` of a CSETN from object address `a` and data address `d`. -/
def csetUnit (k seat a d : Nat) (i : Nat) (s : State) : Except BlockEnd State :=
  let who := strandAgent s k
  match connOfAddr a with
  | none => if noObject a then .error (.trap ⟨6, 0, a, none⟩ false) else .error (.refused oSeat)
  | some c =>
      let num := c + i
      let da := d + entryOffset c i
      let size := entrySize num
      match dataCheck s seat false 4 da size with
      | some f => .error (.trap f false)
      | none =>
          if 8192 + 32 * 6144 ≤ num then .error (.trap ⟨6, 0, connAddr num, none⟩ false)
          else
            let (o, t) := stageConn who num (dataVal s seat da size) s
            if o < 0x10 then .ok t else .error (.refused o)

/-- CSETN (R172): the outcome word goes to the register of aux[3:0]. -/
def execCsetn (n : BitVec 6) (f : FormA) (stopAfter : Option Nat) (s : State) : Result :=
  celec n f.unassigned 0x1D (decide (16 ≤ f.aux.toNat)) (fun k s =>
    let seat := strandSeat s k
    let a := (regOf s k f.rd).toNat
    let d := (regOf s k f.ra).toNat
    let total := (regOf s k f.rb).toNat
    let out (code detail count : Nat) (s : State) : State :=
      retire k (fun t => (t.setT (outcomeT code)).setReg (f.aux.toNat % 16) (outcomeWord code detail count)) (countOutcome seat code s)
    if progConflict s k then trapStrand k 0xA 0 (strandAt s k).pc.toNat false s
    else if 256 < total then trapStrand k 9 0x1D 0 false s
    else if total = 0 then out oDone 0 0 (setProg k 0 s)
    else
      checked k false (connAligned a)
        (fun s =>
          let start := (strandAt s k).prog.toNat
          let (i, e, t) := runUnits (csetUnit k seat a d) total (unitLimit total stopAfter) start (touch (strandAgent s k) none s)
          endBlock k e i (fun e u =>
            match e with
            | .refused code => if i = 0 then out code 0 0 u else out oFaulted code i u
            | _ => out oDone 0 total u) (afterUnits e start i s t)) s) s

end Sys2Proof.Machine
end

