-- ==== Sys2Proof/Machine/CelecReq.lean ====
section
/-!
DEFINITION. Requests of a strand to the blocks (R155, R176 to R179): each acts at its issue, and the strand stalls until its outcome is delivered.
-/
namespace Sys2Proof.Machine

open Sys2Proof

/-- rb and aux are reserved. -/
def reqRbBad (f : FormA) : Bool := f.aux != 0 || f.rb != 0

/-- The connection number at an object address that a Seat may write; none where it gives REFUSED_SEAT. -/
def reqConn (s : State) (seat a : Nat) : Option Nat :=
  if 0x1000000 ≤ a then none else (connOfAddr a).filter (fun num => connAssigned num && connReach s seat num)

/-- A request about a connection by an agent discards a word that the strand holds (R243). -/
def reqTouch (k : Nat) (s : State) : State := touch (strandAgent s k) none s

/-- CWR: one entry from data memory as a staged write (R177). DESIGN CHOICE (entry 57): an object address of 0x100_0000 or more ends REFUSED_SEAT (R176),
here and in CRD, CDEL and CSTATE. -/
def execCwr (n : BitVec 6) (f : FormA) (s : State) : Result :=
  celec n f.unassigned 0x20 (auxBad f) (fun k s =>
    let seat := strandSeat s k
    let a := (regOf s k f.ra).toNat
    let d := (regOf s k f.rb).toNat
    let size := match connOfAddr a with
      | some num => entrySize num
      | none => 4
    checked k false ((connAligned a).orElse (fun _ => dataCheck s seat false 4 d size))
      (fun s =>
        match (if 0x1000000 ≤ a then none else connOfAddr a) with
        | none => answerCounted k f.rd oSeat 0 1 s
        | some num =>
            let (o, t) := stageConn (strandAgent s k) num (dataVal s seat d size) (reqTouch k s)
            answerCounted k f.rd o 0 1 t) s) s

/-- CRD: the entry that the Seat sees, to data memory; its page tag (R177, R245). -/
def execCrd (n : BitVec 6) (f : FormA) (s : State) : Result :=
  celec n f.unassigned 0x20 (auxBad f) (fun k s =>
    let seat := strandSeat s k
    let a := (regOf s k f.ra).toNat
    let d := (regOf s k f.rb).toNat
    let num := if 0x1000000 ≤ a then none else connOfAddr a
    let size := match num with
      | some c => entrySize c
      | none => 4
    checked k false (connAligned a) (fun s =>
      checked k true (dataCheck s seat true 4 d size)
        (fun s0 =>
          let s := reqTouch k s0
          match num with
          | none => answerCounted k f.rd oSeat 0 0 s
          | some c =>
              if ¬ connAssigned c then answerCounted k f.rd oDone 0 0 (dataPut seat d (toBytes size 0) s)
              else if ¬ connReach s seat c then answerCounted k f.rd oSeat 0 0 s
              else
                match connRead s seat c with
                | none => answerCounted k f.rd oSeat 0 0 s
                | some p =>
                    let (_, tag, _) := newestEntry s seat p false
                    answerCounted k f.rd oDone 0 tag (dataPut seat d (toBytes size (entryImage s seat p false)) s)) s) s) s

/-- CDEL: the deletion of a connection is staged (R177). -/
def execCdel (n : BitVec 6) (f : FormA) (s : State) : Result :=
  celec n f.unassigned 0x20 (reqRbBad f) (fun k s =>
    let a := (regOf s k f.ra).toNat
    checked k false (connAligned a)
      (fun s =>
        match (if 0x1000000 ≤ a then none else connOfAddr a) with
        | none => answerCounted k f.rd oSeat 0 0 s
        | some num =>
            let (o, t) := stageConn (strandAgent s k) num 0 (reqTouch k s)
            answerCounted k f.rd o 0 0 t) s) s

/-- CSTATE: the state of a connection (R177). -/
def execCstate (n : BitVec 6) (f : FormA) (s : State) : Result :=
  celec n f.unassigned 0x20 (reqRbBad f) (fun k s =>
    let seat := strandSeat s k
    let a := (regOf s k f.ra).toNat
    checked k false (connAligned a)
      (fun s0 =>
        let s := reqTouch k s0
        match (reqConn s seat a).bind (connRead s seat) with
        | none => answerCounted k f.rd oSeat 0 0 s
        | some p => answerCounted k f.rd oDone 0 (newestEntry s seat p false).1 s) s) s

/-- PXATT: a cord expectation of 40 bytes from data memory; the table index (R177, R287, R288). -/
def execPxatt (n : BitVec 6) (f : FormA) (s : State) : Result :=
  celec n f.unassigned 0x20 (auxBad f) (fun k s =>
    let seat := strandSeat s k
    let a := (regOf s k f.ra).toNat
    let d := (regOf s k f.rb).toNat
    checked k false ((connAligned a).orElse (fun _ => dataCheck s seat false 4 d 40))
      (fun s =>
        let (o, i, t) := stageAttach (strandAgent s k) a (dataVal s seat d 40) (reqTouch k s)
        answerCounted k f.rd o 0 i t) s) s

/-- PXDET: the expectation number in rb is detached (R177, R288). -/
def execPxdet (n : BitVec 6) (f : FormA) (s : State) : Result :=
  celec n f.unassigned 0x20 (auxBad f) (fun k s =>
    let a := (regOf s k f.ra).toNat
    checked k false (connAligned a)
      (fun s =>
        let (o, _, t) := stageDetach (strandAgent s k) a (regOf s k f.rb).toNat (reqTouch k s)
        answerCounted k f.rd o 0 0 t) s) s

/-- PREQ: a command to a group or selector; an outranked one names the K1 code of the request in force (R177, R284). -/
def execPreq (n : BitVec 6) (f : FormA) (s : State) : Result :=
  celec n f.unassigned 0x20 (auxBad f) (fun k s =>
    let a := (regOf s k f.ra).toNat
    checked k false (alignFail 2 4 a)
      (fun s0 =>
        let s := reqTouch k s0
        let who := strandAgent s k
        let inForce := match protAt s who.seat a with
          | some (r, _) => (standing (cfgOf s r) false (ctlAt s r)).code
          | none => 0
        let code := (regOf s k f.rb).toNat
        let (o, t) := if code < 16 then commandAt who a code s else cmdEnd who.seat (oSeat, s)
        answerCounted k f.rd o (if o = oCapacity then inForce else 0) 0 t) s) s

/-- CMT.GO: the Seat's current group with the target frame named by ra (R178). -/
def execCmtGo (n : BitVec 6) (f : FormA) (s : State) : Result :=
  celec n f.unassigned 0x21 (reqRbBad f) (fun k s =>
    let target := frame32 s (regOf s k f.ra).toNat * phasesPerFrame
    let (o, i, t) := goGroup (strandAgent s k) target s
    answerCounted k f.rd o (if o = oDeferred then i else 0) 0 t) s

/-- CMT.CANCEL (R52, R178). -/
def execCmtCancel (n : BitVec 6) (f : FormA) (s : State) : Result :=
  celec n f.unassigned 0x21 (reqRbBad f) (fun k s =>
    let (o, t) := cancelGroup (strandAgent s k) ((regOf s k f.ra).toNat % 256) s
    answerCounted k f.rd o 0 0 t) s

/-- SJOB: a scan job of 64 bytes from data memory; its job ID, or the frames to a retry (R179, R384). -/
def execSjob (n : BitVec 6) (f : FormA) (s : State) : Result :=
  celec n f.unassigned 0x22 (reqRbBad f) (fun k s =>
    let seat := strandSeat s k
    let d := (regOf s k f.ra).toNat
    checked k false (dataCheck s seat false 4 d 64)
      (fun s =>
        let (o, i, t) := scanSubmit seat (dataVal s seat d 64) s
        answer k f.rd o 0 i t) s) s

/-- SCANCEL (R179, R390). -/
def execScancel (n : BitVec 6) (f : FormA) (s : State) : Result :=
  celec n f.unassigned 0x22 (reqRbBad f) (fun k s =>
    let (o, t) := scanCancel (strandSeat s k) ((regOf s k f.ra).toNat % 65536) s
    answer k f.rd o 0 0 t) s

/-- RTX: a radio frame from its 32-byte descriptor; with DEFERRED or REFUSED_BUDGET the register of aux[3:0] receives FRAME[31:0] of the
earliest legal LT, a free value where the refusal comes before that LT is computed (R179, R433, R440). -/
def execRtx (n : BitVec 6) (f : FormA) (s : State) : Result :=
  celec n f.unassigned 0x23 (f.rb != 0 || decide (16 ≤ f.aux.toNat)) (fun k s =>
    let seat := strandSeat s k
    let d := (regOf s k f.ra).toNat
    checked k false (dataCheck s seat false 4 d 32)
      (fun s =>
        let (o, x, l, t) := radioSubmit seat (dataVal s seat d 32) s
        let word := outcomeWord o 0 (if o = oSelftest then x else 0)
        let put (re : Option Word) (u : State) : State :=
          stallFor k ⟨f.rd.toNat, word, some (outcomeT o), re.map (fun w => (f.aux.toNat, w))⟩ u
        if o = oDeferred ∨ o = oBudget then
          match l with
          | some p => put (some (BitVec.ofNat 32 p)) t
          | none => let (w, u) := takeFree t; put (some w) u
        else put none t) s) s

/-- RRX: the oldest receive record of the Seat moves to data memory; its length (R179, R404, R436). -/
def execRrx (n : BitVec 6) (f : FormA) (s : State) : Result :=
  celec n f.unassigned 0x23 (reqRbBad f) (fun k s =>
    let seat := strandSeat s k
    let d := (regOf s k f.ra).toNat
    let held := (radioSeat s seat).rx
    let len := (held.head?.map (·.length)).getD 0
    checked k true (dataCheck s seat true 4 d (max 4 len))
      (fun s =>
        if ¬ owns s seat 204 0 then answerCounted k f.rd oSeat 0 0 s
        else
          match held with
          | [] => answerCounted k f.rd oDone 0 0 s
          | r :: rs =>
              let t := { s with radio := { s.radio with seats := tset .reset s.radio.seats seat { radioSeat s seat with rx := rs } } }
              answerCounted k f.rd oDone 0 len (dataPut seat d r t)) s) s

/-- The channel that a register names, when the Seat OWNS it. -/
def reqChan (s : State) (k : Nat) (r : BitVec 4) : Option Nat :=
  let c := (regOf s k r).toNat
  if c < 32 then ownedPhys s (strandSeat s k) 112 c else none

/-- DSTART: a channel with the descriptor at rb, whose page must accept the write-back (R179, R201). -/
def execDstart (n : BitVec 6) (f : FormA) (s : State) : Result :=
  celec n f.unassigned 0x24 (auxBad f) (fun k s =>
    let seat := strandSeat s k
    let d := (regOf s k f.rb).toNat
    checked k true (dataCheck s seat true 4 d 32)
      (fun s =>
        match reqChan s k f.ra with
        | none => answerCounted k f.rd oSeat 0 0 s
        | some c =>
            let (o, t) := dmaStart c d s
            answerCounted k f.rd o 0 0 t) s) s

/-- DSTAT: the channel status word; T stays (R179, R207). -/
def execDstat (n : BitVec 6) (f : FormA) (s : State) : Result :=
  celec n f.unassigned 0x24 (reqRbBad f) (fun k s =>
    match reqChan s k f.ra with
    | none => stallFor k ⟨f.rd.toNat, outcomeWord oSeat 0 0, none, none⟩ (countOutcome (strandSeat s k) oSeat s)
    | some c => stallFor k ⟨f.rd.toNat, BitVec.ofNat 32 (chanStatus s c), none, none⟩ s) s

/-- DSTOP (R179, R202). -/
def execDstop (n : BitVec 6) (f : FormA) (s : State) : Result :=
  celec n f.unassigned 0x24 (reqRbBad f) (fun k s =>
    match reqChan s k f.ra with
    | none => answerCounted k f.rd oSeat 0 0 s
    | some c => answerCounted k f.rd oDone 0 0 (dmaStop c s)) s

end Sys2Proof.Machine
end

