-- ==== Sys2Proof/Machine/CelecCtl.lean ====
section
/-!
DEFINITION. Waits, events, strand control, special registers, flags, branches and the ends of stalls, waits and time slices (R153, R154, R173 to
R175, R180, R181, R184, R191).
-/
namespace Sys2Proof.Machine

open Sys2Proof

/-- WLT: wait until LT is at or past F.p (R174). -/
def execWlt (n : BitVec 6) (f : FormA) (s : State) : Result :=
  celec n f.unassigned 0x28 (auxBad f) (fun k s =>
    let p := (regOf s k f.rb).toNat % 65536
    let fr := frame32 s (regOf s k f.ra).toNat
    if 19439 < p then illegal k 0x28 s
    else if fr * phasesPerFrame + p ≤ nowPos s then
      retire k (fun t => let (v, t1) := readLtLo s t; (t1.setReg f.rd.toNat v).setT false) s
    else waitFor k (.lt fr p f.rd.toNat) s) s

/-- WLT_WAKE (R174): LT comes to the position within a frame; positions at a boundary wake in step 9 of it. -/
def execWltWake (n : BitVec 6) (s : State) : Result :=
  .next (match (strandAt s n.toNat).mode, (strandAt s n.toNat).wait with
    | .waiting, some (.lt f p _) =>
        let t := advanceTo (f * phasesPerFrame + p) s
        if f * phasesPerFrame + p ≤ nowPos t then wakeLt n.toNat t else s
    | _, _ => s)

/-- WBND: wait for the ra-th boundary of the kind in aux[1:0] (R174). -/
def execWbnd (n : BitVec 6) (f : FormA) (s : State) : Result :=
  celec n f.unassigned 0x28 (f.rb != 0 || decide (4 ≤ f.aux.toNat)) (fun k s =>
    let m := (regOf s k f.ra).toNat
    if m = 0 then retire k (fun t => (t.setReg f.rd.toNat (BitVec.ofNat 32 s.lt.frame)).setT false) s
    else waitFor k (.bnd f.aux.toNat m f.rd.toNat) s) s

/-- The lowest event of a mask that is set. -/
def lowestEvent (flags mask : Nat) : Option Nat := (setPositions 64 (flags &&& mask)).head?

/-- WEV: wait for an event of the masks in ra and rb; rd holds the timeout (R175). -/
def execWev (n : BitVec 6) (f : FormA) (s : State) : Result :=
  celec n f.unassigned 0x28 (decide (2 ≤ f.aux.toNat)) (fun k s =>
    let seat := strandSeat s k
    let mask := (regOf s k f.ra).toNat + 2 ^ 32 * (regOf s k f.rb).toNat
    let peek := bit f.aux.toNat 0
    let limit := (regOf s k f.rd).toNat
    match lowestEvent (eventFlags s seat) mask with
    | some e =>
        retire k (fun t => (t.setReg f.rd.toNat (BitVec.ofNat 32 e)).setT true)
          (if peek then s else setEventFlags seat (clrBit (eventFlags s seat) e) s)
    | none => waitFor k (.ev mask peek f.rd.toNat (if limit = 0 then none else some (s.lt.frame + limit))) s) s

/-- WEV_TIMEOUT (R175): the first frame boundary at or after the issue frame plus the timeout. -/
def execWevTimeout (n : BitVec 6) (s : State) : Result :=
  .next (match (strandAt s n.toNat).mode, (strandAt s n.toNat).wait with
    | .waiting, some (.ev _ _ rd (some d)) =>
        if d ≤ s.lt.frame then makeRunnable n.toNat (fun t => (t.setReg rd 0xFFFFFFFF).setT false) s else s
    | _, _ => s)

/-- SIG: set event ra[5:0]; ra[31:6] must be 0 (R174). -/
def execSig (n : BitVec 6) (f : FormA) (s : State) : Result :=
  celec n f.unassigned 0x28 (f.rd != 0 || reqRbBad f) (fun k s =>
    let e := (regOf s k f.ra).toNat
    if 64 ≤ e then illegal k 0x28 s else setEvent (strandSeat s k) e (retire k id s)) s

/-- CLREV: clear the events of the masks in ra and rb (R174). -/
def execClrev (n : BitVec 6) (f : FormA) (s : State) : Result :=
  celec n f.unassigned 0x28 (auxRdBad f) (fun k s =>
    let seat := strandSeat s k
    let mask := (regOf s k f.ra).toNat + 2 ^ 32 * (regOf s k f.rb).toNat
    retire k id (setEventFlags seat (clrMask (eventFlags s seat) mask) s)) s

/-- HEV: the cause of host vector 20 + aux[3:0]; above 10 it traps (R109, R174). -/
def execHev (n : BitVec 6) (f : FormA) (s : State) : Result :=
  celec n f.unassigned 0x28 (f.rd != 0 || f.ra != 0 || f.rb != 0 || decide (10 < f.aux.toNat)) (fun k s =>
    retire k id (setCause (strandSeat s k) 0x20018 f.aux.toNat s)) s

/-- Every field is reserved. -/
def allBad (f : FormA) : Bool := f.rd != 0 || f.ra != 0 || f.rb != 0 || f.aux != 0

/-- YIELD: the strand gives up the slot and stays RUNNABLE (R174). -/
def execYield (n : BitVec 6) (f : FormA) (s : State) : Result :=
  celec n f.unassigned 0x28 (allBad f) (fun k s => park k .runnable (fun t => { t with sliceOver := false }) s) s

/-- STOP: the strand ends; a pending start is taken (R174, R184, R185). -/
def execStop (n : BitVec 6) (f : FormA) (s : State) : Result :=
  celec n f.unassigned 0x28 (allBad f) (fun k s => enterIdle k (modStrand k (fun t => { t with pc := nextPc t.pc }) s)) s

/-- SPAWN: Seat-local strand ra starts with g1 := rb (R174, R185). -/
def execSpawn (n : BitVec 6) (f : FormA) (s : State) : Result :=
  celec n f.unassigned 0x28 (auxBad f) (fun k s =>
    let c := (regOf s k f.ra).toNat
    match (if c < 64 then ownedPhys s (strandSeat s k) 48 c else none) with
    | none => answerCounted k f.rd oSeat 0 0 s
    | some p =>
        let (o, t) := startStrand p (regOf s k f.rb) s
        answerCounted k f.rd o 0 0 t) s

/-- TRAP: SWTRAP with detail aux (R174, R182). -/
def execTrap (n : BitVec 6) (f : FormA) (s : State) : Result :=
  celec n f.unassigned 0x28 (f.rd != 0 || f.ra != 0 || f.rb != 0) (fun k s => trapStrand k 0xB f.aux.toNat 0 false s) s

/-- FENCE: every earlier store is visible at once; the strand stalls until its end (R157, R158, R183). -/
def execFence (n : BitVec 6) (f : FormA) (s : State) : Result :=
  celec n f.unassigned 0x28 (allBad f) (fun k s => stallFor k ⟨0, 0, none, none⟩ s) s

/-- A special register of a strand and the strand after the read (R153, R154). -/
def readSpecial (s : State) (k r : Nat) : Word × Strand :=
  let t := strandAt s k
  match r with
  | 0 => readLtLo s t
  | 1 => (BitVec.ofNat 32 t.snapHi, t)
  | 2 => (BitVec.ofNat 32 t.snapPhase, t)
  | 3 => (BitVec.ofNat 32 (strandSeat s k), t)
  | 4 => (BitVec.ofNat 32 (strandLocal s k + 256 * k + 65536 * priorityOf s k), t)
  | 5 => (t.fault, t)
  | 6 => (t.faddr, t)
  | 7 => (t.epc, t)
  | _ => (t.prog, t)

/-- MFS: a special register; the number is in the ra field (R180). -/
def execMfs (n : BitVec 6) (f : FormA) (s : State) : Result :=
  celec n f.unassigned 0x29 (reqRbBad f || decide (8 < f.ra.toNat)) (fun k s =>
    let (v, t) := readSpecial s k f.ra.toNat
    retire k (fun _ => t.setReg f.rd.toNat v) s) s

/-- MTS: s.fault or s.prog := ra; the number is in the rd field (R153, R180). -/
def execMts (n : BitVec 6) (f : FormA) (s : State) : Result :=
  celec n f.unassigned 0x29 (reqRbBad f || (f.rd != 5 && f.rd != 8)) (fun k s =>
    retire k (fun t =>
      let v := t.reg f.ra.toNat
      if f.rd = 5 then { t with fault := v &&& 0x1FFFF } else { t with prog := v }) s) s

/-- GETF: the flags in bits 0 to 4 (R180). -/
def execGetf (n : BitVec 6) (f : FormA) (s : State) : Result :=
  celec n f.unassigned 0x29 (f.ra != 0 || reqRbBad f) (fun k s => retire k (fun t => t.setReg f.rd.toNat (BitVec.ofNat 32 (flagsWord t.flags))) s) s

/-- SETF: the flags from ra[4:0] (R180). -/
def execSetf (n : BitVec 6) (f : FormA) (s : State) : Result :=
  celec n f.unassigned 0x29 (f.rd != 0 || reqRbBad f) (fun k s => retire k (fun t => { t with flags := flagsOf (t.reg f.ra.toNat).toNat }) s) s

/-- PC + 4 × sext(off22), modulo 4 MiB (R181). -/
def branchTarget (pc : Word) (off : BitVec 22) : Word := (pc + off.signExtend 32 * 4) &&& 0x3FFFFC

/-- B.cond and BL.cond (R181): BL sets g15 only when it branches. -/
def branch (n : BitVec 6) (op : Nat) (f : FormB) (link : Bool) (s : State) : Result :=
  celec n f.unassigned op false (fun k s =>
    let t := strandAt s k
    if condHolds f.cond t.flags then
      jumpTo k (branchTarget t.pc f.off) (fun t => if link then t.setReg 15 (nextPc t.pc) else t) s
    else retire k id s) s

/-- B.cond. -/
def execBCond (n : BitVec 6) (f : FormB) (s : State) : Result := branch n 0x30 f false s

/-- BL.cond. -/
def execBlCond (n : BitVec 6) (f : FormB) (s : State) : Result := branch n 0x31 f true s

/-- A jump through ra: a misaligned target, or one beyond the code space, traps at the jump (R181). -/
def jumpReg (n : BitVec 6) (f : FormA) (bad : Bool) (g : Strand → Strand) (s : State) : Result :=
  celec n f.unassigned 0x32 bad (fun k s =>
    let target := regOf s k f.ra
    checked k false ((alignFail 4 4 target.toNat).orElse (fun _ => if 0x400000 ≤ target.toNat then some ⟨3, 0, target.toNat, none⟩ else none))
      (jumpTo k target g) s) s

/-- JR. -/
def execJr (n : BitVec 6) (f : FormA) (s : State) : Result := jumpReg n f (f.rd != 0 || reqRbBad f) id s

/-- JLR: rd := PC + 4, written after ra is read. -/
def execJlr (n : BitVec 6) (f : FormA) (s : State) : Result :=
  jumpReg n f (reqRbBad f) (fun t => t.setReg f.rd.toNat (nextPc t.pc)) s

/-- A stall's result reaches its registers and T. -/
def deliver (r : StallResult) (t : Strand) : Strand :=
  let t1 := t.setReg r.rd r.value
  let t2 := match r.rd2 with
    | some (re, w) => t1.setReg re w
    | none => t1
  match r.t with
  | some b => t2.setT b
  | none => t2

/-- STALL_END (R173): the outcome becomes known; an ABORT, or a change of owner, that waited for it discards it (R188, R208). -/
def execStallEnd (n : BitVec 6) (s : State) : Result :=
  let k := n.toNat
  let t := strandAt s k
  .next (if t.mode ≠ .stalled then s
    else if t.ownerLost then strandCleared k s
    else if t.abortDue then abortNow k s
    else
      match t.stall with
      | some r => makeRunnable k (deliver r) s
      | none => makeRunnable k id s)

/-- TIME_SLICE_END (R191): the slice of the RUNNING strand has expired, and this is a landing point. -/
def execTimeSliceEnd (n : BitVec 6) (s : State) : Result :=
  let k := n.toNat
  .next (if (strandAt s k).mode = .running then reschedule (k / 8) (modStrand k (fun t => { t with sliceOver := true }) s) else s)

end Sys2Proof.Machine
end

