-- ==== Sys2Proof/Machine/RowWrites.lean ====
section
/-!
DEFINITION. The commands that are writes of one register or object: each is a host path's write at its offset of the Seat window, in the
Seat's own numbering, with the field that names the command forced to it.
-/
namespace Sys2Proof.Machine

open Sys2Proof

/-- A write of the command word of the protection object at an object address, as the aperture shows it (R270, R284). -/
def rowCommand (w : HostWho) (addr code : Nat) (s : State) : Result :=
  let word := if 0x440000 ≤ addr ∧ addr < 0x440200 then addr / 32 * 32 + 4 else addr / 16 * 16 + 12
  let a := hostAgent w
  .next (if alive s ∧ seatEnabled s a.seat then endWrite a (apertureOff word) (objWrite a word code (dropKeyLoad (apertureOff word) s)) else s)

/-- HOST_REGISTER_WRITE (R508): a whole 32-bit write at a word of the Seat window. -/
def execHostRegisterWrite (w : HostWho) (off : BitVec 24) (v : BitVec 32) (s : State) : Result :=
  rowWrite w (off.toNat / 4 * 4) v.toNat s

/-- HOST_BIND_WRITE (R124). -/
def execHostBindWrite (w : HostWho) (v : BitVec 32) (s : State) : Result :=
  rowWrite w 0x100 v.toNat s

/-- HOST_ERR_CLR (R107): a write with bit 0 set. -/
def execHostErrClr (w : HostWho) (v : BitVec 32) (s : State) : Result :=
  rowWrite w 0x124 (setBit v.toNat 0) s

/-- LT_FRAME_LOAD_WRITE (R39): both words. -/
def execLtFrameLoadWrite (w : HostWho) (v : BitVec 64) (s : State) : Result :=
  rowWords w 0x1048 2 v.toNat s

/-- CLR_EVENTS (R30): LT_CTL with CLR_EVENTS set. -/
def execClrEvents (w : HostWho) (v : BitVec 32) (s : State) : Result :=
  rowWrite w 0x1004 (setBit v.toNat 4) s

/-- CALENDAR_ADD (R43): LT_CAL_CTL with ADD. -/
def execCalendarAdd (w : HostWho) (v : BitVec 32) (s : State) : Result :=
  rowWrite w 0x10B0 (setBits v.toNat 0 2 1) s

/-- CALENDAR_REMOVE (R45): LT_CAL_CTL with REMOVE. -/
def execCalendarRemove (w : HostWho) (v : BitVec 32) (s : State) : Result :=
  rowWrite w 0x10B0 (setBits v.toNat 0 2 2) s

/-- COMMIT_GO (R47): LT_COMMIT_CTL with GO. -/
def execCommitGo (w : HostWho) (v : BitVec 32) (s : State) : Result :=
  rowWrite w 0x1094 (setBit (clrBit v.toNat 2) 0) s

/-- COMMIT_CANCEL (R52): LT_COMMIT_CTL with CANCEL. -/
def execCommitCancel (w : HostWho) (v : BitVec 32) (s : State) : Result :=
  rowWrite w 0x1094 (setBit (clrBit v.toNat 0) 2) s

/-- RELEASE (R70): PWR_STAGE_CTL with RELEASE. -/
def execRelease (w : HostWho) (v : BitVec 32) (s : State) : Result :=
  rowWrite w 0x410 (setBits v.toNat 0 2 1) s

/-- ADVANCE (R72): PWR_STAGE_CTL with ADVANCE. -/
def execAdvance (w : HostWho) (v : BitVec 32) (s : State) : Result :=
  rowWrite w 0x410 (setBits v.toNat 0 2 2) s

/-- WARM_RESET_ARM (R85): PWR_RESET_CTL with the arming key. -/
def execWarmResetArm (w : HostWho) (v : BitVec 32) (s : State) : Result :=
  rowWrite w 0x418 (setBits v.toNat 0 17 0xA55A) s

/-- WARM_RESET_FIRE (R85): PWR_RESET_CTL with the firing key. -/
def execWarmResetFire (w : HostWho) (v : BitVec 32) (s : State) : Result :=
  rowWrite w 0x418 (setBits v.toNat 0 17 0x15AA5) s

/-- LEDGER_KEY_WRITE (R137): word j of LEDGER_KEY. -/
def execLedgerKeyWrite (w : HostWho) (j : BitVec 3) (v : BitVec 32) (s : State) : Result :=
  rowWrite w (0x7C0040 + 4 * j.toNat) v.toNat s

/-- LEDGER_SPILL_CONS_WRITE (R148). -/
def execLedgerSpillConsWrite (w : HostWho) (v : BitVec 32) (s : State) : Result :=
  rowWrite w 0x7C0028 v.toNat s

/-- LEDGER_SPILL_CTL_WRITE (R148). -/
def execLedgerSpillCtlWrite (w : HostWho) (v : BitVec 32) (s : State) : Result :=
  rowWrite w 0x7C0010 v.toNat s

/-- ST_CTL_WRITE (R189). -/
def execStCtlWrite (w : HostWho) (k : BitVec 6) (v : BitVec 32) (s : State) : Result :=
  rowWrite w (0x40000 + 0x100 * k.toNat) v.toNat s

/-- ST_START (R195): ST_CMD with CMD 1. -/
def execStStart (w : HostWho) (k : BitVec 6) (v : BitVec 32) (s : State) : Result :=
  rowWrite w (0x40008 + 0x100 * k.toNat) (setBits v.toNat 0 3 1) s

/-- ST_RETRY (R195): ST_CMD with CMD 2. -/
def execStRetry (w : HostWho) (k : BitVec 6) (v : BitVec 32) (s : State) : Result :=
  rowWrite w (0x40008 + 0x100 * k.toNat) (setBits v.toNat 0 3 2) s

/-- ST_SKIP (R195): ST_CMD with CMD 3. -/
def execStSkip (w : HostWho) (k : BitVec 6) (v : BitVec 32) (s : State) : Result :=
  rowWrite w (0x40008 + 0x100 * k.toNat) (setBits v.toNat 0 3 3) s

/-- ST_ABORT (R188): ST_CMD with CMD 4. -/
def execStAbort (w : HostWho) (k : BitVec 6) (v : BitVec 32) (s : State) : Result :=
  rowWrite w (0x40008 + 0x100 * k.toNat) (setBits v.toNat 0 3 4) s

/-- ST_CTX_WRITE (R194): a word of ST_CTX, by its offset from the strand base. -/
def execStCtxWrite (w : HostWho) (k : BitVec 6) (off : BitVec 8) (v : BitVec 32) (s : State) : Result :=
  rowWrite w (0x40000 + 0x100 * k.toNat + off.toNat / 4 * 4) v.toNat s

/-- ST_EVENT_SET (R175): ST_EVENT_SET0, or ST_EVENT_SET1. -/
def execStEventSet (w : HostWho) (high : Bool) (v : BitVec 32) (s : State) : Result :=
  rowWrite w (if high then 0x48004 else 0x48000) v.toNat s

/-- DMA_START (R201): DMA_CH_CMD with START. -/
def execDmaStart (w : HostWho) (c : BitVec 5) (v : BitVec 32) (s : State) : Result :=
  rowWrite w (0x21008 + 0x40 * c.toNat) (setBits v.toNat 0 2 1) s

/-- DMA_STOP (R202): DMA_CH_CMD with STOP. -/
def execDmaStop (w : HostWho) (c : BitVec 5) (v : BitVec 32) (s : State) : Result :=
  rowWrite w (0x21008 + 0x40 * c.toNat) (setBits v.toNat 0 2 2) s

/-- LP_CNT_CLR (R499). -/
def execLpCntClr (w : HostWho) (p : BitVec 4) (v : BitVec 32) (s : State) : Result :=
  rowWrite w (0x80140 + 0x4000 * p.toNat) (setBit v.toNat 0) s

/-- CONN_ENTRY_WRITE (R243): both words of a high-order entry, the word of a low-order one, through the connection window. -/
def execConnEntryWrite (w : HostWho) (addr : BitVec 24) (v : BitVec 64) (s : State) : Result :=
  let a := addr.toNat
  if isHoAddr a then rowWords w (a / 8 * 8) 2 v.toNat s else if isConnAddr a then rowWords w (a / 4 * 4) 1 v.toNat s else .next s

/-- ROT_EN_WRITE (R260): FAB_CTL. -/
def execRotEnWrite (w : HostWho) (v : BitVec 32) (s : State) : Result :=
  rowWrite w 0x100000 v.toNat s

/-- RETEST (R267): FAB_ROT_CMD with CMD 1. -/
def execRetest (w : HostWho) (v : BitVec 32) (s : State) : Result :=
  rowWrite w 0x100110 (setBits v.toNat 0 2 1) s

/-- SWAP_SUSPECT (R267): FAB_ROT_CMD with CMD 2. -/
def execSwapSuspect (w : HostWho) (v : BitVec 32) (s : State) : Result :=
  rowWrite w 0x100110 (setBits v.toNat 0 2 2) s

/-- STEP_NOW (R267): FAB_ROT_CMD with CMD 3. -/
def execStepNow (w : HostWho) (v : BitVec 32) (s : State) : Result :=
  rowWrite w 0x100110 (setBits v.toNat 0 2 3) s

/-- CLEAR (R284). -/
def execClear (w : HostWho) (a : BitVec 24) (s : State) : Result :=
  rowCommand w a.toNat 0 s

/-- LOCKOUT (R284). -/
def execLockout (w : HostWho) (a : BitVec 24) (s : State) : Result :=
  rowCommand w a.toNat 1 s

/-- FORCE_P (R284). -/
def execForceP (w : HostWho) (a : BitVec 24) (s : State) : Result :=
  rowCommand w a.toNat 2 s

/-- FORCE_W (R284). -/
def execForceW (w : HostWho) (a : BitVec 24) (s : State) : Result :=
  rowCommand w a.toNat 3 s

/-- MANUAL_P (R284). -/
def execManualP (w : HostWho) (a : BitVec 24) (s : State) : Result :=
  rowCommand w a.toNat 4 s

/-- MANUAL_W (R284). -/
def execManualW (w : HostWho) (a : BitVec 24) (s : State) : Result :=
  rowCommand w a.toNat 5 s

/-- EXERCISE (R282). -/
def execExercise (w : HostWho) (a : BitVec 24) (s : State) : Result :=
  rowCommand w a.toNat 6 s

/-- COND_SF_W (R284). -/
def execCondSfW (w : HostWho) (a : BitVec 24) (s : State) : Result :=
  rowCommand w a.toNat 8 s

/-- COND_SD_W (R284). -/
def execCondSdW (w : HostWho) (a : BitVec 24) (s : State) : Result :=
  rowCommand w a.toNat 9 s

/-- COND_CLR_W (R284). -/
def execCondClrW (w : HostWho) (a : BitVec 24) (s : State) : Result :=
  rowCommand w a.toNat 10 s

/-- COND_SF_P (R284). -/
def execCondSfP (w : HostWho) (a : BitVec 24) (s : State) : Result :=
  rowCommand w a.toNat 11 s

/-- COND_SD_P (R284). -/
def execCondSdP (w : HostWho) (a : BitVec 24) (s : State) : Result :=
  rowCommand w a.toNat 12 s

/-- COND_CLR_P (R284). -/
def execCondClrP (w : HostWho) (a : BitVec 24) (s : State) : Result :=
  rowCommand w a.toNat 13 s

/-- PX_ATTACH (R288): PX_CMD with ATTACH. -/
def execPxAttach (w : HostWho) (v : BitVec 32) (s : State) : Result :=
  rowWrite w 0xC0330 (setBits v.toNat 24 2 1) s

/-- PX_DETACH (R288): PX_CMD with DETACH. -/
def execPxDetach (w : HostWho) (v : BitVec 32) (s : State) : Result :=
  rowWrite w 0xC0330 (setBits v.toNat 24 2 2) s

/-- OVERRIDE_SET (R291): PX_OVERRIDE with SET. -/
def execOverrideSet (w : HostWho) (v : BitVec 32) (s : State) : Result :=
  rowWrite w 0xC0200 (setBits v.toNat 24 2 1) s

/-- OVERRIDE_CLEAR (R291): PX_OVERRIDE with CLEAR. -/
def execOverrideClear (w : HostWho) (v : BitVec 32) (s : State) : Result :=
  rowWrite w 0xC0200 (setBits v.toNat 24 2 2) s

/-- MATE_RELEASE (R308): MATE_CMD with CMD 1. -/
def execMateRelease (w : HostWho) (v : BitVec 32) (s : State) : Result :=
  rowWrite w 0xD0010 (setBits v.toNat 0 2 1) s

/-- MATE_TAKE (R305): MATE_CMD with CMD 2. -/
def execMateTake (w : HostWho) (v : BitVec 32) (s : State) : Result :=
  rowWrite w 0xD0010 (setBits v.toNat 0 2 2) s

/-- MATE_RESYNC (R305): MATE_CMD with CMD 3. -/
def execMateResync (w : HostWho) (v : BitVec 32) (s : State) : Result :=
  rowWrite w 0xD0010 (setBits v.toNat 0 2 3) s

/-- MATE_EN_WRITE (R310): MATE_CTL. -/
def execMateEnWrite (w : HostWho) (v : BitVec 32) (s : State) : Result :=
  rowWrite w 0xD0000 v.toNat s

/-- CR_CFG_WRITE (R350). -/
def execCrCfgWrite (w : HostWho) (r : BitVec 1) (v : BitVec 32) (s : State) : Result :=
  rowWrite w (0x400000 + 0x100 * r.toNat) v.toNat s

/-- CAM_BIND_WRITE (R353). -/
def execCamBindWrite (w : HostWho) (c : BitVec 3) (v : BitVec 32) (s : State) : Result :=
  rowWrite w (0x400800 + 4 * c.toNat) v.toNat s

/-- CAM_CFG_WRITE (R355). -/
def execCamCfgWrite (w : HostWho) (c : BitVec 3) (v : BitVec 32) (s : State) : Result :=
  rowWrite w (0x410000 + 0x10000 * c.toNat) v.toNat s

/-- I2C_SUBMIT (R369): CI_CMD with SUBMIT. -/
def execI2cSubmit (w : HostWho) (i : BitVec 1) (v : BitVec 32) (s : State) : Result :=
  rowWrite w (0x4A0004 + 0x1000 * i.toNat) (setBits v.toNat 0 2 1) s

/-- I2C_FLUSH (R369): CI_CMD with FLUSH. -/
def execI2cFlush (w : HostWho) (i : BitVec 1) (v : BitVec 32) (s : State) : Result :=
  rowWrite w (0x4A0004 + 0x1000 * i.toNat) (setBits v.toNat 0 2 2) s

/-- SCAN_SUBMIT (R384): SCAN_CMD with SUBMIT. -/
def execScanSubmit (w : HostWho) (v : BitVec 32) (s : State) : Result :=
  rowWrite w 0x500140 (setBits v.toNat 0 2 1) s

/-- SCAN_CANCEL (R390): SCAN_CMD with CANCEL. -/
def execScanCancel (w : HostWho) (v : BitVec 32) (s : State) : Result :=
  rowWrite w 0x500140 (setBits v.toNat 0 2 2) s

/-- SCAN_DISABLE (R391): SCAN_CFG with EN = 0. -/
def execScanDisable (w : HostWho) (v : BitVec 32) (s : State) : Result :=
  rowWrite w 0x500000 (clrBit v.toNat 0) s

/-- SCAN_BIST_START (R403). -/
def execScanBistStart (w : HostWho) (v : BitVec 32) (s : State) : Result :=
  rowWrite w 0x500810 (setBit v.toNat 0) s

/-- RADIO_ENABLE (R409): RADIO_CFG with EN = 1, and the transceiver's answer to IDENT when EN has risen. -/
def execRadioEnable (w : HostWho) (v : BitVec 32) (reply : BitVec 32) (s : State) : Result :=
  let t := rowDone w 0x600000 (setBit v.toNat 0) s
  .next (if radioEn t ∧ ¬ radioEn s ∧ 3 ≤ t.pwr.stage.code ∧ bit t.pwr.vioOk 4 then identReply reply.toNat t else t)

/-- RADIO_DISABLE (R444): RADIO_CFG with EN = 0. -/
def execRadioDisable (w : HostWho) (v : BitVec 32) (s : State) : Result :=
  rowWrite w 0x600000 (clrBit v.toNat 0) s

/-- RADIO_SUBMIT (R433): RADIO_CMD with SUBMIT. -/
def execRadioSubmit (w : HostWho) (v : BitVec 32) (s : State) : Result :=
  rowWrite w 0x600480 (setBits v.toNat 0 2 1) s

/-- RADIO_CANCEL (R433): RADIO_CMD with CANCEL. -/
def execRadioCancel (w : HostWho) (v : BitVec 32) (s : State) : Result :=
  rowWrite w 0x600480 (setBits v.toNat 0 2 2) s

/-- ADMIT (R418): RADIO_CMD with ADMIT. -/
def execAdmit (w : HostWho) (v : BitVec 32) (s : State) : Result :=
  rowWrite w 0x600480 (setBits v.toNat 0 2 3) s

/-- RADIO_NBR_WRITE (R418): the eight words of an entry. -/
def execRadioNbrWrite (w : HostWho) (i : BitVec 9) (v : BitVec 256) (s : State) : Result :=
  rowWords w (0x604000 + 32 * i.toNat) 8 v.toNat s

/-- RADIO_KEY_WRITE (R430): the four words of a key. -/
def execRadioKeyWrite (w : HostWho) (k : BitVec 4) (v : BitVec 128) (s : State) : Result :=
  rowWords w (0x600100 + 16 * k.toNat) 4 v.toNat s

/-- RADIO_FC_OUT_WRITE (R431). -/
def execRadioFcOutWrite (w : HostWho) (v : BitVec 32) (s : State) : Result :=
  rowWrite w 0x600030 v.toNat s

/-- RADIO_BIST_START (R443). -/
def execRadioBistStart (w : HostWho) (v : BitVec 32) (s : State) : Result :=
  rowWrite w 0x600498 (setBit v.toNat 0) s

/-- MON_STEP (R452): MON_CFG with STEP. -/
def execMonStep (w : HostWho) (c : BitVec 5) (v : BitVec 32) (s : State) : Result :=
  rowWrite w (0x700000 + 0x40 * c.toNat) (setBit v.toNat 24) s

/-- MON_CFG_WRITE (R452). -/
def execMonCfgWrite (w : HostWho) (c : BitVec 5) (v : BitVec 32) (s : State) : Result :=
  rowWrite w (0x700000 + 0x40 * c.toNat) v.toNat s

/-- MON_THERM_WRITE (R457): both words. -/
def execMonThermWrite (w : HostWho) (v : BitVec 64) (s : State) : Result :=
  rowWords w 0x700800 2 v.toNat s

/-- SHED_FORCE_WRITE (R459): MON_SHED_CTL. -/
def execShedForceWrite (w : HostWho) (v : BitVec 32) (s : State) : Result :=
  rowWrite w 0x70080C v.toNat s

/-- FC_FIRST_CLR (R477): FC_FIRST_CLR with CLEAR. -/
def execFcFirstClr (w : HostWho) (v : BitVec 32) (s : State) : Result :=
  rowWrite w 0x780910 (setBit v.toNat 31) s

/-- INJECT_ONCE (R478): FC_INJECT with MODE 1. -/
def execInjectOnce (w : HostWho) (v : BitVec 32) (s : State) : Result :=
  rowWrite w 0x780920 (setBits v.toNat 12 2 1) s

/-- INJECT_CONTINUOUS (R478): FC_INJECT with MODE 2. -/
def execInjectContinuous (w : HostWho) (v : BitVec 32) (s : State) : Result :=
  rowWrite w 0x780920 (setBits v.toNat 12 2 2) s

/-- INJECT_PAIR (R478): FC_INJECT with MODE 3. -/
def execInjectPair (w : HostWho) (v : BitVec 32) (s : State) : Result :=
  rowWrite w 0x780920 (setBits v.toNat 12 2 3) s

/-- INJECT_STOP (R478): FC_INJECT with MODE 0. -/
def execInjectStop (w : HostWho) (v : BitVec 32) (s : State) : Result :=
  rowWrite w 0x780920 (setBits v.toNat 12 2 0) s

/-- BOOK_TOKENS_WRITE (R495). -/
def execBookTokensWrite (w : HostWho) (v : BitVec 32) (s : State) : Result :=
  rowWrite w 0x500 v.toNat s

/-- BOOK_CNT_CLR (R486). -/
def execBookCntClr (w : HostWho) (v : BitVec 32) (s : State) : Result :=
  rowWrite w 0x548 (setBit v.toNat 0) s

end Sys2Proof.Machine
end

