-- ==== Sys2Proof/Machine/HostRows.lean ====
section
/-!
DEFINITION. The host ports: PCI Express, the legacy parallel bus, SPI, the board-management window and the binding of ports to Seats (R105 to R124).
-/
namespace Sys2Proof.Machine

open Sys2Proof

/-- Change the host ports. -/
def modHost (f : HostState → HostState) (s : State) : State := { s with host := f s.host }

/-- A function as it stands. -/
def pcieFn (s : State) (n : Nat) : PcieFn := tget .reset s.host.fns n

/-- Change a function. -/
def modFn (n : Nat) (f : PcieFn → PcieFn) (s : State) : State :=
  modHost (fun h => { h with fns := tset .reset h.fns n (f (tget .reset h.fns n)) }) s

/-- What the last read returned. -/
def returned (ws : List Nat) (s : State) : State := modHost (fun h => { h with readData := ws }) s

/-- A read of one word of the window: the word is what the port returns. -/
def hostReads (a : Agent) (off : Nat) : Nat → State → List Nat × State
  | 0, s => ([], s)
  | n + 1, s =>
      let (w, t) := hostRead a (off % 2 ^ 24) s
      let (ws, u) := hostReads a (off + 4) n t
      (w :: ws, u)

/-- SNAPSHOT_READ (R105, R106). -/
def execSnapshotRead (who : HostWho) (off : BitVec 24) (s : State) : Result :=
  .next (if alive s then
      let (w, t) := hostRead (hostAgent who) (off.toNat / 4 * 4) s
      returned [w] t
    else s)

/-- A host write of a word under byte enables: register space and the object aperture take whole words only (R112). -/
def hostWriteBe (a : Agent) (off be v : Nat) (s : State) : State :=
  if be = 0xF ∨ isMemOff off then hostWrite a off be v s else discardCount a (touch a none (dropKeyLoad off s))

/-- HOST_MEMORY_WRITE (R112, R197): a write under byte enables. -/
def execHostMemoryWrite (who : HostWho) (off : BitVec 24) (be : BitVec 4) (v : BitVec 32) (s : State) : Result :=
  .next (if alive s then hostWriteBe (hostAgent who) (off.toNat / 4 * 4) be.toNat v.toNat s else s)

/-- A function answers: it is enabled, the link is up, no FLR is in progress (R110, R113, R114). -/
def fnAnswers (s : State) (n : Nat) : Bool :=
  alive s && s.host.linkUp && !(pcieFn s n).flr && (n == 0 || (pcieFn s n).enabled)

/-- Byte enables of word `i` of `n`. -/
def pcieBe (r : PcieReq) (i n : Nat) : Nat :=
  if i = 0 then r.firstBe.toNat else if i + 1 = n then r.lastBe.toNat else 0xF

/-- The words of a write request in ascending order (R112). -/
def pcieWrites (a : Agent) (r : PcieReq) (n : Nat) : Nat → List (BitVec 32) → State → State
  | _, [], s => s
  | i, v :: vs, s => pcieWrites a r n (i + 1) vs (hostWriteBe a ((r.off.toNat / 4 * 4 + 4 * i) % 2 ^ 24) (pcieBe r i n) v.toNat s)

/-- Configuration fields (R14 and the PCI Express table); a virtual function has its own identity fields all ones and no SR-IOV capability. -/
def pcieIdWord (f : PcieId) (vf : Bool) : Nat :=
  match f with
  | .vendor => if vf then 0xFFFF else 0x1E5A
  | .device => if vf then 0xFFFF else 0x3260
  | .revision => 0x21
  | .classCode => 0x028000
  | .subsysVendor => 0x1E5A
  | .subsysId => 0x3260
  | .serialNumber => if vf then 0 else Config.serial.toNat
  | .vfDevice => if vf then 0 else 0x3260
  | .totalVfs => if vf then 0 else 15
  | .initialVfs => if vf then 0 else 15
  | .vfOffset => if vf then 0 else 1
  | .vfStride => if vf then 0 else 1

/-- MSI-X Enable and Function Mask: messages of the vectors pending go out once MSI-X is enabled and unmasked (R108, R114). -/
def setMsix (n : Nat) (enable mask : Bool) (s : State) : State :=
  let was := (pcieFn s n).msixEn
  let s1 := modFn n (fun f => { f with msixEn := enable, msixMask := mask }) s
  if enable ∧ ¬ was then notify n (modHost (fun h => { h with pendSeen := tset 0 h.pendSeen n 0 }) s1) else msixFlush n s1

/-- VF Enable of the physical function: the functions of S1 to S15 (R110); one that comes to be enabled sends the messages of its vectors pending. -/
def setVfs (on : Bool) (s : State) : State :=
  foldUpto 15 (fun k t =>
    let was := (pcieFn t (k + 1)).enabled
    let t1 := modFn (k + 1) (fun f => { f with enabled := on }) t
    if on ∧ ¬ was then notify (k + 1) (modHost (fun h => { h with pendSeen := tset 0 h.pendSeen (k + 1) 0 }) t1) else t1) s

/-- PCIE_REQUEST (R112, R113). A request that the function does not answer is an Unsupported Request and changes nothing. -/
def execPcieRequest (r : PcieReq) (s : State) : Result :=
  let n := r.fn.toNat
  let a : Agent := ⟨n, 0, 0⟩
  let f := pcieFn s n
  .next (if ¬ fnAnswers s n then returned [] s
    else match r.kind with
      | .read =>
          if f.mse then
            let (ws, t) := hostReads a (r.off.toNat / 4 * 4) r.count.toNat s
            returned ws t
          else returned [] s
      | .write =>
          if ¬ f.mse then s
          else if r.poisoned then aerSet n 12 (discardCount a s)
          else pcieWrites a r r.data.length 0 r.data s
      | .configRead x => returned [pcieIdWord x (n ≠ 0)] s
      | .aerRead => returned [f.aer] s
      | .aerWrite clr => modFn n (fun x => { x with aer := clrMask x.aer clr.toNat }) s
      | .command mse bme => modFn n (fun x => { x with mse := mse, bme := bme }) s
      | .msix enable mask => setMsix n enable mask s
      | .vfEnable on => if n = 0 then setVfs on s else s)

/-- PCIE_LINK_UP (R71, R111): from FRAMED on, with PERST_N high; messages held back go out. -/
def execPcieLinkUp (lanes rate : BitVec 2) (s : State) : Result :=
  .next (if 2 ≤ s.pwr.stage.code ∧ ¬ s.host.perst ∧ ¬ s.host.linkUp then
      seats.foldl (fun t n => msixFlush n t) (modHost (fun h => { h with linkUp := true, linkLanes := lanes.toNat, linkRate := rate.toNat }) s)
    else s)

/-- The link goes down: transfers to and from host memory stop FAULTED, a spill batch in flight fails (R86, R113, R147). -/
def linkDown (s : State) : State :=
  let s1 := dmaHostStop (fun _ => true) (modHost (fun h => { h with linkUp := false, linkLanes := 0, linkRate := 0 }) s)
  if s1.led.batch.isSome then spillFail 2 s1 else s1

/-- PCIE_LINK_DOWN (R113): all Seat state is kept; the physical function reports a Surprise Down. -/
def execPcieLinkDown (s : State) : Result :=
  .next (if s.host.linkUp then faultRaise 34 (aerSet 0 5 (linkDown s)) else s)

/-- PERST_N (R86): the PCIe core and the configuration space of every function. -/
def execPerstN (high : Bool) (s : State) : Result :=
  .next (if ¬ bit s.pwr.vioOk 7 then s
    else if high then modHost (fun h => { h with perst := false }) s
    else linkDown (modHost (fun h => { h with perst := true, fns := [] }) s))

/-- The host-side state of a Seat that an FLR clears (R114). -/
def flrClear (n : Nat) (s : State) : State :=
  let pk := hostPk n 0
  let s1 := modFn n (fun f => { f with flr := true, msixEn := false, msixMask := false, table := [], pba := 0, bme := false, mse := f.mse && n != 0 }) s
  let s2 := notify n (rset s1 (kS n 0x20004) 0xFFFFFFFF)
  let s3 := clearPathCounts pk (modPath pk (fun p => { p with latches := [] }) s2)
  dmaHostStop (fun m => m == n) (rset s3 (kPath pk 0x128) 0)

/-- FLR (R114). -/
def execFlr (fn : BitVec 4) (s : State) : Result :=
  let n := fn.toNat
  .next (if ¬ fnAnswers s n then s
    else if n = 0 then setVfs false (flrClear 0 s)
    else flrClear n s)

/-- FLR_COMPLETE (R114). -/
def execFlrComplete (fn : BitVec 4) (s : State) : Result :=
  .next (modFn fn.toNat (fun f => { f with flr := false }) s)

/-- The Seat on the legacy bus and on SPI (R124). -/
def lbAgent (s : State) : Agent := ⟨bits s.host.bind 0 4, 1, 0⟩
def spiAgent (s : State) : Agent := ⟨bits s.host.bind 4 4, 2, 0⟩

/-- The legacy bus serves: enabled, and VIO_A powered (R62, R124). -/
def lbServes (s : State) : Bool := alive s && bit s.host.bind 8 && bit s.pwr.vioOk 0

/-- SPI serves. -/
def spiServes (s : State) : Bool := alive s && bit s.host.bind 9 && bit s.pwr.vioOk 1

/-- Set the pair latch. -/
def setPair (p : LbPair) (s : State) : State := modHost (fun h => { h with lbPair := p }) s

/-- An access that is not the high half of a held write discards the held low half (R117). -/
def dropHalf (a : Agent) (s : State) : State :=
  match s.host.lbPair with
  | .write _ _ => pairMiss a (setPair .none s)
  | _ => setPair .none s

/-- The half of a word (R117). -/
def halfOf (high : Bool) (w : Nat) : Nat := bits w (if high then 16 else 0) 16

/-- A read of the legacy bus at a byte offset. -/
def lbRead (a : Agent) (off : Nat) (s : State) : State :=
  let word := off / 4 * 4
  if isMemOff off then
    let (v, t) := if seatEnabled s a.seat then endRead a off (memRead a off 2 (dropHalf a s)) else (0, dropHalf a s)
    returned [v] t
  else if off % 4 = 0 then
    let (w, t) := hostRead a word (dropHalf a s)
    returned [halfOf false w] (setPair (.read word (halfOf true w)) t)
  else
    match s.host.lbPair with
    | .read x hi =>
        if x = word then returned [hi] (setPair .none s)
        else
          let (w, t) := hostRead a word (setPair .none s)
          returned [halfOf true w] (pairMiss a t)
    | _ =>
        let (w, t) := hostRead a word (dropHalf a s)
        returned [halfOf true w] (pairMiss a t)

/-- A write of the legacy bus at a byte offset. -/
def lbWrite (a : Agent) (off d : Nat) (s : State) : State :=
  let word := off / 4 * 4
  if isMemOff off then
    let t := dropHalf a s
    if seatEnabled s a.seat then endWrite a off (memWrite a off 2 3 d (dropKeyLoad off t)) else t
  else if off % 4 = 0 then setPair (.write word d) (dropHalf a s)
  else
    match s.host.lbPair with
    | .write x low =>
        if x = word then hostWrite a word 0xF (low + 65536 * d) (setPair .none s)
        else pairMiss a (dropHalf a s)
    | _ => pairMiss a (setPair .none s)

/-- LB_ACK_N signals completion: low as an acknowledge, high at the end of a wait, by ACK_MODE as the access began (R116). -/
def lbEnd (ackMode : Bool) (s : State) : State := modHost (fun h => { h with lbAck := ackMode }) s

/-- LEGACY_BUS_ACCESS (R115 to R117). -/
def execLegacyBusAccess (x : LbAccess) (s : State) : Result :=
  let a := lbAgent s
  let mode := rbit s (kP 0x130) 0
  .next (if ¬ lbServes s then s
    else match x with
      | .read addr => lbEnd mode (lbRead a (2 * addr.toNat) s)
      | .write addr d => lbEnd mode (lbWrite a (2 * addr.toNat) d.toNat s)
      | .bothStrobes =>
          if s.host.lbMode then s
          else hostCause a.seat 5 (modHost (fun h => { h with strobeErr := satAdd 255 h.strobeErr 1 }) s))

/-- An SPI frame that ends in error (R120). -/
def spiFrameError (s : State) : State :=
  hostCause (spiAgent s).seat 4 (modHost (fun h => { h with spiFrameErr := satAdd 255 h.spiFrameErr 1, spiErrPrev := true }) s)

/-- The words of an SPI write frame; those beyond the window are ignored. -/
def spiWords (a : Agent) (addr : Nat) : List (BitVec 32) → State → State
  | [], s => s
  | v :: vs, s => spiWords a (addr + 4) vs (if addr < 2 ^ 24 then hostWrite a addr 0xF v.toNat s else s)

/-- SPI_WRITE (R119, R120). -/
def execSpiWrite (addr : BitVec 24) (words : List (BitVec 32)) (bad : SpiBad) (s : State) : Result :=
  let t := modHost (fun h => { h with readData := [] }) s
  .next (if ¬ spiServes s then s
    else if bad = .unknownCommand ∨ bad = .cutInHeader ∨ addr.toNat % 4 ≠ 0 then spiFrameError t
    else
      let u := spiWords (spiAgent s) addr.toNat words t
      if bad = .cutInWord ∧ addr.toNat + 4 * words.length < 2 ^ 24 then spiFrameError u
      else modHost (fun h => { h with spiErrPrev := false }) u)

/-- The STATUS byte of a read frame (R119): LATE of its first word, ERR_PREV, the bound Seat. -/
def spiStatusByte (s : State) (late : Bool) : Nat := 0x80 + 32 * b2n late + 16 * b2n s.host.spiErrPrev + (spiAgent s).seat

/-- SPI_READ (R119 to R121): word `k` is read while the word before it is shifted, so one word more than is shifted out is read; from the word
that is not ready on, 0xFF is sent and nothing more is read. -/
def execSpiRead (addr : BitVec 24) (n : BitVec 8) (late : Option (BitVec 8)) (bad : SpiBad) (s : State) : Result :=
  let a := spiAgent s
  let room := (2 ^ 24 - addr.toNat) / 4
  let shifted := min n.toNat room
  let made : Nat := match late with
    | some j => if j.toNat < shifted then j.toNat + 1 else min (shifted + 1) room
    | none => min (shifted + 1) room
  let lateAt : Option Nat := late.bind (fun j => if j.toNat < shifted then some j.toNat else none)
  .next (if ¬ spiServes s then s
    else if bad = .unknownCommand ∨ bad = .cutInHeader ∨ addr.toNat % 4 ≠ 0 then spiFrameError (returned [] s)
    else
      let (ws, t) := hostReads a addr.toNat made s
      let u := modHost (fun h => { h with spiStatus := spiStatusByte s (lateAt = some 0) }) t
      match lateAt with
      | some j =>
          hostCause a.seat 4 (modHost (fun h => { h with spiLate := satAdd 255 h.spiLate 1, spiErrPrev := true })
            (returned (ws.take j ++ List.replicate (shifted - j) 0xFFFFFFFF) u))
      | none => modHost (fun h => { h with spiErrPrev := false }) (returned (ws.take shifted) u))

/-- HOST_BIND_APPLY (R124): the ports are idle; the legacy bus's previous access was another Seat's. -/
def execHostBindApply (s : State) : Result :=
  .next (match s.host.bindPending with
    | none => s
    | some b => modHost (fun h => { h with bind := b, bindPending := none, lbPair := if bits b 0 4 = bits h.bind 0 4 then h.lbPair else .none }) s)

/-- The value of a register as S0 reads it. -/
def partValue (s : State) (off : Nat) : Nat :=
  match regAt s 0 0 off false with
  | .reg r => regValue s 0 0 r
  | _ => 0

/-- An ENG value in 16 bits: signed, or saturating at 0 and 65 535. -/
def engSigned (s : State) (c : Nat) : Nat := img 16 (clampI (-32768) 32767 (sgn 32 (partValue s (0x700020 + 0x40 * c) % 2 ^ 32)))
def engUnsigned (s : State) (c : Nat) : Nat := (clampI 0 65535 (sgn 32 (partValue s (0x700020 + 0x40 * c) % 2 ^ 32))).toNat

/-- FLAGS of the window. -/
def i2cFlags (s : State) : Nat :=
  b2n s.lt.refclkOk + 2 * b2n s.pwr.retValid + 4 * b2n s.pwr.vstbA + 8 * b2n s.pwr.vstbB + 16 * b2n s.pwr.atRisk
    + 32 * (fcAliveWord s % 2) + 64 * (if alive s then bits (fcFirst s 0) 25 1 else 0) + 128 * b2n s.pwr.bootHold

/-- The fields of the window that read 0 before SAFE: first byte, length, value (R123). -/
def i2cSafeFields (s : State) : List (Nat × Nat × Nat) :=
  let first := fcFirst s 0
  [(0x12, 1, s.lt.mode.code), (0x14, 6, s.lt.frame)]
    ++ (List.range 8).map (fun k => (0x20 + 2 * k, 2, engSigned s k))
    ++ (List.range 4).map (fun k => (0x30 + 2 * k, 2, engUnsigned s (8 + k)))
    ++ [(0x38, 1, monThermState s % 256)
      , (0x40, 8, bits first 0 16 + 2 ^ 16 * bits first 16 2 + 2 ^ 24 * bits first 18 3 + 2 ^ 32 * bits first 32 32)
      , (0x48, 2, partValue s 0x780918), (0x50, 4, partValue s 0x7C0004)]

/-- The other fields. -/
def i2cFields (s : State) : List (Nat × Nat × Nat) :=
  let st := pwrStageWord s
  [(0x00, 2, 0x1E5A), (0x02, 2, 0x3260), (0x04, 1, 0x21), (0x05, 1, 1), (0x06, 8, Config.serial.toNat), (0x0E, 1, bits st 0 3)
    , (0x0F, 1, bits st 3 2), (0x10, 1, i2cFlags s), (0x11, 1, s.pwr.resetCause)
    , (0x60, 1, if s.host.linkUp then s.host.linkRate + 16 * s.host.linkLanes else 0), (0x62, 2, rget s (kP 0x20) ||| 1)
    , (0x64, 1, bits (s.host.bindPending.getD s.host.bind) 0 8), (0x65, 1, s.host.i2cDrop)]

/-- A byte of the window (R123); reserved bytes read 0. -/
def i2cByte (s : State) (k : Nat) : Nat :=
  let fields := i2cFields s ++ (if alive s then i2cSafeFields s else [])
  match fields.find? (fun f => decide (f.1 ≤ k ∧ k < f.1 + f.2.1)) with
  | some (base, _, v) => bits v (8 * (k - base)) 8
  | none => 0

/-- The window answers (R122): VIO_B is powered, and 1 ms has passed since PWR_GOOD rose. -/
def i2cServes (s : State) : Bool := s.host.i2cReady && s.pwr.pwrGood && bit s.pwr.vioOk 1

/-- I2C_WRITE (R122): the first byte is the pointer; the others are counted. -/
def execI2cWrite (bytes : List Byte) (s : State) : Result :=
  .next (if ¬ i2cServes s then s
    else match bytes with
      | [] => s
      | p :: rest => modHost (fun h => { h with i2cPtr := p.toNat, i2cDrop := satAdd 255 h.i2cDrop rest.length }) s)

/-- I2C_READ (R122): a transfer sees one state of every field, so that each multi-byte field is whole. -/
def execI2cRead (n : BitVec 9) (s : State) : Result :=
  .next (if ¬ i2cServes s then returned [] s
    else
      let p := s.host.i2cPtr
      returned ((List.range n.toNat).map (fun k => i2cByte s ((p + k) % 256))) (modHost (fun h => { h with i2cPtr := (p + n.toNat) % 256 }) s))

/-- I2C_WINDOW_READY (R122). -/
def execI2cWindowReady (s : State) : Result :=
  .next (if s.pwr.pwrGood then modHost (fun h => { h with i2cReady := true }) s else s)

end Sys2Proof.Machine
end

