-- ==== Sys2Proof/Machine/Dispatch.lean ====
section
/-!
DEFINITION. What each command does: one arm per constructor of the command type, each a direct call of its meaning.
-/
namespace Sys2Proof.Machine

open Sys2Proof

def exec (i : Instr) (s : State) : Host.Outcome State Fault Refusal :=
  match i with
  | .hostRegisterWrite who off v => Sys2Proof.Machine.execHostRegisterWrite who off v s
  | .snapshotRead who off => Sys2Proof.Machine.execSnapshotRead who off s
  | .hostMemoryWrite who off be v => Sys2Proof.Machine.execHostMemoryWrite who off be v s
  | .pcieRequest r => Sys2Proof.Machine.execPcieRequest r s
  | .pcieLinkUp lanes rate => Sys2Proof.Machine.execPcieLinkUp lanes rate s
  | .pcieLinkDown => Sys2Proof.Machine.execPcieLinkDown s
  | .perstN high => Sys2Proof.Machine.execPerstN high s
  | .flr fn => Sys2Proof.Machine.execFlr fn s
  | .flrComplete fn => Sys2Proof.Machine.execFlrComplete fn s
  | .legacyBusAccess a => Sys2Proof.Machine.execLegacyBusAccess a s
  | .spiWrite addr words bad => Sys2Proof.Machine.execSpiWrite addr words bad s
  | .spiRead addr n late bad => Sys2Proof.Machine.execSpiRead addr n late bad s
  | .i2cWrite bytes => Sys2Proof.Machine.execI2cWrite bytes s
  | .i2cRead n => Sys2Proof.Machine.execI2cRead n s
  | .hostBindWrite who v => Sys2Proof.Machine.execHostBindWrite who v s
  | .hostBindApply => Sys2Proof.Machine.execHostBindApply s
  | .hostErrClr who v => Sys2Proof.Machine.execHostErrClr who v s
  | .timingInputEdge sel phase => Sys2Proof.Machine.execTimingInputEdge sel phase s
  | .timingInputMiss idx => Sys2Proof.Machine.execTimingInputMiss idx s
  | .refclkLoss => Sys2Proof.Machine.execRefclkLoss s
  | .refclkReturn => Sys2Proof.Machine.execRefclkReturn s
  | .frameBoundary => Sys2Proof.Machine.execFrameBoundary s
  | .ltFrameLoadWrite who v => Sys2Proof.Machine.execLtFrameLoadWrite who v s
  | .clrEvents who v => Sys2Proof.Machine.execClrEvents who v s
  | .calendarAdd who v => Sys2Proof.Machine.execCalendarAdd who v s
  | .calendarRemove who v => Sys2Proof.Machine.execCalendarRemove who v s
  | .calendarIssue idx => Sys2Proof.Machine.execCalendarIssue idx s
  | .commitGo who v => Sys2Proof.Machine.execCommitGo who v s
  | .commitCancel who v => Sys2Proof.Machine.execCommitCancel who v s
  | .domainWakeDone d => Sys2Proof.Machine.execDomainWakeDone d s
  | .domainWakeTimeout d => Sys2Proof.Machine.execDomainWakeTimeout d s
  | .domainGate d => Sys2Proof.Machine.execDomainGate d s
  | .pwrGoodRise bootHold txMute lbMode i2cAddr => Sys2Proof.Machine.execPwrGoodRise bootHold txMute lbMode i2cAddr s
  | .safeEntry => Sys2Proof.Machine.execSafeEntry s
  | .startRecord => Sys2Proof.Machine.execStartRecord s
  | .framedEntry => Sys2Proof.Machine.execFramedEntry s
  | .stageTimeout => Sys2Proof.Machine.execStageTimeout s
  | .release who v => Sys2Proof.Machine.execRelease who v s
  | .advance who v => Sys2Proof.Machine.execAdvance who v s
  | .railDetect => Sys2Proof.Machine.execRailDetect s
  | .pwrGoodFall => Sys2Proof.Machine.execPwrGoodFall s
  | .powerLoss => Sys2Proof.Machine.execPowerLoss s
  | .vstbChange a b => Sys2Proof.Machine.execVstbChange a b s
  | .resetNAssert => Sys2Proof.Machine.execResetNAssert s
  | .warmResetArm who v => Sys2Proof.Machine.execWarmResetArm who v s
  | .warmResetFire who v => Sys2Proof.Machine.execWarmResetFire who v s
  | .warmResetDisarm => Sys2Proof.Machine.execWarmResetDisarm s
  | .tapReset => Sys2Proof.Machine.execTapReset s
  | .sealComplete => Sys2Proof.Machine.execSealComplete s
  | .gapAppend => Sys2Proof.Machine.execGapAppend s
  | .ledgerKeyWrite who w v => Sys2Proof.Machine.execLedgerKeyWrite who w v s
  | .ledgerKeyTimeout => Sys2Proof.Machine.execLedgerKeyTimeout s
  | .spillBatchStart => Sys2Proof.Machine.execSpillBatchStart s
  | .spillFlushComplete => Sys2Proof.Machine.execSpillFlushComplete s
  | .spillFlushFail urCa => Sys2Proof.Machine.execSpillFlushFail s urCa
  | .spillRetry => Sys2Proof.Machine.execSpillRetry s
  | .ledgerSpillConsWrite who v => Sys2Proof.Machine.execLedgerSpillConsWrite who v s
  | .ledgerSpillCtlWrite who v => Sys2Proof.Machine.execLedgerSpillCtlWrite who v s
  | .add n f => Sys2Proof.Machine.execAdd n f s
  | .adc n f => Sys2Proof.Machine.execAdc n f s
  | .sub n f => Sys2Proof.Machine.execSub n f s
  | .sbc n f => Sys2Proof.Machine.execSbc n f s
  | .and n f => Sys2Proof.Machine.execAnd n f s
  | .or n f => Sys2Proof.Machine.execOr n f s
  | .xor n f => Sys2Proof.Machine.execXor n f s
  | .andn n f => Sys2Proof.Machine.execAndn n f s
  | .shl n f => Sys2Proof.Machine.execShl n f s
  | .shr n f => Sys2Proof.Machine.execShr n f s
  | .sar n f => Sys2Proof.Machine.execSar n f s
  | .ror n f => Sys2Proof.Machine.execRor n f s
  | .mul n f => Sys2Proof.Machine.execMul n f s
  | .mulhu n f => Sys2Proof.Machine.execMulhu n f s
  | .mulhs n f => Sys2Proof.Machine.execMulhs n f s
  | .divu n f => Sys2Proof.Machine.execDivu n f s
  | .remu n f => Sys2Proof.Machine.execRemu n f s
  | .divs n f => Sys2Proof.Machine.execDivs n f s
  | .rems n f => Sys2Proof.Machine.execRems n f s
  | .mins n f => Sys2Proof.Machine.execMins n f s
  | .maxs n f => Sys2Proof.Machine.execMaxs n f s
  | .minu n f => Sys2Proof.Machine.execMinu n f s
  | .maxu n f => Sys2Proof.Machine.execMaxu n f s
  | .clz n f => Sys2Proof.Machine.execClz n f s
  | .popc n f => Sys2Proof.Machine.execPopc n f s
  | .bswap n f => Sys2Proof.Machine.execBswap n f s
  | .cmp n f => Sys2Proof.Machine.execCmp n f s
  | .tst n f => Sys2Proof.Machine.execTst n f s
  | .csel n f => Sys2Proof.Machine.execCsel n f s
  | .addi n f => Sys2Proof.Machine.execAddi n f s
  | .cmpi n f => Sys2Proof.Machine.execCmpi n f s
  | .andi n f => Sys2Proof.Machine.execAndi n f s
  | .ori n f => Sys2Proof.Machine.execOri n f s
  | .xori n f => Sys2Proof.Machine.execXori n f s
  | .shli n f => Sys2Proof.Machine.execShli n f s
  | .shri n f => Sys2Proof.Machine.execShri n f s
  | .sari n f => Sys2Proof.Machine.execSari n f s
  | .rori n f => Sys2Proof.Machine.execRori n f s
  | .lui n f => Sys2Proof.Machine.execLui n f s
  | .ldW n f => Sys2Proof.Machine.execLdW n f s
  | .ldHu n f => Sys2Proof.Machine.execLdHu n f s
  | .ldBu n f => Sys2Proof.Machine.execLdBu n f s
  | .ldsH n f => Sys2Proof.Machine.execLdsH n f s
  | .ldsB n f => Sys2Proof.Machine.execLdsB n f s
  | .stW n f => Sys2Proof.Machine.execStW n f s
  | .stH n f => Sys2Proof.Machine.execStH n f s
  | .stB n f => Sys2Proof.Machine.execStB n f s
  | .ldxW n f => Sys2Proof.Machine.execLdxW n f s
  | .ldxHu n f => Sys2Proof.Machine.execLdxHu n f s
  | .ldxBu n f => Sys2Proof.Machine.execLdxBu n f s
  | .stxW n f => Sys2Proof.Machine.execStxW n f s
  | .stxH n f => Sys2Proof.Machine.execStxH n f s
  | .stxB n f => Sys2Proof.Machine.execStxB n f s
  | .old n f => Sys2Proof.Machine.execOld n f s
  | .ost n f => Sys2Proof.Machine.execOst n f s
  | .rld n f => Sys2Proof.Machine.execRld n f s
  | .rst n f => Sys2Proof.Machine.execRst n f s
  | .aadd n f => Sys2Proof.Machine.execAadd n f s
  | .aand n f => Sys2Proof.Machine.execAand n f s
  | .aor n f => Sys2Proof.Machine.execAor n f s
  | .axor n f => Sys2Proof.Machine.execAxor n f s
  | .aswp n f => Sys2Proof.Machine.execAswp n f s
  | .aminu n f => Sys2Proof.Machine.execAminu n f s
  | .amaxu n f => Sys2Proof.Machine.execAmaxu n f s
  | .cas n f => Sys2Proof.Machine.execCas n f s
  | .blkmov n f stopAfter => Sys2Proof.Machine.execBlkmov n f stopAfter s
  | .csetn n f stopAfter => Sys2Proof.Machine.execCsetn n f stopAfter s
  | .timeSliceEnd n => Sys2Proof.Machine.execTimeSliceEnd n s
  | .cwr n f => Sys2Proof.Machine.execCwr n f s
  | .crd n f => Sys2Proof.Machine.execCrd n f s
  | .cdel n f => Sys2Proof.Machine.execCdel n f s
  | .cstate n f => Sys2Proof.Machine.execCstate n f s
  | .pxatt n f => Sys2Proof.Machine.execPxatt n f s
  | .pxdet n f => Sys2Proof.Machine.execPxdet n f s
  | .preq n f => Sys2Proof.Machine.execPreq n f s
  | .cmtGo n f => Sys2Proof.Machine.execCmtGo n f s
  | .cmtCancel n f => Sys2Proof.Machine.execCmtCancel n f s
  | .sjob n f => Sys2Proof.Machine.execSjob n f s
  | .scancel n f => Sys2Proof.Machine.execScancel n f s
  | .rtx n f => Sys2Proof.Machine.execRtx n f s
  | .rrx n f => Sys2Proof.Machine.execRrx n f s
  | .dstart n f => Sys2Proof.Machine.execDstart n f s
  | .dstat n f => Sys2Proof.Machine.execDstat n f s
  | .dstop n f => Sys2Proof.Machine.execDstop n f s
  | .wlt n f => Sys2Proof.Machine.execWlt n f s
  | .wltWake n => Sys2Proof.Machine.execWltWake n s
  | .wbnd n f => Sys2Proof.Machine.execWbnd n f s
  | .wev n f => Sys2Proof.Machine.execWev n f s
  | .wevTimeout n => Sys2Proof.Machine.execWevTimeout n s
  | .sig n f => Sys2Proof.Machine.execSig n f s
  | .clrev n f => Sys2Proof.Machine.execClrev n f s
  | .hev n f => Sys2Proof.Machine.execHev n f s
  | .yield n f => Sys2Proof.Machine.execYield n f s
  | .stop n f => Sys2Proof.Machine.execStop n f s
  | .spawn n f => Sys2Proof.Machine.execSpawn n f s
  | .trap n f => Sys2Proof.Machine.execTrap n f s
  | .fence n f => Sys2Proof.Machine.execFence n f s
  | .mfs n f => Sys2Proof.Machine.execMfs n f s
  | .mts n f => Sys2Proof.Machine.execMts n f s
  | .getf n f => Sys2Proof.Machine.execGetf n f s
  | .setf n f => Sys2Proof.Machine.execSetf n f s
  | .bCond n f => Sys2Proof.Machine.execBCond n f s
  | .blCond n f => Sys2Proof.Machine.execBlCond n f s
  | .jr n f => Sys2Proof.Machine.execJr n f s
  | .jlr n f => Sys2Proof.Machine.execJlr n f s
  | .stallEnd n => Sys2Proof.Machine.execStallEnd n s
  | .stCtlWrite who k v => Sys2Proof.Machine.execStCtlWrite who k v s
  | .stStart who k v => Sys2Proof.Machine.execStStart who k v s
  | .stRetry who k v => Sys2Proof.Machine.execStRetry who k v s
  | .stSkip who k v => Sys2Proof.Machine.execStSkip who k v s
  | .stAbort who k v => Sys2Proof.Machine.execStAbort who k v s
  | .stCtxWrite who k off v => Sys2Proof.Machine.execStCtxWrite who k off v s
  | .stEventSet who high v => Sys2Proof.Machine.execStEventSet who high v s
  | .dmaStart who c v => Sys2Proof.Machine.execDmaStart who c v s
  | .dmaStop who c v => Sys2Proof.Machine.execDmaStop who c v s
  | .dmaBurstGrant m => Sys2Proof.Machine.execDmaBurstGrant m s
  | .dmaBurstComplete m hostData => Sys2Proof.Machine.execDmaBurstComplete m hostData s
  | .dmaHostCompletionFault m timeout => Sys2Proof.Machine.execDmaHostCompletionFault m s timeout
  | .lineFrameReceive p r => Sys2Proof.Machine.execLineFrameReceive p r s
  | .losDeclare p => Sys2Proof.Machine.execLosDeclare p s
  | .sdWindowEnd p exc => Sys2Proof.Machine.execSdWindowEnd p exc s
  | .lineFrameTransmit p g => Sys2Proof.Machine.execLineFrameTransmit p g s
  | .ptrBeyondClear p => Sys2Proof.Machine.execPtrBeyondClear p s
  | .lineTxmonFail p => Sys2Proof.Machine.execLineTxmonFail p s
  | .lineTxmonClear p => Sys2Proof.Machine.execLineTxmonClear p s
  | .gfpFrameReceive c r => Sys2Proof.Machine.execGfpFrameReceive c r s
  | .gfpFrameTransmit c => Sys2Proof.Machine.execGfpFrameTransmit c s
  | .lpCntClr who p v => Sys2Proof.Machine.execLpCntClr who p v s
  | .connEntryWrite who addr v => Sys2Proof.Machine.execConnEntryWrite who addr v s
  | .tileLoadComplete lo => Sys2Proof.Machine.execTileLoadComplete lo s
  | .tileCompareMismatch lo => Sys2Proof.Machine.execTileCompareMismatch lo s
  | .tileBistPassEnd lo t fail => Sys2Proof.Machine.execTileBistPassEnd lo t fail s
  | .tileDatapathFault lo t => Sys2Proof.Machine.execTileDatapathFault lo t s
  | .retest who v => Sys2Proof.Machine.execRetest who v s
  | .swapSuspect who v => Sys2Proof.Machine.execSwapSuspect who v s
  | .stepNow who v => Sys2Proof.Machine.execStepNow who v s
  | .rotEnWrite who v => Sys2Proof.Machine.execRotEnWrite who v s
  | .clear who a => Sys2Proof.Machine.execClear who a s
  | .lockout who a => Sys2Proof.Machine.execLockout who a s
  | .forceP who a => Sys2Proof.Machine.execForceP who a s
  | .forceW who a => Sys2Proof.Machine.execForceW who a s
  | .manualP who a => Sys2Proof.Machine.execManualP who a s
  | .manualW who a => Sys2Proof.Machine.execManualW who a s
  | .exercise who a => Sys2Proof.Machine.execExercise who a s
  | .exerciseEnd p => Sys2Proof.Machine.execExerciseEnd p s
  | .condSfW who a => Sys2Proof.Machine.execCondSfW who a s
  | .condSdW who a => Sys2Proof.Machine.execCondSdW who a s
  | .condClrW who a => Sys2Proof.Machine.execCondClrW who a s
  | .condSfP who a => Sys2Proof.Machine.execCondSfP who a s
  | .condSdP who a => Sys2Proof.Machine.execCondSdP who a s
  | .condClrP who a => Sys2Proof.Machine.execCondClrP who a s
  | .holdoffExpiry o k => Sys2Proof.Machine.execHoldoffExpiry o k s
  | .wtrExpiry o => Sys2Proof.Machine.execWtrExpiry o s
  | .fopDeclare p => Sys2Proof.Machine.execFopDeclare p s
  | .pxAttach who v => Sys2Proof.Machine.execPxAttach who v s
  | .pxDetach who v => Sys2Proof.Machine.execPxDetach who v s
  | .overrideSet who v => Sys2Proof.Machine.execOverrideSet who v s
  | .overrideClear who v => Sys2Proof.Machine.execOverrideClear who v s
  | .matePulseEdge => Sys2Proof.Machine.execMatePulseEdge s
  | .pulsePathSilent => Sys2Proof.Machine.execPulsePathSilent s
  | .heartbeatReceive h phase => Sys2Proof.Machine.execHeartbeatReceive h phase s
  | .msgPathSilent => Sys2Proof.Machine.execMsgPathSilent s
  | .listenWindowEnd => Sys2Proof.Machine.execListenWindowEnd s
  | .leaseExpiryTake => Sys2Proof.Machine.execLeaseExpiryTake s
  | .releaseReceive m ok => Sys2Proof.Machine.execReleaseReceive m ok s
  | .releaseTimeout => Sys2Proof.Machine.execReleaseTimeout s
  | .mateRelease who v => Sys2Proof.Machine.execMateRelease who v s
  | .mateTake who v => Sys2Proof.Machine.execMateTake who v s
  | .mateResync who v => Sys2Proof.Machine.execMateResync who v s
  | .mateEnWrite who v => Sys2Proof.Machine.execMateEnWrite who v s
  | .deltaQueueRoom => Sys2Proof.Machine.execDeltaQueueRoom s
  | .epochOpenReceive m ok => Sys2Proof.Machine.execEpochOpenReceive m ok s
  | .deltaReceive d ok => Sys2Proof.Machine.execDeltaReceive d ok s
  | .epochTrailerReceive t ok => Sys2Proof.Machine.execEpochTrailerReceive t ok s
  | .snapReqReceive lastSeq ok => Sys2Proof.Machine.execSnapReqReceive lastSeq ok s
  | .snapBeginReceive base chunks ok => Sys2Proof.Machine.execSnapBeginReceive base chunks ok s
  | .snapEndReceive chunks crc ok => Sys2Proof.Machine.execSnapEndReceive chunks crc ok s
  | .snapshotTimeout => Sys2Proof.Machine.execSnapshotTimeout s
  | .dunteFrameReceive l r => Sys2Proof.Machine.execDunteFrameReceive l r s
  | .dunteFrameTransmit l => Sys2Proof.Machine.execDunteFrameTransmit l s
  | .trainTimeout l => Sys2Proof.Machine.execTrainTimeout l s
  | .dunteLos l => Sys2Proof.Machine.execDunteLos l s
  | .laneWindowEnd l => Sys2Proof.Machine.execLaneWindowEnd l s
  | .laneTxmonFail l => Sys2Proof.Machine.execLaneTxmonFail l s
  | .crCfgWrite who r v => Sys2Proof.Machine.execCrCfgWrite who r v s
  | .deskewBurst r => Sys2Proof.Machine.execDeskewBurst r s
  | .csi2PacketReceive r p => Sys2Proof.Machine.execCsi2PacketReceive r p s
  | .frameStart r vc num => Sys2Proof.Machine.execFrameStart r vc num s
  | .frameEnd r vc num => Sys2Proof.Machine.execFrameEnd r vc num s
  | .pixelLine r vc dt payload crc => Sys2Proof.Machine.execPixelLine r vc dt payload crc s
  | .embeddedData r vc payload crc => Sys2Proof.Machine.execEmbeddedData r vc payload crc s
  | .frameTimeout c => Sys2Proof.Machine.execFrameTimeout c s
  | .linkIdleTimeout r => Sys2Proof.Machine.execLinkIdleTimeout r s
  | .scanPlaneComplete c => Sys2Proof.Machine.execScanPlaneComplete c s
  | .camBindWrite who c v => Sys2Proof.Machine.execCamBindWrite who c v s
  | .camCfgWrite who c v => Sys2Proof.Machine.execCamCfgWrite who c v s
  | .i2cSubmit who idx v => Sys2Proof.Machine.execI2cSubmit who idx v s
  | .i2cFlush who idx v => Sys2Proof.Machine.execI2cFlush who idx v s
  | .i2cJobStart idx => Sys2Proof.Machine.execI2cJobStart idx s
  | .i2cJobComplete idx detail data => Sys2Proof.Machine.execI2cJobComplete idx detail data s
  | .i2cStretchTimeout idx => Sys2Proof.Machine.execI2cStretchTimeout idx s
  | .triggerPulseStart t => Sys2Proof.Machine.execTriggerPulseStart t s
  | .triggerPulseEnd t => Sys2Proof.Machine.execTriggerPulseEnd t s
  | .scanSubmit who v => Sys2Proof.Machine.execScanSubmit who v s
  | .scanCancel who v => Sys2Proof.Machine.execScanCancel who v s
  | .scanCommit job => Sys2Proof.Machine.execScanCommit job s
  | .strobeOn l => Sys2Proof.Machine.execStrobeOn l s
  | .strobeOff l => Sys2Proof.Machine.execStrobeOff l s
  | .scanNoFrame job => Sys2Proof.Machine.execScanNoFrame job s
  | .finderComplete job n more => Sys2Proof.Machine.execFinderComplete job n more s
  | .decodeComplete u r => Sys2Proof.Machine.execDecodeComplete u r s
  | .scanResultRecord job => Sys2Proof.Machine.execScanResultRecord job s
  | .scanDeadline job => Sys2Proof.Machine.execScanDeadline job s
  | .scanDisable who v => Sys2Proof.Machine.execScanDisable who v s
  | .decodeBistStart u => Sys2Proof.Machine.execDecodeBistStart u s
  | .decodeBistEnd u fail => Sys2Proof.Machine.execDecodeBistEnd u fail s
  | .scanBistStart who v => Sys2Proof.Machine.execScanBistStart who v s
  | .scanOfflineBistBegin => Sys2Proof.Machine.execScanOfflineBistBegin s
  | .scanOfflineBistEnd failed => Sys2Proof.Machine.execScanOfflineBistEnd failed s
  | .radioEnable who v reply => Sys2Proof.Machine.execRadioEnable who v reply s
  | .identRetry reply => Sys2Proof.Machine.execIdentRetry reply s
  | .radioPortFault => Sys2Proof.Machine.execRadioPortFault s
  | .radioDisable who v => Sys2Proof.Machine.execRadioDisable who v s
  | .radioFrameReceive r => Sys2Proof.Machine.execRadioFrameReceive r s
  | .radioSubmit who v => Sys2Proof.Machine.execRadioSubmit who v s
  | .radioCancel who v => Sys2Proof.Machine.execRadioCancel who v s
  | .radioAdmit who v => Sys2Proof.Machine.execAdmit who v s
  | .radioNbrWrite who idx v => Sys2Proof.Machine.execRadioNbrWrite who idx v s
  | .radioKeyWrite who k v => Sys2Proof.Machine.execRadioKeyWrite who k v s
  | .radioFcOutWrite who v => Sys2Proof.Machine.execRadioFcOutWrite who v s
  | .transmitAttempt id => Sys2Proof.Machine.execTransmitAttempt id s
  | .ccaComplete busy => Sys2Proof.Machine.execCcaComplete busy s
  | .transmissionEnd => Sys2Proof.Machine.execTransmissionEnd s
  | .ackTimeout id => Sys2Proof.Machine.execAckTimeout id s
  | .radioFrameDeadline id => Sys2Proof.Machine.execRadioFrameDeadline id s
  | .pollWindowDecision idx => Sys2Proof.Machine.execPollWindowDecision idx s
  | .pollWindowMiss idx => Sys2Proof.Machine.execPollWindowMiss idx s
  | .tagDrop idx => Sys2Proof.Machine.execTagDrop idx s
  | .floodRebroadcastEligible => Sys2Proof.Machine.execFloodRebroadcastEligible s
  | .seenEntryExpiry => Sys2Proof.Machine.execSeenEntryExpiry s
  | .radioBistPassEnd fail => Sys2Proof.Machine.execRadioBistPassEnd fail s
  | .radioBistStart who v => Sys2Proof.Machine.execRadioBistStart who v s
  | .radioOfflineBistEnd => Sys2Proof.Machine.execRadioOfflineBistEnd s
  | .adcConversion slot code calFail => Sys2Proof.Machine.execAdcConversion slot code calFail s
  | .monStep who c v => Sys2Proof.Machine.execMonStep who c v s
  | .monCfgWrite who c v => Sys2Proof.Machine.execMonCfgWrite who c v s
  | .monThermWrite who v => Sys2Proof.Machine.execMonThermWrite who v s
  | .shedForceWrite who v => Sys2Proof.Machine.execShedForceWrite who v s
  | .faultRaise src pair word => Sys2Proof.Machine.execFaultRaise src pair word s
  | .faultSweep src passed => Sys2Proof.Machine.execFaultSweep src passed s
  | .handlingWindowEnd => Sys2Proof.Machine.execHandlingWindowEnd s
  | .fcFirstClr who v => Sys2Proof.Machine.execFcFirstClr who v s
  | .injectOnce who v => Sys2Proof.Machine.execInjectOnce who v s
  | .injectContinuous who v => Sys2Proof.Machine.execInjectContinuous who v s
  | .injectPair who v => Sys2Proof.Machine.execInjectPair who v s
  | .injectStop who v => Sys2Proof.Machine.execInjectStop who v s
  | .aliveReadback => Sys2Proof.Machine.execAliveReadback s
  | .emitterReadbackMismatch e => Sys2Proof.Machine.execEmitterReadbackMismatch e s
  | .bookTokensWrite who v => Sys2Proof.Machine.execBookTokensWrite who v s
  | .bookCntClr who v => Sys2Proof.Machine.execBookCntClr who v s
  | .dunteCodeLock l => Sys2Proof.Machine.execDunteCodeLock l s
  | .i2cWindowReady => Sys2Proof.Machine.execI2cWindowReady s
  | .vioBankPowerChange bank present => Sys2Proof.Machine.execVioBankPowerChange bank present s

end Sys2Proof.Machine
end

