-- ==== Sys2Proof/Machine/Step.lean ====
section
/-!
DEFINITION. One step: the command at the front of the queue runs on the state with the queue's rest. On an empty queue the block idles: LT moves on by
one phase unit inside the frame in progress, and every other effect of time is a command of its own.
-/
namespace Sys2Proof.Machine

open Sys2Proof

/-- An idle step (R17): one phase unit, up to the last of the frame (R32, R33), while LT runs (from SAFE on). -/
def idle (s : State) : State :=
  if alive s && decide (s.lt.phase < frameLast s) then { s with lt := { s.lt with phase := s.lt.phase + 1 } } else s

/-- One step of the block. -/
def step (s : State) : Host.Outcome State Fault Refusal :=
  match s.pending with
  | [] => .next (idle s)
  | c :: rest => exec c { s with pending := rest }

/-- The state with the command that a table word spells at the front of its queue. -/
def State.withFetchWord (s : State) (nbits w : Nat) : State :=
  match decodeTableWord nbits w with
  | some c => { s with pending := c :: s.pending }
  | none => s

end Sys2Proof.Machine
end

