-- ==== Sys2Proof/WellFormed.lean ====
section
/-!
DEFINITION. Well-formed commands: the operands that name an object, a source, a conversion slot or a phase lie in the ranges of the spec. Every other
operand fits its field by its type. A Celec word spells the command that carries it, or no instruction.
-/
namespace Sys2Proof

/-- Tiles of a fabric: the groups and the one that rests (R259, R260). -/
def tileCount (lo : Bool) : Nat := if lo then 9 else 25

/-- The strand and the word of a Celec command. -/
def Instr.celecWord : Instr → Option (BitVec 6 × BitVec 32)
  | .add n f | .adc n f | .sub n f | .sbc n f | .and n f | .or n f | .xor n f | .andn n f | .shl n f | .shr n f | .sar n f | .ror n f
  | .mul n f | .mulhu n f | .mulhs n f | .divu n f | .remu n f | .divs n f | .rems n f | .mins n f | .maxs n f | .minu n f | .maxu n f
  | .clz n f | .popc n f | .bswap n f | .cmp n f | .tst n f | .csel n f | .ost n f | .rst n f | .aadd n f | .aand n f | .aor n f
  | .axor n f | .aswp n f | .aminu n f | .amaxu n f | .cas n f | .cwr n f | .crd n f | .cdel n f | .cstate n f | .pxatt n f | .pxdet n f
  | .preq n f | .cmtGo n f | .cmtCancel n f | .sjob n f | .scancel n f | .rtx n f | .rrx n f | .dstart n f | .dstat n f | .dstop n f
  | .wlt n f | .wbnd n f | .wev n f | .sig n f | .clrev n f | .hev n f | .yield n f | .stop n f | .spawn n f | .trap n f | .fence n f
  | .mfs n f | .mts n f | .getf n f | .setf n f | .jr n f | .jlr n f => some (n, f.word)
  | .blkmov n f _ | .csetn n f _ => some (n, f.word)
  | .addi n f | .cmpi n f | .andi n f | .ori n f | .xori n f | .shli n f | .shri n f | .sari n f | .rori n f | .lui n f | .ldW n f
  | .ldHu n f | .ldBu n f | .ldsH n f | .ldsB n f | .stW n f | .stH n f | .stB n f | .ldxW n f | .ldxHu n f | .ldxBu n f | .stxW n f
  | .stxH n f | .stxB n f | .old n f | .rld n f => some (n, f.word)
  | .bCond n f | .blCond n f => some (n, f.word)
  | _ => none

/-- The word of a Celec command spells its instruction, or no instruction at all (R159, R160). -/
def Instr.spelled (i : Instr) : Bool :=
  match i.celecWord with
  | none => true
  | some (n, w) => (celecCommand n w).all (fun j => j.ctorIdx == i.ctorIdx)

/-- A command whose operands exist: a switched domain (R81), a tile (R259), a fault source (R463), a conversion slot (R447), a phase of the frame
(R17), a decode unit or the finder (R402). -/
def Instr.operandsExist : Instr → Bool
  | .timingInputEdge _ phase => decide (phase.toNat < 19440)
  | .domainWakeDone d | .domainWakeTimeout d | .domainGate d => decide (d.toNat < 112)
  | .tileBistPassEnd lo t _ | .tileDatapathFault lo t => decide (t.toNat < tileCount lo)
  | .decodeBistStart u | .decodeBistEnd u _ => decide (u.toNat < 5)
  | .adcConversion slot _ _ => decide (slot.toNat < 250)
  | .faultRaise src .. | .faultSweep src _ => decide (src.toNat < 412)
  | _ => true

/-- A well-formed command: its operands exist, and the word of a Celec command spells it, or no instruction. -/
def Instr.wf (i : Instr) : Bool := i.operandsExist && i.spelled

end Sys2Proof
end

