-- ==== Sys2Proof/Safety.lean ====
section
/-!
DEFINITION. What a sound state is: the sparse memory and the register store in their canonical form, LT inside a frame, and the queue's
rule. Every command keeps it.
-/
namespace Sys2Proof.Machine

open Sys2Proof

/-- The SRAM's canonical form: addresses strictly rising, and no byte listed that reads 0 (what an unlisted address reads as). -/
def Memory.wf (m : List Host.Cell) : Bool := tabWf (0 : Byte) m

/-- The register store's canonical form from key `lo` on: keys strictly rising, and no register listed at its reset value. -/
def regsWfFrom : Nat → Tab Nat → Bool
  | _, [] => true
  | lo, (k, v) :: t => decide (lo ≤ k) && decide (v ≠ regReset k) && regsWfFrom (k + 1) t

/-- The register store's canonical form. -/
def regsWf (t : Tab Nat) : Bool := regsWfFrom 0 t

/-- A sound state: the SRAM and the register store are canonical, and LT's phase lies in its frame (R28: 0 to 19 439). -/
def Sound (s : State) : Prop :=
  Memory.wf s.sram = true ∧ regsWf s.regs = true ∧ s.lt.phase < phasesPerFrame

/-- Line Time of `b` is not before that of `a` (R31). -/
def NotBefore (a b : LtState) : Prop := a.frame < b.frame ∨ (a.frame = b.frame ∧ a.phase ≤ b.phase)

/-- The parts of the state that commands change: one name per field, the queue apart; and three names for what a change of `pwr` or `lt` may
touch: the stage (R69), the present LT, and that LT does not run backward (R31). -/
inductive Fld where
  | lt | pwr | host | led | st | dma | line | fab | prot | mate | dun | cam | scan | radio | mon | flt | book | regs | sram | freeCtr
  | stage | clock | forward
deriving DecidableEq, Repr

/-- A part of the state is the same in two states. -/
def Fld.same (s t : State) : Fld → Prop
  | .lt => t.lt = s.lt | .pwr => t.pwr = s.pwr | .host => t.host = s.host | .led => t.led = s.led | .st => t.st = s.st
  | .dma => t.dma = s.dma | .line => t.line = s.line | .fab => t.fab = s.fab | .prot => t.prot = s.prot | .mate => t.mate = s.mate
  | .dun => t.dun = s.dun | .cam => t.cam = s.cam | .scan => t.scan = s.scan | .radio => t.radio = s.radio | .mon => t.mon = s.mon
  | .flt => t.flt = s.flt | .book => t.book = s.book | .regs => t.regs = s.regs | .sram => t.sram = s.sram ∧ t.ecc = s.ecc
  | .freeCtr => t.freeCtr = s.freeCtr | .stage => t.pwr.stage = s.pwr.stage
  | .clock => t.lt.frame = s.lt.frame ∧ t.lt.phase = s.lt.phase | .forward => NotBefore s.lt t.lt

/-- Only the parts `W` differ between two states. -/
def OnlyIn (W : List Fld) (s t : State) : Prop := ∀ f, f ∉ W → f.same s t

/-- What a command that changes the parts `W` keeps of a state: every other part, soundness, the queue, and the count of free values taken,
which never falls. -/
structure Keeps (W : List Fld) (s t : State) : Prop where
  frame : OnlyIn W s t
  sound : Sound s → Sound t
  queue : t.pending = s.pending
  free : s.freeCtr ≤ t.freeCtr

/-- Every part of the state. -/
def Fld.every : List Fld :=
  [.lt, .pwr, .host, .led, .st, .dma, .line, .fab, .prot, .mate, .dun, .cam, .scan, .radio, .mon, .flt, .book, .regs, .sram, .freeCtr,
   .stage, .clock, .forward]

end Sys2Proof.Machine

namespace Sys2Proof

open Machine

/-- The parts of the state that a command may change; for a register write of a host, the register decides, and every part stands here. -/
def Instr.touches : Instr → List Fld
  | .hostRegisterWrite .. | .hostMemoryWrite .. | .pcieRequest .. | .legacyBusAccess .. | .spiWrite .. | .hostBindWrite ..
    | .hostErrClr .. | .ltFrameLoadWrite .. | .clrEvents .. | .calendarAdd .. | .calendarRemove .. | .commitGo ..
    | .commitCancel .. | .pwrGoodRise .. | .release .. | .advance .. | .warmResetArm .. | .warmResetFire .. | .ledgerKeyWrite ..
    | .ledgerSpillConsWrite .. | .ledgerSpillCtlWrite .. | .rst .. | .stCtlWrite .. | .stStart .. | .stRetry .. | .stSkip ..
    | .stAbort .. | .stCtxWrite .. | .stEventSet .. | .dmaStart .. | .dmaStop .. | .lpCntClr .. | .connEntryWrite .. | .retest ..
    | .swapSuspect .. | .stepNow .. | .rotEnWrite .. | .pxAttach .. | .pxDetach .. | .overrideSet .. | .overrideClear ..
    | .mateRelease .. | .mateTake .. | .mateResync .. | .mateEnWrite .. | .crCfgWrite .. | .camBindWrite .. | .camCfgWrite ..
    | .i2cSubmit .. | .i2cFlush .. | .scanSubmit .. | .scanCancel .. | .scanDisable .. | .scanBistStart .. | .radioEnable ..
    | .radioDisable .. | .radioSubmit .. | .radioCancel .. | .radioAdmit .. | .radioNbrWrite .. | .radioKeyWrite ..
    | .radioFcOutWrite .. | .radioBistStart .. | .monStep .. | .monCfgWrite .. | .monThermWrite .. | .shedForceWrite ..
    | .fcFirstClr .. | .injectOnce .. | .injectContinuous .. | .injectPair .. | .injectStop .. | .bookTokensWrite ..
    | .bookCntClr .. => Fld.every
  | .snapshotRead .. | .spiRead .. => [.host, .regs]
  | .pcieLinkUp .. | .flrComplete .. | .i2cWrite .. | .i2cRead .. | .hostBindApply | .i2cWindowReady => [.host]
  | .pcieLinkDown | .perstN .. | .flr .. | .dmaHostCompletionFault .. => [.pwr, .host, .led, .dma, .mate, .flt, .book, .regs, .sram]
  | .timingInputEdge .. => [.lt, .pwr, .host, .led, .mate, .flt, .regs, .freeCtr, .clock]
  | .timingInputMiss .. | .faultSweep .. => [.lt, .pwr, .host, .led, .mate, .flt, .regs, .clock]
  | .refclkLoss | .refclkReturn | .heartbeatReceive .. => [.lt, .pwr, .host, .led, .mate, .flt, .regs]
  | .frameBoundary => Fld.every.filter (fun f => f ∉ [Fld.freeCtr, Fld.forward])
  | .calendarIssue .. => [.lt, .host, .st, .dma, .mate, .cam, .scan, .radio, .mon, .book, .regs, .sram, .clock]
  | .domainWakeDone .. => [.pwr, .host, .st, .regs]
  | .domainWakeTimeout .. | .startRecord | .stageTimeout | .vstbChange .. | .sealComplete | .gapAppend | .spillFlushComplete
    | .spillFlushFail .. | .pulsePathSilent | .msgPathSilent | .epochOpenReceive .. | .aliveReadback
    => [.pwr, .host, .led, .mate, .flt, .regs]
  | .domainGate .. => [.pwr, .regs]
  | .safeEntry => [.pwr, .host, .led, .dma, .line, .fab, .mate, .dun, .cam, .scan, .radio, .mon, .flt, .regs, .stage]
  | .framedEntry => [.pwr, .host, .led, .mate, .flt, .regs, .stage]
  | .railDetect | .pwrGoodFall | .powerLoss | .resetNAssert => Fld.every.filter (fun f => f ∉ [Fld.freeCtr])
  | .warmResetDisarm => [.pwr]
  | .tapReset => []
  | .ledgerKeyTimeout | .spillBatchStart | .spillRetry => [.led]
  | .add .. | .adc .. | .sub .. | .sbc .. | .and .. | .or .. | .xor .. | .andn .. | .shl .. | .shr .. | .sar .. | .ror ..
    | .mul .. | .mulhu .. | .mulhs .. | .divu .. | .remu .. | .divs .. | .rems .. | .mins .. | .maxs .. | .minu .. | .maxu ..
    | .clz .. | .popc .. | .bswap .. | .cmp .. | .tst .. | .csel .. | .addi .. | .cmpi .. | .andi .. | .ori .. | .xori ..
    | .shli .. | .shri .. | .sari .. | .rori .. | .lui .. | .ldW .. | .ldHu .. | .ldBu .. | .ldsH .. | .ldsB .. | .ldxW ..
    | .ldxHu .. | .ldxBu .. | .old .. | .rld .. | .wlt .. | .wbnd .. | .wev .. | .sig .. | .clrev .. | .hev .. | .yield ..
    | .stop .. | .trap .. | .fence .. | .mfs .. | .mts .. | .getf .. | .setf .. | .bCond .. | .blCond .. | .jr .. | .jlr ..
    => [.pwr, .host, .led, .st, .mate, .flt, .regs]
  | .stW .. | .stH .. | .stB .. | .stxW .. | .stxH .. | .stxB .. | .aadd .. | .aand .. | .aor .. | .axor .. | .aswp .. | .aminu ..
    | .amaxu .. | .cas .. | .blkmov .. | .stallEnd .. => [.pwr, .host, .led, .st, .mate, .flt, .regs, .sram]
  | .ost .. | .cmtGo .. | .cmtCancel .. => [.lt, .pwr, .host, .led, .st, .fab, .prot, .mate, .flt, .book, .regs]
  | .csetn .. | .cwr .. | .cdel .. => [.lt, .pwr, .host, .led, .st, .fab, .mate, .flt, .book, .regs]
  | .timeSliceEnd .. | .wevTimeout .. => [.st]
  | .crd .. => [.pwr, .host, .led, .st, .mate, .flt, .book, .regs, .sram]
  | .cstate .. | .dstat .. | .spawn .. => [.pwr, .host, .led, .st, .mate, .flt, .book, .regs]
  | .pxatt .. => [.lt, .pwr, .host, .led, .st, .prot, .mate, .flt, .book, .regs]
  | .pxdet .. => [.lt, .pwr, .host, .led, .st, .mate, .flt, .book, .regs]
  | .preq .. => [.pwr, .host, .led, .st, .prot, .mate, .flt, .book, .regs]
  | .sjob .. | .scancel .. => [.pwr, .host, .led, .st, .mate, .scan, .flt, .book, .regs]
  | .rtx .. => [.pwr, .host, .led, .st, .mate, .radio, .flt, .book, .regs, .freeCtr]
  | .rrx .. => [.pwr, .host, .led, .st, .mate, .radio, .flt, .book, .regs, .sram]
  | .dstart .. | .dstop .. => [.pwr, .host, .led, .st, .dma, .mate, .flt, .book, .regs, .sram]
  | .wltWake .. => [.lt, .st, .clock]
  | .dmaBurstGrant .. => [.host, .dma, .line, .mate, .cam, .scan, .radio, .mon, .book, .regs, .sram]
  | .dmaBurstComplete .. => [.pwr, .host, .led, .dma, .line, .mate, .cam, .scan, .radio, .mon, .flt, .book, .regs, .sram]
  | .lineFrameReceive .. | .losDeclare .. | .sdWindowEnd .. | .lineFrameTransmit .. | .ptrBeyondClear .. | .lineTxmonClear ..
    | .gfpFrameReceive .. | .gfpFrameTransmit .. => [.line]
  | .lineTxmonFail .. => [.pwr, .host, .led, .line, .mate, .flt, .regs]
  | .tileLoadComplete .. => [.fab]
  | .tileCompareMismatch .. | .tileBistPassEnd .. | .tileDatapathFault .. => [.pwr, .host, .led, .fab, .mate, .flt, .regs]
  | .clear .. | .lockout .. | .forceP .. | .forceW .. | .manualP .. | .manualW .. | .exercise .. | .condSfW .. | .condSdW ..
    | .condClrW .. | .condSfP .. | .condSdP .. | .condClrP .. => [.lt, .pwr, .host, .led, .fab, .prot, .mate, .flt, .book, .regs]
  | .exerciseEnd .. => [.prot, .mate]
  | .holdoffExpiry .. | .wtrExpiry .. => [.prot]
  | .fopDeclare .. => [.pwr, .host, .led, .st, .prot, .mate, .flt, .regs]
  | .matePulseEdge | .listenWindowEnd | .leaseExpiryTake | .releaseTimeout | .deltaQueueRoom | .snapReqReceive ..
    | .snapEndReceive .. | .snapshotTimeout => [.mate]
  | .releaseReceive .. => [.host, .mate, .regs]
  | .deltaReceive .. | .epochTrailerReceive ..
    => [.lt, .pwr, .host, .led, .st, .dma, .line, .fab, .prot, .mate, .dun, .flt, .book, .regs, .sram]
  | .snapBeginReceive .. => [.lt, .pwr, .fab, .prot, .mate, .regs]
  | .dunteFrameReceive .. | .laneTxmonFail .. => [.pwr, .host, .led, .mate, .dun, .flt, .regs]
  | .dunteFrameTransmit .. => [.mate, .dun]
  | .trainTimeout .. => [.host, .dun, .regs]
  | .dunteLos .. | .laneWindowEnd .. | .dunteCodeLock .. => [.dun]
  | .deskewBurst .. | .scanPlaneComplete .. | .i2cJobStart .. => [.cam]
  | .csi2PacketReceive .. | .frameStart .. | .frameEnd .. | .pixelLine .. | .embeddedData .. | .frameTimeout ..
    | .linkIdleTimeout .. => [.host, .st, .cam, .scan, .regs]
  | .i2cJobComplete .. | .i2cStretchTimeout .. => [.pwr, .host, .led, .mate, .cam, .flt, .book, .regs]
  | .triggerPulseStart .. | .triggerPulseEnd .. => [.lt, .cam, .clock]
  | .scanCommit .. => [.lt, .host, .st, .cam, .scan, .book, .regs, .clock]
  | .strobeOn .. => [.lt, .scan, .clock]
  | .strobeOff .. => [.lt, .scan, .book, .clock]
  | .scanNoFrame .. | .finderComplete .. | .decodeComplete .. | .decodeBistStart .. | .scanOfflineBistBegin => [.scan]
  | .scanResultRecord .. | .scanDeadline .. => [.pwr, .host, .led, .st, .fab, .prot, .mate, .scan, .flt, .book, .regs]
  | .decodeBistEnd .. | .scanOfflineBistEnd .. => [.pwr, .host, .led, .mate, .scan, .flt, .regs]
  | .identRetry .. | .radioBistPassEnd .. => [.pwr, .host, .led, .mate, .radio, .flt, .regs]
  | .radioPortFault => [.lt, .pwr, .host, .led, .mate, .radio, .flt, .book, .regs]
  | .radioFrameReceive .. => [.pwr, .host, .led, .st, .fab, .prot, .mate, .radio, .flt, .book, .regs]
  | .transmitAttempt .. => [.lt, .host, .radio, .book, .regs, .clock]
  | .ccaComplete .. => [.lt, .host, .radio, .book, .regs]
  | .transmissionEnd | .ackTimeout .. => [.pwr, .host, .radio, .book, .regs]
  | .radioFrameDeadline .. => [.host, .radio, .book, .regs]
  | .pollWindowDecision .. => [.lt, .host, .radio, .regs, .clock]
  | .pollWindowMiss .. => [.lt, .radio, .clock]
  | .tagDrop .. => [.pwr, .host, .led, .mate, .radio, .flt, .book, .regs]
  | .floodRebroadcastEligible | .seenEntryExpiry => [.radio]
  | .radioOfflineBistEnd => [.host, .radio, .regs]
  | .adcConversion .. => [.lt, .pwr, .host, .led, .mate, .mon, .flt, .regs, .clock]
  | .faultRaise .. => [.pwr, .host, .led, .mate, .flt, .regs, .sram, .freeCtr]
  | .handlingWindowEnd => [.mate, .flt]
  | .emitterReadbackMismatch .. => [.lt, .pwr, .host, .led, .mate, .scan, .radio, .flt, .book, .regs]
  | .vioBankPowerChange .. => [.pwr, .mate, .cam, .scan]

/-- The strand that issues a Celec instruction; none for every other command. -/
def Instr.issuer : Instr → Option (BitVec 6)
  | .add n _ | .adc n _ | .sub n _ | .sbc n _ | .and n _ | .or n _ | .xor n _ | .andn n _ | .shl n _ | .shr n _ | .sar n _ | .ror n _
    | .mul n _ | .mulhu n _ | .mulhs n _ | .divu n _ | .remu n _ | .divs n _ | .rems n _ | .mins n _ | .maxs n _ | .minu n _ | .maxu n _
    | .clz n _ | .popc n _ | .bswap n _ | .cmp n _ | .tst n _ | .csel n _ | .addi n _ | .cmpi n _ | .andi n _ | .ori n _ | .xori n _
    | .shli n _ | .shri n _ | .sari n _ | .rori n _ | .lui n _ | .ldW n _ | .ldHu n _ | .ldBu n _ | .ldsH n _ | .ldsB n _ | .stW n _
    | .stH n _ | .stB n _ | .ldxW n _ | .ldxHu n _ | .ldxBu n _ | .stxW n _ | .stxH n _ | .stxB n _ | .old n _ | .ost n _ | .rld n _
    | .rst n _ | .aadd n _ | .aand n _ | .aor n _ | .axor n _ | .aswp n _ | .aminu n _ | .amaxu n _ | .cas n _ | .blkmov n _ _
    | .csetn n _ _ | .cwr n _ | .crd n _ | .cdel n _ | .cstate n _ | .pxatt n _ | .pxdet n _ | .preq n _ | .cmtGo n _ | .cmtCancel n _
    | .sjob n _ | .scancel n _ | .rtx n _ | .rrx n _ | .dstart n _ | .dstat n _ | .dstop n _ | .wlt n _ | .wbnd n _ | .wev n _
    | .sig n _ | .clrev n _ | .hev n _ | .yield n _ | .stop n _ | .spawn n _ | .trap n _ | .fence n _ | .mfs n _ | .mts n _ | .getf n _
    | .setf n _ | .bCond n _ | .blCond n _ | .jr n _ | .jlr n _ => some n
  | _ => none

/-- The strand and major opcode of an instruction that has a reserved field, or a bit that must be 0, set (R159, R162 to R181). -/
def Instr.reservedSet (i : Instr) : Option (BitVec 6 × Nat) :=
  let when (n : BitVec 6) (op : Nat) (set : Bool) : Option (BitVec 6 × Nat) := if set then some (n, op) else none
  match i with
  | .add n f | .adc n f | .sub n f | .sbc n f | .and n f | .or n f | .xor n f | .andn n f | .shl n f | .shr n f | .sar n f | .ror n f
    | .mul n f | .mulhu n f | .mulhs n f | .divu n f | .remu n f | .divs n f | .rems n f | .mins n f | .maxs n f | .minu n f | .maxu n f
    => when n 0x01 (f.aux != 0)
  | .clz n f | .popc n f | .bswap n f => when n 0x01 (f.aux != 0 || f.rb != 0)
  | .cmp n f | .tst n f => when n 0x01 (f.aux != 0 || f.rd != 0)
  | .csel n f => when n 0x01 (decide (16 ≤ f.aux.toNat))
  | .cmpi n f => when n 0x03 (f.rd != 0)
  | .shli n f | .shri n f | .sari n f | .rori n f => when n 0x07 (decide (32 ≤ f.imm.toNat))
  | .lui n f => when n 0x08 (f.ra != 0)
  | .ost n f => when n 0x16 (f.aux != 0)
  | .rst n f => when n 0x19 (f.aux != 0)
  | .aadd n f | .aand n f | .aor n f | .axor n f | .aswp n f | .aminu n f | .amaxu n f | .cas n f => when n 0x1A (f.aux != 0)
  | .blkmov n f _ => when n 0x1C (decide (8 ≤ f.aux.toNat) || decide (f.aux.toNat % 4 = 3))
  | .csetn n f _ => when n 0x1D (decide (16 ≤ f.aux.toNat))
  | .cwr n f | .crd n f | .pxatt n f | .pxdet n f | .preq n f => when n 0x20 (f.aux != 0)
  | .cdel n f | .cstate n f => when n 0x20 (f.rb != 0 || f.aux != 0)
  | .cmtGo n f | .cmtCancel n f => when n 0x21 (f.rb != 0 || f.aux != 0)
  | .sjob n f | .scancel n f => when n 0x22 (f.rb != 0 || f.aux != 0)
  | .rtx n f => when n 0x23 (f.rb != 0 || decide (16 ≤ f.aux.toNat))
  | .rrx n f => when n 0x23 (f.rb != 0 || f.aux != 0)
  | .dstart n f => when n 0x24 (f.aux != 0)
  | .dstat n f | .dstop n f => when n 0x24 (f.rb != 0 || f.aux != 0)
  | .wlt n f | .spawn n f => when n 0x28 (f.aux != 0)
  | .wbnd n f => when n 0x28 (f.rb != 0 || decide (4 ≤ f.aux.toNat))
  | .wev n f => when n 0x28 (decide (2 ≤ f.aux.toNat))
  | .sig n f => when n 0x28 (f.rd != 0 || f.rb != 0 || f.aux != 0)
  | .clrev n f => when n 0x28 (f.rd != 0 || f.aux != 0)
  | .hev n f => when n 0x28 (f.rd != 0 || f.ra != 0 || f.rb != 0 || decide (16 ≤ f.aux.toNat))
  | .yield n f | .stop n f | .fence n f => when n 0x28 (f.rd != 0 || f.ra != 0 || f.rb != 0 || f.aux != 0)
  | .trap n f => when n 0x28 (f.rd != 0 || f.ra != 0 || f.rb != 0)
  | .mfs n f | .mts n f => when n 0x29 (f.rb != 0 || f.aux != 0)
  | .getf n f => when n 0x29 (f.ra != 0 || f.rb != 0 || f.aux != 0)
  | .setf n f => when n 0x29 (f.rd != 0 || f.rb != 0 || f.aux != 0)
  | .jr n f => when n 0x32 (f.rd != 0 || f.rb != 0 || f.aux != 0)
  | .jlr n f => when n 0x32 (f.rb != 0 || f.aux != 0)
  | _ => none

end Sys2Proof

namespace Sys2Proof.Machine

open Sys2Proof

/-- Two contexts of a strand that differ at most in who holds the issue slot. -/
def SameTurn (a b : Strand) : Prop := b = { a with mode := b.mode, sliceOver := b.sliceOver }

/-- A strand that holds, or waits for, its cluster's issue slot. -/
def StrandMode.ready (m : StrandMode) : Prop := m = .runnable ∨ m = .running

/-- What a landing point of cluster `c` leaves of a state `u` (R190, R191): the issue slot may pass among the cluster's strands that are ready;
every context, every other strand, the events and every other part of the state stand. -/
structure Turned (c : Nat) (u t : State) : Prop where
  only : OnlyIn [.st] u t
  queue : t.pending = u.pending
  events : t.st.events = u.st.events
  turn : ∀ n, SameTurn (strandAt u n) (strandAt t n)
  away : ∀ n, n / 8 ≠ c → strandAt t n = strandAt u n
  modes : ∀ n, (strandAt t n).mode = (strandAt u n).mode ∨ ((strandAt t n).mode.ready ∧ (strandAt u n).mode.ready)

/-- Strand `n` may issue: it holds its cluster's slot in a part out of DARK, and its fetch succeeds (R156, R182, R191). -/
def Ready (s : State) (n : BitVec 6) : Prop := issues s n.toNat = true ∧ fetchValid s n.toNat = true ∧ (fetchEcc s n.toNat).isNone = true

/-- A command answers the state `u`, up to the turn that a landing point of strand `n`'s cluster gives. -/
def Ran (i : Instr) (n : BitVec 6) (s u : State) : Prop := ∃ t, exec i s = .next t ∧ Turned (n.toNat / 8) u t

/-- An instruction of strand `n` completes on a state `u` with the context `x` at the next instruction (R151, R181). -/
def Retires (i : Instr) (n : BitVec 6) (s u : State) (x : Strand) : Prop :=
  Ran i n s (setStrand n.toNat { x with pc := nextPc (strandAt s n.toNat).pc } u)

/-- A context with a result register and the flags written. -/
def Strand.gives (t : Strand) (rd : BitVec 4) (r : Word) (fl : Flags) : Strand := { t.setReg rd.toNat r with flags := fl }

/-- The state in which strand `n` has trapped (R182, R193). -/
def Traps (i : Instr) (n : BitVec 6) (s : State) (code detail faddr : Nat) (wr : Bool) : Prop :=
  exec i s = .next (trapStrand n.toNat code detail faddr wr s)

/-- Strand `n` stalls behind an instruction for a result (R173), on a state `u`. -/
def Stalls (i : Instr) (n : BitVec 6) (s u : State) (r : StallResult) : Prop :=
  Ran i n s (setStrand n.toNat { strandAt u n.toNat with mode := .stalled, stall := some r, pc := nextPc (strandAt u n.toNat).pc } u)

/-- A request of strand `n` ends on a state `u` with an outcome word for rd (R155) and T (R152), when its stall ends; the outcome is counted (R486). -/
def Answers (i : Instr) (n : BitVec 6) (s u : State) (rd : BitVec 4) (code detail count : Nat) : Prop :=
  Stalls i n s (countOutcome (strandSeat u n.toNat) code u)
    ⟨rd.toNat, BitVec.ofNat 32 (code + 256 * (detail % 256) + 65536 * (count % 65536)), some (decide (code < 0x10)), none⟩

/-- A host's write of the word at an offset of the Seat window reaches the register `r`, which the Seat may write (R69, R87 to R92, R103); no load of
LEDGER_KEY ends by it (R137). -/
structure Reaches (w : HostWho) (off : Nat) (r : RegAt) (s : State) : Prop where
  runs : alive s = true
  enabled : seatEnabled s (hostAgent w).seat = true
  keyLoad : s.led.keyWords = [] ∨ off = 0x7C0040 + 4 * s.led.keyWords.length
  place : isObjOff off = false ∧ isMemOff off = false
  hit : regAt s (hostAgent w).seat (hostAgent w).pk off true = .reg r
  rank : keeperOnly r.desc = true → (hostAgent w).seat = 0
  writes : readOnly r.desc = false
  rights : mayWrite (hostAgent w).seat r = true

/-- A command is a host's write of a whole register `nm` at an offset: where the write reaches the register and no words are held for the path, the command
ends with the outcome and the state of `o` (R107). -/
def Writes (i : Instr) (w : HostWho) (off : Nat) (nm : RegName) (s : State) (o : RegAt → Nat × State) : Prop :=
  ∀ r, Reaches w off r s → (pathAt s (hostAgent w).pk).held = none → r.desc.name = nm → multiWord r.desc = false →
    exec i s = .next (hostEnd (hostAgent w) off (o r))

/-- A command that is a host's write of a whole register `nm` at an offset completes with its effect: where the write reaches the register, no words are
held for the path and `ok` holds, the command answers a next state, of which `post` holds. -/
def Completes (i : Instr) (w : HostWho) (off : Nat) (nm : RegName) (s : State) (ok : RegAt → Prop) (post : RegAt → State → Prop) : Prop :=
  ∀ r, Reaches w off r s → (pathAt s (hostAgent w).pk).held = none → r.desc.name = nm → multiWord r.desc = false → ok r →
    ∃ t, exec i s = .next t ∧ post r t

/-- The ledger takes a management record of up to 16 entries (R142): behind what it appends first, no START record waits and 1024 entries stay free. -/
def LedgerTakes (s : State) : Prop :=
  (ledgerDrain (sealDone s)).led.startWaiting = none ∧ 1024 + 16 ≤ ledgerFree (ledgerDrain (sealDone s))

/-- The ledger takes `n` entries of management records one after the other (R136, R141, R142): nothing waits, no seal falls due among them, and 1024
entries stay free. -/
structure LedgerQuiet (s : State) (n : Nat) : Prop where
  start : s.led.startWaiting = none
  seals : s.led.sealBusy = false ∧ s.led.sinceSeal + n ≤ 255
  losses : s.led.lost = 0 ∧ s.led.lossDue = false
  queue : s.led.queue = []
  room : 1024 + n ≤ ledgerFree s

/-- `t` is `f` of the state with a management record appended (R125). -/
def Recorded (a : Agent) (kind object old new : Nat) (conts : List Nat) (s : State) (f : State → State) (t : State) : Prop :=
  ∃ u, ledgerMgmt a kind object old new false conts s = some u ∧ t = f u

/-- The value of a register of fields after a write of `x` (R7, R90). -/
def regNew (s : State) (r : RegAt) (x : Nat) : Nat :=
  let old := regStored s r
  clrMask ((clrMask old r.desc.rw) ||| (regNorm r old x &&& r.desc.rw)) (x &&& r.desc.w1c)

/-- A write of `x` to a register of fields is accepted (R22, R23, R46, R142, R542): its values pass the register's check, no mirrored state changes on a
standby, no staged field changes, and the ledger takes the record. -/
structure Accepts (a : Agent) (r : RegAt) (x : Nat) (s : State) : Prop where
  width : r.desc.bytes ≤ 64
  values : regCheck s a r (regStored s r) (regNorm r (regStored s r) x) = oDone
  mirror : mirrorRefused s = false
  staged : r.desc.rws = 0 ∨ (r.desc.rw ≠ 0 ∧ shadowShown s a.seat r &&& r.desc.rws = regNorm r (regStored s r) x &&& r.desc.rws)
  ledger : LedgerTakes s

/-- A register with a changed value stored and, of mirrored fields, carried to the twin. -/
def withReg (r : RegAt) (old new : Nat) (u : State) : State :=
  let u1 := if old = new then u else regStore r new u
  if (old ^^^ new) &&& r.desc.mir = 0 then u1 else mirrorReg true (regOffset r) r.desc.bytes new (lastSeq u) u1

/-- `t` is the state after an accepted write of `x`: the change recorded, the register's new value stored, and what the write starts in its block. -/
def Stores (a : Agent) (r : RegAt) (x : Nat) (s t : State) : Prop :=
  ∃ u, recordPart a r (regStored s r) (regNew s r x) s = some u ∧
    t = regHook a r (regStored s r) (regNew s r x) x (withReg r (regStored s r) (regNew s r x) u)

/-- A host's writes of the `k` words of the Seat window from an offset on reach the words of one wide register, lowest first, which the Seat may write
(R69, R87 to R92, R103, R507). -/
structure ReachesWide (w : HostWho) (off k : Nat) (r : Nat → RegAt) (s : State) : Prop where
  runs : alive s = true
  enabled : seatEnabled s (hostAgent w).seat = true
  keyLoad : s.led.keyWords = []
  held : (pathAt s (hostAgent w).pk).held = none
  place : ∀ j, j < k → isObjOff (off + 4 * j) = false ∧ isMemOff (off + 4 * j) = false
  hit : ∀ j, j < k → regAt s (hostAgent w).seat (hostAgent w).pk (off + 4 * j) true = .reg (r j)
  one : ∀ j, j < k → (r j).key = (r 0).key ∧ (r j).desc = (r 0).desc ∧ (r j).word = j
  size : ((r 0).desc.bytes + 3) / 4 = k ∧ 1 < k ∧ multiWord (r 0).desc = true
  rank : keeperOnly (r 0).desc = true → (hostAgent w).seat = 0
  writes : readOnly (r 0).desc = false
  rights : ∀ j, j < k → mayWrite (hostAgent w).seat (r j) = true

/-- Two states that differ at most in what is kept for host paths and strands. -/
def SameButPaths (s h : State) : Prop := ∃ p, h = { s with host := { s.host with paths := p } }

/-- An entry write of a Seat-local connection number is accepted for the connection `n`, with a source `x` (R102, R243, R244, R492). -/
structure ConnOk (a : Agent) (num v : Nat) (s : State) (n x : Nat) : Prop where
  own : connPhys s a.seat num true = some n
  source : (if eKind (isHo num) (entryNorm (isHo num) v) = 1 then xPhys s a.seat (eSrc (entryNorm (isHo num) v)) false
    else some (eSrc (entryNorm (isHo num) v))) = some x
  coded : entryCoded (isHo num) (entryNorm (isHo num) v) = true
  kept : a.seat = 0 ∨ eKind (isHo num) (entryNorm (isHo num) v) = 0 ∨ sourceKept s a.seat (isHo num) (connAt s n).entry = true
  quota : a.seat = 0 ∨ eKind (isHo num) (entryNorm (isHo num) v) = 0 ∨ (connHolder s n).isSome = true ∨ connUsed s a.seat < quota s a.seat 0x200
  room : groupRoom s a.seat = true
  ledger : LedgerQuiet s 3

/-- The group of a Seat is the old one with one more staged write. -/
def Staged (seat key v : Nat) (s t : State) : Prop := seatGroup t seat = seatGroup s seat ++ [⟨key, v⟩]

/-- The writes of a Seat's group in physical numbers, with the selectors that GO assigns (R271). -/
def goWrites (s : State) (seat : Nat) (new : List (Nat × Nat)) : List StagedWrite :=
  (groupWrites s seat).map (fun w => (transWrite s seat new w).2)

/-- The landing frame of a group at a position: the next multiframe boundary where a write of it needs one (R49). -/
def goFrame (s : State) (ws : List StagedWrite) (p : Nat) : Nat :=
  if ws.any (multiOnly s (writesBy s s.lt.groups (p / phasesPerFrame))) then (p / phasesPerFrame + 3) / 4 * 4 else p / phasesPerFrame

/-- GO of a Seat's group of register writes is accepted for a position, with a calendar entry (R47 to R49, R56, R99, R230, R248, R271 to R273). -/
structure GoOk (a : Agent) (target : Int) (s : State) (p : Nat) (moved : Bool) (idx : Nat) (new : List (Nat × Nat)) : Prop where
  mirror : mirrorRefused s = false
  whole : (seatLt s a.seat).stageFull = false
  place : lateRule s ((target + phasesPerFrame - 1) / phasesPerFrame * phasesPerFrame) = if moved then .delayed p else .onTime p
  selectors : assignSelectors s a.seat (newSelectors s a.seat (groupWrites s a.seat)) [] = some new
  entry : calFree s a.seat = some idx
  few : (s.lt.groups.filter (fun g => g.seat = a.seat)).length < 8
  named : ∀ w ∈ groupWrites s a.seat, (transWrite s a.seat new w).1 = oDone
  checks : goCheck (withSelectors a.seat new s) a.seat (goFrame s (goWrites s a.seat new) p) (goWrites s a.seat new) = oDone
  registers : ∀ w ∈ goWrites s a.seat new, keyConn w.key = none
  ledger : LedgerTakes s

/-- The groups of a state are the old ones with one more, accepted by GO of a Seat (R47, R50). -/
def Joined (seat f : Nat) (ws : List StagedWrite) (s t : State) : Prop :=
  ∃ g : CommitGroup, t.lt.groups = s.lt.groups ++ [g] ∧ g.seat = seat ∧ g.ident = (seatLt s seat).nextId ∧ g.writes = ws ∧ g.frame = f

/-- CANCEL of a Seat's accepted group `g` of register writes, by its ID, is accepted (R52, R99). -/
structure CancelOk (a : Agent) (id : Nat) (s : State) (g : CommitGroup) : Prop where
  found : s.lt.groups.find? (fun h => h.seat = a.seat ∧ h.ident = id) = some g
  mirror : mirrorRefused s = false
  maps : ∀ w ∈ g.writes, isMapKey w.key = false
  early : s.lt.frame + 2 ≤ g.frame
  registers : groupConns g = []
  ledger : LedgerTakes s

/-- An attach is accepted (R287, R288): an entry of the table for a connection that the Seat OWNS. -/
structure AttachOk (a : Agent) (addr v : Nat) (s : State) (n p i : Nat) : Prop where
  conn : connOwned s a.seat addr = some n
  port : fittedPhys s a.seat 0 (bodyOf v).port = some p
  mirror : mirrorRefused s = false
  valid : bodyValid (bodyOf v) = true
  entry : expectNum s n (bodyOf v).num = none ∧ (List.range 512).find? (fun i => (expectAt s i).isNone) = some i
  quota : a.seat = 0 ∨ expectUsed s a.seat < expectQuota s a.seat
  room : groupRoom s a.seat = true
  ledger : LedgerTakes s

/-- A detach is accepted (R288). -/
structure DetachOk (a : Agent) (addr num : Nat) (s : State) (n i : Nat) : Prop where
  conn : connOwned s a.seat addr = some n
  entry : expectNum s n num = some i
  mirror : mirrorRefused s = false
  room : groupRoom s a.seat = true
  ledger : LedgerTakes s

/-- A command to a protection object is accepted (R270, R282 to R284). -/
structure CommandOk (s : State) (r : ProtRef) (code : Nat) : Prop where
  live : protLive s r = true
  valid : cmdValid (cfgOf s r) code = true
  mirror : mirrorRefused s = false ∨ 8 ≤ code
  rank : cmdOutranked (cfgOf s r) false (ctlAt s r) code = false
  ledger : LedgerTakes s

/-- A job of the scan engine is accepted for a position (R384, R385). -/
structure ScanOk (seat body : Nat) (s : State) (p : Nat) (moved : Bool) : Prop where
  idle : s.scan.bistDue = false ∧ s.scan.bistRun = false ∧ s.scan.retryFrame ≤ s.lt.frame
  on : rbit s (kP 0x500000) 0 = true ∧ 3 ≤ s.pwr.stage.code
  rights : jobRights s seat body = true
  budget : jobsHeld s seat < quota s seat 0x208
  room : s.scan.jobs.length < 64
  place : lateRule s (if bits body 64 32 = 0 then earliest s * phasesPerFrame else frame32 s (bits body 64 32) * phasesPerFrame + bits body 96 16 : Nat) =
    if moved then .delayed p else .onTime p
  deadline : p / phasesPerFrame + 4 ≤ frame32 s (bits body 128 32)

/-- The jobs of a state are the old ones with one more. -/
def Posted (seat body p : Nat) (s t : State) : Prop :=
  ∃ j : ScanJob, t.scan.jobs = s.scan.jobs ++ [j] ∧ j.ident = s.scan.nextId ∧ j.seat = seat ∧ j.body = body ∧ j.pos = p

/-- A frame of the radio is accepted, with its payload and the earliest legal position (R433). -/
structure RadioOk (seat d : Nat) (s : State) (pay : List Byte) (p : Nat) : Prop where
  idle : s.radio.bistRun = false
  payload : dataRead s seat (bits d 128 32) (bits d 56 8) = some pay
  on : radioEn s = true ∧ 3 ≤ s.pwr.stage.code ∧ owns s seat 204 0 = true ∧ txdOk s d = true
  deadline : s.lt.frame + 2 ≤ frame32 s (bits d 96 32) ∧ (if bits d 64 32 = 0 then 0 else frame32 s (bits d 64 32)) ≤ frame32 s (bits d 96 32)
  room : (s.radio.frames.filter (fun f => f.indirect == bit d 1)).length < (if bit d 1 then 256 else 64)
  tokens : tokPa s ≤ quota s seat 0x214
  legal : earliestLegal s seat (airUs s (frameLen s d ((if bit d 2 then 12 else 0) + pay.length)))
    (max (nowPos s) ((if bits d 64 32 = 0 then 0 else frame32 s (bits d 64 32)) * phasesPerFrame)) = some p
  early : p < (frame32 s (bits d 96 32) - 1) * phasesPerFrame

/-- The queued frames of a state are the old ones with one more. -/
def Queued (seat d p : Nat) (s t : State) : Prop :=
  ∃ f : RadioFrame, t.radio.frames = s.radio.frames ++ [f] ∧ f.ident = s.radio.nextId ∧ f.seat = seat ∧ f.desc = d ∧ f.legal = p

end Sys2Proof.Machine
end

