-- ==== Sys2Proof/Certificates/Slice0/Obligations.lean ====
section
/-!
DEFINITION. The statements about the block, for the provers: the step and its invariants, the Celec instructions, the host's writes, and the commands of each
block, from the numbered rules of the spec. Where one rests on a choice of the model, its text names the log entry.
-/
open Sys2Proof Sys2Proof.Machine

/-- Step takes the front command of the queue (the model's queue, entry 2): its outcome is `exec` of it on the state with the queue's rest. On an empty
queue the block idles (the model's choice, entries 2 and 5): one phase unit up to the last of the frame in progress (R28, R32, R33), out of DARK;
nothing else. -/
def Obligations.StepTakesFront : Prop :=
  (∀ (c : Instr) (rest : List Instr) (s : State), step { s with pending := c :: rest } = exec c { s with pending := rest }) ∧
  (∀ s : State, s.pending = [] →
    (alive s = false ∨ frameLast s ≤ s.lt.phase → step s = .next s) ∧
    (alive s = true → s.lt.phase < frameLast s →
      ∃ t, step s = .next t ∧ t = { s with lt := { s.lt with phase := s.lt.phase + 1 } }))

/-- The state after reset is sound, and DARK with its LT at 0.0 and nothing waiting (R69, R31; the empty queue is the model's, entry 2). -/
def Obligations.ResetSound : Prop :=
  Sound State.reset ∧ State.reset.pwr.stage = .dark ∧ State.reset.lt.frame = 0 ∧ State.reset.lt.phase = 0 ∧ State.reset.pending = []

/-- Every step keeps a state sound: the SRAM and the register store canonical, LT inside its frame. -/
def Obligations.StepKeepsSound : Prop :=
  ∀ s t : State, Sound s → step s = .next t → Sound t

/-- What each command leaves unchanged: every part of the state outside `Instr.touches`, and the queue; free values are only taken. -/
def Obligations.CommandsTouchOnly : Prop :=
  ∀ (c : Instr) (s t : State), exec c s = .next t → OnlyIn c.touches s t ∧ t.pending = s.pending ∧ s.freeCtr ≤ t.freeCtr

/-- A command whose operands exist answers a next state, from every state; one whose operands do not exist stops, by name. -/
def Obligations.WellFormedCompletes : Prop :=
  ∀ (c : Instr) (s : State),
    (c.operandsExist = true → ∃ t, exec c s = .next t) ∧ (c.operandsExist = false → exec c s = .fault .noSuchObject)

/-- Line Time never runs backward (R31) by any command of the part itself: only a reset of the part by supplies, pins or PWR_RESET_CTL, which a
host's write or RST may reach, restarts it.
The stage moves only by the commands that enter a stage (R69 to R72): SAFE_ENTRY from DARK to SAFE, FRAMED_ENTRY from SAFE to FRAMED, and the
boundary's entries, besides resets. Every other command leaves the stage. -/
def Obligations.LineTimeStages : Prop :=
  (∀ (c : Instr) (s t : State), Fld.forward ∉ c.touches → exec c s = .next t → NotBefore s.lt t.lt) ∧
  (∀ (c : Instr) (s t : State), Fld.stage ∉ c.touches → exec c s = .next t → t.pwr.stage = s.pwr.stage) ∧
  (∀ s t : State, exec .safeEntry s = .next t → t.pwr.stage = s.pwr.stage ∨ (s.pwr.stage = .dark ∧ t.pwr.stage = .safe)) ∧
  (∀ s t : State, exec .framedEntry s = .next t → t.pwr.stage = s.pwr.stage ∨ (s.pwr.stage = .safe ∧ t.pwr.stage = .framed))

/-- The register file of a strand (R151): g0 reads 0 and discards what is written; another register reads what was written last. -/
def Obligations.RegisterFile : Prop :=
  ∀ (t : Strand) (r q : Nat) (v : Word),
    t.reg 0 = 0 ∧ t.setReg 0 v = t ∧ (t.setReg r v).reg q = (if r = q ∧ q ≠ 0 then v else t.reg q)

/-- The conditions (R161), what they say after `cmp ga, gb`, and that the cond field of a branch and aux[3:0] of CSEL select by them. -/
def Obligations.ConditionCodes : Prop :=
  (∀ fl : Flags,
    condHolds 0 fl = fl.z ∧ condHolds 1 fl = !fl.z ∧ condHolds 2 fl = fl.c ∧ condHolds 3 fl = !fl.c ∧ condHolds 4 fl = fl.n ∧
    condHolds 5 fl = !fl.n ∧ condHolds 6 fl = fl.t ∧ condHolds 7 fl = !fl.t ∧ condHolds 8 fl = (!fl.c && !fl.z) ∧
    condHolds 9 fl = (fl.c || fl.z) ∧ condHolds 10 fl = (fl.n != fl.v) ∧ condHolds 11 fl = (fl.n == fl.v) ∧
    condHolds 12 fl = (!fl.z && fl.n == fl.v) ∧ condHolds 13 fl = (fl.z || fl.n != fl.v) ∧ condHolds 14 fl = fl.v ∧ condHolds 15 fl = true) ∧
  (∀ (n : BitVec 6) (f : FormA) (s : State), Ready s n → f.unassigned = none → f.aux = 0 → f.rd = 0 →
    let a := (strandAt s n.toNat).reg f.ra.toNat
    let b := (strandAt s n.toNat).reg f.rb.toNat
    ∃ fl : Flags, Retires (.cmp n f) n s s { strandAt s n.toNat with flags := fl } ∧
      condHolds 0 fl = decide (a = b) ∧ condHolds 1 fl = decide (a ≠ b) ∧
      condHolds 2 fl = decide (a.toNat < b.toNat) ∧ condHolds 3 fl = decide (b.toNat ≤ a.toNat) ∧
      condHolds 8 fl = decide (b.toNat < a.toNat) ∧ condHolds 9 fl = decide (a.toNat ≤ b.toNat) ∧
      condHolds 10 fl = decide (a.toInt < b.toInt) ∧ condHolds 11 fl = decide (b.toInt ≤ a.toInt) ∧
      condHolds 12 fl = decide (b.toInt < a.toInt) ∧ condHolds 13 fl = decide (a.toInt ≤ b.toInt)) ∧
  (∀ (n : BitVec 6) (f : FormB) (s : State), Ready s n → f.unassigned = none →
    let x := strandAt s n.toNat
    x.pc.toNat % 4 = 0 → x.pc.toNat < 0x400000 →
    Ran (.bCond n f) n s (setStrand n.toNat
      { x with pc := (x.pc + (if condHolds f.cond x.flags = true then 4 * f.off.signExtend 32 else 4)) % 0x400000 } s)) ∧
  (∀ (n : BitVec 6) (f : FormA) (s : State), Ready s n → f.unassigned = none → f.aux.toNat < 16 →
    let x := strandAt s n.toNat
    Retires (.csel n f) n s s (x.setReg f.rd.toNat (if condHolds (f.aux.setWidth 4) x.flags = true then x.reg f.ra.toNat else x.reg f.rb.toNat)))

/-- Additions and subtractions (R162, R163): the result, Z and N of it, C the carry or borrow out, V that the exact signed result does not fit; T stands. -/
def Obligations.AddSubtract : Prop :=
  (∀ (n : BitVec 6) (f : FormA) (s : State), Ready s n → f.unassigned = none → f.aux = 0 →
    let x := strandAt s n.toNat
    let a := x.reg f.ra.toNat
    let b := x.reg f.rb.toNat
    let ci := b2n x.flags.c
    let fl (r : Word) (c : Bool) (exact : Int) : Flags := ⟨r == 0, r.msb, c, decide (exact < -2 ^ 31 ∨ 2 ^ 31 ≤ exact), x.flags.t⟩
    Retires (.add n f) n s s (x.gives f.rd (a + b) (fl (a + b) (decide (2 ^ 32 ≤ a.toNat + b.toNat)) (a.toInt + b.toInt))) ∧
    Retires (.adc n f) n s s (x.gives f.rd (a + b + BitVec.ofNat 32 ci)
      (fl (a + b + BitVec.ofNat 32 ci) (decide (2 ^ 32 ≤ a.toNat + b.toNat + ci)) (a.toInt + b.toInt + ci))) ∧
    Retires (.sub n f) n s s (x.gives f.rd (a - b) (fl (a - b) (decide (a.toNat < b.toNat)) (a.toInt - b.toInt))) ∧
    Retires (.sbc n f) n s s (x.gives f.rd (a - b - BitVec.ofNat 32 ci)
      (fl (a - b - BitVec.ofNat 32 ci) (decide (a.toNat < b.toNat + ci)) (a.toInt - b.toInt - ci))) ∧
    (f.rd = 0 → Retires (.cmp n f) n s s { x with flags := fl (a - b) (decide (a.toNat < b.toNat)) (a.toInt - b.toInt) })) ∧
  (∀ (n : BitVec 6) (f : FormI) (s : State), Ready s n → f.unassigned = none →
    let x := strandAt s n.toNat
    let a := x.reg f.ra.toNat
    let i := f.imm.signExtend 32
    let fl (r : Word) (c : Bool) (exact : Int) : Flags := ⟨r == 0, r.msb, c, decide (exact < -2 ^ 31 ∨ 2 ^ 31 ≤ exact), x.flags.t⟩
    Retires (.addi n f) n s s (x.gives f.rd (a + i) (fl (a + i) (decide (2 ^ 32 ≤ a.toNat + i.toNat)) (a.toInt + i.toInt))) ∧
    (f.rd = 0 → Retires (.cmpi n f) n s s { x with flags := fl (a - i) (decide (a.toNat < i.toNat)) (a.toInt - i.toInt) }))

/-- Logic (R162, R163): Z and N of the result; TST sets T as well; CSEL and LUI set no flag. Minima, maxima, leading zeros, set bits, byte order: the result by
what it is; Z and N of it. -/
def Obligations.Logic : Prop :=
  (∀ (n : BitVec 6) (f : FormA) (s : State), Ready s n → f.unassigned = none →
    let x := strandAt s n.toNat
    let a := x.reg f.ra.toNat
    let b := x.reg f.rb.toNat
    let zn (r : Word) : Flags := { x.flags with z := r == 0, n := r.msb }
    (f.aux = 0 →
      Retires (.and n f) n s s (x.gives f.rd (a &&& b) (zn (a &&& b))) ∧ Retires (.or n f) n s s (x.gives f.rd (a ||| b) (zn (a ||| b))) ∧
      Retires (.xor n f) n s s (x.gives f.rd (a ^^^ b) (zn (a ^^^ b))) ∧
      Retires (.andn n f) n s s (x.gives f.rd (a &&& ~~~b) (zn (a &&& ~~~b))) ∧
      (f.rd = 0 → Retires (.tst n f) n s s { x with flags := { zn (a &&& b) with t := (a &&& b) != 0 } })) ∧
    (f.aux.toNat < 16 →
      Retires (.csel n f) n s s (x.gives f.rd (if condHolds (f.aux.setWidth 4) x.flags then a else b) x.flags))) ∧
  (∀ (n : BitVec 6) (f : FormI) (s : State), Ready s n → f.unassigned = none →
    let x := strandAt s n.toNat
    let a := x.reg f.ra.toNat
    let i := f.imm.zeroExtend 32
    let zn (r : Word) : Flags := { x.flags with z := r == 0, n := r.msb }
    Retires (.andi n f) n s s (x.gives f.rd (a &&& i) (zn (a &&& i))) ∧ Retires (.ori n f) n s s (x.gives f.rd (a ||| i) (zn (a ||| i))) ∧
    Retires (.xori n f) n s s (x.gives f.rd (a ^^^ i) (zn (a ^^^ i))) ∧
    (f.ra = 0 → Retires (.lui n f) n s s (x.gives f.rd (f.imm ++ (0 : BitVec 16)) x.flags))) ∧
  (∀ (n : BitVec 6) (f : FormA) (s : State), Ready s n → f.unassigned = none → f.aux = 0 →
    let x := strandAt s n.toNat
    let a := x.reg f.ra.toNat
    let b := x.reg f.rb.toNat
    let out (r : Word) : Strand := x.gives f.rd r { x.flags with z := r == 0, n := r.msb }
    (∃ r, Retires (.mins n f) n s s (out r) ∧ (r = a ∨ r = b) ∧ r.toInt ≤ a.toInt ∧ r.toInt ≤ b.toInt) ∧
    (∃ r, Retires (.maxs n f) n s s (out r) ∧ (r = a ∨ r = b) ∧ a.toInt ≤ r.toInt ∧ b.toInt ≤ r.toInt) ∧
    (∃ r, Retires (.minu n f) n s s (out r) ∧ (r = a ∨ r = b) ∧ r.toNat ≤ a.toNat ∧ r.toNat ≤ b.toNat) ∧
    (∃ r, Retires (.maxu n f) n s s (out r) ∧ (r = a ∨ r = b) ∧ a.toNat ≤ r.toNat ∧ b.toNat ≤ r.toNat) ∧
    (f.rb = 0 →
      (∃ k : Nat, Retires (.clz n f) n s s (out (BitVec.ofNat 32 k)) ∧ k ≤ 32 ∧ a.toNat < 2 ^ (32 - k) ∧ (k < 32 → 2 ^ (31 - k) ≤ a.toNat)) ∧
      Retires (.popc n f) n s s (out (BitVec.ofNat 32 ((List.range 32).countP (fun k => a.getLsbD k)))) ∧
      Retires (.bswap n f) n s s (out (a.extractLsb' 0 8 ++ a.extractLsb' 8 8 ++ a.extractLsb' 16 8 ++ a.extractLsb' 24 8))))

/-- Shifts and rotates (R162, R163) by n, the low five bits of rb or of the immediate: C is the last bit out, unchanged when n = 0; V and T stand. Products and quotients with their
edge values: Z and N of the result, V as the table names it, C and T unchanged. -/
def Obligations.ShiftsMultiplyDivide : Prop :=
  (let fl (x : Strand) (r : Word) (n : Nat) (c : Bool) : Flags := { x.flags with z := r == 0, n := r.msb, c := if n = 0 then x.flags.c else c }
  (∀ (n : BitVec 6) (f : FormA) (s : State), Ready s n → f.unassigned = none → f.aux = 0 →
    let x := strandAt s n.toNat
    let a := x.reg f.ra.toNat
    let k := (x.reg f.rb.toNat).toNat % 32
    Retires (.shl n f) n s s (x.gives f.rd (a <<< k) (fl x (a <<< k) k (a.getLsbD (32 - k)))) ∧
    Retires (.shr n f) n s s (x.gives f.rd (a >>> k) (fl x (a >>> k) k (a.getLsbD (k - 1)))) ∧
    Retires (.sar n f) n s s (x.gives f.rd (a.sshiftRight k) (fl x (a.sshiftRight k) k (a.getLsbD (k - 1)))) ∧
    Retires (.ror n f) n s s (x.gives f.rd (a.rotateRight k) (fl x (a.rotateRight k) k (a.rotateRight k).msb))) ∧
  (∀ (n : BitVec 6) (f : FormI) (s : State), Ready s n → f.unassigned = none → f.imm.toNat < 32 →
    let x := strandAt s n.toNat
    let a := x.reg f.ra.toNat
    let k := f.imm.toNat
    Retires (.shli n f) n s s (x.gives f.rd (a <<< k) (fl x (a <<< k) k (a.getLsbD (32 - k)))) ∧
    Retires (.shri n f) n s s (x.gives f.rd (a >>> k) (fl x (a >>> k) k (a.getLsbD (k - 1)))) ∧
    Retires (.sari n f) n s s (x.gives f.rd (a.sshiftRight k) (fl x (a.sshiftRight k) k (a.getLsbD (k - 1)))) ∧
    Retires (.rori n f) n s s (x.gives f.rd (a.rotateRight k) (fl x (a.rotateRight k) k (a.rotateRight k).msb)))) ∧
  (∀ (n : BitVec 6) (f : FormA) (s : State), Ready s n → f.unassigned = none → f.aux = 0 →
    let x := strandAt s n.toNat
    let a := x.reg f.ra.toNat
    let b := x.reg f.rb.toNat
    let zn (r : Word) : Flags := { x.flags with z := r == 0, n := r.msb }
    let p := a.toInt * b.toInt
    let most := decide (a = 0x80000000 ∧ b = 0xFFFFFFFF)
    let qs : Word := if b = 0 then 0xFFFFFFFF else if most then 0x80000000 else BitVec.ofInt 32 (a.toInt.tdiv b.toInt)
    let rs : Word := if b = 0 then a else if most then 0 else BitVec.ofInt 32 (a.toInt.tmod b.toInt)
    let qu : Word := if b = 0 then 0xFFFFFFFF else a / b
    let ru : Word := if b = 0 then a else a % b
    Retires (.mul n f) n s s (x.gives f.rd (a * b) { zn (a * b) with v := decide (p < -2 ^ 31 ∨ 2 ^ 31 ≤ p) }) ∧
    Retires (.mulhu n f) n s s (x.gives f.rd ((a.setWidth 64 * b.setWidth 64).extractLsb' 32 32) (zn ((a.setWidth 64 * b.setWidth 64).extractLsb' 32 32))) ∧
    Retires (.mulhs n f) n s s (x.gives f.rd ((a.signExtend 64 * b.signExtend 64).extractLsb' 32 32)
      (zn ((a.signExtend 64 * b.signExtend 64).extractLsb' 32 32))) ∧
    Retires (.divu n f) n s s (x.gives f.rd qu { zn qu with v := b == 0 }) ∧ Retires (.remu n f) n s s (x.gives f.rd ru { zn ru with v := b == 0 }) ∧
    Retires (.divs n f) n s s (x.gives f.rd qs { zn qs with v := b == 0 || most }) ∧
    Retires (.rems n f) n s s (x.gives f.rd rs { zn rs with v := b == 0 || most }))

/-- A strand that does not hold its cluster's issue slot issues nothing (the model's reading of R191, entry 33), and one whose fetch fails traps
CODE_MAP, or ECC with its bank's fault source, at the fetch address (R156, R182): all for every Celec instruction. (Which words have an uncorrectable error
is the model's field `ecc`, entry 29.) A word that spells no instruction, its op, fn or sub unassigned, traps ILLEGAL with its op as the detail; so does a
reserved field that is nonzero, for every instruction that has one (R159, R160, R182). -/
def Obligations.IssueChecks : Prop :=
  (∀ (i : Instr) (n : BitVec 6) (s : State), i.issuer = some n →
    (issues s n.toNat = false → exec i s = .next s) ∧
    (issues s n.toNat = true → fetchValid s n.toNat = false → Traps i n s 3 0 (strandAt s n.toNat).pc.toNat false) ∧
    (let pc := (strandAt s n.toNat).pc.toNat
     let p := 4096 * (codePage s (strandSeat s n.toNat) (pc / 4096)).phys + pc % 4096
     issues s n.toNat = true → fetchValid s n.toNat = true → wordBad s p = true →
       exec i s = .next (faultRaise (24 + p / 0x200000) (trapStrand n.toNat 8 4 pc false s)))) ∧
  (∀ (i : Instr) (n : BitVec 6) (w : BitVec 32) (s : State), i.celecWord = some (n, w) → i.spelled = true → Ready s n →
    (celecCommand n w = none → Traps i n s 1 (w.toNat / 2 ^ 26) 0 false) ∧
    (∀ op, celecCommand n w ≠ none → i.reservedSet = some (n, op) → Traps i n s 1 op 0 false))

/-- Taking a trap (R182, R193): s.fault, s.faddr and s.epc; TRAPPED, at the trapping instruction; registers, flags and s.prog as they were; the Seat's
trap cause set; memory unchanged. -/
def Obligations.TrapEntry : Prop :=
  ∀ (k code detail faddr : Nat) (wr : Bool) (s : State),
    let t := trapStrand k code detail faddr wr s
    let x := strandAt s k
    let y := strandAt t k
    let loc := strandLocal s k
    y.mode = .trapped ∧ y.fault = BitVec.ofNat 32 (code + 256 * (detail % 256) + 65536 * b2n wr) ∧ y.faddr = BitVec.ofNat 32 faddr ∧
    y.epc = x.pc ∧ y.pc = x.pc ∧ y.g = x.g ∧ y.flags = x.flags ∧ y.prog = x.prog ∧
    rbit t (kS (strandSeat s k) (0x48010 + 4 * (loc / 32))) (loc % 32) = true ∧ OnlyIn [.host, .st, .regs] s t

/-- Data loads (R164): an aligned access to a readable page gives the bytes at the mapped address, the lowest address least significant, extended to a
word; no flag changes, and nothing else. The word has no uncorrectable error (AccessTraps has that case). -/
def Obligations.DataLoads : Prop :=
  ∀ (n : BitVec 6) (f : FormI) (s : State) (p : Nat), Ready s n → f.unassigned = none →
    let x := strandAt s n.toNat
    let ea := effAddr x f.ra f.imm
    dataPhys s (strandSeat s n.toNat) ea = some p → wordBad s p = false →
    let h : BitVec 16 := sramGet s (p + 1) ++ sramGet s p
    (ea % 4 = 0 → Retires (.ldW n f) n s s (x.setReg f.rd.toNat (sramGet s (p + 3) ++ sramGet s (p + 2) ++ h))) ∧
    (ea % 2 = 0 → Retires (.ldHu n f) n s s (x.setReg f.rd.toNat (h.setWidth 32)) ∧ Retires (.ldsH n f) n s s (x.setReg f.rd.toNat (h.signExtend 32))) ∧
    Retires (.ldBu n f) n s s (x.setReg f.rd.toNat ((sramGet s p).setWidth 32)) ∧
    Retires (.ldsB n f) n s s (x.setReg f.rd.toNat ((sramGet s p).signExtend 32))

/-- Data stores (R164): an aligned store to a page with STRAND_WR puts the low bytes of rd at the mapped address; every other byte of the SRAM, every
register and flag stand; only a delta of a mirrored page may follow in the mate's state (R296). -/
def Obligations.DataStores : Prop :=
  ∀ (n : BitVec 6) (f : FormI) (s : State) (p : Nat), Ready s n → f.unassigned = none →
    let x := strandAt s n.toNat
    let ea := effAddr x f.ra f.imm
    let v := x.reg f.rd.toNat
    dataPhys s (strandSeat s n.toNat) ea = some p → dataWritable s (strandSeat s n.toNat) ea = true →
    let stored (i : Instr) (size : Nat) : Prop := ∃ u, Retires i n s u x ∧ OnlyIn [.sram, .mate] s u ∧
      (∀ j, j < size → sramGet u (p + j) = v.extractLsb' (8 * j) 8) ∧ (∀ b, b < p ∨ p + size ≤ b → sramGet u b = sramGet s b)
    (ea % 4 = 0 → stored (.stW n f) 4) ∧ (ea % 2 = 0 → stored (.stH n f) 2) ∧ stored (.stB n f) 1

/-- Accesses of scratch (R164, R198): the strand's own page, 0xF80 and its physical number on; a load, where the word has no uncorrectable error. -/
def Obligations.Scratch : Prop :=
  ∀ (n : BitVec 6) (f : FormI) (s : State), Ready s n → f.unassigned = none →
    let x := strandAt s n.toNat
    let ea := effAddr x f.ra f.imm
    let p := 0x1000 * (0xF80 + n.toNat) + ea
    let v := x.reg f.rd.toNat
    ea < 0x1000 →
    let stored (i : Instr) (size : Nat) : Prop := ∃ u, Retires i n s u x ∧ OnlyIn [.sram] s u ∧
      (∀ j, j < size → sramGet u (p + j) = v.extractLsb' (8 * j) 8) ∧ (∀ b, b < p ∨ p + size ≤ b → sramGet u b = sramGet s b)
    (ea % 4 = 0 → stored (.stxW n f) 4) ∧ (ea % 2 = 0 → stored (.stxH n f) 2) ∧ stored (.stxB n f) 1 ∧
    (wordBad s p = false →
      (ea % 4 = 0 → Retires (.ldxW n f) n s s
        (x.setReg f.rd.toNat (sramGet s (p + 3) ++ sramGet s (p + 2) ++ sramGet s (p + 1) ++ sramGet s p))) ∧
      (ea % 2 = 0 → Retires (.ldxHu n f) n s s (x.setReg f.rd.toNat ((sramGet s (p + 1) ++ sramGet s p).setWidth 32))) ∧
      Retires (.ldxBu n f) n s s (x.setReg f.rd.toNat ((sramGet s p).setWidth 32)))

/-- What a misaligned or unmapped load or store traps with (R164, R182): ALIGN before the page check (the model's order, entry 9), DATA_MAP with the page number,
SCRATCH_RANGE; WRITE for stores; ECC for a load of a word with an uncorrectable error, which also reports the fault source of the
bank (which words those are is the model's field `ecc`, entry 29). -/
def Obligations.AccessTraps : Prop :=
  ∀ (n : BitVec 6) (f : FormI) (s : State), Ready s n → f.unassigned = none →
    let k := n.toNat
    let ea := effAddr (strandAt s k) f.ra f.imm
    let unread := dataPhys s (strandSeat s k) ea = none
    let unwrit := unread ∨ dataWritable s (strandSeat s k) ea = false
    (ea % 4 ≠ 0 → Traps (.ldW n f) n s 2 0 ea false ∧ Traps (.stW n f) n s 2 0 ea true ∧
      Traps (.ldxW n f) n s 2 1 ea false ∧ Traps (.stxW n f) n s 2 1 ea true ∧ Traps (.old n f) n s 2 2 ea false ∧ Traps (.rld n f) n s 2 3 ea false) ∧
    (ea % 2 ≠ 0 → Traps (.ldHu n f) n s 2 0 ea false ∧ Traps (.ldsH n f) n s 2 0 ea false ∧ Traps (.stH n f) n s 2 0 ea true ∧
      Traps (.ldxHu n f) n s 2 1 ea false ∧ Traps (.stxH n f) n s 2 1 ea true) ∧
    (unread → Traps (.ldBu n f) n s 4 (ea / 4096) ea false ∧ Traps (.ldsB n f) n s 4 (ea / 4096) ea false ∧
      (ea % 2 = 0 → Traps (.ldHu n f) n s 4 (ea / 4096) ea false ∧ Traps (.ldsH n f) n s 4 (ea / 4096) ea false) ∧
      (ea % 4 = 0 → Traps (.ldW n f) n s 4 (ea / 4096) ea false)) ∧
    (unwrit → Traps (.stB n f) n s 4 (ea / 4096) ea true ∧ (ea % 2 = 0 → Traps (.stH n f) n s 4 (ea / 4096) ea true) ∧
      (ea % 4 = 0 → Traps (.stW n f) n s 4 (ea / 4096) ea true)) ∧
    (0x1000 ≤ ea → Traps (.ldxBu n f) n s 5 0 ea false ∧ Traps (.stxB n f) n s 5 0 ea true ∧
      (ea % 2 = 0 → Traps (.ldxHu n f) n s 5 0 ea false ∧ Traps (.stxH n f) n s 5 0 ea true) ∧
      (ea % 4 = 0 → Traps (.ldxW n f) n s 5 0 ea false ∧ Traps (.stxW n f) n s 5 0 ea true)) ∧
    (let ecc (space p : Nat) (i : Instr) : Prop := exec i s = .next (faultRaise (24 + p / 0x200000) (trapStrand k 8 space ea false s))
     (∀ p, dataPhys s (strandSeat s k) ea = some p → wordBad s p = true →
       ecc 0 p (.ldBu n f) ∧ ecc 0 p (.ldsB n f) ∧ (ea % 2 = 0 → ecc 0 p (.ldHu n f) ∧ ecc 0 p (.ldsH n f)) ∧ (ea % 4 = 0 → ecc 0 p (.ldW n f))) ∧
     (let p := 0x1000 * (0xF80 + k) + ea
      ea < 0x1000 → wordBad s p = true → ecc 1 p (.ldxBu n f) ∧ (ea % 2 = 0 → ecc 1 p (.ldxHu n f)) ∧ (ea % 4 = 0 → ecc 1 p (.ldxW n f))))

/-- Atomics (R166) on the aligned word at ra, in a page with STRAND_WR: rd takes the old word, the word its new value; CAS stores only on a match, and T
says whether it did. On a word with an uncorrectable error each traps ECC with WRITE (R182; entry 29). -/
def Obligations.Atomics : Prop :=
  ∀ (n : BitVec 6) (f : FormA) (s : State) (p : Nat), Ready s n → f.unassigned = none → f.aux = 0 →
    let x := strandAt s n.toNat
    let ea := (x.reg f.ra.toNat).toNat
    let b := x.reg f.rb.toNat
    dataPhys s (strandSeat s n.toNat) ea = some p → dataWritable s (strandSeat s n.toNat) ea = true → ea % 4 = 0 →
    (wordBad s p = true → ∀ i ∈ [Instr.aadd n f, .aand n f, .aor n f, .axor n f, .aswp n f, .aminu n f, .amaxu n f, .cas n f],
      exec i s = .next (faultRaise (24 + p / 0x200000) (trapStrand n.toNat 8 0 ea true s))) ∧
    (wordBad s p = false →
    let old : Word := sramGet s (p + 3) ++ sramGet s (p + 2) ++ sramGet s (p + 1) ++ sramGet s p
    let does (i : Instr) (new : Word) : Prop := ∃ u, Retires i n s u (x.setReg f.rd.toNat old) ∧ OnlyIn [.sram, .mate] s u ∧
      (∀ j, j < 4 → sramGet u (p + j) = new.extractLsb' (8 * j) 8) ∧ (∀ q, q < p ∨ p + 4 ≤ q → sramGet u q = sramGet s q)
    does (.aadd n f) (old + b) ∧ does (.aand n f) (old &&& b) ∧ does (.aor n f) (old ||| b) ∧ does (.axor n f) (old ^^^ b) ∧ does (.aswp n f) b ∧
    does (.aminu n f) (if old.toNat ≤ b.toNat then old else b) ∧ does (.amaxu n f) (if old.toNat ≤ b.toNat then b else old) ∧
    (old = x.reg f.rd.toNat → ∃ u, Retires (.cas n f) n s u ((x.setT true).setReg f.rd.toNat old) ∧ OnlyIn [.sram, .mate] s u ∧
      (∀ j, j < 4 → sramGet u (p + j) = b.extractLsb' (8 * j) 8) ∧ (∀ q, q < p ∨ p + 4 ≤ q → sramGet u q = sramGet s q)) ∧
    (old ≠ x.reg f.rd.toNat → Retires (.cas n f) n s s ((x.setT false).setReg f.rd.toNat old)))

/-- OLD, OST, RLD and RST (R164, R165, R167): an aligned access of what the Seat may reach goes as the object's or register's own access does, and the
strand stalls for the value read, or for the outcome word. A low-order connection entry that the Seat may write is staged, and a register that takes the value
stores it: DONE. That the effect stands at the issue and STALL_END delivers it is the model's choice (entry 8). -/
def Obligations.ObjectRegisterAccess : Prop :=
  (∀ (n : BitVec 6) (f : FormI) (s t : State) (v : Nat), Ready s n → f.unassigned = none →
    let k := n.toNat
    let ea := effAddr (strandAt s k) f.ra f.imm
    ea % 4 = 0 →
    (ea < 0x1000000 → objRead (strandAgent s k) ea s = (some v, t) → Stalls (.old n f) n s t ⟨f.rd.toNat, BitVec.ofNat 32 v, none, none⟩) ∧
    (ea < 0x1000000 → objRead (strandAgent s k) ea s = (none, t) → Traps (.old n f) n s 6 (objMapEntry ea) ea false) ∧
    (ea < 0x800000 → seatRead (strandAgent s k) ea s = (some v, t) → Stalls (.rld n f) n s t ⟨f.rd.toNat, BitVec.ofNat 32 v, none, none⟩) ∧
    (ea < 0x800000 → seatRead (strandAgent s k) ea s = (none, t) → Traps (.rld n f) n s 7 0 ea false) ∧
    (0x800000 ≤ ea → Traps (.rld n f) n s 7 0 ea false)) ∧
  (∀ (n : BitVec 6) (f : FormA) (s t : State) (o : Nat), Ready s n → f.unassigned = none → f.aux = 0 →
    let k := n.toNat
    let a := strandAgent s k
    let ea := (regOf s k f.ra).toNat
    let v := (regOf s k f.rb).toNat
    ea % 4 = 0 →
    (objWriteFail s a ea = none → objWrite a ea v (dropKeyLoad (apertureOff ea) s) = (some o, t) → Answers (.ost n f) n s t f.rd o 0 0) ∧
    (ea < 0x800000 → rstFail s a ea = false → seatWrite a ea 0xF v s = (some o, t) → Answers (.rst n f) n s t f.rd o 0 0) ∧
    (0x800000 ≤ ea → Traps (.rst n f) n s 7 0 ea true) ∧
    (∀ c p y,
      let s0 := touch a none (dropKeyLoad (apertureOff ea) s)
      objWriteFail s a ea = none → isHoAddr ea = false → connOfAddr ea = some c → ConnOk a c v s0 p y →
      ∃ u, Answers (.ost n f) n s u f.rd 0 0 0 ∧ Staged a.seat (connKey p) (setBits (entryNorm (isHo c) v) 0 14 y) s u) ∧
    (∀ r, ea < 0x800000 → isObjOff ea = false → s.led.keyWords = [] → (pathAt s a.pk).held = none → regAt s a.seat a.pk ea true = .reg r →
      (keeperOnly r.desc = true → a.seat = 0) → readOnly r.desc = false → mayWrite a.seat r = true → multiWord r.desc = false →
      regCommand a r v s = none → r.desc.name ≠ .mateCtl → Accepts a r v s → ∃ u, Answers (.rst n f) n s u f.rd 0 0 0 ∧ Stores a r v s u))

/-- A block operation issued at an address other than s.epc while s.prog ≠ 0 traps PROG_CONFLICT and does nothing more (R170); MTS of 0 to s.prog
abandons it, and then it may start. -/
def Obligations.ProgressConflict : Prop :=
  ∀ (n : BitVec 6) (f : FormA) (stop : Option Nat) (s : State), Ready s n → f.unassigned = none →
    let x := strandAt s n.toNat
    (x.prog ≠ 0 → x.epc ≠ x.pc →
      (f.aux.toNat < 16 → Traps (.csetn n f stop) n s 0xA 0 x.pc.toNat false) ∧
      (bits f.aux.toNat 0 2 ≠ 3 → f.aux.toNat < 8 → Traps (.blkmov n f stop) n s 0xA 0 x.pc.toNat false)) ∧
    (∀ ra : BitVec 4, x.reg ra.toNat = 0 → Retires (.mts n ⟨0x29, 8, ra, 0, 1, 0⟩) n s s { x with prog := 0 })

/-- BLKMOV (R169, R171): units of 64 bytes from s.prog on. When all are done it completes with s.prog 0; at a progress point it stays at its address with s.prog
at the bytes done and s.epc set; inside a unit that fails a check it traps with the unit undone, and in the first unit with nothing changed (R182). Where it
stops is the sender's (the model's choice, entry 33), and so is an s.prog inside a unit, which counts as the unit done (entry 57). -/
def Obligations.BlockMove : Prop :=
  ∀ (n : BitVec 6) (f : FormA) (stop : Option Nat) (s t : State) (i : Nat) (e : BlockEnd), Ready s n → f.unassigned = none →
    let k := n.toNat
    let x := strandAt s k
    let src := (regOf s k f.ra).toNat
    let dst := (regOf s k f.rd).toNat
    let len := (regOf s k f.rb).toNat
    let sp := bits f.aux.toNat 0 2
    let dp := bits f.aux.toNat 2 2
    let total := (len + 63) / 64
    let down := decide (sp = dp ∧ src < dst ∧ dst < src + len)
    let start := (x.prog.toNat + 63) / 64
    f.aux.toNat < 8 → sp ≠ 3 → (x.prog = 0 ∨ x.epc = x.pc) → len ≤ 0x40000 → (sp = 2 → src % 4 = 0 ∧ len % 4 = 0) →
    runUnits (blkUnit k (strandSeat s k) sp dp src dst len down) total (unitLimit total stop) start
      (if sp = 2 then touch (strandAgent s k) none s else s) = (i, e, t) →
    (e = .complete → Retires (.blkmov n f stop) n s t { strandAt t k with prog := 0 }) ∧
    (e = .paused → Ran (.blkmov n f stop) n s (setStrand k { strandAt t k with prog := BitVec.ofNat 32 (64 * i), epc := (strandAt t k).pc } t)) ∧
    (∀ (fl : Fails) (wr : Bool), e = .trap fl wr →
      let v := if i = start then s else t
      let u := trapStrand k fl.code fl.detail fl.addr wr (setStrand k { strandAt v k with prog := BitVec.ofNat 32 (64 * i) } v)
      (fl.bank = none → exec (.blkmov n f stop) s = .next u) ∧ (∀ b, fl.bank = some b → exec (.blkmov n f stop) s = .next (faultRaise (24 + b) u)))

/-- A copy inside scratch of bytes without an uncorrectable error, whole in one issue, leaves the destination equal to the original source, overlap or not, and changes nothing else (R171). -/
def Obligations.BlockMoveOverlap : Prop :=
  ∀ (n : BitVec 6) (f : FormA) (s : State), Ready s n → f.unassigned = none → f.aux = 5 →
    let k := n.toNat
    let x := strandAt s k
    let src := (x.reg f.ra.toNat).toNat
    let dst := (x.reg f.rd.toNat).toNat
    let len := (x.reg f.rb.toNat).toNat
    let base := 0x1000 * (0xF80 + k)
    x.prog = 0 → src + len ≤ 0x1000 → dst + len ≤ 0x1000 → (∀ j, j < len → wordBad s (base + src + j) = false) →
    ∃ u, Retires (.blkmov n f none) n s u x ∧ OnlyIn [.sram] s u ∧
      (∀ j, j < len → sramGet u (base + dst + j) = sramGet s (base + src + j)) ∧
      (∀ b, b < base + dst ∨ base + dst + len ≤ b → sramGet u b = sramGet s b)

/-- CSETN (R172): one staged write per entry. All written: DONE with the count; entry 0 refused: that refusal; entry k > 0 refused: FAULTED with the
refusal and k; more than 256 traps BLK_RANGE; none is DONE at once. The outcome word goes to the register of aux[3:0], and T says how it went.
One entry that the Seat may write is staged: DONE with count 1. Where it stops at a progress point is the sender's (the model's choice, entry 33); it
does not stall (entry 8). -/
def Obligations.ConnectionSet : Prop :=
  ∀ (n : BitVec 6) (f : FormA) (stop : Option Nat) (s t : State) (i : Nat) (e : BlockEnd), Ready s n → f.unassigned = none →
    let k := n.toNat
    let x := strandAt s k
    let seat := strandSeat s k
    let a := (regOf s k f.rd).toNat
    let total := (regOf s k f.rb).toNat
    let ends (u : State) (code detail count : Nat) : Prop :=
      Ran (.csetn n f stop) n s (setStrand k
        { ((strandAt u k).setT (decide (code < 0x10))).setReg f.aux.toNat (BitVec.ofNat 32 (code + 256 * detail + 65536 * count)) with
          prog := 0, pc := nextPc (strandAt u k).pc } (countOutcome seat code u))
    f.aux.toNat < 16 → (x.prog = 0 ∨ x.epc = x.pc) →
    (256 < total → Traps (.csetn n f stop) n s 9 0x1D 0 false) ∧
    (total = 0 → ends s 0 0 0) ∧
    (0 < total → total ≤ 256 → connAligned a = none →
      runUnits (csetUnit k seat a (regOf s k f.ra).toNat) total (unitLimit total stop) x.prog.toNat (touch (strandAgent s k) none s) = (i, e, t) →
      strandSeat t k = seat →
      (e = .complete → ends t 0 0 total) ∧
      (∀ code, e = .refused code → code < 256 → (i = 0 → ends t code 0 0) ∧ (0 < i → i ≤ 256 → ends t 0x20 code i)) ∧
      (e = .paused → Ran (.csetn n f stop) n s (setStrand k { strandAt t k with prog := BitVec.ofNat 32 i, epc := (strandAt t k).pc } t))) ∧
    (∀ c p y,
      let d := (regOf s k f.ra).toNat
      let v := dataVal s seat d (entrySize c)
      x.prog = 0 → total = 1 → stop = none → (pathAt s (strandAgent s k).pk).held = none → connAligned a = none → connOfAddr a = some c →
      c < 8192 + 32 * 6144 → dataCheck s seat false 4 d (entrySize c) = none → ConnOk (strandAgent s k) c v s p y →
      ∃ u, ends u 0 0 1 ∧ Staged seat (connKey p) (setBits (entryNorm (isHo c) v) 0 14 y) s u)

/-- Connection requests (R177): CWR and CDEL stage a write and a deletion, CRD stores the entry that the Seat sees and gives its page tag, CSTATE gives the
state; an address of no connection, or a connection that the Seat does not reach, ends REFUSED_SEAT. Each acts at its issue (the model's choice, entry 8); the
checks' order is the model's (entry 9), the refusal of an address of 0x100_0000 or more too (entry 57). A write or deletion that the Seat may make is staged and ends DONE. -/
def Obligations.ConnectionRequests : Prop :=
  ∀ (n : BitVec 6) (f : FormA) (s : State) (c : Nat), Ready s n → f.unassigned = none → f.aux = 0 →
    let k := n.toNat
    let seat := strandSeat s k
    let who := strandAgent s k
    let a := (regOf s k f.ra).toNat
    let d := (regOf s k f.rb).toNat
    let s0 := reqTouch k s
    connAligned a = none →
    (0x1000000 ≤ a → dataCheck s seat false 4 d (match connOfAddr a with | some num => entrySize num | none => 4) = none →
      Answers (.cwr n f) n s s f.rd 0x15 0 1) ∧
    (a < 0x1000000 → connOfAddr a = some c →
      (dataCheck s seat false 4 d (entrySize c) = none →
        let r := stageConn who c (dataVal s seat d (entrySize c)) s0
        Answers (.cwr n f) n s r.2 f.rd r.1 0 1) ∧
      (f.rb = 0 →
        let r := stageConn who c 0 s0
        Answers (.cdel n f) n s r.2 f.rd r.1 0 0) ∧
      (dataCheck s seat true 4 d (entrySize c) = none →
        (connAssigned c = true → connReach s0 seat c = false → Answers (.crd n f) n s s0 f.rd 0x15 0 0) ∧
        (connAssigned c = false → Answers (.crd n f) n s (dataPut seat d (toBytes (entrySize c) 0) s0) f.rd 0 0 0) ∧
        (∀ p, connAssigned c = true → connReach s0 seat c = true → connRead s0 seat c = some p →
          Answers (.crd n f) n s (dataPut seat d (toBytes (entrySize c) (entryImage s0 seat p false)) s0) f.rd 0 0 (newestEntry s0 seat p false).2.1)) ∧
      (f.rb = 0 →
        (∀ p, connAssigned c = true → connReach s0 seat c = true → connRead s0 seat c = some p →
          Answers (.cstate n f) n s s0 f.rd 0 0 (newestEntry s0 seat p false).1) ∧
        (connReach s0 seat c = false → Answers (.cstate n f) n s s0 f.rd 0x15 0 0)) ∧
      (∀ p x,
        let v := dataVal s seat d (entrySize c)
        let puts (i : Instr) (e count : Nat) : Prop := ConnOk who c e s0 p x →
          ∃ u, Answers i n s u f.rd 0 0 count ∧ Staged seat (connKey p) (setBits (entryNorm (isHo c) e) 0 14 x) s u
        (dataCheck s seat false 4 d (entrySize c) = none → puts (.cwr n f) v 1) ∧ (f.rb = 0 → puts (.cdel n f) 0 0)))

/-- PXATT, PXDET and PREQ (R177, R284, R288): the attachment, the detachment, and the switch request at the object, each with its outcome; with
REFUSED_CAPACITY PREQ gives the request in force. Each acts at its issue (the model's choice, entry 8). An attachment, a detachment and a command
that the rules allow end DONE, with the expectation pending, its removal staged, the command in force. -/
def Obligations.ProofProtectionRequests : Prop :=
  ∀ (n : BitVec 6) (f : FormA) (s : State), Ready s n → f.unassigned = none → f.aux = 0 →
    let k := n.toNat
    let seat := strandSeat s k
    let who := strandAgent s k
    let a := (regOf s k f.ra).toNat
    let b := (regOf s k f.rb).toNat
    let s0 := reqTouch k s
    (connAligned a = none → dataCheck s seat false 4 b 40 = none →
      let r := stageAttach who a (dataVal s seat b 40) s0
      Answers (.pxatt n f) n s r.2.2 f.rd r.1 0 r.2.1) ∧
    (connAligned a = none →
      let r := stageDetach who a b s0
      Answers (.pxdet n f) n s r.2.2 f.rd r.1 0 0) ∧
    (a % 4 = 0 → b < 16 →
      let r := commandAt (strandAgent s0 k) a b s0
      (r.1 ≠ 0x10 → Answers (.preq n f) n s r.2 f.rd r.1 0 0) ∧
      (∀ (g : ProtRef) (x : Nat), protAt s0 (strandSeat s0 k) a = some (g, x) → r.1 = 0x10 → 
        Answers (.preq n f) n s r.2 f.rd 0x10 (standing (cfgOf s0 g) false (ctlAt s0 g)).code 0)) ∧
    (connAligned a = none → ∀ q p j,
      let body := { bodyOf (dataVal s seat b 40) with port := p }
      (dataCheck s seat false 4 b 40 = none → AttachOk who a (dataVal s seat b 40) s0 q p j →
        ∃ u, Answers (.pxatt n f) n s u f.rd 0 0 j ∧ Staged seat (expectKey j) (bodyVal body) s u ∧
          expectAt u j = some ⟨body, q, seat, .pending, 0, 0, 0, 0, 0, 0⟩) ∧
      (DetachOk who a b s0 q j → ∃ u, Answers (.pxdet n f) n s u f.rd 0 0 0 ∧ Staged seat (expectKey j) 0 s u)) ∧
    (a % 4 = 0 → b < 16 → ∀ g x, protAt s0 (strandSeat s0 k) a = some (g, x) → CommandOk s0 g b →
      ∃ u, Answers (.preq n f) n s u f.rd 0 0 0 ∧ ctlAt u g = cmdApply false b (ctlAt s g))

/-- CMT.GO and CMT.CANCEL (R178): the Seat's group submitted for frame F.0, with the commit ID when it is accepted; a commit cancelled by its ID. SJOB and SCANCEL
(R179): a job of 64 bytes posted; a job cancelled. RTX and RRX (R179, R433, R436): a frame of 32 bytes submitted, with the earliest legal LT in re under DEFERRED and REFUSED_BUDGET, and re unchanged
otherwise; the oldest record moved to data memory, with its length. Each acts at its issue (the
model's choice, entry 8). A group that GO accepts is pending for its frame, a group cancelled is gone, a job is posted, a frame joins the queue. -/
def Obligations.CommitScanRadioRequests : Prop :=
  (∀ (n : BitVec 6) (f : FormA) (s : State), Ready s n → f.unassigned = none → f.aux = 0 → f.rb = 0 →
    let k := n.toNat
    let seat := strandSeat s k
    let who := strandAgent s k
    let v := (regOf s k f.ra).toNat
    (let r := goGroup who (frame32 s v * phasesPerFrame) s
     (r.1 = 0x02 → Answers (.cmtGo n f) n s r.2.2 f.rd 0x02 r.2.1 0) ∧ (r.1 ≠ 0x02 → Answers (.cmtGo n f) n s r.2.2 f.rd r.1 0 0)) ∧
    (let r := cancelGroup who (v % 256) s
     Answers (.cmtCancel n f) n s r.2 f.rd r.1 0 0) ∧
    (dataCheck s seat false 4 v 64 = none →
      let r := scanSubmit seat (dataVal s seat v 64) s
      Stalls (.sjob n f) n s r.2.2
        ⟨f.rd.toNat, BitVec.ofNat 32 (r.1 + 65536 * (r.2.1 % 65536)), some (decide (r.1 < 0x10)), none⟩) ∧
    (let r := scanCancel seat (v % 65536) s
     Stalls (.scancel n f) n s r.2 ⟨f.rd.toNat, BitVec.ofNat 32 r.1, some (decide (r.1 < 0x10)), none⟩) ∧
    (∀ p moved idx new, GoOk who (frame32 s v * 19440 : Nat) s p moved idx new →
      ∃ u, Answers (.cmtGo n f) n s u f.rd 0x02 (seatLt s seat).nextId 0 ∧ Joined seat (goFrame s (goWrites s seat new) p) (goWrites s seat new) s u) ∧
    (∀ g, CancelOk who (v % 256) s g →
      ∃ u, Answers (.cmtCancel n f) n s u f.rd 0 0 0 ∧ u.lt.groups = s.lt.groups.filter (fun h => ¬ (h.seat = g.seat ∧ h.ident = g.ident))) ∧
    (∀ p moved, dataCheck s seat false 4 v 64 = none → ScanOk seat (dataVal s seat v 64) s p moved →
      ∃ u, Stalls (.sjob n f) n s u ⟨f.rd.toNat, BitVec.ofNat 32 (0x02 + 65536 * (s.scan.nextId % 65536)), some true, none⟩ ∧
        Posted seat (dataVal s seat v 64) p s u) ∧
    (∀ j : ScanJob, jobAt s (v % 65536) = some j → j.seat = seat → j.busy = false → j.tries = 0 →
      Stalls (.scancel n f) n s (endUnexposed j 0 0 true s) ⟨f.rd.toNat, 0, some true, none⟩)) ∧
  (∀ (n : BitVec 6) (f : FormA) (s : State), Ready s n → f.unassigned = none → f.rb = 0 →
    let k := n.toNat
    let seat := strandSeat s k
    let d := (regOf s k f.ra).toNat
    (f.aux.toNat < 16 → dataCheck s seat false 4 d 32 = none →
      let r := radioSubmit seat (dataVal s seat d 32) s
      let word : Word := BitVec.ofNat 32 (r.1 + 65536 * ((if r.1 = 0x13 then r.2.1 else 0) % 65536))
      (∀ p, r.1 = 0x02 ∨ r.1 = 0x11 → r.2.2.1 = some p →
        Stalls (.rtx n f) n s r.2.2.2 ⟨f.rd.toNat, word, some (decide (r.1 < 0x10)), some (f.aux.toNat, BitVec.ofNat 32 p)⟩) ∧
      (r.1 = 0x02 ∨ r.1 = 0x11 → r.2.2.1 = none → ∃ w : Word,
        Stalls (.rtx n f) n s { r.2.2.2 with freeCtr := r.2.2.2.freeCtr + 1 } ⟨f.rd.toNat, word, some (decide (r.1 < 0x10)), some (f.aux.toNat, w)⟩) ∧
      (r.1 ≠ 0x02 → r.1 ≠ 0x11 → Stalls (.rtx n f) n s r.2.2.2 ⟨f.rd.toNat, word, some (decide (r.1 < 0x10)), none⟩)) ∧
    (∀ pay p,
      let x := dataVal s seat d 32
      let start := max (nowPos s) ((if bits x 64 32 = 0 then 0 else frame32 s (bits x 64 32)) * 19440)
      f.aux.toNat < 16 → dataCheck s seat false 4 d 32 = none → RadioOk seat x s pay p →
      ∃ u, Queued seat x p s u ∧
        (p = start → Stalls (.rtx n f) n s u ⟨f.rd.toNat, 0, some true, none⟩) ∧
        (p ≠ start → Stalls (.rtx n f) n s u ⟨f.rd.toNat, 0x02, some true, some (f.aux.toNat, BitVec.ofNat 32 (ltImage p))⟩)) ∧
    (f.aux = 0 → owns s seat 204 0 = true →
      ((radioSeat s seat).rx = [] → dataCheck s seat true 4 d 4 = none → Answers (.rrx n f) n s s f.rd 0 0 0) ∧
      (∀ (r : List Byte) (rs : List (List Byte)), (radioSeat s seat).rx = r :: rs → dataCheck s seat true 4 d (max 4 r.length) = none →
        Answers (.rrx n f) n s
          (dataPut seat d r { s with radio := { s.radio with seats := tset .reset s.radio.seats seat { radioSeat s seat with rx := rs } } })
          f.rd 0 0 r.length)))

/-- DSTART, DSTAT and DSTOP (R179, R201, R202, R207) on a channel that the Seat OWNS: the start's outcome; the status word, with T unchanged; the stop,
DONE. A channel that it does not OWN gives REFUSED_SEAT. Each acts at its issue (the
model's choice, entry 8); a chain of empty descriptors is followed within the start (entry 31). -/
def Obligations.DmaRequests : Prop :=
  ∀ (n : BitVec 6) (f : FormA) (s : State), Ready s n → f.unassigned = none → f.aux = 0 →
    let k := n.toNat
    let seat := strandSeat s k
    let d := (regOf s k f.rb).toNat
    (∀ c, reqChan s k f.ra = some c →
      (dataCheck s seat true 4 d 32 = none →
        let r := dmaStart c d s
        Answers (.dstart n f) n s r.2 f.rd r.1 0 0) ∧
      (dataCheck s seat true 4 d 32 = none → (chanAt s c).mode = .idle ∨ (chanAt s c).mode = .faulted → descReach s (chanSeat s c) d = true →
        Answers (.dstart n f) n s (runDesc chainMax c d s) f.rd 0 0 0) ∧
      (f.rb = 0 → Stalls (.dstat n f) n s s ⟨f.rd.toNat, BitVec.ofNat 32 (chanStatus s c), none, none⟩ ∧
        Answers (.dstop n f) n s (dmaStop c s) f.rd 0 0 0)) ∧
    (reqChan s k f.ra = none →
      (dataCheck s seat true 4 d 32 = none → Answers (.dstart n f) n s s f.rd 0x15 0 0) ∧
      (f.rb = 0 → Answers (.dstop n f) n s s f.rd 0x15 0 0))

/-- WLT and WBND (R174): at or past F.p WLT goes on with s.lt_lo and T 0, else it waits; WBND goes on with the present frame for a count of 0, else it
waits for that many boundaries of its kind. WLT_WAKE carries LT to the position, and the strand goes on with T 1. WEV (R175): an event of the masks already set ends the wait at once, the lowest-numbered one, which is cleared unless aux[0] peeks; else the strand
waits, with the timeout that rd held; the timeout gives 0xFFFF_FFFF and T 0. -/
def Obligations.Waits : Prop :=
  ((∀ (n : BitVec 6) (f : FormA) (s : State), Ready s n → f.unassigned = none →
    let k := n.toNat
    let x := strandAt s k
    let p := (x.reg f.rb.toNat).toNat % 65536
    let fr := frame32 s (x.reg f.ra.toNat).toNat
    let m := (x.reg f.ra.toNat).toNat
    (f.aux = 0 → p ≤ 19439 →
      (fr * 19440 + p ≤ nowPos s → Retires (.wlt n f) n s s
        (({ x with snapHi := s.lt.frame / 2 ^ 32 % 65536, snapPhase := s.lt.phase }.setReg f.rd.toNat (BitVec.ofNat 32 s.lt.frame)).setT false)) ∧
      (nowPos s < fr * 19440 + p → Retires (.wlt n f) n s s { x with mode := .waiting, wait := some (.lt fr p f.rd.toNat) })) ∧
    (f.aux = 0 → 19439 < p → Traps (.wlt n f) n s 1 0x28 0 false) ∧
    (f.rb = 0 → f.aux.toNat < 4 →
      (m = 0 → Retires (.wbnd n f) n s s ((x.setReg f.rd.toNat (BitVec.ofNat 32 s.lt.frame)).setT false)) ∧
      (m ≠ 0 → Retires (.wbnd n f) n s s { x with mode := .waiting, wait := some (.bnd f.aux.toNat m f.rd.toNat) }))) ∧
  (∀ (n : BitVec 6) (s : State) (fr p rd : Nat),
    let x := strandAt s n.toNat
    x.mode = .waiting → x.wait = some (.lt fr p rd) → fr = s.lt.frame → s.lt.phase < p → p ≤ frameLast s →
    let u := { s with lt := { s.lt with phase := p } }
    Ran (.wltWake n) n s (setStrand n.toNat
      { ({ x with snapHi := fr / 2 ^ 32 % 65536, snapPhase := p }.setReg rd (BitVec.ofNat 32 fr)).setT true with
        mode := .runnable, wait := none, stall := none } u)) ∧
  (∀ (n : BitVec 6) (s : State) (fr p rd : Nat),
    let x := strandAt s n.toNat
    x.mode = .waiting → x.wait = some (.lt fr p rd) →
    (fr * 19440 + p ≤ nowPos s → Ran (.wltWake n) n s (setStrand n.toNat
      { ({ x with snapHi := s.lt.frame / 2 ^ 32 % 65536, snapPhase := s.lt.phase }.setReg rd (BitVec.ofNat 32 s.lt.frame)).setT true with
        mode := .runnable, wait := none, stall := none } s)) ∧
    (s.lt.frame < fr → p < 19440 → exec (.wltWake n) s = .next s))) ∧
  ((∀ (n : BitVec 6) (f : FormA) (s : State), Ready s n → f.unassigned = none → f.aux.toNat < 2 →
    let k := n.toNat
    let x := strandAt s k
    let seat := strandSeat s k
    let mask := (x.reg f.ra.toNat).toNat + 2 ^ 32 * (x.reg f.rb.toNat).toNat
    let limit := (x.reg f.rd.toNat).toNat
    let flags := eventFlags s seat
    (∀ e, e < 64 → flags.testBit e = true → mask.testBit e = true → (∀ d, d < e → ¬ (flags.testBit d = true ∧ mask.testBit d = true)) →
      Retires (.wev n f) n s (if f.aux = 1 then s else setEventFlags seat (clrBit flags e) s)
        ((x.setReg f.rd.toNat (BitVec.ofNat 32 e)).setT true)) ∧
    ((∀ d, d < 64 → ¬ (flags.testBit d = true ∧ mask.testBit d = true)) → Retires (.wev n f) n s s
      { x with mode := .waiting
               wait := some (.ev mask (f.aux == 1) f.rd.toNat (if limit = 0 then none else some (s.lt.frame + limit))) })) ∧
  (∀ (n : BitVec 6) (s : State) (mask rd d : Nat) (peek : Bool),
    let x := strandAt s n.toNat
    x.mode = .waiting → x.wait = some (.ev mask peek rd (some d)) →
    (d ≤ s.lt.frame → Ran (.wevTimeout n) n s (setStrand n.toNat
      { (x.setReg rd 0xFFFFFFFF).setT false with mode := .runnable, wait := none, stall := none } s)) ∧
    (s.lt.frame < d → exec (.wevTimeout n) s = .next s)))

/-- CLREV, HEV, YIELD, STOP, TRAP and FENCE (R174): the masked events cleared; the cause of host vector 20 + aux[3:0] set; the strand runnable behind the
instruction; the strand IDLE behind it when no start is pending and it takes no event; SWTRAP with aux; a stall that returns nothing. -/
def Obligations.StrandControl : Prop :=
  ∀ (n : BitVec 6) (f : FormA) (s : State), Ready s n → f.unassigned = none →
    let k := n.toNat
    let x := strandAt s k
    let seat := strandSeat s k
    (f.aux = 0 → f.rd = 0 →
      let mask := (x.reg f.ra.toNat).toNat + 2 ^ 32 * (x.reg f.rb.toNat).toNat
      Retires (.clrev n f) n s (setEventFlags seat (clrMask (eventFlags s seat) mask) s) x) ∧
    (f.rd = 0 → f.ra = 0 → f.rb = 0 →
      (f.aux.toNat ≤ 10 → Retires (.hev n f) n s (setCause seat 0x20018 f.aux.toNat s) x) ∧
      (10 < f.aux.toNat → Traps (.hev n f) n s 1 0x28 0 false) ∧
      Traps (.trap n f) n s 0xB f.aux.toNat 0 false ∧
      (f.aux = 0 → Retires (.yield n f) n s s { x with mode := .runnable, sliceOver := false } ∧ Stalls (.fence n f) n s s ⟨0, 0, none, none⟩ ∧
        (x.pending = none → bit (stCtlOf s k) 4 = false →
          Retires (.stop n f) n s s { x with mode := .idle, wait := none, stall := none })))

/-- SIG and SPAWN (R174, R175, R185): SIG goes on and sets the Seat's event, which stays set when no strand of the Seat waits for it or
starts on it; an event number above 63 traps. SPAWN starts an OWNED strand: DONE when it was IDLE, DEFERRED when the start is now pending, REFUSED_CAPACITY when one was; REFUSED_SEAT otherwise. -/
def Obligations.SignalSpawn : Prop :=
  ∀ (n : BitVec 6) (f : FormA) (s : State), Ready s n → f.unassigned = none → f.aux = 0 →
    let k := n.toNat
    let seat := strandSeat s k
    let e := (regOf s k f.ra).toNat
    let v := regOf s k f.rb
    (f.rd = 0 → f.rb = 0 →
      (64 ≤ e → Traps (.sig n f) n s 1 0x28 0 false) ∧
      (e < 64 → ∃ u, exec (.sig n f) s = .next (setEvent seat e u) ∧
        Turned (k / 8) (setStrand k { strandAt s k with pc := nextPc (strandAt s k).pc } s) u)) ∧
    ((∀ q ∈ seatStrands s seat, waitsFor (strandAt s q.2) e true = false ∧ waitsFor (strandAt s q.2) e false = false ∧ startsOn s q.2 e = false) →
      setEvent seat e s = setEventFlags seat (setBit (eventFlags s seat) e) s) ∧
    (e < 64 → ∀ p, ownedPhys s seat 48 e = some p →
      ((strandAt s p).mode = .idle → Answers (.spawn n f) n s (startIdle p v s) f.rd 0 0 0) ∧
      ((strandAt s p).mode ≠ .idle → (strandAt s p).mode ≠ .disabled → (strandAt s p).pending = none →
        Answers (.spawn n f) n s (setStrand p { strandAt s p with pending := some v } s) f.rd 0x02 0 0) ∧
      ((strandAt s p).mode ≠ .idle → (strandAt s p).mode ≠ .disabled → (strandAt s p).pending.isSome = true →
        Answers (.spawn n f) n s s f.rd 0x10 0 0) ∧
      ((strandAt s p).mode = .disabled → Answers (.spawn n f) n s s f.rd 0x15 0 0)) ∧
    (64 ≤ e ∨ ownedPhys s seat 48 e = none → Answers (.spawn n f) n s s f.rd 0x15 0 0)

/-- MFS, MTS, GETF and SETF (R153, R154, R180): each special register's content; reading s.lt_lo takes the snapshot; s.fault keeps its 17 bits. -/
def Obligations.SpecialRegisters : Prop :=
  ∀ (n : BitVec 6) (f : FormA) (s : State), Ready s n → f.unassigned = none → f.aux = 0 → f.rb = 0 →
    let k := n.toNat
    let x := strandAt s k
    let reads (r : BitVec 4) (v : Word) : Prop := f.ra = r → Retires (.mfs n f) n s s (x.setReg f.rd.toNat v)
    (f.ra = 0 → Retires (.mfs n f) n s s
      ({ x with snapHi := s.lt.frame / 2 ^ 32 % 65536, snapPhase := s.lt.phase }.setReg f.rd.toNat (BitVec.ofNat 32 s.lt.frame))) ∧
    reads 1 (BitVec.ofNat 32 x.snapHi) ∧ reads 2 (BitVec.ofNat 32 x.snapPhase) ∧ reads 3 (BitVec.ofNat 32 (strandSeat s k)) ∧
    reads 4 (BitVec.ofNat 32 (strandLocal s k + 256 * k + 65536 * priorityOf s k)) ∧ reads 5 x.fault ∧ reads 6 x.faddr ∧ reads 7 x.epc ∧
    reads 8 x.prog ∧ (8 < f.ra.toNat → Traps (.mfs n f) n s 1 0x29 0 false) ∧
    (f.rd = 5 → Retires (.mts n f) n s s { x with fault := (x.reg f.ra.toNat) &&& 0x1FFFF }) ∧
    (f.rd = 8 → Retires (.mts n f) n s s { x with prog := x.reg f.ra.toNat }) ∧
    (f.rd ≠ 5 → f.rd ≠ 8 → Traps (.mts n f) n s 1 0x29 0 false) ∧
    (f.ra = 0 → Retires (.getf n f) n s s (x.setReg f.rd.toNat
      (BitVec.ofNat 32 (b2n x.flags.z + 2 * b2n x.flags.n + 4 * b2n x.flags.c + 8 * b2n x.flags.v + 16 * b2n x.flags.t)))) ∧
    (f.rd = 0 →
      let v := x.reg f.ra.toNat
      Retires (.setf n f) n s s { x with flags := ⟨v.getLsbD 0, v.getLsbD 1, v.getLsbD 2, v.getLsbD 3, v.getLsbD 4⟩ })

/-- Branches and jumps (R181): taken, to PC + 4 × the offset modulo 4 MiB; BL links only when it branches; not taken, the next instruction. A jump goes to ra, JLR links
after ra is read; a misaligned target traps ALIGN, one at or above 4 MiB CODE_MAP. -/
def Obligations.ControlFlow : Prop :=
  (∀ (n : BitVec 6) (f : FormB) (s : State), Ready s n → f.unassigned = none →
    let k := n.toNat
    let x := strandAt s k
    let target : Word := (x.pc + 4 * f.off.signExtend 32) % 0x400000
    x.pc.toNat % 4 = 0 → x.pc.toNat < 0x400000 →
    (condHolds f.cond x.flags = true →
      Ran (.bCond n f) n s (setStrand k { x with pc := target } s) ∧
      Ran (.blCond n f) n s (setStrand k { x.setReg 15 ((x.pc + 4) % 0x400000) with pc := target } s)) ∧
    (condHolds f.cond x.flags = false → Retires (.bCond n f) n s s x ∧ Retires (.blCond n f) n s s x)) ∧
  (∀ (n : BitVec 6) (f : FormA) (s : State), Ready s n → f.unassigned = none → f.aux = 0 → f.rb = 0 →
    let k := n.toNat
    let x := strandAt s k
    let target := x.reg f.ra.toNat
    (target.toNat % 4 = 0 → target.toNat < 0x400000 →
      (f.rd = 0 → Ran (.jr n f) n s (setStrand k { x with pc := target } s)) ∧
      Ran (.jlr n f) n s (setStrand k { x.setReg f.rd.toNat (nextPc x.pc) with pc := target } s)) ∧
    (target.toNat % 4 ≠ 0 → (f.rd = 0 → Traps (.jr n f) n s 2 4 target.toNat false) ∧ Traps (.jlr n f) n s 2 4 target.toNat false) ∧
    (target.toNat % 4 = 0 → 0x400000 ≤ target.toNat →
      (f.rd = 0 → Traps (.jr n f) n s 3 0 target.toNat false) ∧ Traps (.jlr n f) n s 3 0 target.toNat false))

/-- The end of a stall delivers what the strand stalled for (R173, R176), and the strand is runnable; a time slice that ends lets a ready strand of the
same priority have the slot; after a landing point of a cluster, when a strand of it waits for the slot, one of them has the slot whose priority is no lower
(R191; that each command ends at a landing point is the model's choice, entry 33). -/
def Obligations.StallsSlices : Prop :=
  (∀ (n : BitVec 6) (s : State),
    let k := n.toNat
    let x := strandAt s k
    (∀ (r : StallResult), x.mode = .stalled → x.abortDue = false → x.ownerLost = false → x.stall = some r →
      let y := x.setReg r.rd r.value
      let z := match r.rd2 with | some (re, w) => y.setReg re w | none => y
      let q := match r.t with | some b => z.setT b | none => z
      Ran (.stallEnd n) n s (setStrand k { q with mode := .runnable, wait := none, stall := none } s)) ∧
    (x.mode ≠ .stalled → exec (.stallEnd n) s = .next s) ∧
    (x.mode = .running → Ran (.timeSliceEnd n) n s (setStrand k { x with sliceOver := true } s)) ∧
    (x.mode ≠ .running → exec (.timeSliceEnd n) s = .next s)) ∧
  (∀ (c m : Nat) (s : State), m / 8 = c →
    let t := reschedule c s
    (strandAt t m).mode = .runnable →
    ∃ r, r / 8 = c ∧ (strandAt t r).mode = .running ∧ priorityOf t m ≤ priorityOf t r)

/-- Timing inputs (R27, R28, R30, R34): while they are sampled an edge carries LT to its phase inside the frame, PPS_IN is captured, the first edge of a run
of a ranked input predicts the next, an edge in window counts and qualifies; a miss counts, and the third, or any of an unqualified run, ends the run. REFCLK155 lost
(R36): FREE_RUN, no reference, no input qualified, LT as it was; back: HOLDOVER with an established count, else ACQUIRE. -/
def Obligations.TimingInputs : Prop :=
  (∀ (i : TimingSel) (phase : BitVec 15) (s : State), phase.toNat < 19440 → timingSampled s = true →
    let p := max s.lt.phase (min (frameLast s) phase.toNat)
    let x := timingIn s i
    let pos := s.lt.frame * 19440 + p
    let next := some (pos + 19440 * timFrames i)
    let ranked := (refRanks s).contains (timNum i)
    ∃ t, exec (.timingInputEdge i phase) s = .next t ∧ t.lt.frame = s.lt.frame ∧ t.lt.phase = p ∧
      (i = .pps → t.lt.ppsFrame = s.lt.frame ∧ t.lt.ppsPhase = p) ∧
      (ranked = false → timingIn t i = x) ∧
      (ranked = true → x.predicted = none → timingIn t i = ⟨false, 0, 0, next⟩) ∧
      (∀ q, ranked = true → x.predicted = some q →
        (pos ≤ q + refWindow s ∧ q ≤ pos + refWindow s → timingIn t i = ⟨x.qualified || decide (timNeed i ≤ x.run + 1), x.run + 1, 0, next⟩) ∧
        (q + refWindow s < pos ∨ pos + refWindow s < q → timingIn t i = x))) ∧
  (∀ (i : TimingSel) (phase : BitVec 15) (s : State), phase.toNat < 19440 → timingSampled s = false → exec (.timingInputEdge i phase) s = .next s) ∧
  (∀ (i : TimingSel) (q : Nat) (s : State), timingSampled s = true → (timingIn s i).predicted = some q → (q + refWindow s) / 19440 ≤ s.lt.frame →
    let x := timingIn s i
    ∃ t, exec (.timingInputMiss i) s = .next t ∧ t.lt.frame = s.lt.frame ∧
      (x.qualified = false ∨ 3 ≤ x.misses + 1 → timingIn t i = .reset) ∧
      (x.qualified = true → x.misses < 2 → timingIn t i = { x with misses := x.misses + 1, predicted := some (q + 19440 * timFrames i) }) ∧
      (x.qualified = true → s.lt.ref = timNum i → t.lt.evMiss = satAdd 255 s.lt.evMiss 1)) ∧
  (∀ (i : TimingSel) (s : State), (timingIn s i).predicted = none → exec (.timingInputMiss i) s = .next s) ∧
  timNeed .fsync = 16 ∧ timNeed .mfsync = 16 ∧ timNeed .pps = 4 ∧ (∀ s : State, s.lt.refclkOk = false → timingSampled s = false) ∧
  (∀ s : State,
    (alive s = true → ∃ t, exec .refclkLoss s = .next t ∧ t.lt.refclkOk = false ∧ t.lt.mode = .freeRun ∧ t.lt.ref = 3 ∧
      t.lt.fsync = .reset ∧ t.lt.mfsync = .reset ∧ t.lt.pps = .reset ∧ t.lt.frame = s.lt.frame ∧ t.lt.phase = s.lt.phase) ∧
    (alive s = true → s.lt.mode = .freeRun → ∃ t, exec .refclkReturn s = .next t ∧ t.lt.refclkOk = true ∧
      t.lt.mode = (if s.lt.countOk = true then .holdover else .acquire) ∧ t.lt.frame = s.lt.frame ∧ t.lt.phase = s.lt.phase) ∧
    (alive s = false → exec .refclkLoss s = .next { s with lt := { s.lt with refclkOk := false } } ∧
      exec .refclkReturn s = .next { s with lt := { s.lt with refclkOk := true } }))

/-- A frame boundary (R31, R34, R39): the next frame starts at phase 0, the plain count plus 1 unless a load, an adoption or an alignment of the count is due; DARK has
none. A calendar entry issues when LT reaches it, first of those due (R35, R44), with LT at its position; a lease that runs out is taken in the rein's slot of
the cycle boundary that follows (R305, R317; the model's order of commands, entry 34). The LT of a boundary and of an issue is
the model's clock (entries 5 and 17). -/
def Obligations.FrameStart : Prop :=
  (∀ s : State,
    (alive s = true → ∃ t, exec .frameBoundary s = .next t ∧ s.lt.frame < t.lt.frame ∧ t.lt.phase = 0 ∧
      (s.lt.jump = none → s.lt.markMf = false → s.lt.markPps = false → s.lt.lateMf = false → s.lt.latePps = false → t.lt.frame = s.lt.frame + 1)) ∧
    (alive s = false → exec .frameBoundary s = .next s)) ∧
  (∀ (idx : BitVec 10) (s : State),
    let e := calAt s idx.toNat
    let u := { s with lt := { s.lt with phase := max s.lt.phase (min (frameLast s) (calPos e % 19440)) } }
    (calRuns s = true → e.kind ≠ 0 → e.kind ≠ 3 → calPos e / 19440 = s.lt.frame → (calDue u).head? = some idx.toNat →
      exec (.calendarIssue idx) s = .next (calIssue idx.toNat u)) ∧
    (calRuns s = false → exec (.calendarIssue idx) s = .next s)) ∧
  (∀ s : State,
    let c := s.lt.frame / 16
    (expiryAt s (c + 1) = true → s.mate.takeDue = none →
      exec .leaseExpiryTake s = .next { s with mate := { s.mate with takeDue := some ⟨c + 1, 2, 0, 0, 5, 5⟩ } }) ∧
    (expiryAt s (c + 1) = false ∨ s.mate.takeDue.isSome = true → exec .leaseExpiryTake s = .next s) ∧
    (∀ d, s.mate.takeDue = some d → d.cause = 2 → d.cycle ≤ c → expiryAt s c = true →
      takeBoundary s = takeRein 2 true { s with mate := { s.mate with takeDue := none } }))

/-- Supplies, pins and resets (R61, R62, R65, R67, R68, R77, R84, R85): each reset of the part leaves it DARK with LT at 0.0 and every register, the SRAM,
the strands and the ledger at their reset values (the model's values where the spec gives none, entry 1); what sets its cause, the straps, the supplies and the
retention cell (entry 18); a TAP reset changes nothing. -/
def Obligations.SuppliesResets : Prop :=
  ∀ s : State,
    let cleared (t : State) : Prop := t.pwr.stage = .dark ∧ t.lt.frame = 0 ∧ t.lt.phase = 0 ∧ t.regs = State.reset.regs ∧ t.sram = State.reset.sram ∧
      t.st = State.reset.st ∧ t.led = State.reset.led
    (s.pwr.pwrGood = true →
      (∃ t, exec .pwrGoodFall s = .next t ∧ cleared t ∧ t.pwr.pwrGood = false ∧ t.pwr.ret.cause = 1) ∧
      (∃ t, exec .railDetect s = .next t ∧ cleared t ∧ t.pwr.pwrGood = false ∧ t.pwr.ret.cause = 4)) ∧
    (∃ t, exec .resetNAssert s = .next t ∧ cleared t ∧ t.pwr.resetN = false ∧ t.pwr.ret.cause = 2) ∧
    (∃ t, exec .powerLoss s = .next t ∧ cleared t ∧ t.pwr.pwrGood = false ∧ t.pwr.vcoreFeeds = false ∧
      t.pwr.ret = if s.pwr.vstbA = true ∨ s.pwr.vstbB = true then s.pwr.ret else .blank) ∧
    (∀ (hold mute mode : Bool) (addr : BitVec 2), s.pwr.pwrGood = false →
      ∃ t, exec (.pwrGoodRise hold mute mode addr) s = .next t ∧ cleared t ∧ t.pwr.pwrGood = true ∧ t.pwr.vcoreFeeds = true ∧
        t.pwr.bootHold = hold ∧ t.pwr.txMute = mute ∧ t.host.lbMode = mode ∧ t.host.i2cAddr = addr.toNat ∧
        (s.pwr.vcoreFeeds = true → t.pwr.ret = s.pwr.ret)) ∧
    (∀ a b : Bool,
      let risk := !a && !b && s.pwr.vcoreFeeds
      let lost := (if s.pwr.vstbA = true ∧ a = false then [1] else []) ++ (if s.pwr.vstbB = true ∧ b = false then [2] else []) ++
        (if risk = true ∧ s.pwr.atRisk = false then [3] else [])
      exec (.vstbChange a b) s = .next (retentionCheck (faultRaiseAll lost { s with pwr := { s.pwr with vstbA := a, vstbB := b, atRisk := risk } }))) ∧
    exec .warmResetDisarm s = .next { s with pwr := { s.pwr with warmArmed := false } } ∧ exec .tapReset s = .next s ∧
    (∀ bank : BitVec 3, ∃ t u, exec (.vioBankPowerChange bank true) s = .next t ∧ exec (.vioBankPowerChange bank false) s = .next u ∧
      OnlyIn [.pwr] s t ∧ OnlyIn [.pwr, .mate, .cam, .scan] s u ∧
      (bank = 2 → ∀ k, k < 4 → (trigAt u k).active = false) ∧ (bank = 3 → u.scan.strobes.all (fun x => !x.active) = true) ∧
      (bank = 6 → u.mate.pulseOut = false) ∧
      ∀ k, bit t.pwr.vioOk k = (if k = bank.toNat then true else bit s.pwr.vioOk k) ∧
        bit u.pwr.vioOk k = (if k = bank.toNat then false else bit s.pwr.vioOk k))

/-- Stages and power domains (R69, R70, R71, R81, R82, R467): SAFE from DARK with supplies and clock, or under a warm reset; FRAMED when it is free, and the source of its
time-out; a wake that completes or times out, and a gate. -/
def Obligations.StagesDomains : Prop :=
  (∀ s : State,
    (s.pwr.stage = .dark → s.pwr.warmPending = true ∨ (s.pwr.pwrGood = true ∧ s.lt.refclkOk = true) →
      exec .safeEntry s = .next (enterSafe s) ∧ (enterSafe s).pwr.stage = .safe ∧ (enterSafe s).lt = s.lt) ∧
    (s.pwr.stage ≠ .dark ∨ (s.pwr.warmPending = false ∧ (s.pwr.pwrGood = false ∨ s.lt.refclkOk = false)) → exec .safeEntry s = .next s) ∧
    (s.pwr.stage = .safe → s.pwr.bootHold = false ∨ s.pwr.released = true →
      exec .framedEntry s = .next (enterStage .framed s) ∧ (enterStage .framed s).pwr.stage = .framed ∧ (enterStage .framed s).lt = s.lt ∧
      exec .stageTimeout s = .next (faultRaise 0 s)) ∧
    (s.pwr.stage ≠ .safe ∨ (s.pwr.bootHold = true ∧ s.pwr.released = false) → exec .framedEntry s = .next s ∧ exec .stageTimeout s = .next s)) ∧
  (∀ (d : BitVec 7) (s : State), d.toNat < 112 →
    let k := d.toNat
    let u := domUpdate (setDoms k .on s)
    (∀ x j, domState (setDoms k x s) j = if j ∈ domMates k then x else domState s j) ∧
    (domState s k = .waking →
      exec (.domainWakeDone d) s = .next (if 86 ≤ k ∧ k < 94 then clusterAwake (k - 86) u else u) ∧
      exec (.domainWakeTimeout d) s = .next (faultRaise 5 s)) ∧
    (domState s k ≠ .waking → exec (.domainWakeDone d) s = .next s ∧ exec (.domainWakeTimeout d) s = .next s) ∧
    (domState s k = .gatePending → ∃ t, exec (.domainGate d) s = .next t ∧ t = domUpdate (setDoms k .gated s) ∧ OnlyIn [.pwr] s t) ∧
    (domState s k ≠ .gatePending → exec (.domainGate d) s = .next s))

/-- The ledger's own events (R136, R137, R139, R141, R145 to R147): START and gap records when space exists, a seal, the key load abandoned, a spill batch begun, done
or failed. What START counts is the model's reading (entry 30). -/
def Obligations.LedgerEvents : Prop :=
  ∀ s : State,
    let n := min (unspilled s) (spillRoom s)
    let begun : State := { s with led := { s.led with batch := some ⟨s.led.prod, n⟩, hostOut := batchWrites s n } }
    (s.led.startWaiting.isSome = true → 2 ≤ ledgerFree s → exec .startRecord s = .next (reportLoss (ledgerDrain s))) ∧
    (s.led.startWaiting = none → exec .startRecord s = .next s) ∧
    exec .sealComplete s = .next (reportLoss (sealDone s)) ∧
    (s.led.lost ≠ 0 → exec .gapAppend s = .next (reportLoss (ledgerDrain s))) ∧ (s.led.lost = 0 → exec .gapAppend s = .next s) ∧
    exec .ledgerKeyTimeout s = .next { s with led := { s.led with keyWords := [] } } ∧
    (rbit s (kP 0x7C0010) 0 = true → rbit s (kP 0x7C0010) 1 = false → s.led.batch = none → n ≠ 0 →
      (s.led.spillFault = false → 8 ≤ unspilled s → exec .spillBatchStart s = .next begun) ∧
      (s.led.spillFault = true → s.lt.frame % 8 = 0 → exec .spillRetry s = .next begun)) ∧
    (∀ b, s.led.batch = some b →
      let p := (b.from_ + b.count) % 2 ^ 32
      let u := reportLoss (ledgerDrain { s with led := { s.led with batch := none, prod := p, used := (s.pwr.ret.seq + 2 ^ 32 - p) % 2 ^ 32 } })
      (u.led.spillFault = false → exec .spillFlushComplete s = .next u) ∧
      (u.led.spillFault = true → exec .spillFlushComplete s = .next (spillRecord 1 { u with led := { u.led with spillFault := false } })) ∧
      (∀ urCa : Bool, exec (.spillFlushFail urCa) s = .next (spillFail (if s.host.linkUp = false then 2 else if urCa then 1 else 0) s) ∧
        (s.led.spillFault = true → exec (.spillFlushFail urCa) s = .next { s with led := { s.led with batch := none } })))

/-- A mover (R203 to R205): a free one takes the next channel's burst, with one credit of its Seat gone; a burst whose sides failed ends its descriptor by that failure, one that read an uncorrectable error with DETAIL ECC and the bank's fault source, a host
read that ends short by 4; a burst done goes on at its channel. -/
def Obligations.DmaBursts : Prop :=
  ∀ (m : BitVec 2) (s : State),
    let k := m.toNat
    let v := chainsOn s
    (∀ c d, alive s = true → moverAt v k = none → nextChan v (decide (2 ≤ k)) = some c → (chanAt v c).desc = some d →
      ∃ t, exec (.dmaBurstGrant m) s = .next t ∧ moverAt t k = some (burstOf v c d) ∧ (∀ j, j ≠ k → moverAt t j = moverAt v j) ∧
        dmaCredit t (chanSeat v c) = dmaCredit v (chanSeat v c) - 1) ∧
    (∀ c d p, d.srcSpace = 0 → d.dstSpace = 1 → dataPhys s (chanSeat s c) (d.src + d.done) = some p →
      (∃ j, j < burstLen d ∧ wordBad s (p + j) = true) → (burstOf s c d).fail = some 3 ∧ (burstOf s c d).srcPhys = p) ∧
    (moverAt s k = none → ∀ (hostData : List Byte) (timeout : Bool), exec (.dmaBurstComplete m hostData) s = .next s ∧
      exec (.dmaHostCompletionFault m timeout) s = .next s) ∧
    (∀ b, moverAt s k = some b →
      let u : State := { s with dma := { s.dma with movers := tset none s.dma.movers k none } }
      (∀ e hostData, b.fail = some e → e ≠ 3 → exec (.dmaBurstComplete m hostData) s = .next (burstFail b.chan e u)) ∧
      (∀ hostData, b.fail = some 3 → exec (.dmaBurstComplete m hostData) s = .next (burstFail b.chan 3 (faultRaise (24 + b.srcPhys / 0x200000) u))) ∧
      (∀ hostData, b.fail = none → b.srcSpace = 1 → hostData.length ≠ b.len → exec (.dmaBurstComplete m hostData) s = .next (burstFail b.chan 4 u)) ∧
      (∀ hostData, b.fail = none → b.srcSpace = 1 → b.dstSpace = 0 → hostData.length = b.len →
        exec (.dmaBurstComplete m hostData) s = .next (burstDone b (mirrorSram b.dstPhys b.len (sramWrite u b.dstPhys hostData)))) ∧
      (∀ hostData, b.fail = none → b.srcSpace = 0 ∨ b.srcSpace = 2 → b.data.length = b.len →
        (b.dstSpace = 0 → exec (.dmaBurstComplete m hostData) s = .next (burstDone b (mirrorSram b.dstPhys b.len (sramWrite u b.dstPhys b.data)))) ∧
        (b.dstSpace = 1 → exec (.dmaBurstComplete m hostData) s = .next
          (burstDone b { u with dma := { u.dma with lastHostWrite := some (b.seat, b.dstPhys, b.data) } }))) ∧
      (b.srcSpace = 1 → ∀ timeout : Bool, ∃ t, exec (.dmaHostCompletionFault m timeout) s = .next t ∧
        t = burstFail b.chan (b.fail.getD 4) (setMover k none (aerSet b.seat (if timeout then 14 else 16) s))))

/-- Line ports (R64, R75, R214 to R216, R219, R221, R223, R229, R236): what one received or sent frame, a loss of signal, a detector's window and the monitors of a port
do, and that other ports stand. The pointers' ranges and the detectors' forms are the model's (entry 19). -/
def Obligations.LinePorts : Prop :=
  ∀ (p : BitVec 4) (s : State),
    let k := p.toNat
    let x := portAt s k
    let cfg := lpCfg s k
    let count (y : LinePort) (i : Nat) : Nat := tget 0 y.cnt i
    let leaves (i : Instr) (P : LinePort → Prop) : Prop :=
      ∃ t, exec i s = .next t ∧ P (portAt t k) ∧ (∀ q, q ≠ k → portAt t q = portAt s q) ∧ t.line.gfp = s.line.gfp ∧ OnlyIn [.line] s t
    (lineRuns s k = true →
      (∀ r : LineRx,
        let y := framerStep (r.patterns.map (· % rateBits (bits cfg 0 2))) r.transitions { x with cdrLock := r.cdrLock }
        (¬ (x.framer = .sync ∧ y.framer = .sync) → leaves (.lineFrameReceive p r) (· = y)) ∧
        (x.framer = .sync → y.framer = .sync → x.los = false → x.lof = false → leaves (.lineFrameReceive p r) fun z =>
          z.framer = .sync ∧ count z 0 = (count x 0 + r.b1) % 2 ^ 32 ∧ count z 1 = (count x 1 + r.b2) % 2 ^ 32 ∧ z.lastB2 = r.b2 ∧
          (x.kCand = r.k1.toNat + 256 * r.k2.toNat → 2 ≤ x.kRun → z.k1 = r.k1.toNat ∧ z.k2 = r.k2.toNat))) ∧
      leaves (.losDeclare p) (fun z => z.los = true ∧ z.framer = .hunt ∧ z.cands = [] ∧
        count z 3 = (if x.framer = .sync then (count x 3 + 1) % 2 ^ 32 else count x 3) ∧
        count z 4 = (if x.los = true then count x 4 else (count x 4 + 1) % 2 ^ 32)) ∧
      (windowDue s (bits cfg 0 2) x.sdWin = true → leaves (.sdWindowEnd p false) (· = { x with sdWin := { x.sdWin with ends := true } })) ∧
      (windowDue s (bits cfg 0 2) x.excWin = true → leaves (.sdWindowEnd p true) (· = { x with excWin := { x.excWin with ends := true } })) ∧
      (∀ (tick skip : Bool) (expo : Nat) (w : B2Window), w.ends = true → windowStep tick skip (bits cfg 0 2) expo s.lt.bounds x w =
        let v : B2Window := { w with sawLof := w.sawLof || x.lof || skip || w.start.isNone }
        if tick = true then b2End x.los (bits cfg 0 2) s.lt.bounds expo v else v)) ∧
    (lineRuns s k = false → (∀ r : LineRx, exec (.lineFrameReceive p r) s = .next s) ∧ exec (.losDeclare p) s = .next s ∧
      ∀ e, exec (.sdWindowEnd p e) s = .next s) ∧
    (∀ g : List TxStore,
      (txKind s k = 0 → leaves (.lineFrameTransmit p g) (· = { x with tx := .idle, monitor := .hunt, monAge := 0, txClean := 0 })) ∧
      (txKind s k ≠ 0 → ∃ t, exec (.lineFrameTransmit p g) s = .next t ∧ (∀ q, q ≠ k → portAt t q = portAt s q) ∧
        (txKind s k ≠ 3 → t.line.gfp = s.line.gfp) ∧ OnlyIn [.line] s t ∧
        let z := portAt t k
        z.tx.kind = txKind s k ∧ z.monAge = min 8 (x.monAge + 1) ∧
        z.tx.k1 = (if txKind s k = 1 then 255 else if bit (mspWord s [] k) 0 = true then (tget ProtCtl.reset s.prot.msp k).txK1 else 0))) ∧
    (x.beyond = true → x.jumpFrame + 8000 ≤ s.lt.bounds → leaves (.ptrBeyondClear p) (· = { x with beyond := false })) ∧
    (txKind s k ≠ 0 → 16 ≤ x.txClean → leaves (.lineTxmonClear p) (· = { x with txFail := false })) ∧
    (txKind s k ≠ 0 → x.txFail = false → x.monitor = .sync ∨ 8 ≤ x.monAge → exec (.lineTxmonFail p) s =
      .next (txFaultAtTake (faultRaise (65 + 4 * k) (setPort k { x with monitor := .hunt, txClean := 0, txFail := true } s)))) ∧
    (txKind s k ≠ 0 → x.txFail = true ∨ (x.monitor ≠ .sync ∧ x.monAge < 8) →
      leaves (.lineTxmonFail p) (· = { x with monitor := .hunt, txClean := 0 })) ∧
    (txKind s k = 0 → exec (.lineTxmonFail p) s = .next s)

/-- GFP-F channels (R232, R234): delineation by the core header, a client frame delivered in SYNC, a frame sent when the FIFO holds a whole record, and other channels
as they were. -/
def Obligations.GfpChannels : Prop :=
  ∀ (c : BitVec 3) (s : State),
    let k := c.toNat
    let v := gfpCfg s [] k
    let x := gfpAt s k
    let leaves (i : Instr) (y : GfpChan) : Prop :=
      ∃ t, exec i s = .next t ∧ gfpAt t k = y ∧ (∀ q, q ≠ k → gfpAt t q = gfpAt s q) ∧ t.line.ports = s.line.ports ∧ OnlyIn [.line] s t
    bit v 0 = true → domOn s (94 + k) = true →
    (lineRuns s (bits v 4 4) = true → ∀ r : GfpRx,
      let z : GfpChan := { x with plm := r.c2 != 0x1B }
      let bad := lineSlotAis s (bits v 4 4) (bits v 8 8) (portAt s (bits v 4 4))
      (bad = true → leaves (.gfpFrameReceive c r) { z with delin := .hunt }) ∧
      (bad = false →
        (x.delin = .hunt → r.chec = .ok → leaves (.gfpFrameReceive c r) { z with delin := .presync }) ∧
        (x.delin = .hunt → r.chec ≠ .ok → leaves (.gfpFrameReceive c r) z) ∧
        (x.delin = .presync → r.chec = .ok → leaves (.gfpFrameReceive c r) (gfpDeliver s k r { z with delin := .sync })) ∧
        (x.delin = .presync → r.chec ≠ .ok → leaves (.gfpFrameReceive c r) { z with delin := .hunt }) ∧
        (x.delin = .sync → r.chec = .ok → leaves (.gfpFrameReceive c r) (gfpDeliver s k r z)) ∧
        (x.delin = .sync → r.chec = .corrected → leaves (.gfpFrameReceive c r) (gfpDeliver s k r (gfpCnt 1 z))) ∧
        (x.delin = .sync → r.chec = .bad → leaves (.gfpFrameReceive c r) { z with delin := .hunt }))) ∧
    (txKind s (bits v 4 4) = 3 →
      let len := bytesVal (x.tx.take 2)
      let size := 8 + (len + 3) / 4 * 4
      let flags := bytesVal ((x.tx.drop 2).take 1)
      let body := (x.tx.drop 8).take len
      let octets (l : List Nat) : List Byte := l.map (fun b => BitVec.ofNat 8 b)
      let sent := gfpFrame x.scr (bit flags 1) (bit flags 0) (x.tx.getD 3 0).toNat (body.map (·.toNat))
      (size ≤ x.tx.length → leaves (.gfpFrameTransmit c) (gfpCnt 5 { x with
        tx := x.tx.drop size, out := x.out ++ octets sent.1, scr := sent.2
        lastTx := (if bit flags 1 then 4 else 0) :: (if bit flags 0 then 1 else 0) :: x.tx.getD 3 0 :: body })) ∧
      (x.tx.length < size → leaves (.gfpFrameTransmit c) (gfpCnt 6 { x with out := x.out ++ octets gfpIdle })))

/-- Tiles of the slot fabric (R259 to R267): a load completed; a comparison that differs, tried again or with the server suspect; a self-test pass of the resting
tile; a datapath fault of the resting and of a serving tile. The model's readings: entry 20. -/
def Obligations.FabricTiles : Prop :=
  ∀ (lo : Bool) (s : State), tilesOn s lo = true →
    let r := rotAt s lo
    (r.phase = .load ∨ r.phase = .spareIn → exec (.tileLoadComplete lo) s = .next (setRot lo { r with loaded := true } s)) ∧
    (r.phase = .compare ∨ r.phase = .waitSwap → r.suspectSwap = false →
      let w := serverOf lo r r.cursor
      let counted := modTile lo w (fun x => { x with mismatch := satAdd 255 x.mismatch 1 })
        (modTile lo r.resting (fun x => { x with mismatch := satAdd 255 x.mismatch 1 }) r)
      let u := fabCause 3 (tileRecord lo r.resting w 1 r.cursor (setRot lo counted s))
      let v := faultRaise 320 (tileRecord lo r.resting w 3 r.cursor (modRot lo (modTile lo w (fun x => { x with mode := .suspect })) u))
      (r.attempt < 2 → exec (.tileCompareMismatch lo) s = .next (faultRaise 319 (modRot lo (fun q =>
        modTile lo q.resting (fun x => { x with mode := .resting, passed := false }) { q with phase := .bist, mismatchBist := true }) u))) ∧
      (2 ≤ r.attempt → rbit v (kP 0x100000) 4 = true → exec (.tileCompareMismatch lo) s = .next (faultRaise 319 (modRot lo (fun q =>
        { q with phase := .waitSwap, suspectSwap := true, handover := s.lt.frame + 1 }) v))) ∧
      (2 ≤ r.attempt → rbit v (kP 0x100000) 4 = false → exec (.tileCompareMismatch lo) s = .next (faultRaise 319 (rotHalt lo (modRot lo (fun q =>
        modTile lo q.resting (fun x => { x with mode := .resting }) q) v))))) ∧
    (∀ t : BitVec 5, t.toNat ≤ groupsOf lo →
      let n := t.toNat
      let x := tileAt lo r n
      let run := x.runPass + 1
      let done := (r.retest = 1) ∨ (r.retest = 0 ∧ x.mode = .suspect ∧ 4 ≤ run)
      (n = r.resting → r.phase = .bist ∨ r.phase = .halted → bit s.mon.shed 2 = false → x.mode ≠ .failed ∨ r.retest ≠ 0 →
        exec (.tileBistPassEnd lo t true) s = .next (tileFail lo n s) ∧
        ∃ u, exec (.tileBistPassEnd lo t false) s = .next u ∧ OnlyIn [.fab] s u ∧ rotAt u (!lo) = rotAt s (!lo) ∧
          tileAt lo (rotAt u lo) n = { x with pass := satAdd 255 x.pass 1, runPass := run, passed := decide (done ∨ x.mode = .resting), proven := true
                                              mode := if done then .resting else x.mode } ∧
          (∀ m, m ≠ n → tileAt lo (rotAt u lo) m = tileAt lo r m) ∧ (rotAt u lo).retest = r.retest - 1 ∧
          (rotAt u lo).stepDue = (r.stepDue || r.mismatchBist && decide (done ∨ x.mode = .resting))) ∧
      (let u := faultRaise (tileSource lo n) s
       (n = r.resting → r.phase = .bist ∨ r.phase = .halted → exec (.tileDatapathFault lo t) s = .next u) ∧
       (n = r.resting → r.phase = .load ∨ r.phase = .compare → exec (.tileDatapathFault lo t) s =
         .next (tileFail lo n (modRot lo (fun q => { q with phase := .bist, suspectSwap := false }) u))) ∧
       (n ≠ r.resting → rbit u (kP 0x100000) 3 = false → exec (.tileDatapathFault lo t) s =
         .next (modRot lo (modTile lo n (fun x => { x with faulty := true })) u))))

/-- The timers of a protection object (R275, R277, R282, R283): a condition present for the hold-off is effective; wait to restore and an exercise end; the
failure of protocol after 400 frames, with its record, cause, source and event. -/
def Obligations.ProtectionTimers : Prop :=
  (∀ (o : ProtObj) (k : BitVec 2) (s : State),
    let r := protObjRef o
    let c := ctlAt s r
    (protOn s r = true →
      (c.raw.testBit k.toNat = true → (cfgOf s r).holdoff * 800 ≤ c.runs.getD k.toNat 0 →
        ∃ t, exec (.holdoffExpiry o k) s = .next t ∧ ctlAt t r = { c with eff := c.eff ||| 2 ^ k.toNat } ∧ OnlyIn [.prot] s t) ∧
      (c.raw.testBit k.toNat = false ∨ c.runs.getD k.toNat 0 < (cfgOf s r).holdoff * 800 →
        ∃ t, exec (.holdoffExpiry o k) s = .next t ∧ ctlAt t r = c ∧ OnlyIn [.prot] s t) ∧
      (c.wtrRun = true → c.wtrLeft = 0 → ∃ t, exec (.wtrExpiry o) s = .next t ∧ ctlAt t r = { c with wtrRun := false } ∧ OnlyIn [.prot] s t)) ∧
    (protOn s r = false → exec (.holdoffExpiry o k) s = .next s ∧ exec (.wtrExpiry o) s = .next s)) ∧
  (∀ (p : BitVec 4) (s : State),
    let r := ProtRef.msp p.toNat
    let c := ctlAt s r
    protOn s r = true →
    (c.exerRun = true → c.exerLeft = 0 → ∃ t, exec (.exerciseEnd p) s = .next t ∧
      ctlAt t r = { c with exerRun := false, exerOk := c.exerSeen, ext := if c.ext = 6 then 0 else c.ext } ∧ OnlyIn [.prot, .mate] s t ∧
      (c.ext ≠ 6 → OnlyIn [.prot] s t)) ∧
    (c.fop = false → 400 ≤ c.fopRun ∨ 400 ≤ c.badRun →
      let u := protRecord r 4 0 (setCtl r { c with fop := true } s)
      exec (.fopDeclare p) s = .next (protEvent r (faultRaise (325 + 3 * p.toNat) (setCause (protSeat u r) 0xC0000 2 u)))) ∧
    (c.fop = true → exec (.fopDeclare p) s = .next s))

/-- Heartbeats and the rein (R298, R299, R302, R303, R305, R308): the pulse and message paths, what a heartbeat counts and names, that a holder which hears a holder of a
higher term holds no more, the end of a listen window, releases. The end of a listen window and of RELEASING act at the next cycle boundary (entry 34); the
model's other readings: entry 22. -/
def Obligations.MateHeartbeats : Prop :=
  ∀ s : State,
    let m := s.mate
    (3 ≤ s.pwr.stage.code → bit s.pwr.vioOk 6 = true → exec .matePulseEdge s = .next { s with mate := { m with edge := true } }) ∧
    (m.pulseAlive = true → 4 ≤ m.quietRun → exec .pulsePathSilent s =
      .next (faultRaise 250 (mateCause0 6 { s with mate := { m with pulseAlive := false } }))) ∧
    (m.msgAlive = true → 2 ≤ m.hbMiss → m.hbNow = false → exec .msgPathSilent s =
      .next (faultRaise 249 (mateCause0 5 { s with mate := { m with msgAlive := false } }))) ∧
    (∀ (h : Heartbeat) (phase : BitVec 15),
      (mateListens s = false → exec (.heartbeatReceive h phase) s = .next s) ∧
      (mateListens s = true → hbValid s h = false → exec (.heartbeatReceive h phase) s =
        .next { s with mate := { m with hbInvalid := satAdd 65535 m.hbInvalid 1 } }) ∧
      (mateListens s = true → hbValid s h = true → ∃ t, exec (.heartbeatReceive h phase) s = .next t ∧ t.mate.msgAlive = true ∧ t.mate.hbMiss = 0 ∧
        t.mate.peer = some h ∧ t.mate.highTerm = max m.highTerm h.term.toNat ∧ (h.rein = 4 → m.term < h.term.toNat → t.mate.rein ≠ .holder))) ∧
    (m.rein = .listen → m.listenLeft ≤ 1 → exec .listenWindowEnd s = .next { s with mate := { m with listenEnd := true } }) ∧
    (m.rein ≠ .listen ∨ 2 ≤ m.listenLeft → exec .listenWindowEnd s = .next s) ∧
    (m.rein = .listen → m.standbyDue = false → m.listenEnd = true → m.listenLeft = 0 →
      (mayTake s = true → m.listenSilent = true ∨ (m.listenHeard = true ∧ m.listenLower = true) → listenBoundary s =
        serviceEntry (mateCauseAll 1 (holdRein 1
          { s with mate := { m with onOffer := false, takeCycle := s.lt.frame / 16 + 1, txFault := false } }))) ∧
      (mayTake s = false ∨ (m.listenSilent = false ∧ (m.listenHeard = false ∨ m.listenLower = false)) → listenBoundary s = listenStart s)) ∧
    (∀ r : ReleaseMsg, mateListens s = true → r.kind.toNat ≤ 2 → m.rein = .standby → m.sync = .synced →
      ∃ t, exec (.releaseReceive r true) s = .next t ∧ t.mate.highTerm = max m.highTerm r.term.toNat ∧
        t.mate.takeDue = some (if r.kind = 0 then ⟨s.lt.frame / 16 + 1, 3, r.finalSeq.toNat, r.pendingDeltas.toNat, 5, 5⟩
          else ⟨near32 (s.lt.frame / 16) r.takeCycle.toNat, 3 + r.kind.toNat, r.finalSeq.toNat, 0, 5, 5⟩)) ∧
    (∀ r : ReleaseMsg, exec (.releaseReceive r false) s = .next s) ∧
    (m.rein = .releasing → m.relTake ≤ s.lt.frame / 16 → exec .releaseTimeout s = .next { s with mate := { m with relTimeout := true } }) ∧
    (m.rein ≠ .releasing ∨ s.lt.frame / 16 < m.relTake → exec .releaseTimeout s = .next s) ∧
    (m.rein = .releasing → m.relTimeout = true → m.msgAlive = true → s.lt.countOk = true →
      listenBoundary s = faultRaise 248 (mateCause0 12 (holdRein 10 s))) ∧
    (m.rein = .releasing → m.relTimeout = false ∨ m.msgAlive = false ∨ s.lt.countOk = false →
      listenBoundary s = { s with mate := { m with relTimeout := false } })

/-- Epochs and snapshots (R311 to R316): an epoch opened, its deltas, its trailer verified or synchronisation lost; a snapshot begun, its chunks, ended or timed
out; a request of the mate; the queue sent when room exists. The model's
readings: entry 22. -/
def Obligations.MateEpochs : Prop :=
  ∀ s : State,
    let m := s.mate
    let asked (u : State) : State := { u with mate := { u.mate with
      sentSnapReq := (u.mate.sentSnapReq + 1) % 2 ^ 32, outq := linkInsert ⟨2, snapReqBytes u.mate.seq⟩ u.mate.outq } }
    exec .deltaQueueRoom s = .next (queueWaiting 8192 m.waiting { s with mate := { m with queueBytes := 0 } }) ∧
    (∀ d, m.rein = .holder → m.waiting = [] → m.queueBytes + deltaLen d ≤ 8192 → ∀ mgmt : Bool, sendDelta mgmt d s = { s with mate := { m with
      open_ := m.open_.map (fun e => { e with deltas := d :: e.deltas, bytes := e.bytes + deltaLen d })
      queueBytes := m.queueBytes + deltaLen d, outq := linkInsert ⟨1, deltaBytes d⟩ m.outq } }) ∧
    (∀ e : EpochOpen, m.rein = .standby →
      (m.rx = none ∨ m.sync = .unsynced → exec (.epochOpenReceive e true) s = .next { s with mate := { m with
        rx := some ⟨e.seq.toNat, e.startFrame.toNat, e.term.toNat, [], 24, 0, 0, []⟩ } }) ∧
      (m.rx.isSome = true → m.sync ≠ .unsynced → exec (.epochOpenReceive e true) s = .next (modMate (fun x => { x with
        rx := some ⟨e.seq.toNat, e.startFrame.toNat, e.term.toNat, [], 24, 0, 0, []⟩ }) (syncLost s)))) ∧
    (∀ e : EpochOpen, m.rein ≠ .standby → exec (.epochOpenReceive e true) s = .next s) ∧ (∀ e : EpochOpen, exec (.epochOpenReceive e false) s = .next s) ∧
    (∀ d : MateDelta, m.rein = .standby → 0 < d.space.toNat → d.space.toNat ≤ 8 →
      exec (.deltaReceive d true) s = .next (if d.snap = true then domUpdate (snapChunk d s) else epochDelta d s)) ∧
    (∀ d : MateDelta, m.rein ≠ .standby → exec (.deltaReceive d true) s = .next s) ∧ (∀ d : MateDelta, exec (.deltaReceive d false) s = .next s) ∧
    (following s = true → ∀ t : EpochTrailer,
      (m.rx = none → ∀ ok, exec (.epochTrailerReceive t ok) s = .next (syncLost s)) ∧
      (m.rx.isSome = true → exec (.epochTrailerReceive t false) s = .next (syncLost s)) ∧
      (∀ e, m.rx = some e →
        (trailerOk s e t = false → exec (.epochTrailerReceive t true) s = .next (syncLost s)) ∧
        (trailerOk s e t = true →
          let u := modMate (fun x => { x with rx := none, verified := some (e, t), seq := e.seq }) (applyVerified s)
          (u.mate.sync ≠ .snapshot ∨ u.mate.snapEnded = false ∨ u.mate.revMm = true → exec (.epochTrailerReceive t true) s = .next u) ∧
          (u.mate.sync = .snapshot → u.mate.snapEnded = true → u.mate.revMm = false → exec (.epochTrailerReceive t true) s =
            .next (mateCause0 3 (modMate (fun x => { x with sync := .synced, snapEnded := false, snapItems := [], snapChunks := [] }) u)))))) ∧
    (following s = false → ∀ (t : EpochTrailer) (ok : Bool), exec (.epochTrailerReceive t ok) s = .next s) ∧
    (∀ seq : BitVec 32, m.rein = .holder → exec (.snapReqReceive seq true) s = .next { s with mate := { m with snapDue := true } }) ∧
    (∀ base chunks : BitVec 32, m.rein = .standby → ∃ t, exec (.snapBeginReceive base chunks true) s = .next t ∧ t.mate.sync = .snapshot ∧
      t.mate.snapCycle = s.lt.bounds ∧ t.mate.snapChunks = [] ∧ t.mate.snapItems = [] ∧ t.mate.snapEnded = false ∧ t.mate.verified = none ∧
      t.mate.seq = (base.toNat + 2 ^ 32 - 1) % 2 ^ 32) ∧
    (m.rein = .standby → m.sync = .snapshot →
      (∀ chunks crc : BitVec 32,
        (chunks.toNat = m.snapChunks.length ∧ crc.toNat = snapCrc m.snapChunks →
          exec (.snapEndReceive chunks crc true) s = .next { s with mate := { m with snapEnded := true } }) ∧
        (chunks.toNat ≠ m.snapChunks.length ∨ crc.toNat ≠ snapCrc m.snapChunks → exec (.snapEndReceive chunks crc true) s = .next (asked s)) ∧
        exec (.snapEndReceive chunks crc false) s = .next (asked s)) ∧
      (m.snapEnded = false → m.snapCycle + 800 ≤ s.lt.bounds →
        exec .snapshotTimeout s = .next (asked { s with mate := { m with snapCycle := s.lt.bounds } }))) ∧
    (m.rein ≠ .standby ∨ m.sync ≠ .snapshot ∨ m.snapEnded = true ∨ s.lt.bounds < m.snapCycle + 800 → exec .snapshotTimeout s = .next s)

/-- Camera packets (R351, R353, R356 to R359): a burst is taken on an enabled, awake, deskewed receiver; a packet goes to the camera of its virtual channel, opens or
closes its frame or adds a line; what is counted and flagged otherwise; frames closed by time-outs. The
model's readings: entry 23. -/
def Obligations.CameraPackets : Prop :=
  ∀ (r : BitVec 1) (s : State),
    let k := r.toNat
    let on := bit (crCfg s k) 0 = true ∧ domOn s (102 + k) = true
    let ready := bits (crCfg s k) 4 12 ≤ 1500 ∨ (rxAt s k).deskewOk = true
    let u := modRx k (fun x => { x with hsActive := true, clkHs := true }) s
    (bit (crCfg s k) 0 = false ∨ domOn s (102 + k) = false →
      (∀ p, exec (.csi2PacketReceive r p) s = .next s) ∧ (∀ vc num, exec (.frameStart r vc num) s = .next s ∧ exec (.frameEnd r vc num) s = .next s) ∧
      ∀ vc dt payload crc, exec (.pixelLine r vc dt payload crc) s = .next s ∧ exec (.embeddedData r vc payload crc) s = .next s) ∧
    (on → 1500 < bits (crCfg s k) 4 12 → (rxAt s k).deskewOk = false →
      (∀ p, exec (.csi2PacketReceive r p) s = .next (rxCount k 2 u)) ∧ ∀ vc num, exec (.frameStart r vc num) s = .next (rxCount k 2 u)) ∧
    (on → ready → ∀ p : CsiPacket,
      (p.sot = .bad → exec (.csi2PacketReceive r p) s = .next (rxCount k 1 u)) ∧
      (p.sot = .ok → p.ecc = .extension → exec (.csi2PacketReceive r p) s = .next (rxCount k 6 u)) ∧
      (p.sot = .ok → p.ecc = .ok → exec (.csi2PacketReceive r p) s =
        .next (rxPacket k p.vc.toNat p.dt.toNat p.data.toNat p.payload p.crc.toNat false u)) ∧
      (p.sot = .corrected → p.ecc = .corrected → exec (.csi2PacketReceive r p) s =
        .next (rxPacket k p.vc.toNat p.dt.toNat p.data.toNat p.payload p.crc.toNat true (rxCount k 3 (rxCount k 0 u))))) ∧
    (on → ready → ∀ (vc : BitVec 2) (num : BitVec 16) (dt : BitVec 6) (payload : List Byte) (crc : BitVec 16),
      (camOf s k vc.toNat = none → exec (.frameStart r vc num) s = .next (rxCount k 8 u) ∧ exec (.frameEnd r vc num) s = .next (rxCount k 8 u) ∧
        exec (.pixelLine r vc dt payload crc) s = .next (rxCount k 8 u) ∧ exec (.embeddedData r vc payload crc) s = .next (rxCount k 8 u)) ∧
      (∀ c, camOf s k vc.toNat = some c →
        exec (.frameStart r vc num) s = .next (camFs c num.toNat u) ∧ exec (.frameEnd r vc num) s = .next (camFe k c num.toNat u) ∧
        ((camAt s c).cur = none → exec (.embeddedData r vc payload crc) s = .next (camOrphan k c u)) ∧
        (∀ f, (camAt s c).cur = some f →
          exec (.embeddedData r vc payload crc) s = .next (crcCheck k c payload crc.toNat
            (modCam c (fun x => { x with cur := some { f with embedded := f.embedded ++ [payload] } }) u)) ∧
          (0x10 ≤ dt.toNat → dt ≠ 0x12 → isPixelDt s k dt.toNat = true →
            ((dtCode s k (bits f.cfg 1 3)).1 = dt.toNat → exec (.pixelLine r vc dt payload crc) s =
              .next (crcCheck k c payload crc.toNat (camLine c (dtCode s k (bits f.cfg 1 3)).2 payload u))) ∧
            ((dtCode s k (bits f.cfg 1 3)).1 ≠ dt.toNat → exec (.pixelLine r vc dt payload crc) s = .next (camFlag c 0x200 u)))))) ∧
    (on → bit (crCfg s k) 1 = true → ∃ t, exec (.deskewBurst r) s = .next t ∧ (rxAt t k).deskewOk = true ∧ (∀ q, q ≠ k → rxAt t q = rxAt s q) ∧
      OnlyIn [.cam] s t) ∧
    exec (.linkIdleTimeout r) s = .next (foldUpto 8 (fun c t => if bits (camBindOf t c) 0 1 = k then camClose c 0x10 t else t)
      (modRx k (fun x => { x with hsActive := false, clkHs := false }) s)) ∧
    (∀ (c : BitVec 3) (f : CamFrame), (camAt s c.toNat).cur = some f →
      let due := (f.bound + bits f.time 0 16) * 19440 + f.phase
      (due ≤ s.lt.bounds * 19440 + s.lt.phase → exec (.frameTimeout c) s = .next (camClose c.toNat 0x30 s)) ∧
      (s.lt.bounds * 19440 + s.lt.phase < due → exec (.frameTimeout c) s = .next s))

/-- The scan plane of a closed frame, I²C jobs and triggers (R366, R369, R370, R376): the plane made; the oldest job started when its time has come and ended with its
result; the earliest pulse requested begun, merged or held, and ended. The model's readings: entry 23. -/
def Obligations.CameraMasters : Prop :=
  (∀ (c : BitVec 3) (s : State) (f : CamFrame),
    let x := camAt s c.toNat
    x.closing = some f → ∃ t, exec (.scanPlaneComplete c) s = .next t ∧ OnlyIn [.cam] s t ∧ (∀ q, q ≠ c.toNat → camAt t q = camAt s q) ∧
      camAt t c.toNat = { x with closing := none, planeSeq := f.seq
                                 plane := scanPlane (chainOf f) (correct (chainOf f) (rawPlane (chainOf f) (fullLines f))).1 }) ∧
  (∀ (i : BitVec 1) (s : State) (j : I2cJob) (rest : List I2cJob),
    let x := i2cAt s i.toNat
    (3 ≤ s.pwr.stage.code → bit s.pwr.vioOk 2 = true → x.running = none → x.queue = j :: rest → j.start = 0 ∨ j.late = true ∨ j.start ≤ s.lt.frame →
      ∃ t, exec (.i2cJobStart i) s = .next t ∧ OnlyIn [.cam] s t ∧ i2cAt t i.toNat = { x with running := some j, queue := rest }) ∧
    (s.pwr.stage.code < 3 ∨ bit s.pwr.vioOk 2 = false → exec (.i2cJobStart i) s = .next s) ∧
    (x.running = none → x.queue = j :: rest → j.start ≠ 0 → j.late = false → s.lt.frame < j.start → exec (.i2cJobStart i) s = .next s) ∧
    (x.running = some j →
      exec (.i2cJobStart i) s = .next s ∧
      (∀ (detail : BitVec 2) (data : List Byte), ∃ t, exec (.i2cJobComplete i detail data) s = .next t ∧ (i2cAt t i.toNat).running = none ∧
        (i2cAt t i.toNat).queue = x.queue ∧ (i2cAt t i.toNat).next = (x.next + 1) % 16) ∧
      ∃ t, exec (.i2cStretchTimeout i) s = .next t ∧ (i2cAt t i.toNat).running = none ∧ (i2cAt t i.toNat).queue = x.queue ∧
        (i2cAt t i.toNat).next = (x.next + 1) % 16) ∧
    (x.running = none → (∀ detail data, exec (.i2cJobComplete i detail data) s = .next s) ∧ exec (.i2cStretchTimeout i) s = .next s)) ∧
  (∀ (n : BitVec 2) (s : State),
    let k := n.toNat
    let x := trigAt s k
    let leaves (i : Instr) (y : CamTrig) : Prop := ∃ t, exec i s = .next t ∧ trigAt t k = y ∧ (∀ q, q ≠ k → trigAt t q = trigAt s q) ∧ OnlyIn [.cam, .lt, .clock] s t
    (x.due = [] → exec (.triggerPulseStart n) s = .next s) ∧
    (∀ d : Nat × Nat, earliestDue x.due = some d →
      (s.lt.frame < d.1 / 19440 → exec (.triggerPulseStart n) s = .next s) ∧
      (d.1 / 19440 ≤ s.lt.frame → s.pwr.stage.code < 3 →
        leaves (.triggerPulseStart n) { x with due := x.due.erase d, held := satAdd 255 x.held 1 }) ∧
      (d.1 / 19440 ≤ s.lt.frame → 3 ≤ s.pwr.stage.code → bit s.pwr.vioOk 2 = false → leaves (.triggerPulseStart n) { x with due := x.due.erase d }) ∧
      (d.1 / 19440 ≤ s.lt.frame → 3 ≤ s.pwr.stage.code → bit s.pwr.vioOk 2 = true → x.active = true →
        leaves (.triggerPulseStart n) { x with due := x.due.erase d, until_ := max x.until_ (d.1 + d.2), merge := satAdd 255 x.merge 1 }) ∧
      (d.1 / 19440 ≤ s.lt.frame → 3 ≤ s.pwr.stage.code → bit s.pwr.vioOk 2 = true → x.active = false →
        leaves (.triggerPulseStart n) { x with due := x.due.erase d, active := true, until_ := d.1 + d.2, count := satAdd 65535 x.count 1
                                               lastFrame := d.1 / 19440, lastPhase := d.1 % 19440 })) ∧
    (x.active = true → x.until_ / 19440 ≤ s.lt.frame → leaves (.triggerPulseEnd n) { x with active := false }) ∧
    (x.active = false → exec (.triggerPulseEnd n) s = .next s))

/-- Scan jobs and strobes (R380, R381, R385 to R388): at its commit point a job commits, ends or moves by one frame; a strobe begins and ends with its tokens; an
attempt without a frame. The model's readings: entry 24. -/
def Obligations.ScanExposures : Prop :=
  (∀ (job : BitVec 16) (s : State),
    (jobAt s job.toNat = none → exec (.scanCommit job) s = .next s) ∧
    (∀ j0, jobAt s job.toNat = some j0 →
      let late := s.lt.frame - (j0.pos - 19440) / 19440
      let j := if late = 0 then j0 else { j0 with pos := j0.pos + late * 19440, moved := true, shifted := true }
      j0.busy = false → j0.last = false → (j.pos - 19440) / 19440 ≤ s.lt.frame →
      s.scan.jobs.any (fun k => !k.busy && k.ident != j.ident && commitsBefore s k j) = false →
      let t := advanceTo (j.pos - 19440) s
      let free := cameraHeld t j.cam = false ∧ (∀ e ∈ j.lants, spanBusy t e.1 (strobeSpan t j e.1).1 (strobeSpan t j e.1).2 = false) ∧
        tokensFree t j.seat (j.lants.map (fun e => strobeTokens t e.1 e.2)).sum = true ∧ (bit s.mon.shed 0 = false ∨ j.lants = [])
      let open_ := ∀ e ∈ j.lants, bit s.scan.blocked e.1 = false
      (¬ open_ → exec (.scanCommit job) s = .next (endUnexposed j oSeat 0 false t)) ∧
      (open_ → free → exec (.scanCommit job) s = .next (commitAttempt j t)) ∧
      (open_ → ¬ free → j.tries ≠ 0 ∨ j.pos + 19440 < (j.deadline - 4) * 19440 → exec (.scanCommit job) s =
        .next (modJob j.ident (fun k => { k with pos := j.pos + 19440, moved := true, shifted := true }) t)) ∧
      (open_ → ¬ free → j.tries = 0 → (j.deadline - 4) * 19440 ≤ j.pos + 19440 →
        let shed := bit s.mon.shed 0 = true ∧ j.lants ≠ []
        exec (.scanCommit job) s = .next (endUnexposed j (if shed then 0x11 else 0x12) (if shed then 4 else 0) false t)))) ∧
  (∀ (l : BitVec 3) (s : State) (b : Strobe),
    let k := l.toNat
    (firstStrobe (·.start) (s.scan.strobes.filter (fun b => b.lant == k && !b.active)) = some b →
      (s.lt.frame < b.start / 19440 → exec (.strobeOn l) s = .next s) ∧
      (b.start / 19440 ≤ s.lt.frame → lantEn s k = false ∨ bit s.scan.blocked k = true ∨ strobesRun s = false → exec (.strobeOn l) s = .next (advanceTo b.start s)) ∧
      (b.start / 19440 ≤ s.lt.frame → lantEn s k = true → bit s.scan.blocked k = false → strobesRun s = true →
        ∃ t, exec (.strobeOn l) s = .next t ∧ t.scan.strobes = s.scan.strobes.map (fun c => if c = b then { c with active := true } else c) ∧
          tget 0 t.scan.strobeCount k = (tget 0 s.scan.strobeCount k + 1) % 65536 ∧ OnlyIn [.scan, .lt, .clock] s t)) ∧
    (firstStrobe (·.stop) (s.scan.strobes.filter (fun b => b.lant == k)) = some b → b.stop / 19440 ≤ s.lt.frame →
      ∃ t, exec (.strobeOff l) s = .next t ∧ t.scan.strobes = s.scan.strobes.erase b ∧
        heldTokens t b.seat = heldTokens s b.seat - b.tokens ∧ OnlyIn [.scan, .lt, .clock, .book] s t)) ∧
  (∀ (job : BitVec 16) (s : State) (a : ScanAttempt),
    s.scan.attempts.find? (fun a => a.job == job.toNat && a.taken.isNone && !a.closed) = some a →
    let limit := a.edge + rbits s (kP (0x41000C + 0x10000 * a.cam)) 0 16 * 19440
    (nowPos s < limit → exec (.scanNoFrame job) s = .next s) ∧
    (limit ≤ nowPos s → a.done = true → exec (.scanNoFrame job) s = .next { s with scan := { s.scan with attempts := s.scan.attempts.erase a } }) ∧
    (limit ≤ nowPos s → a.done = false → exec (.scanNoFrame job) s = .next { s with scan := { s.scan with
      attempts := s.scan.attempts.map (fun c => if c = a then { a with closed := true, listed := true, detail := 1 } else c) } }))

/-- Finder, decode units and records (R389, R392, R394, R398 to R403): the candidates of a closed attempt listed up to the job's cap; a unit's symbol kept when the job takes
it; the record written when the work has ended or at DEADLINE; self-tests begun and ended. The model's readings: entry 24. -/
def Obligations.ScanUnits : Prop :=
  (∀ (job : BitVec 16) (s : State) (j : ScanJob), jobAt s job.toNat = some j →
    (∀ (a : ScanAttempt) (n : BitVec 6) (more : Bool), attemptAt s job.toNat = some a →
      let cap := if bits j.body 56 8 = 0 then 32 else bits j.body 56 8
      let c := min n.toNat cap
      let most := more || decide (cap < n.toNat)
      (a.closed = false ∨ a.listed = true → exec (.finderComplete job n more) s = .next s) ∧
      (a.closed = true → a.listed = false →
        (inService (unitAt s 4) = false → exec (.finderComplete job n more) s = .next (modAttempt j.ident (fun b => { b with listed := true, detail := 3 }) s)) ∧
        (inService (unitAt s 4) = true → anyInService s = false → exec (.finderComplete job n more) s =
          .next (modAttempt j.ident (fun b => { b with listed := true, cands := c, nextCand := c, candOver := most, detail := 3 }) s)) ∧
        (inService (unitAt s 4) = true → anyInService s = true → exec (.finderComplete job n more) s =
          .next (assignUnits (modAttempt j.ident (fun b => { b with listed := true, cands := c, candOver := most }) s)))) ∧
      (a.inWork = 0 → (a.listed = true ∧ a.cands ≤ a.nextCand) ∨ a.detail ≠ 0 → exec (.scanResultRecord job) s = .next (writeRecord j a s)) ∧
      (a.inWork ≠ 0 → exec (.scanResultRecord job) s = .next s) ∧
      (j.deadline ≤ s.lt.frame → a.detail = 0 → a.listed = false ∨ a.nextCand < a.cands ∨ a.inWork ≠ 0 →
        let b : ScanAttempt := { a with detail := 2, nextCand := a.cands, listed := true }
        let t := modAttempt j.ident (fun _ => b) s
        exec (.scanDeadline job) s = .next (if a.inWork = 0 then writeRecord j b t else t))) ∧
    (s.lt.frame < j.deadline → exec (.scanDeadline job) s = .next s) ∧
    (j.deadline ≤ s.lt.frame → attemptAt s job.toNat = none → exec (.scanDeadline job) s = .next (endUnexposed j oFaulted 2 false s))) ∧
  (∀ (u : BitVec 2) (r : Option SymbolRx) (s : State),
    let x := unitAt s u.toNat
    let body := ((jobAt s x.job).map (·.body)).getD 0
    let kept (f : ScanAttempt → ScanAttempt) : State := assignUnits (setUnit u.toNat .reset (modAttempt x.job (fun b => f { b with inWork := b.inWork - 1 }) s))
    (x.mode ≠ .busy → exec (.decodeComplete u r) s = .next s) ∧
    (x.mode = .busy →
      (r = none → exec (.decodeComplete u r) s = .next (kept fun b => { b with fails := b.fails + 1 })) ∧
      (∀ y, r = some y → symbolOk s body y = false → exec (.decodeComplete u r) s = .next (kept fun b => { b with fails := b.fails + 1 })) ∧
      (∀ y, r = some y → symbolOk s body y = true → exec (.decodeComplete u r) s = .next (kept fun b => { b with syms := ⟨x.cand, y⟩ :: b.syms })))) ∧
  (∀ (u : BitVec 3) (s : State), u.toNat < 5 →
    let k := u.toNat
    ((unitAt s k).mode = .idle → domOn s (if k = 4 then 105 else 106 + k) = true → (k = 4 → s.scan.attempts.all (·.done) = true) →
      ∃ t, exec (.decodeBistStart u) s = .next t ∧ unitAt t k = ⟨.bist, 0, 0⟩ ∧ (∀ q, q ≠ k → unitAt t q = unitAt s q) ∧ OnlyIn [.scan] s t) ∧
    ((unitAt s k).mode = .bist → exec (.decodeBistEnd u true) s = .next (unitFails k s) ∧
      ∃ t, exec (.decodeBistEnd u false) s = .next t ∧ unitAt t k = .reset ∧ (∀ q, q ≠ k → unitAt t q = unitAt s q) ∧ OnlyIn [.scan] s t)) ∧
  (∀ s : State,
    (s.scan.bistDue = true → s.scan.attempts.all (·.done) = true → ∃ t, exec .scanOfflineBistBegin s = .next t ∧ t.scan.bistDue = false ∧
      t.scan.bistRun = true ∧ (∀ u, u < 5 → (unitAt t u).mode = .offline) ∧ OnlyIn [.scan] s t) ∧
    (s.scan.bistRun = true → ∀ failed : BitVec 5, exec (.scanOfflineBistEnd failed) s = .next (setCause 0 0x500F00 4
      (foldUpto 5 (fun u t => if bit failed.toNat u then unitFails u t else setUnit u .reset t) { s with scan := { s.scan with bistRun := false } }))))

/-- Dunte lanes (R333 to R337, R340, R341): what a received frame, a lock, a loss, a sent frame, the training time-out and the monitor do to a lane, and that other
lanes stand. -/
def Obligations.DunteLanes : Prop :=
  ∀ (l : LaneSel) (s : State),
    let k := laneIdx l
    let x := laneAt s k
    let count (y : Lane) (i : Nat) : Nat := tget 0 y.cnt i
    let leaves (i : Instr) (P : Lane → Prop) : Prop := ∃ t, exec i s = .next t ∧ P (laneAt t k) ∧ (∀ q, q ≠ k → laneAt t q = laneAt s q)
    (∀ r : DunteRx,
      let y := laneFramer r.marks x
      let h := readHeader r.header
      (laneRuns s k = false ∨ x.locked = false → exec (.dunteFrameReceive l r) s = .next s) ∧
      (laneRuns s k = true → x.locked = true →
        (y.2 = false → leaves (.dunteFrameReceive l r) (· = { y.1 with winBad := true })) ∧
        (y.2 = true → leaves (.dunteFrameReceive l r) fun z =>
          count z 0 = (count x 0 + r.cv) % 2 ^ 32 ∧ count z 1 = (count x 1 + b2n (!r.fcrcOk)) % 2 ^ 32 ∧
          count z 2 = (if h.hcrcOk = true then count x 2 else (count x 2 + 1) % 2 ^ 32) ∧ count z 3 = (count x 3 + r.sbip) % 2 ^ 32 ∧
          z.winErr = x.winErr + (if 0 < r.cv ∨ r.fcrcOk = false then 1 else 0) ∧ (h.hcrcOk = true → z.hdr = some h)))) ∧
    (laneRuns s k = true → leaves (.dunteCodeLock l) (· = { x with locked := true })) ∧ (laneRuns s k = false → exec (.dunteCodeLock l) s = .next s) ∧
    leaves (.dunteLos l) (fun z => z.locked = false ∧ z.framer = .hunt ∧ z.rxok = false ∧ z.winBad = true ∧
      count z 5 = (if x.locked = true then (count x 5 + 1) % 2 ^ 32 else count x 5)) ∧
    (laneTx s k = .idle → leaves (.dunteFrameTransmit l) (· = { x with
      sent := none, sentSlots := [], sentCells := [], sentArea := [], monitor := .hunt, monAge := 0, txClean := 0 })) ∧
    (laneTx s k ≠ .idle → leaves (.dunteFrameTransmit l) fun z => z.sent = some (txHeader s k) ∧ z.monAge = min 8 (x.monAge + 1) ∧
      z.monitor = (if x.monitor = .hunt then .presync else .sync) ∧ z.txClean = (if x.monitor = .sync then min 16 (x.txClean + 1) else 0) ∧
      z.txFail = (x.txFail && decide (z.txClean < 16))) ∧
    (laneTx s k = .train → x.accepted = none → x.leftIdle + 160 ≤ s.lt.bounds → s.lt.frame % 4 = 0 →
      leaves (.trainTimeout l) fun z => z.tx = .run ∧ count z 6 = (count x 6 + 1) % 2 ^ 32) ∧
    (laneTx s k ≠ .train ∨ s.lt.bounds < x.leftIdle + 160 → exec (.trainTimeout l) s = .next s) ∧
    (laneTx s k ≠ .idle → x.txFail = false → x.monitor = .sync ∨ 8 ≤ x.monAge →
      let u := bpCause k 3 (setLane k { x with monitor := .hunt, txClean := 0, txFail := true } s)
      exec (.laneTxmonFail l) s = .next (if k < 32 then txFaultAtTake (faultRaise (137 + 3 * k) u) else faultRaise (233 + 2 * (k - 32)) u)) ∧
    (laneTx s k ≠ .idle → x.txFail = true ∨ (x.monitor ≠ .sync ∧ x.monAge < 8) →
      leaves (.laneTxmonFail l) (· = { x with monitor := .hunt, txClean := 0 })) ∧
    (laneTx s k = .idle → exec (.laneTxmonFail l) s = .next s)

/-- Lane SD and EXC are judged at the end of windows of 800 frames that start at frames with f mod 800 = 0 (R342): at least SD_THR errored frames declare SD, at most
SD_THR div 10 clear it, EXC likewise; a window that holds a frame not in RX_RUN, or a skip, neither declares nor clears. LANE_WINDOW_END comes in the window's last
frame and acts at the boundary (entry 50). -/
def Obligations.LaneWindows : Prop :=
  ∀ (l : LaneSel) (s : State), laneRuns s (laneIdx l) = true →
    let k := laneIdx l
    let x := laneAt s k
    let sdThr := if k < 32 then bits (rget s (kP (0xE0000 + 0x100 * k))) 16 8 else 4
    let excThr := if k < 32 then bits (rget s (kP (0xE0000 + 0x100 * k))) 24 8 else 80
    ((s.lt.frame + 1) % 800 ≠ 0 → exec (.laneWindowEnd l) s = .next s) ∧
    ((s.lt.frame + 1) % 800 = 0 → exec (.laneWindowEnd l) s = .next (setLane k { x with winEnds := true } s)) ∧
    laneWindow false false k s = s ∧
    (∀ skip : Bool, x.winEnds = true ∨ skip = true →
      let t := laneWindow true skip k s
      (∀ q, q ≠ k → laneAt t q = laneAt s q) ∧ (laneAt t k).winErr = 0 ∧ (laneAt t k).winBad = !rxRun x ∧ (laneAt t k).winEnds = false ∧
      (x.winBad = true ∨ skip = true → (laneAt t k).sd = x.sd ∧ (laneAt t k).exc = x.exc) ∧
      (x.winBad = false → skip = false →
        (sdThr ≤ x.winErr → (laneAt t k).sd = true) ∧ (x.winErr < sdThr → x.winErr ≤ sdThr / 10 → (laneAt t k).sd = false) ∧
        (x.winErr < sdThr → sdThr / 10 < x.winErr → (laneAt t k).sd = x.sd) ∧
        (excThr ≤ x.winErr → (laneAt t k).exc = true) ∧ (x.winErr < excThr → x.winErr ≤ excThr / 10 → (laneAt t k).exc = false) ∧
        (x.winErr < excThr → excThr / 10 < x.winErr → (laneAt t k).exc = x.exc))) ∧
    (x.locked = true → ∀ r : DunteRx, ∃ t, exec (.dunteFrameReceive l r) s = .next t ∧ (rxRun (laneAt t k) = false → (laneAt t k).winBad = true) ∧
      ((laneFramer r.marks x).2 = true → (laneAt t k).winErr = x.winErr + (if 0 < r.cv ∨ r.fcrcOk = false then 1 else 0)))

/-- Transmissions of the cord radio (R407, R409, R416, R434, R435, R440, R444): an attempt backs off, a clear channel sends, four busy ones fail; the end of a transmission,
of a wait for the acknowledgement, of a frame's time; IDENT; faults and self-tests. The model's readings: entry 25. -/
def Obligations.RadioTransmissions : Prop :=
  (∀ (id : BitVec 16) (s : State),
    (frameAt s id.toNat = none → exec (.transmitAttempt (some id)) s = .next s ∧ exec (.ackTimeout id) s = .next s ∧
      exec (.radioFrameDeadline id) s = .next s) ∧
    (∀ f, frameAt s id.toNat = some f →
      (radioRuns s = true → s.radio.txBlocked = false → mayAttempt s f = true → f.seqn.isSome = true ∨ bits f.desc 8 3 = 0 →
        (tokensFree s f.seat (tokPa s) = true → exec (.transmitAttempt (some id)) s =
          .next (rpSend [5] (modFrame f.ident (fun g => { g with inCca := true, backoffs := g.backoffs + 1 }) s))) ∧
        (tokensFree s f.seat (tokPa s) = false → exec (.transmitAttempt (some id)) s = .next s)) ∧
      (f.waitAck = false → exec (.ackTimeout id) s = .next s) ∧
      (f.waitAck = true → 4 ≤ f.tries ∨ radioEn s = false → exec (.ackTimeout id) s = .next (radioRest (radioEnd { f with waitAck := false } oFaulted 1 s))) ∧
      (f.waitAck = true → f.tries < 4 → radioEn s = true →
        (seatAdmits s f.seat f.air (minuteOf (nowPos s)) = false → exec (.ackTimeout id) s = .next (radioEnd { f with waitAck := false } oFaulted 8 s)) ∧
        (seatAdmits s f.seat f.air (minuteOf (nowPos s)) = true → exec (.ackTimeout id) s =
          .next (modFrame f.ident (fun _ => { f with waitAck := false }) s))) ∧
      (s.lt.frame < f.deadline ∨ f.waitAck = true → exec (.radioFrameDeadline id) s = .next s) ∧
      (f.deadline ≤ s.lt.frame → f.waitAck = false → s.radio.onAir = none →
        exec (.radioFrameDeadline id) s = .next (if f.txPos.isSome then radioEnd f oFaulted (if f.chanFail then 2 else 1) s
          else if bit s.mon.shed 1 then radioEnd f oBudget 4 s else radioEnd f oLate 3 s)))) ∧
  (∀ (h : HwFrame) (s : State), radioRuns s = true → s.radio.txBlocked = false → nextHw s = some h → s.radio.onAir = none →
    let u := advanceTo (h.eligible - txdPhases s) s
    let t := { u with radio := { u.radio with hw := u.radio.hw.erase h } }
    let g := hwGate h.payload.length t
    (h.kind = .immAck ∨ h.kind = .enhAck →
      exec (.transmitAttempt none) s = .next (if g.1 then beginAir none true 0 (shrAt g.2 h.eligible) h.payload g.2 else g.2)) ∧
    (h.kind = .beacon → exec (.transmitAttempt none) s = .next (sendBeacon h.payload (shrAt t h.eligible) 15 t).2)) ∧
  (∀ (f : RadioFrame) (s : State), s.radio.hw.find? (·.inCca) = none → s.radio.frames.find? (·.inCca) = some f →
    let back := modFrame f.ident (fun g => { g with inCca := false }) s
    (f.backoffs < 4 → exec (.ccaComplete true) s = .next back) ∧ (4 ≤ f.backoffs → exec (.ccaComplete true) s = .next (accessFailed f s)) ∧
    (radioRuns s = true → s.radio.txBlocked = false → bit s.mon.shed 1 = false → s.radio.onAir = none → s.lt.frame < f.deadline →
      (sharedFits s (exchange25 s f) = true → exec (.ccaComplete false) s = .next (sendFrame { f with inCca := false } false (shrAt s 0) back)) ∧
      (sharedFits s (exchange25 s f) = false → exec (.ccaComplete false) s = .next back))) ∧
  (∀ s : State,
    (s.radio.onAir = none → exec .transmissionEnd s = .next s) ∧
    (∀ a, s.radio.onAir = some a →
      (a.frame = none → exec .transmissionEnd s = .next (radioRest (endAir s))) ∧
      (∀ i f, a.frame = some i → frameAt s i = some f →
        (bit f.desc 0 = true → bit f.desc 3 = false → exec .transmissionEnd s = .next (modFrame f.ident (fun g => { g with waitAck := true }) (endAir s))) ∧
        (bit f.desc 0 = false ∨ bit f.desc 3 = true → exec .transmissionEnd s = .next (radioRest (radioEnd f oDone 0 (endAir s)))))) ∧
    (radioEn s = true → s.radio.up = false → s.radio.bistFail = false → radioPort s = true → ∀ reply : BitVec 32,
      let v := reply.toNat
      let u := rpSend [7] s
      (bits v 0 8 = 0x5A → bits v 8 8 = 1 → bit v (16 + phyOf s) = true → exec (.identRetry reply) s =
        .next (rpMode 2 (rpChan { u with radio := { u.radio with up := true, portFault := false, bands := bits v 16 4 } }))) ∧
      (bits v 0 8 ≠ 0x5A → s.radio.portFault = true → exec (.identRetry reply) s = .next { u with radio := { u.radio with bands := bits v 16 4 } }) ∧
      (bits v 0 8 ≠ 0x5A → s.radio.portFault = false → exec (.identRetry reply) s = .next (setCause 0 0x600F00 6 (faultRaise 391
        { u with radio := { u.radio with up := false, portFault := true, bands := bits v 16 4 } })))) ∧
    (radioEn s = true → s.radio.up = true → exec .radioPortFault s =
      .next (setCause 0 0x600F00 6 (faultRaise 391 (portFaultEnds { s with radio := { s.radio with up := false, portFault := true } })))) ∧
    (radioEn s = true → exec (.radioBistPassEnd true) s =
      .next (faultRaise 392 { s with radio := { s.radio with bistFail := true, portFault := false, up := false, mode := 0, port := [1, 0] } })) ∧
    exec (.radioBistPassEnd false) s = .next s ∧
    (s.radio.bistRun = true → exec .radioOfflineBistEnd s = .next (setCause 0 0x600F00 7
      { s with radio := { s.radio with bistRun := false, bistFail := false, retryFrame := s.lt.frame + 2 } })))

/-- Receptions of the cord radio (R408, R420 to R426, R437, R438): the checks of a received frame in their order; a tag's poll window opened or lost, missed, the tag
dropped; a flood's copy eligible; copies and seen entries that expire. The model's readings: entry 25. -/
def Obligations.RadioReceptions : Prop :=
  (∀ (r : RadioRx) (s : State),
    let u := rpSend [4] s
    let secureForm := r.secured = true → r.version ≠ 0 ∧ r.keyMode.toNat < 2
    (radioRuns s = false ∨ listening s = false → ackOnly s r = false → exec (.radioFrameReceive r) s = .next s) ∧
    (radioRuns s = true → listening s = true →
      (r.fcsOk = false → exec (.radioFrameReceive r) s = .next (radioCount 0 1 u)) ∧
      (r.fcsOk = true → r.version = 3 ∨ r.kind = .other ∨ r.addrOk = false ∨ ¬ secureForm → exec (.radioFrameReceive r) s = .next (radioCount 1 1 u)) ∧
      (r.fcsOk = true → r.version ≠ 3 → r.addrOk = true → secureForm →
        (r.kind = .ack → r.version.toNat < 2 → r.secured = false → exec (.radioFrameReceive r) s = .next (rxAck r none u)) ∧
        (r.kind = .data → rxForUs u r = false → exec (.radioFrameReceive r) s = .next u) ∧
        (r.kind = .data → rxForUs u r = true → r.ackReq = false → exec (.radioFrameReceive r) s = .next (rxSecured r u))))) ∧
  (∀ (i : BitVec 9) (s : State),
    let k := i.toNat
    let n := nbrAt s k
    let p := nextPoll n (max (nowPos s) n.decided)
    let w := 192 * 3888 * 10 ^ 6 + 2 * driftOf s n * (25 * p - n.lastSync)
    let t := advanceTo (p - 32 * 19440) s
    (radioEn s = true → n.state = .tracked → nbrKind n = 1 → p / 19440 ≤ s.lt.frame + 32 →
      (w ≤ 8000 * 3888 * 10 ^ 6 → exec (.pollWindowDecision i) s =
        .next (modNbr k (fun n => { n with windows := n.windows ++ [(p, w)], decided := p }) t)) ∧
      (8000 * 3888 * 10 ^ 6 < w → exec (.pollWindowDecision i) s =
        .next (radioCause 3 (modNbr k (fun n => { n with state := .lostSync, resc := 0, windows := [], decided := p }) t)))) ∧
    (n.state ≠ .tracked → exec (.pollWindowDecision i) s = .next s) ∧
    (n.windows = [] → exec (.pollWindowMiss i) s = .next s) ∧
    (∀ (q v : Nat) (rest : List (Nat × Nat)), n.windows = (q, v) :: rest →
      let stop := q + (v + 50 * 10 ^ 6 - 1) / (50 * 10 ^ 6)
      stop / 19440 ≤ s.lt.frame → ∃ u, exec (.pollWindowMiss i) s = .next u ∧ nbrAt u k = { n with windows := rest, missed := satAdd 255 n.missed 1 } ∧
        (∀ j, j ≠ k → nbrAt u j = nbrAt s j) ∧ OnlyIn [.radio, .lt, .clock] s u) ∧
    (n.state = .lostSync → 65 ≤ n.resc →
      let held := (s.radio.frames.filter (fun f => f.indirect && f.nbr == k)).length
      let u := endNbrFrames k 5 (modNbr k (fun n => { n with state := .dropped, windows := [] }) s)
      exec (.tagDrop i) s = .next (radioCause 4 (radioCount 17 1 (ledgerHwSeat (ownerOf s 204 0) 11 0x14 (0xFF000000 + k) 3 held false [] u)))) ∧
    (n.state ≠ .lostSync ∨ n.resc < 65 → exec (.tagDrop i) s = .next s)) ∧
  (∀ s : State,
    (∀ h, s.radio.hw.find? (fun h => h.kind = .rebroadcast && !h.ready) = some h → exec .floodRebroadcastEligible s =
      .next { s with radio := { s.radio with hw := s.radio.hw.map (fun k => if k = h then { k with ready := true, eligible := nowPos s } else k) } }) ∧
    (s.radio.hw.find? (fun h => h.kind = .rebroadcast && !h.ready) = none → exec .floodRebroadcastEligible s = .next s) ∧
    (∃ t, exec .seenEntryExpiry s = .next t ∧ OnlyIn [.radio] s t ∧ t.radio.seen = s.radio.seen.filter (fun e => decide (s.lt.frame / 16 < e.2.2)) ∧
      t.radio.hw = s.radio.hw.filter (fun h => !(h.kind = .rebroadcast && decide (h.expiry ≤ s.lt.frame / 16))) ∧ t.radio.frames = s.radio.frames))

/-- Conversions of the monitor (R447, R450): a slot samples its channel, or calibrates, once in a frame and in order, at its phase. The model's readings: entry 26; what the filters give is free (entry 4). -/
def Obligations.MonitorConversions : Prop :=
  ∀ (slot : BitVec 8) (code : BitVec 12) (fail : Bool) (s : State), slot.toNat < 250 →
    let k := slot.toNat
    let u : State := { s with lt := { s.lt with phase := max s.lt.phase (1944 * k / 25) }, mon := { s.mon with slot := k + 1 } }
    (alive s = false ∨ k < s.mon.slot ∨ frameLast s < 1944 * k / 25 → exec (.adcConversion slot code fail) s = .next s) ∧
    (alive s = true → s.mon.slot ≤ k → 1944 * k / 25 ≤ frameLast s →
      (k % 25 ≠ 24 → exec (.adcConversion slot code fail) s = .next (monSample (k % 25) (k / 25) code.toNat u)) ∧
      (k % 25 = 24 → fail = true → s.mon.calFail = false → exec (.adcConversion slot code fail) s =
        .next (setCause 0 0x700F00 5 (faultRaise 394 { u with mon := { u.mon with calFail := true } }))) ∧
      (k % 25 = 24 → fail = true → s.mon.calFail = true → exec (.adcConversion slot code fail) s = .next u) ∧
      (k % 25 = 24 → fail = false → exec (.adcConversion slot code fail) s = .next { u with mon := { u.mon with calFail := false, calAge := 0 } }))

/-- The fault collector (R463, R464, R473 to R477, R480, R482): a raise is counted for its source and, with the latch empty, is first; the latch keeps the first source until it is
cleared; pair faults and their sweeps; the handling window; readbacks; the word that an uncorrectable error strikes (the model's operand, entry 29). The
model's readings: entry 27. -/
def Obligations.FaultCollector : Prop :=
  (∀ (src : BitVec 9) (s : State), src.toNat < 412 →
    let k := src.toNat
    (∀ word, canRaise s k = false → exec (.faultRaise src false word) s = .next (upsetAt k word s)) ∧
    (∀ word, canRaise s k = true → ∃ t, exec (.faultRaise src false word) s = .next t ∧ (faultSrc t k).raised = true ∧
      (k ≠ 406 → (faultSrc t k).count = satAdd 65535 (faultSrc s k).count 1) ∧
      (s.flt.latch = none → ∃ l, t.flt.latch = some l ∧ l.source = k ∧ l.frame = s.lt.frame ∧ l.phase = s.lt.phase) ∧
      (∀ l, s.flt.latch = some l → ∃ m, t.flt.latch = some m ∧ m.source = l.source ∧ m.frame = l.frame ∧ m.phase = l.phase)) ∧
    (∀ word, canRaise s k = true → ∃ t, exec (.faultRaise src true word) s = .next t ∧ (faultSrc t k).pairBad = true ∧ (faultSrc t k).good = 0) ∧
    (sourceOn s k = false → ∀ b, exec (.faultSweep src b) s = .next s) ∧
    (sourceOn s k = true → injectDue s k = false →
      let u : State := { s with lt := { s.lt with phase := max s.lt.phase (min (frameLast s) (16 * k)) } }
      exec (.faultSweep src false) s = exec (.faultRaise src true none) u ∧
      ((faultSrc s k).pairBad = false → exec (.faultSweep src true) s = .next u) ∧
      ((faultSrc s k).pairBad = true → ∃ t, exec (.faultSweep src true) s = .next t ∧ OnlyIn [.flt] u t ∧ faultSrc t k =
        (if 15 ≤ (faultSrc s k).good then { faultSrc s k with pairBad := false, good := 0 } else { faultSrc s k with good := (faultSrc s k).good + 1 })))) ∧
  (∀ (b : BitVec 3) (w : BitVec 19) (s : State),
    let p := 0x200000 * b.toNat + 4 * w.toNat
    let u := upsetAt (24 + b.toNat) (some w) s
    OnlyIn [.sram, .freeCtr] s u ∧ (∀ j, j < 4 → wordBad u (p + j) = true) ∧
      ∀ q, q < p ∨ p + 4 ≤ q → wordBad u q = wordBad s q ∧ sramGet u q = sramGet s q) ∧
  (∀ s : State,
    (s.flt.latch = none → exec .handlingWindowEnd s = .next s) ∧
    (∀ l, s.flt.latch = some l →
      (l.handling = false → exec .handlingWindowEnd s = .next s) ∧
      (l.handling = true → l.clearDue = true → exec .handlingWindowEnd s =
        .next { s with flt := { s.flt with latch := none }, mate := { s.mate with takeBlock := false } }) ∧
      (l.handling = true → l.clearDue = false → exec .handlingWindowEnd s =
        .next { s with flt := { s.flt with latch := some { l with handling := false } } })) ∧
    (alive s = true → exec .aliveReadback s = .next (faultRaise 411 { s with flt := { s.flt with readbackOk := false } }) ∧
      exec (.emitterReadbackMismatch .txEn) s = .next (faultRaise 393 (portFaultEnds { s with radio := { s.radio with txBlocked := true } })) ∧
      ∀ l, exec (.emitterReadbackMismatch (.lantern l)) s = .next (lanternPinFault l.toNat s)) ∧
    (alive s = false → exec .aliveReadback s = .next s ∧ ∀ e, exec (.emitterReadbackMismatch e) s = .next s))

/-- A host's write of a register (R89 to R92, R103, R107, R507): nothing in DARK or for a disabled Seat; the whole value of the register, or a word held until the last one; a Keeper's
register refused, a read-only one left, hardware not fitted counted. The
model's readings: entries 10 to 13. -/
def Obligations.RegisterWords : Prop :=
  ∀ (w : HostWho) (o : BitVec 24) (v : BitVec 32) (s : State),
    let a := hostAgent w
    let off := o.toNat / 4 * 4
    let write := exec (.hostRegisterWrite w o v) s
    let held := (pathAt s a.pk).held
    let keyFree := s.led.keyWords = [] ∨ off = 0x7C0040 + 4 * s.led.keyWords.length
    (alive s = false ∨ seatEnabled s a.seat = false → write = .next s) ∧
    (∀ r, Reaches w off r s →
      (held = none → multiWord r.desc = false → write = .next (hostEnd a off (regWriteVal a r v.toNat s))) ∧
      (held = none → multiWord r.desc = true → r.word = 0 → write = .next (setHeld a.pk (some (r.key, [v.toNat])) s)) ∧
      (∀ ws, held = some (r.key, ws) → multiWord r.desc = true → r.word = ws.length → 0 < ws.length →
        (ws.length + 1 < (r.desc.bytes + 3) / 4 → write = .next (setHeld a.pk (some (r.key, ws ++ [v.toNat])) s)) ∧
        ((r.desc.bytes + 3) / 4 ≤ ws.length + 1 → write =
          .next (hostEnd a off (regWriteVal a r (wordsVal (ws ++ [v.toNat])) (setHeld a.pk none s)))))) ∧
    (alive s = true → seatEnabled s a.seat = true → keyFree → held = none → isObjOff off = false → isMemOff off = false →
      (regLocate off = none → write = .next s) ∧
      (∀ l, regLocate off = some l →
        (keeperOnly l.desc = true → a.seat ≠ 0 → write = .next (refuseHost a off 0x15 s)) ∧
        (keeperOnly l.desc = false ∨ a.seat = 0 →
          (regAt s a.seat a.pk off true = .notFitted → write = .next (notFitted a off s)) ∧
          (∀ r, regAt s a.seat a.pk off true = .reg r →
            (readOnly r.desc = true → write = .next s) ∧
            (readOnly r.desc = false → mayWrite a.seat r = false → write = .next (refuseHost a off 0x15 s))))))

/-- The command registers (R39, R43, R45, R47, R52, R70, R72, R85, R137, R148, R175, R188, R194, R195, R201, R267): what a write of each does, by the row's
name of its code; and that each is accepted, with its own effect, where the Seat may write the register, the block's state allows the command and the ledger
has room for its record. The model's readings: entries 11 to 13. -/
def Obligations.CommandRegisters : Prop :=
  (∀ (w : HostWho) (v : BitVec 32) (s : State),
    let a := hostAgent w
    let n := v.toNat
    Writes (.hostErrClr w v) w 0x124 .hostErrClr s (fun _ => (0, clearPathCounts a.pk s)) ∧
    Writes (.calendarAdd w v) w 0x10B0 .ltCalCtl s (fun _ => (0, (calControl a (setBits n 0 2 1) s).2)) ∧
    Writes (.calendarRemove w v) w 0x10B0 .ltCalCtl s (fun _ => (0, (calControl a (setBits n 0 2 2) s).2)) ∧
    Writes (.commitGo w v) w 0x1094 .ltCommitCtl s (fun _ => (0, (commitControl a (setBit (clrBit n 2) 0) s).2)) ∧
    Writes (.commitCancel w v) w 0x1094 .ltCommitCtl s (fun _ => (0, (commitControl a (setBit (clrBit n 0) 2) s).2)) ∧
    Writes (.release w v) w 0x410 .pwrStageCtl s (fun _ => (0, (stageControl a (setBits n 0 2 1) s).2)) ∧
    Writes (.advance w v) w 0x410 .pwrStageCtl s (fun _ => (0, (stageControl a (setBits n 0 2 2) s).2)) ∧
    Writes (.warmResetArm w v) w 0x418 .pwrResetCtl s (fun _ => (0, { s with pwr := { s.pwr with warmArmed := true } })) ∧
    Writes (.warmResetFire w v) w 0x418 .pwrResetCtl s (fun _ =>
      (0, if s.pwr.warmArmed then (warmFire a { s with pwr := { s.pwr with warmArmed := false } }).2 else { s with pwr := { s.pwr with warmArmed := false } })) ∧
    (∀ j : BitVec 3, Writes (.ledgerKeyWrite w j v) w (0x7C0040 + 4 * j.toNat) .ledgerKey s (fun r => keyWord a r.j n s)) ∧
    Writes (.ledgerSpillConsWrite w v) w 0x7C0028 .ledgerSpillCons s (fun _ => spillCons a n s) ∧
    (∀ k : BitVec 6,
      Writes (.stStart w k v) w (0x40008 + 0x100 * k.toNat) .stCmd s (fun r => stCommand a r.i (setBits n 0 3 1) s) ∧
      Writes (.stRetry w k v) w (0x40008 + 0x100 * k.toNat) .stCmd s (fun r => stCommand a r.i (setBits n 0 3 2) s) ∧
      Writes (.stSkip w k v) w (0x40008 + 0x100 * k.toNat) .stCmd s (fun r => stCommand a r.i (setBits n 0 3 3) s) ∧
      Writes (.stAbort w k v) w (0x40008 + 0x100 * k.toNat) .stCmd s (fun r => stCommand a r.i (setBits n 0 3 4) s) ∧
      (∀ o : BitVec 8,
        Writes (.stCtxWrite w k o v) w (0x40000 + 0x100 * k.toNat + o.toNat / 4 * 4) .stCtx s (fun r => ctxWrite a r.i (0x20 + 4 * r.j) n s) ∧
        Writes (.stCtxWrite w k o v) w (0x40000 + 0x100 * k.toNat + o.toNat / 4 * 4) .stG s (fun r => ctxWrite a r.i (0x40 + 4 * r.j) n s))) ∧
    (∀ high : Bool, Writes (.stEventSet w high v) w (if high then 0x48004 else 0x48000) .stEventSet s
      (fun r => (0, eventSetWrite a.seat (r.j == 1) n s))) ∧
    (∀ c : BitVec 5,
      Writes (.dmaStart w c v) w (0x21008 + 0x40 * c.toNat) .dmaChCmd s (fun r => dmaCommand a r.i (setBits n 0 2 1) s) ∧
      Writes (.dmaStop w c v) w (0x21008 + 0x40 * c.toNat) .dmaChCmd s (fun r => dmaCommand a r.i (setBits n 0 2 2) s)) ∧
    (∀ p : BitVec 4, Writes (.lpCntClr w p v) w (0x80140 + 0x4000 * p.toNat) .lpCntClr s
      (fun r => (0, setPort r.i { portAt s r.i with cntClr := true } s))) ∧
    Writes (.retest w v) w 0x100110 .fabRotCmd s (fun _ => (0, (hostRotCmd a (setBits n 0 2 1) s).2)) ∧
    Writes (.swapSuspect w v) w 0x100110 .fabRotCmd s (fun _ => (0, (hostRotCmd a (setBits n 0 2 2) s).2)) ∧
    Writes (.stepNow w v) w 0x100110 .fabRotCmd s (fun _ => (0, (hostRotCmd a (setBits n 0 2 3) s).2))) ∧
  (∀ (w : HostWho) (v : BitVec 32) (s : State),
    let a := hostAgent w
    let n := v.toNat
    let always (i : Instr) (off : Nat) (nm : RegName) (post : RegAt → State → Prop) : Prop := Completes i w off nm s (fun _ => True) post
    let takes (i : Instr) (off : Nat) (nm : RegName) (ok : RegAt → Prop) (post : RegAt → State → Prop) : Prop :=
      Completes i w off nm s (fun r => LedgerTakes s ∧ ok r) post
    always (.hostErrClr w v) 0x124 .hostErrClr (fun _ t => t = clearPathCounts a.pk s) ∧
    (∀ (idx p : Nat) (moved : Bool),
      let x := rget s (kS a.seat 0x10A0)
      let tod := rget s (kS a.seat 0x1088)
      let pos : Int := if bit n 2 then todToPos s (bits tod 32 48) (bits tod 0 32) else ((bits x 0 48 * 19440 + bits x 48 16 : Nat) : Int)
      takes (.calendarAdd w v) 0x10B0 .ltCalCtl
        (fun _ => mirrorRefused s = false ∧ bits x 84 3 ≠ 0 ∧ calTargetOk s a.seat (bits x 80 4) (bits x 96 16) = true ∧
          (bit n 2 = true ∨ bits x 48 16 < 19440) ∧ calFree s a.seat = some idx ∧ lateRule s pos = if moved then .delayed p else .onTime p)
        (fun _ t => (∃ q, calAt t idx =
            { frame := p / 19440, phase := (pos % 19440).toNat, repeatN := bits x 64 16, kind := bits x 80 4, cls := bits x 84 3, seat := a.seat
              target := bits x 96 16, arg := bits x 112 16, fromEpoch := false, seq := q, moved := moved, reqFrame := pos / 19440 }) ∧
          (seatLt t a.seat).calOutcome = b2n moved ∧ (seatLt t a.seat).calIndex = idx)) ∧
    (let i := bits n 16 10
     takes (.calendarRemove w v) 0x10B0 .ltCalCtl
      (fun _ => mirrorRefused s = false ∧ (calAt s i).kind ≠ 0 ∧ (calAt s i).kind ≠ 3 ∧ (a.seat = 0 ∨ (calAt s i).seat = a.seat))
      (fun _ t => calAt t i = .empty ∧ (seatLt t a.seat).calOutcome = 0)) ∧
    (∀ (p idx : Nat) (moved : Bool) (new : List (Nat × Nat)),
      let tod := rget s (kS a.seat 0x1088)
      let target : Int := if bit n 1 then todToPos s (bits tod 32 48) (bits tod 0 32) else ((bits (rget s (kS a.seat 0x1080)) 0 48 * 19440 : Nat) : Int)
      Completes (.commitGo w v) w 0x1094 .ltCommitCtl s (fun _ => GoOk a target s p moved idx new) (fun _ t =>
        Joined a.seat (goFrame s (goWrites s a.seat new) p) (goWrites s a.seat new) s t ∧ (seatLt t a.seat).group = [] ∧ (seatLt t a.seat).outcome = 0x02)) ∧
    (∀ g, Completes (.commitCancel w v) w 0x1094 .ltCommitCtl s (fun _ => CancelOk a (bits n 8 8) s g) (fun _ t =>
      t.lt.groups = s.lt.groups.filter (fun h => ¬ (h.seat = g.seat ∧ h.ident = g.ident)) ∧ (seatLt t a.seat).outcome = 0)) ∧
    takes (.release w v) 0x410 .pwrStageCtl (fun _ => s.pwr.bootHold = true ∧ s.pwr.stage = .safe ∧ s.pwr.released = false) (fun _ t =>
      t.pwr.released = true ∧ t.pwr.stageOutcome = 0) ∧
    takes (.advance w v) 0x410 .pwrStageCtl (fun _ => s.pwr.stage = .framed ∧ s.pwr.advPending = false) (fun _ t =>
      t.pwr.advPending = true ∧ t.pwr.stageOutcome = 0x02) ∧
    always (.warmResetArm w v) 0x418 .pwrResetCtl (fun _ t => t = { s with pwr := { s.pwr with warmArmed := true } }) ∧
    Completes (.warmResetFire w v) w 0x418 .pwrResetCtl s (fun _ => s.pwr.warmArmed = true ∧
        LedgerTakes { s with pwr := { s.pwr with warmArmed := false } }) (fun _ t => t.pwr.stage = .dark ∧ t.pwr.warmPending = true) ∧
    (∀ j : BitVec 3,
      always (.ledgerKeyWrite w 0 v) 0x7C0040 .ledgerKey (fun r t => r.j = 0 → t.led.keyWords = [n]) ∧
      takes (.ledgerKeyWrite w j v) (0x7C0040 + 4 * j.toNat) .ledgerKey (fun r => r.j = j.toNat ∧ j ≠ 0 ∧ s.led.keyWords.length = j.toNat) (fun _ t =>
        (j ≠ 7 → t.led.keyWords = s.led.keyWords ++ [n]) ∧
        (j = 7 → t.led.keyWords = [] ∧ t.pwr.ret.key = (s.led.keyWords ++ [n]).flatMap (leBytes 4)))) ∧
    Completes (.ledgerSpillConsWrite w v) w 0x7C0028 .ledgerSpillCons s
      (fun _ => (n + 2 ^ 32 - s.led.cons) % 2 ^ 32 ≤ (spillProd s + 2 ^ 32 - s.led.cons) % 2 ^ 32)
      (fun _ t => let u := { s with led := { s.led with cons := n } }
        t = if spillEn s && spillPull s then reportLoss (ledgerDrain (releaseTo n u)) else u) ∧
    (∀ k : BitVec 6,
      let off := 0x40008 + 0x100 * k.toNat
      let ends (r : RegAt) (cmd o : Nat) (f : State → State) (t : State) : Prop :=
        Recorded a 1 (0x40008 + 0x100 * r.i) 0 cmd [] s (fun u => countOutcome a.seat o (modStrand r.i (fun x => { x with lastOutcome := o }) (f u))) t
      let mode (r : RegAt) : StrandMode := (strandAt s r.i).mode
      takes (.stStart w k v) off .stCmd (fun r => mode r = .idle) (fun r t =>
        ends r 1 0 (fun u => startIdle r.i (BitVec.ofNat 32 (stArgOf u r.i)) u) t) ∧
      takes (.stStart w k v) off .stCmd (fun r => mode r ≠ .idle ∧ mode r ≠ .disabled ∧ (strandAt s r.i).pending = none) (fun r t =>
        ends r 1 0x02 (fun u => setStrand r.i { strandAt u r.i with pending := some (BitVec.ofNat 32 (stArgOf u r.i)) } u) t) ∧
      takes (.stRetry w k v) off .stCmd (fun r => mode r = .trapped) (fun r t => ends r 2 0 (resumeStrand r.i false) t) ∧
      takes (.stSkip w k v) off .stCmd (fun r => mode r = .trapped) (fun r t => ends r 3 0 (resumeStrand r.i true) t) ∧
      takes (.stAbort w k v) off .stCmd (fun r => mode r ≠ .disabled) (fun r t => ends r 4 0 (abortBy a r.i) t) ∧
      (∀ o : BitVec 8,
        takes (.stCtxWrite w k o v) (0x40000 + 0x100 * k.toNat + o.toNat / 4 * 4) .stCtx (fun r => mode r = .idle ∨ mode r = .trapped) (fun r t =>
          strandAt t r.i = ctxPut (0x20 + 4 * r.j) n (strandAt s r.i)) ∧
        takes (.stCtxWrite w k o v) (0x40000 + 0x100 * k.toNat + o.toNat / 4 * 4) .stG (fun r => mode r = .idle ∨ mode r = .trapped) (fun r t =>
          strandAt t r.i = ctxPut (0x40 + 4 * r.j) n (strandAt s r.i)))) ∧
    (∀ high : Bool, always (.stEventSet w high v) (if high then 0x48004 else 0x48000) .stEventSet (fun r t => t = eventSetWrite a.seat (r.j == 1) n s)) ∧
    (∀ c : BitVec 5,
      takes (.dmaStart w c v) (0x21008 + 0x40 * c.toNat) .dmaChCmd
        (fun r => ((chanAt s r.i).mode = .idle ∨ (chanAt s r.i).mode = .faulted) ∧
          ∀ u, ledgerMgmt a 1 (0x21008 + 0x40 * r.i) 0 1 false [] s = some u → descReach u (chanSeat u r.i) (chanDesc u r.i) = true)
        (fun r t => Recorded a 1 (0x21008 + 0x40 * r.i) 0 1 [] s (fun u =>
          let x := runDesc chainMax r.i (chanDesc u r.i) u
          countOutcome (chanSeat s r.i) 0 (setChan r.i { chanAt x r.i with startOutcome := 0 } x)) t) ∧
      takes (.dmaStop w c v) (0x21008 + 0x40 * c.toNat) .dmaChCmd (fun _ => True) (fun r t =>
        Recorded a 1 (0x21008 + 0x40 * r.i) 0 2 [] s (fun u => countOutcome (chanSeat s r.i) 0 (dmaStop r.i u)) t)) ∧
    (∀ p : BitVec 4, always (.lpCntClr w p v) (0x80140 + 0x4000 * p.toNat) .lpCntClr (fun r t => t = setPort r.i { portAt s r.i with cntClr := true } s)) ∧
    (let lo := bit n 2
     let r := rotAt s lo
     let rest := (tileAt lo r r.resting).mode
     let ends (cmd : Nat) (f : Rotation → Rotation) (t : State) : Prop :=
      Recorded a 1 0x100110 0 (setBits n 0 2 cmd % 8) [] s (fun u => countOutcome 0 0 (modRot lo (fun q => { q with cmdOutcome := 0 })
        (modRot lo f (tileRecord lo r.resting (serverOf lo r r.cursor) 6 r.cursor u)))) t
     takes (.retest w v) 0x100110 .fabRotCmd (fun _ => rest = .failed ∨ rest = .suspect) (fun _ t =>
       ends 1 (fun q => modTile lo r.resting (fun x => { x with runPass := 0 }) { q with retest := 4 }) t) ∧
     takes (.swapSuspect w v) 0x100110 .fabRotCmd (fun _ => r.phase = .halted ∧ (tileAt lo r (serverOf lo r r.cursor)).mode = .suspect ∧
         rbit s (kP 0x100000) 4 = false) (fun _ t =>
       ends 2 (fun q => { q with phase := .waitSwap, suspectSwap := true, handover := s.lt.frame + 1 }) t) ∧
     takes (.stepNow w v) 0x100110 .fabRotCmd (fun _ => rotEn s lo = true ∧ r.phase = .bist) (fun _ t => ends 3 (fun q => { q with stepDue := true }) t)))

/-- The command registers of the later blocks (R288, R291, R305, R308, R369, R384, R390, R403, R418, R433, R443, R477, R486), and the commands of a protection object
through the object aperture (R270, R284); and that each is accepted, with its own effect, where the Seat may give it, the block's state allows it and the ledger has
room for its record. The model's readings: entries 12 and 13. -/
def Obligations.BlockCommands : Prop :=
  (∀ (w : HostWho) (v : BitVec 32) (s : State),
    let a := hostAgent w
    let n := v.toNat
    Writes (.pxAttach w v) w 0xC0330 .pxCmd s (fun _ => (0, (pxCommand a (setBits n 24 2 1) s).2)) ∧
    Writes (.pxDetach w v) w 0xC0330 .pxCmd s (fun _ => (0, (pxCommand a (setBits n 24 2 2) s).2)) ∧
    Writes (.overrideSet w v) w 0xC0200 .pxOverride s (fun _ => (0, (hostOverride a (setBits n 24 2 1) s).2)) ∧
    Writes (.overrideClear w v) w 0xC0200 .pxOverride s (fun _ => (0, (hostOverride a (setBits n 24 2 2) s).2)) ∧
    Writes (.mateRelease w v) w 0xD0010 .mateCmd s (fun _ => (0, (mateCommand a (setBits n 0 2 1) s).2)) ∧
    Writes (.mateTake w v) w 0xD0010 .mateCmd s (fun _ => (0, (mateCommand a (setBits n 0 2 2) s).2)) ∧
    Writes (.mateResync w v) w 0xD0010 .mateCmd s (fun _ => (0, (mateCommand a (setBits n 0 2 3) s).2)) ∧
    (∀ i : BitVec 1,
      Writes (.i2cSubmit w i v) w (0x4A0004 + 0x1000 * i.toNat) .ciCmd s
        (fun r => (0, ciCommand a r.i (rget s (kPath a.pk (0x4A0020 + 0x1000 * r.i))) (setBits n 0 2 1) s)) ∧
      Writes (.i2cFlush w i v) w (0x4A0004 + 0x1000 * i.toNat) .ciCmd s
        (fun r => (0, ciCommand a r.i (rget s (kPath a.pk (0x4A0020 + 0x1000 * r.i))) (setBits n 0 2 2) s))) ∧
    Writes (.scanSubmit w v) w 0x500140 .scanCmd s (fun _ => (0, scanCommand a (setBits n 0 2 1) s)) ∧
    Writes (.scanCancel w v) w 0x500140 .scanCmd s (fun _ => (0, scanCommand a (setBits n 0 2 2) s)) ∧
    Writes (.scanBistStart w v) w 0x500810 .scanBistCmd s (fun r => bistStart a r (setBit n 0) scanBistOrder s) ∧
    Writes (.radioSubmit w v) w 0x600480 .radioCmd s (fun _ => (0, (radioCommand a (setBits n 0 2 1) s).2)) ∧
    Writes (.radioCancel w v) w 0x600480 .radioCmd s (fun _ => (0, (radioCommand a (setBits n 0 2 2) s).2)) ∧
    Writes (.radioAdmit w v) w 0x600480 .radioCmd s (fun _ => (0, (radioCommand a (setBits n 0 2 3) s).2)) ∧
    Writes (.radioBistStart w v) w 0x600498 .radioBistCmd s (fun r => bistStart a r (setBit n 0) radioBistOrder s) ∧
    Writes (.fcFirstClr w v) w 0x780910 .fcFirstClr s (fun _ => (0, (firstClear a (setBit n 31) s).2)) ∧
    Writes (.bookCntClr w v) w 0x548 .bookCntClr s (fun _ => (0, clearOutcomes a.seat s))) ∧
  (∀ (w : HostWho) (v : BitVec 32) (s : State),
    let a := hostAgent w
    let n := v.toNat
    let takes (i : Instr) (off : Nat) (nm : RegName) (ok : RegAt → Prop) (post : RegAt → State → Prop) : Prop :=
      Completes i w off nm s (fun r => LedgerTakes s ∧ ok r) post
    (∀ q p j,
      let x := rget s (kPath a.pk 0xC0300)
      let body := { bodyOf x with port := p }
      Completes (.pxAttach w v) w 0xC0330 .pxCmd s (fun _ => AttachOk a (bits n 0 24) x s q p j) (fun _ t =>
        Staged a.seat (expectKey j) (bodyVal body) s t ∧ expectAt t j = some ⟨body, q, a.seat, .pending, 0, 0, 0, 0, 0, 0⟩ ∧
        (pathAt t a.pk).pxOutcome = 0 ∧ (pathAt t a.pk).pxIndex = j) ∧
      Completes (.pxDetach w v) w 0xC0330 .pxCmd s (fun _ => DetachOk a (bits n 0 24) (bits n 26 1) s q j) (fun _ t =>
        Staged a.seat (expectKey j) 0 s t ∧ (pathAt t a.pk).pxOutcome = 0 ∧ (pathAt t a.pk).pxIndex = j)) ∧
    (∀ c : Nat,
      let ok : Prop := connOfAddr (bits n 0 24) = some c ∧ connExpects s c ≠ [] ∧ mirrorRefused s = false
      takes (.overrideSet w v) 0xC0200 .pxOverride (fun _ => ok) (fun _ t => (connAt t c).override = true ∧ t.prot.overrideOutcome = 0) ∧
      takes (.overrideClear w v) 0xC0200 .pxOverride (fun _ => ok ∧ (connAt s c).override = true) (fun _ t =>
        (connAt t c).override = false ∧ t.prot.overrideOutcome = 0)) ∧
    takes (.mateRelease w v) 0xD0010 .mateCmd (fun _ => releaseOk s = true ∧ s.mate.relDue = none) (fun _ t =>
      t.mate.relDue = some (cycleUp (s.lt.frame + (if s.lt.phase = 0 then 2 else 3)) / 16, 1) ∧ t.mate.cmdOutcome = 0) ∧
    takes (.mateTake w v) 0xD0010 .mateCmd (fun _ => s.mate.rein = .standby ∧ bothSilent s = true ∧ s.lt.countOk = true) (fun _ t =>
      t.mate.takeDue = some ⟨cycleNow s + 1, 7, 0, 0, a.path, a.unit⟩ ∧ t.mate.cmdOutcome = 0) ∧
    Completes (.mateResync w v) w 0xD0010 .mateCmd s (fun _ => s.mate.rein = .out ∧ LedgerQuiet s 2) (fun _ t =>
      t.mate.rein = .standby ∧ t.mate.sync = .unsynced ∧ t.mate.cmdOutcome = 0) ∧
    (∀ i : BitVec 1,
      let job (r : RegAt) : Nat := rget s (kPath a.pk (0x4A0020 + 0x1000 * r.i))
      Completes (.i2cSubmit w i v) w (0x4A0004 + 0x1000 * i.toNat) .ciCmd s
        (fun r => jobOk (job r) = true ∧ (bit (job r) 11 = false ∨ (ownedPhys s a.seat 144 (bits (job r) 24 3)).isSome = true) ∧
          (i2cAt s r.i).queue.length < 16)
        (fun r t => (i2cAt t r.i).outcome = 0x02 ∧ ∃ j : I2cJob, (i2cAt t r.i).queue = (i2cAt s r.i).queue ++ [j] ∧
          j.ident = (i2cAt s r.i).nextId ∧ j.seat = a.seat ∧ j.body = job r) ∧
      Completes (.i2cFlush w i v) w (0x4A0004 + 0x1000 * i.toNat) .ciCmd s (fun _ => True) (fun r t => (i2cAt t r.i).queue = [])) ∧
    (∀ (p : Nat) (moved : Bool),
      let x := rget s (kPath a.pk 0x500100)
      Completes (.scanSubmit w v) w 0x500140 .scanCmd s (fun _ => ScanOk a.seat x s p moved) (fun _ t =>
        Posted a.seat x p s t ∧ (pathAt t a.pk).scanOutcome = 0x02 ∧ (pathAt t a.pk).scanJob = s.scan.nextId)) ∧
    (∀ j : ScanJob,
      let i := bits n 16 16
      Completes (.scanCancel w v) w 0x500140 .scanCmd s (fun _ => jobAt s i = some j ∧ j.seat = a.seat ∧ j.busy = false ∧ j.tries = 0) (fun _ t =>
        t = modPath a.pk (fun p => { p with scanOutcome := 0, scanJob := i }) (endUnexposed j 0 0 true s))) ∧
    takes (.scanBistStart w v) 0x500810 .scanBistCmd (fun _ => True) (fun r t => Recorded a 1 (regOffset r) 0 1 [] s scanBistOrder t) ∧
    (∀ (pay : List Byte) (p : Nat),
      let x := rget s (kPath a.pk 0x600400)
      Completes (.radioSubmit w v) w 0x600480 .radioCmd s (fun _ => RadioOk a.seat x s pay p) (fun _ t =>
        Queued a.seat x p s t ∧ (pathAt t a.pk).radioFrame = s.radio.nextId)) ∧
    (∀ f : RadioFrame,
      let i := bits n 16 16
      Completes (.radioCancel w v) w 0x600480 .radioCmd s (fun _ => frameAt s i = some f ∧ f.seat = a.seat ∧ f.txPos = none) (fun _ t =>
        t = modPath a.pk (fun p => { p with radioOutcome := 0, radioFrame := i }) (radioEnd f 0 9 s))) ∧
    (let i := bits n 16 16
     takes (.radioAdmit w v) 0x600480 .radioCmd (fun _ => i < 512 ∧ (nbrAt s i).state = .dropped) (fun _ t =>
      (nbrAt t i).state = .new ∧ (pathAt t a.pk).radioOutcome = 0)) ∧
    takes (.radioBistStart w v) 0x600498 .radioBistCmd (fun _ => True) (fun r t => Recorded a 1 (regOffset r) 0 1 [] s radioBistOrder t) ∧
    (∀ l : FaultLatch, takes (.fcFirstClr w v) 0x780910 .fcFirstClr (fun _ => s.flt.latch = some l ∧ l.source = bits n 0 9) (fun _ t =>
      t.flt.latch = (if l.handling then some { l with clearDue := true } else none) ∧ t.flt.clrOutcome = 0)) ∧
    Completes (.bookCntClr w v) w 0x548 .bookCntClr s (fun _ => True) (fun _ t => t = clearOutcomes a.seat s)) ∧
  (∀ (w : HostWho) (addr : BitVec 24) (s : State),
    let a := hostAgent w
    let n := addr.toNat
    let word := if 0x440000 ≤ n ∧ n < 0x440200 then n / 32 * 32 + 4 else n / 16 * 16 + 12
    let does (i : Instr) (code : Nat) : Prop :=
      (∀ o, protWrite a word code s = some o → exec i s = .next (hostEnd a (apertureOff word) o)) ∧
      (protWrite a word code s = none → exec i s = .next (notFitted a (apertureOff word) s))
    alive s = true → seatEnabled s a.seat = true → s.led.keyWords = [] → (pathAt s a.pk).held = none → isHoAddr word = false → connOfAddr word = none →
    does (.clear w addr) 0 ∧ does (.lockout w addr) 1 ∧ does (.forceP w addr) 2 ∧ does (.forceW w addr) 3 ∧ does (.manualP w addr) 4 ∧
    does (.manualW w addr) 5 ∧ does (.exercise w addr) 6 ∧ does (.condSfW w addr) 8 ∧ does (.condSdW w addr) 9 ∧ does (.condClrW w addr) 10 ∧
    does (.condSfP w addr) 11 ∧ does (.condSdP w addr) 12 ∧ does (.condClrP w addr) 13) ∧
  (∀ (w : HostWho) (addr : BitVec 24) (s : State) (r : ProtRef) (k : Nat),
    let a := hostAgent w
    let n := addr.toNat
    let word := if 0x440000 ≤ n ∧ n < 0x440200 then n / 32 * 32 + 4 else n / 16 * 16 + 12
    let acts (i : Instr) (code : Nat) : Prop := CommandOk s r code → ∃ t, exec i s = .next t ∧ ctlAt t r = cmdApply false code (ctlAt s r)
    alive s = true → seatEnabled s a.seat = true → s.led.keyWords = [] → (pathAt s a.pk).held = none → isHoAddr word = false → connOfAddr word = none →
    protAt s a.seat word = some (r, k) →
    acts (.clear w addr) 0 ∧ acts (.lockout w addr) 1 ∧ acts (.forceP w addr) 2 ∧ acts (.forceW w addr) 3 ∧ acts (.manualP w addr) 4 ∧
    acts (.manualW w addr) 5 ∧ acts (.exercise w addr) 6 ∧ acts (.condSfW w addr) 8 ∧ acts (.condSdW w addr) 9 ∧ acts (.condClrW w addr) 10 ∧
    acts (.condSfP w addr) 11 ∧ acts (.condSdP w addr) 12 ∧ acts (.condClrP w addr) 13)

/-- The rows that write a register of fields (R30, R124, R148, R189, R260, R310, R350, R353, R355, R391, R409, R431, R444, R452, R459, R478, R495), or several words lowest
first (R39, R243, R418, R430, R457); and that each stores its value, with what follows from it, where the value is one that the register takes and the
ledger has room for its record. The model's readings: entry 12. -/
def Obligations.FieldRegisters : Prop :=
  (∀ (w : HostWho) (v : BitVec 32) (s : State),
    let a := hostAgent w
    let n := v.toNat
    let fields (i : Instr) (off : Nat) (nm : RegName) (x : Nat) : Prop := Writes i w off nm s (fun r => regApply a r x s)
    fields (.hostBindWrite w v) 0x100 .hostBind n ∧ fields (.clrEvents w v) 0x1004 .ltCtl (setBit n 4) ∧
    fields (.ledgerSpillCtlWrite w v) 0x7C0010 .ledgerSpillCtl n ∧
    (∀ k : BitVec 6, fields (.stCtlWrite w k v) (0x40000 + 0x100 * k.toNat) .stCtl n) ∧
    fields (.rotEnWrite w v) 0x100000 .fabCtl n ∧ fields (.mateEnWrite w v) 0xD0000 .mateCtl n ∧
    (∀ k : BitVec 1, fields (.crCfgWrite w k v) (0x400000 + 0x100 * k.toNat) .crCfg n) ∧
    (∀ c : BitVec 3, fields (.camBindWrite w c v) (0x400800 + 4 * c.toNat) .camBind n ∧
      fields (.camCfgWrite w c v) (0x410000 + 0x10000 * c.toNat) .camCfg n) ∧
    fields (.scanDisable w v) 0x500000 .scanCfg (clrBit n 0) ∧ fields (.radioDisable w v) 0x600000 .radioCfg (clrBit n 0) ∧
    fields (.radioFcOutWrite w v) 0x600030 .radioFcOut n ∧
    (∀ c : BitVec 5, fields (.monStep w c v) (0x700000 + 0x40 * c.toNat) .monCfg (setBit n 24) ∧
      fields (.monCfgWrite w c v) (0x700000 + 0x40 * c.toNat) .monCfg n) ∧
    fields (.shedForceWrite w v) 0x70080C .monShedCtl n ∧ fields (.bookTokensWrite w v) 0x500 .bookTokens n ∧
    (bits n 0 9 ≤ 411 → fields (.injectOnce w v) 0x780920 .fcInject (setBits n 12 2 1) ∧ fields (.injectContinuous w v) 0x780920 .fcInject (setBits n 12 2 2) ∧
      fields (.injectPair w v) 0x780920 .fcInject (setBits n 12 2 3) ∧ fields (.injectStop w v) 0x780920 .fcInject (setBits n 12 2 0)) ∧
    (∀ (reply : BitVec 32) (r : RegAt), Reaches w 0x600000 r s → (pathAt s a.pk).held = none → r.desc.name = .radioCfg → multiWord r.desc = false →
      let t := hostEnd a 0x600000 (regApply a r (setBit n 0) s)
      exec (.radioEnable w v reply) s = .next 
        (if radioEn t = true ∧ radioEn s = false ∧ 3 ≤ t.pwr.stage.code ∧ bit t.pwr.vioOk 4 = true then identReply reply.toNat t else t))) ∧
  (∀ (w : HostWho) (s : State),
    let a := hostAgent w
    let wide (i : Instr) (off k x : Nat) : Prop :=
      (alive s = true → exec i s = .next (hostWords a off ((List.range k).map (fun j => x / 2 ^ (32 * j) % 2 ^ 32)) s)) ∧ (alive s = false → exec i s = .next s)
    (∀ v : BitVec 64, wide (.ltFrameLoadWrite w v) 0x1048 2 v.toNat ∧ wide (.monThermWrite w v) 0x700800 2 v.toNat) ∧
    (∀ (i : BitVec 9) (v : BitVec 256), wide (.radioNbrWrite w i v) (0x604000 + 32 * i.toNat) 8 v.toNat) ∧
    (∀ (k : BitVec 4) (v : BitVec 128), wide (.radioKeyWrite w k v) (0x600100 + 16 * k.toNat) 4 v.toNat) ∧
    (∀ (addr : BitVec 24) (v : BitVec 64),
      (isHoAddr addr.toNat = true → wide (.connEntryWrite w addr v) (addr.toNat / 8 * 8) 2 v.toNat) ∧
      (isHoAddr addr.toNat = false → isConnAddr addr.toNat = true → wide (.connEntryWrite w addr v) (addr.toNat / 4 * 4) 1 v.toNat) ∧
      (isHoAddr addr.toNat = false → isConnAddr addr.toNat = false → exec (.connEntryWrite w addr v) s = .next s))) ∧
  (∀ (w : HostWho) (v : BitVec 32) (s : State),
    let a := hostAgent w
    let n := v.toNat
    let stores (i : Instr) (off : Nat) (nm : RegName) (x : Nat) : Prop :=
      Completes i w off nm s (fun r => Accepts a r x s) (fun r t => Stores a r x s t)
    stores (.hostBindWrite w v) 0x100 .hostBind n ∧ stores (.clrEvents w v) 0x1004 .ltCtl (setBit n 4) ∧
    stores (.ledgerSpillCtlWrite w v) 0x7C0010 .ledgerSpillCtl n ∧
    (∀ k : BitVec 6, stores (.stCtlWrite w k v) (0x40000 + 0x100 * k.toNat) .stCtl n) ∧
    stores (.rotEnWrite w v) 0x100000 .fabCtl n ∧
    (∀ k : BitVec 1, stores (.crCfgWrite w k v) (0x400000 + 0x100 * k.toNat) .crCfg n) ∧
    (∀ c : BitVec 3, stores (.camBindWrite w c v) (0x400800 + 4 * c.toNat) .camBind n ∧
      stores (.camCfgWrite w c v) (0x410000 + 0x10000 * c.toNat) .camCfg n) ∧
    stores (.scanDisable w v) 0x500000 .scanCfg (clrBit n 0) ∧ stores (.radioDisable w v) 0x600000 .radioCfg (clrBit n 0) ∧
    stores (.radioFcOutWrite w v) 0x600030 .radioFcOut n ∧
    (∀ c : BitVec 5, stores (.monStep w c v) (0x700000 + 0x40 * c.toNat) .monCfg (setBit n 24) ∧
      stores (.monCfgWrite w c v) (0x700000 + 0x40 * c.toNat) .monCfg n) ∧
    stores (.shedForceWrite w v) 0x70080C .monShedCtl n ∧ stores (.bookTokensWrite w v) 0x500 .bookTokens n ∧
    (bits n 0 9 ≤ 411 → stores (.injectOnce w v) 0x780920 .fcInject (setBits n 12 2 1) ∧
      stores (.injectContinuous w v) 0x780920 .fcInject (setBits n 12 2 2) ∧ stores (.injectPair w v) 0x780920 .fcInject (setBits n 12 2 3) ∧
      stores (.injectStop w v) 0x780920 .fcInject (setBits n 12 2 0)) ∧
    Completes (.mateEnWrite w v) w 0xD0000 .mateCtl s (fun r => Accepts a r n s ∧ LedgerQuiet s 12) (fun r t =>
      ∃ u x, recordPart a r (regStored s r) (regNew s r n) s = some u ∧ mateCtlRecord a (regStored s r) (regNew s r n) u = some x ∧
        t = regHook a r (regStored s r) (regNew s r n) n (withReg r (regStored s r) (regNew s r n) x)) ∧
    (∀ reply : BitVec 32, Completes (.radioEnable w v reply) w 0x600000 .radioCfg s (fun r => Accepts a r (setBit n 0) s) (fun r t =>
      ∃ u, Stores a r (setBit n 0) s u ∧
        t = if radioEn u = true ∧ radioEn s = false ∧ 3 ≤ u.pwr.stage.code ∧ bit u.pwr.vioOk 4 = true then identReply reply.toNat u else u))) ∧
  (∀ (w : HostWho) (r : Nat → RegAt) (s : State),
    let a := hostAgent w
    (∀ v : BitVec 64,
      let stores (i : Instr) (off : Nat) (nm : RegName) : Prop :=
        ReachesWide w off 2 r s → (r 0).desc.name = nm → (∀ h, SameButPaths s h → Accepts a (r 1) v.toNat h) →
          ∃ h t, SameButPaths s h ∧ exec i s = .next t ∧ Stores a (r 1) v.toNat h t
      stores (.ltFrameLoadWrite w v) 0x1048 .ltFrameLoad ∧ stores (.monThermWrite w v) 0x700800 .monTherm) ∧
    (∀ (i : BitVec 9) (v : BitVec 256), ReachesWide w (0x604000 + 32 * i.toNat) 8 r s → (r 0).desc.name = .radioNbr → (r 7).j < 512 →
      (∀ h, SameButPaths s h → nbrOk h (r 7).j v.toNat = true ∧ LedgerTakes h) →
      ∃ t, exec (.radioNbrWrite w i v) s = .next t ∧ (nbrAt t (r 7).j).body = v.toNat &&& nbrMask) ∧
    (∀ (k : BitVec 4) (v : BitVec 128), ReachesWide w (0x600100 + 16 * k.toNat) 4 r s → (r 0).desc.name = .radioKey →
      (∀ h, SameButPaths s h → LedgerTakes h) →
      ∃ t, exec (.radioKeyWrite w k v) s = .next t ∧ tget 0 t.radio.keys (r 3).j = setBit v.toNat 128 ∧ t.radio.keyNeeded = false) ∧
    (∀ (addr : BitVec 24) (v : BitVec 64) (n x : Nat),
      let off := addr.toNat
      let takes (num y : Nat) : Prop := (∀ h, SameButPaths s h → ConnOk a num y h n x) →
        ∃ t, exec (.connEntryWrite w addr v) s = .next t ∧ Staged a.seat (connKey n) (setBits (entryNorm (isHo num) y) 0 14 x) s t
      alive s = true → seatEnabled s a.seat = true → s.led.keyWords = [] → (pathAt s a.pk).held = none →
      (isHoAddr off = true → takes ((off - 0x200000) / 8) v.toNat) ∧
      (∀ num, isHoAddr off = false → isConnAddr off = true → connOfAddr (off / 4 * 4) = some num → takes num (v.toNat % 2 ^ 32))))

/-- The host ports (R86, R105, R106, R108, R110 to R117, R119 to R124): reads, writes under byte enables, the functions of PCI Express and their resets, the
legacy bus's halves, SPI frames, the bindings, the board-management window. The
model's readings: entry 11. -/
def Obligations.HostPorts : Prop :=
  (∀ (w : HostWho) (o : BitVec 24) (s : State), alive s = true →
    let a := hostAgent w
    let off := o.toNat / 4 * 4
    (∃ t, exec (.snapshotRead w o) s = .next t ∧ t.host.readData = [(hostRead a off s).1] ∧ OnlyIn [.host] (hostRead a off s).2 t) ∧
    (∀ v : BitVec 32, exec (.hostMemoryWrite w o 0xF v) s = .next (hostWrite a off 0xF v.toNat s)) ∧
    (∀ (be : BitVec 4) (v : BitVec 32), be ≠ 0xF →
      (isMemOff off = true → exec (.hostMemoryWrite w o be v) s = .next (hostWrite a off be.toNat v.toNat s)) ∧
      (isMemOff off = false → exec (.hostMemoryWrite w o be v) s = .next (discardCount a (touch a none (dropKeyLoad off s)))))) ∧
  (∀ (r : PcieReq) (s : State),
    let n := r.fn.toNat
    let f := pcieFn s n
    let fnBecomes (g : PcieFn) : Prop := ∃ t, exec (.pcieRequest r) s = .next t ∧ pcieFn t n = g ∧ (∀ k, k ≠ n → pcieFn t k = pcieFn s k) ∧ OnlyIn [.host] s t
    (fnAnswers s n = false → exec (.pcieRequest r) s = .next { s with host := { s.host with readData := [] } }) ∧
    (fnAnswers s n = true →
      (∀ x, r.kind = .configRead x → exec (.pcieRequest r) s = .next { s with host := { s.host with readData := [pcieIdWord x (n ≠ 0)] } }) ∧
      (∀ mse bme, r.kind = .command mse bme → fnBecomes { f with mse := mse, bme := bme }) ∧
      (r.kind = .read → f.mse = true → ∃ t, exec (.pcieRequest r) s = .next t ∧
        t.host.readData = (hostReads ⟨n, 0, 0⟩ (r.off.toNat / 4 * 4) r.count.toNat s).1) ∧
      (r.kind = .write → f.mse = false → exec (.pcieRequest r) s = .next s) ∧
      (r.kind = .write → f.mse = true → r.poisoned = true → exec (.pcieRequest r) s = .next (aerSet n 12 (discardCount ⟨n, 0, 0⟩ s))) ∧
      (r.kind = .aerRead → exec (.pcieRequest r) s = .next { s with host := { s.host with readData := [f.aer] } }) ∧
      (∀ clr, r.kind = .aerWrite clr → fnBecomes { f with aer := clrMask f.aer clr.toNat }) ∧
      (∀ v, r.kind = .write → f.mse = true → r.poisoned = false → r.data = [v] →
        exec (.pcieRequest r) s = .next (hostWriteBe ⟨n, 0, 0⟩ (r.off.toNat / 4 * 4 % 2 ^ 24) r.firstBe.toNat v.toNat s)))) ∧
  (∀ s : State,
    (∀ lanes rate : BitVec 2, 2 ≤ s.pwr.stage.code → s.host.perst = false → s.host.linkUp = false → ∃ t, exec (.pcieLinkUp lanes rate) s = .next t ∧
      t.host.linkUp = true ∧ t.host.linkLanes = lanes.toNat ∧ t.host.linkRate = rate.toNat) ∧
    (s.host.linkUp = true → exec .pcieLinkDown s = .next (faultRaise 34 (aerSet 0 5 (linkDown s)))) ∧ (s.host.linkUp = false → exec .pcieLinkDown s = .next s) ∧
    (bit s.pwr.vioOk 7 = true → exec (.perstN true) s = .next { s with host := { s.host with perst := false } } ∧
      exec (.perstN false) s = .next (linkDown { s with host := { s.host with perst := true, fns := [] } })) ∧
    (bit s.pwr.vioOk 7 = false → ∀ high, exec (.perstN high) s = .next s) ∧
    (∀ fn : BitVec 4,
      let n := fn.toNat
      (fnAnswers s n = true → exec (.flr fn) s = .next (if n = 0 then setVfs false (flrClear 0 s) else flrClear n s)) ∧
      (fnAnswers s n = false → exec (.flr fn) s = .next s) ∧
      (∃ t, exec (.flrComplete fn) s = .next t ∧ pcieFn t n = { pcieFn s n with flr := false } ∧ (∀ k, k ≠ n → pcieFn t k = pcieFn s k) ∧
        OnlyIn [.host] s t)) ∧
    (lbServes s = true → s.host.lbPair = .none → ∀ addr : BitVec 23, isMemOff (2 * addr.toNat) = false →
      let a := lbAgent s
      let off := 2 * addr.toNat
      let mode := rbit s (kP 0x130) 0
      (addr.toNat % 2 = 0 → ∀ d, exec (.legacyBusAccess (.write addr d)) s = .next { s with host := { s.host with lbPair := .write off d.toNat, lbAck := mode } }) ∧
      (addr.toNat % 2 = 1 → ∀ d, exec (.legacyBusAccess (.write addr d)) s = .next (lbEnd mode (pairMiss a { s with host := { s.host with lbPair := .none } }))) ∧
      (addr.toNat % 2 = 0 → ∃ t, exec (.legacyBusAccess (.read addr)) s = .next t ∧ t.host.readData = [(hostRead a off s).1 % 65536] ∧
        t.host.lbPair = .read off ((hostRead a off s).1 / 65536 % 65536) ∧ t.host.lbAck = mode)) ∧
    (lbServes s = true → ∀ (addr : BitVec 23) (low : Nat) (d : BitVec 16), isMemOff (2 * addr.toNat) = false → addr.toNat % 2 = 1 →
      s.host.lbPair = .write (2 * addr.toNat / 4 * 4) low → exec (.legacyBusAccess (.write addr d)) s =
        .next (lbEnd (rbit s (kP 0x130) 0)
          (hostWrite (lbAgent s) (2 * addr.toNat / 4 * 4) 0xF (low + 65536 * d.toNat) { s with host := { s.host with lbPair := .none } }))) ∧
    (lbServes s = false → ∀ x, exec (.legacyBusAccess x) s = .next s) ∧
    (spiServes s = true → ∀ addr : BitVec 24, addr.toNat % 4 = 0 →
      (∀ words : List (BitVec 32), exec (.spiWrite addr words .none) s = .next
        { spiWords (spiAgent s) addr.toNat words { s with host := { s.host with readData := [] } } with
          host := { (spiWords (spiAgent s) addr.toNat words { s with host := { s.host with readData := [] } }).host with spiErrPrev := false } }) ∧
      (∀ words, exec (.spiWrite addr words .unknownCommand) s = .next (spiFrameError { s with host := { s.host with readData := [] } })) ∧
      (∀ n : BitVec 8, addr.toNat + 4 * (n.toNat + 1) ≤ 2 ^ 24 →
        let r := hostReads (spiAgent s) addr.toNat (n.toNat + 1) s
        ∃ t, exec (.spiRead addr n none .none) s = .next t ∧ t.host.readData = r.1.take n.toNat ∧ t.host.spiErrPrev = false ∧
          t.host.spiStatus = spiStatusByte s false ∧ OnlyIn [.host] r.2 t)) ∧
    (spiServes s = false → (∀ addr words bad, exec (.spiWrite addr words bad) s = .next s) ∧ ∀ addr n late bad, exec (.spiRead addr n late bad) s = .next s) ∧
    (∀ b, s.host.bindPending = some b → ∃ t, exec .hostBindApply s = .next t ∧ t.host.bind = b ∧ t.host.bindPending = none ∧ OnlyIn [.host] s t) ∧
    (s.host.bindPending = none → exec .hostBindApply s = .next s) ∧
    (s.pwr.pwrGood = true → exec .i2cWindowReady s = .next { s with host := { s.host with i2cReady := true } }) ∧
    (s.pwr.pwrGood = false → exec .i2cWindowReady s = .next s) ∧
    (i2cServes s = true →
      (∀ (p : Byte) (rest : List Byte), exec (.i2cWrite (p :: rest)) s =
        .next { s with host := { s.host with i2cPtr := p.toNat, i2cDrop := satAdd 255 s.host.i2cDrop rest.length } }) ∧
      (∀ n : BitVec 9, exec (.i2cRead n) s = .next { s with host := { s.host with
        i2cPtr := (s.host.i2cPtr + n.toNat) % 256
        readData := (List.range n.toNat).map (fun k => i2cByte s ((s.host.i2cPtr + k) % 256)) } })) ∧
    (i2cServes s = false → (∀ bytes, exec (.i2cWrite bytes) s = .next s) ∧
      ∀ n, exec (.i2cRead n) s = .next { s with host := { s.host with readData := [] } }))
end

