-- ==== Sys2Proof/Laws/Table.lean ====
section
/-!
SUPPORT. The laws of sparse arrays, of the SRAM and of the register store: what is read after a write, and that every write keeps the
canonical form.
-/
namespace Sys2Proof.Machine

open Sys2Proof

/-! ## Sparse arrays -/

@[simp] theorem tget_nil {α : Type} (d : α) (k : Nat) : tget d [] k = d := rfl

theorem tget_tdel {α : Type} (d : α) (t : Tab α) (k j : Nat) :
    tget d (tdel t k) j = if k = j then d else tget d t j := by
  induction t with
  | nil => simp [tdel]
  | cons e t ih =>
    obtain ⟨i, v⟩ := e
    by_cases hik : i = k <;> by_cases hij : i = j <;> by_cases hkj : k = j <;> simp_all [tdel, tget]

theorem tget_tins_self {α : Type} (d : α) (t : Tab α) (k : Nat) (v : α) : tget d (tins (tdel t k) k v) k = v := by
  induction t with
  | nil => simp [tdel, tins, tget]
  | cons e t ih =>
    obtain ⟨i, w⟩ := e
    by_cases hik : i = k
    · simpa [tdel, hik] using ih
    · by_cases hki : k < i <;> simp [tdel, hik, tins, hki, tget, ih]

theorem tget_tins_ne {α : Type} (d : α) (t : Tab α) (k j : Nat) (v : α) (h : k ≠ j) :
    tget d (tins t k v) j = tget d t j := by
  induction t with
  | nil => simp [tins, tget, h]
  | cons e t ih =>
    obtain ⟨i, w⟩ := e
    by_cases hki : k < i <;> simp [tins, tget, hki, h, ih]

/-- Reading back what was written, and everything else as before. -/
theorem tget_tset {α : Type} [DecidableEq α] (d : α) (t : Tab α) (k j : Nat) (v : α) :
    tget d (tset d t k v) j = if k = j then v else tget d t j := by
  by_cases hv : v = d
  · by_cases hkj : k = j <;> simp [tset, hv, tget_tdel, hkj]
  · by_cases hkj : k = j
    · subst hkj; simp [tset, hv, tget_tins_self]
    · simp [tset, hv, hkj, tget_tins_ne, tget_tdel]

@[simp] theorem tget_tset_self {α : Type} [DecidableEq α] (d : α) (t : Tab α) (k : Nat) (v : α) :
    tget d (tset d t k v) k = v := by simp [tget_tset]

theorem tget_tset_ne {α : Type} [DecidableEq α] (d : α) (t : Tab α) {k j : Nat} (v : α) (h : k ≠ j) :
    tget d (tset d t k v) j = tget d t j := by simp [tget_tset, h]

theorem tabWfFrom_mono {α : Type} [DecidableEq α] (d : α) (t : Tab α) {a b : Nat} (hab : a ≤ b)
    (h : tabWfFrom d b t = true) : tabWfFrom d a t = true := by
  cases t with
  | nil => rfl
  | cons e t => obtain ⟨i, v⟩ := e; simp [tabWfFrom] at h ⊢; exact ⟨⟨by omega, h.1.2⟩, h.2⟩

theorem tabWfFrom_tdel {α : Type} [DecidableEq α] (d : α) (t : Tab α) (k : Nat) {lo : Nat}
    (h : tabWfFrom d lo t = true) : tabWfFrom d lo (tdel t k) = true := by
  induction t generalizing lo with
  | nil => rfl
  | cons e t ih =>
    obtain ⟨i, v⟩ := e
    simp only [tabWfFrom, Bool.and_eq_true, decide_eq_true_eq] at h
    by_cases hik : i = k
    · simp only [tdel, hik, if_true]
      exact tabWfFrom_mono d _ (by omega) (ih h.2)
    · simp [tdel, hik, tabWfFrom, h.1.1, h.1.2, ih h.2]

theorem tabWfFrom_tins {α : Type} [DecidableEq α] (d : α) (t : Tab α) (k : Nat) (v : α) {lo : Nat} (hv : v ≠ d) (hlo : lo ≤ k)
    (h : tabWfFrom d lo (tdel t k) = true) : tabWfFrom d lo (tins (tdel t k) k v) = true := by
  induction t generalizing lo with
  | nil => simp [tdel, tins, tabWfFrom, hv, hlo]
  | cons e t ih =>
    obtain ⟨i, w⟩ := e
    by_cases hik : i = k
    · simp only [tdel, hik, if_true] at h ⊢
      exact ih hlo h
    · simp only [tdel, hik, if_false, tabWfFrom, Bool.and_eq_true, decide_eq_true_eq] at h ⊢
      by_cases hki : k < i
      · simp [tins, hki, tabWfFrom, hv, hlo, h.1.2, h.2]
      · simp [tins, hki, tabWfFrom, h.1.1, h.1.2]
        exact ih (by omega) h.2

/-- A write keeps the canonical form. -/
theorem tabWf_tset {α : Type} [DecidableEq α] (d : α) (t : Tab α) (k : Nat) (v : α) (h : tabWf d t = true) :
    tabWf d (tset d t k v) = true := by
  have hd := tabWfFrom_tdel d t k h
  by_cases hv : v = d
  · simpa [tabWf, tset, hv] using hd
  · simpa [tabWf, tset, hv] using tabWfFrom_tins d t k v hv (Nat.zero_le _) hd

theorem tabWfFrom_filter {α : Type} [DecidableEq α] (d : α) (t : Tab α) (p : Nat × α → Bool) {lo : Nat}
    (h : tabWfFrom d lo t = true) : tabWfFrom d lo (t.filter p) = true := by
  induction t generalizing lo with
  | nil => rfl
  | cons e t ih =>
    obtain ⟨i, v⟩ := e
    simp only [tabWfFrom, Bool.and_eq_true, decide_eq_true_eq] at h
    by_cases hp : p (i, v) = true
    · simp [List.filter, hp, tabWfFrom, h.1.1, h.1.2, ih h.2]
    · simp only [List.filter, hp]
      exact tabWfFrom_mono d _ (by omega) (ih h.2)

/-! ## The SRAM -/

@[simp] theorem Memory.wf_nil : Memory.wf [] = true := rfl

theorem Memory.wf_filter (m : List Host.Cell) (p : Host.Cell → Bool) (h : Memory.wf m = true) : Memory.wf (m.filter p) = true :=
  tabWfFrom_filter _ m p h

theorem sramGet_eq_tget (s : State) (a : Nat) : sramGet s a = tget 0 s.sram a := by
  unfold sramGet
  generalize s.sram = t
  induction t with
  | nil => rfl
  | cons e t ih =>
    obtain ⟨i, v⟩ := e
    by_cases h : i = a
    · simp [h, tget]
    · have : (i == a) = false := by simpa using h
      simpa [List.find?, this, tget, h] using ih

/-- A byte written reads back, and every other byte is as it was. -/
theorem sramGet_sramSet (s : State) (a b : Nat) (v : Byte) :
    sramGet (sramSet s a v) b = if a = b then v else sramGet s b := by
  simp [sramGet_eq_tget, sramSet, tget_tset]

theorem sramSet_wf (s : State) (a : Nat) (v : Byte) (h : Memory.wf s.sram = true) : Memory.wf (sramSet s a v).sram = true :=
  tabWf_tset _ _ _ _ h

/-- Bytes written from an address on: those addresses hold them, every other address what it held. -/
theorem sramGet_sramWrite (s : State) (a : Nat) (bs : List Byte) (b : Nat) :
    sramGet (sramWrite s a bs) b = if a ≤ b ∧ b < a + bs.length then bs.getD (b - a) 0 else sramGet s b := by
  induction bs generalizing s a with
  | nil =>
    have : ¬ (a ≤ b ∧ b < a + ([] : List Byte).length) := by simp
    rw [if_neg this]; rfl
  | cons x bs ih =>
    simp only [sramWrite, ih, sramGet_sramSet, List.length_cons]
    by_cases h1 : a + 1 ≤ b ∧ b < a + 1 + bs.length
    · have h2 : a ≤ b ∧ b < a + (bs.length + 1) := by omega
      have h3 : b - a = (b - (a + 1)) + 1 := by omega
      simp [h1, h2, h3]
    · by_cases hab : a = b
      · subst hab; simp
      · have h2 : ¬ (a ≤ b ∧ b < a + (bs.length + 1)) := by omega
        rw [if_neg h1, if_neg hab, if_neg h2]

theorem sramWrite_wf (s : State) (a : Nat) (bs : List Byte) (h : Memory.wf s.sram = true) : Memory.wf (sramWrite s a bs).sram = true := by
  induction bs generalizing s a with
  | nil => exact h
  | cons b bs ih => exact ih _ _ (sramSet_wf s a b h)

/-! ## The register store -/

theorem tgetO_tdel {α : Type} (t : Tab α) (k j : Nat) : tgetO (tdel t k) j = if k = j then none else tgetO t j := by
  induction t with
  | nil => simp [tdel, tgetO]
  | cons e t ih =>
    obtain ⟨i, v⟩ := e
    by_cases hik : i = k <;> by_cases hij : i = j <;> by_cases hkj : k = j <;> simp_all [tdel, tgetO]

theorem tgetO_tins_self {α : Type} (t : Tab α) (k : Nat) (v : α) : tgetO (tins (tdel t k) k v) k = some v := by
  induction t with
  | nil => simp [tdel, tins, tgetO]
  | cons e t ih =>
    obtain ⟨i, w⟩ := e
    by_cases hik : i = k
    · simpa [tdel, hik] using ih
    · by_cases hki : k < i <;> simp [tdel, hik, tins, hki, tgetO, ih]

theorem tgetO_tins_ne {α : Type} (t : Tab α) (k j : Nat) (v : α) (h : k ≠ j) : tgetO (tins t k v) j = tgetO t j := by
  induction t with
  | nil => simp [tins, tgetO, h]
  | cons e t ih =>
    obtain ⟨i, w⟩ := e
    by_cases hki : k < i <;> simp [tins, tgetO, hki, h, ih]

/-- A register stored reads back, and every other register is as it was. -/
theorem rget_rset (s : State) (k j v : Nat) : rget (rset s k v) j = if k = j then v else rget s j := by
  by_cases hkj : k = j
  · subst hkj
    by_cases hv : v = regReset k
    · simp [rget, rset, hv, tgetO_tdel]
    · simp [rget, rset, hv, tgetO_tins_self]
  · by_cases hv : v = regReset k
    · simp [rget, rset, hv, tgetO_tdel, hkj]
    · simp [rget, rset, hv, tgetO_tins_ne, tgetO_tdel, hkj]

@[simp] theorem rget_rset_self (s : State) (k v : Nat) : rget (rset s k v) k = v := by simp [rget_rset]

theorem rget_rset_ne (s : State) {k j : Nat} (v : Nat) (h : k ≠ j) : rget (rset s k v) j = rget s j := by simp [rget_rset, h]

theorem regsWfFrom_mono (t : Tab Nat) {a b : Nat} (hab : a ≤ b) (h : regsWfFrom b t = true) : regsWfFrom a t = true := by
  cases t with
  | nil => rfl
  | cons e t => obtain ⟨i, v⟩ := e; simp [regsWfFrom] at h ⊢; exact ⟨⟨by omega, h.1.2⟩, h.2⟩

theorem regsWfFrom_tdel (t : Tab Nat) (k : Nat) {lo : Nat} (h : regsWfFrom lo t = true) : regsWfFrom lo (tdel t k) = true := by
  induction t generalizing lo with
  | nil => rfl
  | cons e t ih =>
    obtain ⟨i, v⟩ := e
    simp only [regsWfFrom, Bool.and_eq_true, decide_eq_true_eq] at h
    by_cases hik : i = k
    · simp only [tdel, hik, if_true]
      exact regsWfFrom_mono _ (by omega) (ih h.2)
    · simp [tdel, hik, regsWfFrom, h.1.1, h.1.2, ih h.2]

theorem regsWfFrom_tins (t : Tab Nat) (k v : Nat) {lo : Nat} (hv : v ≠ regReset k) (hlo : lo ≤ k)
    (h : regsWfFrom lo (tdel t k) = true) : regsWfFrom lo (tins (tdel t k) k v) = true := by
  induction t generalizing lo with
  | nil => simp [tdel, tins, regsWfFrom, hv, hlo]
  | cons e t ih =>
    obtain ⟨i, w⟩ := e
    by_cases hik : i = k
    · simp only [tdel, hik, if_true] at h ⊢
      exact ih hlo h
    · simp only [tdel, hik, if_false, regsWfFrom, Bool.and_eq_true, decide_eq_true_eq] at h ⊢
      by_cases hki : k < i
      · simp [tins, hki, regsWfFrom, hv, hlo, h.1.2, h.2]
      · simp [tins, hki, regsWfFrom, h.1.1, h.1.2]
        exact ih (by omega) h.2

theorem regsWfFrom_filter (t : Tab Nat) (p : Nat × Nat → Bool) {lo : Nat} (h : regsWfFrom lo t = true) :
    regsWfFrom lo (t.filter p) = true := by
  induction t generalizing lo with
  | nil => rfl
  | cons e t ih =>
    obtain ⟨i, v⟩ := e
    simp only [regsWfFrom, Bool.and_eq_true, decide_eq_true_eq] at h
    by_cases hp : p (i, v) = true
    · simp [List.filter, hp, regsWfFrom, h.1.1, h.1.2, ih h.2]
    · simp only [List.filter, hp]
      exact regsWfFrom_mono _ (by omega) (ih h.2)

theorem rset_wf (s : State) (k v : Nat) (h : regsWf s.regs = true) : regsWf (rset s k v).regs = true := by
  have hd := regsWfFrom_tdel s.regs k h
  by_cases hv : v = regReset k
  · simpa [regsWf, rset, hv] using hd
  · simpa [regsWf, rset, hv] using regsWfFrom_tins s.regs k v hv (Nat.zero_le _) hd

end Sys2Proof.Machine
end

