-- ==== Sys2Proof/Laws/Keeps.lean ====
section
/-!
SUPPORT. The rules by which a function is shown to keep what every command keeps: the record update, the branches, the folds, the pairs
and the options that functions answer, and the operations that write the register store and the SRAM.
-/
namespace Sys2Proof.Machine

open Sys2Proof

theorem NotBefore.trans {a b c : LtState} (h : NotBefore a b) (k : NotBefore b c) : NotBefore a c := by
  unfold NotBefore at *; omega

/-- The frame stands and the phase does not fall. -/
theorem NotBefore.of {a b : LtState} (h : a.frame = b.frame) (k : a.phase ≤ b.phase) : NotBefore a b := Or.inr ⟨h, k⟩

/-- An update that leaves the present LT. -/
theorem NotBefore.same {a b : LtState} (h : a.frame = b.frame) (k : a.phase = b.phase) : NotBefore a b := Or.inr ⟨h, Nat.le_of_eq k⟩

theorem Fld.same_refl (s : State) (f : Fld) : f.same s s := by
  cases f <;> first | rfl | exact ⟨rfl, rfl⟩ | exact NotBefore.same rfl rfl

theorem Fld.same_trans {s t u : State} {f : Fld} (h : f.same s t) (k : f.same t u) : f.same s u := by
  cases f <;> first | exact Eq.trans k h | exact ⟨k.1.trans h.1, k.2.trans h.2⟩ | exact NotBefore.trans h k

theorem Keeps.refl (W : List Fld) (s : State) : Keeps W s s := ⟨fun f _ => f.same_refl s, id, rfl, Nat.le_refl _⟩

theorem Keeps.trans {W : List Fld} {s t u : State} (h : Keeps W s t) (k : Keeps W t u) : Keeps W s u :=
  ⟨fun f w => Fld.same_trans (h.frame f w) (k.frame f w), fun x => k.sound (h.sound x), k.queue.trans h.queue, Nat.le_trans h.free k.free⟩

/-- More parts may change than do. -/
theorem Keeps.weaken {V W : List Fld} {s t : State} (h : Keeps V s t) (w : ∀ f, f ∈ V → f ∈ W) : Keeps W s t :=
  ⟨fun f x => h.frame f (fun v => x (w f v)), h.sound, h.queue, h.free⟩

theorem same_of {α : Type} {W : List Fld} {f : Fld} {a b c : α} (k : f ∉ W → b = c) (h : f ∈ W ∨ a = b) (x : f ∉ W) : a = c :=
  (h.resolve_left x).trans (k x)

/-- An update of the blocks' own records: it leaves the registers, the SRAM, the free-value counter and the queue, and LT in a frame. -/
theorem Keeps.upd {W : List Fld} {s0 s : State} {lt : LtState} {pwr host led st dma line fab prot mate dun cam scan radio mon flt book}
    (h : Keeps W s0 s) (hl : s.lt.phase < phasesPerFrame → lt.phase < phasesPerFrame)
    (u1 : .lt ∈ W ∨ lt = s.lt) (u2 : .pwr ∈ W ∨ pwr = s.pwr) (u3 : .host ∈ W ∨ host = s.host) (u4 : .led ∈ W ∨ led = s.led)
    (u5 : .st ∈ W ∨ st = s.st) (u6 : .dma ∈ W ∨ dma = s.dma) (u7 : .line ∈ W ∨ line = s.line) (u8 : .fab ∈ W ∨ fab = s.fab)
    (u9 : .prot ∈ W ∨ prot = s.prot) (u10 : .mate ∈ W ∨ mate = s.mate) (u11 : .dun ∈ W ∨ dun = s.dun) (u12 : .cam ∈ W ∨ cam = s.cam)
    (u13 : .scan ∈ W ∨ scan = s.scan) (u14 : .radio ∈ W ∨ radio = s.radio) (u15 : .mon ∈ W ∨ mon = s.mon) (u16 : .flt ∈ W ∨ flt = s.flt)
    (u17 : .book ∈ W ∨ book = s.book) (u18 : .stage ∈ W ∨ pwr.stage = s.pwr.stage)
    (u19 : .clock ∈ W ∨ lt.frame = s.lt.frame ∧ lt.phase = s.lt.phase) (u20 : .forward ∈ W ∨ NotBefore s.lt lt) :
    Keeps W s0 ⟨lt, pwr, host, led, st, dma, line, fab, prot, mate, dun, cam, scan, radio, mon, flt, book, s.regs, s.sram, s.ecc, s.freeCtr, s.pending⟩ := by
  refine ⟨fun f w => ?_, fun x => let y := h.sound x; ⟨y.1, y.2.1, hl y.2.2⟩, h.queue, h.free⟩
  have k := h.frame f
  cases f
  exacts [same_of k u1 w, same_of k u2 w, same_of k u3 w, same_of k u4 w, same_of k u5 w, same_of k u6 w, same_of k u7 w, same_of k u8 w,
    same_of k u9 w, same_of k u10 w, same_of k u11 w, same_of k u12 w, same_of k u13 w, same_of k u14 w, same_of k u15 w, same_of k u16 w,
    same_of k u17 w, k w, k w, k w, same_of k u18 w, ⟨((u19.resolve_left w).1).trans (k w).1, ((u19.resolve_left w).2).trans (k w).2⟩,
    NotBefore.trans (k w) (u20.resolve_left w)]

/-- The start of a frame lies in it. -/
theorem phase_zero : (0 : Nat) < phasesPerFrame := by decide

/-- A phase carried forward, up to the frame's last phase, lies in the frame. -/
theorem phase_clip {s : State} {a b : Nat} (h : a < phasesPerFrame) : max a (min (frameLast s) b) < phasesPerFrame := by
  have h1 : frameLast s ≤ 19439 := Nat.min_le_left _ _
  have h2 : phasesPerFrame = 19440 := rfl
  omega

theorem Keeps.ite {W : List Fld} {s0 a b : State} {c : Prop} [Decidable c] (ha : Keeps W s0 a) (hb : Keeps W s0 b) : Keeps W s0 (if c then a else b) := by
  split <;> assumption

theorem Keeps.foldl {W : List Fld} {s0 s : State} {α : Type} {l : List α} {f : State → α → State} (h : Keeps W s0 s)
    (hf : ∀ t x, Keeps W s0 t → Keeps W s0 (f t x)) : Keeps W s0 (l.foldl f s) := by
  induction l generalizing s with
  | nil => exact h
  | cons x l ih => exact ih (hf _ _ h)

theorem Keeps.foldl_snd {W : List Fld} {s0 : State} {α β : Type} {l : List α} {f : β × State → α → β × State} {p : β × State} (h : Keeps W s0 p.2)
    (hf : ∀ t x, Keeps W s0 t.2 → Keeps W s0 (f t x).2) : Keeps W s0 (l.foldl f p).2 := by
  induction l generalizing p with
  | nil => exact h
  | cons x l ih => exact ih (hf _ _ h)

theorem Keeps.foldUpto {W : List Fld} {s0 s : State} {n : Nat} {f : Nat → State → State} (h : Keeps W s0 s)
    (hf : ∀ k t, Keeps W s0 t → Keeps W s0 (f k t)) : Keeps W s0 (foldUpto n f s) :=
  Keeps.foldl h (fun t k ht => hf k t ht)

theorem Keeps.snd_of {W : List Fld} {s0 t : State} {α : Type} {p : α × State} {a : α} (e : p = (a, t)) (h : Keeps W s0 p.2) : Keeps W s0 t := by
  subst e; exact h

theorem Keeps.snd2_of {W : List Fld} {s0 t : State} {α β : Type} {p : α × β × State} {a : α} {b : β} (e : p = (a, b, t)) (h : Keeps W s0 p.2.2) :
    Keeps W s0 t := by
  subst e; exact h

theorem Keeps.snd3_of {W : List Fld} {s0 t : State} {α β γ : Type} {p : α × β × γ × State} {a : α} {b : β} {c : γ} (e : p = (a, b, c, t))
    (h : Keeps W s0 p.2.2.2) : Keeps W s0 t := by
  subst e; exact h

/-- A function that answers a state, or none. -/
def KeepsO (W : List Fld) (s0 : State) (o : Option State) : Prop := ∀ t, o = some t → Keeps W s0 t

theorem KeepsO.none {W : List Fld} {s0 : State} : KeepsO W s0 none := fun _ h => nomatch h

theorem KeepsO.some {W : List Fld} {s0 t : State} (h : Keeps W s0 t) : KeepsO W s0 (some t) := fun _ e => by cases e; exact h

theorem KeepsO.of {W : List Fld} {s0 t : State} {o : Option State} (e : o = .some t) (h : KeepsO W s0 o) : Keeps W s0 t := h t e

theorem KeepsO.ite {W : List Fld} {s0 : State} {a b : Option State} {c : Prop} [Decidable c] (ha : KeepsO W s0 a) (hb : KeepsO W s0 b) :
    KeepsO W s0 (if c then a else b) := by split <;> assumption

theorem KeepsO.getD {W : List Fld} {s0 d : State} {o : Option State} (h : KeepsO W s0 o) (hd : Keeps W s0 d) : Keeps W s0 (o.getD d) := by
  cases o with
  | none => exact hd
  | some t => exact h t rfl

theorem KeepsO.map {W : List Fld} {s0 : State} {o : Option State} {f : State → State} (h : KeepsO W s0 o) (hf : ∀ t, Keeps W s0 t → Keeps W s0 (f t)) :
    KeepsO W s0 (o.map f) := by
  cases o with
  | none => exact KeepsO.none
  | some t => exact KeepsO.some (hf t (h t rfl))

theorem KeepsO.bind {W : List Fld} {s0 : State} {o : Option State} {f : State → Option State} (h : KeepsO W s0 o)
    (hf : ∀ t, Keeps W s0 t → KeepsO W s0 (f t)) : KeepsO W s0 (o.bind f) := by
  cases o with
  | none => exact KeepsO.none
  | some t => exact hf t (h t rfl)

theorem KeepsO.foldl {α : Type} {W : List Fld} {s0 : State} {f : Option State → α → Option State} {l : List α} {o : Option State}
    (hf : ∀ u x, KeepsO W s0 u → KeepsO W s0 (f u x)) (h : KeepsO W s0 o) : KeepsO W s0 (l.foldl f o) := by
  induction l generalizing o with
  | nil => exact h
  | cons x l ih => exact ih (hf o x h)

/-- A function that answers a value with a state, or none. -/
def KeepsOP {α : Type} (W : List Fld) (s0 : State) (o : Option (α × State)) : Prop := ∀ a t, o = some (a, t) → Keeps W s0 t

theorem KeepsOP.none {W : List Fld} {α : Type} {s0 : State} : KeepsOP (α := α) W s0 none := fun _ _ h => nomatch h

theorem KeepsOP.some {W : List Fld} {α : Type} {s0 : State} {p : α × State} (h : Keeps W s0 p.2) : KeepsOP W s0 (some p) := fun _ _ e => by cases e; exact h

theorem KeepsOP.of {W : List Fld} {α : Type} {s0 t : State} {a : α} {o : Option (α × State)} (e : o = .some (a, t)) (h : KeepsOP W s0 o) : Keeps W s0 t :=
  h a t e

theorem KeepsOP.snd {W : List Fld} {α : Type} {s0 : State} {p : α × State} {o : Option (α × State)} (e : o = .some p) (h : KeepsOP W s0 o) : Keeps W s0 p.2 :=
  h p.1 p.2 e

theorem KeepsOP.ite {W : List Fld} {α : Type} {s0 : State} {a b : Option (α × State)} {c : Prop} [Decidable c] (ha : KeepsOP W s0 a) (hb : KeepsOP W s0 b) :
    KeepsOP W s0 (if c then a else b) := by split <;> assumption

/-- A function that answers a state, or why it did not. -/
def KeepsE {ε : Type} (W : List Fld) (s0 : State) (o : Except ε State) : Prop := ∀ t, o = .ok t → Keeps W s0 t

theorem KeepsE.error {W : List Fld} {ε : Type} {s0 : State} {x : ε} : KeepsE W s0 (.error x : Except ε State) := fun _ h => nomatch h

theorem KeepsE.ok {W : List Fld} {ε : Type} {s0 t : State} (h : Keeps W s0 t) : KeepsE W s0 (.ok t : Except ε State) := fun _ e => by cases e; exact h

theorem KeepsE.of {W : List Fld} {ε : Type} {s0 t : State} {o : Except ε State} (e : o = .ok t) (h : KeepsE W s0 o) : Keeps W s0 t := h t e

/-- A meaning: what it answers as the next state keeps. -/
def KeepsR (W : List Fld) (s0 : State) (r : Result) : Prop := ∀ t, r = .next t → Keeps W s0 t

theorem KeepsR.next {W : List Fld} {s0 t : State} (h : Keeps W s0 t) : KeepsR W s0 (.next t) := fun _ e => by cases e; exact h

theorem KeepsR.fault {W : List Fld} {s0 : State} {f : Fault} : KeepsR W s0 (.fault f) := fun _ h => nomatch h

theorem KeepsR.ite {W : List Fld} {s0 : State} {a b : Result} {c : Prop} [Decidable c] (ha : KeepsR W s0 a) (hb : KeepsR W s0 b) :
    KeepsR W s0 (if c then a else b) := by split <;> assumption

end Sys2Proof.Machine
end

