-- ==== Sys2Proof/Laws/Keeps/Regs.lean ====
section
/-!
SUPPORT. The functions of Machine/Regs.lean keep what every command keeps (`Keeps`).
-/
namespace Sys2Proof.Machine

open Sys2Proof

theorem keeps_rset {W : List Fld} {s0 : State} (w_regs : .regs ∈ W) (s : State) (key v : Nat) (h : Keeps W s0 s) :
    Keeps W s0 (rset s key v) := by
  refine ⟨fun f w => ?_, fun x => let y := h.sound x; ⟨y.1, rset_wf s key v y.2.1, y.2.2⟩, h.queue, h.free⟩
  have k := h.frame f w
  cases f <;> first | exact absurd w_regs w | exact k

theorem keeps_rmod {W : List Fld} {s0 : State} (w_regs : .regs ∈ W) (s : State) (key : Nat) (f : Nat → Nat) (k_s : Keeps W s0 s) : Keeps W
    s0 (rmod s key f) := by
  unfold rmod
  with_reducible repeat' first | assumption | exact Or.inl (by assumption) | exact Or.inr rfl | exact Or.inr ⟨rfl, rfl⟩
                               | exact Or.inr (NotBefore.same rfl rfl) | intro _ | apply keeps_rset

theorem keeps_sramSet {W : List Fld} {s0 : State} (w_sram : .sram ∈ W) (s : State) (a : Nat) (b : Byte) (h : Keeps W s0 s) :
    Keeps W s0 (sramSet s a b) := by
  refine ⟨fun f w => ?_, fun x => let y := h.sound x; ⟨sramSet_wf s a b y.1, y.2⟩, h.queue, h.free⟩
  have k := h.frame f w
  cases f <;> first | exact absurd w_sram w | exact k

theorem keeps_sramWrite {W : List Fld} {s0 : State} (w_sram : .sram ∈ W) (s : State) (a : Nat) (bs : List Byte) (h : Keeps W s0 s) :
    Keeps W s0 (sramWrite s a bs) := by
  induction bs generalizing s a with
  | nil => exact h
  | cons b bs ih => exact ih _ _ (keeps_sramSet w_sram s a b h)

theorem keeps_takeFree {W : List Fld} {s0 : State} (w_freeCtr : .freeCtr ∈ W) (s : State) (h : Keeps W s0 s) :
    Keeps W s0 (takeFree s).2 := by
  refine ⟨fun f w => ?_, h.sound, h.queue, Nat.le_succ_of_le h.free⟩
  have k := h.frame f w
  cases f <;> first | exact absurd w_freeCtr w | exact k

theorem keeps_sramUpset {W : List Fld} {s0 : State} (w_sram : .sram ∈ W) (w_freeCtr : .freeCtr ∈ W) (p : Nat) (s : State)
    (h : Keeps W s0 s) : Keeps W s0 (sramUpset p s) := by
  have g := keeps_sramWrite w_sram (takeFree s).2 p ((leBytes 4 (takeFree s).1.toNat).map (fun b => BitVec.ofNat 8 b))
    (keeps_takeFree w_freeCtr s h)
  refine ⟨fun f w => ?_, g.sound, g.queue, g.free⟩
  have k := g.frame f w
  cases f <;> first | exact absurd w_sram w | exact k

end Sys2Proof.Machine
end

