-- ==== Sys2Proof/Laws/Keeps/Ops.lean ====
section
/-!
SUPPORT. The functions of Machine/Ops.lean keep what every command keeps (`Keeps`).
-/
namespace Sys2Proof.Machine

open Sys2Proof

theorem keeps_countOutcome {W : List Fld} {s0 : State} (w_book : .book ∈ W) (seat code : Nat) (s : State) (k_s : Keeps W s0 s) : Keeps W
    s0 (countOutcome seat code s) := by
  unfold countOutcome
  with_reducible repeat' first | assumption | exact Or.inl (by assumption) | exact Or.inr rfl | exact Or.inr ⟨rfl, rfl⟩
                               | exact Or.inr (NotBefore.same rfl rfl) | intro _ | apply Keeps.ite | dsimp only | split | apply Keeps.upd

theorem keeps_msixRaise {W : List Fld} {s0 : State} (w_host : .host ∈ W) (seat v : Nat) (s : State) (k_s : Keeps W s0 s) : Keeps W s0
    (msixRaise seat v s) := by
  unfold msixRaise
  with_reducible repeat' first | assumption | exact Or.inl (by assumption) | exact Or.inr rfl | exact Or.inr ⟨rfl, rfl⟩
                               | exact Or.inr (NotBefore.same rfl rfl) | intro _ | apply Keeps.ite | dsimp only | split | apply Keeps.upd

theorem keeps_msixFlush {W : List Fld} {s0 : State} (w_host : .host ∈ W) (seat : Nat) (s : State) (k_s : Keeps W s0 s) : Keeps W s0
    (msixFlush seat s) := by
  unfold msixFlush
  with_reducible repeat' first | assumption | exact Or.inl (by assumption) | exact Or.inr rfl | exact Or.inr ⟨rfl, rfl⟩
                               | exact Or.inr (NotBefore.same rfl rfl) | intro _ | apply keeps_msixRaise | apply Keeps.foldl
                               | apply Keeps.foldl_snd | apply Keeps.ite | dsimp only | split | apply Keeps.upd

theorem keeps_notify {W : List Fld} {s0 : State} (w_host : .host ∈ W) (seat : Nat) (s : State) (k_s : Keeps W s0 s) : Keeps W s0 (notify
    seat s) := by
  unfold notify
  with_reducible repeat' first | assumption | exact Or.inl (by assumption) | exact Or.inr rfl | exact Or.inr ⟨rfl, rfl⟩
                               | exact Or.inr (NotBefore.same rfl rfl) | intro _ | apply keeps_msixRaise | apply Keeps.foldl
                               | apply Keeps.foldl_snd | apply Keeps.ite | dsimp only | split | apply Keeps.upd

theorem keeps_notifyAll {W : List Fld} {s0 : State} (w_host : .host ∈ W) (s : State) (k_s : Keeps W s0 s) : Keeps W s0 (notifyAll s) := by
  unfold notifyAll
  with_reducible repeat' first | assumption | exact Or.inl (by assumption) | exact Or.inr rfl | exact Or.inr ⟨rfl, rfl⟩
                               | exact Or.inr (NotBefore.same rfl rfl) | intro _ | apply keeps_notify | apply Keeps.foldl

theorem keeps_setCause {W : List Fld} {s0 : State} (w_host : .host ∈ W) (w_regs : .regs ∈ W) (seat off k : Nat) (s : State) (k_s : Keeps W
    s0 s) : Keeps W s0 (setCause seat off k s) := by
  unfold setCause
  with_reducible repeat' first | assumption | exact Or.inl (by assumption) | exact Or.inr rfl | exact Or.inr ⟨rfl, rfl⟩
                               | exact Or.inr (NotBefore.same rfl rfl) | intro _ | apply keeps_notify | apply keeps_rmod

theorem keeps_setCauses {W : List Fld} {s0 : State} (w_host : .host ∈ W) (w_regs : .regs ∈ W) (ns : List Nat) (off k : Nat) (s : State)
    (k_s : Keeps W s0 s) : Keeps W s0 (setCauses ns off k s) := by
  unfold setCauses
  with_reducible repeat' first | assumption | exact Or.inl (by assumption) | exact Or.inr rfl | exact Or.inr ⟨rfl, rfl⟩
                               | exact Or.inr (NotBefore.same rfl rfl) | intro _ | apply keeps_setCause | apply Keeps.foldl

theorem keeps_setCauseP {W : List Fld} {s0 : State} (w_host : .host ∈ W) (w_regs : .regs ∈ W) (off k : Nat) (s : State) (k_s : Keeps W s0
    s) : Keeps W s0 (setCauseP off k s) := by
  unfold setCauseP
  with_reducible repeat' first | assumption | exact Or.inl (by assumption) | exact Or.inr rfl | exact Or.inr ⟨rfl, rfl⟩
                               | exact Or.inr (NotBefore.same rfl rfl) | intro _ | apply keeps_notifyAll | apply keeps_rmod

theorem keeps_holdTokens {W : List Fld} {s0 : State} (w_book : .book ∈ W) (seat n : Nat) (s : State) (k_s : Keeps W s0 s) : Keeps W s0
    (holdTokens seat n s) := by
  unfold holdTokens
  with_reducible repeat' first | assumption | exact Or.inl (by assumption) | exact Or.inr rfl | exact Or.inr ⟨rfl, rfl⟩
                               | exact Or.inr (NotBefore.same rfl rfl) | intro _ | apply Keeps.ite | dsimp only | split | apply Keeps.upd

theorem keeps_dropTokens {W : List Fld} {s0 : State} (w_book : .book ∈ W) (seat n : Nat) (s : State) (k_s : Keeps W s0 s) : Keeps W s0
    (dropTokens seat n s) := by
  unfold dropTokens
  with_reducible repeat' first | assumption | exact Or.inl (by assumption) | exact Or.inr rfl | exact Or.inr ⟨rfl, rfl⟩
                               | exact Or.inr (NotBefore.same rfl rfl) | intro _ | apply Keeps.ite | dsimp only | split | apply Keeps.upd

theorem keeps_holdHw {W : List Fld} {s0 : State} (w_book : .book ∈ W) (n : Nat) (s : State) (k_s : Keeps W s0 s) : Keeps W s0 (holdHw n s) := by
  unfold holdHw
  with_reducible repeat' first | assumption | exact Or.inl (by assumption) | exact Or.inr rfl | exact Or.inr ⟨rfl, rfl⟩
                               | exact Or.inr (NotBefore.same rfl rfl) | intro _ | apply Keeps.ite | dsimp only | split | apply Keeps.upd

theorem keeps_dropHw {W : List Fld} {s0 : State} (w_book : .book ∈ W) (n : Nat) (s : State) (k_s : Keeps W s0 s) : Keeps W s0 (dropHw n s) := by
  unfold dropHw
  with_reducible repeat' first | assumption | exact Or.inl (by assumption) | exact Or.inr rfl | exact Or.inr ⟨rfl, rfl⟩
                               | exact Or.inr (NotBefore.same rfl rfl) | intro _ | apply Keeps.ite | dsimp only | split | apply Keeps.upd

end Sys2Proof.Machine
end

