-- ==== Sys2Proof/Laws/Keeps/Ledger.lean ====
section
/-!
SUPPORT. The functions of Machine/Ledger.lean keep what every command keeps (`Keeps`).
-/
namespace Sys2Proof.Machine

open Sys2Proof

theorem keeps_pushEntry {W : List Fld} {s0 : State} (w_pwr : .pwr ∈ W) (w_led : .led ∈ W) (seat kind frame phase mid : Nat) (s : State)
    (k_s : Keeps W s0 s) : Keeps W s0 (pushEntry seat kind frame phase mid s) := by
  unfold pushEntry
  with_reducible repeat' first | assumption | exact Or.inl (by assumption) | exact Or.inr rfl | exact Or.inr ⟨rfl, rfl⟩
                               | exact Or.inr (NotBefore.same rfl rfl) | intro _ | apply Keeps.ite | dsimp only | split | apply Keeps.upd

theorem keeps_spaceCauses {W : List Fld} {s0 : State} (w_host : .host ∈ W) (w_regs : .regs ∈ W) (before : Nat) (s : State) (k_s : Keeps W
    s0 s) : Keeps W s0 (spaceCauses before s) := by
  unfold spaceCauses
  with_reducible repeat' first | assumption | exact Or.inl (by assumption) | exact Or.inr rfl | exact Or.inr ⟨rfl, rfl⟩
                               | exact Or.inr (NotBefore.same rfl rfl) | intro _ | apply keeps_setCauseP | apply Keeps.ite

theorem keeps_appendRec {W : List Fld} {s0 : State} (w_pwr : .pwr ∈ W) (w_host : .host ∈ W) (w_led : .led ∈ W) (w_regs : .regs ∈ W) (r :
    LedgerRec) (s : State) (k_s : Keeps W s0 s) : Keeps W s0 (appendRec r s) := by
  unfold appendRec
  with_reducible repeat' first | assumption | exact Or.inl (by assumption) | exact Or.inr rfl | exact Or.inr ⟨rfl, rfl⟩
                               | exact Or.inr (NotBefore.same rfl rfl) | intro _ | apply keeps_pushEntry | apply keeps_spaceCauses
                               | apply Keeps.foldl

theorem keeps_loseRec {W : List Fld} {s0 : State} (w_host : .host ∈ W) (w_led : .led ∈ W) (w_regs : .regs ∈ W) (r : LedgerRec) (s : State)
    (k_s : Keeps W s0 s) : Keeps W s0 (loseRec r s) := by
  unfold loseRec
  with_reducible repeat' first | assumption | exact Or.inl (by assumption) | exact Or.inr rfl | exact Or.inr ⟨rfl, rfl⟩
                               | exact Or.inr (NotBefore.same rfl rfl) | intro _ | apply keeps_setCauseP | apply Keeps.ite | dsimp only
                               | split | apply Keeps.upd

theorem keeps_loseQueue {W : List Fld} {s0 : State} (w_host : .host ∈ W) (w_led : .led ∈ W) (w_regs : .regs ∈ W) (s : State) (k_s : Keeps
    W s0 s) : Keeps W s0 (loseQueue s) := by
  unfold loseQueue
  with_reducible repeat' first | assumption | exact Or.inl (by assumption) | exact Or.inr rfl | exact Or.inr ⟨rfl, rfl⟩
                               | exact Or.inr (NotBefore.same rfl rfl) | intro _ | apply keeps_loseRec | apply Keeps.foldl
                               | apply Keeps.foldl_snd | apply Keeps.ite | dsimp only | split | apply Keeps.upd

theorem keeps_appendStart {W : List Fld} {s0 : State} (w_pwr : .pwr ∈ W) (w_host : .host ∈ W) (w_led : .led ∈ W) (w_regs : .regs ∈ W) (r :
    LedgerRec) (s : State) (k_s : Keeps W s0 s) : Keeps W s0 (appendStart r s) := by
  unfold appendStart
  with_reducible repeat' first | assumption | exact Or.inl (by assumption) | exact Or.inr rfl | exact Or.inr ⟨rfl, rfl⟩
                               | exact Or.inr (NotBefore.same rfl rfl) | intro _ | apply keeps_appendRec | apply Keeps.ite | dsimp only
                               | split | apply Keeps.upd

theorem keeps_ledgerPump {W : List Fld} {s0 : State} (w_pwr : .pwr ∈ W) (w_host : .host ∈ W) (w_led : .led ∈ W) (w_regs : .regs ∈ W) (x0 :
    Nat) (x1 : State) (k_x1 : Keeps W s0 x1) : Keeps W s0 (ledgerPump x0 x1) := by
  induction x0 generalizing x1 k_x1 with
  | zero =>
    unfold ledgerPump
    with_reducible repeat' first | assumption | exact Or.inl (by assumption) | exact Or.inr rfl | exact Or.inr ⟨rfl, rfl⟩
                                 | exact Or.inr (NotBefore.same rfl rfl) | intro _ | apply keeps_appendStart | apply keeps_loseQueue
                                 | apply keeps_appendRec | apply keeps_loseRec | apply Keeps.ite | dsimp only | split | apply Keeps.upd
  | succ m ih =>
    unfold ledgerPump
    with_reducible repeat' first | assumption | apply ih | exact Or.inl (by assumption) | exact Or.inr rfl | exact Or.inr ⟨rfl, rfl⟩
                                 | exact Or.inr (NotBefore.same rfl rfl) | intro _ | apply keeps_appendStart | apply keeps_loseQueue
                                 | apply keeps_appendRec | apply keeps_loseRec | apply Keeps.ite | dsimp only | split | apply Keeps.upd

theorem keeps_ledgerDrain {W : List Fld} {s0 : State} (w_pwr : .pwr ∈ W) (w_host : .host ∈ W) (w_led : .led ∈ W) (w_regs : .regs ∈ W) (s :
    State) (k_s : Keeps W s0 s) : Keeps W s0 (ledgerDrain s) := by
  unfold ledgerDrain
  with_reducible repeat' first | assumption | exact Or.inl (by assumption) | exact Or.inr rfl | exact Or.inr ⟨rfl, rfl⟩
                               | exact Or.inr (NotBefore.same rfl rfl) | intro _ | apply keeps_ledgerPump

theorem keeps_ledgerAppendHw {W : List Fld} {s0 : State} (w_pwr : .pwr ∈ W) (w_host : .host ∈ W) (w_led : .led ∈ W) (w_regs : .regs ∈ W)
    (r : LedgerRec) (s : State) (k_s : Keeps W s0 s) : Keeps W s0 (ledgerAppendHw r s) := by
  unfold ledgerAppendHw
  with_reducible repeat' first | assumption | exact Or.inl (by assumption) | exact Or.inr rfl | exact Or.inr ⟨rfl, rfl⟩
                               | exact Or.inr (NotBefore.same rfl rfl) | intro _ | apply keeps_loseRec | apply keeps_ledgerDrain
                               | apply Keeps.ite | dsimp only | split | apply Keeps.upd

theorem keeps_rawHwSeat {W : List Fld} {s0 : State} (w_pwr : .pwr ∈ W) (w_host : .host ∈ W) (w_led : .led ∈ W) (w_regs : .regs ∈ W) (seat
    unit kind object old new : Nat) (kflag : Bool) (conts : List Nat) (s : State) (k_s : Keeps W s0 s) : Keeps W s0 (rawHwSeat seat unit
    kind object old new kflag conts s) := by
  unfold rawHwSeat
  with_reducible repeat' first | assumption | exact Or.inl (by assumption) | exact Or.inr rfl | exact Or.inr ⟨rfl, rfl⟩
                               | exact Or.inr (NotBefore.same rfl rfl) | intro _ | apply keeps_ledgerAppendHw

theorem keeps_rawHw {W : List Fld} {s0 : State} (w_pwr : .pwr ∈ W) (w_host : .host ∈ W) (w_led : .led ∈ W) (w_regs : .regs ∈ W) (unit kind
    object old new : Nat) (kflag : Bool) (conts : List Nat) (s : State) (k_s : Keeps W s0 s) : Keeps W s0 (rawHw unit kind object old new
    kflag conts s) := by
  unfold rawHw
  with_reducible repeat' first | assumption | exact Or.inl (by assumption) | exact Or.inr rfl | exact Or.inr ⟨rfl, rfl⟩
                               | exact Or.inr (NotBefore.same rfl rfl) | intro _ | apply keeps_rawHwSeat

theorem keeps_sealDone {W : List Fld} {s0 : State} (w_pwr : .pwr ∈ W) (w_host : .host ∈ W) (w_led : .led ∈ W) (w_regs : .regs ∈ W) (s :
    State) (k_s : Keeps W s0 s) : Keeps W s0 (sealDone s) := by
  unfold sealDone
  with_reducible repeat' first | assumption | exact Or.inl (by assumption) | exact Or.inr rfl | exact Or.inr ⟨rfl, rfl⟩
                               | exact Or.inr (NotBefore.same rfl rfl) | intro _ | apply keeps_appendRec | apply keeps_ledgerDrain
                               | apply Keeps.ite | dsimp only | split | apply Keeps.upd

theorem keeps_rawMgmt {W : List Fld} {s0 : State} (w_pwr : .pwr ∈ W) (w_host : .host ∈ W) (w_led : .led ∈ W) (w_regs : .regs ∈ W) (a :
    Agent) (kind object old new : Nat) (kflag : Bool) (conts : List Nat) (s : State) (k_s : Keeps W s0 s) : KeepsO W s0 (rawMgmt a kind
    object old new kflag conts s) := by
  unfold rawMgmt
  with_reducible repeat' first | assumption | exact Or.inl (by assumption) | exact Or.inr rfl | exact Or.inr ⟨rfl, rfl⟩
                               | exact Or.inr (NotBefore.same rfl rfl) | intro _ | apply keeps_ledgerDrain | apply keeps_sealDone
                               | apply keeps_appendRec | exact KeepsO.none | apply KeepsO.some | apply KeepsO.map | apply KeepsO.ite

end Sys2Proof.Machine
end

