-- ==== Sys2Proof/Laws/Keeps/StrandOps.lean ====
section
/-!
SUPPORT. The functions of Machine/StrandOps.lean keep what every command keeps (`Keeps`).
-/
namespace Sys2Proof.Machine

open Sys2Proof

theorem keeps_setStrand {W : List Fld} {s0 : State} (w_st : .st ∈ W) (n : Nat) (t : Strand) (s : State) (k_s : Keeps W s0 s) : Keeps W s0
    (setStrand n t s) := by
  unfold setStrand
  with_reducible repeat' first | assumption | exact Or.inl (by assumption) | exact Or.inr rfl | exact Or.inr ⟨rfl, rfl⟩
                               | exact Or.inr (NotBefore.same rfl rfl) | intro _ | apply Keeps.ite | dsimp only | split | apply Keeps.upd

theorem keeps_modStrand {W : List Fld} {s0 : State} (w_st : .st ∈ W) (n : Nat) (f : Strand → Strand) (s : State) (k_s : Keeps W s0 s) :
    Keeps W s0 (modStrand n f s) := by
  unfold modStrand
  with_reducible repeat' first | assumption | exact Or.inl (by assumption) | exact Or.inr rfl | exact Or.inr ⟨rfl, rfl⟩
                               | exact Or.inr (NotBefore.same rfl rfl) | intro _ | apply keeps_setStrand

theorem keeps_grant {W : List Fld} {s0 : State} (w_st : .st ∈ W) (k n : Nat) (s : State) (k_s : Keeps W s0 s) : Keeps W s0 (grant k n s) := by
  unfold grant
  with_reducible repeat' first | assumption | exact Or.inl (by assumption) | exact Or.inr rfl | exact Or.inr ⟨rfl, rfl⟩
                               | exact Or.inr (NotBefore.same rfl rfl) | intro _ | apply keeps_modStrand | apply Keeps.ite | dsimp only
                               | split | apply Keeps.upd

theorem keeps_reschedule {W : List Fld} {s0 : State} (w_st : .st ∈ W) (k : Nat) (s : State) (k_s : Keeps W s0 s) : Keeps W s0 (reschedule
    k s) := by
  unfold reschedule
  with_reducible repeat' first | assumption | exact Or.inl (by assumption) | exact Or.inr rfl | exact Or.inr ⟨rfl, rfl⟩
                               | exact Or.inr (NotBefore.same rfl rfl) | intro _ | apply keeps_grant | apply keeps_modStrand
                               | apply Keeps.ite | dsimp only | split

theorem keeps_makeRunnable {W : List Fld} {s0 : State} (w_st : .st ∈ W) (n : Nat) (f : Strand → Strand) (s : State) (k_s : Keeps W s0 s) :
    Keeps W s0 (makeRunnable n f s) := by
  unfold makeRunnable
  with_reducible repeat' first | assumption | exact Or.inl (by assumption) | exact Or.inr rfl | exact Or.inr ⟨rfl, rfl⟩
                               | exact Or.inr (NotBefore.same rfl rfl) | intro _ | apply keeps_reschedule | apply keeps_modStrand

theorem keeps_clearLatches {W : List Fld} {s0 : State} (w_host : .host ∈ W) (n : Nat) (s : State) (k_s : Keeps W s0 s) : Keeps W s0
    (clearLatches n s) := by
  unfold clearLatches
  with_reducible repeat' first | assumption | exact Or.inl (by assumption) | exact Or.inr rfl | exact Or.inr ⟨rfl, rfl⟩
                               | exact Or.inr (NotBefore.same rfl rfl) | intro _ | apply Keeps.ite | dsimp only | split | apply Keeps.upd

theorem keeps_startIdle {W : List Fld} {s0 : State} (w_host : .host ∈ W) (w_st : .st ∈ W) (n : Nat) (arg : Word) (s : State) (k_s : Keeps
    W s0 s) : Keeps W s0 (startIdle n arg s) := by
  unfold startIdle
  with_reducible repeat' first | assumption | exact Or.inl (by assumption) | exact Or.inr rfl | exact Or.inr ⟨rfl, rfl⟩
                               | exact Or.inr (NotBefore.same rfl rfl) | intro _ | apply keeps_makeRunnable | apply keeps_clearLatches

theorem keeps_startStrand {W : List Fld} {s0 : State} (w_host : .host ∈ W) (w_st : .st ∈ W) (n : Nat) (arg : Word) (s : State) (k_s :
    Keeps W s0 s) : Keeps W s0 (startStrand n arg s).2 := by
  unfold startStrand
  with_reducible repeat' first | assumption | exact Or.inl (by assumption) | exact Or.inr rfl | exact Or.inr ⟨rfl, rfl⟩
                               | exact Or.inr (NotBefore.same rfl rfl) | intro _ | apply keeps_startIdle | apply keeps_setStrand
                               | apply Keeps.ite | refine Keeps.snd_of (by assumption) ?_ | dsimp only | split

theorem keeps_setEventFlags {W : List Fld} {s0 : State} (w_st : .st ∈ W) (seat v : Nat) (s : State) (k_s : Keeps W s0 s) : Keeps W s0
    (setEventFlags seat v s) := by
  unfold setEventFlags
  with_reducible repeat' first | assumption | exact Or.inl (by assumption) | exact Or.inr rfl | exact Or.inr ⟨rfl, rfl⟩
                               | exact Or.inr (NotBefore.same rfl rfl) | intro _ | apply Keeps.ite | dsimp only | split | apply Keeps.upd

theorem keeps_wakeEv {W : List Fld} {s0 : State} (w_st : .st ∈ W) (n ez : Nat) (s : State) (k_s : Keeps W s0 s) : Keeps W s0 (wakeEv n ez
    s) := by
  unfold wakeEv
  with_reducible repeat' first | assumption | exact Or.inl (by assumption) | exact Or.inr rfl | exact Or.inr ⟨rfl, rfl⟩
                               | exact Or.inr (NotBefore.same rfl rfl) | intro _ | apply keeps_makeRunnable | apply Keeps.ite | dsimp only
                               | split

theorem keeps_serveEvent {W : List Fld} {s0 : State} (w_host : .host ∈ W) (w_st : .st ∈ W) (seat ez : Nat) (s : State) (k_s : Keeps W s0
    s) : Keeps W s0 (serveEvent seat ez s) := by
  unfold serveEvent
  with_reducible repeat' first | assumption | exact Or.inl (by assumption) | exact Or.inr rfl | exact Or.inr ⟨rfl, rfl⟩
                               | exact Or.inr (NotBefore.same rfl rfl) | intro _ | apply keeps_wakeEv | apply keeps_setEventFlags
                               | apply keeps_startIdle | apply Keeps.foldl | apply Keeps.foldl_snd | apply Keeps.ite | dsimp only | split

theorem keeps_setEvent {W : List Fld} {s0 : State} (w_host : .host ∈ W) (w_st : .st ∈ W) (seat ez : Nat) (s : State) (k_s : Keeps W s0 s)
    : Keeps W s0 (setEvent seat ez s) := by
  unfold setEvent
  with_reducible repeat' first | assumption | exact Or.inl (by assumption) | exact Or.inr rfl | exact Or.inr ⟨rfl, rfl⟩
                               | exact Or.inr (NotBefore.same rfl rfl) | intro _ | apply keeps_serveEvent | apply keeps_setEventFlags

theorem keeps_idleEvents {W : List Fld} {s0 : State} (w_host : .host ∈ W) (w_st : .st ∈ W) (n : Nat) (s : State) (k_s : Keeps W s0 s) :
    Keeps W s0 (idleEvents n s) := by
  unfold idleEvents
  with_reducible repeat' first | assumption | exact Or.inl (by assumption) | exact Or.inr rfl | exact Or.inr ⟨rfl, rfl⟩
                               | exact Or.inr (NotBefore.same rfl rfl) | intro _ | apply keeps_serveEvent | apply Keeps.ite

theorem keeps_enterIdle {W : List Fld} {s0 : State} (w_host : .host ∈ W) (w_st : .st ∈ W) (n : Nat) (s : State) (k_s : Keeps W s0 s) :
    Keeps W s0 (enterIdle n s) := by
  unfold enterIdle
  with_reducible repeat' first | assumption | exact Or.inl (by assumption) | exact Or.inr rfl | exact Or.inr ⟨rfl, rfl⟩
                               | exact Or.inr (NotBefore.same rfl rfl) | intro _ | apply keeps_modStrand | apply keeps_startIdle
                               | apply keeps_reschedule | apply keeps_idleEvents | apply Keeps.ite | dsimp only | split

theorem keeps_abortNow {W : List Fld} {s0 : State} (w_host : .host ∈ W) (w_st : .st ∈ W) (n : Nat) (s : State) (k_s : Keeps W s0 s) :
    Keeps W s0 (abortNow n s) := by
  unfold abortNow
  with_reducible repeat' first | assumption | exact Or.inl (by assumption) | exact Or.inr rfl | exact Or.inr ⟨rfl, rfl⟩
                               | exact Or.inr (NotBefore.same rfl rfl) | intro _ | apply keeps_setStrand | apply keeps_clearLatches
                               | apply keeps_reschedule | apply keeps_idleEvents

theorem keeps_abortStrand {W : List Fld} {s0 : State} (w_host : .host ∈ W) (w_st : .st ∈ W) (n : Nat) (s : State) (k_s : Keeps W s0 s) :
    Keeps W s0 (abortStrand n s) := by
  unfold abortStrand
  with_reducible repeat' first | assumption | exact Or.inl (by assumption) | exact Or.inr rfl | exact Or.inr ⟨rfl, rfl⟩
                               | exact Or.inr (NotBefore.same rfl rfl) | intro _ | apply keeps_modStrand | apply keeps_abortNow
                               | apply Keeps.ite | dsimp only | split

theorem keeps_trapStrand {W : List Fld} {s0 : State} (w_host : .host ∈ W) (w_st : .st ∈ W) (w_regs : .regs ∈ W) (n code detail faddr :
    Nat) (wr : Bool) (s : State) (k_s : Keeps W s0 s) : Keeps W s0 (trapStrand n code detail faddr wr s) := by
  unfold trapStrand
  with_reducible repeat' first | assumption | exact Or.inl (by assumption) | exact Or.inr rfl | exact Or.inr ⟨rfl, rfl⟩
                               | exact Or.inr (NotBefore.same rfl rfl) | intro _ | apply keeps_modStrand | apply keeps_setCause
                               | apply keeps_startStrand | apply keeps_reschedule | apply Keeps.ite
                               | refine Keeps.snd_of (by assumption) ?_ | dsimp only | split

theorem keeps_wakeLt {W : List Fld} {s0 : State} (w_st : .st ∈ W) (n : Nat) (s : State) (k_s : Keeps W s0 s) : Keeps W s0 (wakeLt n s) := by
  unfold wakeLt
  with_reducible repeat' first | assumption | exact Or.inl (by assumption) | exact Or.inr rfl | exact Or.inr ⟨rfl, rfl⟩
                               | exact Or.inr (NotBefore.same rfl rfl) | intro _ | apply keeps_makeRunnable | apply Keeps.ite | dsimp only
                               | split

theorem keeps_boundaryWake {W : List Fld} {s0 : State} (w_st : .st ∈ W) (n : Nat) (s : State) (k_s : Keeps W s0 s) : Keeps W s0
    (boundaryWake n s) := by
  unfold boundaryWake
  with_reducible repeat' first | assumption | exact Or.inl (by assumption) | exact Or.inr rfl | exact Or.inr ⟨rfl, rfl⟩
                               | exact Or.inr (NotBefore.same rfl rfl) | intro _ | apply keeps_wakeLt | apply keeps_makeRunnable
                               | apply keeps_modStrand | apply Keeps.ite | dsimp only | split

theorem keeps_sramFilter {W : List Fld} {s0 : State} (w_sram : .sram ∈ W) (s : State) (p : Host.Cell → Bool) (q : Nat → Bool)
    (h : Keeps W s0 s) : Keeps W s0 { s with sram := s.sram.filter p, ecc := s.ecc.filter q } := by
  refine ⟨fun f w => ?_, fun x => let y := h.sound x; ⟨Memory.wf_filter _ p y.1, y.2⟩, h.queue, h.free⟩
  have k := h.frame f w
  cases f <;> first | exact absurd w_sram w | exact k

theorem keeps_clearStrand {W : List Fld} {s0 : State} (w_host : .host ∈ W) (w_st : .st ∈ W) (w_regs : .regs ∈ W) (w_sram : .sram ∈ W)
    (n : Nat) (s : State) (k_s : Keeps W s0 s) : Keeps W s0 (clearStrand n s) := by
  unfold clearStrand
  with_reducible repeat' first | assumption | intro _ | apply keeps_reschedule | apply keeps_setStrand | apply keeps_rset
                               | apply keeps_sramFilter | apply Keeps.upd | exact Or.inr rfl | exact Or.inr ⟨rfl, rfl⟩
                               | exact Or.inr (NotBefore.same rfl rfl) | exact Or.inl (by assumption)

end Sys2Proof.Machine
end

