-- ==== Sys2Proof/Laws/Keeps/MateMsg.lean ====
section
/-!
SUPPORT. The functions of Machine/MateMsg.lean keep what every command keeps (`Keeps`).
-/
namespace Sys2Proof.Machine

open Sys2Proof

theorem keeps_modMate {W : List Fld} {s0 : State} (w_mate : .mate ∈ W) (f : MateState → MateState) (s : State) (k_s : Keeps W s0 s) :
    Keeps W s0 (modMate f s) := by
  unfold modMate
  with_reducible repeat' first | assumption | exact Or.inl (by assumption) | exact Or.inr rfl | exact Or.inr ⟨rfl, rfl⟩
                               | exact Or.inr (NotBefore.same rfl rfl) | intro _ | apply Keeps.ite | dsimp only | split | apply Keeps.upd

theorem keeps_linkSend {W : List Fld} {s0 : State} (w_mate : .mate ∈ W) (rank : Nat) (bytes : List Nat) (s : State) (k_s : Keeps W s0 s) :
    Keeps W s0 (linkSend rank bytes s) := by
  unfold linkSend
  with_reducible repeat' first | assumption | exact Or.inl (by assumption) | exact Or.inr rfl | exact Or.inr ⟨rfl, rfl⟩
                               | exact Or.inr (NotBefore.same rfl rfl) | intro _ | apply keeps_modMate | apply Keeps.ite | dsimp only
                               | split | apply Keeps.upd

theorem keeps_linkDropEpoch {W : List Fld} {s0 : State} (w_mate : .mate ∈ W) (s : State) (k_s : Keeps W s0 s) : Keeps W s0 (linkDropEpoch
    s) := by
  unfold linkDropEpoch
  with_reducible repeat' first | assumption | exact Or.inl (by assumption) | exact Or.inr rfl | exact Or.inr ⟨rfl, rfl⟩
                               | exact Or.inr (NotBefore.same rfl rfl) | intro _ | apply keeps_modMate | apply Keeps.ite | dsimp only
                               | split | apply Keeps.upd

end Sys2Proof.Machine
end

