-- ==== Sys2Proof/Laws/Keeps/MateCore.lean ====
section
/-!
SUPPORT. The functions of Machine/MateCore.lean keep what every command keeps (`Keeps`).
-/
namespace Sys2Proof.Machine

open Sys2Proof

theorem keeps_reinChange {W : List Fld} {s0 : State} (w_pwr : .pwr ∈ W) (w_host : .host ∈ W) (w_mate : .mate ∈ W) (w_regs : .regs ∈ W)
    (new : Rein) (s : State) (k_s : Keeps W s0 s) : Keeps W s0 (reinChange new s) := by
  unfold reinChange
  with_reducible repeat' first | assumption | exact Or.inl (by assumption) | exact Or.inr rfl | exact Or.inr ⟨rfl, rfl⟩
                               | exact Or.inr (NotBefore.same rfl rfl) | intro _ | apply keeps_setCauses | apply Keeps.ite | dsimp only
                               | split | apply Keeps.upd

theorem keeps_setRein {W : List Fld} {s0 : State} (w_pwr : .pwr ∈ W) (w_host : .host ∈ W) (w_led : .led ∈ W) (w_mate : .mate ∈ W) (w_regs
    : .regs ∈ W) (new : Rein) (cause : Nat) (s : State) (k_s : Keeps W s0 s) : Keeps W s0 (setRein new cause s) := by
  unfold setRein
  with_reducible repeat' first | assumption | exact Or.inl (by assumption) | exact Or.inr rfl | exact Or.inr ⟨rfl, rfl⟩
                               | exact Or.inr (NotBefore.same rfl rfl) | intro _ | apply keeps_reinChange | apply keeps_rawHw
                               | apply Keeps.ite | dsimp only | split | apply Keeps.upd

theorem keeps_mateCauseAll {W : List Fld} {s0 : State} (w_host : .host ∈ W) (w_regs : .regs ∈ W) (k : Nat) (s : State) (k_s : Keeps W s0
    s) : Keeps W s0 (mateCauseAll k s) := by
  unfold mateCauseAll
  with_reducible repeat' first | assumption | exact Or.inl (by assumption) | exact Or.inr rfl | exact Or.inr ⟨rfl, rfl⟩
                               | exact Or.inr (NotBefore.same rfl rfl) | intro _ | apply keeps_setCauses

theorem keeps_mateCause0 {W : List Fld} {s0 : State} (w_host : .host ∈ W) (w_regs : .regs ∈ W) (k : Nat) (s : State) (k_s : Keeps W s0 s)
    : Keeps W s0 (mateCause0 k s) := by
  unfold mateCause0
  with_reducible repeat' first | assumption | exact Or.inl (by assumption) | exact Or.inr rfl | exact Or.inr ⟨rfl, rfl⟩
                               | exact Or.inr (NotBefore.same rfl rfl) | intro _ | apply keeps_setCause

theorem keeps_queueDelta {W : List Fld} {s0 : State} (w_mate : .mate ∈ W) (d : MateDelta) (s : State) (k_s : Keeps W s0 s) : Keeps W s0
    (queueDelta d s) := by
  unfold queueDelta
  with_reducible repeat' first | assumption | exact Or.inl (by assumption) | exact Or.inr rfl | exact Or.inr ⟨rfl, rfl⟩
                               | exact Or.inr (NotBefore.same rfl rfl) | intro _ | apply keeps_linkSend | apply keeps_modMate
                               | apply Keeps.ite | dsimp only | split | apply Keeps.upd

theorem keeps_sendDelta {W : List Fld} {s0 : State} (w_mate : .mate ∈ W) (mgmt : Bool) (d : MateDelta) (s : State) (k_s : Keeps W s0 s) :
    Keeps W s0 (sendDelta mgmt d s) := by
  unfold sendDelta
  with_reducible repeat' first | assumption | exact Or.inl (by assumption) | exact Or.inr rfl | exact Or.inr ⟨rfl, rfl⟩
                               | exact Or.inr (NotBefore.same rfl rfl) | intro _ | apply keeps_modMate | apply keeps_queueDelta
                               | apply Keeps.ite | dsimp only | split | apply Keeps.upd

theorem keeps_queueWaiting {W : List Fld} {s0 : State} (w_mate : .mate ∈ W) (limit : Nat) (x1 : List MateDelta) (x2 : State) (k_x2 : Keeps
    W s0 x2) : Keeps W s0 (queueWaiting limit x1 x2) := by
  induction x1 generalizing limit x2 k_x2 with
  | nil =>
    unfold queueWaiting
    with_reducible repeat' first | assumption | exact Or.inl (by assumption) | exact Or.inr rfl | exact Or.inr ⟨rfl, rfl⟩
                                 | exact Or.inr (NotBefore.same rfl rfl) | intro _ | apply keeps_queueDelta | apply keeps_modMate
                                 | apply Keeps.ite | dsimp only | split | apply Keeps.upd
  | cons hd tl ih =>
    unfold queueWaiting
    with_reducible repeat' first | assumption | apply ih | exact Or.inl (by assumption) | exact Or.inr rfl | exact Or.inr ⟨rfl, rfl⟩
                                 | exact Or.inr (NotBefore.same rfl rfl) | intro _ | apply keeps_queueDelta | apply keeps_modMate
                                 | apply Keeps.ite | dsimp only | split | apply Keeps.upd

theorem keeps_mirrorItem {W : List Fld} {s0 : State} (w_mate : .mate ∈ W) (mgmt : Bool) (space addr seq : Nat) (data : List Byte) (s :
    State) (k_s : Keeps W s0 s) : Keeps W s0 (mirrorItem mgmt space addr seq data s) := by
  unfold mirrorItem
  with_reducible repeat' first | assumption | exact Or.inl (by assumption) | exact Or.inr rfl | exact Or.inr ⟨rfl, rfl⟩
                               | exact Or.inr (NotBefore.same rfl rfl) | intro _ | apply keeps_sendDelta | apply Keeps.foldl

theorem keeps_mirrorDelete {W : List Fld} {s0 : State} (w_mate : .mate ∈ W) (mgmt : Bool) (space addr seq : Nat) (s : State) (k_s : Keeps
    W s0 s) : Keeps W s0 (mirrorDelete mgmt space addr seq s) := by
  unfold mirrorDelete
  with_reducible repeat' first | assumption | exact Or.inl (by assumption) | exact Or.inr rfl | exact Or.inr ⟨rfl, rfl⟩
                               | exact Or.inr (NotBefore.same rfl rfl) | intro _ | apply keeps_sendDelta

theorem keeps_mirrorReg {W : List Fld} {s0 : State} (w_mate : .mate ∈ W) (mgmt : Bool) (off bytes v seq : Nat) (s : State) (k_s : Keeps W
    s0 s) : Keeps W s0 (mirrorReg mgmt off bytes v seq s) := by
  unfold mirrorReg
  with_reducible repeat' first | assumption | exact Or.inl (by assumption) | exact Or.inr rfl | exact Or.inr ⟨rfl, rfl⟩
                               | exact Or.inr (NotBefore.same rfl rfl) | intro _ | apply keeps_mirrorItem

theorem keeps_mirrorMap {W : List Fld} {s0 : State} (w_mate : .mate ∈ W) (mgmt : Bool) (seat off v seq : Nat) (s : State) (k_s : Keeps W
    s0 s) : Keeps W s0 (mirrorMap mgmt seat off v seq s) := by
  unfold mirrorMap
  with_reducible repeat' first | assumption | exact Or.inl (by assumption) | exact Or.inr rfl | exact Or.inr ⟨rfl, rfl⟩
                               | exact Or.inr (NotBefore.same rfl rfl) | intro _ | apply keeps_mirrorItem

theorem keeps_mirrorSram {W : List Fld} {s0 : State} (w_mate : .mate ∈ W) (a n : Nat) (s : State) (k_s : Keeps W s0 s) : Keeps W s0
    (mirrorSram a n s) := by
  unfold mirrorSram
  with_reducible repeat' first | assumption | exact Or.inl (by assumption) | exact Or.inr rfl | exact Or.inr ⟨rfl, rfl⟩
                               | exact Or.inr (NotBefore.same rfl rfl) | intro _ | apply keeps_mirrorItem | apply Keeps.ite

theorem keeps_immediateRelease {W : List Fld} {s0 : State} (w_pwr : .pwr ∈ W) (w_host : .host ∈ W) (w_led : .led ∈ W) (w_mate : .mate ∈ W)
    (w_regs : .regs ∈ W) (block : Bool) (s : State) (k_s : Keeps W s0 s) : Keeps W s0 (immediateRelease block s) := by
  unfold immediateRelease
  with_reducible repeat' first | assumption | exact Or.inl (by assumption) | exact Or.inr rfl | exact Or.inr ⟨rfl, rfl⟩
                               | exact Or.inr (NotBefore.same rfl rfl) | intro _ | apply keeps_modMate | apply keeps_linkSend
                               | apply keeps_linkDropEpoch | apply keeps_mateCauseAll | apply keeps_setRein | apply Keeps.ite

end Sys2Proof.Machine
end

