-- ==== Sys2Proof/Laws/Keeps/Collector.lean ====
section
/-!
SUPPORT. The functions of Machine/Collector.lean keep what every command keeps (`Keeps`).
-/
namespace Sys2Proof.Machine

open Sys2Proof

theorem keeps_modFaultSrc {W : List Fld} {s0 : State} (w_flt : .flt ∈ W) (k : Nat) (f : FaultSrc → FaultSrc) (s : State) (k_s : Keeps W s0
    s) : Keeps W s0 (modFaultSrc k f s) := by
  unfold modFaultSrc
  with_reducible repeat' first | assumption | exact Or.inl (by assumption) | exact Or.inr rfl | exact Or.inr ⟨rfl, rfl⟩
                               | exact Or.inr (NotBefore.same rfl rfl) | intro _ | apply Keeps.ite | dsimp only | split | apply Keeps.upd

theorem keeps_faultCause {W : List Fld} {s0 : State} (w_host : .host ∈ W) (w_regs : .regs ∈ W) (k seat : Nat) (s : State) (k_s : Keeps W
    s0 s) : Keeps W s0 (faultCause k seat s) := by
  unfold faultCause
  with_reducible repeat' first | assumption | exact Or.inl (by assumption) | exact Or.inr rfl | exact Or.inr ⟨rfl, rfl⟩
                               | exact Or.inr (NotBefore.same rfl rfl) | intro _ | apply keeps_setCause

theorem keeps_faultRecord {W : List Fld} {s0 : State} (w_pwr : .pwr ∈ W) (w_host : .host ∈ W) (w_led : .led ∈ W) (w_flt : .flt ∈ W)
    (w_regs : .regs ∈ W) (k cls sev act : Nat) (pair injected first merged overflow : Bool) (s : State) (k_s : Keeps W s0 s) : Keeps W s0
    (faultRecord k cls sev act pair injected first merged overflow s) := by
  unfold faultRecord
  with_reducible repeat' first | assumption | exact Or.inl (by assumption) | exact Or.inr rfl | exact Or.inr ⟨rfl, rfl⟩
                               | exact Or.inr (NotBefore.same rfl rfl) | intro _ | apply keeps_modFaultSrc | apply keeps_rawHwSeat
                               | apply Keeps.ite

theorem keeps_releaseAction {W : List Fld} {s0 : State} (w_pwr : .pwr ∈ W) (w_host : .host ∈ W) (w_led : .led ∈ W) (w_mate : .mate ∈ W)
    (w_regs : .regs ∈ W) (s : State) (k_s : Keeps W s0 s) : Keeps W s0 (releaseAction s) := by
  unfold releaseAction
  with_reducible repeat' first | assumption | exact Or.inl (by assumption) | exact Or.inr rfl | exact Or.inr ⟨rfl, rfl⟩
                               | exact Or.inr (NotBefore.same rfl rfl) | intro _ | apply keeps_immediateRelease | apply keeps_modMate
                               | apply Keeps.ite | dsimp only | split

theorem keeps_stopAlive {W : List Fld} {s0 : State} (w_mate : .mate ∈ W) (w_flt : .flt ∈ W) (s : State) (k_s : Keeps W s0 s) : Keeps W s0
    (stopAlive s) := by
  unfold stopAlive
  with_reducible repeat' first | assumption | exact Or.inl (by assumption) | exact Or.inr rfl | exact Or.inr ⟨rfl, rfl⟩
                               | exact Or.inr (NotBefore.same rfl rfl) | intro _ | apply Keeps.ite | dsimp only | split | apply Keeps.upd

theorem keeps_raiseOne {W : List Fld} {s0 : State} (w_pwr : .pwr ∈ W) (w_host : .host ∈ W) (w_led : .led ∈ W) (w_mate : .mate ∈ W) (w_flt
    : .flt ∈ W) (w_regs : .regs ∈ W) (k : Nat) (pair injected limited : Bool) (s : State) (k_s : Keeps W s0 s) : Keeps W s0 (raiseOne k
    pair injected limited s) := by
  unfold raiseOne
  with_reducible repeat' first | assumption | exact Or.inl (by assumption) | exact Or.inr rfl | exact Or.inr ⟨rfl, rfl⟩
                               | exact Or.inr (NotBefore.same rfl rfl) | intro _ | apply keeps_modFaultSrc | apply keeps_faultRecord
                               | apply keeps_faultCause | apply keeps_releaseAction | apply keeps_stopAlive | apply Keeps.foldl
                               | apply Keeps.foldl_snd | apply Keeps.ite | dsimp only | split | apply Keeps.upd

theorem keeps_reportLoss {W : List Fld} {s0 : State} (w_pwr : .pwr ∈ W) (w_host : .host ∈ W) (w_led : .led ∈ W) (w_mate : .mate ∈ W)
    (w_flt : .flt ∈ W) (w_regs : .regs ∈ W) (s : State) (k_s : Keeps W s0 s) : Keeps W s0 (reportLoss s) := by
  unfold reportLoss
  with_reducible repeat' first | assumption | exact Or.inl (by assumption) | exact Or.inr rfl | exact Or.inr ⟨rfl, rfl⟩
                               | exact Or.inr (NotBefore.same rfl rfl) | intro _ | apply keeps_raiseOne | apply Keeps.ite | dsimp only
                               | split | apply Keeps.upd

theorem keeps_faultRaise {W : List Fld} {s0 : State} (w_pwr : .pwr ∈ W) (w_host : .host ∈ W) (w_led : .led ∈ W) (w_mate : .mate ∈ W)
    (w_flt : .flt ∈ W) (w_regs : .regs ∈ W) (k : Nat) (s : State) (k_s : Keeps W s0 s) : Keeps W s0 (faultRaise k s) := by
  unfold faultRaise
  with_reducible repeat' first | assumption | exact Or.inl (by assumption) | exact Or.inr rfl | exact Or.inr ⟨rfl, rfl⟩
                               | exact Or.inr (NotBefore.same rfl rfl) | intro _ | apply keeps_reportLoss | apply keeps_raiseOne
                               | apply Keeps.ite

theorem keeps_faultRaiseAll {W : List Fld} {s0 : State} (w_pwr : .pwr ∈ W) (w_host : .host ∈ W) (w_led : .led ∈ W) (w_mate : .mate ∈ W)
    (w_flt : .flt ∈ W) (w_regs : .regs ∈ W) (ks : List Nat) (s : State) (k_s : Keeps W s0 s) : Keeps W s0 (faultRaiseAll ks s) := by
  unfold faultRaiseAll
  with_reducible repeat' first | assumption | exact Or.inl (by assumption) | exact Or.inr rfl | exact Or.inr ⟨rfl, rfl⟩
                               | exact Or.inr (NotBefore.same rfl rfl) | intro _ | apply keeps_faultRaise | apply Keeps.foldl
                               | apply Keeps.foldl_snd | apply Keeps.ite | dsimp only | split | apply Keeps.upd

theorem keeps_ledgerHwSeat {W : List Fld} {s0 : State} (w_pwr : .pwr ∈ W) (w_host : .host ∈ W) (w_led : .led ∈ W) (w_mate : .mate ∈ W)
    (w_flt : .flt ∈ W) (w_regs : .regs ∈ W) (seat unit kind object old new : Nat) (kflag : Bool) (conts : List Nat) (s : State) (k_s :
    Keeps W s0 s) : Keeps W s0 (ledgerHwSeat seat unit kind object old new kflag conts s) := by
  unfold ledgerHwSeat
  with_reducible repeat' first | assumption | exact Or.inl (by assumption) | exact Or.inr rfl | exact Or.inr ⟨rfl, rfl⟩
                               | exact Or.inr (NotBefore.same rfl rfl) | intro _ | apply keeps_reportLoss | apply keeps_rawHwSeat

theorem keeps_ledgerHw {W : List Fld} {s0 : State} (w_pwr : .pwr ∈ W) (w_host : .host ∈ W) (w_led : .led ∈ W) (w_mate : .mate ∈ W) (w_flt
    : .flt ∈ W) (w_regs : .regs ∈ W) (unit kind object old new : Nat) (kflag : Bool) (conts : List Nat) (s : State) (k_s : Keeps W s0 s) :
    Keeps W s0 (ledgerHw unit kind object old new kflag conts s) := by
  unfold ledgerHw
  with_reducible repeat' first | assumption | exact Or.inl (by assumption) | exact Or.inr rfl | exact Or.inr ⟨rfl, rfl⟩
                               | exact Or.inr (NotBefore.same rfl rfl) | intro _ | apply keeps_ledgerHwSeat

theorem keeps_ledgerMgmt {W : List Fld} {s0 : State} (w_pwr : .pwr ∈ W) (w_host : .host ∈ W) (w_led : .led ∈ W) (w_mate : .mate ∈ W)
    (w_flt : .flt ∈ W) (w_regs : .regs ∈ W) (a : Agent) (kind object old new : Nat) (kflag : Bool) (conts : List Nat) (s : State) (k_s :
    Keeps W s0 s) : KeepsO W s0 (ledgerMgmt a kind object old new kflag conts s) := by
  unfold ledgerMgmt
  with_reducible repeat' first | assumption | exact Or.inl (by assumption) | exact Or.inr rfl | exact Or.inr ⟨rfl, rfl⟩
                               | exact Or.inr (NotBefore.same rfl rfl) | intro _ | apply keeps_reportLoss | apply keeps_rawMgmt
                               | exact KeepsO.none | apply KeepsO.some | apply KeepsO.map

end Sys2Proof.Machine
end

