-- ==== Sys2Proof/Laws/Keeps/FabricCore.lean ====
section
/-!
SUPPORT. The functions of Machine/FabricCore.lean keep what every command keeps (`Keeps`).
-/
namespace Sys2Proof.Machine

open Sys2Proof

theorem keeps_modConn {W : List Fld} {s0 : State} (w_fab : .fab ∈ W) (n : Nat) (f : Conn → Conn) (s : State) (k_s : Keeps W s0 s) : Keeps
    W s0 (modConn n f s) := by
  unfold modConn
  with_reducible repeat' first | assumption | exact Or.inl (by assumption) | exact Or.inr rfl | exact Or.inr ⟨rfl, rfl⟩
                               | exact Or.inr (NotBefore.same rfl rfl) | intro _ | apply Keeps.ite | dsimp only | split | apply Keeps.upd

theorem keeps_shadowSync {W : List Fld} {s0 : State} (w_fab : .fab ∈ W) (w_mate : .mate ∈ W) (mgmt : Bool) (seq : Nat) (s : State) (k_s :
    Keeps W s0 s) : Keeps W s0 (shadowSync mgmt seq s) := by
  unfold shadowSync
  with_reducible repeat' first | assumption | exact Or.inl (by assumption) | exact Or.inr rfl | exact Or.inr ⟨rfl, rfl⟩
                               | exact Or.inr (NotBefore.same rfl rfl) | intro _ | apply keeps_mirrorDelete | apply keeps_mirrorItem
                               | apply Keeps.foldl | apply Keeps.foldl_snd | apply Keeps.ite | dsimp only | split | apply Keeps.upd

theorem keeps_connRecord {W : List Fld} {s0 : State} (w_pwr : .pwr ∈ W) (w_host : .host ∈ W) (w_led : .led ∈ W) (w_mate : .mate ∈ W)
    (w_flt : .flt ∈ W) (w_regs : .regs ∈ W) (unit n old new cause : Nat) (s : State) (k_s : Keeps W s0 s) : Keeps W s0 (connRecord unit n
    old new cause s) := by
  unfold connRecord
  with_reducible repeat' first | assumption | exact Or.inl (by assumption) | exact Or.inr rfl | exact Or.inr ⟨rfl, rfl⟩
                               | exact Or.inr (NotBefore.same rfl rfl) | intro _ | apply keeps_ledgerHwSeat

theorem keeps_connTo {W : List Fld} {s0 : State} (w_pwr : .pwr ∈ W) (w_host : .host ∈ W) (w_led : .led ∈ W) (w_fab : .fab ∈ W) (w_mate :
    .mate ∈ W) (w_flt : .flt ∈ W) (w_regs : .regs ∈ W) (n : Nat) (m : ConnMode) (cause : Nat) (s : State) (k_s : Keeps W s0 s) : Keeps W
    s0 (connTo n m cause s) := by
  unfold connTo
  with_reducible repeat' first | assumption | exact Or.inl (by assumption) | exact Or.inr rfl | exact Or.inr ⟨rfl, rfl⟩
                               | exact Or.inr (NotBefore.same rfl rfl) | intro _ | apply keeps_connRecord | apply keeps_modConn
                               | apply keeps_mirrorItem | apply Keeps.ite

theorem keeps_pxCause {W : List Fld} {s0 : State} (w_host : .host ∈ W) (w_regs : .regs ∈ W) (n k : Nat) (s : State) (k_s : Keeps W s0 s) :
    Keeps W s0 (pxCause n k s) := by
  unfold pxCause
  with_reducible repeat' first | assumption | exact Or.inl (by assumption) | exact Or.inr rfl | exact Or.inr ⟨rfl, rfl⟩
                               | exact Or.inr (NotBefore.same rfl rfl) | intro _ | apply keeps_setCause

theorem keeps_pxEvent {W : List Fld} {s0 : State} (w_host : .host ∈ W) (w_st : .st ∈ W) (n : Nat) (s : State) (k_s : Keeps W s0 s) : Keeps
    W s0 (pxEvent n s) := by
  unfold pxEvent
  with_reducible repeat' first | assumption | exact Or.inl (by assumption) | exact Or.inr rfl | exact Or.inr ⟨rfl, rfl⟩
                               | exact Or.inr (NotBefore.same rfl rfl) | intro _ | apply keeps_setEvent | apply Keeps.ite

end Sys2Proof.Machine
end

