-- ==== Sys2Proof/Laws/Keeps/Line.lean ====
section
/-!
SUPPORT. The functions of Machine/Line.lean keep what every command keeps (`Keeps`).
-/
namespace Sys2Proof.Machine

open Sys2Proof

theorem keeps_setPort {W : List Fld} {s0 : State} (w_line : .line ∈ W) (p : Nat) (x : LinePort) (s : State) (k_s : Keeps W s0 s) : Keeps W
    s0 (setPort p x s) := by
  unfold setPort
  with_reducible repeat' first | assumption | exact Or.inl (by assumption) | exact Or.inr rfl | exact Or.inr ⟨rfl, rfl⟩
                               | exact Or.inr (NotBefore.same rfl rfl) | intro _ | apply Keeps.ite | dsimp only | split | apply Keeps.upd

theorem keeps_modPort {W : List Fld} {s0 : State} (w_line : .line ∈ W) (p : Nat) (f : LinePort → LinePort) (s : State) (k_s : Keeps W s0
    s) : Keeps W s0 (modPort p f s) := by
  unfold modPort
  with_reducible repeat' first | assumption | exact Or.inl (by assumption) | exact Or.inr rfl | exact Or.inr ⟨rfl, rfl⟩
                               | exact Or.inr (NotBefore.same rfl rfl) | intro _ | apply keeps_setPort

theorem keeps_lineReceive {W : List Fld} {s0 : State} (w_line : .line ∈ W) (p : Nat) (r : LineRx) (s : State) (k_s : Keeps W s0 s) : Keeps
    W s0 (lineReceive p r s) := by
  unfold lineReceive
  with_reducible repeat' first | assumption | exact Or.inl (by assumption) | exact Or.inr rfl | exact Or.inr ⟨rfl, rfl⟩
                               | exact Or.inr (NotBefore.same rfl rfl) | intro _ | apply keeps_setPort | apply Keeps.foldl
                               | apply Keeps.foldl_snd | apply Keeps.ite

theorem keeps_portWindows {W : List Fld} {s0 : State} (w_line : .line ∈ W) (tick skip : Bool) (p : Nat) (s : State) (k_s : Keeps W s0 s) :
    Keeps W s0 (portWindows tick skip p s) := by
  unfold portWindows
  with_reducible repeat' first | assumption | exact Or.inl (by assumption) | exact Or.inr rfl | exact Or.inr ⟨rfl, rfl⟩
                               | exact Or.inr (NotBefore.same rfl rfl) | intro _ | apply keeps_modPort | apply Keeps.ite | dsimp only
                               | split | apply Keeps.upd

theorem keeps_linesShift {W : List Fld} {s0 : State} (w_line : .line ∈ W) (s : State) (k_s : Keeps W s0 s) : Keeps W s0 (linesShift s) := by
  unfold linesShift
  with_reducible repeat' first | assumption | exact Or.inl (by assumption) | exact Or.inr rfl | exact Or.inr ⟨rfl, rfl⟩
                               | exact Or.inr (NotBefore.same rfl rfl) | intro _ | apply keeps_modPort | apply Keeps.foldl
                               | apply Keeps.foldl_snd | apply Keeps.ite | dsimp only | split | apply Keeps.upd

theorem keeps_txFaultAtTake {W : List Fld} {s0 : State} (w_pwr : .pwr ∈ W) (w_host : .host ∈ W) (w_led : .led ∈ W) (w_mate : .mate ∈ W)
    (w_flt : .flt ∈ W) (w_regs : .regs ∈ W) (s : State) (k_s : Keeps W s0 s) : Keeps W s0 (txFaultAtTake s) := by
  unfold txFaultAtTake
  with_reducible repeat' first | assumption | exact Or.inl (by assumption) | exact Or.inr rfl | exact Or.inr ⟨rfl, rfl⟩
                               | exact Or.inr (NotBefore.same rfl rfl) | intro _ | apply keeps_faultRaise | apply keeps_mateCause0
                               | apply keeps_modMate | apply Keeps.ite

theorem keeps_setGfp {W : List Fld} {s0 : State} (w_line : .line ∈ W) (c : Nat) (x : GfpChan) (s : State) (k_s : Keeps W s0 s) : Keeps W
    s0 (setGfp c x s) := by
  unfold setGfp
  with_reducible repeat' first | assumption | exact Or.inl (by assumption) | exact Or.inr rfl | exact Or.inr ⟨rfl, rfl⟩
                               | exact Or.inr (NotBefore.same rfl rfl) | intro _ | apply Keeps.ite | dsimp only | split | apply Keeps.upd

theorem keeps_portFlip {W : List Fld} {s0 : State} (w_host : .host ∈ W) (w_line : .line ∈ W) (w_regs : .regs ∈ W) (p : Nat) (s : State)
    (k_s : Keeps W s0 s) : Keeps W s0 (portFlip p s) := by
  unfold portFlip
  with_reducible repeat' first | assumption | exact Or.inl (by assumption) | exact Or.inr rfl | exact Or.inr ⟨rfl, rfl⟩
                               | exact Or.inr (NotBefore.same rfl rfl) | intro _ | apply keeps_setPort | apply keeps_notifyAll
                               | apply keeps_rmod | apply Keeps.ite

theorem keeps_gfpFlip {W : List Fld} {s0 : State} (w_line : .line ∈ W) (c : Nat) (s : State) (k_s : Keeps W s0 s) : Keeps W s0 (gfpFlip c
    s) := by
  unfold gfpFlip
  with_reducible repeat' first | assumption | exact Or.inl (by assumption) | exact Or.inr rfl | exact Or.inr ⟨rfl, rfl⟩
                               | exact Or.inr (NotBefore.same rfl rfl) | intro _ | apply keeps_setGfp | apply Keeps.ite

theorem keeps_portRestart {W : List Fld} {s0 : State} (w_line : .line ∈ W) (p : Nat) (s : State) (k_s : Keeps W s0 s) : Keeps W s0
    (portRestart p s) := by
  unfold portRestart
  with_reducible repeat' first | assumption | exact Or.inl (by assumption) | exact Or.inr rfl | exact Or.inr ⟨rfl, rfl⟩
                               | exact Or.inr (NotBefore.same rfl rfl) | intro _ | apply keeps_modPort

theorem keeps_lineStreamTake {W : List Fld} {s0 : State} (w_line : .line ∈ W) (st n : Nat) (s : State) (k_s : Keeps W s0 s) : Keeps W s0
    (lineStreamTake st n s).2 := by
  unfold lineStreamTake
  with_reducible repeat' first | assumption | exact Or.inl (by assumption) | exact Or.inr rfl | exact Or.inr ⟨rfl, rfl⟩
                               | exact Or.inr (NotBefore.same rfl rfl) | intro _ | apply keeps_setGfp | apply keeps_setPort
                               | apply Keeps.ite | refine Keeps.snd_of (by assumption) ?_ | dsimp only | split

theorem keeps_lineStreamPut {W : List Fld} {s0 : State} (w_line : .line ∈ W) (st : Nat) (bs : List Byte) (s : State) (k_s : Keeps W s0 s)
    : KeepsO W s0 (lineStreamPut st bs s) := by
  unfold lineStreamPut
  with_reducible repeat' first | assumption | exact Or.inl (by assumption) | exact Or.inr rfl | exact Or.inr ⟨rfl, rfl⟩
                               | exact Or.inr (NotBefore.same rfl rfl) | intro _ | apply keeps_setGfp | apply keeps_setPort
                               | exact KeepsO.none | apply KeepsO.some | apply KeepsO.map | apply KeepsO.ite | apply Keeps.ite
                               | dsimp only | split

end Sys2Proof.Machine
end

