-- ==== Sys2Proof/Laws/Keeps/Dunte.lean ====
section
/-!
SUPPORT. The functions of Machine/Dunte.lean keep what every command keeps (`Keeps`).
-/
namespace Sys2Proof.Machine

open Sys2Proof

theorem keeps_setLane {W : List Fld} {s0 : State} (w_dun : .dun ∈ W) (l : Nat) (x : Lane) (s : State) (k_s : Keeps W s0 s) : Keeps W s0
    (setLane l x s) := by
  unfold setLane
  with_reducible repeat' first | assumption | exact Or.inl (by assumption) | exact Or.inr rfl | exact Or.inr ⟨rfl, rfl⟩
                               | exact Or.inr (NotBefore.same rfl rfl) | intro _ | apply Keeps.ite | dsimp only | split | apply Keeps.upd

theorem keeps_modLane {W : List Fld} {s0 : State} (w_dun : .dun ∈ W) (l : Nat) (f : Lane → Lane) (s : State) (k_s : Keeps W s0 s) : Keeps
    W s0 (modLane l f s) := by
  unfold modLane
  with_reducible repeat' first | assumption | exact Or.inl (by assumption) | exact Or.inr rfl | exact Or.inr ⟨rfl, rfl⟩
                               | exact Or.inr (NotBefore.same rfl rfl) | intro _ | apply keeps_setLane

theorem keeps_bpCause {W : List Fld} {s0 : State} (w_host : .host ∈ W) (w_regs : .regs ∈ W) (l k : Nat) (s : State) (k_s : Keeps W s0 s) :
    Keeps W s0 (bpCause l k s) := by
  unfold bpCause
  with_reducible repeat' first | assumption | exact Or.inl (by assumption) | exact Or.inr rfl | exact Or.inr ⟨rfl, rfl⟩
                               | exact Or.inr (NotBefore.same rfl rfl) | intro _ | apply keeps_setCauses | apply Keeps.ite

theorem keeps_rxSlot {W : List Fld} {s0 : State} (w_host : .host ∈ W) (w_dun : .dun ∈ W) (w_regs : .regs ∈ W) (l : Nat) (r : DunteSlot) (s
    : State) (k_s : Keeps W s0 s) : Keeps W s0 (rxSlot l r s) := by
  unfold rxSlot
  with_reducible repeat' first | assumption | exact Or.inl (by assumption) | exact Or.inr rfl | exact Or.inr ⟨rfl, rfl⟩
                               | exact Or.inr (NotBefore.same rfl rfl) | intro _ | apply keeps_bpCause | apply Keeps.ite | dsimp only
                               | split | apply Keeps.upd

theorem keeps_rxLaneCells {W : List Fld} {s0 : State} (w_dun : .dun ∈ W) (l : Nat) (r : DunteSlot) (s : State) (k_s : Keeps W s0 s) :
    Keeps W s0 (rxLaneCells l r s) := by
  unfold rxLaneCells
  with_reducible repeat' first | assumption | exact Or.inl (by assumption) | exact Or.inr rfl | exact Or.inr ⟨rfl, rfl⟩
                               | exact Or.inr (NotBefore.same rfl rfl) | intro _ | apply Keeps.ite | dsimp only | split | apply Keeps.upd

theorem keeps_rxLaneTrib {W : List Fld} {s0 : State} (w_dun : .dun ∈ W) (l : Nat) (r : TribRx) (s : State) (k_s : Keeps W s0 s) : Keeps W
    s0 (rxLaneTrib l r s) := by
  unfold rxLaneTrib
  with_reducible repeat' first | assumption | exact Or.inl (by assumption) | exact Or.inr rfl | exact Or.inr ⟨rfl, rfl⟩
                               | exact Or.inr (NotBefore.same rfl rfl) | intro _ | apply Keeps.ite | dsimp only | split | apply Keeps.upd

theorem keeps_laneReceive {W : List Fld} {s0 : State} (w_pwr : .pwr ∈ W) (w_host : .host ∈ W) (w_led : .led ∈ W) (w_mate : .mate ∈ W)
    (w_dun : .dun ∈ W) (w_flt : .flt ∈ W) (w_regs : .regs ∈ W) (l : Nat) (r : DunteRx) (s : State) (k_s : Keeps W s0 s) : Keeps W s0
    (laneReceive l r s) := by
  unfold laneReceive
  with_reducible repeat' first | assumption | exact Or.inl (by assumption) | exact Or.inr rfl | exact Or.inr ⟨rfl, rfl⟩
                               | exact Or.inr (NotBefore.same rfl rfl) | intro _ | apply keeps_setLane | apply keeps_bpCause
                               | apply keeps_faultRaise | apply keeps_rxLaneTrib | apply keeps_rxLaneCells | apply keeps_rxSlot
                               | apply Keeps.foldl | apply Keeps.foldl_snd | apply Keeps.ite | dsimp only | split | apply Keeps.upd

theorem keeps_laneDrop {W : List Fld} {s0 : State} (w_dun : .dun ∈ W) (l : Nat) (s : State) (k_s : Keeps W s0 s) : Keeps W s0 (laneDrop l
    s) := by
  unfold laneDrop
  with_reducible repeat' first | assumption | exact Or.inl (by assumption) | exact Or.inr rfl | exact Or.inr ⟨rfl, rfl⟩
                               | exact Or.inr (NotBefore.same rfl rfl) | intro _ | apply keeps_modLane | apply Keeps.ite | dsimp only
                               | split | apply Keeps.upd

theorem keeps_laneWindow {W : List Fld} {s0 : State} (w_host : .host ∈ W) (w_dun : .dun ∈ W) (w_regs : .regs ∈ W) (start skip : Bool) (k :
    Nat) (s : State) (k_s : Keeps W s0 s) : Keeps W s0 (laneWindow start skip k s) := by
  unfold laneWindow
  with_reducible repeat' first | assumption | exact Or.inl (by assumption) | exact Or.inr rfl | exact Or.inr ⟨rfl, rfl⟩
                               | exact Or.inr (NotBefore.same rfl rfl) | intro _ | apply keeps_setLane | apply keeps_bpCause
                               | apply Keeps.ite | dsimp only | split | apply Keeps.upd

theorem keeps_laneTxBoundary {W : List Fld} {s0 : State} (w_dun : .dun ∈ W) (l : Nat) (s : State) (k_s : Keeps W s0 s) : Keeps W s0
    (laneTxBoundary l s) := by
  unfold laneTxBoundary
  with_reducible repeat' first | assumption | exact Or.inl (by assumption) | exact Or.inr rfl | exact Or.inr ⟨rfl, rfl⟩
                               | exact Or.inr (NotBefore.same rfl rfl) | intro _ | apply keeps_setLane | apply Keeps.ite | dsimp only
                               | split

theorem keeps_laneFlip {W : List Fld} {s0 : State} (w_host : .host ∈ W) (w_dun : .dun ∈ W) (w_regs : .regs ∈ W) (l : Nat) (s : State) (k_s
    : Keeps W s0 s) : Keeps W s0 (laneFlip l s) := by
  unfold laneFlip
  with_reducible repeat' first | assumption | exact Or.inl (by assumption) | exact Or.inr rfl | exact Or.inr ⟨rfl, rfl⟩
                               | exact Or.inr (NotBefore.same rfl rfl) | intro _ | apply keeps_setLane | apply keeps_bpCause
                               | apply Keeps.ite

theorem keeps_dunteFlip {W : List Fld} {s0 : State} (w_dun : .dun ∈ W) (s : State) (k_s : Keeps W s0 s) : Keeps W s0 (dunteFlip s) := by
  unfold dunteFlip
  with_reducible repeat' first | assumption | exact Or.inl (by assumption) | exact Or.inr rfl | exact Or.inr ⟨rfl, rfl⟩
                               | exact Or.inr (NotBefore.same rfl rfl) | intro _ | apply Keeps.ite | dsimp only | split | apply Keeps.upd

theorem keeps_decideCopies {W : List Fld} {s0 : State} (w_dun : .dun ∈ W) (s : State) (k_s : Keeps W s0 s) : Keeps W s0 (decideCopies s) := by
  unfold decideCopies
  with_reducible repeat' first | assumption | exact Or.inl (by assumption) | exact Or.inr rfl | exact Or.inr ⟨rfl, rfl⟩
                               | exact Or.inr (NotBefore.same rfl rfl) | intro _ | apply Keeps.ite | dsimp only | split | apply Keeps.upd

theorem keeps_applyCopies {W : List Fld} {s0 : State} (w_host : .host ∈ W) (w_dun : .dun ∈ W) (w_regs : .regs ∈ W) (due : Tab Bool) (s :
    State) (k_s : Keeps W s0 s) : Keeps W s0 (applyCopies due s) := by
  unfold applyCopies
  with_reducible repeat' first | assumption | exact Or.inl (by assumption) | exact Or.inr rfl | exact Or.inr ⟨rfl, rfl⟩
                               | exact Or.inr (NotBefore.same rfl rfl) | intro _ | apply keeps_bpCause | apply Keeps.foldl
                               | apply Keeps.foldl_snd | apply Keeps.ite | dsimp only | split | apply Keeps.upd

theorem keeps_lanesShift {W : List Fld} {s0 : State} (w_dun : .dun ∈ W) (s : State) (k_s : Keeps W s0 s) : Keeps W s0 (lanesShift s) := by
  unfold lanesShift
  with_reducible repeat' first | assumption | exact Or.inl (by assumption) | exact Or.inr rfl | exact Or.inr ⟨rfl, rfl⟩
                               | exact Or.inr (NotBefore.same rfl rfl) | intro _ | apply Keeps.foldl | apply Keeps.foldl_snd
                               | apply Keeps.ite | dsimp only | split | apply Keeps.upd

theorem keeps_stripeStep {W : List Fld} {s0 : State} (w_dun : .dun ∈ W) (s : State) (k_s : Keeps W s0 s) : Keeps W s0 (stripeStep s) := by
  unfold stripeStep
  with_reducible repeat' first | assumption | exact Or.inl (by assumption) | exact Or.inr rfl | exact Or.inr ⟨rfl, rfl⟩
                               | exact Or.inr (NotBefore.same rfl rfl) | intro _ | apply keeps_modLane | apply Keeps.foldl
                               | apply Keeps.foldl_snd | apply Keeps.ite | dsimp only | split | apply Keeps.upd

end Sys2Proof.Machine
end

