-- ==== Sys2Proof/Laws/Keeps/Transmit.lean ====
section
/-!
SUPPORT. The functions of Machine/Transmit.lean keep what every command keeps (`Keeps`).
-/
namespace Sys2Proof.Machine

open Sys2Proof

theorem keeps_takeOctets {W : List Fld} {s0 : State} (w_line : .line ∈ W) (s : State) (p : Nat) (k_s : Keeps W s0 s) : Keeps W s0
    (takeOctets s p).2 := by
  unfold takeOctets
  with_reducible repeat' first | assumption | exact Or.inl (by assumption) | exact Or.inr rfl | exact Or.inr ⟨rfl, rfl⟩
                               | exact Or.inr (NotBefore.same rfl rfl) | intro _ | apply keeps_setGfp | apply Keeps.foldl
                               | apply Keeps.foldl_snd | apply Keeps.ite | refine Keeps.snd_of (by assumption) ?_ | dsimp only | split
                               | apply Keeps.upd

theorem keeps_lineTransmit {W : List Fld} {s0 : State} (w_line : .line ∈ W) (p : Nat) (g : List TxStore) (s0z : State) (k_s0z : Keeps W s0
    s0z) : Keeps W s0 (lineTransmit p g s0z) := by
  unfold lineTransmit
  with_reducible repeat' first | assumption | exact Or.inl (by assumption) | exact Or.inr rfl | exact Or.inr ⟨rfl, rfl⟩
                               | exact Or.inr (NotBefore.same rfl rfl) | intro _ | apply keeps_modPort | apply keeps_takeOctets
                               | apply keeps_setPort | apply Keeps.foldl | apply Keeps.foldl_snd | apply Keeps.ite
                               | refine Keeps.snd_of (by assumption) ?_

theorem keeps_laneSend {W : List Fld} {s0 : State} (w_dun : .dun ∈ W) (k : Nat) (area : List Nat) (s : State) (k_s : Keeps W s0 s) : Keeps
    W s0 (laneSend k area s) := by
  unfold laneSend
  with_reducible repeat' first | assumption | exact Or.inl (by assumption) | exact Or.inr rfl | exact Or.inr ⟨rfl, rfl⟩
                               | exact Or.inr (NotBefore.same rfl rfl) | intro _ | apply keeps_setLane | apply Keeps.ite | dsimp only
                               | split | apply Keeps.upd

end Sys2Proof.Machine
end

