-- ==== Sys2Proof/Laws/Keeps/LedgerCmds.lean ====
section
/-!
SUPPORT. The functions of Machine/LedgerCmds.lean keep what every command keeps (`Keeps`).
-/
namespace Sys2Proof.Machine

open Sys2Proof

theorem keeps_releaseTo {W : List Fld} {s0 : State} (w_led : .led ∈ W) (seq : Nat) (s : State) (k_s : Keeps W s0 s) : Keeps W s0
    (releaseTo seq s) := by
  unfold releaseTo
  with_reducible repeat' first | assumption | exact Or.inl (by assumption) | exact Or.inr rfl | exact Or.inr ⟨rfl, rfl⟩
                               | exact Or.inr (NotBefore.same rfl rfl) | intro _ | apply Keeps.ite | dsimp only | split | apply Keeps.upd

theorem keeps_startBatch {W : List Fld} {s0 : State} (w_led : .led ∈ W) (s : State) (k_s : Keeps W s0 s) : Keeps W s0 (startBatch s) := by
  unfold startBatch
  with_reducible repeat' first | assumption | exact Or.inl (by assumption) | exact Or.inr rfl | exact Or.inr ⟨rfl, rfl⟩
                               | exact Or.inr (NotBefore.same rfl rfl) | intro _ | apply Keeps.ite | dsimp only | split | apply Keeps.upd

theorem keeps_spillCtlHook {W : List Fld} {s0 : State} (w_led : .led ∈ W) (old new : Nat) (s : State) (k_s : Keeps W s0 s) : Keeps W s0
    (spillCtlHook old new s) := by
  unfold spillCtlHook
  with_reducible repeat' first | assumption | exact Or.inl (by assumption) | exact Or.inr rfl | exact Or.inr ⟨rfl, rfl⟩
                               | exact Or.inr (NotBefore.same rfl rfl) | intro _ | apply Keeps.ite | dsimp only | split | apply Keeps.upd

theorem keeps_spillRecord {W : List Fld} {s0 : State} (w_pwr : .pwr ∈ W) (w_host : .host ∈ W) (w_led : .led ∈ W) (w_mate : .mate ∈ W)
    (w_flt : .flt ∈ W) (w_regs : .regs ∈ W) (new : Nat) (s : State) (k_s : Keeps W s0 s) : Keeps W s0 (spillRecord new s) := by
  unfold spillRecord
  with_reducible repeat' first | assumption | exact Or.inl (by assumption) | exact Or.inr rfl | exact Or.inr ⟨rfl, rfl⟩
                               | exact Or.inr (NotBefore.same rfl rfl) | intro _ | apply keeps_ledgerHw

theorem keeps_spillFail {W : List Fld} {s0 : State} (w_pwr : .pwr ∈ W) (w_host : .host ∈ W) (w_led : .led ∈ W) (w_mate : .mate ∈ W) (w_flt
    : .flt ∈ W) (w_regs : .regs ∈ W) (cause : Nat) (s : State) (k_s : Keeps W s0 s) : Keeps W s0 (spillFail cause s) := by
  unfold spillFail
  with_reducible repeat' first | assumption | exact Or.inl (by assumption) | exact Or.inr rfl | exact Or.inr ⟨rfl, rfl⟩
                               | exact Or.inr (NotBefore.same rfl rfl) | intro _ | apply keeps_spillRecord | apply keeps_faultRaise
                               | apply keeps_setCauseP | apply Keeps.ite | dsimp only | split | apply Keeps.upd

end Sys2Proof.Machine
end

