-- ==== Sys2Proof/Laws/Keeps/Stage.lean ====
section
/-!
SUPPORT. The functions of Machine/Stage.lean keep what every command keeps (`Keeps`).
-/
namespace Sys2Proof.Machine

open Sys2Proof

theorem keeps_modSeatLt {W : List Fld} {s0 : State} (w_lt : .lt ∈ W) (seat : Nat) (f : SeatLt → SeatLt) (s : State) (k_s : Keeps W s0 s) :
    Keeps W s0 (modSeatLt seat f s) := by
  unfold modSeatLt
  with_reducible repeat' first | assumption | exact Or.inl (by assumption) | exact Or.inr rfl | exact Or.inr ⟨rfl, rfl⟩
                               | exact Or.inr (NotBefore.same rfl rfl) | intro _ | apply Keeps.ite | dsimp only | split | apply Keeps.upd

theorem keeps_groupOverflow {W : List Fld} {s0 : State} (w_lt : .lt ∈ W) (seat : Nat) (s : State) (k_s : Keeps W s0 s) : Keeps W s0
    (groupOverflow seat s) := by
  unfold groupOverflow
  with_reducible repeat' first | assumption | exact Or.inl (by assumption) | exact Or.inr rfl | exact Or.inr ⟨rfl, rfl⟩
                               | exact Or.inr (NotBefore.same rfl rfl) | intro _ | apply keeps_modSeatLt

theorem keeps_pushStaged {W : List Fld} {s0 : State} (w_lt : .lt ∈ W) (seat : Nat) (w : StagedWrite) (s : State) (k_s : Keeps W s0 s) :
    Keeps W s0 (pushStaged seat w s) := by
  unfold pushStaged
  with_reducible repeat' first | assumption | exact Or.inl (by assumption) | exact Or.inr rfl | exact Or.inr ⟨rfl, rfl⟩
                               | exact Or.inr (NotBefore.same rfl rfl) | intro _ | apply keeps_modSeatLt

theorem keeps_stageValue {W : List Fld} {s0 : State} (w_lt : .lt ∈ W) (w_pwr : .pwr ∈ W) (w_host : .host ∈ W) (w_led : .led ∈ W) (w_mate :
    .mate ∈ W) (w_flt : .flt ∈ W) (w_regs : .regs ∈ W) (a : Agent) (key object bytes old new : Nat) (s : State) (k_s : Keeps W s0 s) :
    Keeps W s0 (stageValue a key object bytes old new s).2 := by
  unfold stageValue
  with_reducible repeat' first | assumption | exact Or.inl (by assumption) | exact Or.inr rfl | exact Or.inr ⟨rfl, rfl⟩
                               | exact Or.inr (NotBefore.same rfl rfl) | intro _ | apply keeps_groupOverflow | apply keeps_pushStaged
                               | apply keeps_ledgerMgmt | apply Keeps.ite | refine Keeps.snd_of (by assumption) ?_
                               | refine KeepsO.of (by assumption) ?_ | apply KeepsO.getD | dsimp only | split

theorem keeps_connStateBy {W : List Fld} {s0 : State} (w_pwr : .pwr ∈ W) (w_host : .host ∈ W) (w_led : .led ∈ W) (w_mate : .mate ∈ W)
    (w_flt : .flt ∈ W) (w_regs : .regs ∈ W) (a : Agent) (n old new cause : Nat) (s : State) (k_s : Keeps W s0 s) : KeepsO W s0
    (connStateBy a n old new cause s) := by
  unfold connStateBy
  with_reducible repeat' first | assumption | exact Or.inl (by assumption) | exact Or.inr rfl | exact Or.inr ⟨rfl, rfl⟩
                               | exact Or.inr (NotBefore.same rfl rfl) | intro _ | apply keeps_ledgerMgmt | exact KeepsO.none
                               | apply KeepsO.some | apply KeepsO.map | apply KeepsO.ite | apply Keeps.ite
                               | refine KeepsO.of (by assumption) ?_ | apply KeepsO.getD

theorem keeps_stageConn {W : List Fld} {s0 : State} (w_lt : .lt ∈ W) (w_pwr : .pwr ∈ W) (w_host : .host ∈ W) (w_led : .led ∈ W) (w_fab :
    .fab ∈ W) (w_mate : .mate ∈ W) (w_flt : .flt ∈ W) (w_regs : .regs ∈ W) (a : Agent) (num v0 : Nat) (s : State) (k_s : Keeps W s0 s) :
    Keeps W s0 (stageConn a num v0 s).2 := by
  unfold stageConn
  with_reducible repeat' first | assumption | exact Or.inl (by assumption) | exact Or.inr rfl | exact Or.inr ⟨rfl, rfl⟩
                               | exact Or.inr (NotBefore.same rfl rfl) | intro _ | apply keeps_groupOverflow | apply keeps_ledgerMgmt
                               | apply keeps_modConn | apply keeps_connStateBy | apply keeps_pushStaged | apply Keeps.ite
                               | refine Keeps.snd_of (by assumption) ?_ | refine KeepsO.of (by assumption) ?_ | apply KeepsO.getD
                               | dsimp only | split

theorem keeps_setExpect {W : List Fld} {s0 : State} (w_prot : .prot ∈ W) (i : Nat) (x : Option Expect) (s : State) (k_s : Keeps W s0 s) :
    Keeps W s0 (setExpect i x s) := by
  unfold setExpect
  with_reducible repeat' first | assumption | exact Or.inl (by assumption) | exact Or.inr rfl | exact Or.inr ⟨rfl, rfl⟩
                               | exact Or.inr (NotBefore.same rfl rfl) | intro _ | apply Keeps.ite | dsimp only | split | apply Keeps.upd

theorem keeps_mirrorExpect {W : List Fld} {s0 : State} (w_mate : .mate ∈ W) (mgmt : Bool) (i : Nat) (s : State) (k_s : Keeps W s0 s) :
    Keeps W s0 (mirrorExpect mgmt i s) := by
  unfold mirrorExpect
  with_reducible repeat' first | assumption | exact Or.inl (by assumption) | exact Or.inr rfl | exact Or.inr ⟨rfl, rfl⟩
                               | exact Or.inr (NotBefore.same rfl rfl) | intro _ | apply keeps_mirrorItem | apply keeps_mirrorDelete
                               | apply Keeps.ite | dsimp only | split

theorem keeps_stageAttach {W : List Fld} {s0 : State} (w_lt : .lt ∈ W) (w_pwr : .pwr ∈ W) (w_host : .host ∈ W) (w_led : .led ∈ W) (w_prot
    : .prot ∈ W) (w_mate : .mate ∈ W) (w_flt : .flt ∈ W) (w_regs : .regs ∈ W) (a : Agent) (addr v : Nat) (s : State) (k_s : Keeps W s0 s)
    : Keeps W s0 (stageAttach a addr v s).2.2 := by
  unfold stageAttach
  with_reducible repeat' first | assumption | exact Or.inl (by assumption) | exact Or.inr rfl | exact Or.inr ⟨rfl, rfl⟩
                               | exact Or.inr (NotBefore.same rfl rfl) | intro _ | apply keeps_stageValue | apply keeps_mirrorExpect
                               | apply keeps_setExpect | apply Keeps.ite | refine Keeps.snd_of (by assumption) ?_ | dsimp only | split

theorem keeps_stageDetach {W : List Fld} {s0 : State} (w_lt : .lt ∈ W) (w_pwr : .pwr ∈ W) (w_host : .host ∈ W) (w_led : .led ∈ W) (w_mate
    : .mate ∈ W) (w_flt : .flt ∈ W) (w_regs : .regs ∈ W) (a : Agent) (addr num : Nat) (s : State) (k_s : Keeps W s0 s) : Keeps W s0
    (stageDetach a addr num s).2.2 := by
  unfold stageDetach
  with_reducible repeat' first | assumption | exact Or.inl (by assumption) | exact Or.inr rfl | exact Or.inr ⟨rfl, rfl⟩
                               | exact Or.inr (NotBefore.same rfl rfl) | intro _ | apply keeps_stageValue | apply Keeps.ite
                               | refine Keeps.snd_of (by assumption) ?_ | dsimp only | split

theorem keeps_freeReserved {W : List Fld} {s0 : State} (w_prot : .prot ∈ W) (w_mate : .mate ∈ W) (ws : List StagedWrite) (s : State) (k_s
    : Keeps W s0 s) : Keeps W s0 (freeReserved ws s) := by
  unfold freeReserved
  with_reducible repeat' first | assumption | exact Or.inl (by assumption) | exact Or.inr rfl | exact Or.inr ⟨rfl, rfl⟩
                               | exact Or.inr (NotBefore.same rfl rfl) | intro _ | apply keeps_mirrorExpect | apply keeps_setExpect
                               | apply Keeps.foldl | apply Keeps.foldl_snd | apply Keeps.ite | dsimp only | split

end Sys2Proof.Machine
end

