-- ==== Sys2Proof/Laws/Keeps/Paths.lean ====
section
/-!
SUPPORT. The functions of Machine/Paths.lean keep what every command keeps (`Keeps`).
-/
namespace Sys2Proof.Machine

open Sys2Proof

theorem keeps_modPath {W : List Fld} {s0 : State} (w_host : .host ∈ W) (pk : Nat) (f : PathState → PathState) (s : State) (k_s : Keeps W
    s0 s) : Keeps W s0 (modPath pk f s) := by
  unfold modPath
  with_reducible repeat' first | assumption | exact Or.inl (by assumption) | exact Or.inr rfl | exact Or.inr ⟨rfl, rfl⟩
                               | exact Or.inr (NotBefore.same rfl rfl) | intro _ | apply Keeps.ite | dsimp only | split | apply Keeps.upd

theorem keeps_hostCause {W : List Fld} {s0 : State} (w_host : .host ∈ W) (w_regs : .regs ∈ W) (seat k : Nat) (s : State) (k_s : Keeps W s0
    s) : Keeps W s0 (hostCause seat k s) := by
  unfold hostCause
  with_reducible repeat' first | assumption | exact Or.inl (by assumption) | exact Or.inr rfl | exact Or.inr ⟨rfl, rfl⟩
                               | exact Or.inr (NotBefore.same rfl rfl) | intro _ | apply keeps_setCause

theorem keeps_refuseHost {W : List Fld} {s0 : State} (w_host : .host ∈ W) (w_book : .book ∈ W) (w_regs : .regs ∈ W) (a : Agent) (off code
    : Nat) (s : State) (k_s : Keeps W s0 s) : Keeps W s0 (refuseHost a off code s) := by
  unfold refuseHost
  with_reducible repeat' first | assumption | exact Or.inl (by assumption) | exact Or.inr rfl | exact Or.inr ⟨rfl, rfl⟩
                               | exact Or.inr (NotBefore.same rfl rfl) | intro _ | apply keeps_hostCause | apply keeps_countOutcome
                               | apply keeps_modPath

theorem keeps_notFitted {W : List Fld} {s0 : State} (w_host : .host ∈ W) (w_regs : .regs ∈ W) (a : Agent) (off : Nat) (s : State) (k_s :
    Keeps W s0 s) : Keeps W s0 (notFitted a off s) := by
  unfold notFitted
  with_reducible repeat' first | assumption | exact Or.inl (by assumption) | exact Or.inr rfl | exact Or.inr ⟨rfl, rfl⟩
                               | exact Or.inr (NotBefore.same rfl rfl) | intro _ | apply keeps_hostCause | apply keeps_modPath

theorem keeps_pairMiss {W : List Fld} {s0 : State} (w_host : .host ∈ W) (w_regs : .regs ∈ W) (a : Agent) (s : State) (k_s : Keeps W s0 s)
    : Keeps W s0 (pairMiss a s) := by
  unfold pairMiss
  with_reducible repeat' first | assumption | exact Or.inl (by assumption) | exact Or.inr rfl | exact Or.inr ⟨rfl, rfl⟩
                               | exact Or.inr (NotBefore.same rfl rfl) | intro _ | apply keeps_hostCause | apply keeps_modPath

theorem keeps_discardCount {W : List Fld} {s0 : State} (w_host : .host ∈ W) (w_regs : .regs ∈ W) (a : Agent) (s : State) (k_s : Keeps W s0
    s) : Keeps W s0 (discardCount a s) := by
  unfold discardCount
  with_reducible repeat' first | assumption | exact Or.inl (by assumption) | exact Or.inr rfl | exact Or.inr ⟨rfl, rfl⟩
                               | exact Or.inr (NotBefore.same rfl rfl) | intro _ | apply keeps_hostCause | apply keeps_modPath

theorem keeps_hostEnd {W : List Fld} {s0 : State} (w_host : .host ∈ W) (w_book : .book ∈ W) (w_regs : .regs ∈ W) (a : Agent) (off : Nat)
    (r : Nat × State) (k_r : Keeps W s0 r.2) : Keeps W s0 (hostEnd a off r) := by
  unfold hostEnd
  with_reducible repeat' first | assumption | exact Or.inl (by assumption) | exact Or.inr rfl | exact Or.inr ⟨rfl, rfl⟩
                               | exact Or.inr (NotBefore.same rfl rfl) | intro _ | apply keeps_refuseHost | apply Keeps.ite

end Sys2Proof.Machine
end

