-- ==== Sys2Proof/Laws/Keeps/Prot.lean ====
section
/-!
SUPPORT. The functions of Machine/Prot.lean keep what every command keeps (`Keeps`).
-/
namespace Sys2Proof.Machine

open Sys2Proof

theorem keeps_setCtl {W : List Fld} {s0 : State} (w_prot : .prot ∈ W) (r : ProtRef) (c : ProtCtl) (s : State) (k_s : Keeps W s0 s) : Keeps
    W s0 (setCtl r c s) := by
  unfold setCtl
  with_reducible repeat' first | assumption | exact Or.inl (by assumption) | exact Or.inr rfl | exact Or.inr ⟨rfl, rfl⟩
                               | exact Or.inr (NotBefore.same rfl rfl) | intro _ | apply Keeps.ite | dsimp only | split | apply Keeps.upd

theorem keeps_protEvent {W : List Fld} {s0 : State} (w_host : .host ∈ W) (w_st : .st ∈ W) (r : ProtRef) (s : State) (k_s : Keeps W s0 s) :
    Keeps W s0 (protEvent r s) := by
  unfold protEvent
  with_reducible repeat' first | assumption | exact Or.inl (by assumption) | exact Or.inr rfl | exact Or.inr ⟨rfl, rfl⟩
                               | exact Or.inr (NotBefore.same rfl rfl) | intro _ | apply keeps_setEvent | apply Keeps.ite

theorem keeps_protRecord {W : List Fld} {s0 : State} (w_pwr : .pwr ∈ W) (w_host : .host ∈ W) (w_led : .led ∈ W) (w_mate : .mate ∈ W)
    (w_flt : .flt ∈ W) (w_regs : .regs ∈ W) (r : ProtRef) (event before : Nat) (s : State) (k_s : Keeps W s0 s) : Keeps W s0 (protRecord r
    event before s) := by
  unfold protRecord
  with_reducible repeat' first | assumption | exact Or.inl (by assumption) | exact Or.inr rfl | exact Or.inr ⟨rfl, rfl⟩
                               | exact Or.inr (NotBefore.same rfl rfl) | intro _ | apply keeps_ledgerHwSeat

theorem keeps_protEval {W : List Fld} {s0 : State} (w_pwr : .pwr ∈ W) (w_host : .host ∈ W) (w_led : .led ∈ W) (w_st : .st ∈ W) (w_prot :
    .prot ∈ W) (w_mate : .mate ∈ W) (w_flt : .flt ∈ W) (w_regs : .regs ∈ W) (r : ProtRef) (s : State) (k_s : Keeps W s0 s) : Keeps W s0
    (protEval r s) := by
  unfold protEval
  with_reducible repeat' first | assumption | exact Or.inl (by assumption) | exact Or.inr rfl | exact Or.inr ⟨rfl, rfl⟩
                               | exact Or.inr (NotBefore.same rfl rfl) | intro _ | apply keeps_setCtl | apply keeps_protRecord
                               | apply keeps_setCause | apply keeps_faultRaise | apply keeps_protEvent | apply Keeps.ite | dsimp only
                               | split

theorem keeps_protCommand {W : List Fld} {s0 : State} (w_pwr : .pwr ∈ W) (w_host : .host ∈ W) (w_led : .led ∈ W) (w_prot : .prot ∈ W)
    (w_mate : .mate ∈ W) (w_flt : .flt ∈ W) (w_regs : .regs ∈ W) (a : Agent) (hw : Bool) (r : ProtRef) (code : Nat) (s : State) (k_s :
    Keeps W s0 s) : Keeps W s0 (protCommand a hw r code s).2 := by
  unfold protCommand
  with_reducible repeat' first | assumption | exact Or.inl (by assumption) | exact Or.inr rfl | exact Or.inr ⟨rfl, rfl⟩
                               | exact Or.inr (NotBefore.same rfl rfl) | intro _ | apply keeps_setCtl | apply keeps_mirrorItem
                               | apply keeps_ledgerHwSeat | apply keeps_ledgerMgmt | apply Keeps.ite
                               | refine Keeps.snd_of (by assumption) ?_ | refine KeepsO.of (by assumption) ?_ | apply KeepsO.getD
                               | dsimp only | split

theorem keeps_cmdEnd {W : List Fld} {s0 : State} (w_host : .host ∈ W) (w_regs : .regs ∈ W) (seat : Nat) (x : Nat × State) (k_x : Keeps W
    s0 x.2) : Keeps W s0 (cmdEnd seat x).2 := by
  unfold cmdEnd
  with_reducible repeat' first | assumption | exact Or.inl (by assumption) | exact Or.inr rfl | exact Or.inr ⟨rfl, rfl⟩
                               | exact Or.inr (NotBefore.same rfl rfl) | intro _ | apply keeps_setCause | apply Keeps.ite
                               | refine Keeps.snd_of (by assumption) ?_ | dsimp only | split

theorem keeps_commandAt {W : List Fld} {s0 : State} (w_pwr : .pwr ∈ W) (w_host : .host ∈ W) (w_led : .led ∈ W) (w_prot : .prot ∈ W)
    (w_mate : .mate ∈ W) (w_flt : .flt ∈ W) (w_regs : .regs ∈ W) (a : Agent) (addr code : Nat) (s : State) (k_s : Keeps W s0 s) : Keeps W
    s0 (commandAt a addr code s).2 := by
  unfold commandAt
  with_reducible repeat' first | assumption | exact Or.inl (by assumption) | exact Or.inr rfl | exact Or.inr ⟨rfl, rfl⟩
                               | exact Or.inr (NotBefore.same rfl rfl) | intro _ | apply keeps_cmdEnd | apply keeps_protCommand
                               | apply Keeps.ite | refine Keeps.snd_of (by assumption) ?_ | dsimp only | split

theorem keeps_srqCommands {W : List Fld} {s0 : State} (w_pwr : .pwr ∈ W) (w_host : .host ∈ W) (w_led : .led ∈ W) (w_prot : .prot ∈ W)
    (w_mate : .mate ∈ W) (w_dun : .dun ∈ W) (w_flt : .flt ∈ W) (w_regs : .regs ∈ W) (s : State) (k_s : Keeps W s0 s) : Keeps W s0
    (srqCommands s) := by
  unfold srqCommands
  with_reducible repeat' first | assumption | exact Or.inl (by assumption) | exact Or.inr rfl | exact Or.inr ⟨rfl, rfl⟩
                               | exact Or.inr (NotBefore.same rfl rfl) | intro _ | apply keeps_cmdEnd | apply keeps_protCommand
                               | apply Keeps.foldl | apply Keeps.foldl_snd | apply Keeps.ite | refine Keeps.snd_of (by assumption) ?_
                               | dsimp only | split | apply Keeps.upd

theorem keeps_protEvaluate {W : List Fld} {s0 : State} (w_pwr : .pwr ∈ W) (w_host : .host ∈ W) (w_led : .led ∈ W) (w_st : .st ∈ W) (w_prot
    : .prot ∈ W) (w_mate : .mate ∈ W) (w_dun : .dun ∈ W) (w_flt : .flt ∈ W) (w_regs : .regs ∈ W) (s : State) (k_s : Keeps W s0 s) : Keeps
    W s0 (protEvaluate s) := by
  unfold protEvaluate
  with_reducible repeat' first | assumption | exact Or.inl (by assumption) | exact Or.inr rfl | exact Or.inr ⟨rfl, rfl⟩
                               | exact Or.inr (NotBefore.same rfl rfl) | intro _ | apply keeps_protEval | apply keeps_srqCommands
                               | apply Keeps.foldl

theorem keeps_protApply1 {W : List Fld} {s0 : State} (w_pwr : .pwr ∈ W) (w_host : .host ∈ W) (w_led : .led ∈ W) (w_st : .st ∈ W) (w_prot :
    .prot ∈ W) (w_mate : .mate ∈ W) (w_flt : .flt ∈ W) (w_regs : .regs ∈ W) (before : State) (r : ProtRef) (s : State) (k_before : Keeps W
    s0 before) (k_s : Keeps W s0 s) : Keeps W s0 (protApply1 before r s) := by
  unfold protApply1
  with_reducible repeat' first | assumption | exact Or.inl (by assumption) | exact Or.inr rfl | exact Or.inr ⟨rfl, rfl⟩
                               | exact Or.inr (NotBefore.same rfl rfl) | intro _ | apply keeps_setCtl | apply keeps_setCause
                               | apply keeps_protRecord | apply keeps_protEvent | apply Keeps.ite

theorem keeps_protApply {W : List Fld} {s0 : State} (w_pwr : .pwr ∈ W) (w_host : .host ∈ W) (w_led : .led ∈ W) (w_st : .st ∈ W) (w_prot :
    .prot ∈ W) (w_mate : .mate ∈ W) (w_flt : .flt ∈ W) (w_regs : .regs ∈ W) (before s : State) (k_before : Keeps W s0 before) (k_s : Keeps
    W s0 s) : Keeps W s0 (protApply before s) := by
  unfold protApply
  with_reducible repeat' first | assumption | exact Or.inl (by assumption) | exact Or.inr rfl | exact Or.inr ⟨rfl, rfl⟩
                               | exact Or.inr (NotBefore.same rfl rfl) | intro _ | apply keeps_protApply1 | apply Keeps.foldl

theorem keeps_protWrite {W : List Fld} {s0 : State} (w_lt : .lt ∈ W) (w_pwr : .pwr ∈ W) (w_host : .host ∈ W) (w_led : .led ∈ W) (w_prot :
    .prot ∈ W) (w_mate : .mate ∈ W) (w_flt : .flt ∈ W) (w_regs : .regs ∈ W) (a : Agent) (addr v : Nat) (s : State) (k_s : Keeps W s0 s) :
    KeepsOP W s0 (protWrite a addr v s) := by
  unfold protWrite
  with_reducible repeat' first | assumption | exact Or.inl (by assumption) | exact Or.inr rfl | exact Or.inr ⟨rfl, rfl⟩
                               | exact Or.inr (NotBefore.same rfl rfl) | intro _ | apply keeps_stageValue | apply keeps_commandAt
                               | exact KeepsOP.none | apply KeepsOP.some | apply KeepsOP.ite | apply Keeps.ite
                               | refine Keeps.snd_of (by assumption) ?_ | dsimp only | split

end Sys2Proof.Machine
end

