-- ==== Sys2Proof/Laws/Keeps/Proof.lean ====
section
/-!
SUPPORT. The functions of Machine/Proof.lean keep what every command keeps (`Keeps`).
-/
namespace Sys2Proof.Machine

open Sys2Proof

theorem keeps_proofRecord {W : List Fld} {s0 : State} (w_pwr : .pwr ∈ W) (w_host : .host ∈ W) (w_led : .led ∈ W) (w_mate : .mate ∈ W)
    (w_flt : .flt ∈ W) (w_regs : .regs ∈ W) (i before event radio : Nat) (s : State) (k_s : Keeps W s0 s) : Keeps W s0 (proofRecord i
    before event radio s) := by
  unfold proofRecord
  with_reducible repeat' first | assumption | exact Or.inl (by assumption) | exact Or.inr rfl | exact Or.inr ⟨rfl, rfl⟩
                               | exact Or.inr (NotBefore.same rfl rfl) | intro _ | apply keeps_ledgerHwSeat

theorem keeps_buckle {W : List Fld} {s0 : State} (w_pwr : .pwr ∈ W) (w_host : .host ∈ W) (w_led : .led ∈ W) (w_fab : .fab ∈ W) (w_mate :
    .mate ∈ W) (w_flt : .flt ∈ W) (w_regs : .regs ∈ W) (n cause : Nat) (s : State) (k_s : Keeps W s0 s) : Keeps W s0 (buckle n cause s) := by
  unfold buckle
  with_reducible repeat' first | assumption | exact Or.inl (by assumption) | exact Or.inr rfl | exact Or.inr ⟨rfl, rfl⟩
                               | exact Or.inr (NotBefore.same rfl rfl) | intro _ | apply keeps_pxCause | apply keeps_connTo

theorem keeps_unbuckle {W : List Fld} {s0 : State} (w_pwr : .pwr ∈ W) (w_host : .host ∈ W) (w_led : .led ∈ W) (w_st : .st ∈ W) (w_fab :
    .fab ∈ W) (w_mate : .mate ∈ W) (w_flt : .flt ∈ W) (w_regs : .regs ∈ W) (n cause : Nat) (s : State) (k_s : Keeps W s0 s) : Keeps W s0
    (unbuckle n cause s) := by
  unfold unbuckle
  with_reducible repeat' first | assumption | exact Or.inl (by assumption) | exact Or.inr rfl | exact Or.inr ⟨rfl, rfl⟩
                               | exact Or.inr (NotBefore.same rfl rfl) | intro _ | apply keeps_pxEvent | apply keeps_pxCause
                               | apply keeps_connTo

theorem keeps_armAt {W : List Fld} {s0 : State} (w_prot : .prot ∈ W) (w_mate : .mate ∈ W) (i frame phase : Nat) (s : State) (k_s : Keeps W
    s0 s) : Keeps W s0 (armAt i frame phase s) := by
  unfold armAt
  with_reducible repeat' first | assumption | exact Or.inl (by assumption) | exact Or.inr rfl | exact Or.inr ⟨rfl, rfl⟩
                               | exact Or.inr (NotBefore.same rfl rfl) | intro _ | apply keeps_mirrorExpect | apply keeps_setExpect
                               | apply Keeps.ite | dsimp only | split

theorem keeps_noteLoss {W : List Fld} {s0 : State} (w_prot : .prot ∈ W) (n i : Nat) (s : State) (k_s : Keeps W s0 s) : Keeps W s0
    (noteLoss n i s) := by
  unfold noteLoss
  with_reducible repeat' first | assumption | exact Or.inl (by assumption) | exact Or.inr rfl | exact Or.inr ⟨rfl, rfl⟩
                               | exact Or.inr (NotBefore.same rfl rfl) | intro _ | apply Keeps.ite | dsimp only | split | apply Keeps.upd

theorem keeps_readOne {W : List Fld} {s0 : State} (w_pwr : .pwr ∈ W) (w_host : .host ∈ W) (w_led : .led ∈ W) (w_st : .st ∈ W) (w_fab :
    .fab ∈ W) (w_prot : .prot ∈ W) (w_mate : .mate ∈ W) (w_flt : .flt ∈ W) (w_regs : .regs ∈ W) (radio symbology : Nat) (code : List Byte)
    (pos i : Nat) (s : State) (k_s : Keeps W s0 s) : Keeps W s0 (readOne radio symbology code pos i s) := by
  unfold readOne
  with_reducible repeat' first | assumption | exact Or.inl (by assumption) | exact Or.inr rfl | exact Or.inr ⟨rfl, rfl⟩
                               | exact Or.inr (NotBefore.same rfl rfl) | intro _ | apply keeps_proofRecord | apply keeps_mirrorExpect
                               | apply keeps_setExpect | apply keeps_buckle | apply keeps_pxEvent | apply keeps_pxCause
                               | apply keeps_noteLoss | apply Keeps.ite | dsimp only | split

theorem keeps_proofRead {W : List Fld} {s0 : State} (w_pwr : .pwr ∈ W) (w_host : .host ∈ W) (w_led : .led ∈ W) (w_st : .st ∈ W) (w_fab :
    .fab ∈ W) (w_prot : .prot ∈ W) (w_mate : .mate ∈ W) (w_flt : .flt ∈ W) (w_regs : .regs ∈ W) (port radio symbology : Nat) (code : List
    Byte) (pos : Nat) (s : State) (k_s : Keeps W s0 s) : Keeps W s0 (proofRead port radio symbology code pos s) := by
  unfold proofRead
  with_reducible repeat' first | assumption | exact Or.inl (by assumption) | exact Or.inr rfl | exact Or.inr ⟨rfl, rfl⟩
                               | exact Or.inr (NotBefore.same rfl rfl) | intro _ | apply keeps_readOne | apply Keeps.foldl
                               | apply Keeps.foldl_snd | apply Keeps.ite | dsimp only | split

theorem keeps_proofStep7 {W : List Fld} {s0 : State} (w_pwr : .pwr ∈ W) (w_host : .host ∈ W) (w_led : .led ∈ W) (w_st : .st ∈ W) (w_fab :
    .fab ∈ W) (w_prot : .prot ∈ W) (w_mate : .mate ∈ W) (w_flt : .flt ∈ W) (w_regs : .regs ∈ W) (ready : List Nat) (s : State) (k_s :
    Keeps W s0 s) : Keeps W s0 (proofStep7 ready s) := by
  unfold proofStep7
  with_reducible repeat' first | assumption | exact Or.inl (by assumption) | exact Or.inr rfl | exact Or.inr ⟨rfl, rfl⟩
                               | exact Or.inr (NotBefore.same rfl rfl) | intro _ | apply keeps_unbuckle | apply keeps_armAt
                               | apply keeps_pxCause | apply keeps_connTo | apply Keeps.foldl | apply Keeps.foldl_snd | apply Keeps.ite
                               | dsimp only | split | apply Keeps.upd

theorem keeps_overrideWrite {W : List Fld} {s0 : State} (w_pwr : .pwr ∈ W) (w_host : .host ∈ W) (w_led : .led ∈ W) (w_st : .st ∈ W) (w_fab
    : .fab ∈ W) (w_prot : .prot ∈ W) (w_mate : .mate ∈ W) (w_flt : .flt ∈ W) (w_regs : .regs ∈ W) (a : Agent) (v : Nat) (s : State) (k_s :
    Keeps W s0 s) : Keeps W s0 (overrideWrite a v s).2 := by
  unfold overrideWrite
  with_reducible repeat' first | assumption | exact Or.inl (by assumption) | exact Or.inr rfl | exact Or.inr ⟨rfl, rfl⟩
                               | exact Or.inr (NotBefore.same rfl rfl) | intro _ | apply keeps_ledgerMgmt | apply keeps_modConn
                               | apply keeps_pxCause | apply keeps_mirrorItem | apply keeps_buckle | apply keeps_unbuckle
                               | apply keeps_noteLoss | apply Keeps.foldl | apply Keeps.foldl_snd | apply Keeps.ite
                               | refine Keeps.snd_of (by assumption) ?_ | refine KeepsO.of (by assumption) ?_ | apply KeepsO.getD
                               | dsimp only | split

theorem keeps_hostOverride {W : List Fld} {s0 : State} (w_pwr : .pwr ∈ W) (w_host : .host ∈ W) (w_led : .led ∈ W) (w_st : .st ∈ W) (w_fab
    : .fab ∈ W) (w_prot : .prot ∈ W) (w_mate : .mate ∈ W) (w_flt : .flt ∈ W) (w_book : .book ∈ W) (w_regs : .regs ∈ W) (a : Agent) (v :
    Nat) (s : State) (k_s : Keeps W s0 s) : Keeps W s0 (hostOverride a v s).2 := by
  unfold hostOverride
  with_reducible repeat' first | assumption | exact Or.inl (by assumption) | exact Or.inr rfl | exact Or.inr ⟨rfl, rfl⟩
                               | exact Or.inr (NotBefore.same rfl rfl) | intro _ | apply keeps_overrideWrite | apply keeps_countOutcome
                               | apply Keeps.ite | refine Keeps.snd_of (by assumption) ?_ | dsimp only | split | apply Keeps.upd

theorem keeps_pxCommand {W : List Fld} {s0 : State} (w_lt : .lt ∈ W) (w_pwr : .pwr ∈ W) (w_host : .host ∈ W) (w_led : .led ∈ W) (w_prot :
    .prot ∈ W) (w_mate : .mate ∈ W) (w_flt : .flt ∈ W) (w_book : .book ∈ W) (w_regs : .regs ∈ W) (a : Agent) (v : Nat) (s : State) (k_s :
    Keeps W s0 s) : Keeps W s0 (pxCommand a v s).2 := by
  unfold pxCommand
  with_reducible repeat' first | assumption | exact Or.inl (by assumption) | exact Or.inr rfl | exact Or.inr ⟨rfl, rfl⟩
                               | exact Or.inr (NotBefore.same rfl rfl) | intro _ | apply keeps_stageAttach | apply keeps_stageDetach
                               | apply keeps_countOutcome | apply keeps_modPath | apply Keeps.ite | refine Keeps.snd_of (by assumption) ?_
                               | refine Keeps.snd2_of (by assumption) ?_ | dsimp only | split

theorem keeps_landExpect {W : List Fld} {s0 : State} (w_pwr : .pwr ∈ W) (w_host : .host ∈ W) (w_led : .led ∈ W) (w_fab : .fab ∈ W) (w_prot
    : .prot ∈ W) (w_mate : .mate ∈ W) (w_flt : .flt ∈ W) (w_regs : .regs ∈ W) (i v : Nat) (s : State) (k_s : Keeps W s0 s) : Keeps W s0
    (landExpect i v s) := by
  unfold landExpect
  with_reducible repeat' first | assumption | exact Or.inl (by assumption) | exact Or.inr rfl | exact Or.inr ⟨rfl, rfl⟩
                               | exact Or.inr (NotBefore.same rfl rfl) | intro _ | apply keeps_proofRecord | apply keeps_mirrorExpect
                               | apply keeps_setExpect | apply keeps_buckle | apply Keeps.ite | dsimp only | split

theorem keeps_freeExpects {W : List Fld} {s0 : State} (w_prot : .prot ∈ W) (w_mate : .mate ∈ W) (n : Nat) (s : State) (k_s : Keeps W s0 s)
    : Keeps W s0 (freeExpects n s) := by
  unfold freeExpects
  with_reducible repeat' first | assumption | exact Or.inl (by assumption) | exact Or.inr rfl | exact Or.inr ⟨rfl, rfl⟩
                               | exact Or.inr (NotBefore.same rfl rfl) | intro _ | apply keeps_mirrorExpect | apply keeps_setExpect
                               | apply Keeps.foldl | apply Keeps.foldl_snd | apply Keeps.ite | dsimp only | split

end Sys2Proof.Machine
end

