-- ==== Sys2Proof/Laws/Keeps/Fabric.lean ====
section
/-!
SUPPORT. The functions of Machine/Fabric.lean keep what every command keeps (`Keeps`).
-/
namespace Sys2Proof.Machine

open Sys2Proof

theorem keeps_carrierSync {W : List Fld} {s0 : State} (w_fab : .fab ∈ W) (w_mate : .mate ∈ W) (s : State) (k_s : Keeps W s0 s) : Keeps W
    s0 (carrierSync s) := by
  unfold carrierSync
  with_reducible repeat' first | assumption | exact Or.inl (by assumption) | exact Or.inr rfl | exact Or.inr ⟨rfl, rfl⟩
                               | exact Or.inr (NotBefore.same rfl rfl) | intro _ | apply keeps_mirrorDelete | apply keeps_mirrorItem
                               | apply Keeps.foldl | apply Keeps.foldl_snd | apply Keeps.ite | dsimp only | split | apply Keeps.upd

theorem keeps_swapConn {W : List Fld} {s0 : State} (w_pwr : .pwr ∈ W) (w_host : .host ∈ W) (w_led : .led ∈ W) (w_st : .st ∈ W) (w_fab :
    .fab ∈ W) (w_prot : .prot ∈ W) (w_mate : .mate ∈ W) (w_flt : .flt ∈ W) (w_regs : .regs ∈ W) (n v : Nat) (s : State) (k_s : Keeps W s0
    s) : Keeps W s0 (swapConn n v s) := by
  unfold swapConn
  with_reducible repeat' first | assumption | exact Or.inl (by assumption) | exact Or.inr rfl | exact Or.inr ⟨rfl, rfl⟩
                               | exact Or.inr (NotBefore.same rfl rfl) | intro _ | apply keeps_modConn | apply keeps_freeExpects
                               | apply keeps_ledgerHwSeat | apply keeps_mirrorDelete | apply keeps_armAt | apply keeps_mirrorItem
                               | apply keeps_pxEvent | apply keeps_pxCause | apply Keeps.foldl | apply Keeps.foldl_snd | apply Keeps.ite

theorem keeps_pageSwap {W : List Fld} {s0 : State} (w_pwr : .pwr ∈ W) (w_host : .host ∈ W) (w_led : .led ∈ W) (w_st : .st ∈ W) (w_fab :
    .fab ∈ W) (w_prot : .prot ∈ W) (w_mate : .mate ∈ W) (w_flt : .flt ∈ W) (w_regs : .regs ∈ W) (ws : List StagedWrite) (s : State) (k_s :
    Keeps W s0 s) : Keeps W s0 (pageSwap ws s) := by
  unfold pageSwap
  with_reducible repeat' first | assumption | exact Or.inl (by assumption) | exact Or.inr rfl | exact Or.inr ⟨rfl, rfl⟩
                               | exact Or.inr (NotBefore.same rfl rfl) | intro _ | apply keeps_swapConn | apply keeps_carrierSync
                               | apply keeps_setCause | apply Keeps.foldl | apply Keeps.foldl_snd | apply Keeps.ite | dsimp only | split
                               | apply Keeps.upd

theorem keeps_setRot {W : List Fld} {s0 : State} (w_fab : .fab ∈ W) (lo : Bool) (r : Rotation) (s : State) (k_s : Keeps W s0 s) : Keeps W
    s0 (setRot lo r s) := by
  unfold setRot
  with_reducible repeat' first | assumption | exact Or.inl (by assumption) | exact Or.inr rfl | exact Or.inr ⟨rfl, rfl⟩
                               | exact Or.inr (NotBefore.same rfl rfl) | intro _ | apply Keeps.ite | dsimp only | split | apply Keeps.upd

theorem keeps_modRot {W : List Fld} {s0 : State} (w_fab : .fab ∈ W) (lo : Bool) (f : Rotation → Rotation) (s : State) (k_s : Keeps W s0 s)
    : Keeps W s0 (modRot lo f s) := by
  unfold modRot
  with_reducible repeat' first | assumption | exact Or.inl (by assumption) | exact Or.inr rfl | exact Or.inr ⟨rfl, rfl⟩
                               | exact Or.inr (NotBefore.same rfl rfl) | intro _ | apply keeps_setRot

theorem keeps_tileRecord {W : List Fld} {s0 : State} (w_pwr : .pwr ∈ W) (w_host : .host ∈ W) (w_led : .led ∈ W) (w_mate : .mate ∈ W)
    (w_flt : .flt ∈ W) (w_regs : .regs ∈ W) (lo : Bool) (incoming outgoing event group : Nat) (s : State) (k_s : Keeps W s0 s) : Keeps W
    s0 (tileRecord lo incoming outgoing event group s) := by
  unfold tileRecord
  with_reducible repeat' first | assumption | exact Or.inl (by assumption) | exact Or.inr rfl | exact Or.inr ⟨rfl, rfl⟩
                               | exact Or.inr (NotBefore.same rfl rfl) | intro _ | apply keeps_ledgerHw

theorem keeps_fabCause {W : List Fld} {s0 : State} (w_host : .host ∈ W) (w_regs : .regs ∈ W) (k : Nat) (s : State) (k_s : Keeps W s0 s) :
    Keeps W s0 (fabCause k s) := by
  unfold fabCause
  with_reducible repeat' first | assumption | exact Or.inl (by assumption) | exact Or.inr rfl | exact Or.inr ⟨rfl, rfl⟩
                               | exact Or.inr (NotBefore.same rfl rfl) | intro _ | apply keeps_setCause

theorem keeps_rotHalt {W : List Fld} {s0 : State} (w_pwr : .pwr ∈ W) (w_host : .host ∈ W) (w_led : .led ∈ W) (w_fab : .fab ∈ W) (w_mate :
    .mate ∈ W) (w_flt : .flt ∈ W) (w_regs : .regs ∈ W) (lo : Bool) (s : State) (k_s : Keeps W s0 s) : Keeps W s0 (rotHalt lo s) := by
  unfold rotHalt
  with_reducible repeat' first | assumption | exact Or.inl (by assumption) | exact Or.inr rfl | exact Or.inr ⟨rfl, rfl⟩
                               | exact Or.inr (NotBefore.same rfl rfl) | intro _ | apply keeps_tileRecord | apply keeps_faultRaise
                               | apply keeps_fabCause | apply keeps_modRot | apply Keeps.ite

theorem keeps_tileFail {W : List Fld} {s0 : State} (w_pwr : .pwr ∈ W) (w_host : .host ∈ W) (w_led : .led ∈ W) (w_fab : .fab ∈ W) (w_mate :
    .mate ∈ W) (w_flt : .flt ∈ W) (w_regs : .regs ∈ W) (lo : Bool) (t : Nat) (s : State) (k_s : Keeps W s0 s) : Keeps W s0 (tileFail lo t
    s) := by
  unfold tileFail
  with_reducible repeat' first | assumption | exact Or.inl (by assumption) | exact Or.inr rfl | exact Or.inr ⟨rfl, rfl⟩
                               | exact Or.inr (NotBefore.same rfl rfl) | intro _ | apply keeps_setRot | apply keeps_rotHalt
                               | apply keeps_faultRaise | apply keeps_fabCause | apply keeps_tileRecord

theorem keeps_rotStart {W : List Fld} {s0 : State} (w_fab : .fab ∈ W) (lo : Bool) (old : Nat) (s : State) (k_s : Keeps W s0 s) : Keeps W
    s0 (rotStart lo old s) := by
  unfold rotStart
  with_reducible repeat' first | assumption | exact Or.inl (by assumption) | exact Or.inr rfl | exact Or.inr ⟨rfl, rfl⟩
                               | exact Or.inr (NotBefore.same rfl rfl) | intro _ | apply keeps_setRot | apply Keeps.ite

theorem keeps_handOver {W : List Fld} {s0 : State} (w_pwr : .pwr ∈ W) (w_host : .host ∈ W) (w_led : .led ∈ W) (w_fab : .fab ∈ W) (w_mate :
    .mate ∈ W) (w_flt : .flt ∈ W) (w_regs : .regs ∈ W) (lo : Bool) (s : State) (k_s : Keeps W s0 s) : Keeps W s0 (handOver lo s) := by
  unfold handOver
  with_reducible repeat' first | assumption | exact Or.inl (by assumption) | exact Or.inr rfl | exact Or.inr ⟨rfl, rfl⟩
                               | exact Or.inr (NotBefore.same rfl rfl) | intro _ | apply keeps_tileRecord | apply keeps_setRot
                               | apply keeps_fabCause

theorem keeps_tileStep8 {W : List Fld} {s0 : State} (w_pwr : .pwr ∈ W) (w_host : .host ∈ W) (w_led : .led ∈ W) (w_fab : .fab ∈ W) (w_mate
    : .mate ∈ W) (w_flt : .flt ∈ W) (w_regs : .regs ∈ W) (lo swapped : Bool) (s : State) (k_s : Keeps W s0 s) : Keeps W s0 (tileStep8 lo
    swapped s) := by
  unfold tileStep8
  with_reducible repeat' first | assumption | exact Or.inl (by assumption) | exact Or.inr rfl | exact Or.inr ⟨rfl, rfl⟩
                               | exact Or.inr (NotBefore.same rfl rfl) | intro _ | apply keeps_setRot | apply keeps_handOver
                               | apply keeps_faultRaise | apply keeps_fabCause | apply Keeps.ite | dsimp only | split

theorem keeps_freeDecision {W : List Fld} {s0 : State} (w_fab : .fab ∈ W) (lo : Bool) (s : State) (k_s : Keeps W s0 s) : Keeps W s0
    (freeDecision lo s) := by
  unfold freeDecision
  with_reducible repeat' first | assumption | exact Or.inl (by assumption) | exact Or.inr rfl | exact Or.inr ⟨rfl, rfl⟩
                               | exact Or.inr (NotBefore.same rfl rfl) | intro _ | apply keeps_setRot | apply Keeps.ite

theorem keeps_rotDisable {W : List Fld} {s0 : State} (w_fab : .fab ∈ W) (lo : Bool) (s : State) (k_s : Keeps W s0 s) : Keeps W s0
    (rotDisable lo s) := by
  unfold rotDisable
  with_reducible repeat' first | assumption | exact Or.inl (by assumption) | exact Or.inr rfl | exact Or.inr ⟨rfl, rfl⟩
                               | exact Or.inr (NotBefore.same rfl rfl) | intro _ | apply keeps_modRot

theorem keeps_loWake {W : List Fld} {s0 : State} (w_fab : .fab ∈ W) (s : State) (k_s : Keeps W s0 s) : Keeps W s0 (loWake s) := by
  unfold loWake
  with_reducible repeat' first | assumption | exact Or.inl (by assumption) | exact Or.inr rfl | exact Or.inr ⟨rfl, rfl⟩
                               | exact Or.inr (NotBefore.same rfl rfl) | intro _ | apply keeps_modRot | apply keeps_rotDisable
                               | apply Keeps.ite | dsimp only | split | apply Keeps.upd

theorem keeps_rotCommand {W : List Fld} {s0 : State} (w_pwr : .pwr ∈ W) (w_host : .host ∈ W) (w_led : .led ∈ W) (w_fab : .fab ∈ W) (w_mate
    : .mate ∈ W) (w_flt : .flt ∈ W) (w_regs : .regs ∈ W) (a : Agent) (v : Nat) (s : State) (k_s : Keeps W s0 s) : Keeps W s0 (rotCommand a
    v s).2 := by
  unfold rotCommand
  with_reducible repeat' first | assumption | exact Or.inl (by assumption) | exact Or.inr rfl | exact Or.inr ⟨rfl, rfl⟩
                               | exact Or.inr (NotBefore.same rfl rfl) | intro _ | apply keeps_ledgerMgmt | apply keeps_modRot
                               | apply keeps_tileRecord | apply Keeps.ite | refine Keeps.snd_of (by assumption) ?_
                               | refine KeepsO.of (by assumption) ?_ | apply KeepsO.getD | dsimp only | split

theorem keeps_hostRotCmd {W : List Fld} {s0 : State} (w_pwr : .pwr ∈ W) (w_host : .host ∈ W) (w_led : .led ∈ W) (w_fab : .fab ∈ W) (w_mate
    : .mate ∈ W) (w_flt : .flt ∈ W) (w_book : .book ∈ W) (w_regs : .regs ∈ W) (a : Agent) (v : Nat) (s : State) (k_s : Keeps W s0 s) :
    Keeps W s0 (hostRotCmd a v s).2 := by
  unfold hostRotCmd
  with_reducible repeat' first | assumption | exact Or.inl (by assumption) | exact Or.inr rfl | exact Or.inr ⟨rfl, rfl⟩
                               | exact Or.inr (NotBefore.same rfl rfl) | intro _ | apply keeps_rotCommand | apply keeps_countOutcome
                               | apply keeps_modRot | apply Keeps.ite | refine Keeps.snd_of (by assumption) ?_ | dsimp only | split
                               | apply Keeps.upd

theorem keeps_fabFlip {W : List Fld} {s0 : State} (w_fab : .fab ∈ W) (s : State) (k_s : Keeps W s0 s) : Keeps W s0 (fabFlip s) := by
  unfold fabFlip
  with_reducible repeat' first | assumption | exact Or.inl (by assumption) | exact Or.inr rfl | exact Or.inr ⟨rfl, rfl⟩
                               | exact Or.inr (NotBefore.same rfl rfl) | intro _ | apply Keeps.ite | dsimp only | split | apply Keeps.upd

end Sys2Proof.Machine
end

