-- ==== Sys2Proof/Laws/Keeps/Domains.lean ====
section
/-!
SUPPORT. The functions of Machine/Domains.lean keep what every command keeps (`Keeps`).
-/
namespace Sys2Proof.Machine

open Sys2Proof

theorem keeps_withWrites {W : List Fld} {s0 : State} (w_regs : .regs ∈ W) (s : State) (ws : List StagedWrite) (k_s : Keeps W s0 s) : Keeps
    W s0 (withWrites s ws) := by
  unfold withWrites
  with_reducible repeat' first | assumption | exact Or.inl (by assumption) | exact Or.inr rfl | exact Or.inr ⟨rfl, rfl⟩
                               | exact Or.inr (NotBefore.same rfl rfl) | intro _ | apply keeps_rset | apply Keeps.foldl
                               | apply Keeps.foldl_snd | apply Keeps.ite

theorem keeps_setDom {W : List Fld} {s0 : State} (w_pwr : .pwr ∈ W) (d : Nat) (x : DomState) (s : State) (k_s : Keeps W s0 s) : Keeps W s0
    (setDom d x s) := by
  unfold setDom
  with_reducible repeat' first | assumption | exact Or.inl (by assumption) | exact Or.inr rfl | exact Or.inr ⟨rfl, rfl⟩
                               | exact Or.inr (NotBefore.same rfl rfl) | intro _ | apply Keeps.ite | dsimp only | split | apply Keeps.upd

theorem keeps_setDoms {W : List Fld} {s0 : State} (w_pwr : .pwr ∈ W) (d : Nat) (x : DomState) (s : State) (k_s : Keeps W s0 s) : Keeps W
    s0 (setDoms d x s) := by
  unfold setDoms
  with_reducible repeat' first | assumption | exact Or.inl (by assumption) | exact Or.inr rfl | exact Or.inr ⟨rfl, rfl⟩
                               | exact Or.inr (NotBefore.same rfl rfl) | intro _ | apply keeps_setDom | apply Keeps.foldl
                               | apply Keeps.foldl_snd | apply Keeps.ite | dsimp only | split | apply Keeps.upd

theorem keeps_domUpdate {W : List Fld} {s0 : State} (w_pwr : .pwr ∈ W) (w_regs : .regs ∈ W) (s : State) (k_s : Keeps W s0 s) : Keeps W s0
    (domUpdate s) := by
  unfold domUpdate
  with_reducible repeat' first | assumption | exact Or.inl (by assumption) | exact Or.inr rfl | exact Or.inr ⟨rfl, rfl⟩
                               | exact Or.inr (NotBefore.same rfl rfl) | intro _ | apply keeps_withWrites | apply keeps_setDom
                               | apply Keeps.foldl | apply Keeps.foldl_snd | apply Keeps.ite

end Sys2Proof.Machine
end

