-- ==== Sys2Proof/Laws/Keeps/Calendar.lean ====
section
/-!
SUPPORT. The functions of Machine/Calendar.lean keep what every command keeps (`Keeps`).
-/
namespace Sys2Proof.Machine

open Sys2Proof

theorem keeps_setCal {W : List Fld} {s0 : State} (w_lt : .lt ∈ W) (i : Nat) (ez : CalEntry) (s : State) (k_s : Keeps W s0 s) : Keeps W s0
    (setCal i ez s) := by
  unfold setCal
  with_reducible repeat' first | assumption | exact Or.inl (by assumption) | exact Or.inr rfl | exact Or.inr ⟨rfl, rfl⟩
                               | exact Or.inr (NotBefore.same rfl rfl) | intro _ | apply Keeps.ite | dsimp only | split | apply Keeps.upd

theorem keeps_mirrorCal {W : List Fld} {s0 : State} (w_mate : .mate ∈ W) (mgmt : Bool) (i : Nat) (s : State) (k_s : Keeps W s0 s) : Keeps
    W s0 (mirrorCal mgmt i s) := by
  unfold mirrorCal
  with_reducible repeat' first | assumption | exact Or.inl (by assumption) | exact Or.inr rfl | exact Or.inr ⟨rfl, rfl⟩
                               | exact Or.inr (NotBefore.same rfl rfl) | intro _ | apply keeps_mirrorDelete | apply keeps_mirrorItem
                               | apply Keeps.ite

theorem keeps_calRecord {W : List Fld} {s0 : State} (w_pwr : .pwr ∈ W) (w_host : .host ∈ W) (w_led : .led ∈ W) (w_mate : .mate ∈ W) (w_flt
    : .flt ∈ W) (w_regs : .regs ∈ W) (a : Agent) (i old new : Nat) (s : State) (k_s : Keeps W s0 s) : KeepsO W s0 (calRecord a i old new
    s) := by
  unfold calRecord
  with_reducible repeat' first | assumption | exact Or.inl (by assumption) | exact Or.inr rfl | exact Or.inr ⟨rfl, rfl⟩
                               | exact Or.inr (NotBefore.same rfl rfl) | intro _ | apply keeps_ledgerMgmt

theorem keeps_calAdd {W : List Fld} {s0 : State} (w_lt : .lt ∈ W) (w_pwr : .pwr ∈ W) (w_host : .host ∈ W) (w_led : .led ∈ W) (w_mate :
    .mate ∈ W) (w_flt : .flt ∈ W) (w_regs : .regs ∈ W) (a : Agent) (v : Nat) (tod : Bool) (s : State) (k_s : Keeps W s0 s) : Keeps W s0
    (calAdd a v tod s).2.2 := by
  unfold calAdd
  with_reducible repeat' first | assumption | exact Or.inl (by assumption) | exact Or.inr rfl | exact Or.inr ⟨rfl, rfl⟩
                               | exact Or.inr (NotBefore.same rfl rfl) | intro _ | apply keeps_calRecord | apply keeps_mirrorCal
                               | apply keeps_setCal | apply Keeps.ite | refine KeepsO.of (by assumption) ?_ | apply KeepsO.getD
                               | dsimp only | split

theorem keeps_calRemove {W : List Fld} {s0 : State} (w_lt : .lt ∈ W) (w_pwr : .pwr ∈ W) (w_host : .host ∈ W) (w_led : .led ∈ W) (w_mate :
    .mate ∈ W) (w_flt : .flt ∈ W) (w_regs : .regs ∈ W) (a : Agent) (i : Nat) (s : State) (k_s : Keeps W s0 s) : Keeps W s0 (calRemove a i
    s).2 := by
  unfold calRemove
  with_reducible repeat' first | assumption | exact Or.inl (by assumption) | exact Or.inr rfl | exact Or.inr ⟨rfl, rfl⟩
                               | exact Or.inr (NotBefore.same rfl rfl) | intro _ | apply keeps_calRecord | apply keeps_mirrorCal
                               | apply keeps_setCal | apply Keeps.ite | refine Keeps.snd_of (by assumption) ?_
                               | refine KeepsO.of (by assumption) ?_ | apply KeepsO.getD | dsimp only | split

theorem keeps_calControl {W : List Fld} {s0 : State} (w_lt : .lt ∈ W) (w_pwr : .pwr ∈ W) (w_host : .host ∈ W) (w_led : .led ∈ W) (w_mate :
    .mate ∈ W) (w_flt : .flt ∈ W) (w_book : .book ∈ W) (w_regs : .regs ∈ W) (a : Agent) (v : Nat) (s : State) (k_s : Keeps W s0 s) : Keeps
    W s0 (calControl a v s).2 := by
  unfold calControl
  with_reducible repeat' first | assumption | exact Or.inl (by assumption) | exact Or.inr rfl | exact Or.inr ⟨rfl, rfl⟩
                               | exact Or.inr (NotBefore.same rfl rfl) | intro _ | apply keeps_calAdd | apply keeps_countOutcome
                               | apply keeps_modSeatLt | apply keeps_calRemove | apply Keeps.ite | refine Keeps.snd_of (by assumption) ?_
                               | refine Keeps.snd2_of (by assumption) ?_ | dsimp only | split

theorem keeps_calFailed {W : List Fld} {s0 : State} (w_lt : .lt ∈ W) (w_host : .host ∈ W) (w_book : .book ∈ W) (w_regs : .regs ∈ W) (seat
    kind i outcome : Nat) (s : State) (k_s : Keeps W s0 s) : Keeps W s0 (calFailed seat kind i outcome s) := by
  unfold calFailed
  with_reducible repeat' first | assumption | exact Or.inl (by assumption) | exact Or.inr rfl | exact Or.inr ⟨rfl, rfl⟩
                               | exact Or.inr (NotBefore.same rfl rfl) | intro _ | apply keeps_setCause | apply keeps_countOutcome
                               | apply keeps_modSeatLt

end Sys2Proof.Machine
end

