-- ==== Sys2Proof/Laws/Keeps/Commit.lean ====
section
/-!
SUPPORT. The functions of Machine/Commit.lean keep what every command keeps (`Keeps`).
-/
namespace Sys2Proof.Machine

open Sys2Proof

theorem keeps_mirrorGroup {W : List Fld} {s0 : State} (w_mate : .mate ∈ W) (mgmt : Bool) (g : CommitGroup) (s : State) (k_s : Keeps W s0
    s) : Keeps W s0 (mirrorGroup mgmt g s) := by
  unfold mirrorGroup
  with_reducible repeat' first | assumption | exact Or.inl (by assumption) | exact Or.inr rfl | exact Or.inr ⟨rfl, rfl⟩
                               | exact Or.inr (NotBefore.same rfl rfl) | intro _ | apply keeps_mirrorItem

theorem keeps_goRefuse {W : List Fld} {s0 : State} (w_lt : .lt ∈ W) (w_prot : .prot ∈ W) (w_mate : .mate ∈ W) (seat code : Nat) (s :
    State) (k_s : Keeps W s0 s) : Keeps W s0 (goRefuse seat code s).2.2 := by
  unfold goRefuse
  with_reducible repeat' first | assumption | exact Or.inl (by assumption) | exact Or.inr rfl | exact Or.inr ⟨rfl, rfl⟩
                               | exact Or.inr (NotBefore.same rfl rfl) | intro _ | apply keeps_freeReserved | apply keeps_modSeatLt

theorem keeps_withSelectors {W : List Fld} {s0 : State} (w_prot : .prot ∈ W) (seat : Nat) (new : List (Nat × Nat)) (s : State) (k_s :
    Keeps W s0 s) : Keeps W s0 (withSelectors seat new s) := by
  unfold withSelectors
  with_reducible repeat' first | assumption | exact Or.inl (by assumption) | exact Or.inr rfl | exact Or.inr ⟨rfl, rfl⟩
                               | exact Or.inr (NotBefore.same rfl rfl) | intro _ | apply Keeps.foldl | apply Keeps.foldl_snd
                               | apply Keeps.ite | dsimp only | split | apply Keeps.upd

theorem keeps_goAccept {W : List Fld} {s0 : State} (w_lt : .lt ∈ W) (w_pwr : .pwr ∈ W) (w_host : .host ∈ W) (w_led : .led ∈ W) (w_fab :
    .fab ∈ W) (w_prot : .prot ∈ W) (w_mate : .mate ∈ W) (w_flt : .flt ∈ W) (w_regs : .regs ∈ W) (a : Agent) (f : Nat) (delayed : Bool)
    (idx : Nat) (ws : List StagedWrite) (new : List (Nat × Nat)) (s : State) (k_s : Keeps W s0 s) : Keeps W s0 (goAccept a f delayed idx
    ws new s).2.2 := by
  unfold goAccept
  with_reducible repeat' first | assumption | exact Or.inl (by assumption) | exact Or.inr rfl | exact Or.inr ⟨rfl, rfl⟩
                               | exact Or.inr (NotBefore.same rfl rfl) | intro _ | apply keeps_ledgerMgmt | apply keeps_goRefuse
                               | apply keeps_modSeatLt | apply keeps_setCal | apply keeps_mirrorItem | apply keeps_withSelectors
                               | apply keeps_connStateBy | apply keeps_mirrorCal | apply keeps_mirrorGroup | apply keeps_domUpdate
                               | apply keeps_shadowSync | apply keeps_carrierSync | apply Keeps.foldl | apply Keeps.foldl_snd
                               | apply Keeps.ite | refine Keeps.snd2_of (by assumption) ?_ | refine KeepsO.of (by assumption) ?_
                               | apply KeepsO.getD | apply KeepsO.foldl | apply KeepsO.bind | apply KeepsO.some | apply KeepsO.map
                               | apply KeepsO.ite | dsimp only | split | apply Keeps.upd

theorem keeps_goGroup {W : List Fld} {s0 : State} (w_lt : .lt ∈ W) (w_pwr : .pwr ∈ W) (w_host : .host ∈ W) (w_led : .led ∈ W) (w_fab :
    .fab ∈ W) (w_prot : .prot ∈ W) (w_mate : .mate ∈ W) (w_flt : .flt ∈ W) (w_regs : .regs ∈ W) (a : Agent) (target : Int) (s : State)
    (k_s : Keeps W s0 s) : Keeps W s0 (goGroup a target s).2.2 := by
  unfold goGroup
  with_reducible repeat' first | assumption | exact Or.inl (by assumption) | exact Or.inr rfl | exact Or.inr ⟨rfl, rfl⟩
                               | exact Or.inr (NotBefore.same rfl rfl) | intro _ | apply keeps_goRefuse | apply keeps_withSelectors
                               | apply keeps_goAccept | apply Keeps.ite | refine Keeps.snd2_of (by assumption) ?_ | dsimp only | split

theorem keeps_freeSelectors {W : List Fld} {s0 : State} (w_prot : .prot ∈ W) (w_mate : .mate ∈ W) (s : State) (k_s : Keeps W s0 s) : Keeps
    W s0 (freeSelectors s) := by
  unfold freeSelectors
  with_reducible repeat' first | assumption | exact Or.inl (by assumption) | exact Or.inr rfl | exact Or.inr ⟨rfl, rfl⟩
                               | exact Or.inr (NotBefore.same rfl rfl) | intro _ | apply keeps_mirrorDelete | apply Keeps.foldl
                               | apply Keeps.foldl_snd | apply Keeps.ite | dsimp only | split | apply Keeps.upd

theorem keeps_selectorsSettle {W : List Fld} {s0 : State} (w_prot : .prot ∈ W) (w_mate : .mate ∈ W) (s : State) (k_s : Keeps W s0 s) :
    Keeps W s0 (selectorsSettle s) := by
  unfold selectorsSettle
  with_reducible repeat' first | assumption | exact Or.inl (by assumption) | exact Or.inr rfl | exact Or.inr ⟨rfl, rfl⟩
                               | exact Or.inr (NotBefore.same rfl rfl) | intro _ | apply keeps_freeSelectors | apply Keeps.ite
                               | dsimp only | split | apply Keeps.upd

theorem keeps_pushDone {W : List Fld} {s0 : State} (w_lt : .lt ∈ W) (w_host : .host ∈ W) (w_st : .st ∈ W) (w_regs : .regs ∈ W) (seat :
    Nat) (r : DoneRec) (s : State) (k_s : Keeps W s0 s) : Keeps W s0 (pushDone seat r s) := by
  unfold pushDone
  with_reducible repeat' first | assumption | exact Or.inl (by assumption) | exact Or.inr rfl | exact Or.inr ⟨rfl, rfl⟩
                               | exact Or.inr (NotBefore.same rfl rfl) | intro _ | apply keeps_modSeatLt | apply keeps_setCause
                               | apply keeps_setEvent | apply Keeps.ite

theorem keeps_dropGroup {W : List Fld} {s0 : State} (w_lt : .lt ∈ W) (w_mate : .mate ∈ W) (mgmt : Bool) (g : CommitGroup) (s : State) (k_s
    : Keeps W s0 s) : Keeps W s0 (dropGroup mgmt g s) := by
  unfold dropGroup
  with_reducible repeat' first | assumption | exact Or.inl (by assumption) | exact Or.inr rfl | exact Or.inr ⟨rfl, rfl⟩
                               | exact Or.inr (NotBefore.same rfl rfl) | intro _ | apply keeps_mirrorDelete | apply keeps_mirrorCal
                               | apply keeps_setCal | apply Keeps.ite | dsimp only | split | apply Keeps.upd

theorem keeps_discardGroup {W : List Fld} {s0 : State} (w_lt : .lt ∈ W) (w_pwr : .pwr ∈ W) (w_host : .host ∈ W) (w_led : .led ∈ W) (w_fab
    : .fab ∈ W) (w_prot : .prot ∈ W) (w_mate : .mate ∈ W) (w_flt : .flt ∈ W) (w_regs : .regs ∈ W) (g : CommitGroup) (s : State) (k_s :
    Keeps W s0 s) : Keeps W s0 (discardGroup g s) := by
  unfold discardGroup
  with_reducible repeat' first | assumption | exact Or.inl (by assumption) | exact Or.inr rfl | exact Or.inr ⟨rfl, rfl⟩
                               | exact Or.inr (NotBefore.same rfl rfl) | intro _ | apply keeps_shadowSync | apply keeps_carrierSync
                               | apply keeps_freeSelectors | apply keeps_freeReserved | apply keeps_dropGroup | apply keeps_connRecord
                               | apply Keeps.foldl | apply Keeps.foldl_snd | apply Keeps.ite | dsimp only | split | apply Keeps.upd

theorem keeps_cancelGroup {W : List Fld} {s0 : State} (w_lt : .lt ∈ W) (w_pwr : .pwr ∈ W) (w_host : .host ∈ W) (w_led : .led ∈ W) (w_st :
    .st ∈ W) (w_fab : .fab ∈ W) (w_prot : .prot ∈ W) (w_mate : .mate ∈ W) (w_flt : .flt ∈ W) (w_regs : .regs ∈ W) (a : Agent) (id : Nat)
    (s : State) (k_s : Keeps W s0 s) : Keeps W s0 (cancelGroup a id s).2 := by
  unfold cancelGroup
  with_reducible repeat' first | assumption | exact Or.inl (by assumption) | exact Or.inr rfl | exact Or.inr ⟨rfl, rfl⟩
                               | exact Or.inr (NotBefore.same rfl rfl) | intro _ | apply keeps_ledgerMgmt | apply keeps_shadowSync
                               | apply keeps_carrierSync | apply keeps_freeSelectors | apply keeps_freeReserved | apply keeps_dropGroup
                               | apply keeps_connStateBy | apply keeps_pushDone | apply keeps_domUpdate | apply Keeps.foldl
                               | apply Keeps.foldl_snd | apply Keeps.ite | refine Keeps.snd_of (by assumption) ?_
                               | refine KeepsO.of (by assumption) ?_ | apply KeepsO.getD | apply KeepsO.foldl | apply KeepsO.bind
                               | apply KeepsO.some | apply KeepsO.map | apply KeepsO.ite | dsimp only | split | apply Keeps.upd

theorem keeps_commitControl {W : List Fld} {s0 : State} (w_lt : .lt ∈ W) (w_pwr : .pwr ∈ W) (w_host : .host ∈ W) (w_led : .led ∈ W) (w_st
    : .st ∈ W) (w_fab : .fab ∈ W) (w_prot : .prot ∈ W) (w_mate : .mate ∈ W) (w_flt : .flt ∈ W) (w_book : .book ∈ W) (w_regs : .regs ∈ W)
    (a : Agent) (v : Nat) (s : State) (k_s : Keeps W s0 s) : Keeps W s0 (commitControl a v s).2 := by
  unfold commitControl
  with_reducible repeat' first | assumption | exact Or.inl (by assumption) | exact Or.inr rfl | exact Or.inr ⟨rfl, rfl⟩
                               | exact Or.inr (NotBefore.same rfl rfl) | intro _ | apply keeps_goGroup | apply keeps_countOutcome
                               | apply keeps_modSeatLt | apply keeps_cancelGroup | apply Keeps.ite
                               | refine Keeps.snd_of (by assumption) ?_ | refine Keeps.snd2_of (by assumption) ?_ | dsimp only | split
                               | apply Keeps.upd

end Sys2Proof.Machine
end

