-- ==== Sys2Proof/Laws/Keeps/Landing.lean ====
section
/-!
SUPPORT. The functions of Machine/Landing.lean keep what every command keeps (`Keeps`).
-/
namespace Sys2Proof.Machine

open Sys2Proof

theorem keeps_mirrorPagesNew {W : List Fld} {s0 : State} (w_mate : .mate ∈ W) (ps : List Nat) (s : State) (k_s : Keeps W s0 s) : Keeps W
    s0 (mirrorPagesNew ps s) := by
  unfold mirrorPagesNew
  with_reducible repeat' first | assumption | exact Or.inl (by assumption) | exact Or.inr rfl | exact Or.inr ⟨rfl, rfl⟩
                               | exact Or.inr (NotBefore.same rfl rfl) | intro _ | apply keeps_mirrorItem | apply Keeps.foldl
                               | apply Keeps.foldl_snd | apply Keeps.ite | dsimp only | split | apply Keeps.upd

theorem keeps_landHook {W : List Fld} {s0 : State} (w_line : .line ∈ W) (w_fab : .fab ∈ W) (w_mate : .mate ∈ W) (w_dun : .dun ∈ W) (key
    old new : Nat) (s : State) (k_s : Keeps W s0 s) : Keeps W s0 (landHook key old new s) := by
  unfold landHook
  with_reducible repeat' first | assumption | exact Or.inl (by assumption) | exact Or.inr rfl | exact Or.inr ⟨rfl, rfl⟩
                               | exact Or.inr (NotBefore.same rfl rfl) | intro _ | apply keeps_portRestart | apply keeps_modPort
                               | apply keeps_loWake | apply keeps_setGfp | apply keeps_mirrorPagesNew | apply keeps_modLane
                               | apply keeps_laneDrop | apply Keeps.ite | dsimp only | split

theorem keeps_landWrite {W : List Fld} {s0 : State} (w_pwr : .pwr ∈ W) (w_host : .host ∈ W) (w_led : .led ∈ W) (w_line : .line ∈ W) (w_fab
    : .fab ∈ W) (w_prot : .prot ∈ W) (w_mate : .mate ∈ W) (w_dun : .dun ∈ W) (w_flt : .flt ∈ W) (w_regs : .regs ∈ W) (w : StagedWrite) (s
    : State) (k_s : Keeps W s0 s) : Keeps W s0 (landWrite w s) := by
  unfold landWrite
  with_reducible repeat' first | assumption | exact Or.inl (by assumption) | exact Or.inr rfl | exact Or.inr ⟨rfl, rfl⟩
                               | exact Or.inr (NotBefore.same rfl rfl) | intro _ | apply keeps_landExpect | apply keeps_mirrorItem
                               | apply keeps_rset | apply keeps_setCtl | apply keeps_mirrorReg | apply keeps_landHook | apply Keeps.ite
                               | dsimp only | split | apply Keeps.upd

theorem keeps_landAnchor {W : List Fld} {s0 : State} (w_lt : .lt ∈ W) (w_pwr : .pwr ∈ W) (w_host : .host ∈ W) (w_led : .led ∈ W) (w_mate :
    .mate ∈ W) (w_flt : .flt ∈ W) (w_regs : .regs ∈ W) (seat : Nat) (ws : List StagedWrite) (s : State) (k_s : Keeps W s0 s) : Keeps W s0
    (landAnchor seat ws s) := by
  unfold landAnchor
  with_reducible repeat' first | assumption | exact Or.inl (by assumption) | exact Or.inr rfl | exact Or.inr ⟨rfl, rfl⟩
                               | exact Or.inr (NotBefore.same rfl rfl) | intro _ | apply keeps_rset | apply keeps_ledgerHwSeat
                               | apply keeps_mirrorReg | apply Keeps.ite | dsimp only | split | apply Keeps.upd

theorem keeps_landGroup {W : List Fld} {s0 : State} (w_lt : .lt ∈ W) (w_pwr : .pwr ∈ W) (w_host : .host ∈ W) (w_led : .led ∈ W) (w_st :
    .st ∈ W) (w_line : .line ∈ W) (w_fab : .fab ∈ W) (w_prot : .prot ∈ W) (w_mate : .mate ∈ W) (w_dun : .dun ∈ W) (w_flt : .flt ∈ W)
    (w_book : .book ∈ W) (w_regs : .regs ∈ W) (g : CommitGroup) (acc : Landed × State) (k_acc : Keeps W s0 acc.2) : Keeps W s0 (landGroup
    g acc).2 := by
  unfold landGroup
  with_reducible repeat' first | assumption | exact Or.inl (by assumption) | exact Or.inr rfl | exact Or.inr ⟨rfl, rfl⟩
                               | exact Or.inr (NotBefore.same rfl rfl) | intro _ | apply keeps_dropGroup | apply keeps_ledgerHwSeat
                               | apply keeps_landWrite | apply keeps_landAnchor | apply keeps_protRecord | apply keeps_connRecord
                               | apply keeps_pushDone | apply keeps_countOutcome | apply keeps_modMate | apply Keeps.foldl
                               | apply Keeps.foldl_snd | apply Keeps.ite

theorem keeps_moveGroup {W : List Fld} {s0 : State} (w_lt : .lt ∈ W) (w_mate : .mate ∈ W) (g : CommitGroup) (s : State) (k_s : Keeps W s0
    s) : Keeps W s0 (moveGroup g s) := by
  unfold moveGroup
  with_reducible repeat' first | assumption | exact Or.inl (by assumption) | exact Or.inr rfl | exact Or.inr ⟨rfl, rfl⟩
                               | exact Or.inr (NotBefore.same rfl rfl) | intro _ | apply keeps_setCal | apply keeps_mirrorCal
                               | apply keeps_mirrorGroup | apply Keeps.ite | dsimp only | split | apply Keeps.upd

theorem keeps_countDelay {W : List Fld} {s0 : State} (w_mate : .mate ∈ W) (s : State) (k_s : Keeps W s0 s) : Keeps W s0 (countDelay s) := by
  unfold countDelay
  with_reducible repeat' first | assumption | exact Or.inl (by assumption) | exact Or.inr rfl | exact Or.inr ⟨rfl, rfl⟩
                               | exact Or.inr (NotBefore.same rfl rfl) | intro _ | apply keeps_modMate | apply Keeps.ite | dsimp only
                               | split | apply Keeps.upd

theorem keeps_landDue {W : List Fld} {s0 : State} (w_lt : .lt ∈ W) (w_pwr : .pwr ∈ W) (w_host : .host ∈ W) (w_led : .led ∈ W) (w_st : .st
    ∈ W) (w_line : .line ∈ W) (w_fab : .fab ∈ W) (w_prot : .prot ∈ W) (w_mate : .mate ∈ W) (w_dun : .dun ∈ W) (w_flt : .flt ∈ W) (w_book :
    .book ∈ W) (w_regs : .regs ∈ W) (s : State) (k_s : Keeps W s0 s) : Keeps W s0 (landDue s).2 := by
  unfold landDue
  with_reducible repeat' first | assumption | exact Or.inl (by assumption) | exact Or.inr rfl | exact Or.inr ⟨rfl, rfl⟩
                               | exact Or.inr (NotBefore.same rfl rfl) | intro _ | apply keeps_moveGroup | apply keeps_countDelay
                               | apply keeps_landGroup | apply Keeps.foldl | apply Keeps.foldl_snd | apply Keeps.ite
                               | refine Keeps.snd_of (by assumption) ?_ | dsimp only | split | apply Keeps.upd

theorem keeps_overcommitEval {W : List Fld} {s0 : State} (w_book : .book ∈ W) (s : State) (k_s : Keeps W s0 s) : Keeps W s0
    (overcommitEval s) := by
  unfold overcommitEval
  with_reducible repeat' first | assumption | exact Or.inl (by assumption) | exact Or.inr rfl | exact Or.inr ⟨rfl, rfl⟩
                               | exact Or.inr (NotBefore.same rfl rfl) | intro _ | apply Keeps.foldl | apply Keeps.foldl_snd
                               | apply Keeps.ite | dsimp only | split | apply Keeps.upd

theorem keeps_landMap {W : List Fld} {s0 : State} (w_pwr : .pwr ∈ W) (w_host : .host ∈ W) (w_led : .led ∈ W) (w_mate : .mate ∈ W) (w_flt :
    .flt ∈ W) (w_regs : .regs ∈ W) (w : StagedWrite) (s : State) (k_s : Keeps W s0 s) : Keeps W s0 (landMap w s) := by
  unfold landMap
  with_reducible repeat' first | assumption | exact Or.inl (by assumption) | exact Or.inr rfl | exact Or.inr ⟨rfl, rfl⟩
                               | exact Or.inr (NotBefore.same rfl rfl) | intro _ | apply keeps_rset | apply keeps_setCause
                               | apply keeps_ledgerHwSeat | apply keeps_mirrorReg | apply keeps_mirrorMap | apply Keeps.foldl
                               | apply Keeps.foldl_snd | apply Keeps.ite

theorem keeps_landMaps {W : List Fld} {s0 : State} (w_pwr : .pwr ∈ W) (w_host : .host ∈ W) (w_led : .led ∈ W) (w_mate : .mate ∈ W) (w_flt
    : .flt ∈ W) (w_book : .book ∈ W) (w_regs : .regs ∈ W) (ws : List (Nat × StagedWrite)) (s : State) (k_s : Keeps W s0 s) : Keeps W s0
    (landMaps ws s) := by
  unfold landMaps
  with_reducible repeat' first | assumption | exact Or.inl (by assumption) | exact Or.inr rfl | exact Or.inr ⟨rfl, rfl⟩
                               | exact Or.inr (NotBefore.same rfl rfl) | intro _ | apply keeps_overcommitEval | apply keeps_landMap
                               | apply keeps_mirrorPagesNew | apply Keeps.foldl | apply Keeps.foldl_snd | apply Keeps.ite

end Sys2Proof.Machine
end

