-- ==== Sys2Proof/Laws/Keeps/Lt.lean ====
section
/-!
SUPPORT. The functions of Machine/Lt.lean keep what every command keeps (`Keeps`).
-/
namespace Sys2Proof.Machine

open Sys2Proof

theorem keeps_setTiming {W : List Fld} {s0 : State} (w_lt : .lt ∈ W) (i : TimingSel) (x : TimingIn) (s : State) (k_s : Keeps W s0 s) :
    Keeps W s0 (setTiming i x s) := by
  unfold setTiming
  with_reducible repeat' first | assumption | exact Or.inl (by assumption) | exact Or.inr rfl | exact Or.inr ⟨rfl, rfl⟩
                               | exact Or.inr (NotBefore.same rfl rfl) | intro _ | apply Keeps.ite | dsimp only | split | apply Keeps.upd

theorem keeps_ltRecord {W : List Fld} {s0 : State} (w_pwr : .pwr ∈ W) (w_host : .host ∈ W) (w_led : .led ∈ W) (w_mate : .mate ∈ W) (w_flt
    : .flt ∈ W) (w_regs : .regs ∈ W) (ident old new : Nat) (s : State) (k_s : Keeps W s0 s) : Keeps W s0 (ltRecord ident old new s) := by
  unfold ltRecord
  with_reducible repeat' first | assumption | exact Or.inl (by assumption) | exact Or.inr rfl | exact Or.inr ⟨rfl, rfl⟩
                               | exact Or.inr (NotBefore.same rfl rfl) | intro _ | apply keeps_ledgerHw

theorem keeps_setLtMode {W : List Fld} {s0 : State} (w_lt : .lt ∈ W) (w_pwr : .pwr ∈ W) (w_host : .host ∈ W) (w_led : .led ∈ W) (w_mate :
    .mate ∈ W) (w_flt : .flt ∈ W) (w_regs : .regs ∈ W) (m : LtMode) (s : State) (k_s : Keeps W s0 s) : Keeps W s0 (setLtMode m s) := by
  unfold setLtMode
  with_reducible repeat' first | assumption | exact Or.inl (by assumption) | exact Or.inr rfl | exact Or.inr ⟨rfl, rfl⟩
                               | exact Or.inr (NotBefore.same rfl rfl) | intro _ | apply keeps_ltRecord | apply keeps_faultRaise
                               | apply Keeps.ite | dsimp only | split | apply Keeps.upd

theorem keeps_setRef {W : List Fld} {s0 : State} (w_lt : .lt ∈ W) (w_pwr : .pwr ∈ W) (w_host : .host ∈ W) (w_led : .led ∈ W) (w_mate :
    .mate ∈ W) (w_flt : .flt ∈ W) (w_regs : .regs ∈ W) (r : Nat) (s : State) (k_s : Keeps W s0 s) : Keeps W s0 (setRef r s) := by
  unfold setRef
  with_reducible repeat' first | assumption | exact Or.inl (by assumption) | exact Or.inr rfl | exact Or.inr ⟨rfl, rfl⟩
                               | exact Or.inr (NotBefore.same rfl rfl) | intro _ | apply keeps_faultRaise | apply keeps_ltRecord
                               | apply Keeps.ite | dsimp only | split | apply Keeps.upd

theorem keeps_establish {W : List Fld} {s0 : State} (w_lt : .lt ∈ W) (w_pwr : .pwr ∈ W) (w_host : .host ∈ W) (w_led : .led ∈ W) (w_mate :
    .mate ∈ W) (w_flt : .flt ∈ W) (w_regs : .regs ∈ W) (s : State) (k_s : Keeps W s0 s) : Keeps W s0 (establish s) := by
  unfold establish
  with_reducible repeat' first | assumption | exact Or.inl (by assumption) | exact Or.inr rfl | exact Or.inr ⟨rfl, rfl⟩
                               | exact Or.inr (NotBefore.same rfl rfl) | intro _ | apply keeps_setLtMode | apply Keeps.ite | dsimp only
                               | split | apply Keeps.upd

theorem keeps_reselect {W : List Fld} {s0 : State} (w_lt : .lt ∈ W) (w_pwr : .pwr ∈ W) (w_host : .host ∈ W) (w_led : .led ∈ W) (w_mate :
    .mate ∈ W) (w_flt : .flt ∈ W) (w_regs : .regs ∈ W) (s : State) (k_s : Keeps W s0 s) : Keeps W s0 (reselect s) := by
  unfold reselect
  with_reducible repeat' first | assumption | exact Or.inl (by assumption) | exact Or.inr rfl | exact Or.inr ⟨rfl, rfl⟩
                               | exact Or.inr (NotBefore.same rfl rfl) | intro _ | apply keeps_setRef | apply keeps_setLtMode
                               | apply keeps_establish | apply Keeps.ite | dsimp only | split

theorem keeps_ncoLearn {W : List Fld} {s0 : State} (w_lt : .lt ∈ W) (w_freeCtr : .freeCtr ∈ W) (s : State) (k_s : Keeps W s0 s) : Keeps W
    s0 (ncoLearn s) := by
  unfold ncoLearn
  with_reducible repeat' first | assumption | exact Or.inl (by assumption) | exact Or.inr rfl | exact Or.inr ⟨rfl, rfl⟩
                               | exact Or.inr (NotBefore.same rfl rfl) | intro _ | apply keeps_takeFree | apply Keeps.ite
                               | refine Keeps.snd_of (by assumption) ?_ | dsimp only | split | apply Keeps.upd

theorem keeps_followEdge {W : List Fld} {s0 : State} (w_lt : .lt ∈ W) (w_freeCtr : .freeCtr ∈ W) (p : Nat) (ez : Int) (s : State) (k_s :
    Keeps W s0 s) : Keeps W s0 (followEdge p ez s) := by
  unfold followEdge
  with_reducible repeat' first | assumption | exact Or.inl (by assumption) | exact Or.inr rfl | exact Or.inr ⟨rfl, rfl⟩
                               | exact Or.inr (NotBefore.same rfl rfl) | intro _ | apply keeps_ncoLearn | apply Keeps.ite | dsimp only
                               | split | apply Keeps.upd

theorem keeps_qualifyEdge {W : List Fld} {s0 : State} (w_lt : .lt ∈ W) (i : TimingSel) (s : State) (k_s : Keeps W s0 s) : Keeps W s0
    (qualifyEdge i s).2 := by
  unfold qualifyEdge
  with_reducible repeat' first | assumption | exact Or.inl (by assumption) | exact Or.inr rfl | exact Or.inr ⟨rfl, rfl⟩
                               | exact Or.inr (NotBefore.same rfl rfl) | intro _ | apply keeps_setTiming | apply Keeps.ite
                               | refine Keeps.snd_of (by assumption) ?_ | dsimp only | split

theorem keeps_setMf {W : List Fld} {s0 : State} (w_lt : .lt ∈ W) (w_pwr : .pwr ∈ W) (w_host : .host ∈ W) (w_led : .led ∈ W) (w_mate :
    .mate ∈ W) (w_flt : .flt ∈ W) (w_regs : .regs ∈ W) (b : Bool) (s : State) (k_s : Keeps W s0 s) : Keeps W s0 (setMf b s) := by
  unfold setMf
  with_reducible repeat' first | assumption | exact Or.inl (by assumption) | exact Or.inr rfl | exact Or.inr ⟨rfl, rfl⟩
                               | exact Or.inr (NotBefore.same rfl rfl) | intro _ | apply keeps_faultRaise | apply Keeps.ite | dsimp only
                               | split | apply Keeps.upd

theorem keeps_setPps {W : List Fld} {s0 : State} (w_lt : .lt ∈ W) (w_pwr : .pwr ∈ W) (w_host : .host ∈ W) (w_led : .led ∈ W) (w_mate :
    .mate ∈ W) (w_flt : .flt ∈ W) (w_regs : .regs ∈ W) (b : Bool) (s : State) (k_s : Keeps W s0 s) : Keeps W s0 (setPps b s) := by
  unfold setPps
  with_reducible repeat' first | assumption | exact Or.inl (by assumption) | exact Or.inr rfl | exact Or.inr ⟨rfl, rfl⟩
                               | exact Or.inr (NotBefore.same rfl rfl) | intro _ | apply keeps_faultRaise | apply Keeps.ite | dsimp only
                               | split | apply Keeps.upd

theorem keeps_markEdge {W : List Fld} {s0 : State} (w_lt : .lt ∈ W) (w_pwr : .pwr ∈ W) (w_host : .host ∈ W) (w_led : .led ∈ W) (w_mate :
    .mate ∈ W) (w_flt : .flt ∈ W) (w_regs : .regs ∈ W) (i : TimingSel) (p : Nat) (s : State) (k_s : Keeps W s0 s) : Keeps W s0 (markEdge i
    p s) := by
  unfold markEdge
  with_reducible repeat' first | assumption | exact Or.inl (by assumption) | exact Or.inr rfl | exact Or.inr ⟨rfl, rfl⟩
                               | exact Or.inr (NotBefore.same rfl rfl) | intro _ | apply keeps_setMf | apply keeps_setPps
                               | apply Keeps.ite | dsimp only | split | apply Keeps.upd

theorem keeps_timingEdge {W : List Fld} {s0 : State} (w_lt : .lt ∈ W) (w_pwr : .pwr ∈ W) (w_host : .host ∈ W) (w_led : .led ∈ W) (w_mate :
    .mate ∈ W) (w_flt : .flt ∈ W) (w_regs : .regs ∈ W) (w_freeCtr : .freeCtr ∈ W) (i : TimingSel) (s : State) (k_s : Keeps W s0 s) : Keeps
    W s0 (timingEdge i s) := by
  unfold timingEdge
  with_reducible repeat' first | assumption | exact Or.inl (by assumption) | exact Or.inr rfl | exact Or.inr ⟨rfl, rfl⟩
                               | exact Or.inr (NotBefore.same rfl rfl) | intro _ | apply keeps_qualifyEdge | apply keeps_reselect
                               | apply keeps_followEdge | apply keeps_markEdge | apply Keeps.ite | refine Keeps.snd_of (by assumption) ?_
                               | dsimp only | split | apply Keeps.upd

theorem keeps_timingMiss {W : List Fld} {s0 : State} (w_lt : .lt ∈ W) (w_pwr : .pwr ∈ W) (w_host : .host ∈ W) (w_led : .led ∈ W) (w_mate :
    .mate ∈ W) (w_flt : .flt ∈ W) (w_regs : .regs ∈ W) (w_clock : .clock ∈ W) (i : TimingSel) (q : Nat) (s : State) (k_s : Keeps W s0 s) :
    Keeps W s0 (timingMiss i q s) := by
  unfold timingMiss
  with_reducible repeat' first | assumption | exact Or.inl (by assumption) | exact Or.inr rfl | exact Or.inr ⟨rfl, rfl⟩
                               | exact Or.inr (NotBefore.same rfl rfl) | intro _ | apply keeps_setTiming | apply keeps_reselect
                               | apply Keeps.ite | dsimp only | split | apply Keeps.upd
                               | exact Or.inr (NotBefore.of rfl (Nat.le_max_left _ _)) | exact phase_zero
                               | exact phase_clip (by assumption) | exact Nat.mod_lt _ phase_zero

theorem keeps_refSelHook {W : List Fld} {s0 : State} (w_lt : .lt ∈ W) (w_pwr : .pwr ∈ W) (w_host : .host ∈ W) (w_led : .led ∈ W) (w_mate :
    .mate ∈ W) (w_flt : .flt ∈ W) (w_regs : .regs ∈ W) (s : State) (k_s : Keeps W s0 s) : Keeps W s0 (refSelHook s) := by
  unfold refSelHook
  with_reducible repeat' first | assumption | exact Or.inl (by assumption) | exact Or.inr rfl | exact Or.inr ⟨rfl, rfl⟩
                               | exact Or.inr (NotBefore.same rfl rfl) | intro _ | apply keeps_reselect | apply keeps_setTiming
                               | apply Keeps.foldl | apply Keeps.foldl_snd | apply Keeps.ite

theorem keeps_frameLoad {W : List Fld} {s0 : State} (w_lt : .lt ∈ W) (f : Nat) (s : State) (k_s : Keeps W s0 s) : Keeps W s0 (frameLoad f
    s) := by
  unfold frameLoad
  with_reducible repeat' first | assumption | exact Or.inl (by assumption) | exact Or.inr rfl | exact Or.inr ⟨rfl, rfl⟩
                               | exact Or.inr (NotBefore.same rfl rfl) | intro _ | apply Keeps.ite | dsimp only | split | apply Keeps.upd

theorem keeps_clearEvents {W : List Fld} {s0 : State} (w_lt : .lt ∈ W) (s : State) (k_s : Keeps W s0 s) : Keeps W s0 (clearEvents s) := by
  unfold clearEvents
  with_reducible repeat' first | assumption | exact Or.inl (by assumption) | exact Or.inr rfl | exact Or.inr ⟨rfl, rfl⟩
                               | exact Or.inr (NotBefore.same rfl rfl) | intro _ | apply Keeps.ite | dsimp only | split | apply Keeps.upd

theorem keeps_shiftPredictions {W : List Fld} {s0 : State} (w_lt : .lt ∈ W) (d : Int) (s : State) (k_s : Keeps W s0 s) : Keeps W s0
    (shiftPredictions d s) := by
  unfold shiftPredictions
  with_reducible repeat' first | assumption | exact Or.inl (by assumption) | exact Or.inr rfl | exact Or.inr ⟨rfl, rfl⟩
                               | exact Or.inr (NotBefore.same rfl rfl) | intro _ | apply Keeps.ite | dsimp only | split | apply Keeps.upd

/-- The count of a jump due is not before the next frame (R39, R300). -/
theorem boundaryJump_le {n : Nat} {j : Option CountJump} {x : Nat × Nat} (h : boundaryJump n j = some x) : n ≤ x.2 := by
  unfold boundaryJump at h
  split at h
  · split at h <;> cases h; rename_i k; exact k.2
  · split at h <;> cases h; rename_i k; exact k.2
  · cases h

/-- Alignments only advance the count (R34). -/
theorem boundaryAligns_le (s : State) (n : Nat) : n ≤ (boundaryAligns s n).1 := by
  unfold boundaryAligns
  extract_lets lt step a
  have k : ∀ (b : Nat × List (Nat × Nat × Nat)) (m : Nat) (x y z : Bool), 0 < m → b.1 ≤ (step b m x y z).1 := by
    intro b m x y z hm
    have up : ∀ c : Nat, c ≤ ruleUp m c := fun c => by
      unfold ruleUp
      have := Nat.div_add_mod (c + m - 1) m
      have := Nat.mod_lt (c + m - 1) hm
      rw [Nat.mul_comm]; omega
    have f1 : ∀ c : Nat × List (Nat × Nat × Nat), b.1 ≤ c.1 →
        b.1 ≤ (if y && z && decide (c.1 % m ≠ 0) then (ruleUp m c.1, c.2 ++ [(3, c.1, ruleUp m c.1)]) else c).1 := by
      intro c hc
      split
      · exact Nat.le_trans hc (up _)
      · exact hc
    apply f1
    split
    · rename_i q
      simp only [Bool.and_eq_true, decide_eq_true_eq] at q
      exact Nat.le_of_lt q.2
    · exact Nat.le_refl _
  exact Nat.le_trans (k (n, []) 4 _ _ _ (by decide)) (k a 8000 _ _ _ (by decide))

theorem keeps_startFrame {W : List Fld} {s0 : State} (w_lt : .lt ∈ W) (w_pwr : .pwr ∈ W) (w_host : .host ∈ W) (w_led : .led ∈ W) (w_mate : .mate ∈ W) (w_flt : .flt ∈ W) (w_regs : .regs ∈ W) (w_clock : .clock ∈ W) (s : State) (k_s : Keeps W s0 s) : Keeps W s0 (startFrame s) := by
  unfold startFrame
  extract_lets prev plain j n0 t0 s1 adj cut src
  split
  rename_i n acts e
  have en : prev < n := by
    have := boundaryAligns_le s n0
    rw [e] at this
    have : plain ≤ n0 := by
      unfold n0
      cases q : j with
      | none => exact Nat.le_refl _
      | some x => exact boundaryJump_le q
    unfold plain at this
    omega
  have e1 : s1.lt.frame = prev := by
    have kt : Keeps [.lt, .pwr, .host, .led, .mate, .flt, .regs] s t0 := by
      have k0 := Keeps.refl [.lt, .pwr, .host, .led, .mate, .flt, .regs] s
      unfold t0
      split
      · apply keeps_setMf <;> first | assumption | decide
      · exact k0
    have ks : Keeps [.lt, .pwr, .host, .led, .mate, .flt, .regs] s s1 := by
      unfold s1
      split
      · apply keeps_setPps <;> first | assumption | decide
      · exact kt
    exact (ks.frame .clock (by decide)).1
  clear_value j cut
  extract_lets moved s2 s3 s4
  have k0 : Keeps W s0 t0 := by
    with_reducible repeat' first | assumption | apply keeps_setMf | apply Keeps.ite
  clear_value t0
  have k1 : Keeps W s0 s1 := by
    with_reducible repeat' first | assumption | apply keeps_setPps | apply Keeps.ite
  clear_value s1
  have k2 : Keeps W s0 s2 := by
    apply keeps_shiftPredictions w_lt
    apply Keeps.upd k1 <;> first | exact fun _ => phase_zero | exact Or.inr (Or.inl (e1 ▸ en)) | exact Or.inr rfl | exact Or.inl (by assumption)
  clear_value s2
  have k3 : Keeps W s0 s3 := by
    unfold s3
    with_reducible repeat' first | assumption | apply keeps_faultRaise | apply keeps_ltRecord | split
  clear_value s3
  have k4 : Keeps W s0 s4 := by
    unfold s4
    with_reducible repeat' first | assumption | apply keeps_establish | apply keeps_ltRecord | apply Keeps.ite | split
  clear_value s4
  exact Keeps.foldl k4 (fun t a h => by with_reducible repeat' first | assumption | apply keeps_ltRecord)

end Sys2Proof.Machine
end

