-- ==== Sys2Proof/Laws/Keeps/Objects.lean ====
section
/-!
SUPPORT. The functions of Machine/Objects.lean keep what every command keeps (`Keeps`).
-/
namespace Sys2Proof.Machine

open Sys2Proof

theorem keeps_blockTake {W : List Fld} {s0 : State} (w_line : .line ∈ W) (w_cam : .cam ∈ W) (w_scan : .scan ∈ W) (w_radio : .radio ∈ W)
    (w_mon : .mon ∈ W) (st n : Nat) (s : State) (k_s : Keeps W s0 s) : Keeps W s0 (blockTake st n s).2 := by
  unfold blockTake
  with_reducible repeat' first | assumption | exact Or.inl (by assumption) | exact Or.inr rfl | exact Or.inr ⟨rfl, rfl⟩
                               | exact Or.inr (NotBefore.same rfl rfl) | intro _ | apply keeps_lineStreamTake | apply Keeps.ite
                               | refine Keeps.snd_of (by assumption) ?_ | dsimp only | split | apply Keeps.upd

end Sys2Proof.Machine
end

