-- ==== Sys2Proof/Laws/Keeps/Dma.lean ====
section
/-!
SUPPORT. The functions of Machine/Dma.lean keep what every command keeps (`Keeps`).
-/
namespace Sys2Proof.Machine

open Sys2Proof

theorem keeps_setChan {W : List Fld} {s0 : State} (w_dma : .dma ∈ W) (c : Nat) (x : Channel) (s : State) (k_s : Keeps W s0 s) : Keeps W s0
    (setChan c x s) := by
  unfold setChan
  with_reducible repeat' first | assumption | exact Or.inl (by assumption) | exact Or.inr rfl | exact Or.inr ⟨rfl, rfl⟩
                               | exact Or.inr (NotBefore.same rfl rfl) | intro _ | apply Keeps.ite | dsimp only | split | apply Keeps.upd

theorem keeps_setMover {W : List Fld} {s0 : State} (w_dma : .dma ∈ W) (m : Nat) (b : Option Burst) (s : State) (k_s : Keeps W s0 s) :
    Keeps W s0 (setMover m b s) := by
  unfold setMover
  with_reducible repeat' first | assumption | exact Or.inl (by assumption) | exact Or.inr rfl | exact Or.inr ⟨rfl, rfl⟩
                               | exact Or.inr (NotBefore.same rfl rfl) | intro _ | apply Keeps.ite | dsimp only | split | apply Keeps.upd

theorem keeps_writeBack {W : List Fld} {s0 : State} (w_mate : .mate ∈ W) (w_sram : .sram ∈ W) (seat addr : Nat) (d : Descriptor) (outcome
    detail : Nat) (stopped unconf : Bool) (s : State) (k_s : Keeps W s0 s) : Keeps W s0 (writeBack seat addr d outcome detail stopped
    unconf s).2 := by
  unfold writeBack
  with_reducible repeat' first | assumption | exact Or.inl (by assumption) | exact Or.inr rfl | exact Or.inr ⟨rfl, rfl⟩
                               | exact Or.inr (NotBefore.same rfl rfl) | intro _ | apply keeps_mirrorSram | apply keeps_sramWrite
                               | apply Keeps.ite | refine Keeps.snd_of (by assumption) ?_ | dsimp only | split

theorem keeps_endDescAs {W : List Fld} {s0 : State} (w_host : .host ∈ W) (w_dma : .dma ∈ W) (w_mate : .mate ∈ W) (w_book : .book ∈ W)
    (w_regs : .regs ∈ W) (w_sram : .sram ∈ W) (seat c outcome detail : Nat) (stopped unconf : Bool) (cause : State → Option Nat) (s :
    State) (k_s : Keeps W s0 s) : Keeps W s0 (endDescAs seat c outcome detail stopped unconf cause s) := by
  unfold endDescAs
  with_reducible repeat' first | assumption | exact Or.inl (by assumption) | exact Or.inr rfl | exact Or.inr ⟨rfl, rfl⟩
                               | exact Or.inr (NotBefore.same rfl rfl) | intro _ | apply k_cause | apply keeps_writeBack
                               | apply keeps_setChan | apply keeps_countOutcome | apply keeps_setCause | apply Keeps.ite
                               | refine Keeps.snd_of (by assumption) ?_ | dsimp only | split | apply Keeps.upd

theorem keeps_endDesc {W : List Fld} {s0 : State} (w_host : .host ∈ W) (w_dma : .dma ∈ W) (w_mate : .mate ∈ W) (w_book : .book ∈ W)
    (w_regs : .regs ∈ W) (w_sram : .sram ∈ W) (seat c outcome detail : Nat) (stopped unconf : Bool) (s : State) (k_s : Keeps W s0 s) :
    Keeps W s0 (endDesc seat c outcome detail stopped unconf s) := by
  unfold endDesc
  with_reducible repeat' first | assumption | exact Or.inl (by assumption) | exact Or.inr rfl | exact Or.inr ⟨rfl, rfl⟩
                               | exact Or.inr (NotBefore.same rfl rfl) | intro _ | apply keeps_endDescAs | apply Keeps.ite | dsimp only
                               | split

theorem keeps_creditMark {W : List Fld} {s0 : State} (w_dma : .dma ∈ W) (c : Nat) (s : State) (k_s : Keeps W s0 s) : Keeps W s0
    (creditMark c s) := by
  unfold creditMark
  with_reducible repeat' first | assumption | exact Or.inl (by assumption) | exact Or.inr rfl | exact Or.inr ⟨rfl, rfl⟩
                               | exact Or.inr (NotBefore.same rfl rfl) | intro _ | apply keeps_setChan | apply Keeps.ite

theorem keeps_creditMarks {W : List Fld} {s0 : State} (w_dma : .dma ∈ W) (s : State) (k_s : Keeps W s0 s) : Keeps W s0 (creditMarks s) := by
  unfold creditMarks
  with_reducible repeat' first | assumption | exact Or.inl (by assumption) | exact Or.inr rfl | exact Or.inr ⟨rfl, rfl⟩
                               | exact Or.inr (NotBefore.same rfl rfl) | intro _ | apply keeps_creditMark | apply Keeps.foldl

theorem keeps_runDesc {W : List Fld} {s0 : State} (w_host : .host ∈ W) (w_dma : .dma ∈ W) (w_mate : .mate ∈ W) (w_book : .book ∈ W)
    (w_regs : .regs ∈ W) (w_sram : .sram ∈ W) (x0 x1 x2 : Nat) (x3 : State) (k_x3 : Keeps W s0 x3) : Keeps W s0 (runDesc x0 x1 x2 x3) := by
  induction x0 generalizing x1 x2 x3 k_x3 with
  | zero =>
    unfold runDesc
    with_reducible repeat' first | assumption | exact Or.inl (by assumption) | exact Or.inr rfl | exact Or.inr ⟨rfl, rfl⟩
                                 | exact Or.inr (NotBefore.same rfl rfl) | intro _ | apply keeps_setChan | apply keeps_endDesc
                                 | apply keeps_creditMark | apply Keeps.ite | dsimp only | split | apply Keeps.upd
  | succ m ih =>
    unfold runDesc
    with_reducible repeat' first | assumption | apply ih | exact Or.inl (by assumption) | exact Or.inr rfl | exact Or.inr ⟨rfl, rfl⟩
                                 | exact Or.inr (NotBefore.same rfl rfl) | intro _ | apply keeps_setChan | apply keeps_endDesc
                                 | apply keeps_creditMark | apply Keeps.ite | dsimp only | split | apply Keeps.upd

theorem keeps_doneDesc {W : List Fld} {s0 : State} (w_host : .host ∈ W) (w_dma : .dma ∈ W) (w_mate : .mate ∈ W) (w_book : .book ∈ W)
    (w_regs : .regs ∈ W) (w_sram : .sram ∈ W) (c : Nat) (s : State) (k_s : Keeps W s0 s) : Keeps W s0 (doneDesc c s) := by
  unfold doneDesc
  with_reducible repeat' first | assumption | exact Or.inl (by assumption) | exact Or.inr rfl | exact Or.inr ⟨rfl, rfl⟩
                               | exact Or.inr (NotBefore.same rfl rfl) | intro _ | apply keeps_endDesc | apply keeps_runDesc
                               | apply Keeps.ite | dsimp only | split

theorem keeps_dmaStart {W : List Fld} {s0 : State} (w_host : .host ∈ W) (w_dma : .dma ∈ W) (w_mate : .mate ∈ W) (w_book : .book ∈ W)
    (w_regs : .regs ∈ W) (w_sram : .sram ∈ W) (c addr : Nat) (s : State) (k_s : Keeps W s0 s) : Keeps W s0 (dmaStart c addr s).2 := by
  unfold dmaStart
  with_reducible repeat' first | assumption | exact Or.inl (by assumption) | exact Or.inr rfl | exact Or.inr ⟨rfl, rfl⟩
                               | exact Or.inr (NotBefore.same rfl rfl) | intro _ | apply keeps_runDesc | apply Keeps.ite
                               | refine Keeps.snd_of (by assumption) ?_ | dsimp only | split

theorem keeps_dmaStop {W : List Fld} {s0 : State} (w_host : .host ∈ W) (w_dma : .dma ∈ W) (w_mate : .mate ∈ W) (w_book : .book ∈ W)
    (w_regs : .regs ∈ W) (w_sram : .sram ∈ W) (c : Nat) (s : State) (k_s : Keeps W s0 s) : Keeps W s0 (dmaStop c s) := by
  unfold dmaStop
  with_reducible repeat' first | assumption | exact Or.inl (by assumption) | exact Or.inr rfl | exact Or.inr ⟨rfl, rfl⟩
                               | exact Or.inr (NotBefore.same rfl rfl) | intro _ | apply keeps_setChan | apply keeps_endDesc
                               | apply Keeps.ite

theorem keeps_dmaStartBy {W : List Fld} {s0 : State} (w_host : .host ∈ W) (w_dma : .dma ∈ W) (w_mate : .mate ∈ W) (w_book : .book ∈ W)
    (w_regs : .regs ∈ W) (w_sram : .sram ∈ W) (c : Nat) (s : State) (k_s : Keeps W s0 s) : Keeps W s0 (dmaStartBy c s).2 := by
  unfold dmaStartBy
  with_reducible repeat' first | assumption | exact Or.inl (by assumption) | exact Or.inr rfl | exact Or.inr ⟨rfl, rfl⟩
                               | exact Or.inr (NotBefore.same rfl rfl) | intro _ | apply keeps_dmaStart | apply keeps_setChan

theorem keeps_dmaCommand {W : List Fld} {s0 : State} (w_pwr : .pwr ∈ W) (w_host : .host ∈ W) (w_led : .led ∈ W) (w_dma : .dma ∈ W) (w_mate
    : .mate ∈ W) (w_flt : .flt ∈ W) (w_book : .book ∈ W) (w_regs : .regs ∈ W) (w_sram : .sram ∈ W) (a : Agent) (c v : Nat) (s : State)
    (k_s : Keeps W s0 s) : Keeps W s0 (dmaCommand a c v s).2 := by
  unfold dmaCommand
  with_reducible repeat' first | assumption | exact Or.inl (by assumption) | exact Or.inr rfl | exact Or.inr ⟨rfl, rfl⟩
                               | exact Or.inr (NotBefore.same rfl rfl) | intro _ | apply keeps_ledgerMgmt | apply keeps_dmaStartBy
                               | apply keeps_countOutcome | apply keeps_dmaStop | apply Keeps.ite | refine Keeps.snd_of (by assumption) ?_
                               | refine KeepsO.of (by assumption) ?_ | apply KeepsO.getD | dsimp only | split

theorem keeps_chainsOn {W : List Fld} {s0 : State} (w_host : .host ∈ W) (w_dma : .dma ∈ W) (w_mate : .mate ∈ W) (w_book : .book ∈ W)
    (w_regs : .regs ∈ W) (w_sram : .sram ∈ W) (s : State) (k_s : Keeps W s0 s) : Keeps W s0 (chainsOn s) := by
  unfold chainsOn
  with_reducible repeat' first | assumption | exact Or.inl (by assumption) | exact Or.inr rfl | exact Or.inr ⟨rfl, rfl⟩
                               | exact Or.inr (NotBefore.same rfl rfl) | intro _ | apply keeps_runDesc | apply Keeps.foldl
                               | apply Keeps.foldl_snd | apply Keeps.ite | dsimp only | split | apply Keeps.upd

theorem keeps_burstGrant {W : List Fld} {s0 : State} (w_host : .host ∈ W) (w_dma : .dma ∈ W) (w_line : .line ∈ W) (w_mate : .mate ∈ W)
    (w_cam : .cam ∈ W) (w_scan : .scan ∈ W) (w_radio : .radio ∈ W) (w_mon : .mon ∈ W) (w_book : .book ∈ W) (w_regs : .regs ∈ W) (w_sram :
    .sram ∈ W) (m : Nat) (s0z : State) (k_s0z : Keeps W s0 s0z) : Keeps W s0 (burstGrant m s0z) := by
  unfold burstGrant
  with_reducible repeat' first | assumption | exact Or.inl (by assumption) | exact Or.inr rfl | exact Or.inr ⟨rfl, rfl⟩
                               | exact Or.inr (NotBefore.same rfl rfl) | intro _ | apply keeps_chainsOn | apply keeps_setMover
                               | apply keeps_creditMarks | apply Keeps.ite | dsimp only | split | apply Keeps.upd

theorem keeps_ownerLostEnd {W : List Fld} {s0 : State} (w_pwr : .pwr ∈ W) (w_host : .host ∈ W) (w_led : .led ∈ W) (w_dma : .dma ∈ W)
    (w_mate : .mate ∈ W) (w_flt : .flt ∈ W) (w_book : .book ∈ W) (w_regs : .regs ∈ W) (w_sram : .sram ∈ W) (c : Nat) (former : Nat × Nat)
    (s : State) (k_s : Keeps W s0 s) : Keeps W s0 (ownerLostEnd c former s) := by
  unfold ownerLostEnd
  with_reducible repeat' first | assumption | exact Or.inl (by assumption) | exact Or.inr rfl | exact Or.inr ⟨rfl, rfl⟩
                               | exact Or.inr (NotBefore.same rfl rfl) | intro _ | apply keeps_endDescAs | apply keeps_rset
                               | apply keeps_ledgerHwSeat | apply keeps_setChan | apply keeps_mirrorReg

theorem keeps_chanOwnerLost {W : List Fld} {s0 : State} (w_pwr : .pwr ∈ W) (w_host : .host ∈ W) (w_led : .led ∈ W) (w_dma : .dma ∈ W)
    (w_mate : .mate ∈ W) (w_flt : .flt ∈ W) (w_book : .book ∈ W) (w_regs : .regs ∈ W) (w_sram : .sram ∈ W) (c : Nat) (former : Nat × Nat)
    (s : State) (k_s : Keeps W s0 s) : Keeps W s0 (chanOwnerLost c former s) := by
  unfold chanOwnerLost
  with_reducible repeat' first | assumption | exact Or.inl (by assumption) | exact Or.inr rfl | exact Or.inr ⟨rfl, rfl⟩
                               | exact Or.inr (NotBefore.same rfl rfl) | intro _ | apply keeps_setChan | apply keeps_ownerLostEnd
                               | apply Keeps.ite

theorem keeps_burstFail {W : List Fld} {s0 : State} (w_pwr : .pwr ∈ W) (w_host : .host ∈ W) (w_led : .led ∈ W) (w_dma : .dma ∈ W) (w_mate
    : .mate ∈ W) (w_flt : .flt ∈ W) (w_book : .book ∈ W) (w_regs : .regs ∈ W) (w_sram : .sram ∈ W) (c detail : Nat) (s : State) (k_s :
    Keeps W s0 s) : Keeps W s0 (burstFail c detail s) := by
  unfold burstFail
  with_reducible repeat' first | assumption | exact Or.inl (by assumption) | exact Or.inr rfl | exact Or.inr ⟨rfl, rfl⟩
                               | exact Or.inr (NotBefore.same rfl rfl) | intro _ | apply keeps_ownerLostEnd | apply keeps_endDesc
                               | apply Keeps.ite | dsimp only | split

theorem keeps_burstDone {W : List Fld} {s0 : State} (w_pwr : .pwr ∈ W) (w_host : .host ∈ W) (w_led : .led ∈ W) (w_dma : .dma ∈ W) (w_mate
    : .mate ∈ W) (w_flt : .flt ∈ W) (w_book : .book ∈ W) (w_regs : .regs ∈ W) (w_sram : .sram ∈ W) (b : Burst) (s : State) (k_s : Keeps W
    s0 s) : Keeps W s0 (burstDone b s) := by
  unfold burstDone
  with_reducible repeat' first | assumption | exact Or.inl (by assumption) | exact Or.inr rfl | exact Or.inr ⟨rfl, rfl⟩
                               | exact Or.inr (NotBefore.same rfl rfl) | intro _ | apply keeps_setChan | apply keeps_ownerLostEnd
                               | apply keeps_endDesc | apply keeps_doneDesc | apply keeps_creditMark | apply Keeps.ite | dsimp only
                               | split

theorem keeps_burstPut {W : List Fld} {s0 : State} (w_dma : .dma ∈ W) (w_line : .line ∈ W) (w_mate : .mate ∈ W) (w_sram : .sram ∈ W) (b :
    Burst) (data : List Byte) (s : State) (k_s : Keeps W s0 s) : KeepsO W s0 (burstPut b data s) := by
  unfold burstPut
  with_reducible repeat' first | assumption | exact Or.inl (by assumption) | exact Or.inr rfl | exact Or.inr ⟨rfl, rfl⟩
                               | exact Or.inr (NotBefore.same rfl rfl) | intro _ | apply keeps_mirrorSram | apply keeps_sramWrite
                               | apply keeps_lineStreamPut | exact KeepsO.none | apply KeepsO.some | apply KeepsO.map | apply KeepsO.ite
                               | apply Keeps.ite | refine KeepsO.of (by assumption) ?_ | apply KeepsO.getD | dsimp only | split
                               | apply Keeps.upd

theorem keeps_aerSet {W : List Fld} {s0 : State} (w_pwr : .pwr ∈ W) (w_host : .host ∈ W) (w_led : .led ∈ W) (w_mate : .mate ∈ W) (w_flt :
    .flt ∈ W) (w_regs : .regs ∈ W) (fn k : Nat) (s : State) (k_s : Keeps W s0 s) : Keeps W s0 (aerSet fn k s) := by
  unfold aerSet
  with_reducible repeat' first | assumption | exact Or.inl (by assumption) | exact Or.inr rfl | exact Or.inr ⟨rfl, rfl⟩
                               | exact Or.inr (NotBefore.same rfl rfl) | intro _ | apply keeps_faultRaise | apply Keeps.ite | dsimp only
                               | split | apply Keeps.upd

theorem keeps_dmaHostStop {W : List Fld} {s0 : State} (w_pwr : .pwr ∈ W) (w_host : .host ∈ W) (w_led : .led ∈ W) (w_dma : .dma ∈ W)
    (w_mate : .mate ∈ W) (w_flt : .flt ∈ W) (w_book : .book ∈ W) (w_regs : .regs ∈ W) (w_sram : .sram ∈ W) (hit : Nat → Bool) (s : State)
    (k_s : Keeps W s0 s) : Keeps W s0 (dmaHostStop hit s) := by
  unfold dmaHostStop
  with_reducible repeat' first | assumption | exact Or.inl (by assumption) | exact Or.inr rfl | exact Or.inr ⟨rfl, rfl⟩
                               | exact Or.inr (NotBefore.same rfl rfl) | intro _ | apply keeps_setMover | apply keeps_burstFail
                               | apply Keeps.foldl | apply Keeps.foldl_snd | apply Keeps.ite | dsimp only | split

theorem keeps_dmaRefill {W : List Fld} {s0 : State} (w_dma : .dma ∈ W) (s : State) (k_s : Keeps W s0 s) : Keeps W s0 (dmaRefill s) := by
  unfold dmaRefill
  with_reducible repeat' first | assumption | exact Or.inl (by assumption) | exact Or.inr rfl | exact Or.inr ⟨rfl, rfl⟩
                               | exact Or.inr (NotBefore.same rfl rfl) | intro _ | apply keeps_setChan | apply Keeps.foldl
                               | apply Keeps.foldl_snd | apply Keeps.ite | dsimp only | split | apply Keeps.upd

end Sys2Proof.Machine
end

