-- ==== Sys2Proof/Laws/Keeps/Strand.lean ====
section
/-!
SUPPORT. The functions of Machine/Strand.lean keep what every command keeps (`Keeps`).
-/
namespace Sys2Proof.Machine

open Sys2Proof

theorem keeps_enableStrand {W : List Fld} {s0 : State} (w_pwr : .pwr ∈ W) (w_host : .host ∈ W) (w_st : .st ∈ W) (w_regs : .regs ∈ W) (n :
    Nat) (s : State) (k_s : Keeps W s0 s) : Keeps W s0 (enableStrand n s) := by
  unfold enableStrand
  with_reducible repeat' first | assumption | exact Or.inl (by assumption) | exact Or.inr rfl | exact Or.inr ⟨rfl, rfl⟩
                               | exact Or.inr (NotBefore.same rfl rfl) | intro _ | apply keeps_domUpdate | apply keeps_reschedule
                               | apply keeps_idleEvents | apply keeps_modStrand | apply Keeps.ite

theorem keeps_abortBy {W : List Fld} {s0 : State} (w_host : .host ∈ W) (w_st : .st ∈ W) (a : Agent) (n : Nat) (s : State) (k_s : Keeps W
    s0 s) : Keeps W s0 (abortBy a n s) := by
  unfold abortBy
  with_reducible repeat' first | assumption | exact Or.inl (by assumption) | exact Or.inr rfl | exact Or.inr ⟨rfl, rfl⟩
                               | exact Or.inr (NotBefore.same rfl rfl) | intro _ | apply keeps_modStrand | apply keeps_abortStrand
                               | apply Keeps.ite | dsimp only | split | apply Keeps.upd

theorem keeps_stCtlHook {W : List Fld} {s0 : State} (w_pwr : .pwr ∈ W) (w_host : .host ∈ W) (w_st : .st ∈ W) (w_regs : .regs ∈ W) (a :
    Agent) (n old new : Nat) (s : State) (k_s : Keeps W s0 s) : Keeps W s0 (stCtlHook a n old new s) := by
  unfold stCtlHook
  with_reducible repeat' first | assumption | exact Or.inl (by assumption) | exact Or.inr rfl | exact Or.inr ⟨rfl, rfl⟩
                               | exact Or.inr (NotBefore.same rfl rfl) | intro _ | apply keeps_enableStrand | apply keeps_domUpdate
                               | apply keeps_abortBy | apply keeps_reschedule | apply keeps_idleEvents | apply Keeps.ite

theorem keeps_clusterAwake {W : List Fld} {s0 : State} (w_host : .host ∈ W) (w_st : .st ∈ W) (k : Nat) (s : State) (k_s : Keeps W s0 s) :
    Keeps W s0 (clusterAwake k s) := by
  unfold clusterAwake
  with_reducible repeat' first | assumption | exact Or.inl (by assumption) | exact Or.inr rfl | exact Or.inr ⟨rfl, rfl⟩
                               | exact Or.inr (NotBefore.same rfl rfl) | intro _ | apply keeps_enterIdle | apply Keeps.foldl
                               | apply Keeps.foldl_snd | apply Keeps.ite

theorem keeps_resumeStrand {W : List Fld} {s0 : State} (w_st : .st ∈ W) (n : Nat) (skip : Bool) (s : State) (k_s : Keeps W s0 s) : Keeps W
    s0 (resumeStrand n skip s) := by
  unfold resumeStrand
  with_reducible repeat' first | assumption | exact Or.inl (by assumption) | exact Or.inr rfl | exact Or.inr ⟨rfl, rfl⟩
                               | exact Or.inr (NotBefore.same rfl rfl) | intro _ | apply keeps_makeRunnable

theorem keeps_stAction {W : List Fld} {s0 : State} (w_host : .host ∈ W) (w_st : .st ∈ W) (a : Agent) (n cmd : Nat) (s : State) (k_s :
    Keeps W s0 s) : Keeps W s0 (stAction a n cmd s).2 := by
  unfold stAction
  with_reducible repeat' first | assumption | exact Or.inl (by assumption) | exact Or.inr rfl | exact Or.inr ⟨rfl, rfl⟩
                               | exact Or.inr (NotBefore.same rfl rfl) | intro _ | apply keeps_startStrand | apply keeps_resumeStrand
                               | apply keeps_abortBy | apply Keeps.ite | refine Keeps.snd_of (by assumption) ?_ | dsimp only | split

theorem keeps_stCommand {W : List Fld} {s0 : State} (w_pwr : .pwr ∈ W) (w_host : .host ∈ W) (w_led : .led ∈ W) (w_st : .st ∈ W) (w_mate :
    .mate ∈ W) (w_flt : .flt ∈ W) (w_book : .book ∈ W) (w_regs : .regs ∈ W) (a : Agent) (n v : Nat) (s : State) (k_s : Keeps W s0 s) :
    Keeps W s0 (stCommand a n v s).2 := by
  unfold stCommand
  with_reducible repeat' first | assumption | exact Or.inl (by assumption) | exact Or.inr rfl | exact Or.inr ⟨rfl, rfl⟩
                               | exact Or.inr (NotBefore.same rfl rfl) | intro _ | apply keeps_ledgerMgmt | apply keeps_stAction
                               | apply keeps_countOutcome | apply keeps_modStrand | apply Keeps.ite
                               | refine Keeps.snd_of (by assumption) ?_ | refine KeepsO.of (by assumption) ?_ | apply KeepsO.getD
                               | dsimp only | split

theorem keeps_calStartStrand {W : List Fld} {s0 : State} (w_host : .host ∈ W) (w_st : .st ∈ W) (n arg : Nat) (s : State) (k_s : Keeps W s0
    s) : Keeps W s0 (calStartStrand n arg s).2 := by
  unfold calStartStrand
  with_reducible repeat' first | assumption | exact Or.inl (by assumption) | exact Or.inr rfl | exact Or.inr ⟨rfl, rfl⟩
                               | exact Or.inr (NotBefore.same rfl rfl) | intro _ | apply keeps_startStrand | apply keeps_modStrand

theorem keeps_ctxWrite {W : List Fld} {s0 : State} (w_pwr : .pwr ∈ W) (w_host : .host ∈ W) (w_led : .led ∈ W) (w_st : .st ∈ W) (w_mate :
    .mate ∈ W) (w_flt : .flt ∈ W) (w_regs : .regs ∈ W) (a : Agent) (n off v : Nat) (s : State) (k_s : Keeps W s0 s) : Keeps W s0 (ctxWrite
    a n off v s).2 := by
  unfold ctxWrite
  with_reducible repeat' first | assumption | exact Or.inl (by assumption) | exact Or.inr rfl | exact Or.inr ⟨rfl, rfl⟩
                               | exact Or.inr (NotBefore.same rfl rfl) | intro _ | apply keeps_ledgerMgmt | apply keeps_setStrand
                               | apply Keeps.ite | refine Keeps.snd_of (by assumption) ?_ | refine KeepsO.of (by assumption) ?_
                               | apply KeepsO.getD | dsimp only | split

theorem keeps_eventSetWrite {W : List Fld} {s0 : State} (w_host : .host ∈ W) (w_st : .st ∈ W) (seat : Nat) (high : Bool) (v : Nat) (s :
    State) (k_s : Keeps W s0 s) : Keeps W s0 (eventSetWrite seat high v s) := by
  unfold eventSetWrite
  with_reducible repeat' first | assumption | exact Or.inl (by assumption) | exact Or.inr rfl | exact Or.inr ⟨rfl, rfl⟩
                               | exact Or.inr (NotBefore.same rfl rfl) | intro _ | apply keeps_setEvent | apply Keeps.foldl

theorem keeps_strandCleared {W : List Fld} {s0 : State} (w_pwr : .pwr ∈ W) (w_host : .host ∈ W) (w_led : .led ∈ W) (w_st : .st ∈ W)
    (w_mate : .mate ∈ W) (w_flt : .flt ∈ W) (w_regs : .regs ∈ W) (w_sram : .sram ∈ W) (n : Nat) (s : State) (k_s : Keeps W s0 s) : Keeps W
    s0 (strandCleared n s) := by
  unfold strandCleared
  with_reducible repeat' first | assumption | exact Or.inl (by assumption) | exact Or.inr rfl | exact Or.inr ⟨rfl, rfl⟩
                               | exact Or.inr (NotBefore.same rfl rfl) | intro _ | apply keeps_ledgerHwSeat | apply keeps_clearStrand
                               | apply keeps_domUpdate | apply keeps_mirrorReg | apply Keeps.ite | dsimp only | split | apply Keeps.upd

theorem keeps_strandOwnerLost {W : List Fld} {s0 : State} (w_pwr : .pwr ∈ W) (w_host : .host ∈ W) (w_led : .led ∈ W) (w_st : .st ∈ W)
    (w_mate : .mate ∈ W) (w_flt : .flt ∈ W) (w_regs : .regs ∈ W) (w_sram : .sram ∈ W) (n : Nat) (s : State) (k_s : Keeps W s0 s) : Keeps W
    s0 (strandOwnerLost n s) := by
  unfold strandOwnerLost
  with_reducible repeat' first | assumption | exact Or.inl (by assumption) | exact Or.inr rfl | exact Or.inr ⟨rfl, rfl⟩
                               | exact Or.inr (NotBefore.same rfl rfl) | intro _ | apply keeps_modStrand | apply keeps_strandCleared
                               | apply Keeps.ite | dsimp only | split | apply Keeps.upd

theorem keeps_ownerChanges {W : List Fld} {s0 : State} (w_pwr : .pwr ∈ W) (w_host : .host ∈ W) (w_led : .led ∈ W) (w_st : .st ∈ W) (w_dma
    : .dma ∈ W) (w_mate : .mate ∈ W) (w_flt : .flt ∈ W) (w_book : .book ∈ W) (w_regs : .regs ∈ W) (w_sram : .sram ∈ W) (old s : State)
    (k_old : Keeps W s0 old) (k_s : Keeps W s0 s) : Keeps W s0 (ownerChanges old s) := by
  unfold ownerChanges
  with_reducible repeat' first | assumption | exact Or.inl (by assumption) | exact Or.inr rfl | exact Or.inr ⟨rfl, rfl⟩
                               | exact Or.inr (NotBefore.same rfl rfl) | intro _ | apply keeps_strandOwnerLost | apply keeps_chanOwnerLost
                               | apply Keeps.foldUpto | apply Keeps.ite

end Sys2Proof.Machine
end

