-- ==== Sys2Proof/Laws/Keeps/Camera.lean ====
section
/-!
SUPPORT. The functions of Machine/Camera.lean keep what every command keeps (`Keeps`).
-/
namespace Sys2Proof.Machine

open Sys2Proof

theorem keeps_modRx {W : List Fld} {s0 : State} (w_cam : .cam ∈ W) (r : Nat) (f : CamRx → CamRx) (s : State) (k_s : Keeps W s0 s) : Keeps
    W s0 (modRx r f s) := by
  unfold modRx
  with_reducible repeat' first | assumption | exact Or.inl (by assumption) | exact Or.inr rfl | exact Or.inr ⟨rfl, rfl⟩
                               | exact Or.inr (NotBefore.same rfl rfl) | intro _ | apply Keeps.ite | dsimp only | split | apply Keeps.upd

theorem keeps_modCam {W : List Fld} {s0 : State} (w_cam : .cam ∈ W) (c : Nat) (f : Camera → Camera) (s : State) (k_s : Keeps W s0 s) :
    Keeps W s0 (modCam c f s) := by
  unfold modCam
  with_reducible repeat' first | assumption | exact Or.inl (by assumption) | exact Or.inr rfl | exact Or.inr ⟨rfl, rfl⟩
                               | exact Or.inr (NotBefore.same rfl rfl) | intro _ | apply Keeps.ite | dsimp only | split | apply Keeps.upd

theorem keeps_modTap {W : List Fld} {s0 : State} (w_cam : .cam ∈ W) (t : Nat) (f : CamTap → CamTap) (s : State) (k_s : Keeps W s0 s) :
    Keeps W s0 (modTap t f s) := by
  unfold modTap
  with_reducible repeat' first | assumption | exact Or.inl (by assumption) | exact Or.inr rfl | exact Or.inr ⟨rfl, rfl⟩
                               | exact Or.inr (NotBefore.same rfl rfl) | intro _ | apply Keeps.ite | dsimp only | split | apply Keeps.upd

theorem keeps_modI2c {W : List Fld} {s0 : State} (w_cam : .cam ∈ W) (i : Nat) (f : CamI2c → CamI2c) (s : State) (k_s : Keeps W s0 s) :
    Keeps W s0 (modI2c i f s) := by
  unfold modI2c
  with_reducible repeat' first | assumption | exact Or.inl (by assumption) | exact Or.inr rfl | exact Or.inr ⟨rfl, rfl⟩
                               | exact Or.inr (NotBefore.same rfl rfl) | intro _ | apply Keeps.ite | dsimp only | split | apply Keeps.upd

theorem keeps_modTrig {W : List Fld} {s0 : State} (w_cam : .cam ∈ W) (t : Nat) (f : CamTrig → CamTrig) (s : State) (k_s : Keeps W s0 s) :
    Keeps W s0 (modTrig t f s) := by
  unfold modTrig
  with_reducible repeat' first | assumption | exact Or.inl (by assumption) | exact Or.inr rfl | exact Or.inr ⟨rfl, rfl⟩
                               | exact Or.inr (NotBefore.same rfl rfl) | intro _ | apply Keeps.ite | dsimp only | split | apply Keeps.upd

theorem keeps_camCause {W : List Fld} {s0 : State} (w_host : .host ∈ W) (w_regs : .regs ∈ W) (cls p base step : Nat) (s : State) (k_s :
    Keeps W s0 s) : Keeps W s0 (camCause cls p base step s) := by
  unfold camCause
  with_reducible repeat' first | assumption | exact Or.inl (by assumption) | exact Or.inr rfl | exact Or.inr ⟨rfl, rfl⟩
                               | exact Or.inr (NotBefore.same rfl rfl) | intro _ | apply keeps_setCause | apply Keeps.foldl
                               | apply Keeps.foldl_snd | apply Keeps.ite | dsimp only | split

theorem keeps_rxCount {W : List Fld} {s0 : State} (w_host : .host ∈ W) (w_cam : .cam ∈ W) (w_regs : .regs ∈ W) (r k : Nat) (s : State)
    (k_s : Keeps W s0 s) : Keeps W s0 (rxCount r k s) := by
  unfold rxCount
  with_reducible repeat' first | assumption | exact Or.inl (by assumption) | exact Or.inr rfl | exact Or.inr ⟨rfl, rfl⟩
                               | exact Or.inr (NotBefore.same rfl rfl) | intro _ | apply keeps_modRx | apply keeps_setCause
                               | apply Keeps.foldl | apply Keeps.foldl_snd | apply Keeps.ite

theorem keeps_tapWrite {W : List Fld} {s0 : State} (w_host : .host ∈ W) (w_cam : .cam ∈ W) (w_regs : .regs ∈ W) (f : CamFrame) (c fr :
    Nat) (ez : Nat × Nat × Nat × Nat) (s : State) (k_s : Keeps W s0 s) : Keeps W s0 (tapWrite f c fr ez s) := by
  unfold tapWrite
  with_reducible repeat' first | assumption | exact Or.inl (by assumption) | exact Or.inr rfl | exact Or.inr ⟨rfl, rfl⟩
                               | exact Or.inr (NotBefore.same rfl rfl) | intro _ | apply keeps_modTap | apply keeps_camCause
                               | apply Keeps.ite

theorem keeps_scanClosed {W : List Fld} {s0 : State} (w_scan : .scan ∈ W) (seq : Nat) (flagged : Bool) (c : Nat) (s : State) (k_s : Keeps
    W s0 s) : Keeps W s0 (scanClosed seq flagged c s) := by
  unfold scanClosed
  with_reducible repeat' first | assumption | exact Or.inl (by assumption) | exact Or.inr rfl | exact Or.inr ⟨rfl, rfl⟩
                               | exact Or.inr (NotBefore.same rfl rfl) | intro _ | apply Keeps.ite | dsimp only | split | apply Keeps.upd

theorem keeps_scanTakes {W : List Fld} {s0 : State} (w_scan : .scan ∈ W) (seq c : Nat) (s : State) (k_s : Keeps W s0 s) : Keeps W s0
    (scanTakes seq c s) := by
  unfold scanTakes
  with_reducible repeat' first | assumption | exact Or.inl (by assumption) | exact Or.inr rfl | exact Or.inr ⟨rfl, rfl⟩
                               | exact Or.inr (NotBefore.same rfl rfl) | intro _ | apply Keeps.ite | dsimp only | split | apply Keeps.upd

theorem keeps_camClose {W : List Fld} {s0 : State} (w_host : .host ∈ W) (w_st : .st ∈ W) (w_cam : .cam ∈ W) (w_scan : .scan ∈ W) (w_regs :
    .regs ∈ W) (c extra : Nat) (s : State) (k_s : Keeps W s0 s) : Keeps W s0 (camClose c extra s) := by
  unfold camClose
  with_reducible repeat' first | assumption | exact Or.inl (by assumption) | exact Or.inr rfl | exact Or.inr ⟨rfl, rfl⟩
                               | exact Or.inr (NotBefore.same rfl rfl) | intro _ | apply keeps_modCam | apply keeps_tapWrite
                               | apply keeps_scanClosed | apply keeps_camCause | apply keeps_setEvent | apply Keeps.foldl
                               | apply Keeps.foldl_snd | apply Keeps.ite | dsimp only | split

theorem keeps_tapsFor {W : List Fld} {s0 : State} (w_cam : .cam ∈ W) (c : Nat) (s : State) (k_s : Keeps W s0 s) : Keeps W s0 (tapsFor c
    s).2 := by
  unfold tapsFor
  with_reducible repeat' first | assumption | exact Or.inl (by assumption) | exact Or.inr rfl | exact Or.inr ⟨rfl, rfl⟩
                               | exact Or.inr (NotBefore.same rfl rfl) | intro _ | apply keeps_modTap | apply Keeps.foldl
                               | apply Keeps.foldl_snd | apply Keeps.ite | refine Keeps.snd_of (by assumption) ?_ | dsimp only | split

theorem keeps_markAmbig {W : List Fld} {s0 : State} (w_cam : .cam ∈ W) (w : AmbigWait) (s : State) (k_s : Keeps W s0 s) : Keeps W s0
    (markAmbig w s) := by
  unfold markAmbig
  with_reducible repeat' first | assumption | exact Or.inl (by assumption) | exact Or.inr rfl | exact Or.inr ⟨rfl, rfl⟩
                               | exact Or.inr (NotBefore.same rfl rfl) | intro _ | apply keeps_modI2c

theorem keeps_camFs {W : List Fld} {s0 : State} (w_host : .host ∈ W) (w_st : .st ∈ W) (w_cam : .cam ∈ W) (w_scan : .scan ∈ W) (w_regs :
    .regs ∈ W) (c num : Nat) (s : State) (k_s : Keeps W s0 s) : Keeps W s0 (camFs c num s) := by
  unfold camFs
  with_reducible repeat' first | assumption | exact Or.inl (by assumption) | exact Or.inr rfl | exact Or.inr ⟨rfl, rfl⟩
                               | exact Or.inr (NotBefore.same rfl rfl) | intro _ | apply keeps_camClose | apply keeps_markAmbig
                               | apply keeps_tapsFor | apply keeps_scanTakes | apply keeps_modCam | apply Keeps.foldl

theorem keeps_camFe {W : List Fld} {s0 : State} (w_host : .host ∈ W) (w_st : .st ∈ W) (w_cam : .cam ∈ W) (w_scan : .scan ∈ W) (w_regs :
    .regs ∈ W) (r c num : Nat) (s : State) (k_s : Keeps W s0 s) : Keeps W s0 (camFe r c num s) := by
  unfold camFe
  with_reducible repeat' first | assumption | exact Or.inl (by assumption) | exact Or.inr rfl | exact Or.inr ⟨rfl, rfl⟩
                               | exact Or.inr (NotBefore.same rfl rfl) | intro _ | apply keeps_rxCount | apply keeps_camClose
                               | apply Keeps.ite | dsimp only | split

theorem keeps_camFlag {W : List Fld} {s0 : State} (w_cam : .cam ∈ W) (c flags : Nat) (s : State) (k_s : Keeps W s0 s) : Keeps W s0
    (camFlag c flags s) := by
  unfold camFlag
  with_reducible repeat' first | assumption | exact Or.inl (by assumption) | exact Or.inr rfl | exact Or.inr ⟨rfl, rfl⟩
                               | exact Or.inr (NotBefore.same rfl rfl) | intro _ | apply keeps_modCam

theorem keeps_camOrphan {W : List Fld} {s0 : State} (w_host : .host ∈ W) (w_cam : .cam ∈ W) (w_regs : .regs ∈ W) (r c : Nat) (s : State)
    (k_s : Keeps W s0 s) : Keeps W s0 (camOrphan r c s) := by
  unfold camOrphan
  with_reducible repeat' first | assumption | exact Or.inl (by assumption) | exact Or.inr rfl | exact Or.inr ⟨rfl, rfl⟩
                               | exact Or.inr (NotBefore.same rfl rfl) | intro _ | apply keeps_rxCount | apply keeps_modCam

theorem keeps_crcCheck {W : List Fld} {s0 : State} (w_host : .host ∈ W) (w_cam : .cam ∈ W) (w_regs : .regs ∈ W) (r c : Nat) (payload :
    List Byte) (crc : Nat) (s : State) (k_s : Keeps W s0 s) : Keeps W s0 (crcCheck r c payload crc s) := by
  unfold crcCheck
  with_reducible repeat' first | assumption | exact Or.inl (by assumption) | exact Or.inr rfl | exact Or.inr ⟨rfl, rfl⟩
                               | exact Or.inr (NotBefore.same rfl rfl) | intro _ | apply keeps_camFlag | apply keeps_rxCount
                               | apply Keeps.ite

theorem keeps_camLine {W : List Fld} {s0 : State} (w_cam : .cam ∈ W) (c packing : Nat) (payload : List Byte) (s : State) (k_s : Keeps W s0
    s) : Keeps W s0 (camLine c packing payload s) := by
  unfold camLine
  with_reducible repeat' first | assumption | exact Or.inl (by assumption) | exact Or.inr rfl | exact Or.inr ⟨rfl, rfl⟩
                               | exact Or.inr (NotBefore.same rfl rfl) | intro _ | apply keeps_modCam

theorem keeps_rxBurst {W : List Fld} {s0 : State} (w_host : .host ∈ W) (w_cam : .cam ∈ W) (w_regs : .regs ∈ W) (r : Nat) (sot : SotRx) (s
    : State) (k_s : Keeps W s0 s) : Keeps W s0 (rxBurst r sot s).2 := by
  unfold rxBurst
  with_reducible repeat' first | assumption | exact Or.inl (by assumption) | exact Or.inr rfl | exact Or.inr ⟨rfl, rfl⟩
                               | exact Or.inr (NotBefore.same rfl rfl) | intro _ | apply keeps_modRx | apply keeps_rxCount
                               | apply Keeps.ite | refine Keeps.snd_of (by assumption) ?_ | dsimp only | split

theorem keeps_rxPacket {W : List Fld} {s0 : State} (w_host : .host ∈ W) (w_st : .st ∈ W) (w_cam : .cam ∈ W) (w_scan : .scan ∈ W) (w_regs :
    .regs ∈ W) (r vc dt data : Nat) (payload : List Byte) (crc : Nat) (fix : Bool) (s : State) (k_s : Keeps W s0 s) : Keeps W s0 (rxPacket
    r vc dt data payload crc fix s) := by
  unfold rxPacket
  with_reducible repeat' first | assumption | exact Or.inl (by assumption) | exact Or.inr rfl | exact Or.inr ⟨rfl, rfl⟩
                               | exact Or.inr (NotBefore.same rfl rfl) | intro _ | apply keeps_rxCount | apply keeps_camFlag
                               | apply keeps_camFs | apply keeps_camFe | apply keeps_camOrphan | apply keeps_crcCheck | apply keeps_modCam
                               | apply keeps_camLine | apply Keeps.ite | dsimp only | split

theorem keeps_crCfgHook {W : List Fld} {s0 : State} (w_cam : .cam ∈ W) (r old new : Nat) (s : State) (k_s : Keeps W s0 s) : Keeps W s0
    (crCfgHook r old new s) := by
  unfold crCfgHook
  with_reducible repeat' first | assumption | exact Or.inl (by assumption) | exact Or.inr rfl | exact Or.inr ⟨rfl, rfl⟩
                               | exact Or.inr (NotBefore.same rfl rfl) | intro _ | apply keeps_modRx | apply Keeps.ite

theorem keeps_camCfgHook {W : List Fld} {s0 : State} (w_host : .host ∈ W) (w_st : .st ∈ W) (w_cam : .cam ∈ W) (w_scan : .scan ∈ W) (w_regs
    : .regs ∈ W) (c old new : Nat) (s : State) (k_s : Keeps W s0 s) : Keeps W s0 (camCfgHook c old new s) := by
  unfold camCfgHook
  with_reducible repeat' first | assumption | exact Or.inl (by assumption) | exact Or.inr rfl | exact Or.inr ⟨rfl, rfl⟩
                               | exact Or.inr (NotBefore.same rfl rfl) | intro _ | apply keeps_camClose | apply Keeps.ite

theorem keeps_camCtlHook {W : List Fld} {s0 : State} (w_cam : .cam ∈ W) (c : Nat) (s : State) (k_s : Keeps W s0 s) : Keeps W s0
    (camCtlHook c s) := by
  unfold camCtlHook
  with_reducible repeat' first | assumption | exact Or.inl (by assumption) | exact Or.inr rfl | exact Or.inr ⟨rfl, rfl⟩
                               | exact Or.inr (NotBefore.same rfl rfl) | intro _ | apply keeps_modCam

theorem keeps_ciSubmit {W : List Fld} {s0 : State} (w_cam : .cam ∈ W) (w_book : .book ∈ W) (a : Agent) (i job : Nat) (s : State) (k_s :
    Keeps W s0 s) : Keeps W s0 (ciSubmit a i job s) := by
  unfold ciSubmit
  with_reducible repeat' first | assumption | exact Or.inl (by assumption) | exact Or.inr rfl | exact Or.inr ⟨rfl, rfl⟩
                               | exact Or.inr (NotBefore.same rfl rfl) | intro _ | apply keeps_countOutcome | apply keeps_modI2c
                               | apply Keeps.ite

theorem keeps_ciCommand {W : List Fld} {s0 : State} (w_cam : .cam ∈ W) (w_book : .book ∈ W) (a : Agent) (i job v : Nat) (s : State) (k_s :
    Keeps W s0 s) : Keeps W s0 (ciCommand a i job v s) := by
  unfold ciCommand
  with_reducible repeat' first | assumption | exact Or.inl (by assumption) | exact Or.inr rfl | exact Or.inr ⟨rfl, rfl⟩
                               | exact Or.inr (NotBefore.same rfl rfl) | intro _ | apply keeps_modI2c | apply keeps_ciSubmit
                               | apply Keeps.ite

theorem keeps_i2cEnd {W : List Fld} {s0 : State} (w_pwr : .pwr ∈ W) (w_host : .host ∈ W) (w_led : .led ∈ W) (w_mate : .mate ∈ W) (w_cam :
    .cam ∈ W) (w_flt : .flt ∈ W) (w_book : .book ∈ W) (w_regs : .regs ∈ W) (i detail : Nat) (data : List Byte) (s : State) (k_s : Keeps W
    s0 s) : Keeps W s0 (i2cEnd i detail data s) := by
  unfold i2cEnd
  with_reducible repeat' first | assumption | exact Or.inl (by assumption) | exact Or.inr rfl | exact Or.inr ⟨rfl, rfl⟩
                               | exact Or.inr (NotBefore.same rfl rfl) | intro _ | apply keeps_modI2c | apply keeps_modCam
                               | apply keeps_camCause | apply keeps_countOutcome | apply keeps_faultRaise | apply Keeps.ite | dsimp only
                               | split

theorem keeps_advanceTo {W : List Fld} {s0 : State} (w_lt : .lt ∈ W) (w_clock : .clock ∈ W) (pos : Nat) (s : State) (k_s : Keeps W s0 s) : Keeps W s0 (advanceTo pos s) := by
  unfold advanceTo
  split
  · apply Keeps.upd k_s (fun h => phase_clip h) <;>
      first | exact Or.inr rfl | exact Or.inr (NotBefore.of rfl (Nat.le_max_left _ _)) | exact Or.inl (by assumption)
  · exact k_s

theorem keeps_trigRequest {W : List Fld} {s0 : State} (w_cam : .cam ∈ W) (t p w : Nat) (s : State) (k_s : Keeps W s0 s) : Keeps W s0
    (trigRequest t p w s) := by
  unfold trigRequest
  with_reducible repeat' first | assumption | exact Or.inl (by assumption) | exact Or.inr rfl | exact Or.inr ⟨rfl, rfl⟩
                               | exact Or.inr (NotBefore.same rfl rfl) | intro _ | apply keeps_modTrig

theorem keeps_statsFlip {W : List Fld} {s0 : State} (w_host : .host ∈ W) (w_cam : .cam ∈ W) (w_regs : .regs ∈ W) (c : Nat) (s : State)
    (k_s : Keeps W s0 s) : Keeps W s0 (statsFlip c s) := by
  unfold statsFlip
  with_reducible repeat' first | assumption | exact Or.inl (by assumption) | exact Or.inr rfl | exact Or.inr ⟨rfl, rfl⟩
                               | exact Or.inr (NotBefore.same rfl rfl) | intro _ | apply keeps_modCam | apply keeps_camCause
                               | apply Keeps.ite | dsimp only | split

theorem keeps_camFlip {W : List Fld} {s0 : State} (w_host : .host ∈ W) (w_cam : .cam ∈ W) (w_regs : .regs ∈ W) (s : State) (k_s : Keeps W s0 s) : Keeps W s0 (camFlip s) := by
  unfold camFlip
  extract_lets s1 rxView s2 v1 v2 v3
  have k1 : Keeps W s0 s1 := Keeps.foldUpto k_s (fun k t h => keeps_statsFlip w_host w_cam w_regs k t h)
  clear_value s1
  have k2 : Keeps W s0 s2 := Keeps.foldUpto k1 (fun k t h => keeps_modRx w_cam k rxView t h)
  clear_value s2 v3
  apply Keeps.upd k2 id <;> first | exact Or.inr rfl | exact Or.inr ⟨rfl, rfl⟩ | exact Or.inr (NotBefore.same rfl rfl) | exact Or.inl (by assumption)

end Sys2Proof.Machine
end

