-- ==== Sys2Proof/Laws/Keeps/Scan.lean ====
section
/-!
SUPPORT. The functions of Machine/Scan.lean keep what every command keeps (`Keeps`).
-/
namespace Sys2Proof.Machine

open Sys2Proof

theorem keeps_modScan {W : List Fld} {s0 : State} (w_scan : .scan ∈ W) (f : ScanState → ScanState) (s : State) (k_s : Keeps W s0 s) :
    Keeps W s0 (modScan f s) := by
  unfold modScan
  with_reducible repeat' first | assumption | exact Or.inl (by assumption) | exact Or.inr rfl | exact Or.inr ⟨rfl, rfl⟩
                               | exact Or.inr (NotBefore.same rfl rfl) | intro _ | apply Keeps.ite | dsimp only | split | apply Keeps.upd

theorem keeps_modScanSeat {W : List Fld} {s0 : State} (w_scan : .scan ∈ W) (n : Nat) (f : ScanSeat → ScanSeat) (s : State) (k_s : Keeps W
    s0 s) : Keeps W s0 (modScanSeat n f s) := by
  unfold modScanSeat
  with_reducible repeat' first | assumption | exact Or.inl (by assumption) | exact Or.inr rfl | exact Or.inr ⟨rfl, rfl⟩
                               | exact Or.inr (NotBefore.same rfl rfl) | intro _ | apply keeps_modScan

theorem keeps_setUnit {W : List Fld} {s0 : State} (w_scan : .scan ∈ W) (u : Nat) (x : ScanUnit) (s : State) (k_s : Keeps W s0 s) : Keeps W
    s0 (setUnit u x s) := by
  unfold setUnit
  with_reducible repeat' first | assumption | exact Or.inl (by assumption) | exact Or.inr rfl | exact Or.inr ⟨rfl, rfl⟩
                               | exact Or.inr (NotBefore.same rfl rfl) | intro _ | apply keeps_modScan

theorem keeps_sendSetpoint {W : List Fld} {s0 : State} (w_scan : .scan ∈ W) (ch sp : Nat) (en : Bool) (s : State) (k_s : Keeps W s0 s) :
    Keeps W s0 (sendSetpoint ch sp en s) := by
  unfold sendSetpoint
  with_reducible repeat' first | assumption | exact Or.inl (by assumption) | exact Or.inr rfl | exact Or.inr ⟨rfl, rfl⟩
                               | exact Or.inr (NotBefore.same rfl rfl) | intro _ | apply keeps_modScan | apply Keeps.ite | dsimp only
                               | split | apply Keeps.upd

theorem keeps_setpointsOff {W : List Fld} {s0 : State} (w_scan : .scan ∈ W) (s : State) (k_s : Keeps W s0 s) : Keeps W s0 (setpointsOff s) := by
  unfold setpointsOff
  with_reducible repeat' first | assumption | exact Or.inl (by assumption) | exact Or.inr rfl | exact Or.inr ⟨rfl, rfl⟩
                               | exact Or.inr (NotBefore.same rfl rfl) | intro _ | apply keeps_sendSetpoint | apply Keeps.foldUpto

theorem keeps_calStrobe {W : List Fld} {s0 : State} (w_scan : .scan ∈ W) (w_book : .book ∈ W) (seat l p w : Nat) (s : State) (k_s : Keeps
    W s0 s) : Keeps W s0 (calStrobe seat l p w s).2 := by
  unfold calStrobe
  with_reducible repeat' first | assumption | exact Or.inl (by assumption) | exact Or.inr rfl | exact Or.inr ⟨rfl, rfl⟩
                               | exact Or.inr (NotBefore.same rfl rfl) | intro _ | apply keeps_sendSetpoint | apply keeps_holdTokens
                               | apply keeps_modScan | apply Keeps.ite | refine Keeps.snd_of (by assumption) ?_ | dsimp only | split

theorem keeps_lantHook {W : List Fld} {s0 : State} (w_scan : .scan ∈ W) (l v : Nat) (s : State) (k_s : Keeps W s0 s) : Keeps W s0
    (lantHook l v s) := by
  unfold lantHook
  with_reducible repeat' first | assumption | exact Or.inl (by assumption) | exact Or.inr rfl | exact Or.inr ⟨rfl, rfl⟩
                               | exact Or.inr (NotBefore.same rfl rfl) | intro _ | apply keeps_modScan

theorem keeps_modJob {W : List Fld} {s0 : State} (w_scan : .scan ∈ W) (i : Nat) (f : ScanJob → ScanJob) (s : State) (k_s : Keeps W s0 s) :
    Keeps W s0 (modJob i f s) := by
  unfold modJob
  with_reducible repeat' first | assumption | exact Or.inl (by assumption) | exact Or.inr rfl | exact Or.inr ⟨rfl, rfl⟩
                               | exact Or.inr (NotBefore.same rfl rfl) | intro _ | apply keeps_modScan

theorem keeps_modAttempt {W : List Fld} {s0 : State} (w_scan : .scan ∈ W) (i : Nat) (f : ScanAttempt → ScanAttempt) (s : State) (k_s :
    Keeps W s0 s) : Keeps W s0 (modAttempt i f s) := by
  unfold modAttempt
  with_reducible repeat' first | assumption | exact Or.inl (by assumption) | exact Or.inr rfl | exact Or.inr ⟨rfl, rfl⟩
                               | exact Or.inr (NotBefore.same rfl rfl) | intro _ | apply keeps_modScan

theorem keeps_scanSubmit {W : List Fld} {s0 : State} (w_scan : .scan ∈ W) (w_book : .book ∈ W) (seat body : Nat) (s : State) (k_s : Keeps
    W s0 s) : Keeps W s0 (scanSubmit seat body s).2.2 := by
  unfold scanSubmit
  with_reducible repeat' first | assumption | exact Or.inl (by assumption) | exact Or.inr rfl | exact Or.inr ⟨rfl, rfl⟩
                               | exact Or.inr (NotBefore.same rfl rfl) | intro _ | apply keeps_countOutcome | apply keeps_modScan
                               | apply keeps_modScanSeat | apply Keeps.ite | dsimp only | split

theorem keeps_deliverRecord {W : List Fld} {s0 : State} (w_host : .host ∈ W) (w_scan : .scan ∈ W) (w_regs : .regs ∈ W) (seat : Nat) (hdr :
    List Byte) (syms : List (List Byte)) (final : Bool) (s : State) (k_s : Keeps W s0 s) : Keeps W s0 (deliverRecord seat hdr syms final
    s) := by
  unfold deliverRecord
  with_reducible repeat' first | assumption | exact Or.inl (by assumption) | exact Or.inr rfl | exact Or.inr ⟨rfl, rfl⟩
                               | exact Or.inr (NotBefore.same rfl rfl) | intro _ | apply keeps_modScanSeat | apply keeps_setCause
                               | apply Keeps.ite

theorem keeps_jobEnd {W : List Fld} {s0 : State} (w_host : .host ∈ W) (w_st : .st ∈ W) (w_scan : .scan ∈ W) (w_book : .book ∈ W) (j :
    ScanJob) (outcome : Nat) (s : State) (k_s : Keeps W s0 s) : Keeps W s0 (jobEnd j outcome s) := by
  unfold jobEnd
  with_reducible repeat' first | assumption | exact Or.inl (by assumption) | exact Or.inr rfl | exact Or.inr ⟨rfl, rfl⟩
                               | exact Or.inr (NotBefore.same rfl rfl) | intro _ | apply keeps_countOutcome | apply keeps_modScan
                               | apply keeps_setEvent | apply Keeps.ite

theorem keeps_endUnexposed {W : List Fld} {s0 : State} (w_host : .host ∈ W) (w_st : .st ∈ W) (w_scan : .scan ∈ W) (w_book : .book ∈ W)
    (w_regs : .regs ∈ W) (j : ScanJob) (outcome detail : Nat) (cancelled : Bool) (s : State) (k_s : Keeps W s0 s) : Keeps W s0
    (endUnexposed j outcome detail cancelled s) := by
  unfold endUnexposed
  with_reducible repeat' first | assumption | exact Or.inl (by assumption) | exact Or.inr rfl | exact Or.inr ⟨rfl, rfl⟩
                               | exact Or.inr (NotBefore.same rfl rfl) | intro _ | apply keeps_jobEnd | apply keeps_deliverRecord

theorem keeps_cameraRead {W : List Fld} {s0 : State} (w_pwr : .pwr ∈ W) (w_host : .host ∈ W) (w_led : .led ∈ W) (w_st : .st ∈ W) (w_fab :
    .fab ∈ W) (w_prot : .prot ∈ W) (w_mate : .mate ∈ W) (w_flt : .flt ∈ W) (w_regs : .regs ∈ W) (port : Nat) (x : SymbolRx) (pos : Nat) (s
    : State) (k_s : Keeps W s0 s) : Keeps W s0 (cameraRead port x pos s).2 := by
  unfold cameraRead
  with_reducible repeat' first | assumption | exact Or.inl (by assumption) | exact Or.inr rfl | exact Or.inr ⟨rfl, rfl⟩
                               | exact Or.inr (NotBefore.same rfl rfl) | intro _ | apply keeps_proofRead | apply Keeps.ite
                               | refine Keeps.snd_of (by assumption) ?_ | dsimp only | split

theorem keeps_readSymbols {W : List Fld} {s0 : State} (w_pwr : .pwr ∈ W) (w_host : .host ∈ W) (w_led : .led ∈ W) (w_st : .st ∈ W) (w_fab :
    .fab ∈ W) (w_prot : .prot ∈ W) (w_mate : .mate ∈ W) (w_flt : .flt ∈ W) (w_regs : .regs ∈ W) (seat c pos : Nat) (compare : Bool) (all
    x5 : List SymbolRx) (x6 : List (Nat × List Byte × Nat)) (x7 : State) (k_x7 : Keeps W s0 x7) : Keeps W s0 (readSymbols seat c pos
    compare all x5 x6 x7).2 := by
  induction x5 generalizing seat c pos compare all x6 x7 k_x7 with
  | nil =>
    unfold readSymbols
    with_reducible repeat' first | assumption | exact Or.inl (by assumption) | exact Or.inr rfl | exact Or.inr ⟨rfl, rfl⟩
                                 | exact Or.inr (NotBefore.same rfl rfl) | intro _ | apply keeps_cameraRead | apply Keeps.ite
                                 | refine Keeps.snd_of (by assumption) ?_ | dsimp only | split | apply Keeps.upd
  | cons hd tl ih =>
    unfold readSymbols
    with_reducible repeat' first | assumption | apply ih | exact Or.inl (by assumption) | exact Or.inr rfl | exact Or.inr ⟨rfl, rfl⟩
                                 | exact Or.inr (NotBefore.same rfl rfl) | intro _ | apply keeps_cameraRead | apply Keeps.ite
                                 | refine Keeps.snd_of (by assumption) ?_ | dsimp only | split | apply Keeps.upd

theorem keeps_writeRecord {W : List Fld} {s0 : State} (w_pwr : .pwr ∈ W) (w_host : .host ∈ W) (w_led : .led ∈ W) (w_st : .st ∈ W) (w_fab :
    .fab ∈ W) (w_prot : .prot ∈ W) (w_mate : .mate ∈ W) (w_scan : .scan ∈ W) (w_flt : .flt ∈ W) (w_book : .book ∈ W) (w_regs : .regs ∈ W)
    (j : ScanJob) (a : ScanAttempt) (s : State) (k_s : Keeps W s0 s) : Keeps W s0 (writeRecord j a s) := by
  unfold writeRecord
  with_reducible repeat' first | assumption | exact Or.inl (by assumption) | exact Or.inr rfl | exact Or.inr ⟨rfl, rfl⟩
                               | exact Or.inr (NotBefore.same rfl rfl) | intro _ | apply keeps_readSymbols | apply keeps_modScanSeat
                               | apply keeps_deliverRecord | apply keeps_modScan | apply keeps_modJob | apply keeps_jobEnd
                               | apply Keeps.foldl | apply Keeps.foldl_snd | apply Keeps.ite

theorem keeps_assignUnits {W : List Fld} {s0 : State} (w_scan : .scan ∈ W) (s : State) (k_s : Keeps W s0 s) : Keeps W s0 (assignUnits s) := by
  unfold assignUnits
  with_reducible repeat' first | assumption | exact Or.inl (by assumption) | exact Or.inr rfl | exact Or.inr ⟨rfl, rfl⟩
                               | exact Or.inr (NotBefore.same rfl rfl) | intro _ | apply keeps_modAttempt | apply keeps_setUnit
                               | apply Keeps.foldUpto | apply Keeps.ite | dsimp only | split

theorem keeps_commitAttempt {W : List Fld} {s0 : State} (w_cam : .cam ∈ W) (w_scan : .scan ∈ W) (w_book : .book ∈ W) (j : ScanJob) (s :
    State) (k_s : Keeps W s0 s) : Keeps W s0 (commitAttempt j s) := by
  unfold commitAttempt
  with_reducible repeat' first | assumption | exact Or.inl (by assumption) | exact Or.inr rfl | exact Or.inr ⟨rfl, rfl⟩
                               | exact Or.inr (NotBefore.same rfl rfl) | intro _ | apply keeps_holdTokens | apply keeps_modScan
                               | apply keeps_sendSetpoint | apply keeps_setUnit | apply keeps_trigRequest | apply keeps_modJob
                               | apply Keeps.foldl | apply Keeps.foldl_snd | apply Keeps.foldUpto | apply Keeps.ite | dsimp only | split

theorem keeps_scanCancel {W : List Fld} {s0 : State} (w_host : .host ∈ W) (w_st : .st ∈ W) (w_scan : .scan ∈ W) (w_book : .book ∈ W)
    (w_regs : .regs ∈ W) (seat i : Nat) (s : State) (k_s : Keeps W s0 s) : Keeps W s0 (scanCancel seat i s).2 := by
  unfold scanCancel
  with_reducible repeat' first | assumption | exact Or.inl (by assumption) | exact Or.inr rfl | exact Or.inr ⟨rfl, rfl⟩
                               | exact Or.inr (NotBefore.same rfl rfl) | intro _ | apply keeps_countOutcome | apply keeps_endUnexposed
                               | apply Keeps.ite | refine Keeps.snd_of (by assumption) ?_ | dsimp only | split

theorem keeps_scanCommand {W : List Fld} {s0 : State} (w_host : .host ∈ W) (w_st : .st ∈ W) (w_scan : .scan ∈ W) (w_book : .book ∈ W)
    (w_regs : .regs ∈ W) (a : Agent) (v : Nat) (s : State) (k_s : Keeps W s0 s) : Keeps W s0 (scanCommand a v s) := by
  unfold scanCommand
  with_reducible repeat' first | assumption | exact Or.inl (by assumption) | exact Or.inr rfl | exact Or.inr ⟨rfl, rfl⟩
                               | exact Or.inr (NotBefore.same rfl rfl) | intro _ | apply keeps_scanSubmit | apply keeps_modPath
                               | apply keeps_scanCancel | apply Keeps.ite

theorem keeps_endWaiting {W : List Fld} {s0 : State} (w_host : .host ∈ W) (w_st : .st ∈ W) (w_scan : .scan ∈ W) (w_book : .book ∈ W)
    (w_regs : .regs ∈ W) (outcome detail : Nat) (s : State) (k_s : Keeps W s0 s) : Keeps W s0 (endWaiting outcome detail s) := by
  unfold endWaiting
  with_reducible repeat' first | assumption | exact Or.inl (by assumption) | exact Or.inr rfl | exact Or.inr ⟨rfl, rfl⟩
                               | exact Or.inr (NotBefore.same rfl rfl) | intro _ | apply keeps_modJob | apply keeps_endUnexposed
                               | apply Keeps.foldl | apply Keeps.foldl_snd | apply Keeps.ite

theorem keeps_scanCfgHook {W : List Fld} {s0 : State} (w_host : .host ∈ W) (w_st : .st ∈ W) (w_scan : .scan ∈ W) (w_book : .book ∈ W)
    (w_regs : .regs ∈ W) (old new : Nat) (s : State) (k_s : Keeps W s0 s) : Keeps W s0 (scanCfgHook old new s) := by
  unfold scanCfgHook
  with_reducible repeat' first | assumption | exact Or.inl (by assumption) | exact Or.inr rfl | exact Or.inr ⟨rfl, rfl⟩
                               | exact Or.inr (NotBefore.same rfl rfl) | intro _ | apply keeps_endWaiting | apply Keeps.ite

theorem keeps_scanBistOrder {W : List Fld} {s0 : State} (w_host : .host ∈ W) (w_st : .st ∈ W) (w_scan : .scan ∈ W) (w_book : .book ∈ W)
    (w_regs : .regs ∈ W) (s : State) (k_s : Keeps W s0 s) : Keeps W s0 (scanBistOrder s) := by
  unfold scanBistOrder
  with_reducible repeat' first | assumption | exact Or.inl (by assumption) | exact Or.inr rfl | exact Or.inr ⟨rfl, rfl⟩
                               | exact Or.inr (NotBefore.same rfl rfl) | intro _ | apply keeps_endWaiting | apply keeps_modScan
                               | apply Keeps.foldl | apply Keeps.foldl_snd | apply Keeps.ite

theorem keeps_unitFails {W : List Fld} {s0 : State} (w_pwr : .pwr ∈ W) (w_host : .host ∈ W) (w_led : .led ∈ W) (w_mate : .mate ∈ W)
    (w_scan : .scan ∈ W) (w_flt : .flt ∈ W) (w_regs : .regs ∈ W) (u : Nat) (s : State) (k_s : Keeps W s0 s) : Keeps W s0 (unitFails u s) := by
  unfold unitFails
  with_reducible repeat' first | assumption | exact Or.inl (by assumption) | exact Or.inr rfl | exact Or.inr ⟨rfl, rfl⟩
                               | exact Or.inr (NotBefore.same rfl rfl) | intro _ | apply keeps_setCause | apply keeps_faultRaise
                               | apply keeps_setUnit

end Sys2Proof.Machine
end

