-- ==== Sys2Proof/Laws/Keeps/Radio.lean ====
section
/-!
SUPPORT. The functions of Machine/Radio.lean keep what every command keeps (`Keeps`).
-/
namespace Sys2Proof.Machine

open Sys2Proof

theorem keeps_modRadio {W : List Fld} {s0 : State} (w_radio : .radio ∈ W) (f : RadioState → RadioState) (s : State) (k_s : Keeps W s0 s) :
    Keeps W s0 (modRadio f s) := by
  unfold modRadio
  with_reducible repeat' first | assumption | exact Or.inl (by assumption) | exact Or.inr rfl | exact Or.inr ⟨rfl, rfl⟩
                               | exact Or.inr (NotBefore.same rfl rfl) | intro _ | apply Keeps.ite | dsimp only | split | apply Keeps.upd

theorem keeps_modNbr {W : List Fld} {s0 : State} (w_radio : .radio ∈ W) (i : Nat) (f : Neighbour → Neighbour) (s : State) (k_s : Keeps W
    s0 s) : Keeps W s0 (modNbr i f s) := by
  unfold modNbr
  with_reducible repeat' first | assumption | exact Or.inl (by assumption) | exact Or.inr rfl | exact Or.inr ⟨rfl, rfl⟩
                               | exact Or.inr (NotBefore.same rfl rfl) | intro _ | apply keeps_modRadio

theorem keeps_radioCount {W : List Fld} {s0 : State} (w_radio : .radio ∈ W) (k n : Nat) (s : State) (k_s : Keeps W s0 s) : Keeps W s0
    (radioCount k n s) := by
  unfold radioCount
  with_reducible repeat' first | assumption | exact Or.inl (by assumption) | exact Or.inr rfl | exact Or.inr ⟨rfl, rfl⟩
                               | exact Or.inr (NotBefore.same rfl rfl) | intro _ | apply keeps_modRadio

theorem keeps_modFrame {W : List Fld} {s0 : State} (w_radio : .radio ∈ W) (i : Nat) (f : RadioFrame → RadioFrame) (s : State) (k_s : Keeps
    W s0 s) : Keeps W s0 (modFrame i f s) := by
  unfold modFrame
  with_reducible repeat' first | assumption | exact Or.inl (by assumption) | exact Or.inr rfl | exact Or.inr ⟨rfl, rfl⟩
                               | exact Or.inr (NotBefore.same rfl rfl) | intro _ | apply keeps_modRadio

theorem keeps_radioCause {W : List Fld} {s0 : State} (w_host : .host ∈ W) (w_regs : .regs ∈ W) (k : Nat) (s : State) (k_s : Keeps W s0 s)
    : Keeps W s0 (radioCause k s) := by
  unfold radioCause
  with_reducible repeat' first | assumption | exact Or.inl (by assumption) | exact Or.inr rfl | exact Or.inr ⟨rfl, rfl⟩
                               | exact Or.inr (NotBefore.same rfl rfl) | intro _ | apply keeps_setCauses

theorem keeps_rpSend {W : List Fld} {s0 : State} (w_radio : .radio ∈ W) (bs : List Nat) (s : State) (k_s : Keeps W s0 s) : Keeps W s0
    (rpSend bs s) := by
  unfold rpSend
  with_reducible repeat' first | assumption | exact Or.inl (by assumption) | exact Or.inr rfl | exact Or.inr ⟨rfl, rfl⟩
                               | exact Or.inr (NotBefore.same rfl rfl) | intro _ | apply keeps_modRadio | apply Keeps.ite | dsimp only
                               | split | apply Keeps.upd

theorem keeps_rpMode {W : List Fld} {s0 : State} (w_radio : .radio ∈ W) (m : Nat) (s : State) (k_s : Keeps W s0 s) : Keeps W s0 (rpMode m
    s) := by
  unfold rpMode
  with_reducible repeat' first | assumption | exact Or.inl (by assumption) | exact Or.inr rfl | exact Or.inr ⟨rfl, rfl⟩
                               | exact Or.inr (NotBefore.same rfl rfl) | intro _ | apply keeps_rpSend | apply keeps_modRadio
                               | apply Keeps.ite | dsimp only | split | apply Keeps.upd

theorem keeps_rpChan {W : List Fld} {s0 : State} (w_radio : .radio ∈ W) (s : State) (k_s : Keeps W s0 s) : Keeps W s0 (rpChan s) := by
  unfold rpChan
  with_reducible repeat' first | assumption | exact Or.inl (by assumption) | exact Or.inr rfl | exact Or.inr ⟨rfl, rfl⟩
                               | exact Or.inr (NotBefore.same rfl rfl) | intro _ | apply keeps_rpSend | apply keeps_modRadio
                               | apply Keeps.ite | dsimp only | split | apply Keeps.upd

theorem keeps_airAdd {W : List Fld} {s0 : State} (w_radio : .radio ∈ W) (a m n : Nat) (s : State) (k_s : Keeps W s0 s) : Keeps W s0
    (airAdd a m n s) := by
  unfold airAdd
  with_reducible repeat' first | assumption | exact Or.inl (by assumption) | exact Or.inr rfl | exact Or.inr ⟨rfl, rfl⟩
                               | exact Or.inr (NotBefore.same rfl rfl) | intro _ | apply keeps_modRadio

theorem keeps_airSub {W : List Fld} {s0 : State} (w_radio : .radio ∈ W) (a m n : Nat) (s : State) (k_s : Keeps W s0 s) : Keeps W s0
    (airSub a m n s) := by
  unfold airSub
  with_reducible repeat' first | assumption | exact Or.inl (by assumption) | exact Or.inr rfl | exact Or.inr ⟨rfl, rfl⟩
                               | exact Or.inr (NotBefore.same rfl rfl) | intro _ | apply keeps_modRadio

theorem keeps_takeFc {W : List Fld} {s0 : State} (w_host : .host ∈ W) (w_radio : .radio ∈ W) (w_regs : .regs ∈ W) (s : State) (k_s : Keeps
    W s0 s) : KeepsOP W s0 (takeFc s) := by
  unfold takeFc
  with_reducible repeat' first | assumption | exact Or.inl (by assumption) | exact Or.inr rfl | exact Or.inr ⟨rfl, rfl⟩
                               | exact Or.inr (NotBefore.same rfl rfl) | intro _ | apply keeps_rset | apply keeps_radioCause
                               | apply keeps_modRadio | exact KeepsOP.none | apply KeepsOP.some | apply KeepsOP.ite | apply Keeps.ite

theorem keeps_fcFor {W : List Fld} {s0 : State} (w_host : .host ∈ W) (w_radio : .radio ∈ W) (w_regs : .regs ∈ W) (level : Nat) (s : State)
    (k_s : Keeps W s0 s) : KeepsOP W s0 (fcFor level s) := by
  unfold fcFor
  with_reducible repeat' first | assumption | exact Or.inl (by assumption) | exact Or.inr rfl | exact Or.inr ⟨rfl, rfl⟩
                               | exact Or.inr (NotBefore.same rfl rfl) | intro _ | apply keeps_takeFc | exact KeepsOP.none
                               | apply KeepsOP.some | apply KeepsOP.ite

theorem keeps_takeSeq {W : List Fld} {s0 : State} (w_radio : .radio ∈ W) (s : State) (k_s : Keeps W s0 s) : Keeps W s0 (takeSeq s).2 := by
  unfold takeSeq
  with_reducible repeat' first | assumption | exact Or.inl (by assumption) | exact Or.inr rfl | exact Or.inr ⟨rfl, rfl⟩
                               | exact Or.inr (NotBefore.same rfl rfl) | intro _ | apply keeps_modRadio

theorem keeps_beginAir {W : List Fld} {s0 : State} (w_radio : .radio ∈ W) (w_book : .book ∈ W) (frame : Option Nat) (hw : Bool) (seat
    start : Nat) (psdu : List Byte) (s : State) (k_s : Keeps W s0 s) : Keeps W s0 (beginAir frame hw seat start psdu s) := by
  unfold beginAir
  with_reducible repeat' first | assumption | exact Or.inl (by assumption) | exact Or.inr rfl | exact Or.inr ⟨rfl, rfl⟩
                               | exact Or.inr (NotBefore.same rfl rfl) | intro _ | apply keeps_holdHw | apply keeps_holdTokens
                               | apply keeps_airAdd | apply keeps_rpSend | apply keeps_modRadio | apply Keeps.ite

theorem keeps_hwGate {W : List Fld} {s0 : State} (w_radio : .radio ∈ W) (len : Nat) (s : State) (k_s : Keeps W s0 s) : Keeps W s0 (hwGate
    len s).2 := by
  unfold hwGate
  with_reducible repeat' first | assumption | exact Or.inl (by assumption) | exact Or.inr rfl | exact Or.inr ⟨rfl, rfl⟩
                               | exact Or.inr (NotBefore.same rfl rfl) | intro _ | apply keeps_radioCount | apply Keeps.ite
                               | refine Keeps.snd_of (by assumption) ?_ | dsimp only | split

theorem keeps_numberFrame {W : List Fld} {s0 : State} (w_host : .host ∈ W) (w_radio : .radio ∈ W) (w_regs : .regs ∈ W) (f : RadioFrame) (s
    : State) (k_s : Keeps W s0 s) : KeepsOP W s0 (numberFrame f s) := by
  unfold numberFrame
  with_reducible repeat' first | assumption | exact Or.inl (by assumption) | exact Or.inr rfl | exact Or.inr ⟨rfl, rfl⟩
                               | exact Or.inr (NotBefore.same rfl rfl) | intro _ | apply keeps_fcFor | apply keeps_takeSeq
                               | exact KeepsOP.none | apply KeepsOP.some | apply KeepsOP.ite | apply Keeps.ite
                               | refine Keeps.snd_of (by assumption) ?_ | refine KeepsOP.of (by assumption) ?_
                               | refine KeepsOP.snd (by assumption) ?_ | dsimp only | split

theorem keeps_radioEnd {W : List Fld} {s0 : State} (w_host : .host ∈ W) (w_radio : .radio ∈ W) (w_book : .book ∈ W) (w_regs : .regs ∈ W)
    (f : RadioFrame) (outcome detail : Nat) (s : State) (k_s : Keeps W s0 s) : Keeps W s0 (radioEnd f outcome detail s) := by
  unfold radioEnd
  with_reducible repeat' first | assumption | exact Or.inl (by assumption) | exact Or.inr rfl | exact Or.inr ⟨rfl, rfl⟩
                               | exact Or.inr (NotBefore.same rfl rfl) | intro _ | apply keeps_airSub | apply keeps_radioCount
                               | apply keeps_modRadio | apply keeps_radioCause | apply keeps_countOutcome | apply Keeps.ite

theorem keeps_dropHwFrame {W : List Fld} {s0 : State} (w_radio : .radio ∈ W) (hz : HwFrame) (s : State) (k_s : Keeps W s0 s) : Keeps W s0
    (dropHwFrame hz s) := by
  unfold dropHwFrame
  with_reducible repeat' first | assumption | exact Or.inl (by assumption) | exact Or.inr rfl | exact Or.inr ⟨rfl, rfl⟩
                               | exact Or.inr (NotBefore.same rfl rfl) | intro _ | apply keeps_modRadio

theorem keeps_calBeaconEnd {W : List Fld} {s0 : State} (w_lt : .lt ∈ W) (w_host : .host ∈ W) (w_book : .book ∈ W) (w_regs : .regs ∈ W) (hz
    : HwFrame) (outcome : Nat) (s : State) (k_s : Keeps W s0 s) : Keeps W s0 (calBeaconEnd hz outcome s) := by
  unfold calBeaconEnd
  with_reducible repeat' first | assumption | exact Or.inl (by assumption) | exact Or.inr rfl | exact Or.inr ⟨rfl, rfl⟩
                               | exact Or.inr (NotBefore.same rfl rfl) | intro _ | apply keeps_calFailed | apply Keeps.ite | dsimp only
                               | split

theorem keeps_sendBeacon {W : List Fld} {s0 : State} (w_host : .host ∈ W) (w_radio : .radio ∈ W) (w_book : .book ∈ W) (w_regs : .regs ∈ W)
    (payload : List Byte) (start cnt : Nat) (s : State) (k_s : Keeps W s0 s) : Keeps W s0 (sendBeacon payload start cnt s).2 := by
  unfold sendBeacon
  with_reducible repeat' first | assumption | exact Or.inl (by assumption) | exact Or.inr rfl | exact Or.inr ⟨rfl, rfl⟩
                               | exact Or.inr (NotBefore.same rfl rfl) | intro _ | apply keeps_hwGate | apply keeps_fcFor
                               | apply keeps_radioCount | apply keeps_takeSeq | apply keeps_beginAir | apply Keeps.ite
                               | refine Keeps.snd_of (by assumption) ?_ | refine KeepsOP.of (by assumption) ?_
                               | refine KeepsOP.snd (by assumption) ?_ | dsimp only | split

theorem keeps_sendFlood {W : List Fld} {s0 : State} (w_host : .host ∈ W) (w_radio : .radio ∈ W) (w_book : .book ∈ W) (w_regs : .regs ∈ W)
    (payload : List Byte) (s : State) (k_s : Keeps W s0 s) : Keeps W s0 (sendFlood payload s) := by
  unfold sendFlood
  with_reducible repeat' first | assumption | exact Or.inl (by assumption) | exact Or.inr rfl | exact Or.inr ⟨rfl, rfl⟩
                               | exact Or.inr (NotBefore.same rfl rfl) | intro _ | apply keeps_hwGate | apply keeps_fcFor
                               | apply keeps_radioCount | apply keeps_takeSeq | apply keeps_beginAir | apply Keeps.ite
                               | refine Keeps.snd_of (by assumption) ?_ | refine KeepsOP.of (by assumption) ?_
                               | refine KeepsOP.snd (by assumption) ?_ | dsimp only | split

theorem keeps_sendFrame {W : List Fld} {s0 : State} (w_host : .host ∈ W) (w_radio : .radio ∈ W) (w_book : .book ∈ W) (w_regs : .regs ∈ W)
    (f : RadioFrame) (hw : Bool) (start : Nat) (s : State) (k_s : Keeps W s0 s) : Keeps W s0 (sendFrame f hw start s) := by
  unfold sendFrame
  with_reducible repeat' first | assumption | exact Or.inl (by assumption) | exact Or.inr rfl | exact Or.inr ⟨rfl, rfl⟩
                               | exact Or.inr (NotBefore.same rfl rfl) | intro _ | apply keeps_radioEnd | apply keeps_radioCount
                               | apply keeps_numberFrame | apply keeps_airSub | apply keeps_airAdd | apply keeps_beginAir
                               | apply keeps_modFrame | apply Keeps.ite | refine KeepsOP.of (by assumption) ?_
                               | refine KeepsOP.snd (by assumption) ?_ | dsimp only | split

theorem keeps_sendHw {W : List Fld} {s0 : State} (w_lt : .lt ∈ W) (w_host : .host ∈ W) (w_radio : .radio ∈ W) (w_book : .book ∈ W) (w_regs
    : .regs ∈ W) (w_clock : .clock ∈ W) (hz : HwFrame) (s : State) (k_s : Keeps W s0 s) : Keeps W s0 (sendHw hz s) := by
  unfold sendHw
  with_reducible repeat' first | assumption | exact Or.inl (by assumption) | exact Or.inr rfl | exact Or.inr ⟨rfl, rfl⟩
                               | exact Or.inr (NotBefore.same rfl rfl) | intro _ | apply keeps_advanceTo | apply keeps_dropHwFrame
                               | apply keeps_sendBeacon | apply keeps_sendFrame | apply keeps_radioCount | apply keeps_hwGate
                               | apply keeps_beginAir | apply Keeps.ite | refine Keeps.snd_of (by assumption) ?_ | dsimp only | split
                               | apply Keeps.upd

theorem keeps_hwAttempt {W : List Fld} {s0 : State} (w_lt : .lt ∈ W) (w_host : .host ∈ W) (w_radio : .radio ∈ W) (w_book : .book ∈ W)
    (w_regs : .regs ∈ W) (w_clock : .clock ∈ W) (s : State) (k_s : Keeps W s0 s) : Keeps W s0 (hwAttempt s) := by
  unfold hwAttempt
  with_reducible repeat' first | assumption | exact Or.inl (by assumption) | exact Or.inr rfl | exact Or.inr ⟨rfl, rfl⟩
                               | exact Or.inr (NotBefore.same rfl rfl) | intro _ | apply keeps_calBeaconEnd | apply keeps_dropHwFrame
                               | apply keeps_rpSend | apply keeps_modRadio | apply keeps_sendHw | apply Keeps.ite | dsimp only | split
                               | apply Keeps.upd

theorem keeps_accessFailed {W : List Fld} {s0 : State} (w_host : .host ∈ W) (w_radio : .radio ∈ W) (w_book : .book ∈ W) (w_regs : .regs ∈
    W) (f : RadioFrame) (s : State) (k_s : Keeps W s0 s) : Keeps W s0 (accessFailed f s) := by
  unfold accessFailed
  with_reducible repeat' first | assumption | exact Or.inl (by assumption) | exact Or.inr rfl | exact Or.inr ⟨rfl, rfl⟩
                               | exact Or.inr (NotBefore.same rfl rfl) | intro _ | apply keeps_modFrame | apply keeps_radioEnd
                               | apply Keeps.ite

theorem keeps_endAir {W : List Fld} {s0 : State} (w_radio : .radio ∈ W) (w_book : .book ∈ W) (s : State) (k_s : Keeps W s0 s) : Keeps W s0
    (endAir s) := by
  unfold endAir
  with_reducible repeat' first | assumption | exact Or.inl (by assumption) | exact Or.inr rfl | exact Or.inr ⟨rfl, rfl⟩
                               | exact Or.inr (NotBefore.same rfl rfl) | intro _ | apply keeps_modRadio | apply keeps_dropHw
                               | apply keeps_dropTokens | apply Keeps.ite | dsimp only | split

theorem keeps_radioRest {W : List Fld} {s0 : State} (w_pwr : .pwr ∈ W) (w_regs : .regs ∈ W) (s : State) (k_s : Keeps W s0 s) : Keeps W s0
    (radioRest s) := by
  unfold radioRest
  with_reducible repeat' first | assumption | exact Or.inl (by assumption) | exact Or.inr rfl | exact Or.inr ⟨rfl, rfl⟩
                               | exact Or.inr (NotBefore.same rfl rfl) | intro _ | apply keeps_domUpdate | apply Keeps.ite | dsimp only
                               | split | apply Keeps.upd

theorem keeps_seenAdd {W : List Fld} {s0 : State} (w_radio : .radio ∈ W) (origin fseq : Nat) (s : State) (k_s : Keeps W s0 s) : Keeps W s0
    (seenAdd origin fseq s) := by
  unfold seenAdd
  with_reducible repeat' first | assumption | exact Or.inl (by assumption) | exact Or.inr rfl | exact Or.inr ⟨rfl, rfl⟩
                               | exact Or.inr (NotBefore.same rfl rfl) | intro _ | apply keeps_modRadio

theorem keeps_radioQueue {W : List Fld} {s0 : State} (w_radio : .radio ∈ W) (seat d : Nat) (body : List Byte) (a p dl : Nat) (s : State)
    (k_s : Keeps W s0 s) : Keeps W s0 (radioQueue seat d body a p dl s) := by
  unfold radioQueue
  with_reducible repeat' first | assumption | exact Or.inl (by assumption) | exact Or.inr rfl | exact Or.inr ⟨rfl, rfl⟩
                               | exact Or.inr (NotBefore.same rfl rfl) | intro _ | apply keeps_airAdd | apply keeps_modRadio
                               | apply keeps_seenAdd | apply Keeps.ite | dsimp only | split | apply Keeps.upd

theorem keeps_radioSubmit {W : List Fld} {s0 : State} (w_radio : .radio ∈ W) (w_book : .book ∈ W) (w_freeCtr : .freeCtr ∈ W) (seat d :
    Nat) (s : State) (k_s : Keeps W s0 s) : Keeps W s0 (radioSubmit seat d s).2.2.2 := by
  unfold radioSubmit
  with_reducible repeat' first | assumption | exact Or.inl (by assumption) | exact Or.inr rfl | exact Or.inr ⟨rfl, rfl⟩
                               | exact Or.inr (NotBefore.same rfl rfl) | intro _ | apply keeps_countOutcome | apply keeps_takeFree
                               | apply keeps_radioQueue | apply Keeps.ite | refine Keeps.snd_of (by assumption) ?_ | dsimp only | split
                               | apply Keeps.upd

theorem keeps_radioCancel {W : List Fld} {s0 : State} (w_host : .host ∈ W) (w_radio : .radio ∈ W) (w_book : .book ∈ W) (w_regs : .regs ∈
    W) (seat i : Nat) (s : State) (k_s : Keeps W s0 s) : Keeps W s0 (radioCancel seat i s).2 := by
  unfold radioCancel
  with_reducible repeat' first | assumption | exact Or.inl (by assumption) | exact Or.inr rfl | exact Or.inr ⟨rfl, rfl⟩
                               | exact Or.inr (NotBefore.same rfl rfl) | intro _ | apply keeps_countOutcome | apply keeps_radioEnd
                               | apply Keeps.ite | refine Keeps.snd_of (by assumption) ?_ | dsimp only | split

theorem keeps_radioAdmit {W : List Fld} {s0 : State} (w_pwr : .pwr ∈ W) (w_host : .host ∈ W) (w_led : .led ∈ W) (w_mate : .mate ∈ W)
    (w_radio : .radio ∈ W) (w_flt : .flt ∈ W) (w_book : .book ∈ W) (w_regs : .regs ∈ W) (a : Agent) (i v : Nat) (s : State) (k_s : Keeps W
    s0 s) : Keeps W s0 (radioAdmit a i v s).2 := by
  unfold radioAdmit
  with_reducible repeat' first | assumption | exact Or.inl (by assumption) | exact Or.inr rfl | exact Or.inr ⟨rfl, rfl⟩
                               | exact Or.inr (NotBefore.same rfl rfl) | intro _ | apply keeps_countOutcome | apply keeps_ledgerMgmt
                               | apply keeps_modNbr | apply Keeps.ite | refine Keeps.snd_of (by assumption) ?_
                               | refine KeepsO.of (by assumption) ?_ | apply KeepsO.getD | dsimp only | split

theorem keeps_radioCommand {W : List Fld} {s0 : State} (w_pwr : .pwr ∈ W) (w_host : .host ∈ W) (w_led : .led ∈ W) (w_mate : .mate ∈ W)
    (w_radio : .radio ∈ W) (w_flt : .flt ∈ W) (w_book : .book ∈ W) (w_regs : .regs ∈ W) (w_freeCtr : .freeCtr ∈ W) (a : Agent) (v : Nat)
    (s : State) (k_s : Keeps W s0 s) : Keeps W s0 (radioCommand a v s).2 := by
  unfold radioCommand
  with_reducible repeat' first | assumption | exact Or.inl (by assumption) | exact Or.inr rfl | exact Or.inr ⟨rfl, rfl⟩
                               | exact Or.inr (NotBefore.same rfl rfl) | intro _ | apply keeps_modPath | apply keeps_radioSubmit
                               | apply keeps_modRadio | apply keeps_radioCancel | apply keeps_radioAdmit | apply Keeps.ite
                               | refine Keeps.snd_of (by assumption) ?_ | refine Keeps.snd3_of (by assumption) ?_ | dsimp only | split

theorem keeps_endNbrFrames {W : List Fld} {s0 : State} (w_host : .host ∈ W) (w_radio : .radio ∈ W) (w_book : .book ∈ W) (w_regs : .regs ∈
    W) (i detail : Nat) (s : State) (k_s : Keeps W s0 s) : Keeps W s0 (endNbrFrames i detail s) := by
  unfold endNbrFrames
  with_reducible repeat' first | assumption | exact Or.inl (by assumption) | exact Or.inr rfl | exact Or.inr ⟨rfl, rfl⟩
                               | exact Or.inr (NotBefore.same rfl rfl) | intro _ | apply keeps_radioEnd | apply Keeps.foldl

theorem keeps_nbrApply {W : List Fld} {s0 : State} (w_pwr : .pwr ∈ W) (w_host : .host ∈ W) (w_led : .led ∈ W) (w_mate : .mate ∈ W)
    (w_radio : .radio ∈ W) (w_flt : .flt ∈ W) (w_book : .book ∈ W) (w_regs : .regs ∈ W) (a : Agent) (i v : Nat) (s : State) (k_s : Keeps W
    s0 s) : Keeps W s0 (nbrApply a i v s).2 := by
  unfold nbrApply
  with_reducible repeat' first | assumption | exact Or.inl (by assumption) | exact Or.inr rfl | exact Or.inr ⟨rfl, rfl⟩
                               | exact Or.inr (NotBefore.same rfl rfl) | intro _ | apply keeps_ledgerMgmt | apply keeps_endNbrFrames
                               | apply keeps_modNbr | apply Keeps.ite | refine Keeps.snd_of (by assumption) ?_
                               | refine KeepsO.of (by assumption) ?_ | apply KeepsO.getD | dsimp only | split

theorem keeps_keyApply {W : List Fld} {s0 : State} (w_pwr : .pwr ∈ W) (w_host : .host ∈ W) (w_led : .led ∈ W) (w_mate : .mate ∈ W)
    (w_radio : .radio ∈ W) (w_flt : .flt ∈ W) (w_regs : .regs ∈ W) (a : Agent) (k v0 : Nat) (s : State) (k_s : Keeps W s0 s) : Keeps W s0
    (keyApply a k v0 s).2 := by
  unfold keyApply
  with_reducible repeat' first | assumption | exact Or.inl (by assumption) | exact Or.inr rfl | exact Or.inr ⟨rfl, rfl⟩
                               | exact Or.inr (NotBefore.same rfl rfl) | intro _ | apply keeps_ledgerMgmt | apply keeps_modRadio
                               | apply Keeps.ite | refine Keeps.snd_of (by assumption) ?_ | refine KeepsO.of (by assumption) ?_
                               | apply KeepsO.getD | dsimp only | split

theorem keeps_fcOutHook {W : List Fld} {s0 : State} (w_host : .host ∈ W) (w_radio : .radio ∈ W) (w_regs : .regs ∈ W) (v : Nat) (s : State)
    (k_s : Keeps W s0 s) : Keeps W s0 (fcOutHook v s) := by
  unfold fcOutHook
  with_reducible repeat' first | assumption | exact Or.inl (by assumption) | exact Or.inr rfl | exact Or.inr ⟨rfl, rfl⟩
                               | exact Or.inr (NotBefore.same rfl rfl) | intro _ | apply keeps_modRadio | apply keeps_radioCause
                               | apply Keeps.ite | dsimp only | split | apply Keeps.upd

theorem keeps_identReply {W : List Fld} {s0 : State} (w_pwr : .pwr ∈ W) (w_host : .host ∈ W) (w_led : .led ∈ W) (w_mate : .mate ∈ W)
    (w_radio : .radio ∈ W) (w_flt : .flt ∈ W) (w_regs : .regs ∈ W) (reply : Nat) (s : State) (k_s : Keeps W s0 s) : Keeps W s0 (identReply
    reply s) := by
  unfold identReply
  with_reducible repeat' first | assumption | exact Or.inl (by assumption) | exact Or.inr rfl | exact Or.inr ⟨rfl, rfl⟩
                               | exact Or.inr (NotBefore.same rfl rfl) | intro _ | apply keeps_rpMode | apply keeps_rpChan
                               | apply keeps_modRadio | apply keeps_setCause | apply keeps_faultRaise | apply Keeps.ite

theorem keeps_portFaultEnds {W : List Fld} {s0 : State} (w_lt : .lt ∈ W) (w_host : .host ∈ W) (w_radio : .radio ∈ W) (w_book : .book ∈ W)
    (w_regs : .regs ∈ W) (s : State) (k_s : Keeps W s0 s) : Keeps W s0 (portFaultEnds s) := by
  unfold portFaultEnds
  with_reducible repeat' first | assumption | exact Or.inl (by assumption) | exact Or.inr rfl | exact Or.inr ⟨rfl, rfl⟩
                               | exact Or.inr (NotBefore.same rfl rfl) | intro _ | apply keeps_radioEnd | apply keeps_endAir
                               | apply keeps_calBeaconEnd | apply keeps_dropHwFrame | apply keeps_radioCount | apply Keeps.foldl
                               | apply Keeps.foldl_snd | apply Keeps.ite | dsimp only | split

theorem keeps_radioDisable {W : List Fld} {s0 : State} (w_lt : .lt ∈ W) (w_host : .host ∈ W) (w_radio : .radio ∈ W) (w_book : .book ∈ W)
    (w_regs : .regs ∈ W) (s : State) (k_s : Keeps W s0 s) : Keeps W s0 (radioDisable s) := by
  unfold radioDisable
  with_reducible repeat' first | assumption | exact Or.inl (by assumption) | exact Or.inr rfl | exact Or.inr ⟨rfl, rfl⟩
                               | exact Or.inr (NotBefore.same rfl rfl) | intro _ | apply keeps_radioEnd | apply keeps_calBeaconEnd
                               | apply keeps_radioCount | apply keeps_rpMode | apply keeps_modRadio | apply Keeps.foldl

theorem keeps_radioCfgHook {W : List Fld} {s0 : State} (w_lt : .lt ∈ W) (w_host : .host ∈ W) (w_radio : .radio ∈ W) (w_book : .book ∈ W)
    (w_regs : .regs ∈ W) (old new : Nat) (s : State) (k_s : Keeps W s0 s) : Keeps W s0 (radioCfgHook old new s) := by
  unfold radioCfgHook
  with_reducible repeat' first | assumption | exact Or.inl (by assumption) | exact Or.inr rfl | exact Or.inr ⟨rfl, rfl⟩
                               | exact Or.inr (NotBefore.same rfl rfl) | intro _ | apply keeps_rpSend | apply keeps_modRadio
                               | apply keeps_radioDisable | apply Keeps.ite

theorem keeps_radioPhyHook {W : List Fld} {s0 : State} (w_radio : .radio ∈ W) (s : State) (k_s : Keeps W s0 s) : Keeps W s0 (radioPhyHook
    s) := by
  unfold radioPhyHook
  with_reducible repeat' first | assumption | exact Or.inl (by assumption) | exact Or.inr rfl | exact Or.inr ⟨rfl, rfl⟩
                               | exact Or.inr (NotBefore.same rfl rfl) | intro _ | apply keeps_modRadio

theorem keeps_queueBeacon {W : List Fld} {s0 : State} (w_radio : .radio ∈ W) (cal : Option (Nat × Nat)) (eligible : Nat) (payload : List
    Byte) (s : State) (k_s : Keeps W s0 s) : Keeps W s0 (queueBeacon cal eligible payload s) := by
  unfold queueBeacon
  with_reducible repeat' first | assumption | exact Or.inl (by assumption) | exact Or.inr rfl | exact Or.inr ⟨rfl, rfl⟩
                               | exact Or.inr (NotBefore.same rfl rfl) | intro _ | apply keeps_modRadio

theorem keeps_calBeacon {W : List Fld} {s0 : State} (w_radio : .radio ∈ W) (seat i p arg : Nat) (s : State) (k_s : Keeps W s0 s) : Keeps W
    s0 (calBeacon seat i p arg s).2 := by
  unfold calBeacon
  with_reducible repeat' first | assumption | exact Or.inl (by assumption) | exact Or.inr rfl | exact Or.inr ⟨rfl, rfl⟩
                               | exact Or.inr (NotBefore.same rfl rfl) | intro _ | apply keeps_radioCount | apply keeps_queueBeacon
                               | apply Keeps.ite | refine Keeps.snd_of (by assumption) ?_ | dsimp only | split

theorem keeps_radioCycle {W : List Fld} {s0 : State} (w_host : .host ∈ W) (w_radio : .radio ∈ W) (w_book : .book ∈ W) (w_regs : .regs ∈ W)
    (old : Nat) (s : State) (k_s : Keeps W s0 s) : Keeps W s0 (radioCycle old s) := by
  unfold radioCycle
  with_reducible repeat' first | assumption | exact Or.inl (by assumption) | exact Or.inr rfl | exact Or.inr ⟨rfl, rfl⟩
                               | exact Or.inr (NotBefore.same rfl rfl) | intro _ | apply keeps_modRadio | apply keeps_rpChan
                               | apply keeps_sendBeacon | apply keeps_queueBeacon | apply Keeps.ite

theorem keeps_radioBistOrder {W : List Fld} {s0 : State} (w_radio : .radio ∈ W) (s : State) (k_s : Keeps W s0 s) : Keeps W s0
    (radioBistOrder s) := by
  unfold radioBistOrder
  with_reducible repeat' first | assumption | exact Or.inl (by assumption) | exact Or.inr rfl | exact Or.inr ⟨rfl, rfl⟩
                               | exact Or.inr (NotBefore.same rfl rfl) | intro _ | apply keeps_modRadio | apply Keeps.ite

end Sys2Proof.Machine
end

