-- ==== Sys2Proof/Laws/Keeps/RadioRx.lean ====
section
/-!
SUPPORT. The functions of Machine/RadioRx.lean keep what every command keeps (`Keeps`).
-/
namespace Sys2Proof.Machine

open Sys2Proof

theorem keeps_queueAck {W : List Fld} {s0 : State} (w_radio : .radio ∈ W) (kind : HwKind) (r : RadioRx) (delay : Nat) (psdu : List Byte)
    (s : State) (k_s : Keeps W s0 s) : Keeps W s0 (queueAck kind r delay psdu s) := by
  unfold queueAck
  with_reducible repeat' first | assumption | exact Or.inl (by assumption) | exact Or.inr rfl | exact Or.inr ⟨rfl, rfl⟩
                               | exact Or.inr (NotBefore.same rfl rfl) | intro _ | apply keeps_modRadio

theorem keeps_immAck {W : List Fld} {s0 : State} (w_radio : .radio ∈ W) (r : RadioRx) (i : Option Nat) (s : State) (k_s : Keeps W s0 s) :
    Keeps W s0 (immAck r i s) := by
  unfold immAck
  with_reducible repeat' first | assumption | exact Or.inl (by assumption) | exact Or.inr rfl | exact Or.inr ⟨rfl, rfl⟩
                               | exact Or.inr (NotBefore.same rfl rfl) | intro _ | apply keeps_queueAck

theorem keeps_enhAck {W : List Fld} {s0 : State} (w_host : .host ∈ W) (w_radio : .radio ∈ W) (w_regs : .regs ∈ W) (r : RadioRx) (i : Nat)
    (ez : Int) (s : State) (k_s : Keeps W s0 s) : Keeps W s0 (enhAck r i ez s) := by
  unfold enhAck
  with_reducible repeat' first | assumption | exact Or.inl (by assumption) | exact Or.inr rfl | exact Or.inr ⟨rfl, rfl⟩
                               | exact Or.inr (NotBefore.same rfl rfl) | intro _ | apply keeps_fcFor | apply keeps_radioCount
                               | apply keeps_queueAck | apply Keeps.ite | refine KeepsOP.of (by assumption) ?_
                               | refine KeepsOP.snd (by assumption) ?_ | dsimp only | split

theorem keeps_rxDeliver {W : List Fld} {s0 : State} (w_host : .host ∈ W) (w_radio : .radio ∈ W) (w_regs : .regs ∈ W) (r : RadioRx) (x :
    RxInfo) (s : State) (k_s : Keeps W s0 s) : Keeps W s0 (rxDeliver r x s) := by
  unfold rxDeliver
  with_reducible repeat' first | assumption | exact Or.inl (by assumption) | exact Or.inr rfl | exact Or.inr ⟨rfl, rfl⟩
                               | exact Or.inr (NotBefore.same rfl rfl) | intro _ | apply keeps_setCause | apply keeps_radioCount
                               | apply keeps_modRadio | apply Keeps.foldl | apply Keeps.foldl_snd | apply Keeps.ite

theorem keeps_queueReply {W : List Fld} {s0 : State} (w_radio : .radio ∈ W) (r : RadioRx) (i : Nat) (s : State) (k_s : Keeps W s0 s) :
    Keeps W s0 (queueReply r i s) := by
  unfold queueReply
  with_reducible repeat' first | assumption | exact Or.inl (by assumption) | exact Or.inr rfl | exact Or.inr ⟨rfl, rfl⟩
                               | exact Or.inr (NotBefore.same rfl rfl) | intro _ | apply keeps_modRadio | apply Keeps.ite | dsimp only
                               | split

theorem keeps_rxFlood {W : List Fld} {s0 : State} (w_host : .host ∈ W) (w_radio : .radio ∈ W) (w_regs : .regs ∈ W) (r : RadioRx) (x :
    RxInfo) (s : State) (k_s : Keeps W s0 s) : Keeps W s0 (rxFlood r x s) := by
  unfold rxFlood
  with_reducible repeat' first | assumption | exact Or.inl (by assumption) | exact Or.inr rfl | exact Or.inr ⟨rfl, rfl⟩
                               | exact Or.inr (NotBefore.same rfl rfl) | intro _ | apply keeps_rxDeliver | apply keeps_radioCount
                               | apply keeps_seenAdd | apply keeps_modRadio | apply Keeps.ite

theorem keeps_rxDispatch {W : List Fld} {s0 : State} (w_pwr : .pwr ∈ W) (w_host : .host ∈ W) (w_led : .led ∈ W) (w_st : .st ∈ W) (w_fab :
    .fab ∈ W) (w_prot : .prot ∈ W) (w_mate : .mate ∈ W) (w_radio : .radio ∈ W) (w_flt : .flt ∈ W) (w_regs : .regs ∈ W) (r : RadioRx) (i :
    Nat) (payload : List Byte) (ez : Option Int) (s : State) (k_s : Keeps W s0 s) : Keeps W s0 (rxDispatch r i payload ez s) := by
  unfold rxDispatch
  with_reducible repeat' first | assumption | exact Or.inl (by assumption) | exact Or.inr rfl | exact Or.inr ⟨rfl, rfl⟩
                               | exact Or.inr (NotBefore.same rfl rfl) | intro _ | apply keeps_modNbr | apply keeps_queueReply
                               | apply keeps_proofRead | apply keeps_rxFlood | apply keeps_rxDeliver | apply Keeps.ite | dsimp only
                               | split

theorem keeps_rxAck {W : List Fld} {s0 : State} (w_pwr : .pwr ∈ W) (w_host : .host ∈ W) (w_radio : .radio ∈ W) (w_book : .book ∈ W)
    (w_regs : .regs ∈ W) (r : RadioRx) (i : Option Nat) (s : State) (k_s : Keeps W s0 s) : Keeps W s0 (rxAck r i s) := by
  unfold rxAck
  with_reducible repeat' first | assumption | exact Or.inl (by assumption) | exact Or.inr rfl | exact Or.inr ⟨rfl, rfl⟩
                               | exact Or.inr (NotBefore.same rfl rfl) | intro _ | apply keeps_radioRest | apply keeps_radioEnd
                               | apply Keeps.ite | dsimp only | split

theorem keeps_rxAccepted {W : List Fld} {s0 : State} (w_pwr : .pwr ∈ W) (w_host : .host ∈ W) (w_led : .led ∈ W) (w_st : .st ∈ W) (w_fab :
    .fab ∈ W) (w_prot : .prot ∈ W) (w_mate : .mate ∈ W) (w_radio : .radio ∈ W) (w_flt : .flt ∈ W) (w_book : .book ∈ W) (w_regs : .regs ∈
    W) (r : RadioRx) (i : Nat) (payload : List Byte) (dup : Bool) (s : State) (k_s : Keeps W s0 s) : Keeps W s0 (rxAccepted r i payload
    dup s) := by
  unfold rxAccepted
  with_reducible repeat' first | assumption | exact Or.inl (by assumption) | exact Or.inr rfl | exact Or.inr ⟨rfl, rfl⟩
                               | exact Or.inr (NotBefore.same rfl rfl) | intro _ | apply keeps_radioCount | apply keeps_modNbr
                               | apply keeps_enhAck | apply keeps_rxAck | apply keeps_rxDispatch | apply Keeps.ite

theorem keeps_rxSecured {W : List Fld} {s0 : State} (w_pwr : .pwr ∈ W) (w_host : .host ∈ W) (w_led : .led ∈ W) (w_st : .st ∈ W) (w_fab :
    .fab ∈ W) (w_prot : .prot ∈ W) (w_mate : .mate ∈ W) (w_radio : .radio ∈ W) (w_flt : .flt ∈ W) (w_book : .book ∈ W) (w_regs : .regs ∈
    W) (r : RadioRx) (s : State) (k_s : Keeps W s0 s) : Keeps W s0 (rxSecured r s) := by
  unfold rxSecured
  with_reducible repeat' first | assumption | exact Or.inl (by assumption) | exact Or.inr rfl | exact Or.inr ⟨rfl, rfl⟩
                               | exact Or.inr (NotBefore.same rfl rfl) | intro _ | apply keeps_rxDeliver | apply keeps_radioCount
                               | apply keeps_rxAccepted | apply Keeps.ite | dsimp only | split

theorem keeps_radioFlip {W : List Fld} {s0 : State} (w_radio : .radio ∈ W) (s : State) (k_s : Keeps W s0 s) : Keeps W s0 (radioFlip s) := by
  unfold radioFlip
  with_reducible repeat' first | assumption | exact Or.inl (by assumption) | exact Or.inr rfl | exact Or.inr ⟨rfl, rfl⟩
                               | exact Or.inr (NotBefore.same rfl rfl) | intro _ | apply keeps_modRadio

end Sys2Proof.Machine
end

