-- ==== Sys2Proof/Laws/Keeps/Monitor.lean ====
section
/-!
SUPPORT. The functions of Machine/Monitor.lean keep what every command keeps (`Keeps`).
-/
namespace Sys2Proof.Machine

open Sys2Proof

theorem keeps_modMon {W : List Fld} {s0 : State} (w_mon : .mon ∈ W) (f : MonState → MonState) (s : State) (k_s : Keeps W s0 s) : Keeps W
    s0 (modMon f s) := by
  unfold modMon
  with_reducible repeat' first | assumption | exact Or.inl (by assumption) | exact Or.inr rfl | exact Or.inr ⟨rfl, rfl⟩
                               | exact Or.inr (NotBefore.same rfl rfl) | intro _ | apply Keeps.ite | dsimp only | split | apply Keeps.upd

theorem keeps_modMonChan {W : List Fld} {s0 : State} (w_mon : .mon ∈ W) (c : Nat) (f : MonChan → MonChan) (s : State) (k_s : Keeps W s0 s)
    : Keeps W s0 (modMonChan c f s) := by
  unfold modMonChan
  with_reducible repeat' first | assumption | exact Or.inl (by assumption) | exact Or.inr rfl | exact Or.inr ⟨rfl, rfl⟩
                               | exact Or.inr (NotBefore.same rfl rfl) | intro _ | apply keeps_modMon

theorem keeps_monCause {W : List Fld} {s0 : State} (w_host : .host ∈ W) (w_regs : .regs ∈ W) (c k : Nat) (s : State) (k_s : Keeps W s0 s)
    : Keeps W s0 (monCause c k s) := by
  unfold monCause
  with_reducible repeat' first | assumption | exact Or.inl (by assumption) | exact Or.inr rfl | exact Or.inr ⟨rfl, rfl⟩
                               | exact Or.inr (NotBefore.same rfl rfl) | intro _ | apply keeps_setCauses

theorem keeps_monSettle {W : List Fld} {s0 : State} (w_mon : .mon ∈ W) (c : Nat) (s : State) (k_s : Keeps W s0 s) : Keeps W s0 (monSettle
    c s) := by
  unfold monSettle
  with_reducible repeat' first | assumption | exact Or.inl (by assumption) | exact Or.inr rfl | exact Or.inr ⟨rfl, rfl⟩
                               | exact Or.inr (NotBefore.same rfl rfl) | intro _ | apply keeps_modMonChan

theorem keeps_monSettleAll {W : List Fld} {s0 : State} (w_mon : .mon ∈ W) (s : State) (k_s : Keeps W s0 s) : Keeps W s0 (monSettleAll s) := by
  unfold monSettleAll
  with_reducible repeat' first | assumption | exact Or.inl (by assumption) | exact Or.inr rfl | exact Or.inr ⟨rfl, rfl⟩
                               | exact Or.inr (NotBefore.same rfl rfl) | intro _ | apply keeps_monSettle | apply Keeps.foldUpto
                               | apply Keeps.ite

theorem keeps_thEvent {W : List Fld} {s0 : State} (w_host : .host ∈ W) (w_regs : .regs ∈ W) (c reg : Nat) (s : State) (k_s : Keeps W s0 s)
    : Keeps W s0 (thEvent c reg s) := by
  unfold thEvent
  with_reducible repeat' first | assumption | exact Or.inl (by assumption) | exact Or.inr rfl | exact Or.inr ⟨rfl, rfl⟩
                               | exact Or.inr (NotBefore.same rfl rfl) | intro _ | apply keeps_setCause | apply keeps_rmod
                               | apply Keeps.foldl | apply Keeps.foldl_snd | apply Keeps.ite | dsimp only | split

theorem keeps_sensorCheck {W : List Fld} {s0 : State} (w_mon : .mon ∈ W) (c : Nat) (eng : Int) (s : State) (k_s : Keeps W s0 s) : Keeps W
    s0 (sensorCheck c eng s).2 := by
  unfold sensorCheck
  with_reducible repeat' first | assumption | exact Or.inl (by assumption) | exact Or.inr rfl | exact Or.inr ⟨rfl, rfl⟩
                               | exact Or.inr (NotBefore.same rfl rfl) | intro _ | apply keeps_modMonChan | apply Keeps.ite
                               | refine Keeps.snd_of (by assumption) ?_

theorem keeps_thermalRun {W : List Fld} {s0 : State} (w_pwr : .pwr ∈ W) (w_host : .host ∈ W) (w_led : .led ∈ W) (w_mate : .mate ∈ W)
    (w_mon : .mon ∈ W) (w_flt : .flt ∈ W) (w_regs : .regs ∈ W) (c : Nat) (eng : Int) (before : State) (k_before : Keeps W s0 before) :
    Keeps W s0 (thermalRun c eng before) := by
  unfold thermalRun
  with_reducible repeat' first | assumption | exact Or.inl (by assumption) | exact Or.inr rfl | exact Or.inr ⟨rfl, rfl⟩
                               | exact Or.inr (NotBefore.same rfl rfl) | intro _ | apply keeps_sensorCheck | apply keeps_modMonChan
                               | apply keeps_modMon | apply keeps_faultRaiseAll | apply Keeps.ite | refine Keeps.snd_of (by assumption) ?_

theorem keeps_monOutput {W : List Fld} {s0 : State} (w_pwr : .pwr ∈ W) (w_host : .host ∈ W) (w_led : .led ∈ W) (w_mate : .mate ∈ W) (w_mon
    : .mon ∈ W) (w_flt : .flt ∈ W) (w_regs : .regs ∈ W) (c phase : Nat) (s : State) (k_s : Keeps W s0 s) : Keeps W s0 (monOutput c phase
    s) := by
  unfold monOutput
  with_reducible repeat' first | assumption | exact Or.inl (by assumption) | exact Or.inr rfl | exact Or.inr ⟨rfl, rfl⟩
                               | exact Or.inr (NotBefore.same rfl rfl) | intro _ | apply keeps_modMonChan | apply keeps_monCause
                               | apply keeps_thEvent | apply keeps_thermalRun | apply Keeps.ite

theorem keeps_feedRelease {W : List Fld} {s0 : State} (w_pwr : .pwr ∈ W) (w_host : .host ∈ W) (w_led : .led ∈ W) (w_mate : .mate ∈ W)
    (w_regs : .regs ∈ W) (before : Bool) (s : State) (k_s : Keeps W s0 s) : Keeps W s0 (feedRelease before s) := by
  unfold feedRelease
  with_reducible repeat' first | assumption | exact Or.inl (by assumption) | exact Or.inr rfl | exact Or.inr ⟨rfl, rfl⟩
                               | exact Or.inr (NotBefore.same rfl rfl) | intro _ | apply keeps_immediateRelease | apply Keeps.ite
                               | dsimp only | split

theorem keeps_monSample {W : List Fld} {s0 : State} (w_pwr : .pwr ∈ W) (w_host : .host ∈ W) (w_led : .led ∈ W) (w_mate : .mate ∈ W) (w_mon
    : .mon ∈ W) (w_flt : .flt ∈ W) (w_regs : .regs ∈ W) (c j code : Nat) (s : State) (k_s : Keeps W s0 s) : Keeps W s0 (monSample c j code
    s) := by
  unfold monSample
  with_reducible repeat' first | assumption | exact Or.inl (by assumption) | exact Or.inr rfl | exact Or.inr ⟨rfl, rfl⟩
                               | exact Or.inr (NotBefore.same rfl rfl) | intro _ | apply keeps_modMonChan | apply keeps_monSettle
                               | apply keeps_feedRelease | apply keeps_monOutput | apply Keeps.ite | dsimp only | split

theorem keeps_monCalibrate {W : List Fld} {s0 : State} (w_pwr : .pwr ∈ W) (w_host : .host ∈ W) (w_led : .led ∈ W) (w_mate : .mate ∈ W)
    (w_mon : .mon ∈ W) (w_flt : .flt ∈ W) (w_regs : .regs ∈ W) (fail : Bool) (s : State) (k_s : Keeps W s0 s) : Keeps W s0 (monCalibrate
    fail s) := by
  unfold monCalibrate
  with_reducible repeat' first | assumption | exact Or.inl (by assumption) | exact Or.inr rfl | exact Or.inr ⟨rfl, rfl⟩
                               | exact Or.inr (NotBefore.same rfl rfl) | intro _ | apply keeps_modMon | apply keeps_setCause
                               | apply keeps_faultRaise | apply Keeps.ite

theorem keeps_calSettle {W : List Fld} {s0 : State} (w_mon : .mon ∈ W) (seat k p arg : Nat) (s : State) (k_s : Keeps W s0 s) : Keeps W s0
    (calSettle seat k p arg s).2 := by
  unfold calSettle
  with_reducible repeat' first | assumption | exact Or.inl (by assumption) | exact Or.inr rfl | exact Or.inr ⟨rfl, rfl⟩
                               | exact Or.inr (NotBefore.same rfl rfl) | intro _ | apply keeps_modMonChan | apply Keeps.ite
                               | refine Keeps.snd_of (by assumption) ?_ | dsimp only | split

theorem keeps_monCfgHook {W : List Fld} {s0 : State} (w_mon : .mon ∈ W) (c old new : Nat) (step : Bool) (s : State) (k_s : Keeps W s0 s) :
    Keeps W s0 (monCfgHook c old new step s) := by
  unfold monCfgHook
  with_reducible repeat' first | assumption | exact Or.inl (by assumption) | exact Or.inr rfl | exact Or.inr ⟨rfl, rfl⟩
                               | exact Or.inr (NotBefore.same rfl rfl) | intro _ | apply keeps_modMonChan | apply keeps_monSettle
                               | apply Keeps.ite

theorem keeps_monThHook {W : List Fld} {s0 : State} (w_mon : .mon ∈ W) (c off old new : Nat) (s : State) (k_s : Keeps W s0 s) : Keeps W s0
    (monThHook c off old new s) := by
  unfold monThHook
  with_reducible repeat' first | assumption | exact Or.inl (by assumption) | exact Or.inr rfl | exact Or.inr ⟨rfl, rfl⟩
                               | exact Or.inr (NotBefore.same rfl rfl) | intro _ | apply keeps_modMonChan | apply Keeps.ite

theorem keeps_setShed {W : List Fld} {s0 : State} (w_pwr : .pwr ∈ W) (w_host : .host ∈ W) (w_led : .led ∈ W) (w_mate : .mate ∈ W) (w_mon :
    .mon ∈ W) (w_flt : .flt ∈ W) (w_regs : .regs ∈ W) (mask object : Nat) (s : State) (k_s : Keeps W s0 s) : Keeps W s0 (setShed mask
    object s) := by
  unfold setShed
  with_reducible repeat' first | assumption | exact Or.inl (by assumption) | exact Or.inr rfl | exact Or.inr ⟨rfl, rfl⟩
                               | exact Or.inr (NotBefore.same rfl rfl) | intro _ | apply keeps_modMon | apply keeps_setCause
                               | apply keeps_ledgerHw | apply Keeps.ite

theorem keeps_thermalFlip {W : List Fld} {s0 : State} (w_pwr : .pwr ∈ W) (w_host : .host ∈ W) (w_led : .led ∈ W) (w_mate : .mate ∈ W)
    (w_mon : .mon ∈ W) (w_flt : .flt ∈ W) (w_regs : .regs ∈ W) (s : State) (k_s : Keeps W s0 s) : Keeps W s0 (thermalFlip s) := by
  unfold thermalFlip
  with_reducible repeat' first | assumption | exact Or.inl (by assumption) | exact Or.inr rfl | exact Or.inr ⟨rfl, rfl⟩
                               | exact Or.inr (NotBefore.same rfl rfl) | intro _ | apply keeps_modMon | apply keeps_setCause
                               | apply keeps_setShed | apply Keeps.ite

theorem keeps_shedForceHook {W : List Fld} {s0 : State} (w_pwr : .pwr ∈ W) (w_host : .host ∈ W) (w_led : .led ∈ W) (w_mate : .mate ∈ W)
    (w_mon : .mon ∈ W) (w_flt : .flt ∈ W) (w_regs : .regs ∈ W) (s : State) (k_s : Keeps W s0 s) : Keeps W s0 (shedForceHook s) := by
  unfold shedForceHook
  with_reducible repeat' first | assumption | exact Or.inl (by assumption) | exact Or.inr rfl | exact Or.inr ⟨rfl, rfl⟩
                               | exact Or.inr (NotBefore.same rfl rfl) | intro _ | apply keeps_setShed

end Sys2Proof.Machine
end

