-- ==== Sys2Proof/Laws/Keeps/FaultCmds.lean ====
section
/-!
SUPPORT. The functions of Machine/FaultCmds.lean keep what every command keeps (`Keeps`).
-/
namespace Sys2Proof.Machine

open Sys2Proof

theorem keeps_pairFault {W : List Fld} {s0 : State} (w_pwr : .pwr ∈ W) (w_host : .host ∈ W) (w_led : .led ∈ W) (w_mate : .mate ∈ W) (w_flt
    : .flt ∈ W) (w_regs : .regs ∈ W) (k : Nat) (injected limited : Bool) (s : State) (k_s : Keeps W s0 s) : Keeps W s0 (pairFault k
    injected limited s) := by
  unfold pairFault
  with_reducible repeat' first | assumption | exact Or.inl (by assumption) | exact Or.inr rfl | exact Or.inr ⟨rfl, rfl⟩
                               | exact Or.inr (NotBefore.same rfl rfl) | intro _ | apply keeps_reportLoss | apply keeps_raiseOne
                               | apply keeps_modFaultSrc | apply Keeps.ite

theorem keeps_upsetAt {W : List Fld} {s0 : State} (w_sram : .sram ∈ W) (w_freeCtr : .freeCtr ∈ W) (src : Nat) (word : Option (BitVec 19))
    (s : State) (k_s : Keeps W s0 s) : Keeps W s0 (upsetAt src word s) := by
  unfold upsetAt
  with_reducible repeat' first | assumption | exact Or.inl (by assumption) | exact Or.inr rfl | exact Or.inr ⟨rfl, rfl⟩
                               | exact Or.inr (NotBefore.same rfl rfl) | intro _ | apply keeps_sramUpset | apply Keeps.ite | dsimp only
                               | split | apply Keeps.upd

theorem keeps_injectCheck {W : List Fld} {s0 : State} (w_pwr : .pwr ∈ W) (w_host : .host ∈ W) (w_led : .led ∈ W) (w_mate : .mate ∈ W)
    (w_flt : .flt ∈ W) (w_regs : .regs ∈ W) (k : Nat) (s : State) (k_s : Keeps W s0 s) : Keeps W s0 (injectCheck k s) := by
  unfold injectCheck
  with_reducible repeat' first | assumption | exact Or.inl (by assumption) | exact Or.inr rfl | exact Or.inr ⟨rfl, rfl⟩
                               | exact Or.inr (NotBefore.same rfl rfl) | intro _ | apply keeps_pairFault | apply keeps_reportLoss
                               | apply keeps_raiseOne | apply Keeps.ite | dsimp only | split | apply Keeps.upd

theorem keeps_sweepOne {W : List Fld} {s0 : State} (w_pwr : .pwr ∈ W) (w_host : .host ∈ W) (w_led : .led ∈ W) (w_mate : .mate ∈ W) (w_flt
    : .flt ∈ W) (w_regs : .regs ∈ W) (k : Nat) (passed : Bool) (s : State) (k_s : Keeps W s0 s) : Keeps W s0 (sweepOne k passed s) := by
  unfold sweepOne
  with_reducible repeat' first | assumption | exact Or.inl (by assumption) | exact Or.inr rfl | exact Or.inr ⟨rfl, rfl⟩
                               | exact Or.inr (NotBefore.same rfl rfl) | intro _ | apply keeps_pairFault | apply keeps_modFaultSrc
                               | apply Keeps.ite

theorem keeps_clearLatch {W : List Fld} {s0 : State} (w_mate : .mate ∈ W) (w_flt : .flt ∈ W) (s : State) (k_s : Keeps W s0 s) : Keeps W s0
    (clearLatch s) := by
  unfold clearLatch
  with_reducible repeat' first | assumption | exact Or.inl (by assumption) | exact Or.inr rfl | exact Or.inr ⟨rfl, rfl⟩
                               | exact Or.inr (NotBefore.same rfl rfl) | intro _ | apply keeps_modMate | apply Keeps.ite | dsimp only
                               | split | apply Keeps.upd

theorem keeps_clearEnd {W : List Fld} {s0 : State} (w_flt : .flt ∈ W) (w_book : .book ∈ W) (seat code : Nat) (s : State) (k_s : Keeps W s0
    s) : Keeps W s0 (clearEnd seat code s) := by
  unfold clearEnd
  with_reducible repeat' first | assumption | exact Or.inl (by assumption) | exact Or.inr rfl | exact Or.inr ⟨rfl, rfl⟩
                               | exact Or.inr (NotBefore.same rfl rfl) | intro _ | apply keeps_countOutcome | apply Keeps.ite | dsimp only
                               | split | apply Keeps.upd

theorem keeps_firstClear {W : List Fld} {s0 : State} (w_pwr : .pwr ∈ W) (w_host : .host ∈ W) (w_led : .led ∈ W) (w_mate : .mate ∈ W)
    (w_flt : .flt ∈ W) (w_book : .book ∈ W) (w_regs : .regs ∈ W) (a : Agent) (v : Nat) (s : State) (k_s : Keeps W s0 s) : Keeps W s0
    (firstClear a v s).2 := by
  unfold firstClear
  with_reducible repeat' first | assumption | exact Or.inl (by assumption) | exact Or.inr rfl | exact Or.inr ⟨rfl, rfl⟩
                               | exact Or.inr (NotBefore.same rfl rfl) | intro _ | apply keeps_clearEnd | apply keeps_ledgerMgmt
                               | apply keeps_clearLatch | apply Keeps.ite | refine Keeps.snd_of (by assumption) ?_
                               | refine KeepsO.of (by assumption) ?_ | apply KeepsO.getD | dsimp only | split | apply Keeps.upd

theorem keeps_injectHook {W : List Fld} {s0 : State} (w_pwr : .pwr ∈ W) (w_host : .host ∈ W) (w_led : .led ∈ W) (w_mate : .mate ∈ W)
    (w_flt : .flt ∈ W) (w_regs : .regs ∈ W) (s : State) (k_s : Keeps W s0 s) : Keeps W s0 (injectHook s) := by
  unfold injectHook
  with_reducible repeat' first | assumption | exact Or.inl (by assumption) | exact Or.inr rfl | exact Or.inr ⟨rfl, rfl⟩
                               | exact Or.inr (NotBefore.same rfl rfl) | intro _ | apply keeps_injectCheck | apply Keeps.ite | dsimp only
                               | split | apply Keeps.upd

theorem keeps_lanternPinFault {W : List Fld} {s0 : State} (w_pwr : .pwr ∈ W) (w_host : .host ∈ W) (w_led : .led ∈ W) (w_mate : .mate ∈ W)
    (w_scan : .scan ∈ W) (w_flt : .flt ∈ W) (w_regs : .regs ∈ W) (l : Nat) (s : State) (k_s : Keeps W s0 s) : Keeps W s0 (lanternPinFault
    l s) := by
  unfold lanternPinFault
  with_reducible repeat' first | assumption | exact Or.inl (by assumption) | exact Or.inr rfl | exact Or.inr ⟨rfl, rfl⟩
                               | exact Or.inr (NotBefore.same rfl rfl) | intro _ | apply keeps_faultRaise | apply keeps_sendSetpoint
                               | apply keeps_modScan

theorem keeps_txEnPinFault {W : List Fld} {s0 : State} (w_lt : .lt ∈ W) (w_pwr : .pwr ∈ W) (w_host : .host ∈ W) (w_led : .led ∈ W) (w_mate
    : .mate ∈ W) (w_radio : .radio ∈ W) (w_flt : .flt ∈ W) (w_book : .book ∈ W) (w_regs : .regs ∈ W) (s : State) (k_s : Keeps W s0 s) :
    Keeps W s0 (txEnPinFault s) := by
  unfold txEnPinFault
  with_reducible repeat' first | assumption | exact Or.inl (by assumption) | exact Or.inr rfl | exact Or.inr ⟨rfl, rfl⟩
                               | exact Or.inr (NotBefore.same rfl rfl) | intro _ | apply keeps_faultRaise | apply keeps_portFaultEnds
                               | apply keeps_modRadio

end Sys2Proof.Machine
end

