-- ==== Sys2Proof/Laws/Keeps/Stages.lean ====
section
/-!
SUPPORT. The functions of Machine/Stages.lean keep what every command keeps (`Keeps`).
-/
namespace Sys2Proof.Machine

open Sys2Proof

theorem keeps_listenStart {W : List Fld} {s0 : State} (w_mate : .mate ∈ W) (s : State) (k_s : Keeps W s0 s) : Keeps W s0 (listenStart s) := by
  unfold listenStart
  with_reducible repeat' first | assumption | exact Or.inl (by assumption) | exact Or.inr rfl | exact Or.inr ⟨rfl, rfl⟩
                               | exact Or.inr (NotBefore.same rfl rfl) | intro _ | apply keeps_modMate

theorem keeps_enterStage {W : List Fld} {s0 : State} (w_pwr : .pwr ∈ W) (w_host : .host ∈ W) (w_led : .led ∈ W) (w_mate : .mate ∈ W)
    (w_flt : .flt ∈ W) (w_regs : .regs ∈ W) (w_stage : .stage ∈ W) (new : Stage) (s : State) (k_s : Keeps W s0 s) : Keeps W s0 (enterStage
    new s) := by
  unfold enterStage
  with_reducible repeat' first | assumption | exact Or.inl (by assumption) | exact Or.inr rfl | exact Or.inr ⟨rfl, rfl⟩
                               | exact Or.inr (NotBefore.same rfl rfl) | intro _ | apply keeps_setCauses | apply keeps_ledgerHw
                               | apply keeps_listenStart | apply keeps_setRein | apply keeps_domUpdate | apply Keeps.ite | dsimp only
                               | split | apply Keeps.upd

theorem keeps_serviceEntry {W : List Fld} {s0 : State} (w_pwr : .pwr ∈ W) (w_host : .host ∈ W) (w_led : .led ∈ W) (w_mate : .mate ∈ W)
    (w_flt : .flt ∈ W) (w_regs : .regs ∈ W) (w_stage : .stage ∈ W) (s : State) (k_s : Keeps W s0 s) : Keeps W s0 (serviceEntry s) := by
  unfold serviceEntry
  with_reducible repeat' first | assumption | exact Or.inl (by assumption) | exact Or.inr rfl | exact Or.inr ⟨rfl, rfl⟩
                               | exact Or.inr (NotBefore.same rfl rfl) | intro _ | apply keeps_enterStage | apply Keeps.ite

theorem keeps_stageBoundary {W : List Fld} {s0 : State} (w_pwr : .pwr ∈ W) (w_host : .host ∈ W) (w_led : .led ∈ W) (w_mate : .mate ∈ W)
    (w_flt : .flt ∈ W) (w_regs : .regs ∈ W) (w_stage : .stage ∈ W) (s : State) (k_s : Keeps W s0 s) : Keeps W s0 (stageBoundary s) := by
  unfold stageBoundary
  with_reducible repeat' first | assumption | exact Or.inl (by assumption) | exact Or.inr rfl | exact Or.inr ⟨rfl, rfl⟩
                               | exact Or.inr (NotBefore.same rfl rfl) | intro _ | apply keeps_enterStage | apply keeps_serviceEntry
                               | apply Keeps.ite | dsimp only | split | apply Keeps.upd

theorem keeps_stageEnd {W : List Fld} {s0 : State} (w_pwr : .pwr ∈ W) (w_book : .book ∈ W) (seat code : Nat) (s : State) (k_s : Keeps W s0
    s) : Keeps W s0 (stageEnd seat code s) := by
  unfold stageEnd
  with_reducible repeat' first | assumption | exact Or.inl (by assumption) | exact Or.inr rfl | exact Or.inr ⟨rfl, rfl⟩
                               | exact Or.inr (NotBefore.same rfl rfl) | intro _ | apply keeps_countOutcome | apply Keeps.ite | dsimp only
                               | split | apply Keeps.upd

theorem keeps_stageAccept {W : List Fld} {s0 : State} (w_pwr : .pwr ∈ W) (w_host : .host ∈ W) (w_led : .led ∈ W) (w_mate : .mate ∈ W)
    (w_flt : .flt ∈ W) (w_book : .book ∈ W) (w_regs : .regs ∈ W) (a : Agent) (v code : Nat) (f : PwrState → PwrState) (s : State) (st_f :
    ∀ p, (f p).stage = p.stage) (k_s : Keeps W s0 s) : Keeps W s0 (stageAccept a v code f s).2 := by
  unfold stageAccept
  with_reducible repeat' first | assumption | exact Or.inl (by assumption) | exact Or.inr rfl | exact Or.inr ⟨rfl, rfl⟩
                               | exact Or.inr (NotBefore.same rfl rfl) | exact Or.inr (st_f _) | intro _ | apply keeps_ledgerMgmt
                               | apply keeps_stageEnd | apply Keeps.ite | refine Keeps.snd_of (by assumption) ?_
                               | refine KeepsO.of (by assumption) ?_ | apply KeepsO.getD | dsimp only | split | apply Keeps.upd

theorem keeps_stageControl {W : List Fld} {s0 : State} (w_pwr : .pwr ∈ W) (w_host : .host ∈ W) (w_led : .led ∈ W) (w_mate : .mate ∈ W)
    (w_flt : .flt ∈ W) (w_book : .book ∈ W) (w_regs : .regs ∈ W) (a : Agent) (v : Nat) (s : State) (k_s : Keeps W s0 s) : Keeps W s0
    (stageControl a v s).2 := by
  unfold stageControl
  with_reducible repeat' first | assumption | exact Or.inl (by assumption) | exact Or.inr rfl | exact Or.inr ⟨rfl, rfl⟩
                               | exact Or.inr (NotBefore.same rfl rfl) | exact fun _ => rfl | intro _ | apply keeps_stageEnd
                               | apply keeps_stageAccept | apply Keeps.ite | refine Keeps.snd_of (by assumption) ?_ | dsimp only | split
                               | apply Keeps.upd

end Sys2Proof.Machine
end

