-- ==== Sys2Proof/Laws/Keeps/MateApply.lean ====
section
/-!
SUPPORT. The functions of Machine/MateApply.lean keep what every command keeps (`Keeps`).
-/
namespace Sys2Proof.Machine

open Sys2Proof

theorem keeps_applyReg {W : List Fld} {s0 : State} (w_lt : .lt ∈ W) (w_pwr : .pwr ∈ W) (w_host : .host ∈ W) (w_st : .st ∈ W) (w_line :
    .line ∈ W) (w_fab : .fab ∈ W) (w_mate : .mate ∈ W) (w_dun : .dun ∈ W) (w_regs : .regs ∈ W) (off v : Nat) (s : State) (k_s : Keeps W s0
    s) : Keeps W s0 (applyReg off v s) := by
  unfold applyReg
  with_reducible repeat' first | assumption | exact Or.inl (by assumption) | exact Or.inr rfl | exact Or.inr ⟨rfl, rfl⟩
                               | exact Or.inr (NotBefore.same rfl rfl) | intro _ | apply keeps_landHook | apply keeps_rset
                               | apply keeps_stCtlHook | apply Keeps.ite | dsimp only | split | apply Keeps.upd

theorem keeps_applyProt {W : List Fld} {s0 : State} (w_pwr : .pwr ∈ W) (w_host : .host ∈ W) (w_led : .led ∈ W) (w_line : .line ∈ W) (w_fab
    : .fab ∈ W) (w_prot : .prot ∈ W) (w_mate : .mate ∈ W) (w_dun : .dun ∈ W) (w_flt : .flt ∈ W) (w_regs : .regs ∈ W) (off v : Nat) (s :
    State) (k_s : Keeps W s0 s) : Keeps W s0 (applyProt off v s) := by
  unfold applyProt
  with_reducible repeat' first | assumption | exact Or.inl (by assumption) | exact Or.inr rfl | exact Or.inr ⟨rfl, rfl⟩
                               | exact Or.inr (NotBefore.same rfl rfl) | intro _ | apply keeps_landWrite

theorem keeps_putGroup {W : List Fld} {s0 : State} (w_lt : .lt ∈ W) (g : CommitGroup) (s : State) (k_s : Keeps W s0 s) : Keeps W s0
    (putGroup g s) := by
  unfold putGroup
  with_reducible repeat' first | assumption | exact Or.inl (by assumption) | exact Or.inr rfl | exact Or.inr ⟨rfl, rfl⟩
                               | exact Or.inr (NotBefore.same rfl rfl) | intro _ | apply Keeps.ite | dsimp only | split | apply Keeps.upd

theorem keeps_putCal {W : List Fld} {s0 : State} (w_lt : .lt ∈ W) (i : Nat) (ez : CalEntry) (s : State) (k_s : Keeps W s0 s) : Keeps W s0
    (putCal i ez s) := by
  unfold putCal
  with_reducible repeat' first | assumption | exact Or.inl (by assumption) | exact Or.inr rfl | exact Or.inr ⟨rfl, rfl⟩
                               | exact Or.inr (NotBefore.same rfl rfl) | intro _ | apply keeps_setCal | apply Keeps.ite | dsimp only
                               | split | apply Keeps.upd

theorem keeps_applyControl {W : List Fld} {s0 : State} (w_fab : .fab ∈ W) (w_prot : .prot ∈ W) (addr v : Nat) (gone : Bool) (s : State)
    (k_s : Keeps W s0 s) : Keeps W s0 (applyControl addr v gone s) := by
  unfold applyControl
  with_reducible repeat' first | assumption | exact Or.inl (by assumption) | exact Or.inr rfl | exact Or.inr ⟨rfl, rfl⟩
                               | exact Or.inr (NotBefore.same rfl rfl) | intro _ | apply keeps_setCtl | apply keeps_modConn
                               | apply Keeps.ite | dsimp only | split | apply Keeps.upd

theorem keeps_applyItem {W : List Fld} {s0 : State} (w_lt : .lt ∈ W) (w_pwr : .pwr ∈ W) (w_host : .host ∈ W) (w_led : .led ∈ W) (w_st :
    .st ∈ W) (w_line : .line ∈ W) (w_fab : .fab ∈ W) (w_prot : .prot ∈ W) (w_mate : .mate ∈ W) (w_dun : .dun ∈ W) (w_flt : .flt ∈ W)
    (w_regs : .regs ∈ W) (w_sram : .sram ∈ W) (gone : Bool) (i : MateItem) (s : State) (k_s : Keeps W s0 s) : Keeps W s0 (applyItem gone i
    s) := by
  unfold applyItem
  with_reducible repeat' first | assumption | exact Or.inl (by assumption) | exact Or.inr rfl | exact Or.inr ⟨rfl, rfl⟩
                               | exact Or.inr (NotBefore.same rfl rfl) | intro _ | apply keeps_applyProt | apply keeps_applyReg
                               | apply keeps_modConn | apply keeps_putGroup | apply keeps_setCal | apply keeps_putCal | apply keeps_rset
                               | apply keeps_sramWrite | apply keeps_setExpect | apply keeps_applyControl | apply Keeps.ite | dsimp only
                               | split | apply Keeps.upd

theorem keeps_applyDeltas {W : List Fld} {s0 : State} (w_lt : .lt ∈ W) (w_pwr : .pwr ∈ W) (w_host : .host ∈ W) (w_led : .led ∈ W) (w_st :
    .st ∈ W) (w_line : .line ∈ W) (w_fab : .fab ∈ W) (w_prot : .prot ∈ W) (w_mate : .mate ∈ W) (w_dun : .dun ∈ W) (w_flt : .flt ∈ W)
    (w_regs : .regs ∈ W) (w_sram : .sram ∈ W) (held : List Byte) (x1 : List MateDelta) (x2 : State) (k_x2 : Keeps W s0 x2) : Keeps W s0
    (applyDeltas held x1 x2) := by
  induction x1 generalizing held x2 k_x2 with
  | nil =>
    unfold applyDeltas
    with_reducible repeat' first | assumption | exact Or.inl (by assumption) | exact Or.inr rfl | exact Or.inr ⟨rfl, rfl⟩
                                 | exact Or.inr (NotBefore.same rfl rfl) | intro _ | apply keeps_applyItem | apply Keeps.ite | dsimp only
                                 | split | apply Keeps.upd
  | cons hd tl ih =>
    unfold applyDeltas
    with_reducible repeat' first | assumption | apply ih | exact Or.inl (by assumption) | exact Or.inr rfl | exact Or.inr ⟨rfl, rfl⟩
                                 | exact Or.inr (NotBefore.same rfl rfl) | intro _ | apply keeps_applyItem | apply Keeps.ite | dsimp only
                                 | split | apply Keeps.upd

theorem keeps_clearMirror {W : List Fld} {s0 : State} (w_lt : .lt ∈ W) (w_fab : .fab ∈ W) (w_prot : .prot ∈ W) (s : State) (k_s : Keeps W
    s0 s) : Keeps W s0 (clearMirror s) := by
  unfold clearMirror
  with_reducible repeat' first | assumption | exact Or.inl (by assumption) | exact Or.inr rfl | exact Or.inr ⟨rfl, rfl⟩
                               | exact Or.inr (NotBefore.same rfl rfl) | intro _ | apply Keeps.ite | dsimp only | split | apply Keeps.upd

end Sys2Proof.Machine
end

