-- ==== Sys2Proof/Laws/Keeps/Mate.lean ====
section
/-!
SUPPORT. The functions of Machine/Mate.lean keep what every command keeps (`Keeps`).
-/
namespace Sys2Proof.Machine

open Sys2Proof

theorem keeps_reinRecordBy {W : List Fld} {s0 : State} (w_pwr : .pwr ∈ W) (w_host : .host ∈ W) (w_led : .led ∈ W) (w_mate : .mate ∈ W)
    (w_flt : .flt ∈ W) (w_regs : .regs ∈ W) (a : Agent) (new : Rein) (cause : Nat) (s : State) (k_s : Keeps W s0 s) : KeepsO W s0
    (reinRecordBy a new cause s) := by
  unfold reinRecordBy
  with_reducible repeat' first | assumption | exact Or.inl (by assumption) | exact Or.inr rfl | exact Or.inr ⟨rfl, rfl⟩
                               | exact Or.inr (NotBefore.same rfl rfl) | intro _ | apply keeps_ledgerMgmt | exact KeepsO.none
                               | apply KeepsO.some | apply KeepsO.map | apply KeepsO.ite | apply Keeps.ite
                               | refine KeepsO.of (by assumption) ?_ | apply KeepsO.getD | dsimp only | split | apply Keeps.upd

theorem keeps_sendSnapReq {W : List Fld} {s0 : State} (w_mate : .mate ∈ W) (s : State) (k_s : Keeps W s0 s) : Keeps W s0 (sendSnapReq s) := by
  unfold sendSnapReq
  with_reducible repeat' first | assumption | exact Or.inl (by assumption) | exact Or.inr rfl | exact Or.inr ⟨rfl, rfl⟩
                               | exact Or.inr (NotBefore.same rfl rfl) | intro _ | apply keeps_linkSend | apply keeps_modMate

theorem keeps_standbyState {W : List Fld} {s0 : State} (w_pwr : .pwr ∈ W) (w_host : .host ∈ W) (w_mate : .mate ∈ W) (w_regs : .regs ∈ W)
    (s : State) (k_s : Keeps W s0 s) : Keeps W s0 (standbyState s) := by
  unfold standbyState
  with_reducible repeat' first | assumption | exact Or.inl (by assumption) | exact Or.inr rfl | exact Or.inr ⟨rfl, rfl⟩
                               | exact Or.inr (NotBefore.same rfl rfl) | intro _ | apply keeps_sendSnapReq | apply keeps_reinChange
                               | apply keeps_linkDropEpoch | apply keeps_modMate | apply Keeps.ite | dsimp only | split | apply Keeps.upd

theorem keeps_toStandby {W : List Fld} {s0 : State} (w_pwr : .pwr ∈ W) (w_host : .host ∈ W) (w_led : .led ∈ W) (w_mate : .mate ∈ W) (w_flt
    : .flt ∈ W) (w_regs : .regs ∈ W) (cause : Nat) (s : State) (k_s : Keeps W s0 s) : Keeps W s0 (toStandby cause s) := by
  unfold toStandby
  with_reducible repeat' first | assumption | exact Or.inl (by assumption) | exact Or.inr rfl | exact Or.inr ⟨rfl, rfl⟩
                               | exact Or.inr (NotBefore.same rfl rfl) | intro _ | apply keeps_standbyState | apply keeps_ledgerHw

theorem keeps_syncLost {W : List Fld} {s0 : State} (w_pwr : .pwr ∈ W) (w_host : .host ∈ W) (w_led : .led ∈ W) (w_mate : .mate ∈ W) (w_flt
    : .flt ∈ W) (w_regs : .regs ∈ W) (s : State) (k_s : Keeps W s0 s) : Keeps W s0 (syncLost s) := by
  unfold syncLost
  with_reducible repeat' first | assumption | exact Or.inl (by assumption) | exact Or.inr rfl | exact Or.inr ⟨rfl, rfl⟩
                               | exact Or.inr (NotBefore.same rfl rfl) | intro _ | apply keeps_modMate | apply keeps_sendSnapReq
                               | apply keeps_faultRaise | apply keeps_mateCause0

theorem keeps_newTerm {W : List Fld} {s0 : State} (w_mate : .mate ∈ W) (s : State) (k_s : Keeps W s0 s) : Keeps W s0 (newTerm s) := by
  unfold newTerm
  with_reducible repeat' first | assumption | exact Or.inl (by assumption) | exact Or.inr rfl | exact Or.inr ⟨rfl, rfl⟩
                               | exact Or.inr (NotBefore.same rfl rfl) | intro _ | apply keeps_modMate

theorem keeps_openEpoch {W : List Fld} {s0 : State} (w_mate : .mate ∈ W) (s : State) (k_s : Keeps W s0 s) : Keeps W s0 (openEpoch s) := by
  unfold openEpoch
  with_reducible repeat' first | assumption | exact Or.inl (by assumption) | exact Or.inr rfl | exact Or.inr ⟨rfl, rfl⟩
                               | exact Or.inr (NotBefore.same rfl rfl) | intro _ | apply keeps_linkSend | apply keeps_modMate

theorem keeps_holdState {W : List Fld} {s0 : State} (w_pwr : .pwr ∈ W) (w_host : .host ∈ W) (w_mate : .mate ∈ W) (w_regs : .regs ∈ W) (s :
    State) (k_s : Keeps W s0 s) : Keeps W s0 (holdState s) := by
  unfold holdState
  with_reducible repeat' first | assumption | exact Or.inl (by assumption) | exact Or.inr rfl | exact Or.inr ⟨rfl, rfl⟩
                               | exact Or.inr (NotBefore.same rfl rfl) | intro _ | apply keeps_openEpoch | apply keeps_reinChange
                               | apply keeps_modMate | apply Keeps.ite | dsimp only | split | apply Keeps.upd

theorem keeps_holdRein {W : List Fld} {s0 : State} (w_pwr : .pwr ∈ W) (w_host : .host ∈ W) (w_led : .led ∈ W) (w_mate : .mate ∈ W) (w_flt
    : .flt ∈ W) (w_regs : .regs ∈ W) (cause : Nat) (s : State) (k_s : Keeps W s0 s) : Keeps W s0 (holdRein cause s) := by
  unfold holdRein
  with_reducible repeat' first | assumption | exact Or.inl (by assumption) | exact Or.inr rfl | exact Or.inr ⟨rfl, rfl⟩
                               | exact Or.inr (NotBefore.same rfl rfl) | intro _ | apply keeps_newTerm | apply keeps_holdState
                               | apply keeps_ledgerHw

theorem keeps_rearmAll {W : List Fld} {s0 : State} (w_prot : .prot ∈ W) (w_mate : .mate ∈ W) (s : State) (k_s : Keeps W s0 s) : Keeps W s0
    (rearmAll s) := by
  unfold rearmAll
  with_reducible repeat' first | assumption | exact Or.inl (by assumption) | exact Or.inr rfl | exact Or.inr ⟨rfl, rfl⟩
                               | exact Or.inr (NotBefore.same rfl rfl) | intro _ | apply keeps_armAt | apply Keeps.foldl

theorem keeps_applyVerified {W : List Fld} {s0 : State} (w_lt : .lt ∈ W) (w_pwr : .pwr ∈ W) (w_host : .host ∈ W) (w_led : .led ∈ W) (w_st
    : .st ∈ W) (w_dma : .dma ∈ W) (w_line : .line ∈ W) (w_fab : .fab ∈ W) (w_prot : .prot ∈ W) (w_mate : .mate ∈ W) (w_dun : .dun ∈ W)
    (w_flt : .flt ∈ W) (w_book : .book ∈ W) (w_regs : .regs ∈ W) (w_sram : .sram ∈ W) (s : State) (k_s : Keeps W s0 s) : Keeps W s0
    (applyVerified s) := by
  unfold applyVerified
  with_reducible repeat' first | assumption | exact Or.inl (by assumption) | exact Or.inr rfl | exact Or.inr ⟨rfl, rfl⟩
                               | exact Or.inr (NotBefore.same rfl rfl) | intro _ | apply keeps_applyDeltas | apply keeps_modMate
                               | apply keeps_domUpdate | apply keeps_ownerChanges | apply keeps_ledgerHw | apply Keeps.ite | dsimp only
                               | split

theorem keeps_loseEpoch {W : List Fld} {s0 : State} (w_pwr : .pwr ∈ W) (w_host : .host ∈ W) (w_led : .led ∈ W) (w_mate : .mate ∈ W) (w_flt
    : .flt ∈ W) (w_regs : .regs ∈ W) (s : State) (k_s : Keeps W s0 s) : Keeps W s0 (loseEpoch s) := by
  unfold loseEpoch
  with_reducible repeat' first | assumption | exact Or.inl (by assumption) | exact Or.inr rfl | exact Or.inr ⟨rfl, rfl⟩
                               | exact Or.inr (NotBefore.same rfl rfl) | intro _ | apply keeps_modMate | apply keeps_ledgerHw
                               | apply keeps_mateCauseAll | apply keeps_faultRaise

theorem keeps_settleGroups {W : List Fld} {s0 : State} (w_lt : .lt ∈ W) (w_pwr : .pwr ∈ W) (w_host : .host ∈ W) (w_led : .led ∈ W) (w_fab
    : .fab ∈ W) (w_prot : .prot ∈ W) (w_mate : .mate ∈ W) (w_flt : .flt ∈ W) (w_regs : .regs ∈ W) (lost : Bool) (s : State) (k_s : Keeps W
    s0 s) : Keeps W s0 (settleGroups lost s) := by
  unfold settleGroups
  with_reducible repeat' first | assumption | exact Or.inl (by assumption) | exact Or.inr rfl | exact Or.inr ⟨rfl, rfl⟩
                               | exact Or.inr (NotBefore.same rfl rfl) | intro _ | apply keeps_discardGroup | apply keeps_modMate
                               | apply Keeps.foldl | apply Keeps.foldl_snd | apply Keeps.ite | dsimp only | split | apply Keeps.upd

theorem keeps_takeSteps {W : List Fld} {s0 : State} (w_lt : .lt ∈ W) (w_pwr : .pwr ∈ W) (w_host : .host ∈ W) (w_led : .led ∈ W) (w_st :
    .st ∈ W) (w_dma : .dma ∈ W) (w_line : .line ∈ W) (w_fab : .fab ∈ W) (w_prot : .prot ∈ W) (w_mate : .mate ∈ W) (w_dun : .dun ∈ W)
    (w_flt : .flt ∈ W) (w_book : .book ∈ W) (w_regs : .regs ∈ W) (w_sram : .sram ∈ W) (cause : Nat) (lost : Bool) (s : State) (k_s : Keeps
    W s0 s) : Keeps W s0 (takeSteps cause lost s) := by
  unfold takeSteps
  with_reducible repeat' first | assumption | exact Or.inl (by assumption) | exact Or.inr rfl | exact Or.inr ⟨rfl, rfl⟩
                               | exact Or.inr (NotBefore.same rfl rfl) | intro _ | apply keeps_applyVerified | apply keeps_loseEpoch
                               | apply keeps_modMate | apply keeps_settleGroups | apply Keeps.ite | dsimp only | split | apply Keeps.upd

theorem keeps_takeEnd {W : List Fld} {s0 : State} (w_pwr : .pwr ∈ W) (w_host : .host ∈ W) (w_led : .led ∈ W) (w_prot : .prot ∈ W) (w_mate
    : .mate ∈ W) (w_flt : .flt ∈ W) (w_regs : .regs ∈ W) (w_stage : .stage ∈ W) (s : State) (k_s : Keeps W s0 s) : Keeps W s0 (takeEnd s) := by
  unfold takeEnd
  with_reducible repeat' first | assumption | exact Or.inl (by assumption) | exact Or.inr rfl | exact Or.inr ⟨rfl, rfl⟩
                               | exact Or.inr (NotBefore.same rfl rfl) | intro _ | apply keeps_serviceEntry | apply keeps_rearmAll
                               | apply keeps_mateCauseAll | apply keeps_holdState | apply Keeps.ite | dsimp only | split | apply Keeps.upd

theorem keeps_takeRein {W : List Fld} {s0 : State} (w_lt : .lt ∈ W) (w_pwr : .pwr ∈ W) (w_host : .host ∈ W) (w_led : .led ∈ W) (w_st : .st
    ∈ W) (w_dma : .dma ∈ W) (w_line : .line ∈ W) (w_fab : .fab ∈ W) (w_prot : .prot ∈ W) (w_mate : .mate ∈ W) (w_dun : .dun ∈ W) (w_flt :
    .flt ∈ W) (w_book : .book ∈ W) (w_regs : .regs ∈ W) (w_sram : .sram ∈ W) (w_stage : .stage ∈ W) (cause : Nat) (lost : Bool) (s :
    State) (k_s : Keeps W s0 s) : Keeps W s0 (takeRein cause lost s) := by
  unfold takeRein
  with_reducible repeat' first | assumption | exact Or.inl (by assumption) | exact Or.inr rfl | exact Or.inr ⟨rfl, rfl⟩
                               | exact Or.inr (NotBefore.same rfl rfl) | intro _ | apply keeps_newTerm | apply keeps_takeSteps
                               | apply keeps_takeEnd | apply keeps_ledgerHw | apply Keeps.ite

theorem keeps_takeReinBy {W : List Fld} {s0 : State} (w_lt : .lt ∈ W) (w_pwr : .pwr ∈ W) (w_host : .host ∈ W) (w_led : .led ∈ W) (w_st :
    .st ∈ W) (w_dma : .dma ∈ W) (w_line : .line ∈ W) (w_fab : .fab ∈ W) (w_prot : .prot ∈ W) (w_mate : .mate ∈ W) (w_dun : .dun ∈ W)
    (w_flt : .flt ∈ W) (w_book : .book ∈ W) (w_regs : .regs ∈ W) (w_sram : .sram ∈ W) (w_stage : .stage ∈ W) (a : Agent) (s : State) (k_s
    : Keeps W s0 s) : Keeps W s0 (takeReinBy a s) := by
  unfold takeReinBy
  with_reducible repeat' first | assumption | exact Or.inl (by assumption) | exact Or.inr rfl | exact Or.inr ⟨rfl, rfl⟩
                               | exact Or.inr (NotBefore.same rfl rfl) | intro _ | apply keeps_newTerm | apply keeps_takeSteps
                               | apply keeps_reinRecordBy | apply keeps_modMate | apply keeps_takeEnd | apply Keeps.ite
                               | refine KeepsO.of (by assumption) ?_ | apply KeepsO.getD | dsimp only | split | apply Keeps.upd

theorem keeps_takeBoundary {W : List Fld} {s0 : State} (w_lt : .lt ∈ W) (w_pwr : .pwr ∈ W) (w_host : .host ∈ W) (w_led : .led ∈ W) (w_st :
    .st ∈ W) (w_dma : .dma ∈ W) (w_line : .line ∈ W) (w_fab : .fab ∈ W) (w_prot : .prot ∈ W) (w_mate : .mate ∈ W) (w_dun : .dun ∈ W)
    (w_flt : .flt ∈ W) (w_book : .book ∈ W) (w_regs : .regs ∈ W) (w_sram : .sram ∈ W) (w_stage : .stage ∈ W) (s : State) (k_s : Keeps W s0
    s) : Keeps W s0 (takeBoundary s) := by
  unfold takeBoundary
  with_reducible repeat' first | assumption | exact Or.inl (by assumption) | exact Or.inr rfl | exact Or.inr ⟨rfl, rfl⟩
                               | exact Or.inr (NotBefore.same rfl rfl) | intro _ | apply keeps_modMate | apply keeps_takeReinBy
                               | apply keeps_takeRein | apply Keeps.ite | dsimp only | split

theorem keeps_closeEpoch {W : List Fld} {s0 : State} (w_host : .host ∈ W) (w_mate : .mate ∈ W) (w_regs : .regs ∈ W) (final : Bool) (s0z :
    State) (k_s0z : Keeps W s0 s0z) : Keeps W s0 (closeEpoch final s0z) := by
  unfold closeEpoch
  with_reducible repeat' first | assumption | exact Or.inl (by assumption) | exact Or.inr rfl | exact Or.inr ⟨rfl, rfl⟩
                               | exact Or.inr (NotBefore.same rfl rfl) | intro _ | apply keeps_queueWaiting | apply keeps_modMate
                               | apply keeps_mateCause0 | apply Keeps.ite | dsimp only | split

theorem keeps_offerBack {W : List Fld} {s0 : State} (w_mate : .mate ∈ W) (s : State) (k_s : Keeps W s0 s) : Keeps W s0 (offerBack s) := by
  unfold offerBack
  with_reducible repeat' first | assumption | exact Or.inl (by assumption) | exact Or.inr rfl | exact Or.inr ⟨rfl, rfl⟩
                               | exact Or.inr (NotBefore.same rfl rfl) | intro _ | apply keeps_modMate | apply Keeps.ite

theorem keeps_linkIdle {W : List Fld} {s0 : State} (w_mate : .mate ∈ W) (s : State) (k_s : Keeps W s0 s) : Keeps W s0 (linkIdle s) := by
  unfold linkIdle
  with_reducible repeat' first | assumption | exact Or.inl (by assumption) | exact Or.inr rfl | exact Or.inr ⟨rfl, rfl⟩
                               | exact Or.inr (NotBefore.same rfl rfl) | intro _ | apply keeps_modMate | apply Keeps.ite | dsimp only
                               | split | apply Keeps.upd

theorem keeps_mateStep1 {W : List Fld} {s0 : State} (w_pwr : .pwr ∈ W) (w_host : .host ∈ W) (w_led : .led ∈ W) (w_mate : .mate ∈ W)
    (w_regs : .regs ∈ W) (s0z : State) (k_s0z : Keeps W s0 s0z) : Keeps W s0 (mateStep1 s0z) := by
  unfold mateStep1
  with_reducible repeat' first | assumption | exact Or.inl (by assumption) | exact Or.inr rfl | exact Or.inr ⟨rfl, rfl⟩
                               | exact Or.inr (NotBefore.same rfl rfl) | intro _ | apply keeps_offerBack | apply keeps_linkIdle
                               | apply keeps_closeEpoch | apply keeps_linkSend | apply keeps_modMate | apply keeps_mateCauseAll
                               | apply keeps_setRein | apply Keeps.ite | dsimp only | split

theorem keeps_snapStart {W : List Fld} {s0 : State} (w_mate : .mate ∈ W) (s : State) (k_s : Keeps W s0 s) : Keeps W s0 (snapStart s) := by
  unfold snapStart
  with_reducible repeat' first | assumption | exact Or.inl (by assumption) | exact Or.inr rfl | exact Or.inr ⟨rfl, rfl⟩
                               | exact Or.inr (NotBefore.same rfl rfl) | intro _ | apply keeps_linkSend | apply keeps_modMate
                               | apply Keeps.ite

theorem keeps_heartbeatSend {W : List Fld} {s0 : State} (w_mate : .mate ∈ W) (s : State) (k_s : Keeps W s0 s) : Keeps W s0 (heartbeatSend
    s) := by
  unfold heartbeatSend
  with_reducible repeat' first | assumption | exact Or.inl (by assumption) | exact Or.inr rfl | exact Or.inr ⟨rfl, rfl⟩
                               | exact Or.inr (NotBefore.same rfl rfl) | intro _ | apply keeps_modMate | apply Keeps.ite

theorem keeps_mateCounts {W : List Fld} {s0 : State} (w_mate : .mate ∈ W) (cycle : Bool) (s : State) (k_s : Keeps W s0 s) : Keeps W s0
    (mateCounts cycle s) := by
  unfold mateCounts
  with_reducible repeat' first | assumption | exact Or.inl (by assumption) | exact Or.inr rfl | exact Or.inr ⟨rfl, rfl⟩
                               | exact Or.inr (NotBefore.same rfl rfl) | intro _ | apply keeps_modMate | apply Keeps.ite

theorem keeps_leaseCheck {W : List Fld} {s0 : State} (w_pwr : .pwr ∈ W) (w_host : .host ∈ W) (w_led : .led ∈ W) (w_mate : .mate ∈ W)
    (w_flt : .flt ∈ W) (w_regs : .regs ∈ W) (s : State) (k_s : Keeps W s0 s) : Keeps W s0 (leaseCheck s) := by
  unfold leaseCheck
  with_reducible repeat' first | assumption | exact Or.inl (by assumption) | exact Or.inr rfl | exact Or.inr ⟨rfl, rfl⟩
                               | exact Or.inr (NotBefore.same rfl rfl) | intro _ | apply keeps_faultRaise | apply keeps_mateCause0
                               | apply keeps_modMate | apply Keeps.ite

theorem keeps_listenDecide {W : List Fld} {s0 : State} (w_pwr : .pwr ∈ W) (w_host : .host ∈ W) (w_led : .led ∈ W) (w_mate : .mate ∈ W)
    (w_flt : .flt ∈ W) (w_regs : .regs ∈ W) (w_stage : .stage ∈ W) (s : State) (k_s : Keeps W s0 s) : Keeps W s0 (listenDecide s) := by
  unfold listenDecide
  with_reducible repeat' first | assumption | exact Or.inl (by assumption) | exact Or.inr rfl | exact Or.inr ⟨rfl, rfl⟩
                               | exact Or.inr (NotBefore.same rfl rfl) | intro _ | apply keeps_serviceEntry | apply keeps_mateCauseAll
                               | apply keeps_holdRein | apply keeps_modMate | apply keeps_listenStart | apply Keeps.ite | dsimp only
                               | split | apply Keeps.upd

theorem keeps_releaseDecide {W : List Fld} {s0 : State} (w_pwr : .pwr ∈ W) (w_host : .host ∈ W) (w_led : .led ∈ W) (w_mate : .mate ∈ W)
    (w_flt : .flt ∈ W) (w_regs : .regs ∈ W) (s : State) (k_s : Keeps W s0 s) : Keeps W s0 (releaseDecide s) := by
  unfold releaseDecide
  with_reducible repeat' first | assumption | exact Or.inl (by assumption) | exact Or.inr rfl | exact Or.inr ⟨rfl, rfl⟩
                               | exact Or.inr (NotBefore.same rfl rfl) | intro _ | apply keeps_faultRaise | apply keeps_mateCause0
                               | apply keeps_holdRein | apply keeps_modMate | apply Keeps.ite | dsimp only | split | apply Keeps.upd

theorem keeps_listenBoundary {W : List Fld} {s0 : State} (w_pwr : .pwr ∈ W) (w_host : .host ∈ W) (w_led : .led ∈ W) (w_mate : .mate ∈ W)
    (w_flt : .flt ∈ W) (w_regs : .regs ∈ W) (w_stage : .stage ∈ W) (s : State) (k_s : Keeps W s0 s) : Keeps W s0 (listenBoundary s) := by
  unfold listenBoundary
  with_reducible repeat' first | assumption | exact Or.inl (by assumption) | exact Or.inr rfl | exact Or.inr ⟨rfl, rfl⟩
                               | exact Or.inr (NotBefore.same rfl rfl) | intro _ | apply keeps_toStandby | apply keeps_listenDecide
                               | apply keeps_releaseDecide | apply Keeps.ite | dsimp only | split | apply Keeps.upd

theorem keeps_mateSlot {W : List Fld} {s0 : State} (w_lt : .lt ∈ W) (w_pwr : .pwr ∈ W) (w_host : .host ∈ W) (w_led : .led ∈ W) (w_st : .st
    ∈ W) (w_dma : .dma ∈ W) (w_line : .line ∈ W) (w_fab : .fab ∈ W) (w_prot : .prot ∈ W) (w_mate : .mate ∈ W) (w_dun : .dun ∈ W) (w_flt :
    .flt ∈ W) (w_book : .book ∈ W) (w_regs : .regs ∈ W) (w_sram : .sram ∈ W) (w_stage : .stage ∈ W) (s : State) (k_s : Keeps W s0 s) :
    Keeps W s0 (mateSlot s) := by
  unfold mateSlot
  with_reducible repeat' first | assumption | exact Or.inl (by assumption) | exact Or.inr rfl | exact Or.inr ⟨rfl, rfl⟩
                               | exact Or.inr (NotBefore.same rfl rfl) | intro _ | apply keeps_listenBoundary | apply keeps_leaseCheck
                               | apply keeps_takeBoundary | apply keeps_openEpoch | apply keeps_modMate | apply keeps_snapStart
                               | apply keeps_heartbeatSend | apply Keeps.ite

theorem keeps_pulseOut {W : List Fld} {s0 : State} (w_mate : .mate ∈ W) (s : State) (k_s : Keeps W s0 s) : Keeps W s0 (pulseOut s) := by
  unfold pulseOut
  with_reducible repeat' first | assumption | exact Or.inl (by assumption) | exact Or.inr rfl | exact Or.inr ⟨rfl, rfl⟩
                               | exact Or.inr (NotBefore.same rfl rfl) | intro _ | apply keeps_modMate

theorem keeps_hbAdopt {W : List Fld} {s0 : State} (w_lt : .lt ∈ W) (w_mate : .mate ∈ W) (hz : Heartbeat) (phase : Nat) (s : State) (k_s :
    Keeps W s0 s) : Keeps W s0 (hbAdopt hz phase s) := by
  unfold hbAdopt
  with_reducible repeat' first | assumption | exact Or.inl (by assumption) | exact Or.inr rfl | exact Or.inr ⟨rfl, rfl⟩
                               | exact Or.inr (NotBefore.same rfl rfl) | intro _ | apply keeps_modMate | apply Keeps.ite | dsimp only
                               | split | apply Keeps.upd

theorem keeps_hbCount {W : List Fld} {s0 : State} (w_pwr : .pwr ∈ W) (w_host : .host ∈ W) (w_led : .led ∈ W) (w_mate : .mate ∈ W) (w_flt :
    .flt ∈ W) (w_regs : .regs ∈ W) (hz : Heartbeat) (phase : Nat) (s : State) (k_s : Keeps W s0 s) : Keeps W s0 (hbCount hz phase s) := by
  unfold hbCount
  with_reducible repeat' first | assumption | exact Or.inl (by assumption) | exact Or.inr rfl | exact Or.inr ⟨rfl, rfl⟩
                               | exact Or.inr (NotBefore.same rfl rfl) | intro _ | apply keeps_modMate | apply keeps_faultRaise
                               | apply keeps_mateCause0 | apply keeps_syncLost | apply Keeps.ite

theorem keeps_hbRev {W : List Fld} {s0 : State} (w_pwr : .pwr ∈ W) (w_host : .host ∈ W) (w_led : .led ∈ W) (w_mate : .mate ∈ W) (w_flt :
    .flt ∈ W) (w_regs : .regs ∈ W) (hz : Heartbeat) (s : State) (k_s : Keeps W s0 s) : Keeps W s0 (hbRev hz s) := by
  unfold hbRev
  with_reducible repeat' first | assumption | exact Or.inl (by assumption) | exact Or.inr rfl | exact Or.inr ⟨rfl, rfl⟩
                               | exact Or.inr (NotBefore.same rfl rfl) | intro _ | apply keeps_modMate | apply keeps_faultRaise
                               | apply Keeps.ite

theorem keeps_hbRein {W : List Fld} {s0 : State} (w_pwr : .pwr ∈ W) (w_host : .host ∈ W) (w_led : .led ∈ W) (w_mate : .mate ∈ W) (w_flt :
    .flt ∈ W) (w_regs : .regs ∈ W) (hz : Heartbeat) (s : State) (k_s : Keeps W s0 s) : Keeps W s0 (hbRein hz s) := by
  unfold hbRein
  with_reducible repeat' first | assumption | exact Or.inl (by assumption) | exact Or.inr rfl | exact Or.inr ⟨rfl, rfl⟩
                               | exact Or.inr (NotBefore.same rfl rfl) | intro _ | apply keeps_modMate | apply keeps_faultRaise
                               | apply keeps_mateCause0 | apply keeps_toStandby | apply keeps_setRein | apply Keeps.ite | dsimp only
                               | split

theorem keeps_mateEnd {W : List Fld} {s0 : State} (w_mate : .mate ∈ W) (w_book : .book ∈ W) (seat code : Nat) (s : State) (k_s : Keeps W
    s0 s) : Keeps W s0 (mateEnd seat code s) := by
  unfold mateEnd
  with_reducible repeat' first | assumption | exact Or.inl (by assumption) | exact Or.inr rfl | exact Or.inr ⟨rfl, rfl⟩
                               | exact Or.inr (NotBefore.same rfl rfl) | intro _ | apply keeps_countOutcome | apply keeps_modMate

theorem keeps_mateAccept {W : List Fld} {s0 : State} (w_pwr : .pwr ∈ W) (w_host : .host ∈ W) (w_led : .led ∈ W) (w_mate : .mate ∈ W)
    (w_flt : .flt ∈ W) (w_book : .book ∈ W) (w_regs : .regs ∈ W) (a : Agent) (v : Nat) (f : State → Option State) (s : State) (k_f : ∀ y0,
    Keeps W s0 y0 → KeepsO W s0 (f y0)) (k_s : Keeps W s0 s) : Keeps W s0 (mateAccept a v f s).2 := by
  unfold mateAccept
  with_reducible repeat' first | assumption | exact Or.inl (by assumption) | exact Or.inr rfl | exact Or.inr ⟨rfl, rfl⟩
                               | exact Or.inr (NotBefore.same rfl rfl) | intro _ | apply k_f | apply keeps_ledgerMgmt
                               | apply keeps_mateEnd | apply Keeps.ite | refine Keeps.snd_of (by assumption) ?_
                               | refine KeepsO.of (by assumption) ?_ | apply KeepsO.getD | apply KeepsO.foldl | apply KeepsO.bind
                               | apply KeepsO.some | apply KeepsO.map | apply KeepsO.ite | dsimp only | split | apply Keeps.upd

theorem keeps_mateCommand {W : List Fld} {s0 : State} (w_pwr : .pwr ∈ W) (w_host : .host ∈ W) (w_led : .led ∈ W) (w_mate : .mate ∈ W)
    (w_flt : .flt ∈ W) (w_book : .book ∈ W) (w_regs : .regs ∈ W) (a : Agent) (v : Nat) (s : State) (k_s : Keeps W s0 s) : Keeps W s0
    (mateCommand a v s).2 := by
  unfold mateCommand
  with_reducible repeat' first | assumption | exact Or.inl (by assumption) | exact Or.inr rfl | exact Or.inr ⟨rfl, rfl⟩
                               | exact Or.inr (NotBefore.same rfl rfl) | intro _ | apply keeps_mateEnd | apply keeps_mateAccept
                               | apply keeps_modMate | apply keeps_standbyState | apply keeps_reinRecordBy | apply Keeps.ite
                               | refine Keeps.snd_of (by assumption) ?_ | refine KeepsO.of (by assumption) ?_ | apply KeepsO.getD
                               | apply KeepsO.foldl | apply KeepsO.bind | apply KeepsO.some | apply KeepsO.map | apply KeepsO.ite
                               | dsimp only | split | apply Keeps.upd

theorem keeps_mateCtlRecord {W : List Fld} {s0 : State} (w_pwr : .pwr ∈ W) (w_host : .host ∈ W) (w_led : .led ∈ W) (w_mate : .mate ∈ W)
    (w_flt : .flt ∈ W) (w_regs : .regs ∈ W) (a : Agent) (old new : Nat) (s : State) (k_s : Keeps W s0 s) : KeepsO W s0 (mateCtlRecord a
    old new s) := by
  unfold mateCtlRecord
  with_reducible repeat' first | assumption | exact Or.inl (by assumption) | exact Or.inr rfl | exact Or.inr ⟨rfl, rfl⟩
                               | exact Or.inr (NotBefore.same rfl rfl) | intro _ | apply keeps_reinRecordBy | apply keeps_newTerm
                               | exact KeepsO.none | apply KeepsO.some | apply KeepsO.map | apply KeepsO.ite | apply Keeps.ite
                               | refine KeepsO.of (by assumption) ?_ | apply KeepsO.getD | dsimp only | split | apply Keeps.upd

theorem keeps_mateCtlHook {W : List Fld} {s0 : State} (w_pwr : .pwr ∈ W) (w_host : .host ∈ W) (w_mate : .mate ∈ W) (w_regs : .regs ∈ W)
    (old new : Nat) (s : State) (k_s : Keeps W s0 s) : Keeps W s0 (mateCtlHook old new s) := by
  unfold mateCtlHook
  with_reducible repeat' first | assumption | exact Or.inl (by assumption) | exact Or.inr rfl | exact Or.inr ⟨rfl, rfl⟩
                               | exact Or.inr (NotBefore.same rfl rfl) | intro _ | apply keeps_domUpdate | apply keeps_reinChange
                               | apply keeps_linkDropEpoch | apply keeps_modMate | apply keeps_holdState | apply Keeps.ite | dsimp only
                               | split | apply Keeps.upd

theorem keeps_snapChunk {W : List Fld} {s0 : State} (w_lt : .lt ∈ W) (w_pwr : .pwr ∈ W) (w_host : .host ∈ W) (w_led : .led ∈ W) (w_st :
    .st ∈ W) (w_dma : .dma ∈ W) (w_line : .line ∈ W) (w_fab : .fab ∈ W) (w_prot : .prot ∈ W) (w_mate : .mate ∈ W) (w_dun : .dun ∈ W)
    (w_flt : .flt ∈ W) (w_book : .book ∈ W) (w_regs : .regs ∈ W) (w_sram : .sram ∈ W) (d : MateDelta) (s : State) (k_s : Keeps W s0 s) :
    Keeps W s0 (snapChunk d s) := by
  unfold snapChunk
  with_reducible repeat' first | assumption | exact Or.inl (by assumption) | exact Or.inr rfl | exact Or.inr ⟨rfl, rfl⟩
                               | exact Or.inr (NotBefore.same rfl rfl) | intro _ | apply keeps_modMate | apply keeps_ownerChanges
                               | apply keeps_applyDeltas | apply Keeps.ite

theorem keeps_epochDelta {W : List Fld} {s0 : State} (w_mate : .mate ∈ W) (d : MateDelta) (s : State) (k_s : Keeps W s0 s) : Keeps W s0
    (epochDelta d s) := by
  unfold epochDelta
  with_reducible repeat' first | assumption | exact Or.inl (by assumption) | exact Or.inr rfl | exact Or.inr ⟨rfl, rfl⟩
                               | exact Or.inr (NotBefore.same rfl rfl) | intro _ | apply keeps_modMate | apply Keeps.ite | dsimp only
                               | split

theorem keeps_snapFeed {W : List Fld} {s0 : State} (w_mate : .mate ∈ W) (room : Nat) (s : State) (k_s : Keeps W s0 s) : Keeps W s0
    (snapFeed room s) := by
  unfold snapFeed
  with_reducible repeat' first | assumption | exact Or.inl (by assumption) | exact Or.inr rfl | exact Or.inr ⟨rfl, rfl⟩
                               | exact Or.inr (NotBefore.same rfl rfl) | intro _ | apply keeps_linkSend | apply keeps_modMate
                               | apply Keeps.foldl | apply Keeps.foldl_snd | apply Keeps.ite | dsimp only | split | apply Keeps.upd

theorem keeps_composeStream {W : List Fld} {s0 : State} (w_mate : .mate ∈ W) (w_dun : .dun ∈ W) (s0z : State) (k_s0z : Keeps W s0 s0z) :
    Keeps W s0 (composeStream s0z) := by
  unfold composeStream
  with_reducible repeat' first | assumption | exact Or.inl (by assumption) | exact Or.inr rfl | exact Or.inr ⟨rfl, rfl⟩
                               | exact Or.inr (NotBefore.same rfl rfl) | intro _ | apply keeps_snapFeed | apply Keeps.foldl
                               | apply Keeps.foldl_snd | apply Keeps.ite | dsimp only | split | apply Keeps.upd

end Sys2Proof.Machine
end

