-- ==== Sys2Proof/Laws/Keeps/Power.lean ====
section
/-!
SUPPORT. The functions of Machine/Power.lean keep what every command keeps (`Keeps`).
-/
namespace Sys2Proof.Machine

open Sys2Proof

theorem keeps_clearAll {W : List Fld} {s0 : State} (all : ∀ f, f ≠ .freeCtr → f ∈ W) (s : State) (k_s : Keeps W s0 s) :
    Keeps W s0 (clearAll s) := by
  refine ⟨fun f x => ?_, fun _ => ⟨rfl, rfl, phase_zero⟩, k_s.queue, k_s.free⟩
  cases f <;> first | exact absurd (all _ (by decide)) x | exact k_s.frame _ x

theorem keeps_setRetCause {W : List Fld} {s0 : State} (w_pwr : .pwr ∈ W) (k : Nat) (s : State) (k_s : Keeps W s0 s) : Keeps W s0
    (setRetCause k s) := by
  unfold setRetCause
  with_reducible repeat' first | assumption | exact Or.inl (by assumption) | exact Or.inr rfl | exact Or.inr ⟨rfl, rfl⟩
                               | exact Or.inr (NotBefore.same rfl rfl) | intro _ | apply Keeps.ite | dsimp only | split | apply Keeps.upd

theorem keeps_goDark {W : List Fld} {s0 : State} (all : ∀ f, f ≠ .freeCtr → f ∈ W) (cause : Nat) (s : State) (k_s : Keeps W s0 s) : Keeps
    W s0 (goDark cause s) := by
  unfold goDark
  with_reducible repeat' first | assumption | exact Or.inl (all _ (by decide)) | exact Or.inr rfl | exact Or.inr ⟨rfl, rfl⟩
                               | exact Or.inr (NotBefore.same rfl rfl) | exact all _ (by decide) | exact all | intro _
                               | apply keeps_clearAll | apply keeps_setRetCause | apply keeps_immediateRelease
                               | exact Or.inr (NotBefore.of rfl (Nat.le_max_left _ _)) | exact phase_clip (by assumption)

theorem keeps_retentionCheck {W : List Fld} {s0 : State} (w_pwr : .pwr ∈ W) (s : State) (k_s : Keeps W s0 s) : Keeps W s0 (retentionCheck
    s) := by
  unfold retentionCheck
  with_reducible repeat' first | assumption | exact Or.inl (by assumption) | exact Or.inr rfl | exact Or.inr ⟨rfl, rfl⟩
                               | exact Or.inr (NotBefore.same rfl rfl) | intro _ | apply Keeps.ite | dsimp only | split | apply Keeps.upd

theorem keeps_safeDomains {W : List Fld} {s0 : State} (w_pwr : .pwr ∈ W) (s : State) (k_s : Keeps W s0 s) : Keeps W s0 (safeDomains s) := by
  unfold safeDomains
  with_reducible repeat' first | assumption | exact Or.inl (by assumption) | exact Or.inr rfl | exact Or.inr ⟨rfl, rfl⟩
                               | exact Or.inr (NotBefore.same rfl rfl) | intro _ | apply keeps_setDom | apply Keeps.foldl

theorem keeps_flipAll {W : List Fld} {s0 : State} (w_pwr : .pwr ∈ W) (w_host : .host ∈ W) (w_led : .led ∈ W) (w_line : .line ∈ W) (w_fab :
    .fab ∈ W) (w_mate : .mate ∈ W) (w_dun : .dun ∈ W) (w_cam : .cam ∈ W) (w_radio : .radio ∈ W) (w_mon : .mon ∈ W) (w_flt : .flt ∈ W)
    (w_regs : .regs ∈ W) (s : State) (k_s : Keeps W s0 s) : Keeps W s0 (flipAll s) := by
  unfold flipAll
  with_reducible repeat' first | assumption | exact Or.inl (by assumption) | exact Or.inr rfl | exact Or.inr ⟨rfl, rfl⟩
                               | exact Or.inr (NotBefore.same rfl rfl) | intro _ | apply keeps_portFlip | apply keeps_laneFlip
                               | apply keeps_gfpFlip | apply keeps_thermalFlip | apply keeps_radioFlip | apply keeps_camFlip
                               | apply keeps_fabFlip | apply keeps_dunteFlip | apply Keeps.foldUpto

theorem keeps_enterSafe {W : List Fld} {s0 : State} (w_pwr : .pwr ∈ W) (w_host : .host ∈ W) (w_led : .led ∈ W) (w_dma : .dma ∈ W) (w_line
    : .line ∈ W) (w_fab : .fab ∈ W) (w_mate : .mate ∈ W) (w_dun : .dun ∈ W) (w_cam : .cam ∈ W) (w_scan : .scan ∈ W) (w_radio : .radio ∈ W)
    (w_mon : .mon ∈ W) (w_flt : .flt ∈ W) (w_regs : .regs ∈ W) (w_stage : .stage ∈ W) (s : State) (k_s : Keeps W s0 s) : Keeps W s0
    (enterSafe s) := by
  unfold enterSafe
  with_reducible repeat' first | assumption | exact Or.inl (by assumption) | exact Or.inr rfl | exact Or.inr ⟨rfl, rfl⟩
                               | exact Or.inr (NotBefore.same rfl rfl) | intro _ | apply keeps_ledgerDrain | apply keeps_safeDomains
                               | apply keeps_setCauses | apply keeps_ledgerHw | apply keeps_setpointsOff | apply keeps_reportLoss
                               | apply keeps_setRein | apply keeps_faultRaiseAll | apply keeps_dmaRefill | apply keeps_flipAll
                               | apply keeps_domUpdate | apply keeps_rotStart | apply Keeps.ite | dsimp only | split | apply Keeps.upd

theorem keeps_regsFilter {W : List Fld} {s0 : State} (w_regs : .regs ∈ W) (s t : State) (p : Nat × Nat → Bool) (h : Keeps W s0 s)
    (k : Keeps W s0 t) : Keeps W s0 { t with regs := s.regs.filter p } := by
  refine ⟨fun f w => ?_, fun x => let y := h.sound x; let z := k.sound x; ⟨z.1, regsWfFrom_filter _ p y.2.1, z.2.2⟩, k.queue, k.free⟩
  have j := k.frame f w
  cases f <;> first | exact absurd w_regs w | exact j

theorem keeps_warmClear {W : List Fld} {s0 : State} (all : ∀ f, f ≠ .freeCtr → f ∈ W) (s : State) (k_s : Keeps W s0 s) :
    Keeps W s0 (warmClear s) := by
  have k := keeps_regsFilter (all _ (by decide)) s (clearAll s) (fun e => decide (0x7C0010 ≤ e.1 ∧ e.1 < 0x7C0030)) k_s (keeps_clearAll all s k_s)
  apply Keeps.upd k id <;> first | exact Or.inr rfl | exact Or.inr ⟨rfl, rfl⟩ | exact Or.inr (NotBefore.same rfl rfl) | exact Or.inl (all _ (by decide))

theorem keeps_ledgerSettle {W : List Fld} {s0 : State} (w_pwr : .pwr ∈ W) (w_host : .host ∈ W) (w_led : .led ∈ W) (w_regs : .regs ∈ W) (s
    : State) (k_s : Keeps W s0 s) : Keeps W s0 (ledgerSettle s) := by
  unfold ledgerSettle
  with_reducible repeat' first | assumption | exact Or.inl (by assumption) | exact Or.inr rfl | exact Or.inr ⟨rfl, rfl⟩
                               | exact Or.inr (NotBefore.same rfl rfl) | intro _ | apply keeps_sealDone | apply keeps_ledgerDrain
                               | apply Keeps.ite | dsimp only | split | apply Keeps.upd

theorem keeps_warmFire {W : List Fld} {s0 : State} (all : ∀ f, f ≠ .freeCtr → f ∈ W) (a : Agent) (s : State) (k_s : Keeps W s0 s) : Keeps
    W s0 (warmFire a s).2 := by
  unfold warmFire
  with_reducible repeat' first | assumption | exact Or.inl (all _ (by decide)) | exact Or.inr rfl | exact Or.inr ⟨rfl, rfl⟩
                               | exact Or.inr (NotBefore.same rfl rfl) | exact all _ (by decide) | exact all | intro _
                               | apply keeps_ledgerMgmt | apply keeps_stageEnd | apply keeps_warmClear | apply keeps_ledgerSettle
                               | apply keeps_setRetCause | apply keeps_immediateRelease | apply Keeps.ite
                               | refine Keeps.snd_of (by assumption) ?_ | refine KeepsO.of (by assumption) ?_ | apply KeepsO.getD
                               | dsimp only | split

theorem keeps_resetControl {W : List Fld} {s0 : State} (all : ∀ f, f ≠ .freeCtr → f ∈ W) (a : Agent) (v : Nat) (s : State) (k_s : Keeps W
    s0 s) : Keeps W s0 (resetControl a v s).2 := by
  unfold resetControl
  with_reducible repeat' first | assumption | exact Or.inl (all _ (by decide)) | exact Or.inr rfl | exact Or.inr ⟨rfl, rfl⟩
                               | exact Or.inr (NotBefore.same rfl rfl) | exact all _ (by decide) | exact all | intro _
                               | apply keeps_warmFire | apply Keeps.ite | refine Keeps.snd_of (by assumption) ?_ | dsimp only | split
                               | apply Keeps.upd

theorem keeps_bankLost {W : List Fld} {s0 : State} (w_mate : .mate ∈ W) (w_cam : .cam ∈ W) (w_scan : .scan ∈ W) (bank : Nat) (s : State)
    (k_s : Keeps W s0 s) : Keeps W s0 (bankLost bank s) := by
  unfold bankLost
  with_reducible repeat' first | assumption | exact Or.inl (by assumption) | exact Or.inr rfl | exact Or.inr ⟨rfl, rfl⟩
                               | exact Or.inr (NotBefore.same rfl rfl) | intro _ | apply keeps_modTrig | apply keeps_modScan
                               | apply keeps_modMate | apply Keeps.foldl | apply Keeps.foldl_snd | apply Keeps.ite | dsimp only | split
                               | apply Keeps.upd

end Sys2Proof.Machine
end

