-- ==== Sys2Proof/Laws/Keeps/RegWrite.lean ====
section
/-!
SUPPORT. The functions of Machine/RegWrite.lean keep what every command keeps (`Keeps`).
-/
namespace Sys2Proof.Machine

open Sys2Proof

theorem keeps_regHook {W : List Fld} {s0 : State} (w_lt : .lt ∈ W) (w_pwr : .pwr ∈ W) (w_host : .host ∈ W) (w_led : .led ∈ W) (w_st : .st
    ∈ W) (w_fab : .fab ∈ W) (w_mate : .mate ∈ W) (w_cam : .cam ∈ W) (w_scan : .scan ∈ W) (w_radio : .radio ∈ W) (w_mon : .mon ∈ W) (w_flt
    : .flt ∈ W) (w_book : .book ∈ W) (w_regs : .regs ∈ W) (a : Agent) (r : RegAt) (old new v0 : Nat) (s : State) (k_s : Keeps W s0 s) :
    Keeps W s0 (regHook a r old new v0 s) := by
  unfold regHook
  with_reducible repeat' first | assumption | exact Or.inl (by assumption) | exact Or.inr rfl | exact Or.inr ⟨rfl, rfl⟩
                               | exact Or.inr (NotBefore.same rfl rfl) | intro _ | apply keeps_clearEvents | apply keeps_refSelHook
                               | apply keeps_frameLoad | apply keeps_domUpdate | apply keeps_overcommitEval | apply keeps_stCtlHook
                               | apply keeps_mateCtlHook | apply keeps_rotDisable | apply keeps_crCfgHook | apply keeps_camCfgHook
                               | apply keeps_camCtlHook | apply keeps_scanCfgHook | apply keeps_lantHook | apply keeps_radioCfgHook
                               | apply keeps_radioPhyHook | apply keeps_fcOutHook | apply keeps_monCfgHook | apply keeps_monThHook
                               | apply keeps_shedForceHook | apply keeps_injectHook | apply keeps_spillCtlHook | apply keeps_notifyAll
                               | apply keeps_notify | apply Keeps.ite | dsimp only | split | apply Keeps.upd

theorem keeps_stagePart {W : List Fld} {s0 : State} (w_lt : .lt ∈ W) (w_pwr : .pwr ∈ W) (w_host : .host ∈ W) (w_led : .led ∈ W) (w_mate :
    .mate ∈ W) (w_flt : .flt ∈ W) (w_regs : .regs ∈ W) (a : Agent) (r : RegAt) (v : Nat) (s : State) (k_s : Keeps W s0 s) : Keeps W s0
    (stagePart a r v s).2 := by
  unfold stagePart
  with_reducible repeat' first | assumption | exact Or.inl (by assumption) | exact Or.inr rfl | exact Or.inr ⟨rfl, rfl⟩
                               | exact Or.inr (NotBefore.same rfl rfl) | intro _ | apply keeps_stageValue | apply Keeps.ite
                               | refine Keeps.snd_of (by assumption) ?_ | dsimp only | split

theorem keeps_recordPart {W : List Fld} {s0 : State} (w_pwr : .pwr ∈ W) (w_host : .host ∈ W) (w_led : .led ∈ W) (w_mate : .mate ∈ W)
    (w_flt : .flt ∈ W) (w_regs : .regs ∈ W) (a : Agent) (r : RegAt) (old new : Nat) (s : State) (k_s : Keeps W s0 s) : KeepsO W s0
    (recordPart a r old new s) := by
  unfold recordPart
  with_reducible repeat' first | assumption | exact Or.inl (by assumption) | exact Or.inr rfl | exact Or.inr ⟨rfl, rfl⟩
                               | exact Or.inr (NotBefore.same rfl rfl) | intro _ | apply keeps_ledgerMgmt | exact KeepsO.none
                               | apply KeepsO.some | apply KeepsO.map | apply KeepsO.ite

theorem keeps_regStore {W : List Fld} {s0 : State} (w_host : .host ∈ W) (w_regs : .regs ∈ W) (r : RegAt) (new : Nat) (s : State) (k_s :
    Keeps W s0 s) : Keeps W s0 (regStore r new s) := by
  unfold regStore
  with_reducible repeat' first | assumption | exact Or.inl (by assumption) | exact Or.inr rfl | exact Or.inr ⟨rfl, rfl⟩
                               | exact Or.inr (NotBefore.same rfl rfl) | intro _ | apply keeps_rset | apply Keeps.ite | dsimp only | split
                               | apply Keeps.upd

theorem keeps_regApply {W : List Fld} {s0 : State} (w_lt : .lt ∈ W) (w_pwr : .pwr ∈ W) (w_host : .host ∈ W) (w_led : .led ∈ W) (w_st : .st
    ∈ W) (w_fab : .fab ∈ W) (w_mate : .mate ∈ W) (w_cam : .cam ∈ W) (w_scan : .scan ∈ W) (w_radio : .radio ∈ W) (w_mon : .mon ∈ W) (w_flt
    : .flt ∈ W) (w_book : .book ∈ W) (w_regs : .regs ∈ W) (a : Agent) (r : RegAt) (v0 : Nat) (s : State) (k_s : Keeps W s0 s) : Keeps W s0
    (regApply a r v0 s).2 := by
  unfold regApply
  with_reducible repeat' first | assumption | exact Or.inl (by assumption) | exact Or.inr rfl | exact Or.inr ⟨rfl, rfl⟩
                               | exact Or.inr (NotBefore.same rfl rfl) | intro _ | apply keeps_stagePart | apply keeps_recordPart
                               | apply keeps_mateCtlRecord | apply keeps_regStore | apply keeps_mirrorReg | apply keeps_regHook
                               | apply Keeps.ite | refine Keeps.snd_of (by assumption) ?_ | refine KeepsO.of (by assumption) ?_
                               | apply KeepsO.getD | apply KeepsO.foldl | apply KeepsO.bind | apply KeepsO.some | apply KeepsO.map
                               | apply KeepsO.ite | dsimp only | split | apply Keeps.upd

theorem keeps_bistStart {W : List Fld} {s0 : State} (w_pwr : .pwr ∈ W) (w_host : .host ∈ W) (w_led : .led ∈ W) (w_mate : .mate ∈ W) (w_flt
    : .flt ∈ W) (w_regs : .regs ∈ W) (a : Agent) (r : RegAt) (v : Nat) (f : State → State) (s : State) (k_f : ∀ y0, Keeps W s0 y0 → Keeps
    W s0 (f y0)) (k_s : Keeps W s0 s) : Keeps W s0 (bistStart a r v f s).2 := by
  unfold bistStart
  with_reducible repeat' first | assumption | exact Or.inl (by assumption) | exact Or.inr rfl | exact Or.inr ⟨rfl, rfl⟩
                               | exact Or.inr (NotBefore.same rfl rfl) | intro _ | apply k_f | apply keeps_ledgerMgmt | apply Keeps.ite
                               | refine Keeps.snd_of (by assumption) ?_ | refine KeepsO.of (by assumption) ?_ | apply KeepsO.getD
                               | dsimp only | split

theorem keeps_keyWord {W : List Fld} {s0 : State} (w_pwr : .pwr ∈ W) (w_host : .host ∈ W) (w_led : .led ∈ W) (w_mate : .mate ∈ W) (w_flt :
    .flt ∈ W) (w_regs : .regs ∈ W) (a : Agent) (j v : Nat) (s : State) (k_s : Keeps W s0 s) : Keeps W s0 (keyWord a j v s).2 := by
  unfold keyWord
  with_reducible repeat' first | assumption | exact Or.inl (by assumption) | exact Or.inr rfl | exact Or.inr ⟨rfl, rfl⟩
                               | exact Or.inr (NotBefore.same rfl rfl) | intro _ | apply keeps_ledgerMgmt | apply keeps_setCauseP
                               | apply Keeps.ite | refine Keeps.snd_of (by assumption) ?_ | refine KeepsO.of (by assumption) ?_
                               | apply KeepsO.getD | dsimp only | split | apply Keeps.upd

theorem keeps_spillCons {W : List Fld} {s0 : State} (w_pwr : .pwr ∈ W) (w_host : .host ∈ W) (w_led : .led ∈ W) (w_mate : .mate ∈ W) (w_flt : .flt ∈ W) (w_regs : .regs ∈ W) (a : Agent) (v : Nat) (s : State) (k_s : Keeps W s0 s) : Keeps W s0 (spillCons a v s).2 := by
  unfold spillCons
  extract_lets ahead l s1
  have k1 : Keeps W s0 s1 := by
    apply Keeps.upd k_s id <;> first | exact Or.inr rfl | exact Or.inr ⟨rfl, rfl⟩ | exact Or.inr (NotBefore.same rfl rfl) | exact Or.inl (by assumption)
  clear_value ahead s1
  with_reducible repeat' first | assumption | apply keeps_discardCount | apply keeps_reportLoss | apply keeps_ledgerDrain
                               | apply keeps_releaseTo | apply Keeps.ite | split

theorem keeps_clearPathCounts {W : List Fld} {s0 : State} (w_host : .host ∈ W) (pk : Nat) (s : State) (k_s : Keeps W s0 s) : Keeps W s0
    (clearPathCounts pk s) := by
  unfold clearPathCounts
  with_reducible repeat' first | assumption | exact Or.inl (by assumption) | exact Or.inr rfl | exact Or.inr ⟨rfl, rfl⟩
                               | exact Or.inr (NotBefore.same rfl rfl) | intro _ | apply keeps_modPath

theorem keeps_clearOutcomes {W : List Fld} {s0 : State} (w_book : .book ∈ W) (seat : Nat) (s : State) (k_s : Keeps W s0 s) : Keeps W s0
    (clearOutcomes seat s) := by
  unfold clearOutcomes
  with_reducible repeat' first | assumption | exact Or.inl (by assumption) | exact Or.inr rfl | exact Or.inr ⟨rfl, rfl⟩
                               | exact Or.inr (NotBefore.same rfl rfl) | intro _ | apply Keeps.ite | dsimp only | split | apply Keeps.upd

theorem keeps_msixWrite {W : List Fld} {s0 : State} (w_host : .host ∈ W) (seat j v : Nat) (s : State) (k_s : Keeps W s0 s) : Keeps W s0
    (msixWrite seat j v s) := by
  unfold msixWrite
  with_reducible repeat' first | assumption | exact Or.inl (by assumption) | exact Or.inr rfl | exact Or.inr ⟨rfl, rfl⟩
                               | exact Or.inr (NotBefore.same rfl rfl) | intro _ | apply keeps_msixFlush | apply Keeps.ite | dsimp only
                               | split | apply Keeps.upd

theorem keeps_regCmdEnd {W : List Fld} {s0 : State}  (a : Agent) (s : State) (r : Nat × State) (k_s : Keeps W s0 s) (k_r : Keeps W s0 r.2)
    : Keeps W s0 (regCmdEnd a s r).2 := by
  unfold regCmdEnd
  with_reducible repeat' first | assumption | exact Or.inl (by assumption) | exact Or.inr rfl | exact Or.inr ⟨rfl, rfl⟩
                               | exact Or.inr (NotBefore.same rfl rfl) | intro _ | apply Keeps.ite
                               | refine Keeps.snd_of (by assumption) ?_ | dsimp only | split | apply Keeps.upd

theorem keeps_regCommand {W : List Fld} {s0 : State} (all : ∀ f, f ∈ W) (a : Agent) (r : RegAt) (v : Nat) (s : State) (k_s : Keeps W s0 s)
    : KeepsOP W s0 (regCommand a r v s) := by
  unfold regCommand
  with_reducible repeat' first | assumption | exact Or.inl (all _) | exact Or.inr rfl | exact Or.inr ⟨rfl, rfl⟩
                               | exact Or.inr (NotBefore.same rfl rfl) | exact all _ | exact fun f _ => all f | intro _
                               | apply keeps_clearPathCounts | apply keeps_regCmdEnd | apply keeps_stageControl | apply keeps_resetControl
                               | apply keeps_clearOutcomes | apply keeps_commitControl | apply keeps_calControl | apply keeps_msixWrite
                               | apply keeps_dmaCommand | apply keeps_stCommand | apply keeps_ctxWrite | apply keeps_eventSetWrite
                               | apply keeps_modPort | apply keeps_modLane | apply keeps_hostOverride | apply keeps_pxCommand
                               | apply keeps_mateCommand | apply keeps_hostRotCmd | apply keeps_ciCommand | apply keeps_scanCommand
                               | apply keeps_bistStart | apply keeps_scanBistOrder | apply keeps_radioCommand | apply keeps_radioBistOrder
                               | apply keeps_keyApply | apply keeps_nbrApply | apply keeps_firstClear | apply keeps_keyWord
                               | apply keeps_spillCons | apply keeps_rset | exact KeepsOP.none | apply KeepsOP.some | apply KeepsOP.ite
                               | apply Keeps.ite | refine Keeps.snd_of (by assumption) ?_ | dsimp only | split

theorem keeps_touch {W : List Fld} {s0 : State} (w_host : .host ∈ W) (w_regs : .regs ∈ W) (a : Agent) (next : Option (Nat × Nat)) (s :
    State) (k_s : Keeps W s0 s) : Keeps W s0 (touch a next s) := by
  unfold touch
  with_reducible repeat' first | assumption | exact Or.inl (by assumption) | exact Or.inr rfl | exact Or.inr ⟨rfl, rfl⟩
                               | exact Or.inr (NotBefore.same rfl rfl) | intro _ | apply keeps_pairMiss | apply Keeps.ite | dsimp only
                               | split

theorem keeps_setHeld {W : List Fld} {s0 : State} (w_host : .host ∈ W) (pk : Nat) (hz : Option (Nat × List Nat)) (s : State) (k_s : Keeps
    W s0 s) : Keeps W s0 (setHeld pk hz s) := by
  unfold setHeld
  with_reducible repeat' first | assumption | exact Or.inl (by assumption) | exact Or.inr rfl | exact Or.inr ⟨rfl, rfl⟩
                               | exact Or.inr (NotBefore.same rfl rfl) | intro _ | apply keeps_modPath

theorem keeps_multiWrite {W : List Fld} {s0 : State} (w_host : .host ∈ W) (w_regs : .regs ∈ W) (a : Agent) (key word words v : Nat) (f :
    Nat → State → Nat × State) (s : State) (k_f : ∀ y0 y1, Keeps W s0 y1 → Keeps W s0 (f y0 y1).2) (k_s : Keeps W s0 s) : Keeps W s0
    (multiWrite a key word words v f s).2 := by
  unfold multiWrite
  with_reducible repeat' first | assumption | exact Or.inl (by assumption) | exact Or.inr rfl | exact Or.inr ⟨rfl, rfl⟩
                               | exact Or.inr (NotBefore.same rfl rfl) | intro _ | apply k_f | apply keeps_pairMiss | apply keeps_setHeld
                               | apply Keeps.ite | refine Keeps.snd_of (by assumption) ?_ | dsimp only | split

theorem keeps_regWriteVal {W : List Fld} {s0 : State} (all : ∀ f, f ∈ W) (a : Agent) (r : RegAt) (v : Nat) (s : State) (k_s : Keeps W s0
    s) : Keeps W s0 (regWriteVal a r v s).2 := by
  unfold regWriteVal
  with_reducible repeat' first | assumption | exact Or.inl (all _) | exact Or.inr rfl | exact Or.inr ⟨rfl, rfl⟩
                               | exact Or.inr (NotBefore.same rfl rfl) | exact all _ | exact fun f _ => all f | intro _
                               | apply keeps_regCommand | apply keeps_regApply | apply Keeps.ite | refine Keeps.snd_of (by assumption) ?_
                               | refine KeepsOP.of (by assumption) ?_ | refine KeepsOP.snd (by assumption) ?_ | dsimp only | split

theorem keeps_dropKeyLoad {W : List Fld} {s0 : State} (w_led : .led ∈ W) (off : Nat) (s : State) (k_s : Keeps W s0 s) : Keeps W s0
    (dropKeyLoad off s) := by
  unfold dropKeyLoad
  with_reducible repeat' first | assumption | exact Or.inl (by assumption) | exact Or.inr rfl | exact Or.inr ⟨rfl, rfl⟩
                               | exact Or.inr (NotBefore.same rfl rfl) | intro _ | apply Keeps.ite | dsimp only | split | apply Keeps.upd

theorem keeps_regWrite {W : List Fld} {s0 : State} (all : ∀ f, f ∈ W) (a : Agent) (off v : Nat) (s0z : State) (k_s0z : Keeps W s0 s0z) :
    Keeps W s0 (regWrite a off v s0z).2 := by
  unfold regWrite
  with_reducible repeat' first | assumption | exact Or.inl (all _) | exact Or.inr rfl | exact Or.inr ⟨rfl, rfl⟩
                               | exact Or.inr (NotBefore.same rfl rfl) | exact all _ | exact fun f _ => all f | intro _
                               | apply keeps_dropKeyLoad | apply keeps_touch | apply keeps_multiWrite | apply keeps_regWriteVal
                               | apply Keeps.ite | refine Keeps.snd_of (by assumption) ?_ | dsimp only | split

end Sys2Proof.Machine
end

