-- ==== Sys2Proof/Laws/Keeps/SeatWindow.lean ====
section
/-!
SUPPORT. The functions of Machine/SeatWindow.lean keep what every command keeps (`Keeps`).
-/
namespace Sys2Proof.Machine

open Sys2Proof

theorem keeps_setLatch {W : List Fld} {s0 : State} (w_host : .host ∈ W) (pk key v : Nat) (s : State) (k_s : Keeps W s0 s) : Keeps W s0
    (setLatch pk key v s) := by
  unfold setLatch
  with_reducible repeat' first | assumption | exact Or.inl (by assumption) | exact Or.inr rfl | exact Or.inr ⟨rfl, rfl⟩
                               | exact Or.inr (NotBefore.same rfl rfl) | intro _ | apply keeps_modPath

theorem keeps_latchedWord {W : List Fld} {s0 : State} (w_host : .host ∈ W) (pk key word v : Nat) (s : State) (k_s : Keeps W s0 s) : Keeps
    W s0 (latchedWord pk key word v s).2 := by
  unfold latchedWord
  with_reducible repeat' first | assumption | exact Or.inl (by assumption) | exact Or.inr rfl | exact Or.inr ⟨rfl, rfl⟩
                               | exact Or.inr (NotBefore.same rfl rfl) | intro _ | apply keeps_setLatch | apply Keeps.ite
                               | refine Keeps.snd_of (by assumption) ?_ | dsimp only | split

theorem keeps_regRead {W : List Fld} {s0 : State} (w_host : .host ∈ W) (w_regs : .regs ∈ W) (a : Agent) (off : Nat) (s0z : State) (k_s0z :
    Keeps W s0 s0z) : Keeps W s0 (regRead a off s0z).2 := by
  unfold regRead
  with_reducible repeat' first | assumption | exact Or.inl (by assumption) | exact Or.inr rfl | exact Or.inr ⟨rfl, rfl⟩
                               | exact Or.inr (NotBefore.same rfl rfl) | intro _ | apply keeps_touch | apply keeps_latchedWord
                               | apply Keeps.ite | refine Keeps.snd_of (by assumption) ?_ | dsimp only | split

theorem keeps_objRead {W : List Fld} {s0 : State} (w_host : .host ∈ W) (w_regs : .regs ∈ W) (a : Agent) (addr : Nat) (s0z : State) (k_s0z
    : Keeps W s0 s0z) : Keeps W s0 (objRead a addr s0z).2 := by
  unfold objRead
  with_reducible repeat' first | assumption | exact Or.inl (by assumption) | exact Or.inr rfl | exact Or.inr ⟨rfl, rfl⟩
                               | exact Or.inr (NotBefore.same rfl rfl) | intro _ | apply keeps_touch | apply keeps_latchedWord
                               | apply Keeps.ite | refine Keeps.snd_of (by assumption) ?_ | dsimp only | split

theorem keeps_objWrite {W : List Fld} {s0 : State} (w_lt : .lt ∈ W) (w_pwr : .pwr ∈ W) (w_host : .host ∈ W) (w_led : .led ∈ W) (w_fab :
    .fab ∈ W) (w_prot : .prot ∈ W) (w_mate : .mate ∈ W) (w_flt : .flt ∈ W) (w_regs : .regs ∈ W) (a : Agent) (addr v : Nat) (s0z : State)
    (k_s0z : Keeps W s0 s0z) : Keeps W s0 (objWrite a addr v s0z).2 := by
  unfold objWrite
  generalize (addr - 0x200000) / 8 = n
  with_reducible repeat' first | assumption | exact Or.inl (by assumption) | exact Or.inr rfl | exact Or.inr ⟨rfl, rfl⟩
                               | exact Or.inr (NotBefore.same rfl rfl) | intro _ | apply keeps_touch | apply keeps_multiWrite
                               | apply keeps_stageConn | apply keeps_protWrite | apply Keeps.ite | refine Keeps.snd_of (by assumption) ?_
                               | refine KeepsOP.of (by assumption) ?_ | refine KeepsOP.snd (by assumption) ?_ | dsimp only | split

theorem keeps_memRead {W : List Fld} {s0 : State} (w_host : .host ∈ W) (w_regs : .regs ∈ W) (a : Agent) (off n : Nat) (s0z : State) (k_s0z
    : Keeps W s0 s0z) : Keeps W s0 (memRead a off n s0z).2 := by
  unfold memRead
  with_reducible repeat' first | assumption | exact Or.inl (by assumption) | exact Or.inr rfl | exact Or.inr ⟨rfl, rfl⟩
                               | exact Or.inr (NotBefore.same rfl rfl) | intro _ | apply keeps_touch

theorem keeps_putBytes {W : List Fld} {s0 : State} (w_sram : .sram ∈ W) (p n be v : Nat) (s : State) (k_s : Keeps W s0 s) : Keeps W s0
    (putBytes p n be v s) := by
  unfold putBytes
  with_reducible repeat' first | assumption | exact Or.inl (by assumption) | exact Or.inr rfl | exact Or.inr ⟨rfl, rfl⟩
                               | exact Or.inr (NotBefore.same rfl rfl) | intro _ | apply keeps_sramSet | apply Keeps.foldUpto
                               | apply Keeps.ite

theorem keeps_memWrite {W : List Fld} {s0 : State} (w_host : .host ∈ W) (w_mate : .mate ∈ W) (w_regs : .regs ∈ W) (w_sram : .sram ∈ W) (a
    : Agent) (off n be v : Nat) (s0z : State) (k_s0z : Keeps W s0 s0z) : Keeps W s0 (memWrite a off n be v s0z).2 := by
  unfold memWrite
  with_reducible repeat' first | assumption | exact Or.inl (by assumption) | exact Or.inr rfl | exact Or.inr ⟨rfl, rfl⟩
                               | exact Or.inr (NotBefore.same rfl rfl) | intro _ | apply keeps_touch | apply keeps_mirrorSram
                               | apply keeps_putBytes | apply Keeps.ite | refine Keeps.snd_of (by assumption) ?_ | dsimp only | split

theorem keeps_seatRead {W : List Fld} {s0 : State} (w_host : .host ∈ W) (w_regs : .regs ∈ W) (a : Agent) (off : Nat) (s : State) (k_s :
    Keeps W s0 s) : Keeps W s0 (seatRead a off s).2 := by
  unfold seatRead
  with_reducible repeat' first | assumption | exact Or.inl (by assumption) | exact Or.inr rfl | exact Or.inr ⟨rfl, rfl⟩
                               | exact Or.inr (NotBefore.same rfl rfl) | intro _ | apply keeps_objRead | apply keeps_memRead
                               | apply keeps_regRead | apply Keeps.ite | refine Keeps.snd_of (by assumption) ?_ | dsimp only | split

theorem keeps_seatWrite {W : List Fld} {s0 : State} (all : ∀ f, f ∈ W) (a : Agent) (off be v : Nat) (s : State) (k_s : Keeps W s0 s) :
    Keeps W s0 (seatWrite a off be v s).2 := by
  unfold seatWrite
  with_reducible repeat' first | assumption | exact Or.inl (all _) | exact Or.inr rfl | exact Or.inr ⟨rfl, rfl⟩
                               | exact Or.inr (NotBefore.same rfl rfl) | exact all _ | exact fun f _ => all f | intro _
                               | apply keeps_objWrite | apply keeps_dropKeyLoad | apply keeps_memWrite | apply keeps_regWrite
                               | apply Keeps.ite | refine Keeps.snd_of (by assumption) ?_ | dsimp only | split

theorem keeps_endWrite {W : List Fld} {s0 : State} (w_host : .host ∈ W) (w_book : .book ∈ W) (w_regs : .regs ∈ W) (a : Agent) (off : Nat)
    (r : Option Nat × State) (k_r : Keeps W s0 r.2) : Keeps W s0 (endWrite a off r) := by
  unfold endWrite
  with_reducible repeat' first | assumption | exact Or.inl (by assumption) | exact Or.inr rfl | exact Or.inr ⟨rfl, rfl⟩
                               | exact Or.inr (NotBefore.same rfl rfl) | intro _ | apply keeps_notFitted | apply keeps_hostEnd
                               | apply Keeps.ite | dsimp only | split

theorem keeps_endRead {W : List Fld} {s0 : State} (w_host : .host ∈ W) (w_regs : .regs ∈ W) (a : Agent) (off : Nat) (r : Option Nat ×
    State) (k_r : Keeps W s0 r.2) : Keeps W s0 (endRead a off r).2 := by
  unfold endRead
  with_reducible repeat' first | assumption | exact Or.inl (by assumption) | exact Or.inr rfl | exact Or.inr ⟨rfl, rfl⟩
                               | exact Or.inr (NotBefore.same rfl rfl) | intro _ | apply keeps_notFitted | apply Keeps.ite
                               | refine Keeps.snd_of (by assumption) ?_ | dsimp only | split

theorem keeps_hostWrite {W : List Fld} {s0 : State} (all : ∀ f, f ∈ W) (a : Agent) (off be v : Nat) (s : State) (k_s : Keeps W s0 s) :
    Keeps W s0 (hostWrite a off be v s) := by
  unfold hostWrite
  with_reducible repeat' first | assumption | exact Or.inl (all _) | exact Or.inr rfl | exact Or.inr ⟨rfl, rfl⟩
                               | exact Or.inr (NotBefore.same rfl rfl) | exact all _ | exact fun f _ => all f | intro _
                               | apply keeps_endWrite | apply keeps_seatWrite | apply Keeps.ite

theorem keeps_hostRead {W : List Fld} {s0 : State} (w_host : .host ∈ W) (w_regs : .regs ∈ W) (a : Agent) (off : Nat) (s : State) (k_s :
    Keeps W s0 s) : Keeps W s0 (hostRead a off s).2 := by
  unfold hostRead
  with_reducible repeat' first | assumption | exact Or.inl (by assumption) | exact Or.inr rfl | exact Or.inr ⟨rfl, rfl⟩
                               | exact Or.inr (NotBefore.same rfl rfl) | intro _ | apply keeps_endRead | apply keeps_seatRead
                               | apply Keeps.ite | refine Keeps.snd_of (by assumption) ?_ | dsimp only | split

theorem keeps_rowDone {W : List Fld} {s0 : State} (all : ∀ f, f ∈ W) (w : HostWho) (off v : Nat) (s : State) (k_s : Keeps W s0 s) : Keeps
    W s0 (rowDone w off v s) := by
  unfold rowDone
  with_reducible repeat' first | assumption | exact Or.inl (all _) | exact Or.inr rfl | exact Or.inr ⟨rfl, rfl⟩
                               | exact Or.inr (NotBefore.same rfl rfl) | exact all _ | exact fun f _ => all f | intro _
                               | apply keeps_hostWrite | apply Keeps.ite

theorem keeps_hostWords {W : List Fld} {s0 : State} (all : ∀ f, f ∈ W) (a : Agent) (off : Nat) (x2 : List Nat) (x3 : State) (k_x3 : Keeps
    W s0 x3) : Keeps W s0 (hostWords a off x2 x3) := by
  induction x2 generalizing a off x3 k_x3 with
  | nil =>
    unfold hostWords
    with_reducible repeat' first | assumption | exact Or.inl (all _) | exact Or.inr rfl | exact Or.inr ⟨rfl, rfl⟩
                                 | exact Or.inr (NotBefore.same rfl rfl) | exact all _ | exact fun f _ => all f | intro _
                                 | apply keeps_hostWrite | apply Keeps.ite | dsimp only | split | apply Keeps.upd
  | cons hd tl ih =>
    unfold hostWords
    with_reducible repeat' first | assumption | apply ih | exact Or.inl (all _) | exact Or.inr rfl | exact Or.inr ⟨rfl, rfl⟩
                                 | exact Or.inr (NotBefore.same rfl rfl) | exact all _ | exact fun f _ => all f | intro _
                                 | apply keeps_hostWrite | apply Keeps.ite | dsimp only | split | apply Keeps.upd

end Sys2Proof.Machine
end

