-- ==== Sys2Proof/Laws/Keeps/Issue.lean ====
section
/-!
SUPPORT. The functions of Machine/Issue.lean keep what every command keeps (`Keeps`).
-/
namespace Sys2Proof.Machine

open Sys2Proof

theorem keeps_calAction {W : List Fld} {s0 : State} (w_host : .host ∈ W) (w_st : .st ∈ W) (w_dma : .dma ∈ W) (w_mate : .mate ∈ W) (w_cam :
    .cam ∈ W) (w_scan : .scan ∈ W) (w_radio : .radio ∈ W) (w_mon : .mon ∈ W) (w_book : .book ∈ W) (w_regs : .regs ∈ W) (w_sram : .sram ∈
    W) (i : Nat) (ez : CalEntry) (s : State) (k_s : Keeps W s0 s) : Keeps W s0 (calAction i ez s).2 := by
  unfold calAction
  with_reducible repeat' first | assumption | exact Or.inl (by assumption) | exact Or.inr rfl | exact Or.inr ⟨rfl, rfl⟩
                               | exact Or.inr (NotBefore.same rfl rfl) | intro _ | apply keeps_calStartStrand | apply keeps_setEvent
                               | apply keeps_dmaStartBy | apply keeps_trigRequest | apply keeps_calStrobe | apply keeps_calBeacon
                               | apply keeps_calSettle | apply Keeps.ite | refine Keeps.snd_of (by assumption) ?_ | dsimp only | split

theorem keeps_calIssue {W : List Fld} {s0 : State} (w_lt : .lt ∈ W) (w_host : .host ∈ W) (w_st : .st ∈ W) (w_dma : .dma ∈ W) (w_mate :
    .mate ∈ W) (w_cam : .cam ∈ W) (w_scan : .scan ∈ W) (w_radio : .radio ∈ W) (w_mon : .mon ∈ W) (w_book : .book ∈ W) (w_regs : .regs ∈ W)
    (w_sram : .sram ∈ W) (i : Nat) (s : State) (k_s : Keeps W s0 s) : Keeps W s0 (calIssue i s) := by
  unfold calIssue
  with_reducible repeat' first | assumption | exact Or.inl (by assumption) | exact Or.inr rfl | exact Or.inr ⟨rfl, rfl⟩
                               | exact Or.inr (NotBefore.same rfl rfl) | intro _ | apply keeps_mirrorCal | apply keeps_setCal
                               | apply keeps_setCause | apply keeps_calAction | apply keeps_calFailed | apply Keeps.ite
                               | refine Keeps.snd_of (by assumption) ?_ | dsimp only | split

theorem keeps_calBoundary {W : List Fld} {s0 : State} (w_lt : .lt ∈ W) (w_host : .host ∈ W) (w_st : .st ∈ W) (w_dma : .dma ∈ W) (w_mate :
    .mate ∈ W) (w_cam : .cam ∈ W) (w_scan : .scan ∈ W) (w_radio : .radio ∈ W) (w_mon : .mon ∈ W) (w_book : .book ∈ W) (w_regs : .regs ∈ W)
    (w_sram : .sram ∈ W) (s : State) (k_s : Keeps W s0 s) : Keeps W s0 (calBoundary s) := by
  unfold calBoundary
  with_reducible repeat' first | assumption | exact Or.inl (by assumption) | exact Or.inr rfl | exact Or.inr ⟨rfl, rfl⟩
                               | exact Or.inr (NotBefore.same rfl rfl) | intro _ | apply keeps_calIssue | apply Keeps.foldl
                               | apply Keeps.foldl_snd | apply Keeps.ite

end Sys2Proof.Machine
end

