-- ==== Sys2Proof/Laws/Keeps/Boundary.lean ====
section
/-!
SUPPORT. The functions of Machine/Boundary.lean keep what every command keeps (`Keeps`).
-/
namespace Sys2Proof.Machine

open Sys2Proof

theorem keeps_rotBoundary {W : List Fld} {s0 : State} (w_fab : .fab ∈ W) (old : Nat) (s : State) (k_s : Keeps W s0 s) : Keeps W s0
    (rotBoundary old s) := by
  unfold rotBoundary
  with_reducible repeat' first | assumption | exact Or.inl (by assumption) | exact Or.inr rfl | exact Or.inr ⟨rfl, rfl⟩
                               | exact Or.inr (NotBefore.same rfl rfl) | intro _ | apply keeps_rotStart | apply keeps_freeDecision
                               | apply Keeps.ite

theorem keeps_boundarySteps {W : List Fld} {s0 : State} (w_lt : .lt ∈ W) (w_pwr : .pwr ∈ W) (w_host : .host ∈ W) (w_led : .led ∈ W) (w_st
    : .st ∈ W) (w_dma : .dma ∈ W) (w_line : .line ∈ W) (w_fab : .fab ∈ W) (w_prot : .prot ∈ W) (w_mate : .mate ∈ W) (w_dun : .dun ∈ W)
    (w_cam : .cam ∈ W) (w_scan : .scan ∈ W) (w_radio : .radio ∈ W) (w_mon : .mon ∈ W) (w_flt : .flt ∈ W) (w_book : .book ∈ W) (w_regs :
    .regs ∈ W) (w_sram : .sram ∈ W) (before : State) (ready : List Nat) (s : State) (k_before : Keeps W s0 before) (k_s : Keeps W s0 s) :
    Keeps W s0 (boundarySteps before ready s) := by
  unfold boundarySteps
  with_reducible repeat' first | assumption | exact Or.inl (by assumption) | exact Or.inr rfl | exact Or.inr ⟨rfl, rfl⟩
                               | exact Or.inr (NotBefore.same rfl rfl) | intro _ | apply keeps_applyVerified | apply keeps_landDue
                               | apply keeps_domUpdate | apply keeps_ownerChanges | apply keeps_landMaps | apply keeps_applyCopies
                               | apply keeps_protApply | apply keeps_shadowSync | apply keeps_selectorsSettle | apply keeps_pageSwap
                               | apply keeps_tileStep8 | apply keeps_proofStep7 | apply keeps_boundaryWake | apply keeps_calBoundary
                               | apply Keeps.foldUpto | apply Keeps.ite

theorem keeps_statusStep {W : List Fld} {s0 : State} (w_pwr : .pwr ∈ W) (w_host : .host ∈ W) (w_led : .led ∈ W) (w_dma : .dma ∈ W) (w_line : .line ∈ W) (w_fab :
    .fab ∈ W) (w_mate : .mate ∈ W) (w_dun : .dun ∈ W) (w_cam : .cam ∈ W) (w_radio : .radio ∈ W) (w_mon : .mon ∈ W) (w_flt : .flt ∈ W)
    (w_regs : .regs ∈ W) (old : Nat) (s : State) (k_s : Keeps W s0 s) :
    Keeps W s0 (statusStep old s) := by
  unfold statusStep
  extract_lets f taken tick skip s00 s1 s2 s3 s4
  have k00 : Keeps W s0 s00 := Keeps.foldUpto (Keeps.foldUpto k_s (fun k t h => by apply keeps_portWindows <;> assumption))
    (fun k t h => by apply keeps_laneWindow <;> assumption)
  clear_value s00
  have k1 : Keeps W s0 s1 := by apply keeps_flipAll <;> assumption
  clear_value s1
  have k2 : Keeps W s0 s2 := by
    with_reducible repeat' first | assumption | apply keeps_dmaRefill | apply Keeps.ite
  clear_value s2
  have k3 : Keeps W s0 s3 := by
    with_reducible repeat' first | assumption | apply keeps_stripeStep | apply Keeps.ite
  clear_value s3
  have k4 : Keeps W s0 s4 := Keeps.foldUpto k3 (fun k t h => by apply keeps_laneTxBoundary <;> assumption)
  clear_value s4
  apply Keeps.ite _ k4
  apply Keeps.upd k4 id <;> first | exact Or.inr rfl | exact Or.inr ⟨rfl, rfl⟩ | exact Or.inr (NotBefore.same rfl rfl) | exact Or.inl (by assumption)

theorem keeps_cycleStep {W : List Fld} {s0 : State} (w_lt : .lt ∈ W) (w_pwr : .pwr ∈ W) (w_host : .host ∈ W) (w_led : .led ∈ W) (w_st :
    .st ∈ W) (w_dma : .dma ∈ W) (w_line : .line ∈ W) (w_fab : .fab ∈ W) (w_prot : .prot ∈ W) (w_mate : .mate ∈ W) (w_dun : .dun ∈ W)
    (w_flt : .flt ∈ W) (w_book : .book ∈ W) (w_regs : .regs ∈ W) (w_sram : .sram ∈ W) (w_stage : .stage ∈ W) (taken : Bool) (s : State)
    (k_s : Keeps W s0 s) : Keeps W s0 (cycleStep taken s) := by
  unfold cycleStep
  with_reducible repeat' first | assumption | exact Or.inl (by assumption) | exact Or.inr rfl | exact Or.inr ⟨rfl, rfl⟩
                               | exact Or.inr (NotBefore.same rfl rfl) | intro _ | apply keeps_mateCounts | apply keeps_mateStep1
                               | apply keeps_stageBoundary | apply keeps_pulseOut | apply keeps_mateSlot | apply Keeps.ite

end Sys2Proof.Machine
end

