-- ==== Sys2Proof/Laws/Keeps/HostRows.lean ====
section
/-!
SUPPORT. The functions of Machine/HostRows.lean keep what every command keeps (`Keeps`).
-/
namespace Sys2Proof.Machine

open Sys2Proof

theorem keeps_modHost {W : List Fld} {s0 : State} (w_host : .host ∈ W) (f : HostState → HostState) (s : State) (k_s : Keeps W s0 s) :
    Keeps W s0 (modHost f s) := by
  unfold modHost
  with_reducible repeat' first | assumption | exact Or.inl (by assumption) | exact Or.inr rfl | exact Or.inr ⟨rfl, rfl⟩
                               | exact Or.inr (NotBefore.same rfl rfl) | intro _ | apply Keeps.ite | dsimp only | split | apply Keeps.upd

theorem keeps_modFn {W : List Fld} {s0 : State} (w_host : .host ∈ W) (n : Nat) (f : PcieFn → PcieFn) (s : State) (k_s : Keeps W s0 s) :
    Keeps W s0 (modFn n f s) := by
  unfold modFn
  with_reducible repeat' first | assumption | exact Or.inl (by assumption) | exact Or.inr rfl | exact Or.inr ⟨rfl, rfl⟩
                               | exact Or.inr (NotBefore.same rfl rfl) | intro _ | apply keeps_modHost

theorem keeps_returned {W : List Fld} {s0 : State} (w_host : .host ∈ W) (ws : List Nat) (s : State) (k_s : Keeps W s0 s) : Keeps W s0
    (returned ws s) := by
  unfold returned
  with_reducible repeat' first | assumption | exact Or.inl (by assumption) | exact Or.inr rfl | exact Or.inr ⟨rfl, rfl⟩
                               | exact Or.inr (NotBefore.same rfl rfl) | intro _ | apply keeps_modHost

theorem keeps_hostReads {W : List Fld} {s0 : State} (w_host : .host ∈ W) (w_regs : .regs ∈ W) (a : Agent) (off x2 : Nat) (x3 : State)
    (k_x3 : Keeps W s0 x3) : Keeps W s0 (hostReads a off x2 x3).2 := by
  induction x2 generalizing a off x3 k_x3 with
  | zero =>
    unfold hostReads
    with_reducible repeat' first | assumption | exact Or.inl (by assumption) | exact Or.inr rfl | exact Or.inr ⟨rfl, rfl⟩
                                 | exact Or.inr (NotBefore.same rfl rfl) | intro _ | apply keeps_hostRead | apply Keeps.ite
                                 | refine Keeps.snd_of (by assumption) ?_ | dsimp only | split | apply Keeps.upd
  | succ m ih =>
    unfold hostReads
    with_reducible repeat' first | assumption | apply ih | exact Or.inl (by assumption) | exact Or.inr rfl | exact Or.inr ⟨rfl, rfl⟩
                                 | exact Or.inr (NotBefore.same rfl rfl) | intro _ | apply keeps_hostRead | apply Keeps.ite
                                 | refine Keeps.snd_of (by assumption) ?_ | dsimp only | split | apply Keeps.upd

theorem keeps_hostWriteBe {W : List Fld} {s0 : State} (all : ∀ f, f ∈ W) (a : Agent) (off be v : Nat) (s : State) (k_s : Keeps W s0 s) :
    Keeps W s0 (hostWriteBe a off be v s) := by
  unfold hostWriteBe
  with_reducible repeat' first | assumption | exact Or.inl (all _) | exact Or.inr rfl | exact Or.inr ⟨rfl, rfl⟩
                               | exact Or.inr (NotBefore.same rfl rfl) | exact all _ | exact fun f _ => all f | intro _
                               | apply keeps_hostWrite | apply keeps_discardCount | apply keeps_touch | apply keeps_dropKeyLoad
                               | apply Keeps.ite

theorem keeps_pcieWrites {W : List Fld} {s0 : State} (all : ∀ f, f ∈ W) (a : Agent) (r : PcieReq) (n x3 : Nat) (x4 : List (BitVec 32)) (x5
    : State) (k_x5 : Keeps W s0 x5) : Keeps W s0 (pcieWrites a r n x3 x4 x5) := by
  induction x4 generalizing a r n x3 x5 k_x5 with
  | nil =>
    unfold pcieWrites
    with_reducible repeat' first | assumption | exact Or.inl (all _) | exact Or.inr rfl | exact Or.inr ⟨rfl, rfl⟩
                                 | exact Or.inr (NotBefore.same rfl rfl) | exact all _ | exact fun f _ => all f | intro _
                                 | apply keeps_hostWriteBe | apply Keeps.ite | dsimp only | split | apply Keeps.upd
  | cons hd tl ih =>
    unfold pcieWrites
    with_reducible repeat' first | assumption | apply ih | exact Or.inl (all _) | exact Or.inr rfl | exact Or.inr ⟨rfl, rfl⟩
                                 | exact Or.inr (NotBefore.same rfl rfl) | exact all _ | exact fun f _ => all f | intro _
                                 | apply keeps_hostWriteBe | apply Keeps.ite | dsimp only | split | apply Keeps.upd

theorem keeps_setMsix {W : List Fld} {s0 : State} (w_host : .host ∈ W) (n : Nat) (enable mask : Bool) (s : State) (k_s : Keeps W s0 s) :
    Keeps W s0 (setMsix n enable mask s) := by
  unfold setMsix
  with_reducible repeat' first | assumption | exact Or.inl (by assumption) | exact Or.inr rfl | exact Or.inr ⟨rfl, rfl⟩
                               | exact Or.inr (NotBefore.same rfl rfl) | intro _ | apply keeps_modFn | apply keeps_notify
                               | apply keeps_modHost | apply keeps_msixFlush | apply Keeps.ite

theorem keeps_setVfs {W : List Fld} {s0 : State} (w_host : .host ∈ W) (on : Bool) (s : State) (k_s : Keeps W s0 s) : Keeps W s0 (setVfs on
    s) := by
  unfold setVfs
  with_reducible repeat' first | assumption | exact Or.inl (by assumption) | exact Or.inr rfl | exact Or.inr ⟨rfl, rfl⟩
                               | exact Or.inr (NotBefore.same rfl rfl) | intro _ | apply keeps_modFn | apply keeps_notify
                               | apply keeps_modHost | apply Keeps.foldUpto | apply Keeps.ite | dsimp only | split | apply Keeps.upd

theorem keeps_linkDown {W : List Fld} {s0 : State} (w_pwr : .pwr ∈ W) (w_host : .host ∈ W) (w_led : .led ∈ W) (w_dma : .dma ∈ W) (w_mate :
    .mate ∈ W) (w_flt : .flt ∈ W) (w_book : .book ∈ W) (w_regs : .regs ∈ W) (w_sram : .sram ∈ W) (s : State) (k_s : Keeps W s0 s) : Keeps
    W s0 (linkDown s) := by
  unfold linkDown
  with_reducible repeat' first | assumption | exact Or.inl (by assumption) | exact Or.inr rfl | exact Or.inr ⟨rfl, rfl⟩
                               | exact Or.inr (NotBefore.same rfl rfl) | intro _ | apply keeps_dmaHostStop | apply keeps_modHost
                               | apply keeps_spillFail | apply Keeps.ite

theorem keeps_flrClear {W : List Fld} {s0 : State} (w_pwr : .pwr ∈ W) (w_host : .host ∈ W) (w_led : .led ∈ W) (w_dma : .dma ∈ W) (w_mate :
    .mate ∈ W) (w_flt : .flt ∈ W) (w_book : .book ∈ W) (w_regs : .regs ∈ W) (w_sram : .sram ∈ W) (n : Nat) (s : State) (k_s : Keeps W s0
    s) : Keeps W s0 (flrClear n s) := by
  unfold flrClear
  with_reducible repeat' first | assumption | exact Or.inl (by assumption) | exact Or.inr rfl | exact Or.inr ⟨rfl, rfl⟩
                               | exact Or.inr (NotBefore.same rfl rfl) | intro _ | apply keeps_modFn | apply keeps_notify
                               | apply keeps_rset | apply keeps_clearPathCounts | apply keeps_modPath | apply keeps_dmaHostStop

theorem keeps_setPair {W : List Fld} {s0 : State} (w_host : .host ∈ W) (p : LbPair) (s : State) (k_s : Keeps W s0 s) : Keeps W s0 (setPair
    p s) := by
  unfold setPair
  with_reducible repeat' first | assumption | exact Or.inl (by assumption) | exact Or.inr rfl | exact Or.inr ⟨rfl, rfl⟩
                               | exact Or.inr (NotBefore.same rfl rfl) | intro _ | apply keeps_modHost

theorem keeps_dropHalf {W : List Fld} {s0 : State} (w_host : .host ∈ W) (w_regs : .regs ∈ W) (a : Agent) (s : State) (k_s : Keeps W s0 s)
    : Keeps W s0 (dropHalf a s) := by
  unfold dropHalf
  with_reducible repeat' first | assumption | exact Or.inl (by assumption) | exact Or.inr rfl | exact Or.inr ⟨rfl, rfl⟩
                               | exact Or.inr (NotBefore.same rfl rfl) | intro _ | apply keeps_pairMiss | apply keeps_setPair
                               | apply Keeps.ite | dsimp only | split

theorem keeps_lbRead {W : List Fld} {s0 : State} (w_host : .host ∈ W) (w_regs : .regs ∈ W) (a : Agent) (off : Nat) (s : State) (k_s :
    Keeps W s0 s) : Keeps W s0 (lbRead a off s) := by
  unfold lbRead
  with_reducible repeat' first | assumption | exact Or.inl (by assumption) | exact Or.inr rfl | exact Or.inr ⟨rfl, rfl⟩
                               | exact Or.inr (NotBefore.same rfl rfl) | intro _ | apply keeps_endRead | apply keeps_memRead
                               | apply keeps_dropHalf | apply keeps_returned | apply keeps_hostRead | apply keeps_setPair
                               | apply keeps_pairMiss | apply Keeps.ite | refine Keeps.snd_of (by assumption) ?_ | dsimp only | split

theorem keeps_lbWrite {W : List Fld} {s0 : State} (all : ∀ f, f ∈ W) (a : Agent) (off d : Nat) (s : State) (k_s : Keeps W s0 s) : Keeps W
    s0 (lbWrite a off d s) := by
  unfold lbWrite
  with_reducible repeat' first | assumption | exact Or.inl (all _) | exact Or.inr rfl | exact Or.inr ⟨rfl, rfl⟩
                               | exact Or.inr (NotBefore.same rfl rfl) | exact all _ | exact fun f _ => all f | intro _
                               | apply keeps_dropHalf | apply keeps_endWrite | apply keeps_memWrite | apply keeps_dropKeyLoad
                               | apply keeps_setPair | apply keeps_hostWrite | apply keeps_pairMiss | apply Keeps.ite
                               | refine Keeps.snd_of (by assumption) ?_ | dsimp only | split

theorem keeps_lbEnd {W : List Fld} {s0 : State} (w_host : .host ∈ W) (ackMode : Bool) (s : State) (k_s : Keeps W s0 s) : Keeps W s0 (lbEnd
    ackMode s) := by
  unfold lbEnd
  with_reducible repeat' first | assumption | exact Or.inl (by assumption) | exact Or.inr rfl | exact Or.inr ⟨rfl, rfl⟩
                               | exact Or.inr (NotBefore.same rfl rfl) | intro _ | apply keeps_modHost | apply Keeps.ite | dsimp only
                               | split | apply Keeps.upd

theorem keeps_spiFrameError {W : List Fld} {s0 : State} (w_host : .host ∈ W) (w_regs : .regs ∈ W) (s : State) (k_s : Keeps W s0 s) : Keeps
    W s0 (spiFrameError s) := by
  unfold spiFrameError
  with_reducible repeat' first | assumption | exact Or.inl (by assumption) | exact Or.inr rfl | exact Or.inr ⟨rfl, rfl⟩
                               | exact Or.inr (NotBefore.same rfl rfl) | intro _ | apply keeps_hostCause | apply keeps_modHost

theorem keeps_spiWords {W : List Fld} {s0 : State} (all : ∀ f, f ∈ W) (a : Agent) (addr : Nat) (x2 : List (BitVec 32)) (x3 : State) (k_x3
    : Keeps W s0 x3) : Keeps W s0 (spiWords a addr x2 x3) := by
  induction x2 generalizing a addr x3 k_x3 with
  | nil =>
    unfold spiWords
    with_reducible repeat' first | assumption | exact Or.inl (all _) | exact Or.inr rfl | exact Or.inr ⟨rfl, rfl⟩
                                 | exact Or.inr (NotBefore.same rfl rfl) | exact all _ | exact fun f _ => all f | intro _
                                 | apply keeps_hostWrite | apply Keeps.ite | dsimp only | split | apply Keeps.upd
  | cons hd tl ih =>
    unfold spiWords
    with_reducible repeat' first | assumption | apply ih | exact Or.inl (all _) | exact Or.inr rfl | exact Or.inr ⟨rfl, rfl⟩
                                 | exact Or.inr (NotBefore.same rfl rfl) | exact all _ | exact fun f _ => all f | intro _
                                 | apply keeps_hostWrite | apply Keeps.ite | dsimp only | split | apply Keeps.upd

end Sys2Proof.Machine
end

