-- ==== Sys2Proof/Laws/Keeps/Operands.lean ====
section
/-!
SUPPORT. The functions of Machine/Operands.lean keep what every command keeps (`Keeps`).
-/
namespace Sys2Proof.Machine

open Sys2Proof

theorem keeps_dataStore {W : List Fld} {s0 : State} (w_sram : .sram ∈ W) (seat a : Nat) (x2 : List Byte) (x3 : State) (k_x3 : Keeps W s0
    x3) : Keeps W s0 (dataStore seat a x2 x3) := by
  induction x2 generalizing seat a x3 k_x3 with
  | nil =>
    unfold dataStore
    with_reducible repeat' first | assumption | exact Or.inl (by assumption) | exact Or.inr rfl | exact Or.inr ⟨rfl, rfl⟩
                                 | exact Or.inr (NotBefore.same rfl rfl) | intro _ | apply keeps_sramSet | apply Keeps.ite | dsimp only
                                 | split | apply Keeps.upd
  | cons hd tl ih =>
    unfold dataStore
    with_reducible repeat' first | assumption | apply ih | exact Or.inl (by assumption) | exact Or.inr rfl | exact Or.inr ⟨rfl, rfl⟩
                                 | exact Or.inr (NotBefore.same rfl rfl) | intro _ | apply keeps_sramSet | apply Keeps.ite | dsimp only
                                 | split | apply Keeps.upd

theorem keeps_dataPutPage {W : List Fld} {s0 : State} (w_mate : .mate ∈ W) (w_sram : .sram ∈ W) (seat a : Nat) (bs : List Byte) (s :
    State) (k_s : Keeps W s0 s) : Keeps W s0 (dataPutPage seat a bs s) := by
  unfold dataPutPage
  with_reducible repeat' first | assumption | exact Or.inl (by assumption) | exact Or.inr rfl | exact Or.inr ⟨rfl, rfl⟩
                               | exact Or.inr (NotBefore.same rfl rfl) | intro _ | apply keeps_mirrorSram | apply keeps_dataStore
                               | apply Keeps.ite | dsimp only | split

theorem keeps_dataPut {W : List Fld} {s0 : State} (w_mate : .mate ∈ W) (w_sram : .sram ∈ W) (seat a : Nat) (bs : List Byte) (s : State)
    (k_s : Keeps W s0 s) : Keeps W s0 (dataPut seat a bs s) := by
  unfold dataPut
  with_reducible repeat' first | assumption | exact Or.inl (by assumption) | exact Or.inr rfl | exact Or.inr ⟨rfl, rfl⟩
                               | exact Or.inr (NotBefore.same rfl rfl) | intro _ | apply keeps_dataPutPage | apply Keeps.ite

end Sys2Proof.Machine
end

