-- ==== Sys2Proof/Laws/Keeps/CelecCore.lean ====
section
/-!
SUPPORT. The functions of Machine/CelecCore.lean keep what every command keeps (`Keeps`).
-/
namespace Sys2Proof.Machine

open Sys2Proof

theorem keeps_trapFail {W : List Fld} {s0 : State} (w_pwr : .pwr ∈ W) (w_host : .host ∈ W) (w_led : .led ∈ W) (w_st : .st ∈ W) (w_mate :
    .mate ∈ W) (w_flt : .flt ∈ W) (w_regs : .regs ∈ W) (k : Nat) (wr : Bool) (f : Fails) (s : State) (k_s : Keeps W s0 s) : Keeps W s0
    (trapFail k wr f s) := by
  unfold trapFail
  with_reducible repeat' first | assumption | exact Or.inl (by assumption) | exact Or.inr rfl | exact Or.inr ⟨rfl, rfl⟩
                               | exact Or.inr (NotBefore.same rfl rfl) | intro _ | apply keeps_trapStrand | apply keeps_faultRaise
                               | apply Keeps.ite | dsimp only | split | apply Keeps.upd

theorem keeps_illegal {W : List Fld} {s0 : State} (w_host : .host ∈ W) (w_st : .st ∈ W) (w_regs : .regs ∈ W) (k op : Nat) (s : State) (k_s
    : Keeps W s0 s) : Keeps W s0 (illegal k op s) := by
  unfold illegal
  with_reducible repeat' first | assumption | exact Or.inl (by assumption) | exact Or.inr rfl | exact Or.inr ⟨rfl, rfl⟩
                               | exact Or.inr (NotBefore.same rfl rfl) | intro _ | apply keeps_trapStrand | apply Keeps.ite | dsimp only
                               | split | apply Keeps.upd

theorem keeps_checked {W : List Fld} {s0 : State} (w_pwr : .pwr ∈ W) (w_host : .host ∈ W) (w_led : .led ∈ W) (w_st : .st ∈ W) (w_mate :
    .mate ∈ W) (w_flt : .flt ∈ W) (w_regs : .regs ∈ W) (k : Nat) (wr : Bool) (c : Option Fails) (go : State → State) (s : State) (k_go : ∀
    y0, Keeps W s0 y0 → Keeps W s0 (go y0)) (k_s : Keeps W s0 s) : Keeps W s0 (checked k wr c go s) := by
  unfold checked
  with_reducible repeat' first | assumption | exact Or.inl (by assumption) | exact Or.inr rfl | exact Or.inr ⟨rfl, rfl⟩
                               | exact Or.inr (NotBefore.same rfl rfl) | intro _ | apply k_go | apply keeps_trapFail | apply Keeps.ite
                               | dsimp only | split | apply Keeps.upd

theorem keeps_retire {W : List Fld} {s0 : State} (w_st : .st ∈ W) (k : Nat) (f : Strand → Strand) (s : State) (k_s : Keeps W s0 s) : Keeps
    W s0 (retire k f s) := by
  unfold retire
  with_reducible repeat' first | assumption | exact Or.inl (by assumption) | exact Or.inr rfl | exact Or.inr ⟨rfl, rfl⟩
                               | exact Or.inr (NotBefore.same rfl rfl) | intro _ | apply keeps_reschedule | apply keeps_modStrand

theorem keeps_jumpTo {W : List Fld} {s0 : State} (w_st : .st ∈ W) (k : Nat) (target : Word) (f : Strand → Strand) (s : State) (k_s : Keeps
    W s0 s) : Keeps W s0 (jumpTo k target f s) := by
  unfold jumpTo
  with_reducible repeat' first | assumption | exact Or.inl (by assumption) | exact Or.inr rfl | exact Or.inr ⟨rfl, rfl⟩
                               | exact Or.inr (NotBefore.same rfl rfl) | intro _ | apply keeps_reschedule | apply keeps_modStrand

theorem keeps_park {W : List Fld} {s0 : State} (w_st : .st ∈ W) (k : Nat) (m : StrandMode) (f : Strand → Strand) (s : State) (k_s : Keeps
    W s0 s) : Keeps W s0 (park k m f s) := by
  unfold park
  with_reducible repeat' first | assumption | exact Or.inl (by assumption) | exact Or.inr rfl | exact Or.inr ⟨rfl, rfl⟩
                               | exact Or.inr (NotBefore.same rfl rfl) | intro _ | apply keeps_reschedule | apply keeps_modStrand

theorem keeps_stallFor {W : List Fld} {s0 : State} (w_st : .st ∈ W) (k : Nat) (r : StallResult) (s : State) (k_s : Keeps W s0 s) : Keeps W
    s0 (stallFor k r s) := by
  unfold stallFor
  with_reducible repeat' first | assumption | exact Or.inl (by assumption) | exact Or.inr rfl | exact Or.inr ⟨rfl, rfl⟩
                               | exact Or.inr (NotBefore.same rfl rfl) | intro _ | apply keeps_park

theorem keeps_waitFor {W : List Fld} {s0 : State} (w_st : .st ∈ W) (k : Nat) (w : Wait) (s : State) (k_s : Keeps W s0 s) : Keeps W s0
    (waitFor k w s) := by
  unfold waitFor
  with_reducible repeat' first | assumption | exact Or.inl (by assumption) | exact Or.inr rfl | exact Or.inr ⟨rfl, rfl⟩
                               | exact Or.inr (NotBefore.same rfl rfl) | intro _ | apply keeps_park

theorem keeps_answer {W : List Fld} {s0 : State} (w_st : .st ∈ W) (k : Nat) (rd : BitVec 4) (code detail count : Nat) (s : State) (k_s :
    Keeps W s0 s) : Keeps W s0 (answer k rd code detail count s) := by
  unfold answer
  with_reducible repeat' first | assumption | exact Or.inl (by assumption) | exact Or.inr rfl | exact Or.inr ⟨rfl, rfl⟩
                               | exact Or.inr (NotBefore.same rfl rfl) | intro _ | apply keeps_stallFor

theorem keeps_answerCounted {W : List Fld} {s0 : State} (w_st : .st ∈ W) (w_book : .book ∈ W) (k : Nat) (rd : BitVec 4) (code detail count
    : Nat) (s : State) (k_s : Keeps W s0 s) : Keeps W s0 (answerCounted k rd code detail count s) := by
  unfold answerCounted
  with_reducible repeat' first | assumption | exact Or.inl (by assumption) | exact Or.inr rfl | exact Or.inr ⟨rfl, rfl⟩
                               | exact Or.inr (NotBefore.same rfl rfl) | intro _ | apply keeps_answer | apply keeps_countOutcome

end Sys2Proof.Machine
end

