-- ==== Sys2Proof/Laws/Keeps/CelecBlock.lean ====
section
/-!
SUPPORT. The functions of Machine/CelecBlock.lean keep what every command keeps (`Keeps`).
-/
namespace Sys2Proof.Machine

open Sys2Proof

theorem keeps_setProg {W : List Fld} {s0 : State} (w_st : .st ∈ W) (k v : Nat) (s : State) (k_s : Keeps W s0 s) : Keeps W s0 (setProg k v
    s) := by
  unfold setProg
  with_reducible repeat' first | assumption | exact Or.inl (by assumption) | exact Or.inr rfl | exact Or.inr ⟨rfl, rfl⟩
                               | exact Or.inr (NotBefore.same rfl rfl) | intro _ | apply keeps_modStrand

theorem keeps_runUnits {W : List Fld} {s0 : State}  (one : Nat → State → Except BlockEnd State) (total limit i : Nat) (x4 : State) (k_one
    : ∀ y0 y1, Keeps W s0 y1 → KeepsE W s0 (one y0 y1)) (k_x4 : Keeps W s0 x4) : Keeps W s0 (runUnits one total limit i x4).2.2 := by
  induction limit generalizing one total i x4 k_x4 with
  | zero =>
    unfold runUnits
    with_reducible repeat' first | assumption | exact Or.inl (by assumption) | exact Or.inr rfl | exact Or.inr ⟨rfl, rfl⟩
                                 | exact Or.inr (NotBefore.same rfl rfl) | intro _ | apply k_one | apply Keeps.ite
                                 | refine KeepsE.of (by assumption) ?_ | dsimp only | split | apply Keeps.upd
  | succ m ih =>
    unfold runUnits
    with_reducible repeat' first | assumption | apply ih | exact Or.inl (by assumption) | exact Or.inr rfl | exact Or.inr ⟨rfl, rfl⟩
                                 | exact Or.inr (NotBefore.same rfl rfl) | intro _ | apply k_one | apply Keeps.ite
                                 | refine KeepsE.of (by assumption) ?_ | dsimp only | split | apply Keeps.upd

theorem keeps_afterUnits {W : List Fld} {s0 : State}  (ez : BlockEnd) (start done : Nat) (s t : State) (k_s : Keeps W s0 s) (k_t : Keeps W
    s0 t) : Keeps W s0 (afterUnits ez start done s t) := by
  unfold afterUnits
  with_reducible repeat' first | assumption | exact Or.inl (by assumption) | exact Or.inr rfl | exact Or.inr ⟨rfl, rfl⟩
                               | exact Or.inr (NotBefore.same rfl rfl) | intro _ | apply Keeps.ite | dsimp only | split | apply Keeps.upd

theorem keeps_endBlock {W : List Fld} {s0 : State} (w_pwr : .pwr ∈ W) (w_host : .host ∈ W) (w_led : .led ∈ W) (w_st : .st ∈ W) (w_mate :
    .mate ∈ W) (w_flt : .flt ∈ W) (w_regs : .regs ∈ W) (k : Nat) (ez : BlockEnd) (prog : Nat) (finish : BlockEnd → State → State) (s :
    State) (k_finish : ∀ y0 y1, Keeps W s0 y1 → Keeps W s0 (finish y0 y1)) (k_s : Keeps W s0 s) : Keeps W s0 (endBlock k ez prog finish s) := by
  unfold endBlock
  with_reducible repeat' first | assumption | exact Or.inl (by assumption) | exact Or.inr rfl | exact Or.inr ⟨rfl, rfl⟩
                               | exact Or.inr (NotBefore.same rfl rfl) | intro _ | apply k_finish | apply keeps_reschedule
                               | apply keeps_modStrand | apply keeps_trapFail | apply keeps_setProg | apply Keeps.ite | dsimp only | split
                               | apply Keeps.upd

theorem keeps_spacePut {W : List Fld} {s0 : State} (w_mate : .mate ∈ W) (w_sram : .sram ∈ W) (k seat space a : Nat) (bs : List Byte) (s :
    State) (k_s : Keeps W s0 s) : Keeps W s0 (spacePut k seat space a bs s) := by
  unfold spacePut
  with_reducible repeat' first | assumption | exact Or.inl (by assumption) | exact Or.inr rfl | exact Or.inr ⟨rfl, rfl⟩
                               | exact Or.inr (NotBefore.same rfl rfl) | intro _ | apply keeps_dataPut | apply keeps_sramWrite
                               | apply Keeps.ite

theorem keeps_blkUnit {W : List Fld} {s0 : State} (w_mate : .mate ∈ W) (w_sram : .sram ∈ W) (k seat sp dp src dst len : Nat) (down : Bool)
    (i : Nat) (s : State) (k_s : Keeps W s0 s) : KeepsE W s0 (blkUnit k seat sp dp src dst len down i s) := by
  unfold blkUnit
  with_reducible repeat' first | assumption | exact Or.inl (by assumption) | exact Or.inr rfl | exact Or.inr ⟨rfl, rfl⟩
                               | exact Or.inr (NotBefore.same rfl rfl) | intro _ | apply keeps_spacePut | exact KeepsE.error
                               | apply KeepsE.ok | apply Keeps.ite | dsimp only | split

theorem keeps_csetUnit {W : List Fld} {s0 : State} (w_lt : .lt ∈ W) (w_pwr : .pwr ∈ W) (w_host : .host ∈ W) (w_led : .led ∈ W) (w_fab :
    .fab ∈ W) (w_mate : .mate ∈ W) (w_flt : .flt ∈ W) (w_regs : .regs ∈ W) (k seat a d i : Nat) (s : State) (k_s : Keeps W s0 s) : KeepsE
    W s0 (csetUnit k seat a d i s) := by
  unfold csetUnit
  with_reducible repeat' first | assumption | exact Or.inl (by assumption) | exact Or.inr rfl | exact Or.inr ⟨rfl, rfl⟩
                               | exact Or.inr (NotBefore.same rfl rfl) | intro _ | apply keeps_stageConn | exact KeepsE.error
                               | apply KeepsE.ok | apply Keeps.ite | refine Keeps.snd_of (by assumption) ?_ | dsimp only | split

end Sys2Proof.Machine
end

