-- ==== Sys2Proof/Laws/Keeps/CelecReq.lean ====
section
/-!
SUPPORT. The functions of Machine/CelecReq.lean keep what every command keeps (`Keeps`).
-/
namespace Sys2Proof.Machine

open Sys2Proof

theorem keeps_reqTouch {W : List Fld} {s0 : State} (w_host : .host ∈ W) (w_regs : .regs ∈ W) (k : Nat) (s : State) (k_s : Keeps W s0 s) :
    Keeps W s0 (reqTouch k s) := by
  unfold reqTouch
  with_reducible repeat' first | assumption | exact Or.inl (by assumption) | exact Or.inr rfl | exact Or.inr ⟨rfl, rfl⟩
                               | exact Or.inr (NotBefore.same rfl rfl) | intro _ | apply keeps_touch

end Sys2Proof.Machine
end

