-- ==== Sys2Proof/Laws/Keeps/Meanings.lean ====
section
/-!
SUPPORT. The operations that meanings share keep what every command keeps (`KeepsR`).
-/
namespace Sys2Proof.Machine

open Sys2Proof

theorem keeps_hostDo {W : List Fld} {s0 : State}  (w : HostWho) (f : Agent → State → State) (s : State) (k_f : ∀ y0 y1, Keeps W s0 y1 →
    Keeps W s0 (f y0 y1)) (k_s : Keeps W s0 s) : KeepsR W s0 (hostDo w f s) := by
  unfold hostDo
  with_reducible repeat' first | assumption | exact Or.inl (by assumption) | exact Or.inr rfl | exact Or.inr ⟨rfl, rfl⟩
                               | exact Or.inr (NotBefore.same rfl rfl) | intro _ | apply KeepsR.next | exact KeepsR.fault
                               | apply KeepsR.ite | apply k_f | apply Keeps.ite | dsimp only | split | apply Keeps.upd

theorem keeps_goodPacket {W : List Fld} {s0 : State} (w_host : .host ∈ W) (w_st : .st ∈ W) (w_cam : .cam ∈ W) (w_scan : .scan ∈ W) (w_regs
    : .regs ∈ W) (r vc dt data : Nat) (payload : List Byte) (crc : Nat) (s : State) (k_s : Keeps W s0 s) : KeepsR W s0 (goodPacket r vc dt
    data payload crc s) := by
  unfold goodPacket
  with_reducible repeat' first | assumption | exact Or.inl (by assumption) | exact Or.inr rfl | exact Or.inr ⟨rfl, rfl⟩
                               | exact Or.inr (NotBefore.same rfl rfl) | intro _ | apply KeepsR.next | exact KeepsR.fault
                               | apply KeepsR.ite | apply keeps_rxBurst | apply keeps_rxPacket | apply Keeps.ite
                               | refine Keeps.snd_of (by assumption) ?_ | dsimp only | split | apply Keeps.upd

theorem keeps_rowWrite {W : List Fld} {s0 : State} (all : ∀ f, f ∈ W) (w : HostWho) (off v : Nat) (s : State) (k_s : Keeps W s0 s) :
    KeepsR W s0 (rowWrite w off v s) := by
  unfold rowWrite
  with_reducible repeat' first | assumption | exact Or.inl (all _) | exact Or.inr rfl | exact Or.inr ⟨rfl, rfl⟩
                               | exact Or.inr (NotBefore.same rfl rfl) | exact all _ | exact fun f _ => all f | intro _
                               | apply KeepsR.next | exact KeepsR.fault | apply KeepsR.ite | apply keeps_rowDone | apply Keeps.ite
                               | dsimp only | split | apply Keeps.upd

theorem keeps_rowWords {W : List Fld} {s0 : State} (all : ∀ f, f ∈ W) (w : HostWho) (off n v : Nat) (s : State) (k_s : Keeps W s0 s) :
    KeepsR W s0 (rowWords w off n v s) := by
  unfold rowWords
  with_reducible repeat' first | assumption | exact Or.inl (all _) | exact Or.inr rfl | exact Or.inr ⟨rfl, rfl⟩
                               | exact Or.inr (NotBefore.same rfl rfl) | exact all _ | exact fun f _ => all f | intro _
                               | apply KeepsR.next | exact KeepsR.fault | apply KeepsR.ite | apply keeps_hostWords | apply Keeps.ite
                               | dsimp only | split | apply Keeps.upd

theorem keeps_rowCommand {W : List Fld} {s0 : State} (w_lt : .lt ∈ W) (w_pwr : .pwr ∈ W) (w_host : .host ∈ W) (w_led : .led ∈ W) (w_fab :
    .fab ∈ W) (w_prot : .prot ∈ W) (w_mate : .mate ∈ W) (w_flt : .flt ∈ W) (w_book : .book ∈ W) (w_regs : .regs ∈ W) (w : HostWho) (addr
    code : Nat) (s : State) (k_s : Keeps W s0 s) : KeepsR W s0 (rowCommand w addr code s) := by
  unfold rowCommand
  with_reducible repeat' first | assumption | exact Or.inl (by assumption) | exact Or.inr rfl | exact Or.inr ⟨rfl, rfl⟩
                               | exact Or.inr (NotBefore.same rfl rfl) | intro _ | apply KeepsR.next | exact KeepsR.fault
                               | apply KeepsR.ite | apply keeps_endWrite | apply keeps_objWrite | apply keeps_dropKeyLoad
                               | apply Keeps.ite | refine Keeps.snd_of (by assumption) ?_ | dsimp only | split | apply Keeps.upd

theorem keeps_celec {W : List Fld} {s0 : State} (w_pwr : .pwr ∈ W) (w_host : .host ∈ W) (w_led : .led ∈ W) (w_st : .st ∈ W) (w_mate :
    .mate ∈ W) (w_flt : .flt ∈ W) (w_regs : .regs ∈ W) (n : BitVec 6) (unassigned : Option Nat) (op : Nat) (bad : Bool) (body : Nat →
    State → State) (s : State) (k_body : ∀ y0 y1, Keeps W s0 y1 → Keeps W s0 (body y0 y1)) (k_s : Keeps W s0 s) : KeepsR W s0 (celec n
    unassigned op bad body s) := by
  unfold celec
  with_reducible repeat' first | assumption | exact Or.inl (by assumption) | exact Or.inr rfl | exact Or.inr ⟨rfl, rfl⟩
                               | exact Or.inr (NotBefore.same rfl rfl) | intro _ | apply KeepsR.next | exact KeepsR.fault
                               | apply KeepsR.ite | apply k_body | apply keeps_trapStrand | apply keeps_trapFail | apply Keeps.ite
                               | dsimp only | split | apply Keeps.upd

theorem keeps_aluA {W : List Fld} {s0 : State} (w_pwr : .pwr ∈ W) (w_host : .host ∈ W) (w_led : .led ∈ W) (w_st : .st ∈ W) (w_mate : .mate
    ∈ W) (w_flt : .flt ∈ W) (w_regs : .regs ∈ W) (n : BitVec 6) (f : FormA) (bad : Bool) (g : Word → Word → Flags → Word × Flags) (s :
    State) (k_s : Keeps W s0 s) : KeepsR W s0 (aluA n f bad g s) := by
  unfold aluA
  with_reducible repeat' first | assumption | exact Or.inl (by assumption) | exact Or.inr rfl | exact Or.inr ⟨rfl, rfl⟩
                               | exact Or.inr (NotBefore.same rfl rfl) | intro _ | apply KeepsR.next | exact KeepsR.fault
                               | apply KeepsR.ite | apply keeps_celec | apply keeps_retire | apply Keeps.ite | dsimp only | split
                               | apply Keeps.upd

theorem keeps_aluI {W : List Fld} {s0 : State} (w_pwr : .pwr ∈ W) (w_host : .host ∈ W) (w_led : .led ∈ W) (w_st : .st ∈ W) (w_mate : .mate
    ∈ W) (w_flt : .flt ∈ W) (w_regs : .regs ∈ W) (n : BitVec 6) (op : Nat) (f : FormI) (bad : Bool) (imm : Word) (g : Word → Word → Flags
    → Word × Flags) (s : State) (k_s : Keeps W s0 s) : KeepsR W s0 (aluI n op f bad imm g s) := by
  unfold aluI
  with_reducible repeat' first | assumption | exact Or.inl (by assumption) | exact Or.inr rfl | exact Or.inr ⟨rfl, rfl⟩
                               | exact Or.inr (NotBefore.same rfl rfl) | intro _ | apply KeepsR.next | exact KeepsR.fault
                               | apply KeepsR.ite | apply keeps_celec | apply keeps_retire | apply Keeps.ite | dsimp only | split
                               | apply Keeps.upd

theorem keeps_dataLoad {W : List Fld} {s0 : State} (w_pwr : .pwr ∈ W) (w_host : .host ∈ W) (w_led : .led ∈ W) (w_st : .st ∈ W) (w_mate :
    .mate ∈ W) (w_flt : .flt ∈ W) (w_regs : .regs ∈ W) (n : BitVec 6) (op size : Nat) (f : FormI) (ext : Nat → Word) (s : State) (k_s :
    Keeps W s0 s) : KeepsR W s0 (dataLoad n op size f ext s) := by
  unfold dataLoad
  with_reducible repeat' first | assumption | exact Or.inl (by assumption) | exact Or.inr rfl | exact Or.inr ⟨rfl, rfl⟩
                               | exact Or.inr (NotBefore.same rfl rfl) | intro _ | apply KeepsR.next | exact KeepsR.fault
                               | apply KeepsR.ite | apply keeps_celec | apply keeps_checked | apply keeps_retire | apply Keeps.ite
                               | dsimp only | split | apply Keeps.upd

theorem keeps_dataStoreOp {W : List Fld} {s0 : State} (w_pwr : .pwr ∈ W) (w_host : .host ∈ W) (w_led : .led ∈ W) (w_st : .st ∈ W) (w_mate
    : .mate ∈ W) (w_flt : .flt ∈ W) (w_regs : .regs ∈ W) (w_sram : .sram ∈ W) (n : BitVec 6) (size : Nat) (f : FormI) (s : State) (k_s :
    Keeps W s0 s) : KeepsR W s0 (dataStoreOp n size f s) := by
  unfold dataStoreOp
  with_reducible repeat' first | assumption | exact Or.inl (by assumption) | exact Or.inr rfl | exact Or.inr ⟨rfl, rfl⟩
                               | exact Or.inr (NotBefore.same rfl rfl) | intro _ | apply KeepsR.next | exact KeepsR.fault
                               | apply KeepsR.ite | apply keeps_celec | apply keeps_checked | apply keeps_retire | apply keeps_dataPut
                               | apply Keeps.ite | dsimp only | split | apply Keeps.upd

theorem keeps_scratchLoad {W : List Fld} {s0 : State} (w_pwr : .pwr ∈ W) (w_host : .host ∈ W) (w_led : .led ∈ W) (w_st : .st ∈ W) (w_mate
    : .mate ∈ W) (w_flt : .flt ∈ W) (w_regs : .regs ∈ W) (n : BitVec 6) (size : Nat) (f : FormI) (s : State) (k_s : Keeps W s0 s) : KeepsR
    W s0 (scratchLoad n size f s) := by
  unfold scratchLoad
  with_reducible repeat' first | assumption | exact Or.inl (by assumption) | exact Or.inr rfl | exact Or.inr ⟨rfl, rfl⟩
                               | exact Or.inr (NotBefore.same rfl rfl) | intro _ | apply KeepsR.next | exact KeepsR.fault
                               | apply KeepsR.ite | apply keeps_celec | apply keeps_checked | apply keeps_retire | apply Keeps.ite
                               | dsimp only | split | apply Keeps.upd

theorem keeps_scratchStore {W : List Fld} {s0 : State} (w_pwr : .pwr ∈ W) (w_host : .host ∈ W) (w_led : .led ∈ W) (w_st : .st ∈ W) (w_mate
    : .mate ∈ W) (w_flt : .flt ∈ W) (w_regs : .regs ∈ W) (w_sram : .sram ∈ W) (n : BitVec 6) (size : Nat) (f : FormI) (s : State) (k_s :
    Keeps W s0 s) : KeepsR W s0 (scratchStore n size f s) := by
  unfold scratchStore
  with_reducible repeat' first | assumption | exact Or.inl (by assumption) | exact Or.inr rfl | exact Or.inr ⟨rfl, rfl⟩
                               | exact Or.inr (NotBefore.same rfl rfl) | intro _ | apply KeepsR.next | exact KeepsR.fault
                               | apply KeepsR.ite | apply keeps_celec | apply keeps_checked | apply keeps_retire | apply keeps_sramWrite
                               | apply Keeps.ite | dsimp only | split | apply Keeps.upd

theorem keeps_atomic {W : List Fld} {s0 : State} (w_pwr : .pwr ∈ W) (w_host : .host ∈ W) (w_led : .led ∈ W) (w_st : .st ∈ W) (w_mate :
    .mate ∈ W) (w_flt : .flt ∈ W) (w_regs : .regs ∈ W) (w_sram : .sram ∈ W) (n : BitVec 6) (f : FormA) (g : Word → Word → Word → Option
    Word) (setsT : Bool) (s : State) (k_s : Keeps W s0 s) : KeepsR W s0 (atomic n f g setsT s) := by
  unfold atomic
  with_reducible repeat' first | assumption | exact Or.inl (by assumption) | exact Or.inr rfl | exact Or.inr ⟨rfl, rfl⟩
                               | exact Or.inr (NotBefore.same rfl rfl) | intro _ | apply KeepsR.next | exact KeepsR.fault
                               | apply KeepsR.ite | apply keeps_celec | apply keeps_checked | apply keeps_dataPut | apply keeps_retire
                               | apply Keeps.ite | dsimp only | split | apply Keeps.upd

theorem keeps_branch {W : List Fld} {s0 : State} (w_pwr : .pwr ∈ W) (w_host : .host ∈ W) (w_led : .led ∈ W) (w_st : .st ∈ W) (w_mate :
    .mate ∈ W) (w_flt : .flt ∈ W) (w_regs : .regs ∈ W) (n : BitVec 6) (op : Nat) (f : FormB) (link : Bool) (s : State) (k_s : Keeps W s0
    s) : KeepsR W s0 (branch n op f link s) := by
  unfold branch
  with_reducible repeat' first | assumption | exact Or.inl (by assumption) | exact Or.inr rfl | exact Or.inr ⟨rfl, rfl⟩
                               | exact Or.inr (NotBefore.same rfl rfl) | intro _ | apply KeepsR.next | exact KeepsR.fault
                               | apply KeepsR.ite | apply keeps_celec | apply keeps_jumpTo | apply keeps_retire | apply Keeps.ite
                               | dsimp only | split | apply Keeps.upd

theorem keeps_jumpReg {W : List Fld} {s0 : State} (w_pwr : .pwr ∈ W) (w_host : .host ∈ W) (w_led : .led ∈ W) (w_st : .st ∈ W) (w_mate :
    .mate ∈ W) (w_flt : .flt ∈ W) (w_regs : .regs ∈ W) (n : BitVec 6) (f : FormA) (bad : Bool) (g : Strand → Strand) (s : State) (k_s :
    Keeps W s0 s) : KeepsR W s0 (jumpReg n f bad g s) := by
  unfold jumpReg
  with_reducible repeat' first | assumption | exact Or.inl (by assumption) | exact Or.inr rfl | exact Or.inr ⟨rfl, rfl⟩
                               | exact Or.inr (NotBefore.same rfl rfl) | intro _ | apply KeepsR.next | exact KeepsR.fault
                               | apply KeepsR.ite | apply keeps_celec | apply keeps_checked | apply keeps_jumpTo | apply Keeps.ite
                               | dsimp only | split | apply Keeps.upd

end Sys2Proof.Machine
end

