-- ==== Sys2Proof/Laws/Strands.lean ====
section
/-!
SUPPORT. What the operations on strands do: a strand put back, a register written, the passing of the issue slot at a landing point (`Turned`), and the
end of an instruction.
-/
namespace Sys2Proof.Machine

open Sys2Proof

theorem strandAt_setStrand (n m : Nat) (t : Strand) (s : State) : strandAt (setStrand n t s) m = if n = m then t else strandAt s m :=
  tget_tset ..

@[simp] theorem strandAt_setStrand_self (n : Nat) (t : Strand) (s : State) : strandAt (setStrand n t s) n = t := by
  simp [strandAt_setStrand]

theorem strandAt_setStrand_ne {n m : Nat} (t : Strand) (s : State) (h : n ≠ m) : strandAt (setStrand n t s) m = strandAt s m := by
  simp [strandAt_setStrand, h]

theorem modStrand_eq (n : Nat) (f : Strand → Strand) (s : State) : modStrand n f s = setStrand n (f (strandAt s n)) s := rfl

@[simp] theorem setStrand_regs (n : Nat) (t : Strand) (s : State) : (setStrand n t s).regs = s.regs := rfl
@[simp] theorem setStrand_sram (n : Nat) (t : Strand) (s : State) : (setStrand n t s).sram = s.sram := rfl
@[simp] theorem setStrand_lt (n : Nat) (t : Strand) (s : State) : (setStrand n t s).lt = s.lt := rfl
@[simp] theorem setStrand_pwr (n : Nat) (t : Strand) (s : State) : (setStrand n t s).pwr = s.pwr := rfl
@[simp] theorem setStrand_host (n : Nat) (t : Strand) (s : State) : (setStrand n t s).host = s.host := rfl
@[simp] theorem setStrand_pending (n : Nat) (t : Strand) (s : State) : (setStrand n t s).pending = s.pending := rfl
@[simp] theorem setStrand_events (n : Nat) (t : Strand) (s : State) : (setStrand n t s).st.events = s.st.events := rfl

/-- g0 reads 0. -/
@[simp] theorem Strand.reg_zero (t : Strand) : t.reg 0 = 0 := rfl

/-- What a register reads after a write: a write of g0 is discarded. -/
theorem Strand.reg_setReg (t : Strand) (r q : Nat) (v : Word) : (t.setReg r v).reg q = if r = q ∧ q ≠ 0 then v else t.reg q := by
  unfold Strand.reg Strand.setReg
  by_cases h : q = 0
  · simp [h]
  · by_cases k : r = 0
    · subst k; simp [h, Ne.symm h]
    · simp [h, k, tget_tset]

@[simp] theorem Strand.setReg_pc (t : Strand) (r : Nat) (v : Word) : (t.setReg r v).pc = t.pc := by unfold Strand.setReg; split <;> rfl
@[simp] theorem Strand.setReg_flags (t : Strand) (r : Nat) (v : Word) : (t.setReg r v).flags = t.flags := by unfold Strand.setReg; split <;> rfl
@[simp] theorem Strand.setReg_mode (t : Strand) (r : Nat) (v : Word) : (t.setReg r v).mode = t.mode := by unfold Strand.setReg; split <;> rfl

theorem SameTurn.refl (a : Strand) : SameTurn a a := rfl

theorem SameTurn.trans {a b c : Strand} (h : SameTurn a b) (k : SameTurn b c) : SameTurn a c := by
  unfold SameTurn at *; rw [k, h]

theorem Turned.refl (c : Nat) (u : State) : Turned c u u :=
  ⟨fun f _ => f.same_refl u, rfl, rfl, fun _ => SameTurn.refl _, fun _ _ => rfl, fun _ => Or.inl rfl⟩

theorem Turned.trans {c : Nat} {u v t : State} (h : Turned c u v) (k : Turned c v t) : Turned c u t :=
  ⟨fun f w => Fld.same_trans (h.only f w) (k.only f w), k.queue.trans h.queue, k.events.trans h.events, fun n => (h.turn n).trans (k.turn n),
    fun n w => (k.away n w).trans (h.away n w), fun n => by
      rcases k.modes n with a | ⟨a, b⟩
      · rcases h.modes n with d | ⟨d, e⟩
        · exact Or.inl (a.trans d)
        · exact Or.inr ⟨a ▸ d, e⟩
      · rcases h.modes n with d | ⟨d, e⟩
        · exact Or.inr ⟨a, d ▸ b⟩
        · exact Or.inr ⟨a, e⟩⟩

/-- A strand of the cluster that is ready takes another turn. -/
theorem turned_setStrand {c n : Nat} {u : State} (x : Strand) (hc : n / 8 = c) (hx : SameTurn (strandAt u n) x)
    (hr : x.mode.ready ∧ (strandAt u n).mode.ready) : Turned c u (setStrand n x u) := by
  refine ⟨fun f w => by cases f <;> first | rfl | exact absurd (List.mem_singleton.mpr rfl) w | exact ⟨rfl, rfl⟩ | exact NotBefore.same rfl rfl,
    rfl, rfl, fun m => ?_, fun m hm => strandAt_setStrand_ne x u (by rintro rfl; exact hm hc), fun m => ?_⟩
  all_goals
    rw [strandAt_setStrand]
    split
    · rename_i e; subst e; first | exact hx | exact Or.inr hr
    · first | exact SameTurn.refl _ | exact Or.inl rfl

/-- A grant of the slot to a strand that is ready. -/
theorem turned_grant {c n : Nat} {u : State} (hc : n / 8 = c) (hr : (strandAt u n).mode.ready) : Turned c u (grant c n u) := by
  have h : Turned c u (modStrand n (fun t => { t with mode := .running, sliceOver := false }) u) :=
    turned_setStrand _ hc rfl ⟨Or.inr rfl, hr⟩
  exact ⟨fun f w => by
    have k := h.only f w
    cases f <;> first | exact k | exact absurd (List.mem_singleton.mpr rfl) w, h.queue, h.events, h.turn, h.away, h.modes⟩

/-- The strand that the slot passes to is one of those it passes among. -/
theorem bestStrand_mem {s : State} {last c : Nat} {ns : List Nat} (h : bestStrand s last ns = some c) : c ∈ ns := by
  unfold bestStrand at h
  have k : ∀ (l : List Nat) (b : Option Nat), l.foldl (fun b n =>
      match b with
      | none => some n
      | some m => if robin last n < robin last m then some n else some m) b = some c → c ∈ l ∨ b = some c := by
    intro l
    induction l with
    | nil => exact fun b h => Or.inr h
    | cons x l ih =>
      intro b h
      rcases ih _ h with m | m
      · exact Or.inl (List.mem_cons_of_mem _ m)
      · cases b with
        | none => exact Or.inl (by cases m; exact List.mem_cons_self)
        | some y =>
          simp only at m
          split at m
          · exact Or.inl (by cases m; exact List.mem_cons_self)
          · exact Or.inr m
  rcases k _ _ h with m | m
  · exact List.mem_of_mem_filter m
  · cases m

/-- A landing point gives what `Turned` says (R190, R191). -/
theorem reschedule_turned (c : Nat) (u : State) : Turned c u (reschedule c u) := by
  unfold reschedule
  extract_lets ns ready last
  have hns : ∀ n ∈ ns, n / 8 = c := by
    intro n hn
    simp only [ns, List.mem_map, List.mem_range] at hn
    omega
  split
  · exact Turned.refl c u
  · rename_i n hb
    have hm := bestStrand_mem hb
    simp only [ready, List.mem_filter, decide_eq_true_eq] at hm
    have hc := hns n hm.1
    split
    · exact turned_grant hc (Or.inl hm.2)
    · rename_i r hf
      have hr := List.mem_of_find?_eq_some hf
      have hrm := List.find?_some hf
      simp only [decide_eq_true_eq] at hrm
      split
      · have h1 : Turned c u (modStrand r (fun t => { t with mode := .runnable }) u) :=
          turned_setStrand _ (hns r hr) rfl ⟨Or.inl rfl, Or.inr hrm⟩
        refine h1.trans (turned_grant hc ?_)
        rcases h1.modes n with a | ⟨a, _⟩
        · exact Or.inl (a.trans hm.2)
        · exact a
      · exact Turned.refl c u

/-- The issue of an instruction of a strand that is ready. -/
theorem celec_ready {n : BitVec 6} {s : State} (h : Ready s n) (op : Nat) (bad : Bool) (body : Nat → State → State) :
    celec n none op bad body s = .next (if bad then trapStrand n.toNat 1 op 0 false s else body n.toNat s) := by
  simp [celec, h.1, h.2.1, Option.isNone_iff_eq_none.mp h.2.2]

/-- The issue of a word that spells no instruction. -/
theorem celec_unassigned {n : BitVec 6} {s : State} (h : Ready s n) (o op : Nat) (bad : Bool) (body : Nat → State → State) :
    celec n (some o) op bad body s = .next (trapStrand n.toNat 1 o 0 false s) := by
  simp [celec, h.1, h.2.1, Option.isNone_iff_eq_none.mp h.2.2]

/-- The issue of an instruction of a strand that does not hold the slot. -/
theorem celec_idle {n : BitVec 6} {s : State} (h : issues s n.toNat = false) (u : Option Nat) (op : Nat) (bad : Bool)
    (body : Nat → State → State) : celec n u op bad body s = .next s := by
  simp [celec, h]

/-- The issue of an instruction whose fetch fails. -/
theorem celec_fetch {n : BitVec 6} {s : State} (h : issues s n.toNat = true) (k : fetchValid s n.toNat = false) (u : Option Nat) (op : Nat)
    (bad : Bool) (body : Nat → State → State) :
    celec n u op bad body s = .next (trapStrand n.toNat 3 0 (strandAt s n.toNat).pc.toNat false s) := by
  simp [celec, h, k]

/-- An instruction that answers `retire` completes. -/
theorem ran_reschedule {i : Instr} {n : BitVec 6} {s u : State} (h : exec i s = .next (reschedule (n.toNat / 8) u)) : Ran i n s u :=
  ⟨_, h, reschedule_turned _ u⟩

/-- An instruction that answers `retire` with the context `x` completes. -/
theorem retires_of {i : Instr} {n : BitVec 6} {s u : State} {f : Strand → Strand} {x : Strand} (h : exec i s = .next (retire n.toNat f u))
    (e : (strandAt u n.toNat).pc = (strandAt s n.toNat).pc) (hx : f (strandAt u n.toNat) = x) : Retires i n s u x := by
  subst hx
  rw [Retires, ← e]
  exact ran_reschedule h

/-- An instruction that answers `stallFor` stalls. -/
theorem stalls_of {i : Instr} {n : BitVec 6} {s u : State} {r : StallResult} (h : exec i s = .next (stallFor n.toNat r u)) : Stalls i n s u r :=
  ran_reschedule h

/-- A request that answers `answerCounted` ends with its outcome. -/
theorem answers_of {i : Instr} {n : BitVec 6} {s u : State} {rd : BitVec 4} {code detail count : Nat}
    (h : exec i s = .next (answerCounted n.toNat rd code detail count u)) : Answers i n s u rd code detail count :=
  stalls_of h

end Sys2Proof.Machine
end

