-- ==== Sys2Proof/Laws/State.lean ====
section
/-!
SUPPORT. What the named updates of the state leave: one lemma per field and update, true by rfl, so that no proof unfolds a record update; and what
a reader of a block answers after its writer.
-/
namespace Sys2Proof.Machine

open Sys2Proof

variable (s : State)

@[simp] theorem rset_lt_eq (key v : Nat) : (rset s key v).lt = s.lt := rfl
@[simp] theorem rset_pwr_eq (key v : Nat) : (rset s key v).pwr = s.pwr := rfl
@[simp] theorem rset_host_eq (key v : Nat) : (rset s key v).host = s.host := rfl
@[simp] theorem rset_led_eq (key v : Nat) : (rset s key v).led = s.led := rfl
@[simp] theorem rset_st_eq (key v : Nat) : (rset s key v).st = s.st := rfl
@[simp] theorem rset_dma_eq (key v : Nat) : (rset s key v).dma = s.dma := rfl
@[simp] theorem rset_line_eq (key v : Nat) : (rset s key v).line = s.line := rfl
@[simp] theorem rset_fab_eq (key v : Nat) : (rset s key v).fab = s.fab := rfl
@[simp] theorem rset_prot_eq (key v : Nat) : (rset s key v).prot = s.prot := rfl
@[simp] theorem rset_mate_eq (key v : Nat) : (rset s key v).mate = s.mate := rfl
@[simp] theorem rset_dun_eq (key v : Nat) : (rset s key v).dun = s.dun := rfl
@[simp] theorem rset_cam_eq (key v : Nat) : (rset s key v).cam = s.cam := rfl
@[simp] theorem rset_scan_eq (key v : Nat) : (rset s key v).scan = s.scan := rfl
@[simp] theorem rset_radio_eq (key v : Nat) : (rset s key v).radio = s.radio := rfl
@[simp] theorem rset_mon_eq (key v : Nat) : (rset s key v).mon = s.mon := rfl
@[simp] theorem rset_flt_eq (key v : Nat) : (rset s key v).flt = s.flt := rfl
@[simp] theorem rset_book_eq (key v : Nat) : (rset s key v).book = s.book := rfl
@[simp] theorem rset_sram_eq (key v : Nat) : (rset s key v).sram = s.sram := rfl
@[simp] theorem rset_ecc_eq (key v : Nat) : (rset s key v).ecc = s.ecc := rfl
@[simp] theorem rset_freeCtr_eq (key v : Nat) : (rset s key v).freeCtr = s.freeCtr := rfl
@[simp] theorem rset_pending_eq (key v : Nat) : (rset s key v).pending = s.pending := rfl

@[simp] theorem rmod_lt_eq (key : Nat) (f : Nat → Nat) : (rmod s key f).lt = s.lt := rfl
@[simp] theorem rmod_pwr_eq (key : Nat) (f : Nat → Nat) : (rmod s key f).pwr = s.pwr := rfl
@[simp] theorem rmod_host_eq (key : Nat) (f : Nat → Nat) : (rmod s key f).host = s.host := rfl
@[simp] theorem rmod_led_eq (key : Nat) (f : Nat → Nat) : (rmod s key f).led = s.led := rfl
@[simp] theorem rmod_st_eq (key : Nat) (f : Nat → Nat) : (rmod s key f).st = s.st := rfl
@[simp] theorem rmod_dma_eq (key : Nat) (f : Nat → Nat) : (rmod s key f).dma = s.dma := rfl
@[simp] theorem rmod_line_eq (key : Nat) (f : Nat → Nat) : (rmod s key f).line = s.line := rfl
@[simp] theorem rmod_fab_eq (key : Nat) (f : Nat → Nat) : (rmod s key f).fab = s.fab := rfl
@[simp] theorem rmod_prot_eq (key : Nat) (f : Nat → Nat) : (rmod s key f).prot = s.prot := rfl
@[simp] theorem rmod_mate_eq (key : Nat) (f : Nat → Nat) : (rmod s key f).mate = s.mate := rfl
@[simp] theorem rmod_dun_eq (key : Nat) (f : Nat → Nat) : (rmod s key f).dun = s.dun := rfl
@[simp] theorem rmod_cam_eq (key : Nat) (f : Nat → Nat) : (rmod s key f).cam = s.cam := rfl
@[simp] theorem rmod_scan_eq (key : Nat) (f : Nat → Nat) : (rmod s key f).scan = s.scan := rfl
@[simp] theorem rmod_radio_eq (key : Nat) (f : Nat → Nat) : (rmod s key f).radio = s.radio := rfl
@[simp] theorem rmod_mon_eq (key : Nat) (f : Nat → Nat) : (rmod s key f).mon = s.mon := rfl
@[simp] theorem rmod_flt_eq (key : Nat) (f : Nat → Nat) : (rmod s key f).flt = s.flt := rfl
@[simp] theorem rmod_book_eq (key : Nat) (f : Nat → Nat) : (rmod s key f).book = s.book := rfl
@[simp] theorem rmod_sram_eq (key : Nat) (f : Nat → Nat) : (rmod s key f).sram = s.sram := rfl
@[simp] theorem rmod_ecc_eq (key : Nat) (f : Nat → Nat) : (rmod s key f).ecc = s.ecc := rfl
@[simp] theorem rmod_freeCtr_eq (key : Nat) (f : Nat → Nat) : (rmod s key f).freeCtr = s.freeCtr := rfl
@[simp] theorem rmod_pending_eq (key : Nat) (f : Nat → Nat) : (rmod s key f).pending = s.pending := rfl

@[simp] theorem sramSet_lt_eq (a : Nat) (b : Byte) : (sramSet s a b).lt = s.lt := rfl
@[simp] theorem sramSet_pwr_eq (a : Nat) (b : Byte) : (sramSet s a b).pwr = s.pwr := rfl
@[simp] theorem sramSet_host_eq (a : Nat) (b : Byte) : (sramSet s a b).host = s.host := rfl
@[simp] theorem sramSet_led_eq (a : Nat) (b : Byte) : (sramSet s a b).led = s.led := rfl
@[simp] theorem sramSet_st_eq (a : Nat) (b : Byte) : (sramSet s a b).st = s.st := rfl
@[simp] theorem sramSet_dma_eq (a : Nat) (b : Byte) : (sramSet s a b).dma = s.dma := rfl
@[simp] theorem sramSet_line_eq (a : Nat) (b : Byte) : (sramSet s a b).line = s.line := rfl
@[simp] theorem sramSet_fab_eq (a : Nat) (b : Byte) : (sramSet s a b).fab = s.fab := rfl
@[simp] theorem sramSet_prot_eq (a : Nat) (b : Byte) : (sramSet s a b).prot = s.prot := rfl
@[simp] theorem sramSet_mate_eq (a : Nat) (b : Byte) : (sramSet s a b).mate = s.mate := rfl
@[simp] theorem sramSet_dun_eq (a : Nat) (b : Byte) : (sramSet s a b).dun = s.dun := rfl
@[simp] theorem sramSet_cam_eq (a : Nat) (b : Byte) : (sramSet s a b).cam = s.cam := rfl
@[simp] theorem sramSet_scan_eq (a : Nat) (b : Byte) : (sramSet s a b).scan = s.scan := rfl
@[simp] theorem sramSet_radio_eq (a : Nat) (b : Byte) : (sramSet s a b).radio = s.radio := rfl
@[simp] theorem sramSet_mon_eq (a : Nat) (b : Byte) : (sramSet s a b).mon = s.mon := rfl
@[simp] theorem sramSet_flt_eq (a : Nat) (b : Byte) : (sramSet s a b).flt = s.flt := rfl
@[simp] theorem sramSet_book_eq (a : Nat) (b : Byte) : (sramSet s a b).book = s.book := rfl
@[simp] theorem sramSet_regs_eq (a : Nat) (b : Byte) : (sramSet s a b).regs = s.regs := rfl
@[simp] theorem sramSet_freeCtr_eq (a : Nat) (b : Byte) : (sramSet s a b).freeCtr = s.freeCtr := rfl
@[simp] theorem sramSet_pending_eq (a : Nat) (b : Byte) : (sramSet s a b).pending = s.pending := rfl

@[simp] theorem modPath_lt_eq (k : Nat) (f : PathState → PathState) : (modPath k f s).lt = s.lt := rfl
@[simp] theorem modPath_pwr_eq (k : Nat) (f : PathState → PathState) : (modPath k f s).pwr = s.pwr := rfl
@[simp] theorem modPath_led_eq (k : Nat) (f : PathState → PathState) : (modPath k f s).led = s.led := rfl
@[simp] theorem modPath_st_eq (k : Nat) (f : PathState → PathState) : (modPath k f s).st = s.st := rfl
@[simp] theorem modPath_dma_eq (k : Nat) (f : PathState → PathState) : (modPath k f s).dma = s.dma := rfl
@[simp] theorem modPath_line_eq (k : Nat) (f : PathState → PathState) : (modPath k f s).line = s.line := rfl
@[simp] theorem modPath_fab_eq (k : Nat) (f : PathState → PathState) : (modPath k f s).fab = s.fab := rfl
@[simp] theorem modPath_prot_eq (k : Nat) (f : PathState → PathState) : (modPath k f s).prot = s.prot := rfl
@[simp] theorem modPath_mate_eq (k : Nat) (f : PathState → PathState) : (modPath k f s).mate = s.mate := rfl
@[simp] theorem modPath_dun_eq (k : Nat) (f : PathState → PathState) : (modPath k f s).dun = s.dun := rfl
@[simp] theorem modPath_cam_eq (k : Nat) (f : PathState → PathState) : (modPath k f s).cam = s.cam := rfl
@[simp] theorem modPath_scan_eq (k : Nat) (f : PathState → PathState) : (modPath k f s).scan = s.scan := rfl
@[simp] theorem modPath_radio_eq (k : Nat) (f : PathState → PathState) : (modPath k f s).radio = s.radio := rfl
@[simp] theorem modPath_mon_eq (k : Nat) (f : PathState → PathState) : (modPath k f s).mon = s.mon := rfl
@[simp] theorem modPath_flt_eq (k : Nat) (f : PathState → PathState) : (modPath k f s).flt = s.flt := rfl
@[simp] theorem modPath_book_eq (k : Nat) (f : PathState → PathState) : (modPath k f s).book = s.book := rfl
@[simp] theorem modPath_regs_eq (k : Nat) (f : PathState → PathState) : (modPath k f s).regs = s.regs := rfl
@[simp] theorem modPath_sram_eq (k : Nat) (f : PathState → PathState) : (modPath k f s).sram = s.sram := rfl
@[simp] theorem modPath_ecc_eq (k : Nat) (f : PathState → PathState) : (modPath k f s).ecc = s.ecc := rfl
@[simp] theorem modPath_freeCtr_eq (k : Nat) (f : PathState → PathState) : (modPath k f s).freeCtr = s.freeCtr := rfl
@[simp] theorem modPath_pending_eq (k : Nat) (f : PathState → PathState) : (modPath k f s).pending = s.pending := rfl

@[simp] theorem modHost_lt_eq (f : HostState → HostState) : (modHost f s).lt = s.lt := rfl
@[simp] theorem modHost_pwr_eq (f : HostState → HostState) : (modHost f s).pwr = s.pwr := rfl
@[simp] theorem modHost_led_eq (f : HostState → HostState) : (modHost f s).led = s.led := rfl
@[simp] theorem modHost_st_eq (f : HostState → HostState) : (modHost f s).st = s.st := rfl
@[simp] theorem modHost_dma_eq (f : HostState → HostState) : (modHost f s).dma = s.dma := rfl
@[simp] theorem modHost_line_eq (f : HostState → HostState) : (modHost f s).line = s.line := rfl
@[simp] theorem modHost_fab_eq (f : HostState → HostState) : (modHost f s).fab = s.fab := rfl
@[simp] theorem modHost_prot_eq (f : HostState → HostState) : (modHost f s).prot = s.prot := rfl
@[simp] theorem modHost_mate_eq (f : HostState → HostState) : (modHost f s).mate = s.mate := rfl
@[simp] theorem modHost_dun_eq (f : HostState → HostState) : (modHost f s).dun = s.dun := rfl
@[simp] theorem modHost_cam_eq (f : HostState → HostState) : (modHost f s).cam = s.cam := rfl
@[simp] theorem modHost_scan_eq (f : HostState → HostState) : (modHost f s).scan = s.scan := rfl
@[simp] theorem modHost_radio_eq (f : HostState → HostState) : (modHost f s).radio = s.radio := rfl
@[simp] theorem modHost_mon_eq (f : HostState → HostState) : (modHost f s).mon = s.mon := rfl
@[simp] theorem modHost_flt_eq (f : HostState → HostState) : (modHost f s).flt = s.flt := rfl
@[simp] theorem modHost_book_eq (f : HostState → HostState) : (modHost f s).book = s.book := rfl
@[simp] theorem modHost_regs_eq (f : HostState → HostState) : (modHost f s).regs = s.regs := rfl
@[simp] theorem modHost_sram_eq (f : HostState → HostState) : (modHost f s).sram = s.sram := rfl
@[simp] theorem modHost_ecc_eq (f : HostState → HostState) : (modHost f s).ecc = s.ecc := rfl
@[simp] theorem modHost_freeCtr_eq (f : HostState → HostState) : (modHost f s).freeCtr = s.freeCtr := rfl
@[simp] theorem modHost_pending_eq (f : HostState → HostState) : (modHost f s).pending = s.pending := rfl

@[simp] theorem setDom_lt_eq (d : Nat) (x : DomState) : (setDom d x s).lt = s.lt := rfl
@[simp] theorem setDom_host_eq (d : Nat) (x : DomState) : (setDom d x s).host = s.host := rfl
@[simp] theorem setDom_led_eq (d : Nat) (x : DomState) : (setDom d x s).led = s.led := rfl
@[simp] theorem setDom_st_eq (d : Nat) (x : DomState) : (setDom d x s).st = s.st := rfl
@[simp] theorem setDom_dma_eq (d : Nat) (x : DomState) : (setDom d x s).dma = s.dma := rfl
@[simp] theorem setDom_line_eq (d : Nat) (x : DomState) : (setDom d x s).line = s.line := rfl
@[simp] theorem setDom_fab_eq (d : Nat) (x : DomState) : (setDom d x s).fab = s.fab := rfl
@[simp] theorem setDom_prot_eq (d : Nat) (x : DomState) : (setDom d x s).prot = s.prot := rfl
@[simp] theorem setDom_mate_eq (d : Nat) (x : DomState) : (setDom d x s).mate = s.mate := rfl
@[simp] theorem setDom_dun_eq (d : Nat) (x : DomState) : (setDom d x s).dun = s.dun := rfl
@[simp] theorem setDom_cam_eq (d : Nat) (x : DomState) : (setDom d x s).cam = s.cam := rfl
@[simp] theorem setDom_scan_eq (d : Nat) (x : DomState) : (setDom d x s).scan = s.scan := rfl
@[simp] theorem setDom_radio_eq (d : Nat) (x : DomState) : (setDom d x s).radio = s.radio := rfl
@[simp] theorem setDom_mon_eq (d : Nat) (x : DomState) : (setDom d x s).mon = s.mon := rfl
@[simp] theorem setDom_flt_eq (d : Nat) (x : DomState) : (setDom d x s).flt = s.flt := rfl
@[simp] theorem setDom_book_eq (d : Nat) (x : DomState) : (setDom d x s).book = s.book := rfl
@[simp] theorem setDom_regs_eq (d : Nat) (x : DomState) : (setDom d x s).regs = s.regs := rfl
@[simp] theorem setDom_sram_eq (d : Nat) (x : DomState) : (setDom d x s).sram = s.sram := rfl
@[simp] theorem setDom_ecc_eq (d : Nat) (x : DomState) : (setDom d x s).ecc = s.ecc := rfl
@[simp] theorem setDom_freeCtr_eq (d : Nat) (x : DomState) : (setDom d x s).freeCtr = s.freeCtr := rfl
@[simp] theorem setDom_pending_eq (d : Nat) (x : DomState) : (setDom d x s).pending = s.pending := rfl

@[simp] theorem setEventFlags_lt_eq (n v : Nat) : (setEventFlags n v s).lt = s.lt := rfl
@[simp] theorem setEventFlags_pwr_eq (n v : Nat) : (setEventFlags n v s).pwr = s.pwr := rfl
@[simp] theorem setEventFlags_host_eq (n v : Nat) : (setEventFlags n v s).host = s.host := rfl
@[simp] theorem setEventFlags_led_eq (n v : Nat) : (setEventFlags n v s).led = s.led := rfl
@[simp] theorem setEventFlags_dma_eq (n v : Nat) : (setEventFlags n v s).dma = s.dma := rfl
@[simp] theorem setEventFlags_line_eq (n v : Nat) : (setEventFlags n v s).line = s.line := rfl
@[simp] theorem setEventFlags_fab_eq (n v : Nat) : (setEventFlags n v s).fab = s.fab := rfl
@[simp] theorem setEventFlags_prot_eq (n v : Nat) : (setEventFlags n v s).prot = s.prot := rfl
@[simp] theorem setEventFlags_mate_eq (n v : Nat) : (setEventFlags n v s).mate = s.mate := rfl
@[simp] theorem setEventFlags_dun_eq (n v : Nat) : (setEventFlags n v s).dun = s.dun := rfl
@[simp] theorem setEventFlags_cam_eq (n v : Nat) : (setEventFlags n v s).cam = s.cam := rfl
@[simp] theorem setEventFlags_scan_eq (n v : Nat) : (setEventFlags n v s).scan = s.scan := rfl
@[simp] theorem setEventFlags_radio_eq (n v : Nat) : (setEventFlags n v s).radio = s.radio := rfl
@[simp] theorem setEventFlags_mon_eq (n v : Nat) : (setEventFlags n v s).mon = s.mon := rfl
@[simp] theorem setEventFlags_flt_eq (n v : Nat) : (setEventFlags n v s).flt = s.flt := rfl
@[simp] theorem setEventFlags_book_eq (n v : Nat) : (setEventFlags n v s).book = s.book := rfl
@[simp] theorem setEventFlags_regs_eq (n v : Nat) : (setEventFlags n v s).regs = s.regs := rfl
@[simp] theorem setEventFlags_sram_eq (n v : Nat) : (setEventFlags n v s).sram = s.sram := rfl
@[simp] theorem setEventFlags_ecc_eq (n v : Nat) : (setEventFlags n v s).ecc = s.ecc := rfl
@[simp] theorem setEventFlags_freeCtr_eq (n v : Nat) : (setEventFlags n v s).freeCtr = s.freeCtr := rfl
@[simp] theorem setEventFlags_pending_eq (n v : Nat) : (setEventFlags n v s).pending = s.pending := rfl

@[simp] theorem setChan_lt_eq (c : Nat) (x : Channel) : (setChan c x s).lt = s.lt := rfl
@[simp] theorem setChan_pwr_eq (c : Nat) (x : Channel) : (setChan c x s).pwr = s.pwr := rfl
@[simp] theorem setChan_host_eq (c : Nat) (x : Channel) : (setChan c x s).host = s.host := rfl
@[simp] theorem setChan_led_eq (c : Nat) (x : Channel) : (setChan c x s).led = s.led := rfl
@[simp] theorem setChan_st_eq (c : Nat) (x : Channel) : (setChan c x s).st = s.st := rfl
@[simp] theorem setChan_line_eq (c : Nat) (x : Channel) : (setChan c x s).line = s.line := rfl
@[simp] theorem setChan_fab_eq (c : Nat) (x : Channel) : (setChan c x s).fab = s.fab := rfl
@[simp] theorem setChan_prot_eq (c : Nat) (x : Channel) : (setChan c x s).prot = s.prot := rfl
@[simp] theorem setChan_mate_eq (c : Nat) (x : Channel) : (setChan c x s).mate = s.mate := rfl
@[simp] theorem setChan_dun_eq (c : Nat) (x : Channel) : (setChan c x s).dun = s.dun := rfl
@[simp] theorem setChan_cam_eq (c : Nat) (x : Channel) : (setChan c x s).cam = s.cam := rfl
@[simp] theorem setChan_scan_eq (c : Nat) (x : Channel) : (setChan c x s).scan = s.scan := rfl
@[simp] theorem setChan_radio_eq (c : Nat) (x : Channel) : (setChan c x s).radio = s.radio := rfl
@[simp] theorem setChan_mon_eq (c : Nat) (x : Channel) : (setChan c x s).mon = s.mon := rfl
@[simp] theorem setChan_flt_eq (c : Nat) (x : Channel) : (setChan c x s).flt = s.flt := rfl
@[simp] theorem setChan_book_eq (c : Nat) (x : Channel) : (setChan c x s).book = s.book := rfl
@[simp] theorem setChan_regs_eq (c : Nat) (x : Channel) : (setChan c x s).regs = s.regs := rfl
@[simp] theorem setChan_sram_eq (c : Nat) (x : Channel) : (setChan c x s).sram = s.sram := rfl
@[simp] theorem setChan_ecc_eq (c : Nat) (x : Channel) : (setChan c x s).ecc = s.ecc := rfl
@[simp] theorem setChan_freeCtr_eq (c : Nat) (x : Channel) : (setChan c x s).freeCtr = s.freeCtr := rfl
@[simp] theorem setChan_pending_eq (c : Nat) (x : Channel) : (setChan c x s).pending = s.pending := rfl

@[simp] theorem setMover_lt_eq (m : Nat) (b : Option Burst) : (setMover m b s).lt = s.lt := rfl
@[simp] theorem setMover_pwr_eq (m : Nat) (b : Option Burst) : (setMover m b s).pwr = s.pwr := rfl
@[simp] theorem setMover_host_eq (m : Nat) (b : Option Burst) : (setMover m b s).host = s.host := rfl
@[simp] theorem setMover_led_eq (m : Nat) (b : Option Burst) : (setMover m b s).led = s.led := rfl
@[simp] theorem setMover_st_eq (m : Nat) (b : Option Burst) : (setMover m b s).st = s.st := rfl
@[simp] theorem setMover_line_eq (m : Nat) (b : Option Burst) : (setMover m b s).line = s.line := rfl
@[simp] theorem setMover_fab_eq (m : Nat) (b : Option Burst) : (setMover m b s).fab = s.fab := rfl
@[simp] theorem setMover_prot_eq (m : Nat) (b : Option Burst) : (setMover m b s).prot = s.prot := rfl
@[simp] theorem setMover_mate_eq (m : Nat) (b : Option Burst) : (setMover m b s).mate = s.mate := rfl
@[simp] theorem setMover_dun_eq (m : Nat) (b : Option Burst) : (setMover m b s).dun = s.dun := rfl
@[simp] theorem setMover_cam_eq (m : Nat) (b : Option Burst) : (setMover m b s).cam = s.cam := rfl
@[simp] theorem setMover_scan_eq (m : Nat) (b : Option Burst) : (setMover m b s).scan = s.scan := rfl
@[simp] theorem setMover_radio_eq (m : Nat) (b : Option Burst) : (setMover m b s).radio = s.radio := rfl
@[simp] theorem setMover_mon_eq (m : Nat) (b : Option Burst) : (setMover m b s).mon = s.mon := rfl
@[simp] theorem setMover_flt_eq (m : Nat) (b : Option Burst) : (setMover m b s).flt = s.flt := rfl
@[simp] theorem setMover_book_eq (m : Nat) (b : Option Burst) : (setMover m b s).book = s.book := rfl
@[simp] theorem setMover_regs_eq (m : Nat) (b : Option Burst) : (setMover m b s).regs = s.regs := rfl
@[simp] theorem setMover_sram_eq (m : Nat) (b : Option Burst) : (setMover m b s).sram = s.sram := rfl
@[simp] theorem setMover_ecc_eq (m : Nat) (b : Option Burst) : (setMover m b s).ecc = s.ecc := rfl
@[simp] theorem setMover_freeCtr_eq (m : Nat) (b : Option Burst) : (setMover m b s).freeCtr = s.freeCtr := rfl
@[simp] theorem setMover_pending_eq (m : Nat) (b : Option Burst) : (setMover m b s).pending = s.pending := rfl

@[simp] theorem setPort_lt_eq (p : Nat) (x : LinePort) : (setPort p x s).lt = s.lt := rfl
@[simp] theorem setPort_pwr_eq (p : Nat) (x : LinePort) : (setPort p x s).pwr = s.pwr := rfl
@[simp] theorem setPort_host_eq (p : Nat) (x : LinePort) : (setPort p x s).host = s.host := rfl
@[simp] theorem setPort_led_eq (p : Nat) (x : LinePort) : (setPort p x s).led = s.led := rfl
@[simp] theorem setPort_st_eq (p : Nat) (x : LinePort) : (setPort p x s).st = s.st := rfl
@[simp] theorem setPort_dma_eq (p : Nat) (x : LinePort) : (setPort p x s).dma = s.dma := rfl
@[simp] theorem setPort_fab_eq (p : Nat) (x : LinePort) : (setPort p x s).fab = s.fab := rfl
@[simp] theorem setPort_prot_eq (p : Nat) (x : LinePort) : (setPort p x s).prot = s.prot := rfl
@[simp] theorem setPort_mate_eq (p : Nat) (x : LinePort) : (setPort p x s).mate = s.mate := rfl
@[simp] theorem setPort_dun_eq (p : Nat) (x : LinePort) : (setPort p x s).dun = s.dun := rfl
@[simp] theorem setPort_cam_eq (p : Nat) (x : LinePort) : (setPort p x s).cam = s.cam := rfl
@[simp] theorem setPort_scan_eq (p : Nat) (x : LinePort) : (setPort p x s).scan = s.scan := rfl
@[simp] theorem setPort_radio_eq (p : Nat) (x : LinePort) : (setPort p x s).radio = s.radio := rfl
@[simp] theorem setPort_mon_eq (p : Nat) (x : LinePort) : (setPort p x s).mon = s.mon := rfl
@[simp] theorem setPort_flt_eq (p : Nat) (x : LinePort) : (setPort p x s).flt = s.flt := rfl
@[simp] theorem setPort_book_eq (p : Nat) (x : LinePort) : (setPort p x s).book = s.book := rfl
@[simp] theorem setPort_regs_eq (p : Nat) (x : LinePort) : (setPort p x s).regs = s.regs := rfl
@[simp] theorem setPort_sram_eq (p : Nat) (x : LinePort) : (setPort p x s).sram = s.sram := rfl
@[simp] theorem setPort_ecc_eq (p : Nat) (x : LinePort) : (setPort p x s).ecc = s.ecc := rfl
@[simp] theorem setPort_freeCtr_eq (p : Nat) (x : LinePort) : (setPort p x s).freeCtr = s.freeCtr := rfl
@[simp] theorem setPort_pending_eq (p : Nat) (x : LinePort) : (setPort p x s).pending = s.pending := rfl

@[simp] theorem setGfp_lt_eq (c : Nat) (x : GfpChan) : (setGfp c x s).lt = s.lt := rfl
@[simp] theorem setGfp_pwr_eq (c : Nat) (x : GfpChan) : (setGfp c x s).pwr = s.pwr := rfl
@[simp] theorem setGfp_host_eq (c : Nat) (x : GfpChan) : (setGfp c x s).host = s.host := rfl
@[simp] theorem setGfp_led_eq (c : Nat) (x : GfpChan) : (setGfp c x s).led = s.led := rfl
@[simp] theorem setGfp_st_eq (c : Nat) (x : GfpChan) : (setGfp c x s).st = s.st := rfl
@[simp] theorem setGfp_dma_eq (c : Nat) (x : GfpChan) : (setGfp c x s).dma = s.dma := rfl
@[simp] theorem setGfp_fab_eq (c : Nat) (x : GfpChan) : (setGfp c x s).fab = s.fab := rfl
@[simp] theorem setGfp_prot_eq (c : Nat) (x : GfpChan) : (setGfp c x s).prot = s.prot := rfl
@[simp] theorem setGfp_mate_eq (c : Nat) (x : GfpChan) : (setGfp c x s).mate = s.mate := rfl
@[simp] theorem setGfp_dun_eq (c : Nat) (x : GfpChan) : (setGfp c x s).dun = s.dun := rfl
@[simp] theorem setGfp_cam_eq (c : Nat) (x : GfpChan) : (setGfp c x s).cam = s.cam := rfl
@[simp] theorem setGfp_scan_eq (c : Nat) (x : GfpChan) : (setGfp c x s).scan = s.scan := rfl
@[simp] theorem setGfp_radio_eq (c : Nat) (x : GfpChan) : (setGfp c x s).radio = s.radio := rfl
@[simp] theorem setGfp_mon_eq (c : Nat) (x : GfpChan) : (setGfp c x s).mon = s.mon := rfl
@[simp] theorem setGfp_flt_eq (c : Nat) (x : GfpChan) : (setGfp c x s).flt = s.flt := rfl
@[simp] theorem setGfp_book_eq (c : Nat) (x : GfpChan) : (setGfp c x s).book = s.book := rfl
@[simp] theorem setGfp_regs_eq (c : Nat) (x : GfpChan) : (setGfp c x s).regs = s.regs := rfl
@[simp] theorem setGfp_sram_eq (c : Nat) (x : GfpChan) : (setGfp c x s).sram = s.sram := rfl
@[simp] theorem setGfp_ecc_eq (c : Nat) (x : GfpChan) : (setGfp c x s).ecc = s.ecc := rfl
@[simp] theorem setGfp_freeCtr_eq (c : Nat) (x : GfpChan) : (setGfp c x s).freeCtr = s.freeCtr := rfl
@[simp] theorem setGfp_pending_eq (c : Nat) (x : GfpChan) : (setGfp c x s).pending = s.pending := rfl

@[simp] theorem setRot_lt_eq (lo : Bool) (r : Rotation) : (setRot lo r s).lt = s.lt := rfl
@[simp] theorem setRot_pwr_eq (lo : Bool) (r : Rotation) : (setRot lo r s).pwr = s.pwr := rfl
@[simp] theorem setRot_host_eq (lo : Bool) (r : Rotation) : (setRot lo r s).host = s.host := rfl
@[simp] theorem setRot_led_eq (lo : Bool) (r : Rotation) : (setRot lo r s).led = s.led := rfl
@[simp] theorem setRot_st_eq (lo : Bool) (r : Rotation) : (setRot lo r s).st = s.st := rfl
@[simp] theorem setRot_dma_eq (lo : Bool) (r : Rotation) : (setRot lo r s).dma = s.dma := rfl
@[simp] theorem setRot_line_eq (lo : Bool) (r : Rotation) : (setRot lo r s).line = s.line := rfl
@[simp] theorem setRot_prot_eq (lo : Bool) (r : Rotation) : (setRot lo r s).prot = s.prot := rfl
@[simp] theorem setRot_mate_eq (lo : Bool) (r : Rotation) : (setRot lo r s).mate = s.mate := rfl
@[simp] theorem setRot_dun_eq (lo : Bool) (r : Rotation) : (setRot lo r s).dun = s.dun := rfl
@[simp] theorem setRot_cam_eq (lo : Bool) (r : Rotation) : (setRot lo r s).cam = s.cam := rfl
@[simp] theorem setRot_scan_eq (lo : Bool) (r : Rotation) : (setRot lo r s).scan = s.scan := rfl
@[simp] theorem setRot_radio_eq (lo : Bool) (r : Rotation) : (setRot lo r s).radio = s.radio := rfl
@[simp] theorem setRot_mon_eq (lo : Bool) (r : Rotation) : (setRot lo r s).mon = s.mon := rfl
@[simp] theorem setRot_flt_eq (lo : Bool) (r : Rotation) : (setRot lo r s).flt = s.flt := rfl
@[simp] theorem setRot_book_eq (lo : Bool) (r : Rotation) : (setRot lo r s).book = s.book := rfl
@[simp] theorem setRot_regs_eq (lo : Bool) (r : Rotation) : (setRot lo r s).regs = s.regs := rfl
@[simp] theorem setRot_sram_eq (lo : Bool) (r : Rotation) : (setRot lo r s).sram = s.sram := rfl
@[simp] theorem setRot_ecc_eq (lo : Bool) (r : Rotation) : (setRot lo r s).ecc = s.ecc := rfl
@[simp] theorem setRot_freeCtr_eq (lo : Bool) (r : Rotation) : (setRot lo r s).freeCtr = s.freeCtr := rfl
@[simp] theorem setRot_pending_eq (lo : Bool) (r : Rotation) : (setRot lo r s).pending = s.pending := rfl

@[simp] theorem modConn_lt_eq (n : Nat) (f : Conn → Conn) : (modConn n f s).lt = s.lt := rfl
@[simp] theorem modConn_pwr_eq (n : Nat) (f : Conn → Conn) : (modConn n f s).pwr = s.pwr := rfl
@[simp] theorem modConn_host_eq (n : Nat) (f : Conn → Conn) : (modConn n f s).host = s.host := rfl
@[simp] theorem modConn_led_eq (n : Nat) (f : Conn → Conn) : (modConn n f s).led = s.led := rfl
@[simp] theorem modConn_st_eq (n : Nat) (f : Conn → Conn) : (modConn n f s).st = s.st := rfl
@[simp] theorem modConn_dma_eq (n : Nat) (f : Conn → Conn) : (modConn n f s).dma = s.dma := rfl
@[simp] theorem modConn_line_eq (n : Nat) (f : Conn → Conn) : (modConn n f s).line = s.line := rfl
@[simp] theorem modConn_prot_eq (n : Nat) (f : Conn → Conn) : (modConn n f s).prot = s.prot := rfl
@[simp] theorem modConn_mate_eq (n : Nat) (f : Conn → Conn) : (modConn n f s).mate = s.mate := rfl
@[simp] theorem modConn_dun_eq (n : Nat) (f : Conn → Conn) : (modConn n f s).dun = s.dun := rfl
@[simp] theorem modConn_cam_eq (n : Nat) (f : Conn → Conn) : (modConn n f s).cam = s.cam := rfl
@[simp] theorem modConn_scan_eq (n : Nat) (f : Conn → Conn) : (modConn n f s).scan = s.scan := rfl
@[simp] theorem modConn_radio_eq (n : Nat) (f : Conn → Conn) : (modConn n f s).radio = s.radio := rfl
@[simp] theorem modConn_mon_eq (n : Nat) (f : Conn → Conn) : (modConn n f s).mon = s.mon := rfl
@[simp] theorem modConn_flt_eq (n : Nat) (f : Conn → Conn) : (modConn n f s).flt = s.flt := rfl
@[simp] theorem modConn_book_eq (n : Nat) (f : Conn → Conn) : (modConn n f s).book = s.book := rfl
@[simp] theorem modConn_regs_eq (n : Nat) (f : Conn → Conn) : (modConn n f s).regs = s.regs := rfl
@[simp] theorem modConn_sram_eq (n : Nat) (f : Conn → Conn) : (modConn n f s).sram = s.sram := rfl
@[simp] theorem modConn_ecc_eq (n : Nat) (f : Conn → Conn) : (modConn n f s).ecc = s.ecc := rfl
@[simp] theorem modConn_freeCtr_eq (n : Nat) (f : Conn → Conn) : (modConn n f s).freeCtr = s.freeCtr := rfl
@[simp] theorem modConn_pending_eq (n : Nat) (f : Conn → Conn) : (modConn n f s).pending = s.pending := rfl

@[simp] theorem modMate_lt_eq (f : MateState → MateState) : (modMate f s).lt = s.lt := rfl
@[simp] theorem modMate_pwr_eq (f : MateState → MateState) : (modMate f s).pwr = s.pwr := rfl
@[simp] theorem modMate_host_eq (f : MateState → MateState) : (modMate f s).host = s.host := rfl
@[simp] theorem modMate_led_eq (f : MateState → MateState) : (modMate f s).led = s.led := rfl
@[simp] theorem modMate_st_eq (f : MateState → MateState) : (modMate f s).st = s.st := rfl
@[simp] theorem modMate_dma_eq (f : MateState → MateState) : (modMate f s).dma = s.dma := rfl
@[simp] theorem modMate_line_eq (f : MateState → MateState) : (modMate f s).line = s.line := rfl
@[simp] theorem modMate_fab_eq (f : MateState → MateState) : (modMate f s).fab = s.fab := rfl
@[simp] theorem modMate_prot_eq (f : MateState → MateState) : (modMate f s).prot = s.prot := rfl
@[simp] theorem modMate_dun_eq (f : MateState → MateState) : (modMate f s).dun = s.dun := rfl
@[simp] theorem modMate_cam_eq (f : MateState → MateState) : (modMate f s).cam = s.cam := rfl
@[simp] theorem modMate_scan_eq (f : MateState → MateState) : (modMate f s).scan = s.scan := rfl
@[simp] theorem modMate_radio_eq (f : MateState → MateState) : (modMate f s).radio = s.radio := rfl
@[simp] theorem modMate_mon_eq (f : MateState → MateState) : (modMate f s).mon = s.mon := rfl
@[simp] theorem modMate_flt_eq (f : MateState → MateState) : (modMate f s).flt = s.flt := rfl
@[simp] theorem modMate_book_eq (f : MateState → MateState) : (modMate f s).book = s.book := rfl
@[simp] theorem modMate_regs_eq (f : MateState → MateState) : (modMate f s).regs = s.regs := rfl
@[simp] theorem modMate_sram_eq (f : MateState → MateState) : (modMate f s).sram = s.sram := rfl
@[simp] theorem modMate_ecc_eq (f : MateState → MateState) : (modMate f s).ecc = s.ecc := rfl
@[simp] theorem modMate_freeCtr_eq (f : MateState → MateState) : (modMate f s).freeCtr = s.freeCtr := rfl
@[simp] theorem modMate_pending_eq (f : MateState → MateState) : (modMate f s).pending = s.pending := rfl

@[simp] theorem setLane_lt_eq (l : Nat) (x : Lane) : (setLane l x s).lt = s.lt := rfl
@[simp] theorem setLane_pwr_eq (l : Nat) (x : Lane) : (setLane l x s).pwr = s.pwr := rfl
@[simp] theorem setLane_host_eq (l : Nat) (x : Lane) : (setLane l x s).host = s.host := rfl
@[simp] theorem setLane_led_eq (l : Nat) (x : Lane) : (setLane l x s).led = s.led := rfl
@[simp] theorem setLane_st_eq (l : Nat) (x : Lane) : (setLane l x s).st = s.st := rfl
@[simp] theorem setLane_dma_eq (l : Nat) (x : Lane) : (setLane l x s).dma = s.dma := rfl
@[simp] theorem setLane_line_eq (l : Nat) (x : Lane) : (setLane l x s).line = s.line := rfl
@[simp] theorem setLane_fab_eq (l : Nat) (x : Lane) : (setLane l x s).fab = s.fab := rfl
@[simp] theorem setLane_prot_eq (l : Nat) (x : Lane) : (setLane l x s).prot = s.prot := rfl
@[simp] theorem setLane_mate_eq (l : Nat) (x : Lane) : (setLane l x s).mate = s.mate := rfl
@[simp] theorem setLane_cam_eq (l : Nat) (x : Lane) : (setLane l x s).cam = s.cam := rfl
@[simp] theorem setLane_scan_eq (l : Nat) (x : Lane) : (setLane l x s).scan = s.scan := rfl
@[simp] theorem setLane_radio_eq (l : Nat) (x : Lane) : (setLane l x s).radio = s.radio := rfl
@[simp] theorem setLane_mon_eq (l : Nat) (x : Lane) : (setLane l x s).mon = s.mon := rfl
@[simp] theorem setLane_flt_eq (l : Nat) (x : Lane) : (setLane l x s).flt = s.flt := rfl
@[simp] theorem setLane_book_eq (l : Nat) (x : Lane) : (setLane l x s).book = s.book := rfl
@[simp] theorem setLane_regs_eq (l : Nat) (x : Lane) : (setLane l x s).regs = s.regs := rfl
@[simp] theorem setLane_sram_eq (l : Nat) (x : Lane) : (setLane l x s).sram = s.sram := rfl
@[simp] theorem setLane_ecc_eq (l : Nat) (x : Lane) : (setLane l x s).ecc = s.ecc := rfl
@[simp] theorem setLane_freeCtr_eq (l : Nat) (x : Lane) : (setLane l x s).freeCtr = s.freeCtr := rfl
@[simp] theorem setLane_pending_eq (l : Nat) (x : Lane) : (setLane l x s).pending = s.pending := rfl

@[simp] theorem modCam_lt_eq (c : Nat) (f : Camera → Camera) : (modCam c f s).lt = s.lt := rfl
@[simp] theorem modCam_pwr_eq (c : Nat) (f : Camera → Camera) : (modCam c f s).pwr = s.pwr := rfl
@[simp] theorem modCam_host_eq (c : Nat) (f : Camera → Camera) : (modCam c f s).host = s.host := rfl
@[simp] theorem modCam_led_eq (c : Nat) (f : Camera → Camera) : (modCam c f s).led = s.led := rfl
@[simp] theorem modCam_st_eq (c : Nat) (f : Camera → Camera) : (modCam c f s).st = s.st := rfl
@[simp] theorem modCam_dma_eq (c : Nat) (f : Camera → Camera) : (modCam c f s).dma = s.dma := rfl
@[simp] theorem modCam_line_eq (c : Nat) (f : Camera → Camera) : (modCam c f s).line = s.line := rfl
@[simp] theorem modCam_fab_eq (c : Nat) (f : Camera → Camera) : (modCam c f s).fab = s.fab := rfl
@[simp] theorem modCam_prot_eq (c : Nat) (f : Camera → Camera) : (modCam c f s).prot = s.prot := rfl
@[simp] theorem modCam_mate_eq (c : Nat) (f : Camera → Camera) : (modCam c f s).mate = s.mate := rfl
@[simp] theorem modCam_dun_eq (c : Nat) (f : Camera → Camera) : (modCam c f s).dun = s.dun := rfl
@[simp] theorem modCam_scan_eq (c : Nat) (f : Camera → Camera) : (modCam c f s).scan = s.scan := rfl
@[simp] theorem modCam_radio_eq (c : Nat) (f : Camera → Camera) : (modCam c f s).radio = s.radio := rfl
@[simp] theorem modCam_mon_eq (c : Nat) (f : Camera → Camera) : (modCam c f s).mon = s.mon := rfl
@[simp] theorem modCam_flt_eq (c : Nat) (f : Camera → Camera) : (modCam c f s).flt = s.flt := rfl
@[simp] theorem modCam_book_eq (c : Nat) (f : Camera → Camera) : (modCam c f s).book = s.book := rfl
@[simp] theorem modCam_regs_eq (c : Nat) (f : Camera → Camera) : (modCam c f s).regs = s.regs := rfl
@[simp] theorem modCam_sram_eq (c : Nat) (f : Camera → Camera) : (modCam c f s).sram = s.sram := rfl
@[simp] theorem modCam_ecc_eq (c : Nat) (f : Camera → Camera) : (modCam c f s).ecc = s.ecc := rfl
@[simp] theorem modCam_freeCtr_eq (c : Nat) (f : Camera → Camera) : (modCam c f s).freeCtr = s.freeCtr := rfl
@[simp] theorem modCam_pending_eq (c : Nat) (f : Camera → Camera) : (modCam c f s).pending = s.pending := rfl

@[simp] theorem modRx_lt_eq (r : Nat) (f : CamRx → CamRx) : (modRx r f s).lt = s.lt := rfl
@[simp] theorem modRx_pwr_eq (r : Nat) (f : CamRx → CamRx) : (modRx r f s).pwr = s.pwr := rfl
@[simp] theorem modRx_host_eq (r : Nat) (f : CamRx → CamRx) : (modRx r f s).host = s.host := rfl
@[simp] theorem modRx_led_eq (r : Nat) (f : CamRx → CamRx) : (modRx r f s).led = s.led := rfl
@[simp] theorem modRx_st_eq (r : Nat) (f : CamRx → CamRx) : (modRx r f s).st = s.st := rfl
@[simp] theorem modRx_dma_eq (r : Nat) (f : CamRx → CamRx) : (modRx r f s).dma = s.dma := rfl
@[simp] theorem modRx_line_eq (r : Nat) (f : CamRx → CamRx) : (modRx r f s).line = s.line := rfl
@[simp] theorem modRx_fab_eq (r : Nat) (f : CamRx → CamRx) : (modRx r f s).fab = s.fab := rfl
@[simp] theorem modRx_prot_eq (r : Nat) (f : CamRx → CamRx) : (modRx r f s).prot = s.prot := rfl
@[simp] theorem modRx_mate_eq (r : Nat) (f : CamRx → CamRx) : (modRx r f s).mate = s.mate := rfl
@[simp] theorem modRx_dun_eq (r : Nat) (f : CamRx → CamRx) : (modRx r f s).dun = s.dun := rfl
@[simp] theorem modRx_scan_eq (r : Nat) (f : CamRx → CamRx) : (modRx r f s).scan = s.scan := rfl
@[simp] theorem modRx_radio_eq (r : Nat) (f : CamRx → CamRx) : (modRx r f s).radio = s.radio := rfl
@[simp] theorem modRx_mon_eq (r : Nat) (f : CamRx → CamRx) : (modRx r f s).mon = s.mon := rfl
@[simp] theorem modRx_flt_eq (r : Nat) (f : CamRx → CamRx) : (modRx r f s).flt = s.flt := rfl
@[simp] theorem modRx_book_eq (r : Nat) (f : CamRx → CamRx) : (modRx r f s).book = s.book := rfl
@[simp] theorem modRx_regs_eq (r : Nat) (f : CamRx → CamRx) : (modRx r f s).regs = s.regs := rfl
@[simp] theorem modRx_sram_eq (r : Nat) (f : CamRx → CamRx) : (modRx r f s).sram = s.sram := rfl
@[simp] theorem modRx_ecc_eq (r : Nat) (f : CamRx → CamRx) : (modRx r f s).ecc = s.ecc := rfl
@[simp] theorem modRx_freeCtr_eq (r : Nat) (f : CamRx → CamRx) : (modRx r f s).freeCtr = s.freeCtr := rfl
@[simp] theorem modRx_pending_eq (r : Nat) (f : CamRx → CamRx) : (modRx r f s).pending = s.pending := rfl

@[simp] theorem modScan_lt_eq (f : ScanState → ScanState) : (modScan f s).lt = s.lt := rfl
@[simp] theorem modScan_pwr_eq (f : ScanState → ScanState) : (modScan f s).pwr = s.pwr := rfl
@[simp] theorem modScan_host_eq (f : ScanState → ScanState) : (modScan f s).host = s.host := rfl
@[simp] theorem modScan_led_eq (f : ScanState → ScanState) : (modScan f s).led = s.led := rfl
@[simp] theorem modScan_st_eq (f : ScanState → ScanState) : (modScan f s).st = s.st := rfl
@[simp] theorem modScan_dma_eq (f : ScanState → ScanState) : (modScan f s).dma = s.dma := rfl
@[simp] theorem modScan_line_eq (f : ScanState → ScanState) : (modScan f s).line = s.line := rfl
@[simp] theorem modScan_fab_eq (f : ScanState → ScanState) : (modScan f s).fab = s.fab := rfl
@[simp] theorem modScan_prot_eq (f : ScanState → ScanState) : (modScan f s).prot = s.prot := rfl
@[simp] theorem modScan_mate_eq (f : ScanState → ScanState) : (modScan f s).mate = s.mate := rfl
@[simp] theorem modScan_dun_eq (f : ScanState → ScanState) : (modScan f s).dun = s.dun := rfl
@[simp] theorem modScan_cam_eq (f : ScanState → ScanState) : (modScan f s).cam = s.cam := rfl
@[simp] theorem modScan_radio_eq (f : ScanState → ScanState) : (modScan f s).radio = s.radio := rfl
@[simp] theorem modScan_mon_eq (f : ScanState → ScanState) : (modScan f s).mon = s.mon := rfl
@[simp] theorem modScan_flt_eq (f : ScanState → ScanState) : (modScan f s).flt = s.flt := rfl
@[simp] theorem modScan_book_eq (f : ScanState → ScanState) : (modScan f s).book = s.book := rfl
@[simp] theorem modScan_regs_eq (f : ScanState → ScanState) : (modScan f s).regs = s.regs := rfl
@[simp] theorem modScan_sram_eq (f : ScanState → ScanState) : (modScan f s).sram = s.sram := rfl
@[simp] theorem modScan_ecc_eq (f : ScanState → ScanState) : (modScan f s).ecc = s.ecc := rfl
@[simp] theorem modScan_freeCtr_eq (f : ScanState → ScanState) : (modScan f s).freeCtr = s.freeCtr := rfl
@[simp] theorem modScan_pending_eq (f : ScanState → ScanState) : (modScan f s).pending = s.pending := rfl

@[simp] theorem modRadio_lt_eq (f : RadioState → RadioState) : (modRadio f s).lt = s.lt := rfl
@[simp] theorem modRadio_pwr_eq (f : RadioState → RadioState) : (modRadio f s).pwr = s.pwr := rfl
@[simp] theorem modRadio_host_eq (f : RadioState → RadioState) : (modRadio f s).host = s.host := rfl
@[simp] theorem modRadio_led_eq (f : RadioState → RadioState) : (modRadio f s).led = s.led := rfl
@[simp] theorem modRadio_st_eq (f : RadioState → RadioState) : (modRadio f s).st = s.st := rfl
@[simp] theorem modRadio_dma_eq (f : RadioState → RadioState) : (modRadio f s).dma = s.dma := rfl
@[simp] theorem modRadio_line_eq (f : RadioState → RadioState) : (modRadio f s).line = s.line := rfl
@[simp] theorem modRadio_fab_eq (f : RadioState → RadioState) : (modRadio f s).fab = s.fab := rfl
@[simp] theorem modRadio_prot_eq (f : RadioState → RadioState) : (modRadio f s).prot = s.prot := rfl
@[simp] theorem modRadio_mate_eq (f : RadioState → RadioState) : (modRadio f s).mate = s.mate := rfl
@[simp] theorem modRadio_dun_eq (f : RadioState → RadioState) : (modRadio f s).dun = s.dun := rfl
@[simp] theorem modRadio_cam_eq (f : RadioState → RadioState) : (modRadio f s).cam = s.cam := rfl
@[simp] theorem modRadio_scan_eq (f : RadioState → RadioState) : (modRadio f s).scan = s.scan := rfl
@[simp] theorem modRadio_mon_eq (f : RadioState → RadioState) : (modRadio f s).mon = s.mon := rfl
@[simp] theorem modRadio_flt_eq (f : RadioState → RadioState) : (modRadio f s).flt = s.flt := rfl
@[simp] theorem modRadio_book_eq (f : RadioState → RadioState) : (modRadio f s).book = s.book := rfl
@[simp] theorem modRadio_regs_eq (f : RadioState → RadioState) : (modRadio f s).regs = s.regs := rfl
@[simp] theorem modRadio_sram_eq (f : RadioState → RadioState) : (modRadio f s).sram = s.sram := rfl
@[simp] theorem modRadio_ecc_eq (f : RadioState → RadioState) : (modRadio f s).ecc = s.ecc := rfl
@[simp] theorem modRadio_freeCtr_eq (f : RadioState → RadioState) : (modRadio f s).freeCtr = s.freeCtr := rfl
@[simp] theorem modRadio_pending_eq (f : RadioState → RadioState) : (modRadio f s).pending = s.pending := rfl

@[simp] theorem modMon_lt_eq (f : MonState → MonState) : (modMon f s).lt = s.lt := rfl
@[simp] theorem modMon_pwr_eq (f : MonState → MonState) : (modMon f s).pwr = s.pwr := rfl
@[simp] theorem modMon_host_eq (f : MonState → MonState) : (modMon f s).host = s.host := rfl
@[simp] theorem modMon_led_eq (f : MonState → MonState) : (modMon f s).led = s.led := rfl
@[simp] theorem modMon_st_eq (f : MonState → MonState) : (modMon f s).st = s.st := rfl
@[simp] theorem modMon_dma_eq (f : MonState → MonState) : (modMon f s).dma = s.dma := rfl
@[simp] theorem modMon_line_eq (f : MonState → MonState) : (modMon f s).line = s.line := rfl
@[simp] theorem modMon_fab_eq (f : MonState → MonState) : (modMon f s).fab = s.fab := rfl
@[simp] theorem modMon_prot_eq (f : MonState → MonState) : (modMon f s).prot = s.prot := rfl
@[simp] theorem modMon_mate_eq (f : MonState → MonState) : (modMon f s).mate = s.mate := rfl
@[simp] theorem modMon_dun_eq (f : MonState → MonState) : (modMon f s).dun = s.dun := rfl
@[simp] theorem modMon_cam_eq (f : MonState → MonState) : (modMon f s).cam = s.cam := rfl
@[simp] theorem modMon_scan_eq (f : MonState → MonState) : (modMon f s).scan = s.scan := rfl
@[simp] theorem modMon_radio_eq (f : MonState → MonState) : (modMon f s).radio = s.radio := rfl
@[simp] theorem modMon_flt_eq (f : MonState → MonState) : (modMon f s).flt = s.flt := rfl
@[simp] theorem modMon_book_eq (f : MonState → MonState) : (modMon f s).book = s.book := rfl
@[simp] theorem modMon_regs_eq (f : MonState → MonState) : (modMon f s).regs = s.regs := rfl
@[simp] theorem modMon_sram_eq (f : MonState → MonState) : (modMon f s).sram = s.sram := rfl
@[simp] theorem modMon_ecc_eq (f : MonState → MonState) : (modMon f s).ecc = s.ecc := rfl
@[simp] theorem modMon_freeCtr_eq (f : MonState → MonState) : (modMon f s).freeCtr = s.freeCtr := rfl
@[simp] theorem modMon_pending_eq (f : MonState → MonState) : (modMon f s).pending = s.pending := rfl

@[simp] theorem modFaultSrc_lt_eq (k : Nat) (f : FaultSrc → FaultSrc) : (modFaultSrc k f s).lt = s.lt := rfl
@[simp] theorem modFaultSrc_pwr_eq (k : Nat) (f : FaultSrc → FaultSrc) : (modFaultSrc k f s).pwr = s.pwr := rfl
@[simp] theorem modFaultSrc_host_eq (k : Nat) (f : FaultSrc → FaultSrc) : (modFaultSrc k f s).host = s.host := rfl
@[simp] theorem modFaultSrc_led_eq (k : Nat) (f : FaultSrc → FaultSrc) : (modFaultSrc k f s).led = s.led := rfl
@[simp] theorem modFaultSrc_st_eq (k : Nat) (f : FaultSrc → FaultSrc) : (modFaultSrc k f s).st = s.st := rfl
@[simp] theorem modFaultSrc_dma_eq (k : Nat) (f : FaultSrc → FaultSrc) : (modFaultSrc k f s).dma = s.dma := rfl
@[simp] theorem modFaultSrc_line_eq (k : Nat) (f : FaultSrc → FaultSrc) : (modFaultSrc k f s).line = s.line := rfl
@[simp] theorem modFaultSrc_fab_eq (k : Nat) (f : FaultSrc → FaultSrc) : (modFaultSrc k f s).fab = s.fab := rfl
@[simp] theorem modFaultSrc_prot_eq (k : Nat) (f : FaultSrc → FaultSrc) : (modFaultSrc k f s).prot = s.prot := rfl
@[simp] theorem modFaultSrc_mate_eq (k : Nat) (f : FaultSrc → FaultSrc) : (modFaultSrc k f s).mate = s.mate := rfl
@[simp] theorem modFaultSrc_dun_eq (k : Nat) (f : FaultSrc → FaultSrc) : (modFaultSrc k f s).dun = s.dun := rfl
@[simp] theorem modFaultSrc_cam_eq (k : Nat) (f : FaultSrc → FaultSrc) : (modFaultSrc k f s).cam = s.cam := rfl
@[simp] theorem modFaultSrc_scan_eq (k : Nat) (f : FaultSrc → FaultSrc) : (modFaultSrc k f s).scan = s.scan := rfl
@[simp] theorem modFaultSrc_radio_eq (k : Nat) (f : FaultSrc → FaultSrc) : (modFaultSrc k f s).radio = s.radio := rfl
@[simp] theorem modFaultSrc_mon_eq (k : Nat) (f : FaultSrc → FaultSrc) : (modFaultSrc k f s).mon = s.mon := rfl
@[simp] theorem modFaultSrc_book_eq (k : Nat) (f : FaultSrc → FaultSrc) : (modFaultSrc k f s).book = s.book := rfl
@[simp] theorem modFaultSrc_regs_eq (k : Nat) (f : FaultSrc → FaultSrc) : (modFaultSrc k f s).regs = s.regs := rfl
@[simp] theorem modFaultSrc_sram_eq (k : Nat) (f : FaultSrc → FaultSrc) : (modFaultSrc k f s).sram = s.sram := rfl
@[simp] theorem modFaultSrc_ecc_eq (k : Nat) (f : FaultSrc → FaultSrc) : (modFaultSrc k f s).ecc = s.ecc := rfl
@[simp] theorem modFaultSrc_freeCtr_eq (k : Nat) (f : FaultSrc → FaultSrc) : (modFaultSrc k f s).freeCtr = s.freeCtr := rfl
@[simp] theorem modFaultSrc_pending_eq (k : Nat) (f : FaultSrc → FaultSrc) : (modFaultSrc k f s).pending = s.pending := rfl

@[simp] theorem setCal_pwr_eq (i : Nat) (e : CalEntry) : (setCal i e s).pwr = s.pwr := rfl
@[simp] theorem setCal_host_eq (i : Nat) (e : CalEntry) : (setCal i e s).host = s.host := rfl
@[simp] theorem setCal_led_eq (i : Nat) (e : CalEntry) : (setCal i e s).led = s.led := rfl
@[simp] theorem setCal_st_eq (i : Nat) (e : CalEntry) : (setCal i e s).st = s.st := rfl
@[simp] theorem setCal_dma_eq (i : Nat) (e : CalEntry) : (setCal i e s).dma = s.dma := rfl
@[simp] theorem setCal_line_eq (i : Nat) (e : CalEntry) : (setCal i e s).line = s.line := rfl
@[simp] theorem setCal_fab_eq (i : Nat) (e : CalEntry) : (setCal i e s).fab = s.fab := rfl
@[simp] theorem setCal_prot_eq (i : Nat) (e : CalEntry) : (setCal i e s).prot = s.prot := rfl
@[simp] theorem setCal_mate_eq (i : Nat) (e : CalEntry) : (setCal i e s).mate = s.mate := rfl
@[simp] theorem setCal_dun_eq (i : Nat) (e : CalEntry) : (setCal i e s).dun = s.dun := rfl
@[simp] theorem setCal_cam_eq (i : Nat) (e : CalEntry) : (setCal i e s).cam = s.cam := rfl
@[simp] theorem setCal_scan_eq (i : Nat) (e : CalEntry) : (setCal i e s).scan = s.scan := rfl
@[simp] theorem setCal_radio_eq (i : Nat) (e : CalEntry) : (setCal i e s).radio = s.radio := rfl
@[simp] theorem setCal_mon_eq (i : Nat) (e : CalEntry) : (setCal i e s).mon = s.mon := rfl
@[simp] theorem setCal_flt_eq (i : Nat) (e : CalEntry) : (setCal i e s).flt = s.flt := rfl
@[simp] theorem setCal_book_eq (i : Nat) (e : CalEntry) : (setCal i e s).book = s.book := rfl
@[simp] theorem setCal_regs_eq (i : Nat) (e : CalEntry) : (setCal i e s).regs = s.regs := rfl
@[simp] theorem setCal_sram_eq (i : Nat) (e : CalEntry) : (setCal i e s).sram = s.sram := rfl
@[simp] theorem setCal_ecc_eq (i : Nat) (e : CalEntry) : (setCal i e s).ecc = s.ecc := rfl
@[simp] theorem setCal_freeCtr_eq (i : Nat) (e : CalEntry) : (setCal i e s).freeCtr = s.freeCtr := rfl
@[simp] theorem setCal_pending_eq (i : Nat) (e : CalEntry) : (setCal i e s).pending = s.pending := rfl

@[simp] theorem modSeatLt_pwr_eq (n : Nat) (f : SeatLt → SeatLt) : (modSeatLt n f s).pwr = s.pwr := rfl
@[simp] theorem modSeatLt_host_eq (n : Nat) (f : SeatLt → SeatLt) : (modSeatLt n f s).host = s.host := rfl
@[simp] theorem modSeatLt_led_eq (n : Nat) (f : SeatLt → SeatLt) : (modSeatLt n f s).led = s.led := rfl
@[simp] theorem modSeatLt_st_eq (n : Nat) (f : SeatLt → SeatLt) : (modSeatLt n f s).st = s.st := rfl
@[simp] theorem modSeatLt_dma_eq (n : Nat) (f : SeatLt → SeatLt) : (modSeatLt n f s).dma = s.dma := rfl
@[simp] theorem modSeatLt_line_eq (n : Nat) (f : SeatLt → SeatLt) : (modSeatLt n f s).line = s.line := rfl
@[simp] theorem modSeatLt_fab_eq (n : Nat) (f : SeatLt → SeatLt) : (modSeatLt n f s).fab = s.fab := rfl
@[simp] theorem modSeatLt_prot_eq (n : Nat) (f : SeatLt → SeatLt) : (modSeatLt n f s).prot = s.prot := rfl
@[simp] theorem modSeatLt_mate_eq (n : Nat) (f : SeatLt → SeatLt) : (modSeatLt n f s).mate = s.mate := rfl
@[simp] theorem modSeatLt_dun_eq (n : Nat) (f : SeatLt → SeatLt) : (modSeatLt n f s).dun = s.dun := rfl
@[simp] theorem modSeatLt_cam_eq (n : Nat) (f : SeatLt → SeatLt) : (modSeatLt n f s).cam = s.cam := rfl
@[simp] theorem modSeatLt_scan_eq (n : Nat) (f : SeatLt → SeatLt) : (modSeatLt n f s).scan = s.scan := rfl
@[simp] theorem modSeatLt_radio_eq (n : Nat) (f : SeatLt → SeatLt) : (modSeatLt n f s).radio = s.radio := rfl
@[simp] theorem modSeatLt_mon_eq (n : Nat) (f : SeatLt → SeatLt) : (modSeatLt n f s).mon = s.mon := rfl
@[simp] theorem modSeatLt_flt_eq (n : Nat) (f : SeatLt → SeatLt) : (modSeatLt n f s).flt = s.flt := rfl
@[simp] theorem modSeatLt_book_eq (n : Nat) (f : SeatLt → SeatLt) : (modSeatLt n f s).book = s.book := rfl
@[simp] theorem modSeatLt_regs_eq (n : Nat) (f : SeatLt → SeatLt) : (modSeatLt n f s).regs = s.regs := rfl
@[simp] theorem modSeatLt_sram_eq (n : Nat) (f : SeatLt → SeatLt) : (modSeatLt n f s).sram = s.sram := rfl
@[simp] theorem modSeatLt_ecc_eq (n : Nat) (f : SeatLt → SeatLt) : (modSeatLt n f s).ecc = s.ecc := rfl
@[simp] theorem modSeatLt_freeCtr_eq (n : Nat) (f : SeatLt → SeatLt) : (modSeatLt n f s).freeCtr = s.freeCtr := rfl
@[simp] theorem modSeatLt_pending_eq (n : Nat) (f : SeatLt → SeatLt) : (modSeatLt n f s).pending = s.pending := rfl

@[simp] theorem setExpect_lt_eq (i : Nat) (x : Option Expect) : (setExpect i x s).lt = s.lt := rfl
@[simp] theorem setExpect_pwr_eq (i : Nat) (x : Option Expect) : (setExpect i x s).pwr = s.pwr := rfl
@[simp] theorem setExpect_host_eq (i : Nat) (x : Option Expect) : (setExpect i x s).host = s.host := rfl
@[simp] theorem setExpect_led_eq (i : Nat) (x : Option Expect) : (setExpect i x s).led = s.led := rfl
@[simp] theorem setExpect_st_eq (i : Nat) (x : Option Expect) : (setExpect i x s).st = s.st := rfl
@[simp] theorem setExpect_dma_eq (i : Nat) (x : Option Expect) : (setExpect i x s).dma = s.dma := rfl
@[simp] theorem setExpect_line_eq (i : Nat) (x : Option Expect) : (setExpect i x s).line = s.line := rfl
@[simp] theorem setExpect_fab_eq (i : Nat) (x : Option Expect) : (setExpect i x s).fab = s.fab := rfl
@[simp] theorem setExpect_mate_eq (i : Nat) (x : Option Expect) : (setExpect i x s).mate = s.mate := rfl
@[simp] theorem setExpect_dun_eq (i : Nat) (x : Option Expect) : (setExpect i x s).dun = s.dun := rfl
@[simp] theorem setExpect_cam_eq (i : Nat) (x : Option Expect) : (setExpect i x s).cam = s.cam := rfl
@[simp] theorem setExpect_scan_eq (i : Nat) (x : Option Expect) : (setExpect i x s).scan = s.scan := rfl
@[simp] theorem setExpect_radio_eq (i : Nat) (x : Option Expect) : (setExpect i x s).radio = s.radio := rfl
@[simp] theorem setExpect_mon_eq (i : Nat) (x : Option Expect) : (setExpect i x s).mon = s.mon := rfl
@[simp] theorem setExpect_flt_eq (i : Nat) (x : Option Expect) : (setExpect i x s).flt = s.flt := rfl
@[simp] theorem setExpect_book_eq (i : Nat) (x : Option Expect) : (setExpect i x s).book = s.book := rfl
@[simp] theorem setExpect_regs_eq (i : Nat) (x : Option Expect) : (setExpect i x s).regs = s.regs := rfl
@[simp] theorem setExpect_sram_eq (i : Nat) (x : Option Expect) : (setExpect i x s).sram = s.sram := rfl
@[simp] theorem setExpect_ecc_eq (i : Nat) (x : Option Expect) : (setExpect i x s).ecc = s.ecc := rfl
@[simp] theorem setExpect_freeCtr_eq (i : Nat) (x : Option Expect) : (setExpect i x s).freeCtr = s.freeCtr := rfl
@[simp] theorem setExpect_pending_eq (i : Nat) (x : Option Expect) : (setExpect i x s).pending = s.pending := rfl

@[simp] theorem setStrand_led_eq (n : Nat) (t : Strand) : (setStrand n t s).led = s.led := rfl
@[simp] theorem setStrand_dma_eq (n : Nat) (t : Strand) : (setStrand n t s).dma = s.dma := rfl
@[simp] theorem setStrand_line_eq (n : Nat) (t : Strand) : (setStrand n t s).line = s.line := rfl
@[simp] theorem setStrand_fab_eq (n : Nat) (t : Strand) : (setStrand n t s).fab = s.fab := rfl
@[simp] theorem setStrand_prot_eq (n : Nat) (t : Strand) : (setStrand n t s).prot = s.prot := rfl
@[simp] theorem setStrand_mate_eq (n : Nat) (t : Strand) : (setStrand n t s).mate = s.mate := rfl
@[simp] theorem setStrand_dun_eq (n : Nat) (t : Strand) : (setStrand n t s).dun = s.dun := rfl
@[simp] theorem setStrand_cam_eq (n : Nat) (t : Strand) : (setStrand n t s).cam = s.cam := rfl
@[simp] theorem setStrand_scan_eq (n : Nat) (t : Strand) : (setStrand n t s).scan = s.scan := rfl
@[simp] theorem setStrand_radio_eq (n : Nat) (t : Strand) : (setStrand n t s).radio = s.radio := rfl
@[simp] theorem setStrand_mon_eq (n : Nat) (t : Strand) : (setStrand n t s).mon = s.mon := rfl
@[simp] theorem setStrand_flt_eq (n : Nat) (t : Strand) : (setStrand n t s).flt = s.flt := rfl
@[simp] theorem setStrand_book_eq (n : Nat) (t : Strand) : (setStrand n t s).book = s.book := rfl
@[simp] theorem setStrand_ecc_eq (n : Nat) (t : Strand) : (setStrand n t s).ecc = s.ecc := rfl
@[simp] theorem setStrand_freeCtr_eq (n : Nat) (t : Strand) : (setStrand n t s).freeCtr = s.freeCtr := rfl

/-! Readers after writers. -/

@[simp] theorem sramSet_ecc_eq (a : Nat) (b : Byte) : (sramSet s a b).ecc = s.ecc.filter (fun q => q != a) := rfl
theorem sramWrite_ecc (a : Nat) (bs : List Byte) (q : Nat) : q ∈ (sramWrite s a bs).ecc ↔ q ∈ s.ecc ∧ ¬ (a ≤ q ∧ q < a + bs.length) := by
  induction bs generalizing s a with
  | nil => simp [sramWrite]
  | cons b bs ih =>
    simp only [sramWrite, ih, sramSet_ecc_eq, List.mem_filter, List.length_cons, bne_iff_ne, ne_eq, and_assoc]
    exact and_congr_right fun _ => by omega
theorem wordBad_iff (p : Nat) : wordBad s p = true ↔ ∃ q ∈ s.ecc, q / 4 = p / 4 := by simp [wordBad]

theorem portAt_setPort (p q : Nat) (x : LinePort) : portAt (setPort p x s) q = if p = q then x else portAt s q := tget_tset ..
theorem gfpAt_setGfp (c q : Nat) (x : GfpChan) : gfpAt (setGfp c x s) q = if c = q then x else gfpAt s q := tget_tset ..
theorem laneAt_setLane (l q : Nat) (x : Lane) : laneAt (setLane l x s) q = if l = q then x else laneAt s q := tget_tset ..
theorem chanAt_setChan (c q : Nat) (x : Channel) : chanAt (setChan c x s) q = if c = q then x else chanAt s q := tget_tset ..
theorem moverAt_setMover (m q : Nat) (b : Option Burst) : moverAt (setMover m b s) q = if m = q then b else moverAt s q := tget_tset ..
theorem domState_setDom (d q : Nat) (x : DomState) : domState (setDom d x s) q = if d = q then x else domState s q := tget_tset ..
theorem eventFlags_setEventFlags (n q v : Nat) : eventFlags (setEventFlags n v s) q = if n = q then v else eventFlags s q := tget_tset ..
theorem calAt_setCal (i q : Nat) (e : CalEntry) : calAt (setCal i e s) q = if i = q then e else calAt s q := tget_tset ..
theorem unitAt_setUnit (u q : Nat) (x : ScanUnit) : unitAt (setUnit u x s) q = if u = q then x else unitAt s q := tget_tset ..
@[simp] theorem rotAt_setRot_self (lo : Bool) (r : Rotation) : rotAt (setRot lo r s) lo = r := by cases lo <;> rfl
@[simp] theorem rotAt_setRot_other (lo : Bool) (r : Rotation) : rotAt (setRot lo r s) (!lo) = rotAt s (!lo) := by cases lo <;> rfl

end Sys2Proof.Machine
end

