-- ==== Sys2Proof/Laws/Rows.lean ====
section
/-!
SUPPORT. What a row that writes one register, whole or word by word, does where its writes reach it, and when the ledger takes a management record.
-/
namespace Sys2Proof.Machine

open Sys2Proof

/-- The register that an offset leads to has the description found there. -/
theorem regAt_desc {s : State} {seat pk off : Nat} {wr : Bool} {r : RegAt} (h : regAt s seat pk off wr = .reg r) :
    ∃ l, regLocate off = some l ∧ r.desc = l.desc := by
  unfold regAt at h
  split at h
  · cases h
  · split at h
    · cases h
    · cases h
      exact ⟨_, ‹_›, rfl⟩

/-- A write that reaches a whole register, with no words held for the path, ends with what the register's write answers. -/
theorem rowWrite_reaches {w : HostWho} {off v : Nat} {r : RegAt} {s : State} (h : Reaches w off r s)
    (hh : (pathAt s (hostAgent w).pk).held = none) (hm : multiWord r.desc = false) :
    rowWrite w off v s = .next (hostEnd (hostAgent w) off (regWriteVal (hostAgent w) r v s)) := by
  have key : dropKeyLoad off s = s := by
    unfold dropKeyLoad
    rcases h.keyLoad with k | k <;> simp [k]
  have tch : ∀ x, touch (hostAgent w) x s = s := by intro x; simp [touch, hh]
  obtain ⟨l, hl, hd⟩ := regAt_desc h.hit
  have hk : ¬ (keeperOnly l.desc = true ∧ (hostAgent w).seat ≠ 0) := fun k => k.2 (h.rank (hd ▸ k.1))
  simp [rowWrite, rowDone, hostWrite, seatWrite, regWrite, h.runs, h.enabled, h.place.1, h.place.2, tch, key, hl, hk, h.hit, h.writes, h.rights, hm, endWrite]

/-- A management record of up to 16 entries is appended (R142), and touches the parts that records and losses touch. -/
theorem ledgerMgmt_takes {s : State} (h : LedgerTakes s) (a : Agent) (kind object old new : Nat) (kflag : Bool) (conts : List Nat)
    (hc : conts.length ≤ 15) :
    ∃ t, ledgerMgmt a kind object old new kflag conts s = some t ∧ Keeps [.pwr, .host, .led, .mate, .flt, .regs] s t := by
  have room : 1024 + LedgerRec.size ⟨kind, a.seat, a.path, a.unit, object, old, new, kflag, conts, s.lt.frame, s.lt.phase⟩ ≤
      ledgerFree (ledgerDrain (sealDone s)) := by
    have := h.2
    simp only [LedgerRec.size]; omega
  have some : ∃ t, ledgerMgmt a kind object old new kflag conts s = some t := by
    simp only [ledgerMgmt, rawMgmt, h.1, room, and_self, if_true, Option.map_some]
    exact ⟨_, rfl⟩
  obtain ⟨t, ht⟩ := some
  exact ⟨t, ht, keeps_ledgerMgmt (by decide) (by decide) (by decide) (by decide) (by decide) (by decide) _ _ _ _ _ _ _ _ (Keeps.refl _ _) t ht⟩

/-- A row that writes one whole register completes with what the register's write answers. -/
theorem completes_row {i : Instr} {w : HostWho} {off v : Nat} {nm : RegName} {s : State} {ok : RegAt → Prop} {post : RegAt → State → Prop}
    (hi : exec i s = rowWrite w off v s)
    (h : ∀ r, r.desc.name = nm → ok r → post r (hostEnd (hostAgent w) off (regWriteVal (hostAgent w) r v s))) : Completes i w off nm s ok post :=
  fun r hr hh hn hm ho => ⟨_, hi.trans (rowWrite_reaches hr hh hm), h r hn ho⟩

/-- A host path is none of a strand's. -/
theorem hostAgent_path (w : HostWho) : (hostAgent w).path ≠ 3 := by
  cases w with | mk s p => cases p <;> simp [hostAgent, pathCode]

/-- The write of a command register by a host path ends DONE. -/
@[simp] theorem regCmdEnd_host (w : HostWho) (s : State) (x : Nat × State) : regCmdEnd (hostAgent w) s x = (oDone, x.2) := by
  simp [regCmdEnd, hostAgent_path]

@[simp] theorem hostEnd_done (a : Agent) (off : Nat) (t : State) : hostEnd a off (oDone, t) = t := by simp [hostEnd, oDone]

/-- The low field that a row forces reads as it was forced. -/
theorem bits_setBits_low (n w x : Nat) : bits (setBits n 0 w x) 0 w = x % 2 ^ w := by
  simp [bits, setBits, Nat.shiftLeft_eq, Nat.add_mod, Nat.mod_one]

theorem bit_setBits_low (n w x k : Nat) (h : k < w) : bit (setBits n 0 w x) k = bit (x % 2 ^ w) k := by
  have e : ∀ m : Nat, bit m k = bit (bits m 0 w) k := by intro m; simp [bit, bits, h]
  rw [e, bits_setBits_low]

/-- The bits above the low field that a row forces stand. -/
theorem bit_setBits_high (n w x k : Nat) (h : w ≤ k) : bit (setBits n 0 w x) k = bit n k := by
  obtain ⟨j, rfl⟩ := Nat.exists_eq_add_of_le h
  have e : ∀ m : Nat, bit m (w + j) = bit (m >>> w) j := by intro m; simp [bit]
  have d : setBits n 0 w x >>> w = n >>> w := by
    simp only [setBits, Nat.zero_add, Nat.shiftRight_eq_div_pow, Nat.shiftLeft_eq, Nat.pow_zero, Nat.mod_one, Nat.add_zero, Nat.mul_one]
    rw [Nat.mul_comm, Nat.mul_add_div (Nat.two_pow_pos w), Nat.div_eq_of_lt (Nat.mod_lt _ (Nat.two_pow_pos w)), Nat.add_zero]
  rw [e, e, d]

/-! Rows that write a wide register, word by word. -/

/-- The register that an offset leads to does not depend on what is kept for paths. -/
theorem regAt_paths (s : State) (p : Tab PathState) (seat pk off : Nat) (wr : Bool) :
    regAt { s with host := { s.host with paths := p } } seat pk off wr = regAt s seat pk off wr := rfl

/-- The words put for a path are the words held. -/
theorem pathAt_setHeld (pk : Nat) (h : Option (Nat × List Nat)) (s : State) : (pathAt (setHeld pk h s) pk).held = h := by
  simp [pathAt, setHeld, modPath, tmod, tget_tset]

/-- The words of a wide register up to `j` are held. -/
def HeldTo (w : HostWho) (key : Nat) (ws : List Nat) (s h : State) : Prop :=
  SameButPaths s h ∧ (pathAt h (hostAgent w).pk).held = if ws = [] then none else some (key, ws)

/-- One word of a wide register: held, or with the last one the register's write. -/
theorem wide_step {w : HostWho} {off k j : Nat} {r : Nat → RegAt} {s h : State} (R : ReachesWide w off k r s) {ws : List Nat} {v : Nat}
    (hh : HeldTo w (r 0).key ws s h) (hl : ws.length = j) (hj : j < k) :
    hostWrite (hostAgent w) (off + 4 * j) 0xF v h =
      if j + 1 < k then setHeld (hostAgent w).pk (some ((r 0).key, ws ++ [v])) h
      else hostEnd (hostAgent w) (off + 4 * j) (regWriteVal (hostAgent w) (r j) (wordsVal (ws ++ [v])) (setHeld (hostAgent w).pk none h)) := by
  obtain ⟨⟨p, rfl⟩, hp⟩ := hh
  have hit := R.hit j hj
  rw [← regAt_paths s p] at hit
  generalize hs : ({ s with host := { s.host with paths := p } } : State) = h at *
  have en : seatEnabled h (hostAgent w).seat = true := by rw [← hs]; exact R.enabled
  have kw : h.led.keyWords = [] := by rw [← hs]; exact R.keyLoad
  obtain ⟨o1, o2, o3⟩ := R.one j hj
  have rn : regNext h (hostAgent w) (off + 4 * j) = some ((r 0).key, j) := by
    simp [regNext, hit, o2, R.size.2.2, o1, o3]
  have tch : touch (hostAgent w) (some ((r 0).key, j)) h = h := by
    unfold touch
    rw [hp]
    split
    · rfl
    · rename_i heq
      split at heq
      · cases heq
      · cases heq; simp [hl]
  have dk : dropKeyLoad (off + 4 * j) h = h := by simp [dropKeyLoad, kw]
  obtain ⟨l, hloc, hd⟩ := regAt_desc hit
  have hk : ¬ (keeperOnly l.desc = true ∧ (hostAgent w).seat ≠ 0) := by
    intro k; exact k.2 (R.rank (by rw [← o2, hd]; exact k.1))
  have hw : heldWords h (hostAgent w).pk (r j).key (r j).word v = some (ws ++ [v]) := by
    unfold heldWords
    rw [o3, o1, hp]
    by_cases h0 : j = 0
    · have : ws = [] := List.eq_nil_of_length_eq_zero (by omega)
      simp [h0, this]
    · have : ws ≠ [] := by rintro rfl; simp at hl; omega
      simp [h0, this, hl]
  have ro : readOnly (r j).desc = false := by rw [o2]; exact R.writes
  have mw : multiWord (r j).desc = true := by rw [o2]; exact R.size.2.2
  simp only [hostWrite, en, if_true, seatWrite, (R.place j hj).1, (R.place j hj).2, Bool.false_eq_true, if_false, regWrite, rn, tch, dk, hloc, hk, hit, ro,
    R.rights j hj, mw, multiWrite, hw]
  have sz : ((r j).desc.bytes + 3) / 4 = k := by rw [o2]; exact R.size.1
  rw [sz]
  have len : (ws ++ [v]).length = j + 1 := by simp [hl]
  rw [len, o1]
  by_cases q : j + 1 < k
  · simp [q, endWrite]
  · simp [q, endWrite]

/-- The words of a wide register from word `j` on. -/
theorem wide_words {w : HostWho} {off k : Nat} {r : Nat → RegAt} {s : State} (R : ReachesWide w off k r s) :
    ∀ (n j : Nat) (f : Nat → Nat) (ws : List Nat) (h : State), HeldTo w (r 0).key ws s h → ws.length = j → j + n + 1 = k →
      ∃ g, SameButPaths s g ∧ hostWords (hostAgent w) (off + 4 * j) ((List.range' j (n + 1)).map f) h =
        hostEnd (hostAgent w) (off + 4 * (k - 1)) (regWriteVal (hostAgent w) (r (k - 1)) (wordsVal (ws ++ (List.range' j (n + 1)).map f)) g) := by
  intro n
  induction n with
  | zero =>
    intro j f ws h hh hl hk
    have e : k - 1 = j := by omega
    refine ⟨setHeld (hostAgent w).pk none h, ?_, ?_⟩
    · obtain ⟨⟨p, rfl⟩, -⟩ := hh; exact ⟨_, rfl⟩
    · have : List.range' j (0 + 1) = [j] := rfl
      rw [this]
      simp only [List.map_cons, List.map_nil, hostWords]
      rw [wide_step R hh hl (by omega), if_neg (by omega), e]
  | succ n ih =>
    intro j f ws h hh hl hk
    have : List.range' j (n + 1 + 1) = j :: List.range' (j + 1) (n + 1) := rfl
    rw [this]
    simp only [List.map_cons, hostWords]
    rw [wide_step R hh hl (by omega), if_pos (by omega)]
    obtain ⟨g, hg, e⟩ := ih (j + 1) f (ws ++ [f j]) (setHeld (hostAgent w).pk (some ((r 0).key, ws ++ [f j])) h) (by
      obtain ⟨⟨p, rfl⟩, -⟩ := hh
      exact ⟨⟨_, rfl⟩, by rw [pathAt_setHeld]; simp⟩) (by simp [hl]) (by omega)
    refine ⟨g, hg, ?_⟩
    rw [show off + 4 * j + 4 = off + 4 * (j + 1) by omega, e]
    simp

/-- The value of a number's 32-bit words. -/
theorem ofLe_words (n v : Nat) : ofLe (((List.range n).map (fun k => bits v (32 * k) 32)).flatMap (leBytes 4)) = v % 2 ^ (32 * n) := by
  induction n generalizing v with
  | zero => simp [ofLe, Nat.mod_one]
  | succ n ih =>
    rw [List.range_succ_eq_map, List.map_cons, List.map_map, List.flatMap_cons]
    have e : (List.map ((fun k => bits v (32 * k) 32) ∘ Nat.succ) (List.range n)) = (List.range n).map (fun k => bits (v / 2 ^ 32) (32 * k) 32) := by
      apply List.map_congr_left
      intro k _
      simp only [Function.comp, bits, Nat.shiftRight_eq_div_pow, Nat.div_div_eq_div_mul, ← Nat.pow_add, Nat.succ_eq_add_one]
      congr 3; omega
    rw [e]
    have b : ∀ (x : Nat) (l : List Nat), ofLe (leBytes 4 x ++ l) = x % 2 ^ 32 + 2 ^ 32 * ofLe l := by
      intro x l; simp [leBytes, ofLe]; omega
    rw [b, ih]
    simp only [bits, Nat.mul_zero, Nat.shiftRight_zero, Nat.mod_mod]
    rw [show 32 * (n + 1) = 32 + 32 * n by omega, Nat.pow_add, Nat.mod_mul]

/-- A row that writes a wide register ends with what the register's write answers. -/
theorem rowWords_reaches {w : HostWho} {off k v : Nat} {r : Nat → RegAt} {s : State} (R : ReachesWide w off k r s) :
    ∃ h, SameButPaths s h ∧ rowWords w off k v s = .next (hostEnd (hostAgent w) (off + 4 * (k - 1)) (regWriteVal (hostAgent w) (r (k - 1)) (v % 2 ^ (32 * k)) h)) := by
  obtain ⟨n, rfl⟩ : ∃ n, k = n + 1 := ⟨k - 1, by have := R.size.2.1; omega⟩
  obtain ⟨g, hg, e⟩ := wide_words R n 0 (fun j => bits v (32 * j) 32) [] s ⟨⟨s.host.paths, rfl⟩, by simp [R.held]⟩ rfl (by omega)
  refine ⟨g, hg, ?_⟩
  have rg : List.range (n + 1) = List.range' 0 (n + 1) := List.range_eq_range' 
  simp only [rowWords, R.runs, if_true, rg]
  simp only [Nat.mul_zero, Nat.add_zero, List.nil_append] at e
  rw [e]
  simp only [wordsVal, ← rg, ofLe_words]
end Sys2Proof.Machine
end

