-- ==== Sys2Proof/Laws/Accepted.lean ====
section
/-!
SUPPORT. What the block's requests do when they are accepted: one lemma per request, from its conditions in Safety.
-/
namespace Sys2Proof.Machine

open Sys2Proof

/-- A state kept but for a part keeps that part's siblings. -/
theorem Keeps.lt_eq {W : List Fld} {s t : State} (h : Keeps W s t) (w : Fld.lt ∉ W) : t.lt = s.lt := h.frame .lt w
theorem Keeps.prot_eq {W : List Fld} {s t : State} (h : Keeps W s t) (w : Fld.prot ∉ W) : t.prot = s.prot := h.frame .prot w

@[simp] theorem countOutcome_lt (seat c : Nat) (s : State) : (countOutcome seat c s).lt = s.lt :=
  (keeps_countOutcome (W := [.book]) (by decide) seat c s (Keeps.refl _ s)).lt_eq (by decide)
@[simp] theorem mirrorItem_lt (m : Bool) (a b c : Nat) (d : List Byte) (s : State) : (mirrorItem m a b c d s).lt = s.lt :=
  (keeps_mirrorItem (W := [.mate]) (by decide) m a b c d s (Keeps.refl _ s)).lt_eq (by decide)
@[simp] theorem mirrorItem_prot (m : Bool) (a b c : Nat) (d : List Byte) (s : State) : (mirrorItem m a b c d s).prot = s.prot :=
  (keeps_mirrorItem (W := [.mate]) (by decide) m a b c d s (Keeps.refl _ s)).prot_eq (by decide)
@[simp] theorem mirrorDelete_lt (m : Bool) (a b c : Nat) (s : State) : (mirrorDelete m a b c s).lt = s.lt :=
  (keeps_mirrorDelete (W := [.mate]) (by decide) m a b c s (Keeps.refl _ s)).lt_eq (by decide)
@[simp] theorem mirrorCal_lt (m : Bool) (i : Nat) (s : State) : (mirrorCal m i s).lt = s.lt :=
  (keeps_mirrorCal (W := [.mate]) (by decide) m i s (Keeps.refl _ s)).lt_eq (by decide)

/-- A management record of up to 16 entries is not refused. -/
theorem ledgerMgmt_ne_none {s : State} (h : LedgerTakes s) (a : Agent) (kind object old new : Nat) (kflag : Bool) (conts : List Nat)
    (hc : conts.length ≤ 15) : ledgerMgmt a kind object old new kflag conts s ≠ none := by
  obtain ⟨u, hu, -⟩ := ledgerMgmt_takes h a kind object old new kflag conts hc; simp [hu]

/-- What a management record leaves of the parts it does not touch. -/
theorem ledgerMgmt_keeps {s t : State} {a : Agent} {kind object old new : Nat} {kflag : Bool} {conts : List Nat}
    (h : ledgerMgmt a kind object old new kflag conts s = some t) : Keeps [.pwr, .host, .led, .mate, .flt, .regs] s t :=
  keeps_ledgerMgmt (by decide) (by decide) (by decide) (by decide) (by decide) (by decide) _ _ _ _ _ _ _ _ (Keeps.refl _ _) t h

/-- One more entry of a quiet ledger. -/
theorem pushEntry_quiet {s : State} {n : Nat} (h : LedgerQuiet s (n + 1)) (seat kind frame phase mid : Nat) :
    LedgerQuiet (pushEntry seat kind frame phase mid s) n := by
  obtain ⟨h1, h2, h3, h4, h5⟩ := h
  refine ⟨h1, ⟨h2.1, ?_⟩, h3, h4, ?_⟩
  · have := h2.2; simp only [pushEntry]; omega
  · simp only [ledgerFree, pushEntry] at *; omega

/-- A quiet ledger appends nothing of its own. -/
theorem ledgerDrain_quiet {s : State} {n : Nat} (h : LedgerQuiet s n) : ledgerDrain s = s := by
  obtain ⟨h1, h2, h3, h4, h5⟩ := h
  have : ¬ 256 ≤ s.led.sinceSeal := by omega
  simp [ledgerDrain, pumpRounds, ledgerPump, h1, h2.1, this, h3.1, h4]

/-- Being quiet is the ledger's own. -/
theorem LedgerQuiet.of_led {s t : State} {n : Nat} (h : LedgerQuiet s n) (e : t.led = s.led) : LedgerQuiet t n := by
  obtain ⟨h1, h2, h3, h4, h5⟩ := h
  exact ⟨by rw [e]; exact h1, by rw [e]; exact h2, by rw [e]; exact h3, by rw [e]; exact h4, by simpa only [ledgerFree, e] using h5⟩

/-- A ledger that takes 16 entries takes a management record. -/
theorem LedgerQuiet.takes {s : State} (h : LedgerQuiet s 16) : LedgerTakes s := by
  have e : ledgerDrain (sealDone s) = s := by
    have : sealDone s = s := by simp [sealDone, h.seals.1]
    rw [this, ledgerDrain_quiet h]
  exact ⟨by rw [e]; exact h.start, by rw [e]; exact h.room⟩

theorem spaceCauses_quiet {s : State} {n : Nat} (h : LedgerQuiet s n) (b : Nat) : LedgerQuiet (spaceCauses b s) n :=
  h.of_led ((keeps_spaceCauses (W := [.host, .regs]) (by decide) (by decide) b s (Keeps.refl _ s)).frame .led (by decide))

/-- A quiet ledger takes a management record, and is quiet for what is left. -/
theorem ledgerMgmt_quiet {s : State} {n : Nat} (a : Agent) (kind object old new : Nat) (kflag : Bool) (conts : List Nat)
    (h : LedgerQuiet s (n + 1 + conts.length)) :
    ∃ t, ledgerMgmt a kind object old new kflag conts s = some t ∧ LedgerQuiet t n ∧ t.mate = s.mate := by
  have e : ledgerDrain (sealDone s) = s := by
    have : sealDone s = s := by simp [sealDone, h.seals.1]
    rw [this, ledgerDrain_quiet h]
  have hfold : ∀ (l : List Nat) (seat kind frame phase : Nat) (u : State), LedgerQuiet u (n + l.length) →
      LedgerQuiet (l.foldl (fun t c => pushEntry seat kind frame phase c t) u) n ∧ (l.foldl (fun t c => pushEntry seat kind frame phase c t) u).mate = u.mate := by
    intro l seat kind frame phase
    induction l with
    | nil => intro u hu; exact ⟨hu, rfl⟩
    | cons c l ih =>
      intro u hu
      have := ih (pushEntry seat kind frame phase c u) (pushEntry_quiet (by simpa [Nat.add_assoc] using hu) ..)
      exact ⟨this.1, this.2⟩
  let r : LedgerRec := ⟨kind, a.seat, a.path, a.unit, object, old, new, kflag, conts, s.lt.frame, s.lt.phase⟩
  have room : 1024 + r.size ≤ ledgerFree s := by have := h.room; simp only [LedgerRec.size, r]; omega
  have app : LedgerQuiet (appendRec r s) n ∧ (appendRec r s).mate = s.mate := by
    unfold appendRec
    dsimp only
    have h1 : LedgerQuiet (pushEntry r.seat r.kind (stampOf s r).1 (stampOf s r).2 (headMid r (decide (ledgerFree s < 1024 + r.size))) s) (n + conts.length) :=
      pushEntry_quiet (by simpa [Nat.add_right_comm] using h) ..
    have h2 := hfold conts r.seat r.kind (stampOf s r).1 (stampOf s r).2 _ h1
    exact ⟨spaceCauses_quiet h2.1 _, ((keeps_spaceCauses (W := [.host, .regs]) (by decide) (by decide) _ _ (Keeps.refl _ _)).frame .mate (by decide)).trans h2.2⟩
  refine ⟨appendRec r s, ?_, app.1, app.2⟩
  simp only [ledgerMgmt, rawMgmt, e, h.start, true_and]
  rw [if_pos room]
  simp only [Option.map_some, reportLoss]
  rw [ledgerDrain_quiet app.1]
  simp [app.1.losses.2, r]

/-- A write enters the group of its Seat. -/
theorem staged_pushStaged (seat key v : Nat) (s : State) : Staged seat key v s (pushStaged seat ⟨key, v⟩ s) := by
  simp [Staged, seatGroup, seatLt, pushStaged, modSeatLt, tmod]

theorem Staged.of_lt {seat key v : Nat} {s s' t t' : State} (h : Staged seat key v s t) (e : s'.lt = s.lt) (f : t'.lt = t.lt) : Staged seat key v s' t' := by
  simp only [Staged, seatGroup, seatLt] at *; rw [e, f]; exact h

/-- An accepted entry write stages the entry (R243). -/
theorem stageConn_accepted {a : Agent} {num v n x : Nat} {s : State} (h : ConnOk a num v s n x) :
    ∃ t, stageConn a num v s = (oDone, t) ∧ Staged a.seat (connKey n) (setBits (entryNorm (isHo num) v) 0 14 x) s t := by
  obtain ⟨h1, h2, h3, h4, h5, h6, h7⟩ := h
  unfold stageConn
  simp only [h1]
  rw [h2]
  dsimp only
  have hk : ¬ (¬ entryCoded (isHo num) (entryNorm (isHo num) v) = true ∨ (decide (a.seat ≠ 0 ∧ eKind (isHo num) (entryNorm (isHo num) v) ≠ 0) &&
      (connAt s n).holder == some a.seat && !sourceKept s a.seat (isHo num) (connAt s n).entry) = true) := by
    rintro (k | k)
    · exact k h3
    · simp only [Bool.and_eq_true, decide_eq_true_eq, Bool.not_eq_true'] at k
      rcases h4 with q | q | q
      · exact k.1.1.1 q
      · exact k.1.1.2 q
      · rw [q] at k; exact absurd k.2 (by decide)
  have hq : ¬ ((decide (eKind (isHo num) (entryNorm (isHo num) v) ≠ 0 ∧ (connHolder s n).isNone = true) && decide (a.seat ≠ 0) &&
      decide (quota s a.seat 0x200 ≤ connUsed s a.seat)) = true) := by
    simp only [Bool.and_eq_true, decide_eq_true_eq]
    rintro ⟨⟨⟨k1, k2⟩, k3⟩, k4⟩
    rcases h5 with q | q | q | q
    · exact k3 q
    · exact k1 q
    · rw [Option.isNone_iff_eq_none] at k2; rw [k2] at q; cases q
    · omega
  rw [if_neg hk, if_neg hq, if_neg (by simp [h6])]
  have hL : LedgerQuiet s (1 + 1 + (if isHo num = true then
      [bits (newestEntry s a.seat n false).2.2 32 32 + 2 ^ 64 * bits (setBits (entryNorm (isHo num) v) 0 14 x) 32 32] else []).length) := by
    split
    · exact h7
    · obtain ⟨g1, g2, g3, g4, g5⟩ := h7
      exact ⟨g1, ⟨g2.1, by simp; omega⟩, g3, g4, by simp; omega⟩
  obtain ⟨t, ht, hQ, -⟩ := ledgerMgmt_quiet a 7 (2 ^ 24 + connAddr n) ((newestEntry s a.seat n false).2.2 % 2 ^ 32)
    (setBits (entryNorm (isHo num) v) 0 14 x % 2 ^ 32) false _ hL
  have hlt : t.lt = s.lt := (ledgerMgmt_keeps ht).lt_eq (by decide)
  rw [ht]
  dsimp only
  generalize ht1 : (if decide ((decide (eKind (isHo num) (entryNorm (isHo num) v) ≠ 0 ∧ (connHolder s n).isNone = true)) = true ∨
    (connAt s n).holder = some a.seat) = true then modConn n (fun c => { c with holder := some a.seat, num := num }) t else t) = t1
  have hl1 : t1.lt = t.lt ∧ t1.led = t.led := by rw [← ht1]; split <;> exact ⟨rfl, rfl⟩
  have hst : Staged a.seat (connKey n) (setBits (entryNorm (isHo num) v) 0 14 x) s (pushStaged a.seat ⟨connKey n, setBits (entryNorm (isHo num) v) 0 14 x⟩ t1) :=
    (staged_pushStaged a.seat _ _ t1).of_lt (by rw [hl1.1, hlt]) rfl
  by_cases hs : (newestEntry s a.seat n false).1 = 0
  · simp only [connStateBy, hs, if_true]
    exact ⟨_, rfl, hst⟩
  · simp only [connStateBy, hs, if_false]
    have hQ2 : LedgerQuiet (pushStaged a.seat ⟨connKey n, setBits (entryNorm (isHo num) v) 0 14 x⟩ t1) (0 + 1 + ([] : List Nat).length) := hQ.of_led hl1.2
    obtain ⟨u, hu, -, -⟩ := ledgerMgmt_quiet a 8 (2 ^ 24 + connAddr n) (newestEntry s a.seat n false).1 (0 + 256 * 0) false [] hQ2
    rw [hu]
    exact ⟨_, rfl, hst.of_lt rfl ((ledgerMgmt_keeps hu).lt_eq (by decide))⟩

/-- A staged write of a value, with room in the group and in the ledger (R46). -/
theorem stageValue_accepted {a : Agent} {key object bytes old new : Nat} {s : State} (hr : groupRoom s a.seat = true) (hL : LedgerTakes s)
    (hb : bytes ≤ 64) : ∃ t, stageValue a key object bytes old new s = (oDone, t) ∧ Staged a.seat key new s t ∧ t.prot = s.prot := by
  unfold stageValue
  rw [if_neg (by simp [hr])]
  split
  · exact ⟨_, rfl, staged_pushStaged .., rfl⟩
  · obtain ⟨u, hu, hk⟩ := ledgerMgmt_takes hL a 2 object old new false (valueConts bytes old new) (by simp [valueConts]; omega)
    rw [hu]
    exact ⟨_, rfl, (staged_pushStaged ..).of_lt (hk.lt_eq (by decide)).symm rfl, hk.prot_eq (by decide)⟩

theorem tgetO_tset_none {α : Type} [DecidableEq α] (t : Tab (Option α)) (k : Nat) (v : Option α) : (tgetO (tset none t k v) k).getD none = v := by
  unfold tset
  split
  · rename_i h; simp [tgetO_tdel, h]
  · simp [tgetO_tins_self]

theorem expectAt_setExpect (i : Nat) (x : Option Expect) (s : State) : expectAt (setExpect i x s) i = x :=
  tgetO_tset_none s.prot.expects i x

theorem mirrorExpect_keeps (m : Bool) (i : Nat) (s : State) : Keeps [.mate] s (mirrorExpect m i s) :=
  keeps_mirrorExpect (W := [.mate]) (by decide) m i s (Keeps.refl _ s)

/-- An accepted attach stages the expectation and reserves its entry (R288). -/
theorem stageAttach_accepted {a : Agent} {addr v n p i : Nat} {s : State} (h : AttachOk a addr v s n p i) :
    ∃ t, stageAttach a addr v s = (oDone, i, t) ∧ Staged a.seat (expectKey i) (bodyVal { bodyOf v with port := p }) s t ∧
      expectAt t i = some ⟨{ bodyOf v with port := p }, n, a.seat, .pending, 0, 0, 0, 0, 0, 0⟩ := by
  obtain ⟨h1, h2, h3, h4, ⟨h5, h6⟩, h7, h8, hL⟩ := h
  unfold stageAttach
  simp only [h1, h2, h3, h4, h5, h6]
  rw [if_neg (by simp), if_neg (by rcases h7 with q | q <;> simp [q])]
  obtain ⟨t, ht, hs, -⟩ := stageValue_accepted (key := expectKey i) (object := 2 ^ 25 + i) (bytes := 40)
    (old := (stagedVal (seatGroup s a.seat) (expectKey i)).getD (((expectAt s i).map (fun x => bodyVal x.body)).getD 0))
    (new := bodyVal { bodyOf v with port := p }) h8 hL (by decide)
  simp only [Option.getD_some]
  rw [ht]
  dsimp only
  rw [if_neg (by simp), if_neg (by simp)]
  have k := mirrorExpect_keeps true i (setExpect i (some ⟨{ bodyOf v with port := p }, n, a.seat, .pending, 0, 0, 0, 0, 0, 0⟩) t)
  refine ⟨_, rfl, hs.of_lt rfl (k.lt_eq (by decide)), ?_⟩
  simp only [expectAt, k.prot_eq (by decide)]
  exact expectAt_setExpect ..

/-- An accepted detach stages the removal (R288). -/
theorem stageDetach_accepted {a : Agent} {addr num n i : Nat} {s : State} (h : DetachOk a addr num s n i) :
    ∃ t, stageDetach a addr num s = (oDone, i, t) ∧ Staged a.seat (expectKey i) 0 s t := by
  obtain ⟨h1, h2, h3, h4, hL⟩ := h
  unfold stageDetach
  simp only [h1, h2, h3]
  obtain ⟨t, ht, hs, -⟩ := stageValue_accepted (key := expectKey i) (object := 2 ^ 25 + i) (bytes := 40)
    (old := ((expectAt s i).map (fun x => bodyVal x.body)).getD 0) (new := 0) h4 hL (by decide)
  rw [if_neg (by simp), ht]
  exact ⟨t, rfl, hs⟩

theorem ctlAt_of_prot {s t : State} (e : t.prot = s.prot) (r : ProtRef) : ctlAt t r = ctlAt s r := by
  cases r <;> simp [ctlAt, selAt, e]

/-- The run state of an object that exists is the one put there. -/
theorem ctlAt_setCtl {r : ProtRef} {s : State} (h : protLive s r = true) (c : ProtCtl) : ctlAt (setCtl r c s) r = c := by
  cases r with
  | msp p => simp [ctlAt, setCtl]
  | sel n =>
    have d : tget none s.prot.sels n = selAt s n := by
      unfold selAt
      induction s.prot.sels with
      | nil => rfl
      | cons x l ih => obtain ⟨k, v⟩ := x; by_cases hk : k = n <;> simp_all [tget, tgetO]
    have e : selAt (setCtl (.sel n) c s) n = (selAt s n).map (fun x => { x with ctl := c }) := by
      rw [← d]
      exact tgetO_tset_none s.prot.sels n _
    cases hs : selAt s n with
    | none => simp [protLive, hs] at h
    | some x => simp [ctlAt, e, hs]

/-- An accepted command changes the run state as the command's row says (R282, R284). -/
theorem protCommand_accepted {a : Agent} {r : ProtRef} {code : Nat} {s : State} (h : CommandOk s r code) :
    ∃ t, protCommand a false r code s = (oDone, t) ∧ ctlAt t r = cmdApply false code (ctlAt s r) := by
  obtain ⟨h1, h2, h3, h4, hL⟩ := h
  unfold protCommand
  dsimp only
  rw [if_neg (by rcases h3 with q | q <;> simp [h2, q]), if_neg (by simp [h4])]
  obtain ⟨u, hu, hk⟩ := ledgerMgmt_takes hL a 0xC (protObject r) (2 + 256 * (ctlAt s r).ext) (protNew (cmdApply false code (ctlAt s r))) false [] (by simp)
  have hl : protLive u r = true := by
    have := hk.prot_eq (by decide)
    cases r <;> simp_all [protLive, selAt]
  rw [if_neg (by simp), hu]
  refine ⟨_, rfl, ?_⟩
  split
  · rw [ctlAt_of_prot (mirrorItem_prot ..), ctlAt_setCtl hl]
  · rw [ctlAt_setCtl hl]

/-- A command at an object's address (R270). -/
theorem commandAt_accepted {a : Agent} {addr code k : Nat} {r : ProtRef} {s : State} (hp : protAt s a.seat addr = some (r, k)) (h : CommandOk s r code) :
    ∃ t, commandAt a addr code s = (oDone, t) ∧ ctlAt t r = cmdApply false code (ctlAt s r) := by
  obtain ⟨t, ht, hc⟩ := protCommand_accepted (a := a) h
  refine ⟨t, ?_, hc⟩
  simp [commandAt, hp, h.live, ht, cmdEnd, oDone]

/-- An accepted job joins the queue (R384). -/
theorem scanSubmit_accepted {seat body p : Nat} {moved : Bool} {s : State} (h : ScanOk seat body s p moved) :
    ∃ t, scanSubmit seat body s = (oDeferred, s.scan.nextId, t) ∧ Posted seat body p s t := by
  obtain ⟨⟨h1, h2, h3⟩, ⟨h4, h5⟩, h6, h7, h8, h9, h10⟩ := h
  unfold scanSubmit
  dsimp only
  rw [if_neg (by simp [h1, h2]; omega), if_neg (by simp [h4]; omega), if_neg (by simp [h6]), if_neg (by omega), if_neg (by omega)]
  have hd : ¬ frame32 s (bits body 128 32) < p / phasesPerFrame + 4 := by omega
  have fin : ∀ (j : ScanJob), j.ident = s.scan.nextId → j.seat = seat → j.body = body → j.pos = p →
      Posted seat body p s (countOutcome seat oDeferred (modScanSeat seat (fun x => { x with onRecord := true })
        (modScan (fun x => { x with jobs := x.jobs ++ [j], nextId := (s.scan.nextId + 1) % 65536 }) s))) := by
    intro j k1 k2 k3 k4
    have e : ∀ u : State, (countOutcome seat oDeferred u).scan = u.scan := fun u =>
      (keeps_countOutcome (W := [.book]) (by decide) seat oDeferred u (Keeps.refl _ u)).frame .scan (by decide)
    exact ⟨j, by rw [e]; rfl, k1, k2, k3, k4⟩
  cases moved
  · simp only [Bool.false_eq_true, if_false] at h9
    rw [h9]
    dsimp only
    rw [if_neg hd]
    exact ⟨_, rfl, fin _ rfl rfl rfl rfl⟩
  · simp only [if_true] at h9
    rw [h9]
    dsimp only
    rw [if_neg hd]
    exact ⟨_, rfl, fin _ rfl rfl rfl rfl⟩

theorem firstRefusal_done (l : List Nat) (h : ∀ c ∈ l, c = oDone) : firstRefusal (l ++ [oDone]) = oDone := by
  induction l with
  | nil => rfl
  | cons c l ih =>
    rw [List.cons_append, firstRefusal, h c (by simp), if_pos (by decide)]
    exact ih (fun x hx => h x (by simp [hx]))

/-- An accepted group joins the accepted ones, and its Seat's group is empty (R47). -/
theorem goGroup_accepted {a : Agent} {target : Int} {s : State} {p idx : Nat} {moved : Bool} {new : List (Nat × Nat)}
    (h : GoOk a target s p moved idx new) : ∃ t, goGroup a target s = (oDeferred, (seatLt s a.seat).nextId, t) ∧
      Joined a.seat (goFrame s (goWrites s a.seat new) p) (goWrites s a.seat new) s t ∧ (seatLt t a.seat).group = [] := by
  obtain ⟨h1, h2, h3, h4, h5, h6, h7, h8, h9, hL⟩ := h
  have few : ¬ 8 ≤ (s.lt.groups.filter (fun g => g.seat = a.seat)).length := by omega
  have hw : ((groupWrites s a.seat).map (transWrite s a.seat new)).map (·.2) = goWrites s a.seat new := by simp [goWrites]
  have code : firstRefusal (((groupWrites s a.seat).map (transWrite s a.seat new)).map (·.1) ++
      [goCheck (withSelectors a.seat new s) a.seat (goFrame s (goWrites s a.seat new) p) (goWrites s a.seat new)]) = oDone := by
    rw [h8]
    refine firstRefusal_done _ ?_
    intro c hc
    obtain ⟨w, hm, rfl⟩ := List.mem_map.mp hc
    obtain ⟨x, hx, rfl⟩ := List.mem_map.mp hm
    exact h7 x hx
  have go : ∀ d, ∃ t, goAccept a (goFrame s (goWrites s a.seat new) p) d idx (goWrites s a.seat new) new s = (oDeferred, (seatLt s a.seat).nextId, t) ∧
      Joined a.seat (goFrame s (goWrites s a.seat new) p) (goWrites s a.seat new) s t ∧ (seatLt t a.seat).group = [] := by
    intro d
    have nc : (goWrites s a.seat new).filterMap (fun w => keyConn w.key) = [] := by
      rw [List.filterMap_eq_nil_iff]; exact h9
    obtain ⟨u, hu, hk⟩ := ledgerMgmt_takes hL a 3 (0x05000000 + 256 * a.seat + (seatLt s a.seat).nextId) (seatGroup s a.seat).length
      (goFrame s (goWrites s a.seat new) p % 2 ^ 32) false [] (by simp)
    have hult : u.lt = s.lt := hk.lt_eq (by decide)
    have end_ : ∀ (i : Nat) (g : CommitGroup) (m : Bool) (q : Nat) (v : State),
        (mirrorCal m i (mirrorGroup m g (domUpdate (shadowSync m q (carrierSync v))))).lt = v.lt := by
      intro i g m q v
      have k : Keeps [.mate, .fab, .pwr, .regs] v (mirrorCal m i (mirrorGroup m g (domUpdate (shadowSync m q (carrierSync v))))) :=
        keeps_mirrorCal (by decide) _ _ _ (keeps_mirrorGroup (by decide) _ _ _ (keeps_domUpdate (by decide) (by decide) _
          (keeps_shadowSync (by decide) (by decide) _ _ _ (keeps_carrierSync (by decide) (by decide) _ (Keeps.refl _ v)))))
      exact k.lt_eq (by decide)
    have mid : ∀ (q : Nat) (v : State), (new.foldl (fun y e => mirrorItem true 8 (selectorAddr e.2) q (toBytes 4 (a.seat + 16 * (newSelector s a.seat e.1).num)) y)
        (withSelectors a.seat new v)).lt = v.lt := by
      intro q v
      have k := Keeps.foldl (W := [.prot, .mate]) (s0 := v) (l := new)
        (f := fun y e => mirrorItem true 8 (selectorAddr e.2) q (toBytes 4 (a.seat + 16 * (newSelector s a.seat e.1).num)) y)
        (keeps_withSelectors (by decide) a.seat new v (Keeps.refl _ v)) (fun y e h => keeps_mirrorItem (by decide) _ _ _ _ _ _ h)
      exact k.lt_eq (by decide)
    simp only [goAccept, hu, nc, List.foldl_nil, List.any_nil]
    refine ⟨_, rfl, ?_, ?_⟩
    · unfold Joined
      rw [end_]
      simp only [mid, setCal, modSeatLt, hult]
      exact ⟨_, rfl, rfl, rfl, rfl, rfl⟩
    · simp only [seatLt, end_, mid, setCal, modSeatLt, hult, tmod, tget_tset_self]
  have pos : goFrame s (goWrites s a.seat new) p = if (goWrites s a.seat new).any (multiOnly s (writesBy s s.lt.groups (p / phasesPerFrame))) then
      (p / phasesPerFrame + 3) / 4 * 4 else p / phasesPerFrame := rfl
  obtain ⟨t, ht, hj, hg⟩ := go (moved || goFrame s (goWrites s a.seat new) p != p / phasesPerFrame)
  refine ⟨t, ?_, hj, hg⟩
  unfold goGroup
  cases moved
  · simp only [Bool.false_eq_true, if_false] at h3
    simp only [h1, h2, h3, h4, h5, hw, ← pos]
    rw [if_neg (by simp), if_neg (by simp), if_neg few, if_neg (by simpa using code)]
    exact ht
  · simp only [if_true] at h3
    simp only [h1, h2, h3, h4, h5, hw, ← pos]
    rw [if_neg (by simp), if_neg (by simp), if_neg few, if_neg (by simpa using code)]
    exact ht

/-- An accepted CANCEL takes the group out (R52). -/
theorem cancelGroup_accepted {a : Agent} {id : Nat} {s : State} {g : CommitGroup} (h : CancelOk a id s g) :
    ∃ t, cancelGroup a id s = (oDone, t) ∧ t.lt.groups = s.lt.groups.filter (fun h => ¬ (h.seat = g.seat ∧ h.ident = g.ident)) := by
  obtain ⟨h1, h2, h3, h4, h5, hL⟩ := h
  have nm : g.writes.any (fun w => isMapKey w.key) = false := by simpa using h3
  obtain ⟨u, hu, hk⟩ := ledgerMgmt_takes hL a 5 (0x05000000 + 256 * g.seat + g.ident) 0 0 false [] (by simp)
  have hult : u.lt = s.lt := hk.lt_eq (by decide)
  unfold cancelGroup
  simp only [h1, h2, nm]
  rw [if_neg (by simp), if_neg (by omega), hu]
  simp only [h5, List.foldl_nil]
  refine ⟨_, rfl, ?_⟩
  have done : ∀ (seat : Nat) (r : DoneRec) (v : State), (pushDone seat r v).lt.groups = v.lt.groups := by
    intro seat r v
    have e : ∀ (k n : Nat) (w : State), (setCause seat k n w).lt = w.lt := fun k n w =>
      (keeps_setCause (W := [.host, .regs]) (by decide) (by decide) seat k n w (Keeps.refl _ w)).lt_eq (by decide)
    have ev : ∀ (k : Nat) (w : State), (setEvent seat k w).lt = w.lt := fun k w =>
      (keeps_setEvent (W := [.host, .st]) (by decide) (by decide) seat k w (Keeps.refl _ w)).lt_eq (by decide)
    unfold pushDone
    dsimp only
    split <;> split <;> simp [e, ev, modSeatLt]
  have tail : ∀ v : State, (domUpdate (shadowSync true (lastSeq u) (carrierSync (freeSelectors (freeReserved g.writes v))))).lt = v.lt := by
    intro v
    have k : Keeps [.mate, .fab, .prot, .pwr, .regs] v (domUpdate (shadowSync true (lastSeq u) (carrierSync (freeSelectors (freeReserved g.writes v))))) :=
      keeps_domUpdate (by decide) (by decide) _ (keeps_shadowSync (by decide) (by decide) _ _ _ (keeps_carrierSync (by decide) (by decide) _
        (keeps_freeSelectors (by decide) (by decide) _ (keeps_freeReserved (by decide) (by decide) _ _ (Keeps.refl _ v)))))
    exact k.lt_eq (by decide)
  rw [done, tail]
  simp [dropGroup, setCal, hult]

/-- An accepted frame joins the queue (R433). -/
theorem radioSubmit_accepted {seat d p : Nat} {pay : List Byte} {s : State} (h : RadioOk seat d s pay p) :
    ∃ t, radioSubmit seat d s =
      (if p = max (nowPos s) ((if bits d 64 32 = 0 then 0 else frame32 s (bits d 64 32)) * phasesPerFrame) then oDone else oDeferred,
        s.radio.nextId, some (ltImage p), t) ∧ Queued seat d p s t := by
  obtain ⟨h1, h2, ⟨h3, h4, h5, h6⟩, ⟨h7, h8⟩, h9, h10, h11, h12⟩ := h
  have len : ((if bit d 2 = true then 0xC6 :: bits d 48 4 :: leBytes 8 (ownExt s) ++ leBytes 2 s.radio.ownFseq else []).map (fun b => BitVec.ofNat 8 b) ++ pay).length =
      (if bit d 2 = true then 12 else 0) + pay.length := by
    split <;> simp [leBytes] <;> omega
  have queued : ∀ (body : List Byte) (x dl : Nat), Queued seat d p s (radioQueue seat d body x p dl s) := by
    intro body x dl
    unfold radioQueue
    dsimp only
    split
    · exact ⟨_, rfl, rfl, rfl, rfl, rfl⟩
    · split
      · have : ∀ (o f : Nat) (v : State), (seenAdd o f v).radio.frames = v.radio.frames := by
          intro o f v; simp [seenAdd, modRadio]
        unfold Queued; rw [this]; exact ⟨_, rfl, rfl, rfl, rfl, rfl⟩
      · exact ⟨_, rfl, rfl, rfl, rfl, rfl⟩
  have cnt : ∀ (o : Nat) (u : State), (countOutcome seat o u).radio = u.radio := fun o u =>
    (keeps_countOutcome (W := [.book]) (by decide) seat o u (Keeps.refl _ u)).frame .radio (by decide)
  unfold radioSubmit
  simp only [h1, h2, h3, h5, h6]
  rw [if_neg (by simp), if_neg (by simp; omega), if_neg (by omega), if_neg (by omega), if_neg (by omega), len]
  simp only [h11]
  rw [if_neg (by omega)]
  refine ⟨_, rfl, ?_⟩
  obtain ⟨f, q1, q2, q3, q4, q5⟩ := queued _ _ _
  exact ⟨f, by rw [cnt]; exact q1, q2, q3, q4, q5⟩

/-- An accepted write of a register of fields stores its new value, records it and starts what the register starts (R23, R90, R125). -/
theorem regApply_accepted {a : Agent} {r : RegAt} {x : Nat} {s : State} (h : Accepts a r x s) (hn : r.desc.name ≠ .mateCtl) :
    ∃ t, regApply a r x s = (oDone, t) ∧ Stores a r x s t := by
  obtain ⟨hw, h1, h2, h3, hL⟩ := h
  have stage : stagePart a r (regNorm r (regStored s r) x) s = (oDone, s) := by
    unfold stagePart
    rcases h3 with q | ⟨q, e⟩
    · simp [q]
    · dsimp only
      split
      · rfl
      · rw [if_pos ⟨q, e⟩]
  have rec_ : ∃ u, recordPart a r (regStored s r) (regNew s r x) s = some u := by
    unfold recordPart
    split
    · exact ⟨s, rfl⟩
    · obtain ⟨u, hu, -⟩ := ledgerMgmt_takes hL a 1 (regOffset r) (regStored s r % 2 ^ 32) (regNew s r x % 2 ^ 32) false
        (valueConts r.desc.bytes (regStored s r) (regNew s r x)) (by simp [valueConts]; omega)
      exact ⟨u, hu⟩
  obtain ⟨u, hu⟩ := rec_
  have hu' := hu
  unfold regNew at hu'
  dsimp only at hu'
  unfold regApply
  simp only [h1, h2, stage, hu', hn]
  rw [if_neg (by simp), if_neg (by simp), if_neg (by simp)]
  exact ⟨_, rfl, u, hu, rfl⟩

/-- What is kept for host paths and strands decides no entry write. -/
theorem ConnOk.paths {a : Agent} {num v : Nat} {s h : State} {n x : Nat} (k : ConnOk a num v s n x) (e : SameButPaths s h) :
    ConnOk a num v h n x := by
  obtain ⟨p, rfl⟩ := e
  exact ⟨k.own, k.source, k.coded, k.kept, k.quota, k.room, k.ledger.of_led rfl⟩

/-- What is kept for host paths and strands decides no write of a register of fields. -/
theorem Accepts.paths {a : Agent} {r : RegAt} {x : Nat} {s h : State} (k : Accepts a r x s) (q : LedgerTakes h) (e : SameButPaths s h) :
    Accepts a r x h := by
  obtain ⟨p, rfl⟩ := e
  exact ⟨k.width, k.values, k.mirror, k.staged, q⟩

end Sys2Proof.Machine
end

