-- ==== Sys2Proof/Tests/Slice0.lean ====
section
/-!
SUPPORT. Tests. The well-formedness checks each refuse a term; for every statement of Obligations.lean that has hypotheses, small states that meet
them, clause by clause; a few results from the spec's own words. Expected values are read from the spec's tables or worked by hand from them.
-/
namespace Sys2Proof.Tests

open Sys2Proof Sys2Proof.Machine

set_option Elab.async false

/-- The next state of an outcome has a property. -/
def after (o : Result) (f : State → Bool) : Bool := match o with | .next t => f t | _ => false

/-- An outcome is the stop of a command whose operand names nothing. -/
def stopped (o : Result) : Bool := match o with | .fault .noSuchObject => true | _ => false

/-- A part in service: supplies and clock present, every switched domain on. -/
def tUp : State :=
  { State.reset with pwr := { PwrState.reset with stage := .inService, pwrGood := true, dom := (List.range 112).map (fun k => (k, DomState.on)) } }

/-- A part in SAFE. -/
def tSafe : State := { State.reset with pwr := { PwrState.reset with stage := .safe, pwrGood := true } }

/-- A strand of Seat 1 that holds the slot of cluster 0, at 0x100. -/
def tStrand : Strand :=
  { Strand.reset with mode := .running, pc := 0x100, g := [(1, 0x40), (2, 0x80000001), (3, 3), (4, 0xFFFFFFFF), (6, 0x80), (7, 64)] }

/-- Strand 0 as given, owned by Seat 1, which has data page 0 at physical page 0x10, code page 0, line port 0, DMA channel 0 and the radio. -/
def tWith (x : Strand) : State :=
  { tUp with
    regs := [(0x20, 2), (0x11000, 0x1000), (0x11060, 0x1000), (0x110E0, 0x1000), (0x11198, 0x1000), (0x11600, 0x7010), (0x11680, 0x1020)]
    st := { StState.reset with strands := [(0, x)] }
    sram := [(0x10040, 0x78), (0x10041, 0x56), (0x10042, 0x34), (0x10043, 0x92)] }

/-- Strand 0 runs. -/
def tRun : State := tWith tStrand

/-- Its registers, for a statement's operands. -/
def tG (g : Tab Word) : State := tWith { tStrand with g := g }

/-! Well-formedness: each check refuses the first value outside its range and accepts the last one inside. -/

theorem test_wf_phase : Instr.wf (.timingInputEdge .fsync 19440) = false ∧ Instr.wf (.timingInputEdge .fsync 19439) = true := by decide
theorem test_wf_domain : Instr.wf (.domainWakeDone 112) = false ∧ Instr.wf (.domainWakeTimeout 112) = false ∧ Instr.wf (.domainGate 112) = false ∧
    Instr.wf (.domainWakeDone 111) = true ∧ Instr.wf (.domainWakeTimeout 111) = true ∧ Instr.wf (.domainGate 111) = true := by decide
theorem test_wf_tile : Instr.wf (.tileBistPassEnd false 25 true) = false ∧ Instr.wf (.tileBistPassEnd true 9 true) = false ∧
    Instr.wf (.tileDatapathFault false 25) = false ∧ Instr.wf (.tileDatapathFault true 9) = false ∧
    Instr.wf (.tileBistPassEnd false 24 true) = true ∧ Instr.wf (.tileDatapathFault true 8) = true := by decide
theorem test_wf_unit : Instr.wf (.decodeBistStart 5) = false ∧ Instr.wf (.decodeBistEnd 5 true) = false ∧ Instr.wf (.decodeBistStart 4) = true ∧
    Instr.wf (.decodeBistEnd 4 true) = true := by decide
theorem test_wf_slot : Instr.wf (.adcConversion 250 0 false) = false ∧ Instr.wf (.adcConversion 249 0 false) = true := by decide
theorem test_wf_source : Instr.wf (.faultRaise 412 false none) = false ∧ Instr.wf (.faultSweep 412 false) = false ∧ Instr.wf (.faultRaise 411 false none) = true ∧
    Instr.wf (.faultSweep 411 false) = true := by decide
/-- What the check refuses stops by name. -/
theorem test_wf_stops :
    (stopped (exec (.timingInputEdge .fsync 19440) tUp) && stopped (exec (.domainGate 112) tUp) && stopped (exec (.tileDatapathFault true 9) tUp)
      && stopped (exec (.decodeBistEnd 5 true) tUp) && stopped (exec (.adcConversion 250 0 false) tUp) && stopped (exec (.faultSweep 412 false) tUp)) = true := by
  decide +kernel

/-! No row of the table has bits: no word spells a command. -/
theorem test_no_words : decodeTableWord 32 0 = none ∧ State.reset.withFetchWord 32 0 = State.reset := by decide

/-! The words of the instruction-set chapter (R159), and a few more of its forms: each spells its instruction with its fields. -/

theorem test_words : celecCommand 0 0x0448C000 = some (.add 0 ⟨0x01, 1, 2, 3, 0, 0⟩) ∧ celecCommand 0 0x08C8FFF8 = some (.addi 0 ⟨0x02, 3, 2, 0, 0xFFF8⟩) ∧
    celecCommand 0 0xC07FFFFD = some (.bCond 0 ⟨0x30, 1, 0x3FFFFD⟩) := by decide
/-- `shri g5, g2, #31`; `st.h g1, [g2 + 4]`; `cas g1, g2, g3`; `preq g1, g2, g3`; `jlr g15, g1`. -/
theorem test_more_words : celecCommand 7 0x1D49001F = some (.shri 7 ⟨0x07, 5, 2, 1, 31⟩) ∧ celecCommand 0 0x48490004 = some (.stH 0 ⟨0x12, 1, 2, 1, 4⟩) ∧
    celecCommand 0 0x6848C800 = some (.cas 0 ⟨0x1A, 1, 2, 3, 8, 0⟩) ∧ celecCommand 0 0x8048C600 = some (.preq 0 ⟨0x20, 1, 2, 3, 6, 0⟩) ∧
    celecCommand 0 0xCBC40100 = some (.jlr 0 ⟨0x32, 15, 1, 0, 1, 0⟩) := by decide
/-- The zero word, an unassigned op, fn and sub spell nothing (R159, R160). -/
theorem test_no_instruction : celecCommand 0 0 = none ∧ celecCommand 0 0xFC000000 = none ∧ celecCommand 0 0x0448DD00 = none ∧ celecCommand 0 0x08C9FFF8 = none := by
  decide
theorem test_wf_word : Instr.wf (.add 0 ⟨0x01, 1, 2, 3, 1, 0⟩) = false ∧ Instr.wf (.add 0 ⟨0x01, 1, 2, 3, 0, 0⟩) = true ∧
    Instr.wf (.ldW 0 ⟨0x12, 1, 2, 0, 4⟩) = false ∧ Instr.wf (.bCond 0 ⟨0x31, 1, 4⟩) = false ∧ Instr.wf (.add 0 ⟨0, 0, 0, 0, 0, 0⟩) = true := by decide

/-! The queue and the invariants (StepTakesFront, StepKeepsSound, CommandsTouchOnly, WellFormedCompletes, LineTimeStages). -/

theorem test_step_front : after (step { tUp with pending := [.matePulseEdge, .tapReset] }) (fun t => t.mate.edge && t.pending == [.tapReset]) = true := by
  decide +kernel
theorem witness_step_idle : (State.reset.pending = [] ∧ alive State.reset = false) ∧ (tUp.pending = [] ∧ alive tUp = true ∧ tUp.lt.phase < frameLast tUp) ∧
    (let s := { tUp with lt := { tUp.lt with phase := 19438, frameAdj := -1 } }
     frameLast s ≤ s.lt.phase) := by decide +kernel
theorem witness_step_sound : (Memory.wf tRun.sram = true ∧ regsWf tRun.regs = true ∧ tRun.lt.phase < phasesPerFrame) ∧
    after (step { tRun with pending := [.wbnd 0 ⟨0x28, 5, 1, 0, 1, 0⟩] }) (fun t => (strandAt t 0).mode == .waiting) = true := by decide +kernel
theorem witness_line_time_stages : Fld.forward ∉ (Instr.i2cJobStart 0).touches ∧ Fld.stage ∉ (Instr.i2cJobStart 0).touches ∧
    after (exec (.i2cJobStart 0) tUp) (fun _ => true) = true ∧ after (exec .safeEntry tUp) (fun t => t.pwr.stage == .inService) = true ∧
    after (exec .framedEntry State.reset) (fun t => t.pwr.stage == .dark) = true := by decide +kernel

/-! Celec: arithmetic, flags, checks, traps. -/

/-- Strand 0 of a state may issue. -/
def ready (s : State) : Bool := issues s 0 && fetchValid s 0 && (fetchEcc s 0).isNone

theorem witness_ready : ready tRun = true := by decide +kernel
theorem test_add_wraps : after (exec (.add 0 ⟨0x1, 5, 2, 4, 0, 0⟩) tRun)
    (fun t => (strandAt t 0).reg 5 == 0x80000000 && (strandAt t 0).flags == ⟨false, true, true, false, false⟩ && (strandAt t 0).pc == 0x104) = true := by decide +kernel
theorem test_sub_overflows : after (exec (.sub 0 ⟨0x1, 5, 2, 3, 2, 0⟩) tRun)
    (fun t => (strandAt t 0).reg 5 == 0x7FFFFFFE && (strandAt t 0).flags == ⟨false, false, false, true, false⟩) = true := by decide +kernel
theorem test_cmp_below : after (exec (.cmp 0 ⟨0x1, 0, 3, 2, 26, 0⟩) tRun)
    (fun t => condHolds 2 (strandAt t 0).flags && condHolds 12 (strandAt t 0).flags && !condHolds 10 (strandAt t 0).flags) = true := by decide +kernel
theorem test_shr_last_bit_out : after (exec (.shri 0 ⟨0x7, 5, 2, 1, 1⟩) tRun) (fun t => (strandAt t 0).reg 5 == 0x40000000 && (strandAt t 0).flags.c) = true := by
  decide +kernel
theorem test_divs_most_negative : after (exec (.divs 0 ⟨0x1, 5, 1, 2, 17, 0⟩) (tG [(1, 0x80000000), (2, 0xFFFFFFFF)]))
    (fun t => (strandAt t 0).reg 5 == 0x80000000 && (strandAt t 0).flags.v) = true := by decide +kernel
theorem test_remu_by_zero : after (exec (.remu 0 ⟨0x1, 5, 2, 0, 16, 0⟩) tRun) (fun t => (strandAt t 0).reg 5 == 0x80000001 && (strandAt t 0).flags.v) = true := by
  decide +kernel
theorem test_write_g0 : after (exec (.addi 0 ⟨0x2, 0, 3, 0, 1⟩) tRun) (fun t => (strandAt t 0).reg 0 == 0 && (strandAt t 0).pc == 0x104) = true := by decide +kernel
theorem witness_condition_codes : ready tRun = true ∧ ((⟨1, 0, 2, 3, 26, 0⟩ : FormA).aux = 0 ∧ (⟨1, 0, 2, 3, 26, 0⟩ : FormA).rd = 0 ∧ (⟨1, 0, 2, 3, 26, 0⟩ : FormA).unassigned = none) ∧
    (strandAt tRun 0).pc.toNat % 4 = 0 ∧ (strandAt tRun 0).pc.toNat < 0x400000 ∧ (⟨1, 5, 2, 3, 28, 15⟩ : FormA).aux.toNat < 16 ∧ (⟨0x30, 15, 1⟩ : FormB).unassigned = none := by decide +kernel
theorem witness_shift_fields : ready tRun = true ∧ (⟨7, 5, 2, 3, 31⟩ : FormI).imm.toNat < 32 ∧ (⟨7, 5, 2, 3, 31⟩ : FormI).unassigned = none := by decide +kernel
/-- IssueChecks: a strand that waits, one whose code page is not valid, a field that must be 0. -/
theorem witness_issue_checks : (Instr.issuer (.add 0 ⟨0x1, 5, 2, 3, 0, 0⟩) = some 0 ∧ issues tUp 0 = false) ∧
    (issues (tWith { tStrand with pc := 0x1000 }) 0 = true ∧ fetchValid (tWith { tStrand with pc := 0x1000 }) 0 = false) ∧
    (Instr.reservedSet (.add 0 ⟨0x1, 5, 2, 3, 0, 1⟩) = some (0, 1) ∧ ready tRun = true) := by decide +kernel
theorem test_zero_word_traps : after (exec (.add 0 ⟨0, 0, 0, 0, 0, 0⟩) tRun) (fun t => (strandAt t 0).fault == 1 && (strandAt t 0).mode == .trapped) = true ∧
    after (exec (.addi 0 ⟨0x02, 3, 2, 1, 5⟩) tRun) (fun t => (strandAt t 0).fault == 0x201 && (strandAt t 0).reg 3 == 3) = true := by decide +kernel
theorem witness_word_checks : ((Instr.add 0 ⟨0x3F, 1, 2, 3, 0, 0⟩).celecWord = some (0, 0xFC48C000) ∧ celecCommand 0 0xFC48C000 = none) ∧
    ((Instr.add 0 ⟨1, 1, 2, 3, 0, 1⟩).celecWord = some (0, 0x0448C001) ∧ (celecCommand 0 0x0448C001).isSome = true ∧ (Instr.add 0 ⟨1, 1, 2, 3, 0, 1⟩).reservedSet = some (0, 1)) := by
  decide
theorem test_reserved_field_traps : after (exec (.lui 0 ⟨0x8, 5, 1, 0, 7⟩) tRun)
    (fun t => (strandAt t 0).mode == .trapped && (strandAt t 0).fault == 0x801 && (strandAt t 0).epc == 0x100 && (strandAt t 0).reg 5 == 0) = true := by
  decide +kernel

/-! Celec: memory. -/

theorem test_load_word : after (exec (.ldW 0 ⟨0x10, 5, 1, 0, 0⟩) tRun) (fun t => (strandAt t 0).reg 5 == 0x92345678) = true := by decide +kernel
theorem test_load_signed_half : after (exec (.ldsH 0 ⟨0x11, 5, 1, 1, 2⟩) tRun) (fun t => (strandAt t 0).reg 5 == 0xFFFF9234) = true := by decide +kernel
theorem test_load_misaligned : after (exec (.ldW 0 ⟨0x10, 5, 1, 0, 2⟩) tRun)
    (fun t => (strandAt t 0).fault == 2 && (strandAt t 0).faddr == 0x42 && (strandAt t 0).mode == .trapped) = true := by decide +kernel
theorem test_store_scratch : after (exec (.stxH 0 ⟨0x14, 2, 1, 1, 2⟩) tRun)
    (fun t => sramGet t 0xF80042 == 1 && sramGet t 0xF80043 == 0 && sramGet t 0xF80044 == 0 && sramGet t 0x10042 == 0x34) = true := by decide +kernel
/-- DataLoads, DataStores: the last word of a mapped, writable page; AccessTraps: an address of the page behind it, and a misaligned one. -/
theorem witness_data_access : ready tRun = true ∧ effAddr (strandAt tRun 0) 1 0xFBC = 0xFFC ∧
    dataPhys tRun (strandSeat tRun 0) 0xFFC = some 0x10FFC ∧ dataWritable tRun (strandSeat tRun 0) 0xFFC = true ∧
    dataPhys tRun (strandSeat tRun 0) 0x1000 = none ∧ effAddr (strandAt tRun 0) 1 0xFC0 = 0x1000 ∧ effAddr (strandAt tRun 0) 1 0xFFFF = 0x3F := by
  decide +kernel
/-- Words with and without an uncorrectable error: of data, of scratch, of the code that strand 0 fetches. -/
def tBad (p : Nat) : State := { tRun with ecc := [p] }
theorem witness_ecc : (ready (tBad 0x10041) = true ∧ wordBad (tBad 0x10041) 0x10040 = true ∧ wordBad (tBad 0x10041) 0x10044 = false ∧ wordBad tRun 0x10FFC = false) ∧
    (ready (tBad 0xF80040) = true ∧ wordBad (tBad 0xF80040) (0x1000 * (0xF80 + 0) + effAddr (strandAt tRun 0) 1 0) = true) ∧
    (issues (tBad 0x20103) 0 = true ∧ fetchValid (tBad 0x20103) 0 = true ∧ (codePage tRun 1 0).phys = 0x20 ∧ wordBad (tBad 0x20103) 0x20100 = true) := by
  decide +kernel
theorem test_ecc_load : after (exec (.ldW 0 ⟨0x10, 5, 1, 0, 0⟩) (tBad 0x10041)) (fun t => (strandAt t 0).fault == 8 && (strandAt t 0).faddr == 0x40 &&
    (strandAt t 0).reg 5 == 0 && (faultSrc t 24).raised) = true := by decide +kernel
theorem test_ecc_store_repairs : after (exec (.stxW 0 ⟨0x14, 2, 1, 0, 0⟩) (tBad 0xF80042)) (fun t => !wordBad t 0xF80040 && (strandAt t 0).mode == .running) = true := by
  decide +kernel
theorem test_ecc_upset : after (exec (.faultRaise 25 false (some 1)) tRun) (fun t => wordBad t 0x200007 && !wordBad t 0x200008 && (faultSrc t 25).raised) = true := by
  decide +kernel
/-- A page without STRAND_WR. -/
theorem witness_unwritable : let s := { tRun with regs := tRun.regs.map (fun e => if e.1 = 0x11600 then (0x11600, 0x3010) else e) }
    ready s = true ∧ dataPhys s (strandSeat s 0) 0x40 = some 0x10040 ∧ dataWritable s (strandSeat s 0) 0x40 = false := by decide +kernel
/-- Scratch: the last byte, and the first one behind it. -/
theorem witness_scratch : ready tRun = true ∧ effAddr (strandAt tRun 0) 1 0xFBF < 0x1000 ∧ 0x1000 ≤ effAddr (strandAt tRun 0) 1 0xFC0 := by decide +kernel
/-- Atomics: the word at g1, and CAS with a match and without. -/
theorem witness_atomics : ready tRun = true ∧ dataPhys tRun (strandSeat tRun 0) ((strandAt tRun 0).reg 1).toNat = some 0x10040 ∧
    dataWritable tRun (strandSeat tRun 0) 0x40 = true ∧ ((strandAt tRun 0).reg 1).toNat % 4 = 0 ∧
    (let old : Word := sramGet tRun 0x10043 ++ sramGet tRun 0x10042 ++ sramGet tRun 0x10041 ++ sramGet tRun 0x10040
     old ≠ (strandAt tRun 0).reg 3 ∧ old = (strandAt (tG [(1, 0x40), (3, 0x92345678)]) 0).reg 3) := by decide +kernel
/-- ObjectRegisterAccess: a register and an object that the Seat reaches, and addresses that it does not. -/
theorem witness_register_access : (objRead (strandAgent tRun 0) 0x200000 tRun).1.isSome = true ∧ (objRead (strandAgent tRun 0) 0x200600 tRun).1 = none ∧
    (seatRead (strandAgent tRun 0) 0 tRun).1.isSome = true ∧ rstFail tRun (strandAgent tRun 0) 0x1094 = false ∧
    (seatWrite (strandAgent tRun 0) 0x1094 0xF 0 tRun).1.isSome = true ∧ objWriteFail tRun (strandAgent tRun 0) 0x200000 = none ∧
    (objWrite (strandAgent tRun 0) 0x200000 0 (dropKeyLoad (apertureOff 0x200000) tRun)).1.isSome = true := by decide +kernel

/-! Celec: block operations and requests. -/

/-- ProgressConflict. -/
theorem witness_progress_conflict : ready (tWith { tStrand with prog := 64, epc := 0xFC }) = true ∧
    (strandAt (tWith { tStrand with prog := 64, epc := 0xFC }) 0).prog ≠ 0 ∧ (strandAt (tWith { tStrand with prog := 64, epc := 0xFC }) 0).epc ≠ 0x100 ∧
    (strandAt (tWith { tStrand with prog := 64, epc := 0xFC }) 0).reg 5 = 0 ∧ (⟨0x1D, 2, 1, 3, 0, 15⟩ : FormA).aux.toNat < 16 ∧
    (bits (⟨0x1C, 2, 1, 3, 0, 6⟩ : FormA).aux.toNat 0 2 ≠ 3 ∧ (⟨0x1C, 2, 1, 3, 0, 6⟩ : FormA).aux.toNat < 8) := by decide +kernel
/-- How a run of units ended: 0 complete, 1 paused, 2 a trap, 256 and more a refusal of that outcome. -/
def ended : BlockEnd → Nat
  | .complete => 0
  | .paused => 1
  | .trap _ _ => 2
  | .refused c => 256 + c
/-- The units of a BLKMOV of two units between scratch addresses, or from data to scratch. -/
def tBlk (sp : Nat) (stop : Option Nat) (s : State) : Nat × BlockEnd × State :=
  let src := (regOf s 0 1).toNat
  runUnits (blkUnit 0 (strandSeat s 0) sp 1 src 0x200 128 false) 2 (unitLimit 2 stop) 0 s
/-- BlockMove: all units, a stop after the first, a source page that is not mapped. -/
theorem witness_block_move : ready tRun = true ∧ (⟨0x1C, 6, 1, 7, 0, 5⟩ : FormA).aux.toNat < 8 ∧ bits 5 0 2 ≠ 3 ∧ (strandAt tRun 0).prog = 0 ∧ (regOf tRun 0 7).toNat ≤ 0x40000 ∧
    ((tBlk 1 none tRun).1 = 2 ∧ ended (tBlk 1 none tRun).2.1 = 0) ∧ ((tBlk 1 (some 1) tRun).1 = 1 ∧ ended (tBlk 1 (some 1) tRun).2.1 = 1) ∧
    ended (tBlk 0 none (tG [(1, 0x1000)])).2.1 = 2 := by decide +kernel
/-- BlockMoveOverlap: both ends at the end of scratch. -/
theorem witness_block_overlap : ready (tG [(1, 0xF80), (6, 0xFC0), (7, 64)]) = true ∧ (strandAt (tG [(1, 0xF80), (6, 0xFC0), (7, 64)]) 0).prog = 0 ∧
    0xF80 + 64 ≤ 0x1000 ∧ 0xFC0 + 64 ≤ 0x1000 ∧ wordBad tRun 0xF80FBF = false := by decide +kernel
theorem test_block_move_overlap : after (exec (.blkmov 0 ⟨0x1C, 6, 1, 7, 0, 5⟩ none) { tG [(1, 0), (6, 1), (7, 3)] with sram := [(0xF80000, 1), (0xF80001, 2), (0xF80002, 3)] })
    (fun t => sramGet t 0xF80000 == 1 && sramGet t 0xF80001 == 1 && sramGet t 0xF80002 == 2 && sramGet t 0xF80003 == 3) = true := by decide +kernel
/-- A CSETN of `total` entries of data memory from 0x80 on, from the first connection of port 0 on. -/
def tSet (total : Nat) (stop : Option Nat) (s : State) : Nat × BlockEnd × State :=
  runUnits (csetUnit 0 1 0x200000 0x80) total (unitLimit total stop) 0 (touch (strandAgent s 0) none s)
/-- ConnectionSet: no entry, one, two with a stop, a refusal of entry 0 and of a later one, too many. -/
theorem witness_connection_set : ready tRun = true ∧ connAligned 0x200000 = none ∧ strandSeat tRun 0 = 1 ∧
    (ended (tSet 1 none tRun).2.1 = 0 ∧ strandSeat (tSet 1 none tRun).2.2 0 = 1) ∧ ((tSet 2 (some 1) tRun).1 = 1 ∧ ended (tSet 2 (some 1) tRun).2.1 = 1) ∧
    (runUnits (csetUnit 0 1 0x200600 0x80) 1 (unitLimit 1 none) 0 tRun).1 = 0 ∧
    ended (runUnits (csetUnit 0 1 0x200600 0x80) 1 (unitLimit 1 none) 0 tRun).2.1 = 256 + 0x15 ∧
    (runUnits (csetUnit 0 1 0x2005F8 0x80) 2 (unitLimit 2 none) 0 tRun).1 = 1 ∧
    ended (runUnits (csetUnit 0 1 0x2005F8 0x80) 2 (unitLimit 2 none) 0 tRun).2.1 = 256 + 0x15 ∧ 256 < (regOf (tG [(5, 257)]) 0 5).toNat := by decide +kernel
/-- ConnectionRequests: the last high-order and the first low-order connection of port 0, one of port 1, one that is not assigned, an address of none. -/
theorem witness_connection_requests : ready tRun = true ∧ connAligned 0x2005F8 = none ∧ connOfAddr 0x2005F8 = some 191 ∧ connOfAddr 0x210000 = some 8192 ∧
    dataCheck tRun 1 false 4 0x40 (entrySize 191) = none ∧ dataCheck tRun 1 true 4 0x40 (entrySize 191) = none ∧
    (connAssigned 191 = true ∧ connReach tRun 1 191 = true ∧ connPhys tRun 1 191 false = some 191) ∧
    (connAssigned 192 = true ∧ connReach tRun 1 192 = false) ∧ (connAligned 0x1000000 = none ∧ dataCheck tRun 1 false 4 0x40 4 = none) := by decide +kernel
/-- ProofProtectionRequests: an attachment, and a switch request that is outranked by the lockout in force. -/
theorem witness_switch_requests : ready tRun = true ∧ connAligned 0x200000 = none ∧ dataCheck tRun 1 false 4 0x40 40 = none ∧
    (commandAt (strandAgent tRun 0) 0x440000 1 tRun).1 = 0 ∧ protAt tRun 1 0x440000 = some (.msp 0, 0) ∧
    (let s := { tRun with prot := { tRun.prot with msp := [(0, { ProtCtl.reset with ext := 1, rank := 0, code := 15 })] } }
     protAt s 1 0x440000 = some (.msp 0, 0) ∧ (commandAt (strandAgent s 0) 0x440000 2 s).1 = 0x10) := by decide +kernel
/-- CommitScanRadioRequests: a group for a later frame, and one whose stage is full. -/
theorem witness_commit_requests : ready tRun = true ∧ (goGroup (strandAgent tRun 0) (frame32 tRun 100 * phasesPerFrame) tRun).1 = 2 ∧
    (goGroup (strandAgent tRun 0) 0 { tRun with lt := { tRun.lt with seats := [(1, { SeatLt.reset with stageFull := true })] } }).1 = 0x10 ∧
    dataCheck tRun 1 false 4 0x40 64 = none ∧ dataCheck tRun 1 false 4 0x40 32 = none ∧ owns tRun 1 204 0 = true ∧
    (radioSeat tRun 1).rx = [] ∧ dataCheck tRun 1 true 4 0x40 4 = none ∧ (radioSubmit 1 (dataVal tRun 1 0x40 32) tRun).1 = 0x15 ∧
    (radioSeat { tRun with radio := { tRun.radio with seats := [(1, { RadioSeat.reset with rx := [[1, 2, 3, 4]] })] } } 1).rx = [1, 2, 3, 4] :: [] := by decide +kernel
/-- DmaRequests: the channel of g5 = 0, owned; of g1 = 0x40, none. -/
theorem witness_dma_requests : ready tRun = true ∧ dataCheck tRun 1 true 4 0x40 32 = none ∧ reqChan tRun 0 5 = some 0 ∧ reqChan tRun 0 1 = none := by decide +kernel

/-! Celec: waits, events, control. -/

/-- Waits: WLT at or before, and behind, the position; WBND of 0 and of more; a phase behind the frame's last. -/
theorem witness_waits : ready tRun = true ∧ ((strandAt tRun 0).reg 5).toNat % 65536 ≤ 19439 ∧
    frame32 tRun 0 * 19440 + 0 ≤ nowPos tRun ∧ nowPos tRun < frame32 tRun 3 * 19440 + 0 ∧ 19439 < ((strandAt (tG [(2, 19440)]) 0).reg 2).toNat % 65536 := by
  decide +kernel
/-- A strand that waits for LT 0.5, one for a position passed, one for a later frame; one with a timeout reached, and not. -/
theorem witness_wakes : (let x := strandAt (tWith { tStrand with mode := .waiting, wait := some (.lt 0 5 3) }) 0
      x.mode = .waiting ∧ x.wait = some (.lt 0 5 3) ∧ 0 = tRun.lt.frame ∧ tRun.lt.phase < 5) ∧ 0 * 19440 + 0 ≤ nowPos tRun ∧ tRun.lt.frame < 1 ∧
    (let x := strandAt (tWith { tStrand with mode := .waiting, wait := some (.ev 1 false 3 (some 0)) }) 0
     x.mode = .waiting ∧ x.wait = some (.ev 1 false 3 (some 0)) ∧ 0 ≤ tRun.lt.frame ∧ tRun.lt.frame < 1) := by decide +kernel
/-- WEV: events 63 and 2 set, masks of both; and no event of the mask. -/
theorem witness_wev : let s := { tRun with st := { tRun.st with events := [(1, 2 ^ 63 + 4)] } }
    ready s = true ∧ (eventFlags s 1).testBit 2 = true ∧ (0x40 + 2 ^ 32 * 0 + 4).testBit 2 = true ∧
    (∀ d, d < 2 → ¬ ((eventFlags s 1).testBit d = true ∧ (2 ^ 63 + 4).testBit d = true)) ∧ (eventFlags s 1).testBit 63 = true ∧
    (∀ d, d < 63 → ¬ ((eventFlags s 1).testBit d = true ∧ (2 ^ 63).testBit d = true)) ∧
    (∀ d, d < 64 → ¬ ((eventFlags tRun 1).testBit d = true ∧ (2 ^ 64 - 1).testBit d = true)) := by decide +kernel
/-- StrandControl, SpecialRegisters, ControlFlow: the boundary operands. -/
theorem witness_control : ready tRun = true ∧ ((strandAt tRun 0).pending = none ∧ bit (stCtlOf tRun 0) 4 = false) ∧
    (⟨0x28, 0, 0, 0, 5, 10⟩ : FormA).aux.toNat ≤ 10 ∧ 10 < (⟨0x28, 0, 0, 0, 5, 11⟩ : FormA).aux.toNat ∧ 8 < (⟨0x29, 5, 9, 0, 0, 0⟩ : FormA).ra.toNat ∧
    (⟨0x29, 9, 1, 0, 1, 0⟩ : FormA).rd ≠ 5 ∧ condHolds 15 (strandAt tRun 0).flags = true ∧ condHolds 0 (strandAt tRun 0).flags = false ∧
    (0x3FFFFC % 4 = 0 ∧ 0x3FFFFC < 0x400000) ∧ 0x3FFFFE % 4 ≠ 0 ∧ 0x400000 % 4 = 0 := by decide +kernel
/-- SignalSpawn: an event that no strand waits for; the Seat's strand 0 idle, running without and with a pending start, disabled; one it does not own. -/
theorem witness_signal_spawn : ready tRun = true ∧ (63 : Nat) < 64 ∧
    (∀ q ∈ seatStrands tRun 1, waitsFor (strandAt tRun q.2) 63 true = false ∧ waitsFor (strandAt tRun q.2) 63 false = false ∧ startsOn tRun q.2 63 = false) ∧
    ownedPhys tRun 1 48 0 = some 0 ∧ (strandAt (tWith { tStrand with mode := .idle }) 0).mode = .idle ∧
    ((strandAt tRun 0).mode = .running ∧ (strandAt tRun 0).pending = none) ∧ (strandAt (tWith { tStrand with pending := some 7 }) 0).pending.isSome = true ∧
    (strandAt (tWith Strand.reset) 0).mode = .disabled ∧ ownedPhys tRun 1 48 1 = none := by decide +kernel
/-- StallsSlices: a stalled strand, a running one, one that waits for the slot. -/
theorem witness_stalls : (strandAt (tWith { tStrand with mode := .stalled, stall := some ⟨5, 1, some true, none⟩ }) 0).stall = some ⟨5, 1, some true, none⟩ ∧
    (strandAt tRun 0).mode = .running ∧ (strandAt tUp 0).mode = .disabled ∧
    (let s := { tRun with st := { tRun.st with strands := [(0, tStrand), (1, { tStrand with mode := .runnable })] } }
     (strandAt (reschedule 0 s) 1).mode = .runnable) := by decide +kernel
theorem test_branch_back : after (exec (.blCond 0 ⟨0x31, 15, 0x3FFFFF⟩) tRun) (fun t => (strandAt t 0).pc == 0xFC && (strandAt t 0).reg 15 == 0x104) = true := by
  decide +kernel
theorem test_stall_end : after (exec (.stallEnd 0) (tWith { tStrand with mode := .stalled, stall := some ⟨5, 0x15, some false, none⟩ }))
    (fun t => (strandAt t 0).reg 5 == 0x15 && !(strandAt t 0).flags.t && (strandAt t 0).mode == .running) = true := by decide +kernel

/-! Line Time, power, the ledger, DMA. -/

/-- The part follows FSYNC alone, with a window of 4 (LT_REF_SEL). -/
def tRef (x : TimingIn) : State := { tUp with regs := [(0x1008, 0x43C)], lt := { tUp.lt with fsync := x } }
/-- TimingInputs: sampled and not; ranked and not; a first edge; the edges at the ends of the window and just outside; the third miss, a first one. -/
theorem witness_timing_inputs : (timingSampled tUp = true ∧ timingSampled State.reset = false ∧ (0 : Nat) < 19440) ∧
    ((refRanks (tRef .reset)).contains (timNum .fsync) = true ∧ (refRanks (tRef .reset)).contains (timNum .pps) = false) ∧
    (timingIn (tRef .reset) .fsync).predicted = none ∧ refWindow (tRef .reset) = 4 ∧
    ((timingIn (tRef ⟨false, 15, 0, some 100⟩) .fsync).predicted = some 100 ∧ (96 ≤ 100 + 4 ∧ 100 ≤ 96 + 4) ∧ (104 ≤ 100 + 4 ∧ 100 ≤ 104 + 4) ∧ 95 + 4 < 100 ∧ 100 + 4 < 105) ∧
    ((100 + 4) / 19440 ≤ tUp.lt.frame ∧ timNeed .fsync ≤ 15 + 1) ∧
    ((⟨true, 16, 2, some 100⟩ : TimingIn).qualified = true ∧ 3 ≤ (⟨true, 16, 2, some 100⟩ : TimingIn).misses + 1 ∧ (⟨true, 16, 1, some 100⟩ : TimingIn).misses < 2) ∧
    ({ tUp with lt := { tUp.lt with mode := .freeRun } } : State).lt.mode = .freeRun := by decide +kernel
theorem test_sixteenth_edge_qualifies : after (exec (.timingInputEdge .fsync 104) (tRef ⟨false, 15, 0, some 100⟩)) (fun t => t.lt.fsync.qualified) = true ∧
    after (exec (.timingInputEdge .fsync 104) (tRef ⟨false, 14, 0, some 100⟩)) (fun t => t.lt.fsync.qualified) = false := by decide +kernel
theorem test_third_miss_disqualifies : after (exec (.timingInputMiss .fsync) (tRef ⟨true, 16, 2, some 100⟩)) (fun t => !t.lt.fsync.qualified) = true ∧
    after (exec (.timingInputMiss .fsync) (tRef ⟨true, 16, 1, some 100⟩)) (fun t => t.lt.fsync.qualified) = true := by decide +kernel
/-- A strand event 3 of Seat 0 at LT 0.7 in entry 9 of the calendar. -/
def tCal : State := { tUp with lt := { tUp.lt with cal := [(9, { CalEntry.empty with kind := 2, phase := 7, target := 3 })] } }
/-- A synchronized standby whose holder's lease ran out two cycles before. -/
def tExpiry (frame : Nat) : State :=
  { tUp with lt := { tUp.lt with frame := frame, countOk := true }, mate := { tUp.mate with rein := .standby, sync := .synced, lease := 0 } }
/-- FrameStart. -/
theorem witness_frame_start : (alive tUp = true ∧ tUp.lt.jump = none ∧ tUp.lt.markMf = false ∧ tUp.lt.lateMf = false) ∧ alive State.reset = false ∧
    (calRuns tCal = true ∧ (calAt tCal 9).kind = 2 ∧ calPos (calAt tCal 9) / 19440 = tCal.lt.frame ∧
      (calDue { tCal with lt := { tCal.lt with phase := 7 } }).head? = some 9) ∧ calRuns (tExpiry 0) = false ∧
    ((tExpiry 32).lt.frame % 16 = 0 ∧ (tExpiry 32).lt.phase = 0 ∧ expiryAt (tExpiry 32) (32 / 16) = true) ∧
    (expiryAt (tExpiry 17) (17 / 16 + 1) = true ∧ (tExpiry 17).mate.takeDue = none ∧ expiryAt tUp 1 = false) ∧
    (let s := { tExpiry 32 with mate := { (tExpiry 32).mate with takeDue := some ⟨2, 2, 0, 0, 5, 5⟩ } }
     s.mate.takeDue = some ⟨2, 2, 0, 0, 5, 5⟩ ∧ expiryAt s (32 / 16) = true) := by decide +kernel
/-- SuppliesResets, StagesDomains. -/
theorem witness_power : tUp.pwr.pwrGood = true ∧ State.reset.pwr.pwrGood = false ∧ State.reset.pwr.vcoreFeeds = true ∧
    (State.reset.pwr.stage = .dark ∧ ({ State.reset.pwr with pwrGood := true } : PwrState).pwrGood = true ∧ State.reset.lt.refclkOk = true) ∧
    (tSafe.pwr.stage = .safe ∧ tSafe.pwr.bootHold = false) ∧ (111 : Nat) < 112 ∧ domState tUp 111 = .on ∧
    domState { tUp with pwr := { tUp.pwr with dom := [(111, .waking)] } } 111 = .waking ∧
    domState { tUp with pwr := { tUp.pwr with dom := [(0, .gatePending)] } } 0 = .gatePending ∧ domState { tUp with pwr := { tUp.pwr with dom := [] } } 0 = .gated := by
  decide +kernel
theorem test_vio_bank : after (exec (.vioBankPowerChange 7 false) tUp) (fun t => t.pwr.vioOk == 127) = true := by decide +kernel
/-- LedgerEvents: a start record that waits with room, losses, batches. -/
theorem witness_ledger : ({ tUp.led with startWaiting := some ⟨0, 0, 5, 0, 0, 0, 0, false, [], 0, 0⟩ } : LedgerState).startWaiting.isSome = true ∧ 2 ≤ ledgerFree tUp ∧
    tUp.led.startWaiting = none ∧ tUp.led.lost = 0 ∧ ({ tUp.led with lost := 1 } : LedgerState).lost ≠ 0 ∧
    (let s := { tUp with regs := [(0x7C0010, 1)], pwr := { tUp.pwr with ret := { tUp.pwr.ret with seq := 8 } } }
     rbit s (kP 0x7C0010) 0 = true ∧ rbit s (kP 0x7C0010) 1 = false ∧ s.led.batch = none ∧ min (unspilled s) (spillRoom s) ≠ 0 ∧ s.led.spillFault = false ∧
       8 ≤ unspilled s ∧ s.lt.frame % 8 = 0) := by decide +kernel
/-- Channel 0 of Seat 1 active with a descriptor of 64 bytes from data to data; the burst of it in flight. -/
def tDma : State :=
  { tRun with dma := { tRun.dma with credit := [(1, 1)], chans := [(0, { Channel.reset with mode := .active, desc := some ⟨0x40, 0x80, 64, 0, 0, 0, false, 0⟩ })] } }
def tBurst (src dst : Nat) (fail : Option Nat) : State :=
  { tDma with dma := { tDma.dma with movers := [(0, some ⟨0, 1, 4, 0x10040, 0x10080, src, dst, [1, 2, 3, 4], fail⟩)] } }
/-- DmaBursts. -/
theorem witness_dma_bursts : (alive tDma = true ∧ moverAt tDma 0 = none ∧ nextChan tDma false = some 0 ∧ (chanAt tDma 0).desc.isSome = true) ∧
    (moverAt (tBurst 0 0 none) 0).isSome = true ∧ ((moverAt (tBurst 0 0 none) 0).map (·.fail)) = some none ∧ ((moverAt (tBurst 1 0 none) 0).map (·.srcSpace)) = some 1 ∧
    ((moverAt (tBurst 0 1 none) 0).map (fun b => (b.dstSpace, b.data.length == b.len))) = some (1, true) ∧ ((moverAt (tBurst 0 0 (some 2)) 0).map (·.fail)) = some (some 2) ∧
    ((moverAt (tBurst 0 0 (some 3)) 0).map (·.fail)) = some (some 3) ∧ dataPhys tDma (chanSeat tDma 0) (0x40 + 0) = some 0x10040 ∧
    (let s : State := { tDma with ecc := [0x1007F] }
     wordBad s (0x10040 + 63) = true ∧ (burstOf s 0 ⟨0x40, 0x80, 64, 0, 0, 1, false, 0⟩).fail = some 3) := by
  decide +kernel

/-! Line ports, GFP-F, the fabric, protection. -/

/-- LinePorts: a port whose receiver frames, in SYNC without LOS or LOF, with a K value seen twice; windows that end; a port that sends and one that does not. -/
def tPort : LinePort := { LinePort.reset with framer := .sync, cands := [0], los := false, lof := false, kCand := 0x0201, kRun := 2 }
def tLine (x : LinePort) : State := { tUp with line := { tUp.line with ports := [(15, x)] } }
def tRx (pats : List Nat) : LineRx := ⟨pats, true, true, 1, 2, 1, 2, 0, 0, 0, 0, 0, 0, [], [], [], [], [], [], [], 0⟩
theorem witness_line_ports : (lineRuns (tLine tPort) 15 = true ∧ lineRuns tSafe 15 = false) ∧
    ((portAt (tLine tPort) 15).framer = .sync ∧ (framerStep [0] true { tPort with cdrLock := true }).framer = .sync ∧ tPort.los = false ∧ tPort.lof = false ∧
      tPort.kCand = (tRx [0]).k1.toNat + 256 * (tRx [0]).k2.toNat ∧ 2 ≤ tPort.kRun) ∧ ¬ ((LinePort.reset).framer = .sync) ∧
    (let s := { tLine tPort with lt := { tUp.lt with frame := 7, bounds := 7 } }
     windowDue s 0 { B2Window.reset with start := some 0 } = true ∧ windowDue { s with lt := tUp.lt } 0 { B2Window.reset with start := some 0 } = false) ∧
    ({ B2Window.reset with start := some 0, ends := true } : B2Window).ends = true ∧
    (txKind tSafe 15 ≠ 0 ∧ 16 ≤ ({ tPort with txClean := 16 } : LinePort).txClean ∧ 8 ≤ ({ tPort with monAge := 8 } : LinePort).monAge ∧
      tPort.monitor ≠ .sync ∧ tPort.monAge < 8) ∧
    (txKind (tLine tPort) 15 = 0 ∧ txKind tSafe 15 = 1) ∧
    (let x := { tPort with beyond := true, jumpFrame := 0 }
     x.beyond = true ∧ x.jumpFrame + 8000 ≤ ({ tUp with lt := { tUp.lt with bounds := 8000 } } : State).lt.bounds) ∧ tPort.txFail = false ∧ ({ tPort with txFail := true } : LinePort).txFail = true := by
  decide +kernel
theorem test_k_bytes_third : after (exec (.lineFrameReceive 15 (tRx [0])) (tLine tPort)) (fun t => (portAt t 15).k1 == 1 && (portAt t 15).k2 == 2 && tget 0 (portAt t 15).cnt 1 == 2) = true := by
  decide +kernel
/-- GfpChannels: channel 7 on port 0, receiving, and sending with a whole record and with less. -/
def tGfp (x : GfpChan) : State :=
  { tUp with regs := [(0x221C0, 1)], pwr := { tUp.pwr with role := .holder }, line := { tUp.line with gfp := [(7, x)] } }
theorem witness_gfp : (lineSlotAis (tLine tPort) 15 0 tPort = true ∧
      lineSlotAis (tLine tPort) 15 0 { tPort with au := [(0, { PtrInterp.reset with mode := .norm })] } = false) ∧ bit (gfpCfg (tGfp .reset) [] 7) 0 = true ∧ domOn (tGfp .reset) (94 + 7) = true ∧ lineRuns (tGfp .reset) (bits (gfpCfg (tGfp .reset) [] 7) 4 4) = true ∧
    txKind (tGfp .reset) (bits (gfpCfg (tGfp .reset) [] 7) 4 4) = 3 ∧ ((GfpChan.reset).delin = .hunt ∧ ({ GfpChan.reset with delin := .sync } : GfpChan).delin = .sync ∧
      ({ GfpChan.reset with delin := .presync } : GfpChan).delin = .presync) ∧
    (8 + (bytesVal (([1, 0, 0, 0, 0, 0, 0, 0, 9, 0, 0, 0] : List Byte).take 2) + 3) / 4 * 4 ≤ ([1, 0, 0, 0, 0, 0, 0, 0, 9, 0, 0, 0] : List Byte).length) ∧
    (([] : List Byte).length < 8 + (bytesVal (([] : List Byte).take 2) + 3) / 4 * 4) := by decide +kernel
/-- FabricTiles: the resting tile in each phase, the last tile of each fabric, a serving one. -/
def tRot (r : Rotation) : State := { tUp with fab := { tUp.fab with rotHo := r } }
theorem witness_fabric_tiles : tilesOn tUp false = true ∧ tilesOn { tUp with regs := [(0x100000, 0x1F)] } true = true ∧
    (rotAt tUp false).phase = .bist ∧ (rotAt tUp false).resting = 24 ∧ (24 : Nat) ≤ groupsOf false ∧ (8 : Nat) ≤ groupsOf true ∧
    (rotAt (tRot { Rotation.reset 24 0 with phase := .load }) false).phase = .load ∧
    (let r := rotAt (tRot { Rotation.reset 24 0 with phase := .compare, attempt := 2 }) false
     r.phase = .compare ∧ r.suspectSwap = false ∧ 2 ≤ r.attempt ∧ serverOf false r r.cursor = 0) ∧
    (rotAt (tRot { Rotation.reset 24 0 with phase := .compare, attempt := 1 }) false).attempt < 2 ∧
    bit tUp.mon.shed 2 = false ∧ (tileAt false (rotAt tUp false) 24).mode = .resting ∧ (0 : Nat) ≠ (rotAt tUp false).resting ∧
    rbit { tUp with regs := [(0x100000, 0x16)] } (kP 0x100000) 3 = false ∧ rbit tUp (kP 0x100000) 4 = true := by decide +kernel
/-- ProtectionTimers: an enabled group with a condition held for 0 and for the hold-off of 1, a restore and an exercise that run out, 400 frames of mismatch. -/
def tProt (c : ProtCtl) : State := { tUp with regs := [(2 ^ 24 + 0x440000, 0x0A000201)], prot := { tUp.prot with msp := [(0, c)] } }
theorem witness_protection_timers : protOn (tProt .reset) (.msp 0) = true ∧ protOn tUp (.msp 0) = false ∧
    (({ ProtCtl.reset with raw := 8, runs := [0, 0, 0, 0] } : ProtCtl).raw.testBit 3 = true ∧ (cfgOf (tProt .reset) (.msp 0)).holdoff * 800 ≤ 0) ∧
    (ProtCtl.reset).raw.testBit 3 = false ∧ (({ ProtCtl.reset with wtrRun := true, wtrLeft := 0 } : ProtCtl).wtrRun = true) ∧
    (({ ProtCtl.reset with exerRun := true, exerLeft := 0 } : ProtCtl).exerRun = true) ∧ ((ProtCtl.reset).fop = false ∧ 400 ≤ ({ ProtCtl.reset with fopRun := 400 } : ProtCtl).fopRun) := by
  decide +kernel
theorem test_wtr_expiry : after (exec (.wtrExpiry (.msp 0)) (tProt { ProtCtl.reset with wtrRun := true })) (fun t => !(ctlAt t (.msp 0)).wtrRun) = true := by decide +kernel

/-! The mate. -/

def tHb : Heartbeat := ⟨true, 4, 0, false, false, false, false, false, 0, 0, 1, 7, 0, 0, 0⟩
def tMate (m : MateState) : State := { tUp with mate := m }
/-- MateHeartbeats. -/
theorem witness_heartbeats : (3 ≤ tUp.pwr.stage.code ∧ bit tUp.pwr.vioOk 6 = true) ∧
    (({ MateState.reset with pulseAlive := true, quietRun := 4 } : MateState).pulseAlive = true) ∧ (({ MateState.reset with msgAlive := true, hbMiss := 2 } : MateState).hbNow = false) ∧
    (mateListens tSafe = true ∧ mateListens State.reset = false) ∧
    (hbValid tSafe tHb = true ∧ hbValid tSafe { tHb with ok := false } = false ∧ hbValid tSafe { tHb with rein := 7 } = false) ∧ (tHb.rein = 4 ∧ tSafe.mate.term < tHb.term.toNat) ∧
    (let s := { tSafe with lt := { tSafe.lt with countOk := true }, mate := { tSafe.mate with rein := .listen, listenEnd := true } }
     s.mate.rein = .listen ∧ s.mate.listenLeft = 0 ∧ s.mate.listenEnd = true ∧ s.mate.standbyDue = false ∧ mayTake s = true ∧ s.mate.listenSilent = true) ∧ mayTake tSafe = false ∧
    ((⟨2, 0, 0, 0, 0⟩ : ReleaseMsg).kind.toNat ≤ 2 ∧ mateListens (tMate { MateState.reset with rein := .standby, sync := .synced }) = true) ∧
    (let s : State := { tUp with lt := { tUp.lt with frame := 16, countOk := true }, mate := { MateState.reset with rein := .releasing, msgAlive := true, relTimeout := true } }
     s.mate.rein = .releasing ∧ s.mate.relTake ≤ s.lt.frame / 16 ∧ s.mate.relTimeout = true ∧ s.mate.msgAlive = true ∧ s.lt.countOk = true) := by decide +kernel
/-- MateEpochs. -/
theorem witness_epochs : ((tMate { MateState.reset with rein := .holder }).mate.rein = .holder ∧ (MateState.reset).waiting = [] ∧
      (MateState.reset).queueBytes + deltaLen ⟨1, false, false, false, 0, 0, [1, 2]⟩ ≤ 8192) ∧
    ((tMate { MateState.reset with rein := .standby }).mate.rx = none ∧ (tMate { MateState.reset with rein := .standby }).mate.rein = .standby) ∧
    (({ MateState.reset with rx := some ⟨1, 0, 0, [], 24, 0, 0, []⟩, sync := .synced } : MateState).rx.isSome = true) ∧ (0 < (1 : Nat) ∧ (8 : Nat) ≤ 8) ∧
    following (tMate { MateState.reset with rein := .standby, sync := .synced }) = true ∧ following tUp = false ∧ (MateState.reset).rein ≠ .standby ∧
    (let e : EpochBody := ⟨1, 0, 0, [], 24, 0, 0, []⟩
     let s := tMate { MateState.reset with rein := .standby, sync := .synced, rx := some e }
     trailerOk s e ⟨false, false, 1, 0, 24, BitVec.ofNat 32 (bodyCrc e), 0, 0⟩ = true ∧ trailerOk s e ⟨true, false, 1, 0, 24, BitVec.ofNat 32 (bodyCrc e), 0, 0⟩ = false) ∧
    ((0 : BitVec 32).toNat = (MateState.reset).snapChunks.length ∧ (BitVec.ofNat 32 (snapCrc [])).toNat = snapCrc (MateState.reset).snapChunks) ∧
    (let s : State := { tUp with lt := { tUp.lt with bounds := 800 }, mate := { MateState.reset with rein := .standby, sync := .snapshot } }
     s.mate.sync = .snapshot ∧ s.mate.snapEnded = false ∧ s.mate.snapCycle + 800 ≤ s.lt.bounds) := by decide +kernel

/-! Cameras. -/

/-- Receiver 1 enabled at 1500 Mb/s, or at 1501 with deskew; camera 4 bound to it on VC 0 and enabled. -/
def tCam (rate : Nat) (x : Camera) : State :=
  { tUp with regs := [(0x400100, 3 + 16 * rate), (0x400810, 1), (0x450000, 1)], cam := { tUp.cam with cams := [(4, x)] } }
def tCf : CamFrame := ⟨1, 0, 0, 0, 0, 0, 0, [], [], 1, 0, 0, [], [], 0, 0, []⟩
/-- CameraPackets: a receiver off, on and ready, on without deskew; a virtual channel of a camera and of none; the frame's data type and another; a frame due. -/
theorem witness_camera_packets : bit (crCfg tUp 1) 0 = false ∧ (bit (crCfg (tCam 1500 .reset) 1) 0 = true ∧ domOn (tCam 1500 .reset) (102 + 1) = true) ∧
    bits (crCfg (tCam 1500 .reset) 1) 4 12 ≤ 1500 ∧ (1500 < bits (crCfg (tCam 1501 .reset) 1) 4 12 ∧ (rxAt (tCam 1501 .reset) 1).deskewOk = false) ∧
    bit (crCfg (tCam 1501 .reset) 1) 1 = true ∧ camOf (tCam 1500 .reset) 1 0 = some 4 ∧ camOf (tCam 1500 .reset) 1 3 = none ∧
    ((camAt (tCam 1500 .reset) 4).cur = none ∧ (camAt (tCam 1500 { Camera.reset with cur := some tCf }) 4).cur = some tCf) ∧
    (isPixelDt (tCam 1500 .reset) 1 0x2A = true ∧ (dtCode (tCam 1500 .reset) 1 (bits tCf.cfg 1 3)).1 = 0x2A ∧ (dtCode (tCam 1500 .reset) 1 (bits tCf.cfg 1 3)).1 ≠ 0x2B ∧
      isPixelDt (tCam 1500 .reset) 1 0x2B = true) ∧
    ((tCf.bound + bits tCf.time 0 16) * 19440 + tCf.phase ≤ tUp.lt.bounds * 19440 + tUp.lt.phase) ∧
    tUp.lt.bounds * 19440 + tUp.lt.phase < (1 + bits tCf.time 0 16) * 19440 := by decide +kernel
theorem test_frame_start_opens : after (exec (.frameStart 1 0 7) (tCam 1500 .reset)) (fun t => ((camAt t 4).cur.map (·.num)) == some 7) = true := by decide +kernel
/-- CameraMasters: a frame that closes; jobs that start now, late, later; a running one; pulses requested in SAFE, while active, and not. -/
theorem witness_camera_masters : (camAt (tCam 1500 { Camera.reset with closing := some tCf }) 4).closing = some tCf ∧
    (let x := i2cAt { tUp with cam := { tUp.cam with i2c := [(1, { CamI2c.reset with queue := [⟨0, 0, 0, 0, 5, false⟩] })] } } 1
     x.running = none ∧ x.queue = ⟨0, 0, 0, 0, 5, false⟩ :: [] ∧ tUp.lt.frame < 5) ∧ ((⟨0, 0, 0, 0, 0, false⟩ : I2cJob).start = 0 ∧ (⟨0, 0, 0, 0, 5, true⟩ : I2cJob).late = true) ∧
    (i2cAt { tUp with cam := { tUp.cam with i2c := [(1, { CamI2c.reset with running := some ⟨0, 0, 0, 0, 0, false⟩ })] } } 1).running = some ⟨0, 0, 0, 0, 0, false⟩ ∧
    (trigAt tUp 3).due = [] ∧ (earliestDue [(19440, 5), (7, 3)] = some (7, 3) ∧ 7 / 19440 ≤ tUp.lt.frame) ∧ (earliestDue [(19440, 5)] = some (19440, 5) ∧ tUp.lt.frame < 19440 / 19440) ∧
    (tSafe.pwr.stage.code < 3 ∧ 3 ≤ tUp.pwr.stage.code ∧ bit tUp.pwr.vioOk 2 = true) ∧ (({ CamTrig.reset with active := true } : CamTrig).active = true ∧ (CamTrig.reset).until_ / 19440 ≤ tUp.lt.frame) := by
  decide +kernel

/-! The scan engine. -/

/-- A job of Seat 0 for camera 0 at LT 1.0 that has not committed; an attempt of it. -/
def tJob : ScanJob := ⟨5, 0, 0, 0, 0, [], 19440, 0, 10, 0, false, false, [], false, false⟩
def tAtt : ScanAttempt := ⟨5, 0, 19440, 0, 0, false, none, false, false, 0, false, 0, false, 0, 0, 0, [], 0, false⟩
def tScan (x : ScanState) : State := { tUp with scan := x }
def tJobs (js : List ScanJob) (as : List ScanAttempt) : State := tScan { ScanState.reset with jobs := js, attempts := as }
/-- ScanExposures: a job at its commit point, open and free, with the camera held (tries left, or none: before and at the last frame), with a blocked lantern. -/
theorem witness_scan_commit : jobAt tUp 5 = none ∧ (jobAt (tJobs [tJob] []) 5 = some tJob ∧ tJob.busy = false ∧ tJob.last = false ∧ (tJob.pos - 19440) / 19440 ≤ tUp.lt.frame ∧
      (tJobs [tJob] []).scan.jobs.any (fun k => !k.busy && commitsBefore (tJobs [tJob] []) k tJob) = false) ∧
    (cameraHeld (tJobs [tJob] []) 0 = false ∧ tokensFree (tJobs [tJob] []) 0 0 = true) ∧ cameraHeld (tJobs [tJob] [tAtt]) 0 = true ∧
    (tJob.tries = 0 ∧ tJob.pos + 19440 < (tJob.deadline - 4) * 19440) ∧ (({ tJob with deadline := 6 } : ScanJob).deadline - 4) * 19440 ≤ tJob.pos + 19440 ∧
    bit ({ ScanState.reset with blocked := 128 } : ScanState).blocked 7 = true := by decide +kernel
theorem test_scan_commit_holds_camera : after (exec (.scanCommit 5) (tJobs [tJob] [])) (fun t => cameraHeld t 0) = true := by decide +kernel
/-- ScanExposures: strobes now and later, enabled or not, one that ends; an attempt whose time-out has come, done and not, and one that still waits. -/
theorem witness_strobes : (let s := { tScan { ScanState.reset with strobes := [⟨7, 100, 200, 3, 0, false⟩] } with regs := [(0x502070, 1)] }
      firstStrobe (·.start) (s.scan.strobes.filter (fun b => b.lant == 7 && !b.active)) = some ⟨7, 100, 200, 3, 0, false⟩ ∧ 100 / 19440 ≤ s.lt.frame ∧ lantEn s 7 = true ∧ strobesRun s = true ∧
        bit s.scan.blocked 7 = false ∧ firstStrobe (·.stop) (s.scan.strobes.filter (fun b => b.lant == 7)) = some ⟨7, 100, 200, 3, 0, false⟩ ∧ 200 / 19440 ≤ s.lt.frame) ∧
    lantEn tUp 7 = false ∧ tUp.lt.frame < 19440 / 19440 ∧
    ((tJobs [] [tAtt]).scan.attempts.find? (fun a => a.job == 5 && a.taken.isNone && !a.closed) = some tAtt ∧
      (let s := { tJobs [] [tAtt] with lt := { tUp.lt with frame := 65535 } }
       tAtt.edge + rbits s (kP 0x41000C) 0 16 * 19440 ≤ nowPos s)) ∧ nowPos (tJobs [] [tAtt]) < 1 + rbits (tJobs [] [tAtt]) (kP 0x41000C) 0 16 * 19440 := by decide +kernel
/-- ScanUnits: an attempt open, closed, listed and ended; units in service, none, the finder out of service; results that the job takes and does not; self-tests. -/
theorem witness_scan_units : (jobAt (tJobs [tJob] [tAtt]) 5 = some tJob ∧ attemptAt (tJobs [tJob] [tAtt]) 5 = some tAtt ∧ tAtt.closed = false) ∧
    (({ tAtt with closed := true } : ScanAttempt).closed = true ∧ ({ tAtt with closed := true } : ScanAttempt).listed = false) ∧
    (inService (unitAt tUp 4) = true ∧ anyInService tUp = true) ∧ inService (unitAt (tScan { ScanState.reset with units := [(4, ⟨.failed, 0, 0⟩)] }) 4) = false ∧
    anyInService (tScan { ScanState.reset with units := (List.range 4).map (fun u => (u, ⟨UnitMode.offline, 0, 0⟩)) }) = false ∧
    (({ tAtt with listed := true } : ScanAttempt).listed = true ∧ tAtt.cands ≤ tAtt.nextCand ∧ tAtt.inWork = 0 ∧ ({ tAtt with inWork := 1 } : ScanAttempt).inWork ≠ 0) ∧
    (({ tJob with deadline := 0 } : ScanJob).deadline ≤ tUp.lt.frame ∧ tAtt.detail = 0 ∧ tUp.lt.frame < tJob.deadline) ∧ attemptAt (tJobs [tJob] []) 5 = none ∧
    ((unitAt (tScan { ScanState.reset with units := [(3, ⟨.busy, 5, 0⟩)] }) 3).mode = .busy ∧ (unitAt tUp 3).mode = .idle ∧ symbolOk tUp 0 ⟨1, 0, 0, 0, 0, 0, 0, 0, []⟩ = true ∧
      symbolOk tUp 0 ⟨6, 0, 0, 0, 0, 0, 0, 0, []⟩ = false) ∧ (domOn tUp 105 = true ∧ domOn tUp (106 + 3) = true ∧ tUp.scan.attempts.all (·.done) = true) ∧
    ((unitAt (tScan { ScanState.reset with units := [(4, ⟨.bist, 0, 0⟩)] }) 4).mode = .bist ∧ ({ ScanState.reset with bistDue := true } : ScanState).bistDue = true ∧
      ({ ScanState.reset with bistRun := true } : ScanState).bistRun = true) := by decide +kernel
theorem test_finder_cap : after (exec (.finderComplete 5 63 false) (tJobs [tJob] [{ tAtt with closed := true }]))
    (fun t => (attemptAt t 5).map (fun a => (a.cands, a.candOver)) == some (32, true)) = true := by decide +kernel

/-! Dunte lanes, the cord radio. -/

def tHdr : DunteHeader := ⟨true, 2, 31, 0, false, true, true, false, false, 0, 0⟩
def tLane (x : Lane) : State := { tUp with regs := [(0xE1F00, 0x50040002)], pwr := { tUp.pwr with role := .holder }, dun := { tUp.dun with lanes := [(31, x)] } }
/-- DunteLanes: a lane that runs and is locked, one that does not run; the framer in SYNC and not; transmitters; the training time-out. -/
theorem witness_dunte_lanes : (laneRuns (tLane { Lane.reset with locked := true }) (laneIdx (.bl 31)) = true ∧ (laneAt (tLane { Lane.reset with locked := true }) 31).locked = true) ∧
    laneRuns tUp 31 = false ∧ (laneFramer [7] { Lane.reset with framer := .sync, cands := [7] }).2 = true ∧ (laneFramer [] Lane.reset).2 = false ∧
    (laneTx (tLane { Lane.reset with tx := .train }) 31 = .train ∧ laneTx (tLane .reset) 31 = .idle ∧ laneTx (tLane { Lane.reset with tx := .run }) 31 ≠ .idle) ∧
    ((Lane.reset).accepted = none ∧ (Lane.reset).leftIdle + 160 ≤ ({ tUp with lt := { tUp.lt with bounds := 160 } } : State).lt.bounds ∧ tUp.lt.frame % 4 = 0) ∧
    tUp.lt.bounds < (Lane.reset).leftIdle + 160 ∧ (Lane.reset).txFail = false ∧ ({ Lane.reset with txFail := true } : Lane).txFail = true := by decide +kernel
/-- LaneWindows: an end of window and a frame inside one; a bad window; 80 and 4 errors declare, 3 leave SD, 0 clear. -/
theorem witness_lane_windows : laneRuns (tLane .reset) (laneIdx (.bl 31)) = true ∧ ((tLane .reset).lt.frame + 1) % 800 ≠ 0 ∧
    (({ tUp with lt := { tUp.lt with frame := 799 } } : State).lt.frame + 1) % 800 = 0 ∧ ({ Lane.reset with winEnds := true } : Lane).winEnds = true ∧ (Lane.reset).winBad = true ∧
    (bits (rget (tLane .reset) (kP (0xE0000 + 0x100 * 31))) 16 8 = 4 ∧ bits (rget (tLane .reset) (kP (0xE0000 + 0x100 * 31))) 24 8 = 80) ∧
    ((4 : Nat) ≤ 4 ∧ 3 < 4 ∧ 4 / 10 < 3 ∧ 0 ≤ 4 / 10 ∧ 80 ≤ 80 ∧ 79 < 80 ∧ 80 / 10 < 79 ∧ 8 ≤ 80 / 10) := by decide +kernel
/-- The check value of the polynomial of HCRC (14_scan_engine.md gives it for the same CRC-8). -/
theorem test_hcrc : headerCrc [0x31, 0x32, 0x33, 0x34, 0x35, 0x36, 0x37, 0x38, 0x39] = 0xF4 := by decide +kernel
theorem test_lane_sd : (let t := laneWindow true false 31 (tLane { Lane.reset with winEnds := true, winBad := false, winErr := 4 })
     (laneAt t 31).sd = true ∧ (laneAt t 31).exc = false) ∧
    (laneAt (laneWindow true false 31 (tLane { Lane.reset with winEnds := true, winErr := 4 })) 31).sd = false := by decide +kernel

/-- The radio runs, in a CAP slot; a broadcast frame of Seat 0 that asks for no acknowledgement. -/
def tRadio (x : RadioState) : State :=
  { tUp with regs := [(0x600000, 0x05000089)], radio := { x with up := true, sfCycle := some 0, sfCfg := 0x1FF, sfSlot := 0x15555555 } }
def tFrame : RadioFrame := ⟨3, 0, 8, [1, 2], false, 0, 0, 10, 2000, 0, true, 0, none, false, none, 0, 0, false, false⟩
/-- RadioTransmissions. -/
theorem witness_radio_transmit : frameAt (tRadio .reset) 3 = none ∧ (let s := tRadio { RadioState.reset with frames := [tFrame] }
      frameAt s 3 = some tFrame ∧ radioRuns s = true ∧ s.radio.txBlocked = false ∧ mayAttempt s tFrame = true ∧ bits tFrame.desc 8 3 = 0 ∧
        tokensFree s tFrame.seat (tokPa s) = true ∧ s.lt.frame < tFrame.deadline ∧ radioEn s = true ∧ seatAdmits s tFrame.seat tFrame.air (minuteOf (nowPos s)) = true) ∧
    tokensFree { tRadio .reset with book := { tUp.book with held := [(0, 65535)] } } 0 (tokPa (tRadio .reset)) = false ∧
    (tFrame.waitAck = false ∧ ({ tFrame with waitAck := true, tries := 4 } : RadioFrame).waitAck = true ∧ ({ tFrame with tries := 3 } : RadioFrame).tries < 4) ∧
    (10 ≤ ({ tUp with lt := { tUp.lt with frame := 10 } } : State).lt.frame ∧ (tRadio .reset).radio.onAir = none) ∧
    seatAdmits { tRadio .reset with regs := [(0x600000, 0x05000089), (0x600040, 0)] } 0 2000 0 = false ∧
    (let h : HwFrame := ⟨.immAck, [1], none, none, 0, true, 0, 0, false⟩
     nextHw (tRadio { RadioState.reset with hw := [h] }) = some h) ∧
    (let s := tRadio { RadioState.reset with frames := [{ tFrame with inCca := true }] }
     s.radio.hw.find? (·.inCca) = none ∧ s.radio.frames.find? (·.inCca) = some { tFrame with inCca := true } ∧ tFrame.backoffs < 4 ∧ bit s.mon.shed 1 = false) ∧
    (({ tFrame with backoffs := 4 } : RadioFrame).backoffs = 4 ∧ bit tFrame.desc 0 = false ∧ bit tFrame.desc 3 = true ∧ bit 1 0 = true) ∧
    (domOn (tRadio .reset) 110 = true ∧ (bits 0x8101015A 0 8 = 0x5A ∧ bits 0x0001015A 8 8 = 1 ∧ bit 0x0001015A (16 + phyOf (tRadio .reset)) = true) ∧ bits 0 0 8 ≠ 0x5A) := by
  decide +kernel
def tPsdu : RadioRx := ⟨true, 1, .data, true, 0xFFFF, .short 0xFFFF, .none, false, false, 0, 0, 0, 0, 0, false, [], [], [], 0, 0, 0⟩
/-- A tracked tag that polls in cycle 1 at LT 16.0. -/
def tNbr : Neighbour := { Neighbour.free with state := .tracked, body := 2 ^ 80 }
def tNbrs (n : Neighbour) : State := tRadio { RadioState.reset with nbrs := [(511, n)] }
/-- RadioReceptions. -/
theorem witness_radio_receive : (radioRuns (tRadio .reset) = true ∧ listening (tRadio .reset) = true) ∧ radioRuns tUp = false ∧
    (tPsdu.fcsOk = true ∧ tPsdu.version ≠ 3 ∧ tPsdu.addrOk = true ∧ tPsdu.secured = false ∧ tPsdu.kind = .data ∧ rxForUs (tRadio .reset) tPsdu = true ∧ tPsdu.ackReq = false) ∧
    rxForUs (tRadio .reset) { tPsdu with dst := .none } = false ∧
    (let s := tNbrs tNbr
     radioEn s = true ∧ (nbrAt s 511).state = .tracked ∧ nbrKind (nbrAt s 511) = 1 ∧ nextPoll (nbrAt s 511) (max (nowPos s) (nbrAt s 511).decided) = 16 * 19440 ∧ 16 ≤ s.lt.frame + 32 ∧ (nbrAt s 511).windows = [] ∧
       192 * 3888 * 10 ^ 6 + 2 * driftOf s (nbrAt s 511) * (25 * (16 * 19440) - 0) ≤ 8000 * 3888 * 10 ^ 6) ∧
    (let s := { tNbrs tNbr with lt := { tUp.lt with frame := 2000000 } }
     8000 * 3888 * 10 ^ 6 < 192 * 3888 * 10 ^ 6 + 2 * driftOf s (nbrAt s 511) * (25 * nextPoll (nbrAt s 511) (nowPos s) - 0)) ∧
    ((nbrAt (tNbrs .free) 511).state ≠ .tracked ∧ (nbrAt (tNbrs { tNbr with windows := [(0, 0)] }) 511).windows = [(0, 0)] ∧
      (0 + (0 + 50 * 10 ^ 6 - 1) / (50 * 10 ^ 6)) / 19440 ≤ tUp.lt.frame) ∧
    (let n := nbrAt (tNbrs { tNbr with state := .lostSync, resc := 65 }) 511
     n.state = .lostSync ∧ 65 ≤ n.resc) ∧ ({ tNbr with resc := 64 } : Neighbour).resc < 65 ∧
    (let h : HwFrame := ⟨.rebroadcast, [1], none, none, 0, false, 0, 0, false⟩
     [h].find? (fun h => h.kind = .rebroadcast && !h.ready) = some h) := by decide +kernel

/-! The monitor, the fault collector. -/

/-- MonitorConversions: a slot passed and one to come; a sampling slot and a calibration slot, the last one. -/
theorem witness_monitor : (249 : Nat) < 250 ∧ (alive tUp = true ∧ tUp.mon.slot ≤ 0) ∧ 0 < ({ tUp.mon with slot := 1 } : MonState).slot ∧ 0 % 25 ≠ 24 ∧ 249 % 25 = 24 ∧
    tUp.mon.calFail = false ∧ ({ tUp.mon with calFail := true } : MonState).calFail = true := by decide +kernel
/-- FaultCollector: the last source, enabled and not; a pair that is bad with 14 and with 15 good sweeps; the latch empty, in its handling window with and without a clear. -/
theorem witness_fault_collector : (411 : Nat) < 412 ∧ canRaise tUp 411 = true ∧ canRaise State.reset 411 = false ∧ (sourceOn tUp 41 = true ∧ sourceOn tSafe 41 = false) ∧
    injectDue tUp 41 = false ∧ (let s := { tUp with flt := { tUp.flt with src := [(41, { FaultSrc.reset with pairBad := true, good := 15 })] } }
      (faultSrc s 41).pairBad = true ∧ 15 ≤ (faultSrc s 41).good ∧ canRaise s 41 = false) ∧ tUp.flt.latch = none ∧
    (let l : FaultLatch := ⟨1, 0, 0, false, false, 0, 0, 0, 0, false, false, true, true⟩
     l.handling = true ∧ l.clearDue = true ∧ ({ l with handling := false } : FaultLatch).handling = false) := by decide +kernel

/-! Register writes and the host ports. -/

def tWho : HostWho := ⟨0, .pcie⟩

/-- A write of Seat 0 by PCI Express reaches the register of that name at an offset, as one word. -/
def reaches (s : State) (off : Nat) (nm : RegName) : Bool :=
  alive s && seatEnabled s (hostAgent tWho).seat && s.led.keyWords.isEmpty && !isObjOff off && !isMemOff off
    && (match regAt s (hostAgent tWho).seat (hostAgent tWho).pk off true with
        | .reg r => !readOnly r.desc && mayWrite (hostAgent tWho).seat r && r.desc.name == nm && !multiWord r.desc && (pathAt s (hostAgent tWho).pk).held.isNone
        | _ => false)

/-- CommandRegisters: the offsets of the statement, first and last of each index, reach the registers it names. -/
theorem witness_command_registers : (reaches tUp 0x124 .hostErrClr && reaches tUp 0x10B0 .ltCalCtl && reaches tUp 0x1094 .ltCommitCtl && reaches tUp 0x410 .pwrStageCtl
    && reaches tUp 0x418 .pwrResetCtl && reaches tUp 0x7C0040 .ledgerKey && reaches tUp 0x7C0028 .ledgerSpillCons && reaches tUp 0x40008 .stCmd
    && reaches tUp (0x40008 + 0x100 * 63) .stCmd && reaches tUp 0x48000 .stEventSet && reaches tUp 0x48004 .stEventSet && reaches tUp 0x21008 .dmaChCmd
    && reaches tUp (0x21008 + 0x40 * 31) .dmaChCmd && reaches tUp 0x80140 .lpCntClr && reaches tUp (0x80140 + 0x4000 * 15) .lpCntClr && reaches tUp 0x100110 .fabRotCmd
    && reaches tUp (0x40000 + 0x20) .stCtx && reaches tUp (0x40000 + 0x100 * 63 + 0x7C) .stG) = true := by decide +kernel
/-- BlockCommands. -/
theorem witness_block_commands : (reaches tUp 0xC0330 .pxCmd && reaches tUp 0xC0200 .pxOverride && reaches tUp 0xD0010 .mateCmd && reaches tUp 0x4A0004 .ciCmd
    && reaches tUp 0x4A1004 .ciCmd && reaches tUp 0x500140 .scanCmd && reaches tUp 0x500810 .scanBistCmd && reaches tUp 0x600480 .radioCmd
    && reaches tUp 0x600498 .radioBistCmd && reaches tUp 0x780910 .fcFirstClr && reaches tUp 0x548 .bookCntClr) = true := by decide +kernel
/-- The commands of a protection object: an MSP group's word and a selector's, neither a connection. -/
theorem witness_protection_commands : isHoAddr 0x4401E4 = false ∧ connOfAddr 0x4401E4 = none ∧ isHoAddr 0x40000C = false ∧ connOfAddr 0x40000C = none ∧
    (pathAt tUp (hostAgent tWho).pk).held = none ∧ (protWrite (hostAgent tWho) 0x4401E4 0 tUp).isSome = true ∧ (protWrite (hostAgent tWho) 0x40000C 0 tUp).isNone = true := by
  decide +kernel
/-- FieldRegisters. -/
theorem witness_field_registers : (reaches tUp 0x100 .hostBind && reaches tUp 0x1004 .ltCtl && reaches tUp 0x7C0010 .ledgerSpillCtl && reaches tUp 0x40000 .stCtl
    && reaches tUp (0x40000 + 0x100 * 63) .stCtl && reaches tUp 0x100000 .fabCtl && reaches tUp 0xD0000 .mateCtl && reaches tUp 0x400000 .crCfg
    && reaches tUp 0x400100 .crCfg && reaches tUp 0x400800 .camBind && reaches tUp 0x40081C .camBind && reaches tUp 0x410000 .camCfg && reaches tUp 0x480000 .camCfg
    && reaches tUp 0x500000 .scanCfg && reaches tUp 0x600000 .radioCfg && reaches tUp 0x600030 .radioFcOut && reaches tUp 0x700000 .monCfg
    && reaches tUp (0x700000 + 0x40 * 23) .monCfg && reaches tUp 0x70080C .monShedCtl && reaches tUp 0x500 .bookTokens && reaches tUp 0x780920 .fcInject) = true ∧
    (bits 411 0 9 ≤ 411 ∧ isHoAddr 0x200000 = true ∧ isHoAddr 0x210000 = false ∧ isConnAddr 0x2CFFFC = true ∧ isConnAddr 0x2D0000 = false) := by decide +kernel
/-- RegisterWords: an offset of no register, a Keeper's register and one that only the Seat's rights refuse, a read-only one, hardware not fitted, a register of two words. -/
theorem witness_register_words : (alive tRun = true ∧ seatEnabled tRun 1 = true ∧ seatEnabled tRun 2 = false) ∧ regLocate 0x7FFFFC = none ∧
    ((regLocate 0x1004).map (fun l => keeperOnly l.desc)) = some true ∧
    ((regLocate 0x1094).map (fun l => keeperOnly l.desc)) = some false ∧
    (match regAt tRun 1 (hostPk 1 0) 0x84000 true with | .notFitted => true | _ => false) = true ∧
    (match regAt tRun 1 (hostPk 1 0) 0x0 true with | .reg r => readOnly r.desc | _ => false) = true ∧
    (match regAt tUp 0 0 0x1048 true with | .reg r => multiWord r.desc && r.word == 0 | _ => false) = true ∧
    (match regAt tUp 0 0 0x104C true with | .reg r => multiWord r.desc && r.word == 1 && decide ((r.desc.bytes + 3) / 4 ≤ 2) | _ => false) = true ∧
    (match regAt tUp 0 0 0x10000 true with | .reg r => !readOnly r.desc && !mayWrite 0 r | _ => false) = true := by decide +kernel
theorem test_keeper_register_refused : after (exec (.hostRegisterWrite ⟨1, .spi⟩ 0x1004 0) tRun) (fun t => (pathAt t (hostPk 1 2)).wrOutcome == 0x15 && rget t (kP 0x1004) == rget tRun (kP 0x1004)) = true := by
  decide +kernel
theorem test_two_words : after (exec (.hostRegisterWrite tWho 0x1048 5) tUp) (fun t => (pathAt t 0).held.isSome && t.lt.jump.isNone) = true := by decide +kernel

/-- A PCI Express link that is up, with its physical function open. -/
def tPcie : State := { tUp with host := { tUp.host with linkUp := true, fns := [(0, { PcieFn.reset with enabled := true, mse := true })] } }
def tBoard : State := { tUp with host := { tUp.host with i2cReady := true } }
/-- HostPorts: functions that answer, with and without memory space, and not; a link to train, PERST_N, ports that serve and do not; a pair; a frame at the end of the window. -/
theorem witness_host_ports : (fnAnswers tPcie 0 = true ∧ fnAnswers tPcie 1 = false ∧ (pcieFn tPcie 0).mse = true ∧ (pcieFn { tPcie with host := { tPcie.host with fns := [] } } 0).mse = false) ∧
    (isMemOff 0x100 = false ∧ isMemOff 0x800000 = true) ∧ (2 ≤ tUp.pwr.stage.code ∧ tUp.host.perst = false ∧ tUp.host.linkUp = false) ∧
    (bit tUp.pwr.vioOk 7 = true ∧ bit ({ tUp.pwr with vioOk := 127 } : PwrState).vioOk 7 = false) ∧ (lbServes tUp = true ∧ tUp.host.lbPair = .none) ∧
    lbServes State.reset = false ∧ spiServes tUp = true ∧ spiServes State.reset = false ∧ (0xFFFFF8 + 4 * (0 + 1) ≤ 2 ^ 24) ∧ tUp.host.bindPending = none ∧
    tUp.pwr.pwrGood = true ∧ State.reset.pwr.pwrGood = false ∧ i2cServes tBoard = true ∧ i2cServes tUp = false := by decide +kernel
theorem test_poisoned_write : after (exec (.pcieRequest ⟨0, .write, true, 0x1004, 0xF, 0, [0], 0⟩) tPcie) (fun t => (pathAt t 0).discard == 1 && rget t (kP 0x1004) == rget tPcie (kP 0x1004)) = true := by
  decide +kernel
theorem test_i2c_pointer : after (exec (.i2cWrite [0x10, 0]) tBoard) (fun t => t.host.i2cPtr == 0x10 && t.host.i2cDrop == 1) = true := by decide +kernel

/-! Where commands complete: the conditions of the statements' last clauses, met. -/

/-- What `Accepts` asks of a write of `x` at an offset by Seat 0. -/
def accepts (s : State) (off x : Nat) : Bool :=
  match regAt s 0 0 off true with
  | .reg r =>
      let old := regStored s r
      decide (r.desc.bytes ≤ 64) && regCheck s (hostAgent tWho) r old (regNorm r old x) == oDone && !mirrorRefused s
        && (r.desc.rws == 0 || (r.desc.rw != 0 && shadowShown s 0 r &&& r.desc.rws == regNorm r old x &&& r.desc.rws))
  | _ => false

theorem accepts_reg {s : State} {off x : Nat} (h : accepts s off x = true) (l : LedgerTakes s) :
    ∃ r, regAt s 0 0 off true = .reg r ∧ Accepts (hostAgent tWho) r x s := by
  unfold accepts at h
  split at h
  · rename_i r hr
    simp only [Bool.and_eq_true, decide_eq_true_eq, beq_iff_eq, Bool.or_eq_true, bne_iff_ne, Bool.not_eq_true'] at h
    obtain ⟨⟨⟨h1, h2⟩, h3⟩, h4⟩ := h
    exact ⟨r, hr, h1, h2, h3, h4, l⟩
  · cases h

theorem witness_ledger_takes : LedgerTakes tUp ∧ LedgerTakes tRun := by unfold LedgerTakes; decide +kernel
theorem witness_ledger_quiet : LedgerQuiet tUp 12 := ⟨by decide +kernel, by decide +kernel, by decide +kernel, by decide +kernel, by decide +kernel⟩
/-- FieldRegisters: values that each register takes, MATE_CTL's enable and the lower bits of FAB_CTL and CAM_CFG among them. -/
theorem witness_accepts : (accepts tUp 0x100 0x310 && accepts tUp 0x1004 0x10 && accepts tUp 0x7C0010 1 && accepts tUp 0x40000 1 && accepts tUp 0x100000 0x1C
    && accepts tUp 0xD0000 1 && accepts tUp 0x400000 0x5DC3 && accepts tUp 0x400800 0 && accepts tUp 0x410000 1 && accepts tUp 0x500000 0
    && accepts tUp 0x600000 0x05000088 && accepts tUp 0x600000 0x05000089 && accepts tUp 0x600030 3 && accepts tUp 0x700000 (2 ^ 24) && accepts tUp 0x70080C 1
    && accepts tUp 0x500 100 && accepts tUp 0x780920 0x1005) = true := by decide +kernel

/-- CommandRegisters: an event for LT 100.0, an entry of the calendar, a staged group for LT 100.0 and an accepted one. -/
theorem late_onTime {s : State} {pos : Int} {p : Nat} (h : ((earliest s * phasesPerFrame : Nat) : Int) ≤ pos) (hp : pos.toNat = p) :
    lateRule s pos = .onTime p := by
  unfold lateRule; rw [if_pos h, hp]
def tCalReg : State := { tUp with regs := [(kS 0 0x10A0, 100 + 2 * 2 ^ 80 + 2 ^ 84 + 3 * 2 ^ 96)] }
theorem witness_calendar_completes : (let x := rget tCalReg (kS 0 0x10A0)
      mirrorRefused tCalReg = false ∧ bits x 84 3 ≠ 0 ∧ calTargetOk tCalReg 0 (bits x 80 4) (bits x 96 16) = true ∧ bits x 48 16 < 19440 ∧
        calFree tCalReg 0 = some 0) ∧
    (mirrorRefused tCal = false ∧ (calAt tCal 9).kind ≠ 0 ∧ (calAt tCal 9).kind ≠ 3) := by decide +kernel
theorem witness_calendar_place : lateRule tCalReg ((100 * 19440 : Nat) : Int) = .onTime (100 * 19440) := late_onTime (by decide +kernel) (by decide +kernel)
def tStage : State := { tUp with lt := { tUp.lt with seats := [(0, { SeatLt.reset with group := [⟨0x80014, 14⟩] })] } }
theorem witness_go : GoOk (hostAgent tWho) (100 * 19440) tStage (100 * 19440) false 0 [] ∧ goFrame tStage (goWrites tStage 0 []) (100 * 19440) = 100 :=
  ⟨⟨by decide +kernel, by decide +kernel, late_onTime (by decide +kernel) (by decide +kernel), by decide +kernel, by decide +kernel, by decide +kernel, by decide +kernel, by decide +kernel,
    by decide +kernel, by unfold LedgerTakes; decide +kernel⟩, by decide +kernel⟩
def tGroup : CommitGroup := ⟨0, 7, [⟨0x80014, 14⟩], 2, false, false, false, 0, 0, false, false⟩
theorem witness_cancel : CancelOk (hostAgent tWho) 7 { tUp with lt := { tUp.lt with groups := [tGroup] } } tGroup :=
  ⟨by decide +kernel, by decide +kernel, by decide +kernel, by decide +kernel, by decide +kernel, by unfold LedgerTakes; decide +kernel⟩
/-- CommandRegisters: a release and an advance that may act, a warm reset armed, key words in their order, entries consumed. -/
theorem witness_stage_completes : (let s := { tSafe with pwr := { tSafe.pwr with bootHold := true } }
      s.pwr.bootHold = true ∧ s.pwr.stage = .safe ∧ s.pwr.released = false ∧ LedgerTakes s) ∧
    (let s := { tSafe with pwr := { tSafe.pwr with stage := .framed } }
     s.pwr.stage = .framed ∧ s.pwr.advPending = false ∧ LedgerTakes s) ∧
    ({ tUp.pwr with warmArmed := true } : PwrState).warmArmed = true ∧
    (let s := { tUp with led := { tUp.led with keyWords := [1, 2, 3, 4, 5, 6, 7] } }
     s.led.keyWords.length = 7 ∧ LedgerTakes s ∧ alive s = true ∧ seatEnabled s 0 = true) ∧
    (let s := { tUp with pwr := { tUp.pwr with ret := { tUp.pwr.ret with seq := 8 } }, led := { tUp.led with prod := 8 } }
     (5 + 2 ^ 32 - s.led.cons) % 2 ^ 32 ≤ (spillProd s + 2 ^ 32 - s.led.cons) % 2 ^ 32) := by unfold LedgerTakes; decide +kernel
/-- CommandRegisters: a strand in each mode that a command takes, a channel with a start address of its Seat's data memory, a tile and a rotation. -/
theorem witness_strand_completes : (strandAt (tWith { tStrand with mode := .idle }) 0).mode = .idle ∧ (strandAt tRun 0).pending = none ∧ (strandAt tRun 0).mode = .running ∧
    (strandAt (tWith { tStrand with mode := .trapped }) 0).mode = .trapped ∧
    ((ledgerMgmt (hostAgent tWho) 1 0x21008 0 1 false [] { tRun with regs := (0x21004, 0x40) :: tRun.regs }).all
      (fun u => descReach u (chanSeat u 0) (chanDesc u 0)) = true ∧ (chanAt tRun 0).mode = .idle) ∧
    (tileAt false (rotAt (tRot { Rotation.reset 24 0 with tiles := [(24, { (tileAt false (rotAt tUp false) 24) with mode := .failed })] }) false) 24).mode = .failed ∧
    (rotEn tUp false = true ∧ (rotAt tUp false).phase = .bist) ∧
    (let s := { tRot { Rotation.reset 24 0 with phase := .halted, tiles := [(0, { (tileAt false (rotAt tUp false) 0) with mode := .suspect })] } with regs := [(0x100000, 14)] }
     (rotAt s false).phase = .halted ∧ (tileAt false (rotAt s false) (serverOf false (rotAt s false) 0)).mode = .suspect ∧ rbit s (kP 0x100000) 4 = false) := by
  decide +kernel

/-- ObjectRegisterAccess, ConnectionSet, ConnectionRequests, FieldRegisters: an entry of the unequipped generator for connection 0. -/
theorem witness_conn_ok : ConnOk (hostAgent tWho) 0 (5 * 2 ^ 14) tUp 0 0 :=
  ⟨by decide +kernel, by decide +kernel, by decide +kernel, by decide +kernel, by decide +kernel, by decide +kernel,
    ⟨by decide +kernel, by decide +kernel, by decide +kernel, by decide +kernel, by decide +kernel⟩⟩
/-- A proof of one byte on connection 0 at port 0, and its entry attached. -/
def tBody : Nat := 2 ^ 16 + 2 ^ 24 + 2 ^ 32
theorem witness_attach : AttachOk (hostAgent tWho) 0x200000 tBody tUp 0 0 0 :=
  ⟨by decide +kernel, by decide +kernel, by decide +kernel, by decide +kernel, by decide +kernel, by decide +kernel, by decide +kernel, by
    unfold LedgerTakes; decide +kernel⟩
def tAttached : State :=
  { tUp with prot := { tUp.prot with expects := [(0, some ⟨bodyOf tBody, 0, 0, .armed, 0, 0, 0, 0, 0, 0⟩)] } }
theorem witness_detach : DetachOk (hostAgent tWho) 0x200000 0 tAttached 0 0 :=
  ⟨by decide +kernel, by decide +kernel, by decide +kernel, by decide +kernel, by unfold LedgerTakes; decide +kernel⟩
theorem witness_override : connOfAddr 0x200000 = some 0 ∧ connExpects tAttached 0 ≠ [] ∧ mirrorRefused tAttached = false ∧ LedgerTakes tAttached := by
  unfold LedgerTakes; decide +kernel
/-- A forced switch of an enabled group, and a condition command of a group whose conditions are commanded. -/
theorem witness_command_ok : CommandOk (tProt .reset) (.msp 0) 2 ∧ CommandOk (tProt .reset) (.msp 0) 0 :=
  ⟨⟨by decide +kernel, by decide +kernel, by decide +kernel, by decide +kernel, by unfold LedgerTakes; decide +kernel⟩,
    ⟨by decide +kernel, by decide +kernel, by decide +kernel, by decide +kernel, by unfold LedgerTakes; decide +kernel⟩⟩
/-- A job without trigger or lantern for camera 0, from the earliest position on. -/
def tJobBody : Nat := 2 ^ 26 + 2 ^ 40 + 1000 * 2 ^ 128 + 2 ^ 192
def tScanOn : State := { tUp with regs := [(0x410000, 1), (0x500000, 1)] }
theorem witness_scan_ok : ScanOk 0 tJobBody tScanOn (earliest tScanOn * 19440) false ∧
    (jobAt (tJobs [tJob] []) 5 = some tJob ∧ tJob.seat = 0 ∧ tJob.busy = false ∧ tJob.tries = 0) :=
  ⟨⟨by decide +kernel, by decide +kernel, by decide +kernel, by decide +kernel, by decide +kernel, late_onTime (by decide +kernel) (by decide +kernel),
    by decide +kernel⟩, by decide +kernel⟩
/-- A broadcast frame without payload, from now on. -/
theorem witness_radio_ok : RadioOk 0 (8 + 1000 * 2 ^ 96) (tRadio .reset) [] 0 ∧
    (frameAt (tRadio { RadioState.reset with frames := [tFrame] }) 3 = some tFrame ∧ tFrame.seat = 0 ∧ ({ tFrame with txPos := none } : RadioFrame).txPos = none) ∧
    ((nbrAt (tNbrs { tNbr with state := .dropped }) 511).state = .dropped ∧ LedgerTakes (tNbrs { tNbr with state := .dropped })) :=
  ⟨⟨by decide +kernel, by decide +kernel, by decide +kernel, by decide +kernel, by decide +kernel, by decide +kernel, by decide +kernel, by decide +kernel⟩,
    by decide +kernel, by unfold LedgerTakes; decide +kernel⟩
/-- BlockCommands: a synchronized mate to release to, a silent one to take over, a part that is out; a job for an I²C master; the latch to clear. -/
theorem witness_block_completes :
    (let s := tMate { MateState.reset with rein := .holder, peer := some { tHb with rein := 3, sync := 2 } }
     releaseOk s = true ∧ s.mate.relDue = none ∧ LedgerTakes s) ∧
    (let s := { tUp with lt := { tUp.lt with countOk := true }, mate := { tUp.mate with rein := .standby } }
     s.mate.rein = .standby ∧ bothSilent s = true ∧ s.lt.countOk = true ∧ LedgerTakes s) ∧
    (tMate { MateState.reset with rein := .out }).mate.rein = .out ∧
    (jobOk (2 ^ 32) = true ∧ bit (2 ^ 32) 11 = false ∧ (i2cAt tUp 0).queue.length < 16) ∧
    (let l : FaultLatch := ⟨1, 0, 0, false, false, 0, 0, 0, 0, false, false, true, true⟩
     let s := { tUp with flt := { tUp.flt with latch := some l } }
     s.flt.latch = some l ∧ l.source = bits 1 0 9 ∧ LedgerTakes s) := by unfold LedgerTakes; decide +kernel
theorem witness_out_quiet : LedgerQuiet (tMate { MateState.reset with rein := .out }) 2 :=
  ⟨by decide +kernel, by decide +kernel, by decide +kernel, by decide +kernel, by decide +kernel⟩
/-- CommitScanRadioRequests, DmaRequests: the start of a descriptor of data memory. -/
theorem witness_dma_start : dataCheck tRun 1 true 4 0x40 32 = none ∧ (chanAt tRun 0).mode = .idle ∧ descReach tRun (chanSeat tRun 0) 0x40 = true := by decide +kernel

/-- A host's writes of `k` words from an offset on reach the words of one wide register (`ReachesWide`), by Seat 0. -/
def reachesWide (s : State) (off k : Nat) (nm : RegName) : Bool :=
  match regAt s 0 0 off true with
  | .reg r0 => (List.range k).all (fun j => match regAt s 0 0 (off + 4 * j) true with
      | .reg r => r.key == r0.key && r.desc.name == nm && r.word == j && mayWrite 0 r && !isObjOff (off + 4 * j) && !isMemOff (off + 4 * j)
      | _ => false) && (r0.desc.bytes + 3) / 4 == k && decide (1 < k) && multiWord r0.desc && !readOnly r0.desc && alive s && seatEnabled s 0
        && s.led.keyWords.isEmpty && (pathAt s 0).held.isNone
  | _ => false
theorem witness_wide : (reachesWide tUp 0x1048 2 .ltFrameLoad && reachesWide tUp 0x700800 2 .monTherm && reachesWide tUp 0x604000 8 .radioNbr
    && reachesWide tUp (0x604000 + 32 * 511) 8 .radioNbr && reachesWide tUp 0x600100 4 .radioKey && reachesWide tUp 0x6001F0 4 .radioKey) = true := by decide +kernel
/-- A part of which the ledger takes what it is given whatever the paths hold. -/
theorem witness_wide_takes : ∀ h, SameButPaths tUp h → LedgerTakes h ∧ LedgerQuiet h 3 ∧ nbrOk h 511 (2 ^ 80) = true := by
  rintro h ⟨p, e⟩
  have q : LedgerQuiet tUp 16 := ⟨by decide +kernel, by decide +kernel, by decide +kernel, by decide +kernel, by decide +kernel⟩
  have q3 : LedgerQuiet tUp 3 := ⟨by decide +kernel, by decide +kernel, by decide +kernel, by decide +kernel, by decide +kernel⟩
  have n : nbrOk tUp 511 (2 ^ 80) = true := by decide +kernel
  have el : h.led = tUp.led := by rw [e]
  have er : h.radio = tUp.radio := by rw [e]
  refine ⟨(q.of_led el).takes, q3.of_led el, ?_⟩
  rw [← n]; simp only [nbrOk, nbrAt, er]
/-- A part that seeks its count from the host. -/
def tLoad : State := { tUp with regs := [(0x1004, 1)], lt := { tUp.lt with mode := .acquire } }
theorem witness_wide_accepts : (∀ h, SameButPaths tUp h → ConnOk (hostAgent tWho) 0 (5 * 2 ^ 14) h 0 0) ∧
    (∃ r, regAt tLoad 0 0 0x104C true = .reg r ∧ ∀ h, SameButPaths tLoad h → Accepts (hostAgent tWho) r 64 h) ∧
    ∃ r, regAt tUp 0 0 0x700804 true = .reg r ∧ ∀ h, SameButPaths tUp h → Accepts (hostAgent tWho) r 0x0820073006C00640 h := by
  have q : LedgerQuiet tLoad 16 := ⟨by decide +kernel, by decide +kernel, by decide +kernel, by decide +kernel, by decide +kernel⟩
  obtain ⟨r, hr, ar⟩ := accepts_reg (s := tLoad) (off := 0x104C) (x := 64) (by decide +kernel) q.takes
  obtain ⟨k, hk, ak⟩ := accepts_reg (s := tUp) (off := 0x700804) (x := 0x0820073006C00640) (by decide +kernel) witness_ledger_takes.1
  exact ⟨fun _ e => witness_conn_ok.paths e, ⟨r, hr, fun h e => ar.paths (q.of_led (by obtain ⟨p, rfl⟩ := e; rfl)).takes e⟩,
    k, hk, fun h e => ak.paths (witness_wide_takes h e).1 e⟩
end Sys2Proof.Tests
end

section
/-!
PROOFS. What every command keeps. Each meaning of `exec` is composed of the operations of its block, and the laws of Laws/Keeps say of each
operation what it keeps. So a proof goes down the branches of the meaning and cites, for the operation that stands there, its law; what is left
is that the parts it writes are among `Instr.touches`. The commands are taken block by block; a law applies to its own operation alone
(`with_reducible`).
-/
namespace Sys2Proof

/-- The blocks whose rules commands follow: how the case analysis over the command set is divided. -/
inductive CommandBlock where
  | lineTime | power | ledger | arithmetic | memory | request | control | dma | line | fabric | mate | lane | camera | scan | radio | fault
  | hostWrite | hostPort

/-- The block of a command. -/
def Instr.block : Instr → CommandBlock
  | .timingInputEdge .. | .timingInputMiss .. | .refclkLoss | .refclkReturn | .calendarIssue .. | .frameBoundary => .lineTime
  | .domainWakeTimeout .. | .domainGate .. | .domainWakeDone .. | .framedEntry | .stageTimeout | .pwrGoodRise .. | .pwrGoodFall | .railDetect |
    .powerLoss | .vstbChange .. | .resetNAssert | .safeEntry | .warmResetDisarm | .tapReset | .vioBankPowerChange .. => .power
  | .startRecord | .sealComplete | .gapAppend | .ledgerKeyTimeout | .spillBatchStart | .spillRetry | .spillFlushComplete | .spillFlushFail .. =>
    .ledger
  | .add .. | .adc .. | .sub .. | .sbc .. | .and .. | .or .. | .xor .. | .andn .. | .shl .. | .shr .. | .sar .. | .ror .. | .mul .. | .mulhu .. |
    .mulhs .. | .divu .. | .remu .. | .divs .. | .rems .. | .mins .. | .maxs .. | .minu .. | .maxu .. | .clz .. | .popc .. | .bswap .. | .cmp .. |
    .tst .. | .csel .. | .addi .. | .cmpi .. | .andi .. | .ori .. | .xori .. | .shli .. | .shri .. | .sari .. | .rori .. | .lui .. => .arithmetic
  | .ldW .. | .ldHu .. | .ldBu .. | .ldsH .. | .ldsB .. | .stW .. | .stH .. | .stB .. | .ldxW .. | .ldxHu .. | .ldxBu .. | .stxW .. | .stxH .. |
    .stxB .. | .old .. | .ost .. | .rld .. | .rst .. | .aadd .. | .aand .. | .aor .. | .axor .. | .aswp .. | .aminu .. | .amaxu .. | .cas .. =>
    .memory
  | .blkmov .. | .csetn .. | .cwr .. | .crd .. | .cdel .. | .cstate .. | .pxatt .. | .pxdet .. | .preq .. | .cmtGo .. | .cmtCancel .. | .sjob .. |
    .scancel .. | .rtx .. | .rrx .. | .dstart .. | .dstat .. | .dstop .. => .request
  | .wlt .. | .wltWake .. | .wbnd .. | .wev .. | .wevTimeout .. | .sig .. | .clrev .. | .hev .. | .yield .. | .stop .. | .spawn .. | .trap .. |
    .fence .. | .mfs .. | .mts .. | .getf .. | .setf .. | .bCond .. | .blCond .. | .jr .. | .jlr .. | .stallEnd .. | .timeSliceEnd .. => .control
  | .dmaBurstGrant .. | .dmaBurstComplete .. | .dmaHostCompletionFault .. => .dma
  | .lineFrameReceive .. | .losDeclare .. | .sdWindowEnd .. | .ptrBeyondClear .. | .lineTxmonFail .. | .lineTxmonClear .. | .gfpFrameReceive .. |
    .lineFrameTransmit .. | .gfpFrameTransmit .. => .line
  | .holdoffExpiry .. | .wtrExpiry .. | .exerciseEnd .. | .fopDeclare .. | .tileLoadComplete .. | .tileCompareMismatch .. | .tileBistPassEnd .. |
    .tileDatapathFault .. => .fabric
  | .matePulseEdge | .pulsePathSilent | .msgPathSilent | .heartbeatReceive .. | .listenWindowEnd | .releaseReceive .. | .leaseExpiryTake |
    .releaseTimeout | .deltaQueueRoom | .epochOpenReceive .. | .deltaReceive .. | .epochTrailerReceive .. | .snapReqReceive .. |
    .snapBeginReceive .. | .snapEndReceive .. | .snapshotTimeout => .mate
  | .dunteFrameReceive .. | .dunteCodeLock .. | .dunteLos .. | .trainTimeout .. | .laneWindowEnd .. | .laneTxmonFail .. | .dunteFrameTransmit ..
    => .lane
  | .csi2PacketReceive .. | .frameStart .. | .frameEnd .. | .pixelLine .. | .embeddedData .. | .frameTimeout .. | .linkIdleTimeout .. |
    .scanPlaneComplete .. | .deskewBurst .. | .i2cJobStart .. | .i2cJobComplete .. | .i2cStretchTimeout .. | .triggerPulseStart .. |
    .triggerPulseEnd .. => .camera
  | .strobeOn .. | .strobeOff .. | .scanCommit .. | .scanNoFrame .. | .finderComplete .. | .decodeComplete .. | .scanResultRecord .. |
    .scanDeadline .. | .scanOfflineBistBegin | .scanOfflineBistEnd .. | .decodeBistStart .. | .decodeBistEnd .. => .scan
  | .transmitAttempt .. | .ccaComplete .. | .transmissionEnd | .ackTimeout .. | .radioFrameDeadline .. | .identRetry .. | .radioPortFault |
    .radioBistPassEnd .. | .radioOfflineBistEnd | .radioFrameReceive .. | .pollWindowDecision .. | .pollWindowMiss .. | .tagDrop .. |
    .floodRebroadcastEligible | .seenEntryExpiry => .radio
  | .adcConversion .. | .faultRaise .. | .faultSweep .. | .handlingWindowEnd | .aliveReadback | .emitterReadbackMismatch .. => .fault
  | .hostRegisterWrite .. | .hostBindWrite .. | .hostErrClr .. | .ltFrameLoadWrite .. | .clrEvents .. | .calendarAdd .. | .calendarRemove .. |
    .commitGo .. | .commitCancel .. | .release .. | .advance .. | .warmResetArm .. | .warmResetFire .. | .ledgerKeyWrite .. |
    .ledgerSpillConsWrite .. | .ledgerSpillCtlWrite .. | .stCtlWrite .. | .stStart .. | .stRetry .. | .stSkip .. | .stAbort .. | .stCtxWrite .. |
    .stEventSet .. | .dmaStart .. | .dmaStop .. | .lpCntClr .. | .connEntryWrite .. | .rotEnWrite .. | .retest .. | .swapSuspect .. | .stepNow ..
    | .clear .. | .lockout .. | .forceP .. | .forceW .. | .manualP .. | .manualW .. | .exercise .. | .condSfW .. | .condSdW .. | .condClrW .. |
    .condSfP .. | .condSdP .. | .condClrP .. | .pxAttach .. | .pxDetach .. | .overrideSet .. | .overrideClear .. | .mateRelease .. | .mateTake ..
    | .mateResync .. | .mateEnWrite .. | .crCfgWrite .. | .camBindWrite .. | .camCfgWrite .. | .i2cSubmit .. | .i2cFlush .. | .scanSubmit .. |
    .scanCancel .. | .scanDisable .. | .scanBistStart .. | .radioEnable .. | .radioDisable .. | .radioSubmit .. | .radioCancel .. | .radioAdmit ..
    | .radioNbrWrite .. | .radioKeyWrite .. | .radioFcOutWrite .. | .radioBistStart .. | .monStep .. | .monCfgWrite .. | .monThermWrite .. |
    .shedForceWrite .. | .fcFirstClr .. | .injectOnce .. | .injectContinuous .. | .injectPair .. | .injectStop .. | .bookTokensWrite .. |
    .bookCntClr .. => .hostWrite
  | .snapshotRead .. | .hostMemoryWrite .. | .pcieRequest .. | .pcieLinkUp .. | .pcieLinkDown | .perstN .. | .flr .. | .flrComplete .. |
    .legacyBusAccess .. | .spiWrite .. | .spiRead .. | .hostBindApply | .i2cWrite .. | .i2cRead .. | .i2cWindowReady => .hostPort

end Sys2Proof

namespace Sys2Proof.Machine

open Sys2Proof

theorem Fld.mem_every (f : Fld) : f ∈ Fld.every := by cases f <;> decide

/-- Every part of the state but one. -/
def Fld.allBut (x : Fld) : List Fld := Fld.every.filter (fun f => f ∉ [x])

theorem Fld.mem_allBut {x f : Fld} (h : f ≠ x) : f ∈ Fld.allBut x := by
  simpa [Fld.allBut] using ⟨f.mem_every, h⟩

/-- Commands of Line Time: edges, misses, REFCLK155, boundaries and calendar issues. -/
theorem keeps_exec_lineTime {c : Instr} (h : c.block = .lineTime) (s : State) : KeepsR c.touches s (exec c s) := by
  cases c with
  | timingInputEdge =>
    apply KeepsR.ite
    with_reducible repeat' first
      | exact List.mem_of_elem_eq_true rfl | exact Keeps.refl _ _ | exact KeepsR.fault | apply KeepsR.next | apply keeps_timingEdge | split
      | intro _ | exact phase_clip (by assumption) | exact Or.inr (NotBefore.of rfl (Nat.le_max_left _ _)) | apply Keeps.upd
      | exact Or.inr rfl | exact Or.inl (List.mem_of_elem_eq_true rfl)
  | timingInputMiss =>
    show KeepsR _ s (execTimingInputMiss _ s)
    unfold execTimingInputMiss
    with_reducible repeat' first
      | exact List.mem_of_elem_eq_true rfl | exact Keeps.refl _ _ | apply KeepsR.next | apply keeps_timingMiss | split
  | refclkLoss =>
    apply KeepsR.ite
    with_reducible repeat' first
      | assumption | exact List.mem_of_elem_eq_true rfl | exact Keeps.refl _ _ | apply KeepsR.next | apply keeps_setRef
      | apply keeps_setLtMode | intro _ | apply Keeps.upd | exact Or.inr rfl | exact Or.inr ⟨rfl, rfl⟩
      | exact Or.inr (NotBefore.same rfl rfl) | exact Or.inl (List.mem_of_elem_eq_true rfl)
  | refclkReturn =>
    apply KeepsR.ite
    with_reducible repeat' first
      | assumption | exact List.mem_of_elem_eq_true rfl | exact Keeps.refl _ _ | apply KeepsR.next | apply keeps_setLtMode | intro _
      | apply Keeps.upd | exact Or.inr rfl | exact Or.inr ⟨rfl, rfl⟩ | exact Or.inr (NotBefore.same rfl rfl)
      | exact Or.inl (List.mem_of_elem_eq_true rfl)
  | calendarIssue =>
    apply KeepsR.next
    with_reducible repeat' first
      | exact List.mem_of_elem_eq_true rfl | exact Keeps.refl _ _ | apply keeps_calIssue | apply keeps_advanceTo | dsimp only | split
  | frameBoundary =>
    apply KeepsR.next
    with_reducible repeat' first
      | exact List.mem_of_elem_eq_true rfl | exact Keeps.refl _ _ | apply keeps_radioCycle | apply keeps_rotBoundary
      | apply keeps_boundarySteps | apply keeps_decideCopies | apply keeps_protEvaluate | apply keeps_statusStep | apply keeps_cycleStep
      | apply keeps_monSettleAll | apply keeps_lanesShift | apply keeps_linesShift | apply keeps_startFrame | dsimp only | split
  | _ => contradiction

/-- Supplies, resets, stages and switched domains. -/
theorem keeps_exec_power {c : Instr} (h : c.block = .power) (s : State) : KeepsR c.touches s (exec c s) := by
  cases c with
  | domainWakeTimeout | domainGate =>
    apply KeepsR.ite
    with_reducible repeat' first
      | exact List.mem_of_elem_eq_true rfl | exact Keeps.refl _ _ | exact KeepsR.fault | apply KeepsR.next | apply keeps_faultRaise
      | apply keeps_domUpdate | apply keeps_setDoms | split
  | domainWakeDone =>
    show KeepsR _ s (execDomainWakeDone _ s)
    unfold execDomainWakeDone
    with_reducible repeat' first
      | exact List.mem_of_elem_eq_true rfl | exact Keeps.refl _ _ | exact KeepsR.fault | apply KeepsR.next | apply keeps_clusterAwake
      | apply keeps_domUpdate | apply keeps_setDoms | split
  | pwrGoodRise =>
    show KeepsR Fld.every s _
    apply KeepsR.next
    with_reducible repeat' first
      | assumption | exact Fld.mem_every _ | exact Keeps.refl _ _ | apply keeps_clearAll (fun f _ => Fld.mem_every f) | apply keeps_takeFree
      | intro _ | dsimp only | split | apply Keeps.upd | exact Or.inl (Fld.mem_every _)
  | pwrGoodFall | railDetect | powerLoss | resetNAssert =>
    show KeepsR (Fld.allBut .freeCtr) s _
    apply KeepsR.next
    with_reducible repeat' first
      | assumption | exact Fld.mem_allBut (by decide) | exact Keeps.refl _ _ | apply keeps_goDark (fun _ => Fld.mem_allBut)
      | apply keeps_clearAll (fun _ => Fld.mem_allBut) | apply keeps_retentionCheck | intro _ | split | apply Keeps.upd
      | exact Or.inl (Fld.mem_allBut (by decide))
  | vstbChange | safeEntry | framedEntry | stageTimeout | warmResetDisarm | tapReset | vioBankPowerChange =>
    apply KeepsR.next
    with_reducible repeat' first
      | assumption | exact List.mem_of_elem_eq_true rfl | exact Keeps.refl _ _ | apply keeps_retentionCheck | apply keeps_faultRaiseAll
      | apply keeps_enterSafe | apply keeps_enterStage | apply keeps_faultRaise | apply keeps_bankLost | intro _ | split | apply Keeps.upd
      | exact Or.inr rfl | exact Or.inr ⟨rfl, rfl⟩ | exact Or.inr (NotBefore.same rfl rfl) | exact Or.inl (List.mem_of_elem_eq_true rfl)
  | _ => contradiction

/-- The ledger and its spill (R125 to R142). -/
theorem keeps_exec_ledger {c : Instr} (h : c.block = .ledger) (s : State) : KeepsR c.touches s (exec c s) := by
  cases c with
  | startRecord | sealComplete | gapAppend | ledgerKeyTimeout | spillBatchStart | spillRetry | spillFlushComplete | spillFlushFail =>
    apply KeepsR.next
    with_reducible repeat' first
      | assumption | exact List.mem_of_elem_eq_true rfl | exact Keeps.refl _ _ | apply keeps_reportLoss | apply keeps_ledgerDrain
      | apply keeps_sealDone | apply keeps_startBatch | apply keeps_releaseTo | apply keeps_spillRecord | apply keeps_spillFail | intro _
      | split | apply Keeps.upd | exact Or.inr rfl | exact Or.inr ⟨rfl, rfl⟩ | exact Or.inr (NotBefore.same rfl rfl)
      | exact Or.inl (List.mem_of_elem_eq_true rfl)
  | _ => contradiction

/-- Celec arithmetic and logic. -/
theorem keeps_exec_arithmetic {c : Instr} (h : c.block = .arithmetic) (s : State) : KeepsR c.touches s (exec c s) := by
  cases c with
  | add | adc | sub | sbc | and | or | xor | andn | shl | shr | sar | ror | mul | mulhu | mulhs | divu | remu | divs | rems | mins | maxs | minu |
    maxu | clz | popc | bswap | cmp | tst | csel =>
    unfold exec; dsimp only
    apply keeps_aluA <;> first | exact List.mem_of_elem_eq_true rfl | exact Keeps.refl _ _
  | addi | cmpi | andi | ori | xori | shli | shri | sari | rori | lui =>
    unfold exec; dsimp only
    apply keeps_aluI <;> first | exact List.mem_of_elem_eq_true rfl | exact Keeps.refl _ _
  | _ => contradiction

/-- Celec loads, stores, atomics, and object and register accesses. -/
theorem keeps_exec_memory {c : Instr} (h : c.block = .memory) (s : State) : KeepsR c.touches s (exec c s) := by
  cases c with
  | ldW | ldHu | ldBu | ldsH | ldsB =>
    unfold exec; dsimp only
    apply keeps_dataLoad <;> first | exact List.mem_of_elem_eq_true rfl | exact Keeps.refl _ _
  | stW | stH | stB =>
    unfold exec; dsimp only
    apply keeps_dataStoreOp <;> first | exact List.mem_of_elem_eq_true rfl | exact Keeps.refl _ _
  | ldxW | ldxHu | ldxBu =>
    unfold exec; dsimp only
    apply keeps_scratchLoad <;> first | exact List.mem_of_elem_eq_true rfl | exact Keeps.refl _ _
  | stxW | stxH | stxB =>
    unfold exec; dsimp only
    apply keeps_scratchStore <;> first | exact List.mem_of_elem_eq_true rfl | exact Keeps.refl _ _
  | aadd | aand | aor | axor | aswp | aminu | amaxu | cas =>
    unfold exec; dsimp only
    apply keeps_atomic <;> first | exact List.mem_of_elem_eq_true rfl | exact Keeps.refl _ _
  | old | rld | ost =>
    unfold exec; dsimp only
    apply keeps_celec
    with_reducible repeat' first
      | assumption | exact List.mem_of_elem_eq_true rfl | exact Keeps.refl _ _ | apply keeps_checked | apply keeps_objRead
      | apply keeps_seatRead | apply keeps_objWrite | apply keeps_dropKeyLoad | apply keeps_answerCounted | apply keeps_stallFor
      | apply keeps_trapFail | intro _ | split | refine Keeps.snd_of (by assumption) ?_
  | rst =>
    show KeepsR Fld.every s _
    unfold exec; dsimp only
    apply keeps_celec
    with_reducible repeat' first
      | assumption | exact Keeps.refl _ _ | exact Fld.mem_every _ | apply keeps_checked | apply keeps_seatWrite | apply keeps_answerCounted
      | intro _
  | _ => contradiction

/-- Celec block operations and requests. -/
theorem keeps_exec_request {c : Instr} (h : c.block = .request) (s : State) : KeepsR c.touches s (exec c s) := by
  cases c with
  | blkmov | csetn =>
    unfold exec; dsimp only
    apply keeps_celec
    with_reducible repeat' first
      | assumption | exact List.mem_of_elem_eq_true rfl | exact Keeps.refl _ _ | apply keeps_checked | apply keeps_runUnits
      | apply keeps_blkUnit | apply keeps_csetUnit | apply keeps_afterUnits | apply keeps_endBlock | apply keeps_touch
      | apply keeps_trapStrand | apply keeps_retire | apply keeps_setProg | apply keeps_countOutcome | intro _ | dsimp only | split
  | cwr | crd | cdel | cstate | pxatt | pxdet | preq =>
    unfold exec; dsimp only
    apply keeps_celec
    with_reducible repeat' first
      | assumption | exact List.mem_of_elem_eq_true rfl | exact Keeps.refl _ _ | apply keeps_checked | apply keeps_stageConn
      | apply keeps_stageAttach | apply keeps_stageDetach | apply keeps_commandAt | apply keeps_cmdEnd | apply keeps_reqTouch
      | apply keeps_answerCounted | apply keeps_dataPut | intro _ | dsimp only | split
  | cmtGo | cmtCancel | sjob | scancel | dstart | dstat | dstop =>
    unfold exec; dsimp only
    apply keeps_celec
    with_reducible repeat' first
      | assumption | exact List.mem_of_elem_eq_true rfl | exact Keeps.refl _ _ | apply keeps_checked | apply keeps_goGroup
      | apply keeps_cancelGroup | apply keeps_scanSubmit | apply keeps_scanCancel | apply keeps_dmaStart | apply keeps_dmaStop
      | apply keeps_answerCounted | apply keeps_answer | apply keeps_stallFor | apply keeps_countOutcome | intro _ | split
  | rtx | rrx =>
    unfold exec; dsimp only
    apply keeps_celec
    with_reducible repeat' first
      | assumption | exact List.mem_of_elem_eq_true rfl | exact Keeps.refl _ _ | apply keeps_checked | apply keeps_radioSubmit
      | apply keeps_takeFree | apply keeps_stallFor | apply keeps_answerCounted | apply keeps_dataPut | intro _ | split
      | refine Keeps.snd3_of (by assumption) ?_ | apply Keeps.upd | exact Or.inr rfl | exact Or.inr ⟨rfl, rfl⟩
      | exact Or.inr (NotBefore.same rfl rfl) | exact Or.inl (List.mem_of_elem_eq_true rfl)
  | _ => contradiction

/-- Celec control, waits and events, and the ends of waits, stalls and slices. -/
theorem keeps_exec_control {c : Instr} (h : c.block = .control) (s : State) : KeepsR c.touches s (exec c s) := by
  cases c with
  | bCond | blCond =>
    unfold exec; dsimp only
    apply keeps_branch <;> first | exact List.mem_of_elem_eq_true rfl | exact Keeps.refl _ _
  | jr | jlr =>
    unfold exec; dsimp only
    apply keeps_jumpReg <;> first | exact List.mem_of_elem_eq_true rfl | exact Keeps.refl _ _
  | wlt | wbnd | wev | sig | clrev | hev | yield | stop | spawn | trap | fence | mfs | mts | getf | setf =>
    unfold exec; dsimp only
    apply keeps_celec
    with_reducible repeat' first
      | assumption | exact List.mem_of_elem_eq_true rfl | exact Keeps.refl _ _ | apply keeps_retire | apply keeps_waitFor
      | apply keeps_illegal | apply keeps_setEventFlags | apply keeps_setEvent | apply keeps_setCause | apply keeps_park
      | apply keeps_enterIdle | apply keeps_modStrand | apply keeps_startStrand | apply keeps_answerCounted | apply keeps_trapStrand
      | apply keeps_stallFor | intro _ | dsimp only | split
  | wltWake | wevTimeout | stallEnd | timeSliceEnd =>
    apply KeepsR.next
    with_reducible repeat' first
      | exact List.mem_of_elem_eq_true rfl | exact Keeps.refl _ _ | apply keeps_advanceTo | apply keeps_wakeLt | apply keeps_makeRunnable
      | apply keeps_strandCleared | apply keeps_abortNow | apply keeps_reschedule | apply keeps_modStrand | dsimp only | split
  | _ => contradiction

/-- DMA bursts. -/
theorem keeps_exec_dma {c : Instr} (h : c.block = .dma) (s : State) : KeepsR c.touches s (exec c s) := by
  cases c with
  | dmaBurstGrant =>
    apply KeepsR.next
    with_reducible repeat' first
      | exact List.mem_of_elem_eq_true rfl | exact Keeps.refl _ _ | apply keeps_burstGrant | split
  | dmaBurstComplete =>
    show KeepsR _ s (execDmaBurstComplete _ _ s)
    unfold execDmaBurstComplete
    with_reducible repeat' first
      | exact List.mem_of_elem_eq_true rfl | exact Keeps.refl _ _ | apply KeepsR.next | refine KeepsO.of (by assumption) ?_
      | apply keeps_burstFail | apply keeps_burstDone | apply keeps_burstPut | apply keeps_blockTake | apply keeps_faultRaise
      | apply keeps_setMover | dsimp only | split
  | dmaHostCompletionFault =>
    show KeepsR _ s (execDmaHostCompletionFault _ s _)
    unfold execDmaHostCompletionFault
    with_reducible repeat' first
      | exact List.mem_of_elem_eq_true rfl | exact Keeps.refl _ _ | apply KeepsR.next | apply keeps_burstFail | apply keeps_setMover
      | apply keeps_aerSet | split
  | _ => contradiction

/-- Line ports and GFP. -/
theorem keeps_exec_line {c : Instr} (h : c.block = .line) (s : State) : KeepsR c.touches s (exec c s) := by
  cases c with
  | lineFrameReceive | losDeclare | sdWindowEnd | ptrBeyondClear | lineTxmonFail | lineTxmonClear | gfpFrameReceive | lineFrameTransmit |
    gfpFrameTransmit =>
    apply KeepsR.next
    with_reducible repeat' first
      | exact List.mem_of_elem_eq_true rfl | exact Keeps.refl _ _ | apply keeps_lineReceive | apply keeps_lineTransmit | apply keeps_modPort
      | apply keeps_setPort | apply keeps_setGfp | apply keeps_txFaultAtTake | apply keeps_faultRaise | dsimp only | split
  | _ => contradiction

/-- Protection timers and tiles. -/
theorem keeps_exec_fabric {c : Instr} (h : c.block = .fabric) (s : State) : KeepsR c.touches s (exec c s) := by
  cases c with
  | holdoffExpiry | wtrExpiry | exerciseEnd | fopDeclare | tileLoadComplete | tileCompareMismatch =>
    apply KeepsR.next
    with_reducible repeat' first
      | exact List.mem_of_elem_eq_true rfl | exact Keeps.refl _ _ | apply keeps_setCtl | apply keeps_mirrorItem | apply keeps_protRecord
      | apply keeps_protEvent | apply keeps_faultRaise | apply keeps_setCause | apply keeps_fabCause | apply keeps_tileRecord
      | apply keeps_setRot | apply keeps_modRot | apply keeps_rotHalt | dsimp only | split
  | tileBistPassEnd | tileDatapathFault =>
    apply KeepsR.ite
    with_reducible repeat' first
      | exact List.mem_of_elem_eq_true rfl | exact Keeps.refl _ _ | exact KeepsR.fault | apply KeepsR.next | apply keeps_faultRaise
      | apply keeps_tileFail | apply keeps_setRot | apply keeps_modRot | split
  | _ => contradiction

/-- The mate link. -/
theorem keeps_exec_mate {c : Instr} (h : c.block = .mate) (s : State) : KeepsR c.touches s (exec c s) := by
  cases c with
  | matePulseEdge | pulsePathSilent | msgPathSilent | heartbeatReceive | listenWindowEnd | releaseReceive | leaseExpiryTake | releaseTimeout |
    deltaQueueRoom | epochOpenReceive | deltaReceive | epochTrailerReceive | snapReqReceive | snapBeginReceive | snapEndReceive | snapshotTimeout
    =>
    apply KeepsR.next
    with_reducible repeat' first
      | exact List.mem_of_elem_eq_true rfl | exact Keeps.refl _ _ | apply keeps_modMate | apply keeps_faultRaise | apply keeps_mateCause0
      | apply keeps_mateCauseAll | apply keeps_hbRein | apply keeps_hbCount | apply keeps_hbAdopt | apply keeps_hbRev
      | apply keeps_queueWaiting | apply keeps_syncLost | apply keeps_domUpdate | apply keeps_snapChunk | apply keeps_epochDelta
      | apply keeps_applyVerified | apply keeps_clearMirror | apply keeps_sendSnapReq | dsimp only | split
  | _ => contradiction

/-- Dunte lanes. -/
theorem keeps_exec_lane {c : Instr} (h : c.block = .lane) (s : State) : KeepsR c.touches s (exec c s) := by
  cases c with
  | dunteFrameReceive | dunteCodeLock | dunteLos | trainTimeout | laneWindowEnd | laneTxmonFail | dunteFrameTransmit =>
    apply KeepsR.next
    with_reducible repeat' first
      | exact List.mem_of_elem_eq_true rfl | exact Keeps.refl _ _ | apply keeps_laneReceive | apply keeps_modLane | apply keeps_setLane
      | apply keeps_laneDrop | apply keeps_bpCause | apply keeps_txFaultAtTake | apply keeps_faultRaise | apply keeps_laneSend
      | apply keeps_composeStream | split
  | _ => contradiction

/-- Cameras, I2C and triggers. -/
theorem keeps_exec_camera {c : Instr} (h : c.block = .camera) (s : State) : KeepsR c.touches s (exec c s) := by
  cases c with
  | frameStart | frameEnd | pixelLine | embeddedData =>
    unfold exec; dsimp only
    apply keeps_goodPacket <;> first | exact List.mem_of_elem_eq_true rfl | exact Keeps.refl _ _
  | csi2PacketReceive =>
    show KeepsR _ s (execCsi2PacketReceive _ _ s)
    unfold execCsi2PacketReceive
    with_reducible repeat' first
      | assumption | exact List.mem_of_elem_eq_true rfl | exact Keeps.refl _ _ | apply KeepsR.next | apply keeps_rxBurst
      | apply keeps_rxPacket | apply keeps_rxCount | apply keeps_camFlag | apply Keeps.foldUpto | intro _ | split
  | frameTimeout | linkIdleTimeout | scanPlaneComplete | deskewBurst | i2cJobStart | i2cJobComplete | i2cStretchTimeout | triggerPulseStart |
    triggerPulseEnd =>
    apply KeepsR.next
    with_reducible repeat' first
      | assumption | exact List.mem_of_elem_eq_true rfl | exact Keeps.refl _ _ | apply keeps_camClose | apply keeps_modRx
      | apply keeps_modCam | apply keeps_modI2c | apply keeps_i2cEnd | apply keeps_advanceTo | apply keeps_modTrig | apply Keeps.foldUpto
      | intro _ | split
  | _ => contradiction

/-- The scan engine. -/
theorem keeps_exec_scan {c : Instr} (h : c.block = .scan) (s : State) : KeepsR c.touches s (exec c s) := by
  cases c with
  | decodeBistStart | decodeBistEnd =>
    apply KeepsR.ite
    with_reducible repeat' first
      | exact List.mem_of_elem_eq_true rfl | exact Keeps.refl _ _ | exact KeepsR.fault | apply KeepsR.next | apply keeps_unitFails
      | apply keeps_setUnit | split
  | strobeOn | strobeOff | scanCommit | scanNoFrame | finderComplete | decodeComplete | scanResultRecord | scanDeadline | scanOfflineBistBegin |
    scanOfflineBistEnd =>
    apply KeepsR.next
    with_reducible repeat' first
      | assumption | exact List.mem_of_elem_eq_true rfl | exact Keeps.refl _ _ | apply keeps_modScan | apply keeps_dropTokens
      | apply keeps_advanceTo | apply keeps_endUnexposed | apply keeps_commitAttempt | apply keeps_modJob | apply keeps_modAttempt
      | apply keeps_assignUnits | apply keeps_setUnit | apply keeps_unitFails | apply keeps_writeRecord | apply keeps_setCause
      | apply Keeps.foldUpto | intro _ | dsimp only | split
  | _ => contradiction

/-- The radio. -/
theorem keeps_exec_radio {c : Instr} (h : c.block = .radio) (s : State) : KeepsR c.touches s (exec c s) := by
  cases c with
  | transmitAttempt | ccaComplete | transmissionEnd | ackTimeout | radioFrameDeadline | identRetry | radioPortFault | radioBistPassEnd |
    radioOfflineBistEnd =>
    apply KeepsR.next
    with_reducible repeat' first
      | exact List.mem_of_elem_eq_true rfl | exact Keeps.refl _ _ | apply keeps_modRadio | apply keeps_modFrame | apply keeps_radioCount
      | apply keeps_rpSend | apply keeps_hwAttempt | apply keeps_calBeaconEnd | apply keeps_dropHwFrame | apply keeps_sendFlood
      | apply keeps_sendBeacon | apply keeps_accessFailed | apply keeps_sendFrame | apply keeps_endAir | apply keeps_radioRest
      | apply keeps_radioEnd | apply keeps_identReply | apply keeps_portFaultEnds | apply keeps_setCause | apply keeps_faultRaise
      | apply keeps_rpMode | dsimp only | split
  | radioFrameReceive | pollWindowDecision | pollWindowMiss | tagDrop | floodRebroadcastEligible | seenEntryExpiry =>
    apply KeepsR.next
    with_reducible repeat' first
      | exact List.mem_of_elem_eq_true rfl | exact Keeps.refl _ _ | apply keeps_modRadio | apply keeps_modNbr | apply keeps_radioCount
      | apply keeps_radioCause | apply keeps_rpSend | apply keeps_rxAck | apply keeps_rxSecured | apply keeps_immAck | apply keeps_advanceTo
      | apply keeps_endNbrFrames | apply keeps_ledgerHwSeat | dsimp only | split
  | _ => contradiction

/-- The monitor and the fault collector. -/
theorem keeps_exec_fault {c : Instr} (h : c.block = .fault) (s : State) : KeepsR c.touches s (exec c s) := by
  cases c with
  | adcConversion | faultRaise | faultSweep =>
    apply KeepsR.ite
    with_reducible repeat' first
      | exact List.mem_of_elem_eq_true rfl | exact Keeps.refl _ _ | exact KeepsR.fault | apply KeepsR.next | apply keeps_modMon
      | apply keeps_advanceTo | apply keeps_monCalibrate | apply keeps_monSample | apply keeps_upsetAt | apply keeps_pairFault
      | apply keeps_faultRaise | apply keeps_sweepOne | apply keeps_injectCheck | split
  | handlingWindowEnd | aliveReadback | emitterReadbackMismatch =>
    apply KeepsR.next
    with_reducible repeat' first
      | assumption | exact List.mem_of_elem_eq_true rfl | exact Keeps.refl _ _ | apply keeps_clearLatch | apply keeps_faultRaise
      | apply keeps_lanternPinFault | apply keeps_txEnPinFault | intro _ | split | apply Keeps.upd | exact Or.inr rfl
      | exact Or.inr ⟨rfl, rfl⟩ | exact Or.inr (NotBefore.same rfl rfl) | exact Or.inl (List.mem_of_elem_eq_true rfl)
  | _ => contradiction

/-- Register writes and command registers of a host. -/
theorem keeps_exec_hostWrite {c : Instr} (h : c.block = .hostWrite) (s : State) : KeepsR c.touches s (exec c s) := by
  cases c with
  | hostRegisterWrite | hostBindWrite | hostErrClr | clrEvents | calendarAdd | calendarRemove | commitGo | commitCancel | release | advance |
    warmResetArm | warmResetFire | ledgerKeyWrite | ledgerSpillConsWrite | ledgerSpillCtlWrite | stCtlWrite | stStart | stRetry | stSkip | stAbort
    | stCtxWrite | stEventSet | dmaStart | dmaStop | lpCntClr | rotEnWrite | retest | swapSuspect | stepNow | pxAttach | pxDetach | overrideSet |
    overrideClear | mateRelease | mateTake | mateResync | mateEnWrite | crCfgWrite | camBindWrite | camCfgWrite | i2cSubmit | i2cFlush |
    scanSubmit | scanCancel | scanDisable | scanBistStart | radioDisable | radioSubmit | radioCancel | radioAdmit | radioFcOutWrite |
    radioBistStart | monStep | monCfgWrite | shedForceWrite | fcFirstClr | injectOnce | injectContinuous | injectPair | injectStop |
    bookTokensWrite | bookCntClr =>
    exact keeps_rowWrite Fld.mem_every _ _ _ _ (Keeps.refl _ s)
  | ltFrameLoadWrite | radioNbrWrite | radioKeyWrite | monThermWrite =>
    exact keeps_rowWords Fld.mem_every _ _ _ _ _ (Keeps.refl _ s)
  | clear | lockout | forceP | forceW | manualP | manualW | exercise | condSfW | condSdW | condClrW | condSfP | condSdP | condClrP =>
    unfold exec; dsimp only
    apply keeps_rowCommand <;> first | exact List.mem_of_elem_eq_true rfl | exact Keeps.refl _ _
  | connEntryWrite =>
    show KeepsR Fld.every s _
    apply KeepsR.ite
    with_reducible repeat' first
      | exact Keeps.refl _ _ | exact Fld.mem_every | apply KeepsR.next | apply keeps_rowWords | split
  | radioEnable =>
    show KeepsR Fld.every s _
    apply KeepsR.next
    with_reducible repeat' first
      | exact Keeps.refl _ _ | exact Fld.mem_every _ | exact Fld.mem_every | apply keeps_rowDone | apply keeps_identReply | split
  | _ => contradiction

/-- The host ports. -/
theorem keeps_exec_hostPort {c : Instr} (h : c.block = .hostPort) (s : State) : KeepsR c.touches s (exec c s) := by
  cases c with
  | hostMemoryWrite | pcieRequest | legacyBusAccess | spiWrite =>
    show KeepsR Fld.every s _
    apply KeepsR.next
    with_reducible repeat' first
      | exact Keeps.refl _ _ | exact Fld.mem_every _ | exact Fld.mem_every | apply keeps_returned | apply keeps_hostReads
      | apply keeps_hostWriteBe | apply keeps_aerSet | apply keeps_discardCount | apply keeps_pcieWrites | apply keeps_modFn
      | apply keeps_setMsix | apply keeps_setVfs | apply keeps_lbEnd | apply keeps_lbRead | apply keeps_lbWrite | apply keeps_hostCause
      | apply keeps_modHost | apply keeps_spiFrameError | apply keeps_spiWords | split
  | snapshotRead | pcieLinkUp | pcieLinkDown | perstN | flr | flrComplete | spiRead | hostBindApply | i2cWrite | i2cRead | i2cWindowReady =>
    apply KeepsR.next
    with_reducible repeat' first
      | exact List.mem_of_elem_eq_true rfl | exact Keeps.refl _ _ | apply keeps_hostRead | apply keeps_hostReads | apply keeps_returned
      | apply keeps_msixFlush | apply keeps_modHost | apply keeps_faultRaise | apply keeps_aerSet | apply keeps_linkDown
      | apply keeps_setVfs | apply keeps_flrClear | apply keeps_modFn | apply keeps_spiFrameError | apply keeps_hostCause
      | apply Keeps.foldl | intro _ | split | refine Keeps.snd_of (by assumption) ?_
  | _ => contradiction

/-- Every command changes only the parts that `Instr.touches` names; it keeps a state sound and the queue, and free values are only taken. -/
theorem keeps_exec (c : Instr) (s : State) : KeepsR c.touches s (exec c s) := by
  cases h : c.block with
  | lineTime => exact keeps_exec_lineTime h s
  | power => exact keeps_exec_power h s
  | ledger => exact keeps_exec_ledger h s
  | arithmetic => exact keeps_exec_arithmetic h s
  | memory => exact keeps_exec_memory h s
  | request => exact keeps_exec_request h s
  | control => exact keeps_exec_control h s
  | dma => exact keeps_exec_dma h s
  | line => exact keeps_exec_line h s
  | fabric => exact keeps_exec_fabric h s
  | mate => exact keeps_exec_mate h s
  | lane => exact keeps_exec_lane h s
  | camera => exact keeps_exec_camera h s
  | scan => exact keeps_exec_scan h s
  | radio => exact keeps_exec_radio h s
  | fault => exact keeps_exec_fault h s
  | hostWrite => exact keeps_exec_hostWrite h s
  | hostPort => exact keeps_exec_hostPort h s

end Sys2Proof.Machine
end

section
/-!
PROOFS. A sound state: after reset, and under every step.
-/
namespace Sys2Proof.Machine

open Sys2Proof

/-- An idle step moves LT by one phase unit, up to the last phase of the frame in progress. -/
theorem Sound.idle {s : State} (h : Sound s) : Sound (idle s) := by
  unfold Machine.idle
  split
  · rename_i k
    simp only [Bool.and_eq_true, decide_eq_true_eq] at k
    have last : frameLast s < phasesPerFrame := Nat.lt_succ_of_le (Nat.min_le_left _ _)
    exact ⟨h.1, h.2.1, Nat.lt_of_le_of_lt k.2 last⟩
  · exact h

/-- Settles O2: the stores are empty after reset, and LT stands at 0.0. -/
theorem resetSound : Obligations.ResetSound :=
  ⟨⟨rfl, rfl, phase_zero⟩, rfl, rfl, rfl, rfl⟩

/-- Settles O3: an empty queue idles inside the frame, and every command keeps a state sound (`keeps_exec`). -/
theorem stepKeepsSound : Obligations.StepKeepsSound := by
  intro s t h e
  unfold step at e
  split at e
  · cases e
    exact h.idle
  · exact (keeps_exec _ _ t e).sound h

end Sys2Proof.Machine
end

section
/-!
PROOFS. Timing inputs (R27 to R30, R34, R36): what the operations of Line Time write, one equation each, and what an edge and a miss leave.
-/
namespace Sys2Proof.Machine

open Sys2Proof

@[simp] theorem faultRaise_lt (k : Nat) (s : State) : (faultRaise k s).lt = s.lt := by
  refine (keeps_faultRaise (W := [.pwr, .host, .led, .mate, .flt, .regs]) ?_ ?_ ?_ ?_ ?_ ?_ k s (.refl _ s)).frame .lt ?_ <;> decide

@[simp] theorem ltRecord_lt (ident old new : Nat) (s : State) : (ltRecord ident old new s).lt = s.lt := by
  refine (keeps_ltRecord (W := [.pwr, .host, .led, .mate, .flt, .regs]) ?_ ?_ ?_ ?_ ?_ ?_ ident old new s (.refl _ s)).frame .lt ?_ <;> decide

theorem setLtMode_lt (m : LtMode) (s : State) : (setLtMode m s).lt = if s.lt.mode = m then s.lt else
    { s.lt with mode := m, everLocked := s.lt.everLocked || m == .locked
                evHoldover := if m = .holdover then satAdd 255 s.lt.evHoldover 1 else s.lt.evHoldover } := by
  unfold setLtMode
  split
  · rfl
  · cases m <;> simp

theorem setRef_lt (r : Nat) (s : State) : (setRef r s).lt = if s.lt.ref = r then s.lt else
    { s.lt with ref := r, phaseOk := decide (r ≠ 3), realignDue := decide (r ≠ 3), slew := 0 } := by
  unfold setRef
  split
  · rfl
  · simp

@[simp] theorem setLtMode_mode (m : LtMode) (s : State) : (setLtMode m s).lt.mode = m := by
  rw [setLtMode_lt]
  split
  · assumption
  · rfl

@[simp] theorem setRef_ref (r : Nat) (s : State) : (setRef r s).lt.ref = r := by
  rw [setRef_lt]
  split
  · assumption
  · rfl

@[simp] theorem setRef_mode (r : Nat) (s : State) : (setRef r s).lt.mode = s.lt.mode := by
  rw [setRef_lt]; split <;> rfl

/-- What the sampling of the timing inputs keeps of LT: the position, the three inputs, the capture of PPS_IN and the count of misses. -/
structure LtSample where
  frame : Nat
  phase : Nat
  input : TimingSel → TimingIn
  capture : Nat × Nat
  misses : Nat
  refclkOk : Bool

/-- The sampling part of LT. -/
def LtState.sample (l : LtState) : LtSample :=
  { frame := l.frame, phase := l.phase, capture := (l.ppsFrame, l.ppsPhase), misses := l.evMiss, refclkOk := l.refclkOk
    input := fun | .fsync => l.fsync | .mfsync => l.mfsync | .pps => l.pps }

theorem timingIn_eq_sample (s : State) (i : TimingSel) : timingIn s i = s.lt.sample.input i := by cases i <;> rfl

@[simp] theorem setLtMode_sample (m : LtMode) (s : State) : (setLtMode m s).lt.sample = s.lt.sample := by
  rw [setLtMode_lt]; split <;> rfl

@[simp] theorem setRef_sample (r : Nat) (s : State) : (setRef r s).lt.sample = s.lt.sample := by
  rw [setRef_lt]; split <;> rfl

@[simp] theorem establish_sample (s : State) : (establish s).lt.sample = s.lt.sample := by
  unfold establish
  dsimp only
  split
  · exact setLtMode_sample ..
  · rfl

@[simp] theorem reselect_sample (s : State) : (reselect s).lt.sample = s.lt.sample := by
  unfold reselect
  dsimp only
  split
  · rfl
  · split
    · split <;> simp
    · split <;> simp [apply_ite]

@[simp] theorem ncoLearn_sample (s : State) : (ncoLearn s).lt.sample = s.lt.sample := rfl

@[simp] theorem followEdge_sample (p : Nat) (e : Int) (s : State) : (followEdge p e s).lt.sample = s.lt.sample := by
  unfold followEdge
  dsimp only
  split_ifs <;> rfl

theorem setMf_lt (b : Bool) (s : State) : (setMf b s).lt = { s.lt with mfMismatch := b } := by
  unfold setMf
  dsimp only
  split
  · exact faultRaise_lt ..
  · rfl

theorem setPps_lt (b : Bool) (s : State) : (setPps b s).lt = { s.lt with ppsMismatch := b } := by
  unfold setPps
  dsimp only
  split
  · exact faultRaise_lt ..
  · rfl

@[simp] theorem markEdge_sample (i : TimingSel) (p : Nat) (s : State) : (markEdge i p s).lt.sample = s.lt.sample := by
  unfold markEdge
  cases i with
  | fsync => rfl
  | mfsync =>
    dsimp only
    split_ifs <;> simp only [setMf_lt, LtState.sample]
  | pps =>
    dsimp only
    split_ifs <;> simp only [setPps_lt, LtState.sample]

@[simp] theorem timingIn_setTiming (i : TimingSel) (x : TimingIn) (s : State) : timingIn (setTiming i x s) i = x := by cases i <;> rfl

/-- The state in which an edge of an input is judged: PPS_IN is captured (R59). -/
def captured (i : TimingSel) (s : State) : State :=
  if i = .pps then { s with lt := { s.lt with ppsFrame := s.lt.frame, ppsPhase := s.lt.phase } } else s

/-- The judgement of an edge: only a ranked input is predicted (R27). -/
def judged (i : TimingSel) (s : State) : Option Int × State :=
  if (refRanks s).contains (timNum i) then qualifyEdge i s else (none, s)

/-- What an edge in window starts: the reference is chosen again, and an edge of the one followed is followed (R29, R32, R33). -/
def steered (i : TimingSel) (p : Nat) (e : Option Int) (s : State) : State :=
  match e with
  | some d => if decide (s.lt.ref = timNum i) ∧ (reselect s).lt.ref = timNum i then followEdge p d (reselect s) else reselect s
  | none => s

theorem timingEdge_eq (i : TimingSel) (s : State) : timingEdge i s =
    markEdge i s.lt.phase (steered i s.lt.phase (judged i (captured i s)).1 (judged i (captured i s)).2) := rfl

@[simp] theorem steered_sample (i : TimingSel) (p : Nat) (e : Option Int) (s : State) : (steered i p e s).lt.sample = s.lt.sample := by
  unfold steered
  cases e with
  | none => rfl
  | some d => dsimp only; split_ifs <;> simp

/-- Of what an edge does, only the capture and the judgement reach the sampling part. -/
theorem timingEdge_sample (i : TimingSel) (s : State) : (timingEdge i s).lt.sample = (judged i (captured i s)).2.lt.sample := by
  rw [timingEdge_eq, markEdge_sample, steered_sample]

@[simp] theorem captured_refRanks (i : TimingSel) (s : State) : refRanks (captured i s) = refRanks s := by unfold captured; split <;> rfl

@[simp] theorem captured_refWindow (i : TimingSel) (s : State) : refWindow (captured i s) = refWindow s := by unfold captured; split <;> rfl

@[simp] theorem captured_nowPos (i : TimingSel) (s : State) : nowPos (captured i s) = nowPos s := by unfold captured; split <;> rfl

@[simp] theorem captured_timingIn (i j : TimingSel) (s : State) : timingIn (captured i s) j = timingIn s j := by
  unfold captured; split <;> cases j <;> rfl

section
variable {i : TimingSel} {s : State}

theorem judged_unranked (h : (refRanks s).contains (timNum i) = false) : judged i s = (none, s) := by
  unfold judged; rw [h]; rfl

theorem judged_first (h : (refRanks s).contains (timNum i) = true) (k : (timingIn s i).predicted = none) :
    judged i s = (none, setTiming i ⟨false, 0, 0, some (nowPos s + phasesPerFrame * timFrames i)⟩ s) := by
  simp only [judged, qualifyEdge, h, k, if_true]

theorem judged_inWindow {q : Nat} (h : (refRanks s).contains (timNum i) = true) (k : (timingIn s i).predicted = some q)
    (w : nowPos s ≤ q + refWindow s ∧ q ≤ nowPos s + refWindow s) :
    (judged i s).2 = setTiming i ⟨(timingIn s i).qualified || decide (timNeed i ≤ (timingIn s i).run + 1), (timingIn s i).run + 1, 0,
      some (nowPos s + phasesPerFrame * timFrames i)⟩ s := by
  simp only [judged, qualifyEdge, h, k, if_true]
  rw [if_pos (by omega)]

theorem judged_outside {q : Nat} (h : (refRanks s).contains (timNum i) = true) (k : (timingIn s i).predicted = some q)
    (w : q + refWindow s < nowPos s ∨ nowPos s + refWindow s < q) : judged i s = (none, s) := by
  simp only [judged, qualifyEdge, h, k, if_true]
  rw [if_neg (by omega)]

/-- The judgement of an edge writes at most what is kept for its input. -/
theorem judged_cases (i : TimingSel) (s : State) : (judged i s).2 = s ∨ ∃ x, (judged i s).2 = setTiming i x s := by
  cases h : (refRanks s).contains (timNum i) with
  | false => exact .inl (by rw [judged_unranked h])
  | true =>
    cases k : (timingIn s i).predicted with
    | none => exact .inr ⟨_, by rw [judged_first h k]⟩
    | some q =>
      by_cases w : nowPos s ≤ q + refWindow s ∧ q ≤ nowPos s + refWindow s
      · exact .inr ⟨_, judged_inWindow h k w⟩
      · exact .inl (by rw [judged_outside h k (by omega)])

end

theorem timingIn_of_sample {s t : State} (h : t.lt.sample = s.lt.sample) (i : TimingSel) : timingIn t i = timingIn s i := by
  rw [timingIn_eq_sample, h, ← timingIn_eq_sample]

/-- Where the sampling parts of two states agree, LT stands at the same position. -/
theorem clock_of_sample {s t : State} (h : t.lt.sample = s.lt.sample) : t.lt.frame = s.lt.frame ∧ t.lt.phase = s.lt.phase :=
  ⟨congrArg LtSample.frame h, congrArg LtSample.phase h⟩

theorem capture_of_sample {s t : State} (h : t.lt.sample = s.lt.sample) : (t.lt.ppsFrame, t.lt.ppsPhase) = (s.lt.ppsFrame, s.lt.ppsPhase) :=
  congrArg LtSample.capture h

/-- An edge leaves LT where it is, and an edge of PPS_IN is captured there (R59). -/
theorem timingEdge_clock (i : TimingSel) (s : State) : (timingEdge i s).lt.frame = s.lt.frame ∧ (timingEdge i s).lt.phase = s.lt.phase ∧
    (i = .pps → (timingEdge i s).lt.ppsFrame = s.lt.frame ∧ (timingEdge i s).lt.ppsPhase = s.lt.phase) := by
  obtain ⟨frame, phase⟩ := clock_of_sample (timingEdge_sample i s)
  have capture := capture_of_sample (timingEdge_sample i s)
  obtain e | ⟨x, e⟩ := judged_cases i (captured i s)
  · rw [e] at frame phase capture
    cases i <;> simp_all [captured]
  · rw [e] at frame phase capture
    cases i <;> simp_all [captured, setTiming]

section
variable {i : TimingSel} {s : State}

theorem timingEdge_unranked (h : (refRanks s).contains (timNum i) = false) : timingIn (timingEdge i s) i = timingIn s i := by
  rw [timingIn_of_sample (timingEdge_sample i s), judged_unranked (by rwa [captured_refRanks]), captured_timingIn]

/-- The first edge of a run predicts the next (R27). -/
theorem timingEdge_first (h : (refRanks s).contains (timNum i) = true) (k : (timingIn s i).predicted = none) :
    timingIn (timingEdge i s) i = ⟨false, 0, 0, some (nowPos s + phasesPerFrame * timFrames i)⟩ := by
  rw [timingIn_of_sample (timingEdge_sample i s), judged_first (by rwa [captured_refRanks]) (by rwa [captured_timingIn]), timingIn_setTiming,
    captured_nowPos]

/-- An edge in window counts, and qualifies its input when the run is long enough (R28). -/
theorem timingEdge_inWindow {q : Nat} (h : (refRanks s).contains (timNum i) = true) (k : (timingIn s i).predicted = some q)
    (w : nowPos s ≤ q + refWindow s ∧ q ≤ nowPos s + refWindow s) : timingIn (timingEdge i s) i =
      ⟨(timingIn s i).qualified || decide (timNeed i ≤ (timingIn s i).run + 1), (timingIn s i).run + 1, 0,
        some (nowPos s + phasesPerFrame * timFrames i)⟩ := by
  rw [timingIn_of_sample (timingEdge_sample i s), judged_inWindow (by rwa [captured_refRanks]) (by rwa [captured_timingIn])
    (by rwa [captured_nowPos, captured_refWindow]), timingIn_setTiming, captured_nowPos, captured_timingIn]

/-- An edge out of window changes nothing of its input (R28). -/
theorem timingEdge_outside {q : Nat} (h : (refRanks s).contains (timNum i) = true) (k : (timingIn s i).predicted = some q)
    (w : q + refWindow s < nowPos s ∨ nowPos s + refWindow s < q) : timingIn (timingEdge i s) i = timingIn s i := by
  rw [timingIn_of_sample (timingEdge_sample i s), judged_outside (by rwa [captured_refRanks]) (by rwa [captured_timingIn])
    (by rwa [captured_nowPos, captured_refWindow]), captured_timingIn]

end

/-- A state with LT at another phase of its frame. -/
def atPhase (p : Nat) (s : State) : State := { s with lt := { s.lt with phase := p } }

@[simp] theorem timingIn_atPhase (i : TimingSel) (p : Nat) (s : State) : timingIn (atPhase p s) i = timingIn s i := by cases i <;> rfl

@[simp] theorem refRanks_atPhase (p : Nat) (s : State) : refRanks (atPhase p s) = refRanks s := rfl

@[simp] theorem refWindow_atPhase (p : Nat) (s : State) : refWindow (atPhase p s) = refWindow s := rfl

theorem nowPos_atPhase (p : Nat) (s : State) : nowPos (atPhase p s) = s.lt.frame * 19440 + p := rfl

@[simp] theorem setTiming_frame (i : TimingSel) (x : TimingIn) (s : State) : (setTiming i x s).lt.frame = s.lt.frame := by cases i <;> rfl

@[simp] theorem setTiming_evMiss (i : TimingSel) (x : TimingIn) (s : State) : (setTiming i x s).lt.evMiss = s.lt.evMiss := by cases i <;> rfl

@[simp] theorem reselect_frame (s : State) : (reselect s).lt.frame = s.lt.frame := congrArg LtSample.frame (reselect_sample s)

@[simp] theorem reselect_evMiss (s : State) : (reselect s).lt.evMiss = s.lt.evMiss := congrArg LtSample.misses (reselect_sample s)

@[simp] theorem reselect_timingIn (i : TimingSel) (s : State) : timingIn (reselect s) i = timingIn s i := timingIn_of_sample (reselect_sample s) i

section
variable (i : TimingSel) (q : Nat) (s : State)

theorem timingMiss_frame : (timingMiss i q s).lt.frame = s.lt.frame := by
  unfold timingMiss
  dsimp only
  split_ifs <;> simp

/-- A miss of an unqualified run, or the third in a row, ends the run (R27, R28). -/
theorem timingMiss_ends (h : (timingIn s i).qualified = false ∨ 3 ≤ (timingIn s i).misses + 1) : timingIn (timingMiss i q s) i = .reset := by
  unfold timingMiss
  dsimp only
  obtain k | k := h
  · rw [if_pos (by simp [k])]
    simp
  · rw [if_pos k]
    split_ifs <;> simp

/-- The first and the second miss of a qualified input are counted, and the next edge is predicted from the one missed. -/
theorem timingMiss_counts (h : (timingIn s i).qualified = true) (k : (timingIn s i).misses < 2) : timingIn (timingMiss i q s) i =
    { timingIn s i with misses := (timingIn s i).misses + 1, predicted := some (q + phasesPerFrame * timFrames i) } := by
  unfold timingMiss
  dsimp only
  rw [if_neg (by simp [h]), if_neg (by omega), timingIn_setTiming]

theorem timingMiss_evMiss (h : (timingIn s i).qualified = true) (k : s.lt.ref = timNum i) :
    (timingMiss i q s).lt.evMiss = satAdd 255 s.lt.evMiss 1 := by
  unfold timingMiss
  dsimp only
  rw [if_neg (by simp [h])]
  simp only [decide_eq_true k, if_true]
  split_ifs <;> simp

end

/-- The edge carries LT to its phase, and is judged there. -/
theorem exec_timingInputEdge {i : TimingSel} {phase : BitVec 15} {s : State} (h : phase.toNat < 19440) (k : timingSampled s = true) :
    exec (.timingInputEdge i phase) s = .next (timingEdge i (atPhase (max s.lt.phase (min (frameLast s) phase.toNat)) s)) := by
  show execTimingInputEdge i phase s = _
  unfold execTimingInputEdge
  rw [if_neg (by omega), if_neg (by simp [k])]
  rfl

theorem exec_timingInputEdge_unsampled {i : TimingSel} {phase : BitVec 15} {s : State} (h : phase.toNat < 19440) (k : timingSampled s = false) :
    exec (.timingInputEdge i phase) s = .next s := by
  show execTimingInputEdge i phase s = _
  unfold execTimingInputEdge
  rw [if_neg (by omega), if_pos (by simp [k])]

theorem exec_timingInputMiss {i : TimingSel} {q : Nat} {s : State} (h : timingSampled s = true) (k : (timingIn s i).predicted = some q)
    (d : (q + refWindow s) / 19440 ≤ s.lt.frame) : exec (.timingInputMiss i) s = .next (timingMiss i q s) := by
  show execTimingInputMiss i s = _
  unfold execTimingInputMiss
  rw [k]
  exact congrArg _ (if_pos ⟨h, d⟩)

theorem exec_timingInputMiss_unpredicted {i : TimingSel} {s : State} (h : (timingIn s i).predicted = none) :
    exec (.timingInputMiss i) s = .next s := by
  show execTimingInputMiss i s = _
  unfold execTimingInputMiss
  rw [h]

theorem exec_refclkLoss {s : State} (h : alive s = true) : exec .refclkLoss s =
    .next (setRef 3 (setLtMode .freeRun { s with lt := { s.lt with refclkOk := false, fsync := .reset, mfsync := .reset, pps := .reset } })) := by
  show execRefclkLoss s = _
  unfold execRefclkLoss
  exact if_neg (fun n => n h)

theorem exec_refclkReturn {s : State} (h : alive s = true) (k : s.lt.mode = .freeRun) : exec .refclkReturn s =
    .next (setLtMode (if s.lt.countOk then .holdover else .acquire) { s with lt := { s.lt with refclkOk := true } }) := by
  show execRefclkReturn s = _
  unfold execRefclkReturn
  exact if_pos ⟨h, k⟩

theorem exec_refclk_dark {s : State} (h : alive s = false) : exec .refclkLoss s = .next { s with lt := { s.lt with refclkOk := false } } ∧
    exec .refclkReturn s = .next { s with lt := { s.lt with refclkOk := true } } := by
  refine ⟨?_, ?_⟩
  · show execRefclkLoss s = _
    unfold execRefclkLoss
    exact if_pos (Bool.eq_false_iff.mp h)
  · show execRefclkReturn s = _
    unfold execRefclkReturn
    exact if_neg (by simp [h])

/-- REFCLK155 lost (R36): no reference is followed, and no input keeps its run. -/
theorem refclkLoss_lt (s : State) :
    let t := setRef 3 (setLtMode .freeRun { s with lt := { s.lt with refclkOk := false, fsync := .reset, mfsync := .reset, pps := .reset } })
    t.lt.refclkOk = false ∧ t.lt.mode = .freeRun ∧ t.lt.ref = 3 ∧ t.lt.fsync = .reset ∧ t.lt.mfsync = .reset ∧ t.lt.pps = .reset ∧
      t.lt.frame = s.lt.frame ∧ t.lt.phase = s.lt.phase := by
  intro t
  have sample : t.lt.sample = { s.lt with refclkOk := false, fsync := .reset, mfsync := .reset, pps := .reset }.sample := by simp [t]
  have input (i : TimingSel) : t.lt.sample.input i = .reset := by rw [sample]; cases i <;> rfl
  exact ⟨congrArg LtSample.refclkOk sample, by simp [t], setRef_ref .., input .fsync, input .mfsync, input .pps,
    congrArg LtSample.frame sample, congrArg LtSample.phase sample⟩

/-- Settles O34: the sampling part of LT after an edge is that of its judgement (`timingEdge_sample`), and after a miss what `timingMiss` writes. -/
theorem timingInputs : Obligations.TimingInputs := by
  refine ⟨fun i phase s h k => ?_, fun i phase s => exec_timingInputEdge_unsampled, fun i q s h k d => ?_,
    fun i s => exec_timingInputMiss_unpredicted, rfl, rfl, rfl, fun s h => by simp [timingSampled, h],
    fun s => ⟨fun h => ⟨_, exec_refclkLoss h, refclkLoss_lt s⟩, fun h k => ?_, exec_refclk_dark⟩⟩
  · obtain ⟨frame, pos, capture⟩ := timingEdge_clock i (atPhase (max s.lt.phase (min (frameLast s) phase.toNat)) s)
    refine ⟨_, exec_timingInputEdge h k, frame, pos, capture, fun r => ?_, fun r n => ?_, fun q r n => ⟨fun w => ?_, fun w => ?_⟩⟩
    · rw [timingEdge_unranked (by simpa using r), timingIn_atPhase]
    · rw [timingEdge_first (by simpa using r) (by simpa using n)]
      rfl
    · rw [timingEdge_inWindow (by simpa using r) (by simpa using n) (by simpa [nowPos_atPhase] using w), timingIn_atPhase]
      rfl
    · rw [timingEdge_outside (by simpa using r) (by simpa using n) (by simpa [nowPos_atPhase] using w), timingIn_atPhase]
  · exact ⟨_, exec_timingInputMiss h k d, timingMiss_frame i q s, timingMiss_ends i q s, timingMiss_counts i q s, timingMiss_evMiss i q s⟩
  · have sample := setLtMode_sample (if s.lt.countOk then .holdover else .acquire) { s with lt := { s.lt with refclkOk := true } }
    exact ⟨_, exec_refclkReturn h k, congrArg LtSample.refclkOk sample, setLtMode_mode .., congrArg LtSample.frame sample,
      congrArg LtSample.phase sample⟩

end Sys2Proof.Machine
end

section
/-!
PROOFS. The start of a frame, the calendar's issues and the take by expiry (R31, R34, R35, R39, R44, R305).
-/
namespace Sys2Proof.Machine

open Sys2Proof

/-- Nothing is aligned where no edge has marked a boundary (R34). -/
theorem boundaryAligns_unmarked {s : State} (mf : s.lt.markMf = false) (pps : s.lt.markPps = false) (lateMf : s.lt.lateMf = false)
    (latePps : s.lt.latePps = false) (n : Nat) : boundaryAligns s n = (n, []) := by
  simp [boundaryAligns, mf, pps, lateMf, latePps]

theorem foldl_ltRecord_lt (acts : List (Nat × Nat × Nat)) (s : State) : (acts.foldl (fun t a => ltRecord a.1 a.2.1 a.2.2 t) s).lt = s.lt := by
  induction acts generalizing s with
  | nil => rfl
  | cons a acts ih => rw [List.foldl_cons, ih, ltRecord_lt]

/-- The count without alignments: a jump that is due, or the next number (R39, R300). -/
def jumped (s : State) : Nat := ((boundaryJump (s.lt.frame + 1) s.lt.jump).map (·.2)).getD (s.lt.frame + 1)

theorem lt_jumped (s : State) : s.lt.frame < jumped s := by
  unfold jumped
  cases q : boundaryJump (s.lt.frame + 1) s.lt.jump with
  | none => exact Nat.lt_succ_self _
  | some x => exact boundaryJump_le q

theorem jumped_of_none {s : State} (h : s.lt.jump = none) : jumped s = s.lt.frame + 1 := by
  unfold jumped; rw [h]; rfl

theorem startFrame_clock (s : State) : (startFrame s).lt.frame = (boundaryAligns s (jumped s)).1 ∧ (startFrame s).lt.phase = 0 := by
  unfold startFrame
  extract_lets prev plain j n0 t0 s1 adj cut
  split
  rename_i n acts aligned
  have count : (boundaryAligns s (jumped s)).1 = n := congrArg Prod.fst aligned
  clear_value j cut
  extract_lets moved s2 s3 s4
  have cutKept : s3.lt = s2.lt := by unfold s3; split <;> simp
  have jumpKept : s4.lt.sample = s2.lt.sample := by unfold s4; split <;> simp [cutKept]
  rw [foldl_ltRecord_lt, count]
  exact clock_of_sample jumpKept

/-- The steps of a boundary leave the LT that the frame starts with. -/
theorem exec_frameBoundary {s : State} (h : alive s = true) :
    ∃ t, exec .frameBoundary s = .next t ∧ t.lt.frame = (startFrame s).lt.frame ∧ t.lt.phase = (startFrame s).lt.phase := by
  refine ⟨_, congrArg Host.Outcome.next (if_neg (fun n => n h)), ?_⟩
  refine Keeps.frame (W := Fld.allBut .clock) ?_ .clock (by decide)
  with_reducible repeat' first
    | exact Fld.mem_allBut (by decide) | exact Keeps.refl _ _ | apply keeps_radioCycle | apply keeps_rotBoundary | apply keeps_boundarySteps
    | apply keeps_decideCopies | apply keeps_protEvaluate | apply keeps_statusStep | apply keeps_cycleStep | apply keeps_monSettleAll
    | apply keeps_lanesShift | apply keeps_linesShift | dsimp only | split

theorem exec_frameBoundary_dark {s : State} (h : alive s = false) : exec .frameBoundary s = .next s :=
  congrArg Host.Outcome.next (if_pos (Bool.eq_false_iff.mp h))

/-- An advance inside the frame in progress: a position that has passed leaves LT where it is. -/
theorem advanceTo_inFrame {pos : Nat} {s : State} (h : pos / phasesPerFrame = s.lt.frame) :
    advanceTo pos s = atPhase (max s.lt.phase (min (frameLast s) (pos % phasesPerFrame))) s := by
  unfold advanceTo
  split
  · rfl
  · have passed : max s.lt.phase (min (frameLast s) (pos % phasesPerFrame)) = s.lt.phase := by omega
    rw [passed]
    rfl

section
variable {idx : BitVec 10} {s : State}

/-- An entry that LT reaches issues with LT at its position, where it is the first of those due. -/
theorem exec_calendarIssue {u : State} (at_ : u = atPhase (max s.lt.phase (min (frameLast s) (calPos (calAt s idx.toNat) % phasesPerFrame))) s)
    (runs : calRuns s = true) (kind : (calAt s idx.toNat).kind ≠ 0) (timed : (calAt s idx.toNat).kind ≠ 3)
    (place : calPos (calAt s idx.toNat) / phasesPerFrame = s.lt.frame) (first : (calDue u).head? = some idx.toNat) :
    exec (.calendarIssue idx) s = .next (calIssue idx.toNat u) := by
  rw [← advanceTo_inFrame place] at at_
  subst at_
  show execCalendarIssue idx s = _
  unfold execCalendarIssue
  dsimp only
  rw [if_pos (by simp [runs, kind, timed, place]), if_pos first]

theorem exec_calendarIssue_idle (h : calRuns s = false) : exec (.calendarIssue idx) s = .next s :=
  congrArg Host.Outcome.next (if_neg (by simp [h]))

end

theorem exec_leaseExpiryTake {s : State} (h : expiryAt s (cycleNow s + 1) = true) (k : s.mate.takeDue = none) : exec .leaseExpiryTake s =
    .next (modMate (fun m => { m with takeDue := some ⟨cycleNow s + 1, 2, 0, 0, 5, 5⟩ }) s) :=
  congrArg Host.Outcome.next (if_pos ⟨h, by rw [k]; rfl⟩)

theorem exec_leaseExpiryTake_idle {s : State} (h : expiryAt s (cycleNow s + 1) = false ∨ s.mate.takeDue.isSome = true) :
    exec .leaseExpiryTake s = .next s :=
  congrArg Host.Outcome.next (if_neg (by rintro ⟨h1, h2⟩; simp_all))

theorem expiryAt_iff {s : State} {c : Nat} : expiryAt s c = true ↔ s.mate.rein = .standby ∧ s.mate.sync = .synced ∧ s.mate.lease + 2 ≤ c ∧
    bothSilent s = true ∧ s.lt.countOk = true ∧ s.mate.takeBlock = false := by
  simp [expiryAt, mayTake, and_assoc]

/-- The noted take by expiry happens in the rein's slot when its cycle has come and the lease is still out. -/
theorem takeBoundary_expiry {s : State} {d : TakeDue} (due : s.mate.takeDue = some d) (cause : d.cause = 2) (cycle : d.cycle ≤ cycleNow s)
    (out : expiryAt s (cycleNow s) = true) : takeBoundary s = takeRein 2 true (modMate (fun m => { m with takeDue := none }) s) := by
  obtain ⟨rein, sync, lease, silent, count, free⟩ := expiryAt_iff.mp out
  unfold takeBoundary
  rw [due]
  dsimp only
  rw [if_neg (by omega), if_neg (by simp [rein, count]), if_neg (by omega), if_neg (by simp [sync, free]), if_pos cause, if_pos ⟨lease, silent⟩]

/-- Settles O35: the clock of a boundary is that of `startFrame`, and the steps that follow leave it. -/
theorem frameStart : Obligations.FrameStart := by
  refine ⟨fun s => ⟨fun h => ?_, exec_frameBoundary_dark⟩, fun idx s => ⟨fun runs kind timed place first => ?_, exec_calendarIssue_idle⟩,
    fun s => ⟨exec_leaseExpiryTake, exec_leaseExpiryTake_idle, fun d => takeBoundary_expiry⟩⟩
  · obtain ⟨t, next, frame, phase⟩ := exec_frameBoundary h
    obtain ⟨count, zero⟩ := startFrame_clock s
    rw [count] at frame
    rw [zero] at phase
    refine ⟨t, next, ?_, phase, fun jump mf pps lateMf latePps => ?_⟩
    · exact frame ▸ Nat.lt_of_lt_of_le (lt_jumped s) (boundaryAligns_le s _)
    · rw [frame, boundaryAligns_unmarked mf pps lateMf latePps, jumped_of_none jump]
  · exact exec_calendarIssue rfl runs kind timed place first

end Sys2Proof.Machine
end

section
/-!
PROOFS. Supplies, pins and resets (R61, R62, R65, R67, R68, R77, R84, R85): what each reset of the part clears and what it keeps, and the pins of a
VIO bank that loses its power.
-/
namespace Sys2Proof.Machine

open Sys2Proof

theorem bit_setBit (v b k : Nat) : bit (setBit v b) k = if k = b then true else bit v k := by
  by_cases h : k = b
  · simp [bit, setBit, h]
  · simp [bit, setBit, h, Nat.testBit_two_pow_of_ne (Ne.symm h)]

/-- A power of two that stands in a number, taken away, clears its bit and no other. -/
theorem testBit_sub_two_pow {v b : Nat} (h : v.testBit b = true) (k : Nat) : (v - 2 ^ b).testBit k = if k = b then false else v.testBit k := by
  induction b generalizing v k with
  | zero =>
    have odd : v % 2 = 1 := by simpa using h
    cases k with
    | zero => simp; omega
    | succ k =>
      have half : (v - 1) / 2 = v / 2 := by omega
      simp [Nat.testBit_succ, half]
  | succ b ih =>
    rw [Nat.testBit_succ] at h
    have double : 2 ^ (b + 1) = 2 * 2 ^ b := Nat.pow_succ'
    cases k with
    | zero =>
      have le : 2 ^ b ≤ v / 2 := Nat.ge_two_pow_of_testBit h
      simp; omega
    | succ k =>
      have half : (v - 2 ^ (b + 1)) / 2 = v / 2 - 2 ^ b := by omega
      simp [Nat.testBit_succ, half, ih h]

theorem bit_clrBit (v b k : Nat) : bit (clrBit v b) k = if k = b then false else bit v k := by
  unfold clrBit
  split
  · exact testBit_sub_two_pow ‹_› k
  · split
    · simp_all [bit]
    · rfl

/-- The state of DARK with LT at 0.0 and the registers, the SRAM, the strands and the ledger at their reset values. -/
def Cleared (t : State) : Prop :=
  t.pwr.stage = .dark ∧ t.lt.frame = 0 ∧ t.lt.phase = 0 ∧ t.regs = State.reset.regs ∧ t.sram = State.reset.sram ∧ t.st = State.reset.st ∧
    t.led = State.reset.led

/-- `clearAll` clears, whatever the supplies, the straps, the host pins and the retention cell are put to behind it. -/
theorem cleared_clearAll (s : State) (p : PwrState) (h : HostState) (dark : p.stage = .dark) :
    Cleared { clearAll s with pwr := p, host := h } := ⟨dark, rfl, rfl, rfl, rfl, rfl, rfl⟩

/-- With PWR_GOOD high, its fall and a rail out of tolerance clear the part, each with its cause (R61, R67). -/
theorem exec_powerFall {s : State} (h : s.pwr.pwrGood = true) :
    (∃ t, exec .pwrGoodFall s = .next t ∧ Cleared t ∧ t.pwr.pwrGood = false ∧ t.pwr.ret.cause = 1) ∧
    (∃ t, exec .railDetect s = .next t ∧ Cleared t ∧ t.pwr.pwrGood = false ∧ t.pwr.ret.cause = 4) :=
  ⟨⟨_, congrArg Host.Outcome.next (if_pos h), cleared_clearAll _ _ _ rfl, rfl, rfl⟩,
    ⟨_, congrArg Host.Outcome.next (if_pos h), cleared_clearAll _ _ _ rfl, rfl, rfl⟩⟩

theorem exec_resetNAssert (s : State) : ∃ t, exec .resetNAssert s = .next t ∧ Cleared t ∧ t.pwr.resetN = false ∧ t.pwr.ret.cause = 2 :=
  ⟨_, rfl, cleared_clearAll _ _ _ rfl, rfl, rfl⟩

/-- The retention cell under `retentionCheck`; the rest stands. -/
theorem retentionCheck_eq (s : State) : retentionCheck s =
    { s with pwr := { s.pwr with ret := if s.pwr.vcoreFeeds ∨ s.pwr.vstbA ∨ s.pwr.vstbB then s.pwr.ret else .blank } } := by
  unfold retentionCheck
  split <;> rfl

/-- A power loss clears the part; the cell holds while a standby input feeds it (R68, R77). -/
theorem exec_powerLoss (s : State) : ∃ t, exec .powerLoss s = .next t ∧ Cleared t ∧ t.pwr.pwrGood = false ∧ t.pwr.vcoreFeeds = false ∧
    t.pwr.ret = if s.pwr.vstbA = true ∨ s.pwr.vstbB = true then s.pwr.ret else .blank := by
  refine ⟨_, congrArg Host.Outcome.next (retentionCheck_eq _), cleared_clearAll _ _ _ rfl, rfl, rfl, ?_⟩
  simp [clearAll]

/-- The straps are sampled as PWR_GOOD rises; a cell that VCORE fed all along is as it was (R65, R77). -/
theorem exec_pwrGoodRise {s : State} (hold mute mode : Bool) (addr : BitVec 2) (low : s.pwr.pwrGood = false) :
    ∃ t, exec (.pwrGoodRise hold mute mode addr) s = .next t ∧ Cleared t ∧ t.pwr.pwrGood = true ∧ t.pwr.vcoreFeeds = true ∧
      t.pwr.bootHold = hold ∧ t.pwr.txMute = mute ∧ t.host.lbMode = mode ∧ t.host.i2cAddr = addr.toNat ∧
      (s.pwr.vcoreFeeds = true → t.pwr.ret = s.pwr.ret) := by
  refine ⟨_, congrArg Host.Outcome.next (if_neg (by simp [low])), cleared_clearAll _ _ _ rfl, rfl, rfl, rfl, rfl, rfl, rfl, fun fed => ?_⟩
  simp [fed, clearAll, takeFree]

theorem exec_vstbChange (a b : Bool) (s : State) :
    exec (.vstbChange a b) s = .next (retentionCheck (faultRaiseAll
      ((if s.pwr.vstbA = true ∧ a = false then [1] else []) ++ (if s.pwr.vstbB = true ∧ b = false then [2] else []) ++
        (if (!a && !b && s.pwr.vcoreFeeds) = true ∧ s.pwr.atRisk = false then [3] else []))
      { s with pwr := { s.pwr with vstbA := a, vstbB := b, atRisk := !a && !b && s.pwr.vcoreFeeds } })) := by
  show execVstbChange a b s = _
  simp only [execVstbChange, Bool.not_eq_true]

@[simp] theorem trigAt_modTrig (t q : Nat) (f : CamTrig → CamTrig) (s : State) :
    trigAt (modTrig t f s) q = if t = q then f (trigAt s q) else trigAt s q := by
  unfold trigAt modTrig tmod
  rw [tget_tset]
  split
  · subst t; rfl
  · rfl

/-- A trigger with its pulse ended. -/
def CamTrig.idle (x : CamTrig) : CamTrig := { x with active := false }

/-- Of the triggers taken one after the other, each is idle, and the others are as they were. -/
theorem trigAt_foldl_idle (l : List Nat) (s : State) (q : Nat) :
    trigAt (l.foldl (fun t k => modTrig k CamTrig.idle t) s) q = if q ∈ l then (trigAt s q).idle else trigAt s q := by
  induction l generalizing s with
  | nil => rfl
  | cons k l ih =>
    rw [List.foldl_cons, ih, trigAt_modTrig]
    by_cases kq : k = q
    · simp [kq, CamTrig.idle]
    · simp [kq, Ne.symm kq]

theorem bankLost_trigs {k : Nat} (h : k < 4) (s : State) : (trigAt (bankLost 2 s) k).active = false := by
  have idle : trigAt (bankLost 2 s) k = (trigAt s k).idle := (trigAt_foldl_idle (List.range 4) s k).trans (if_pos (List.mem_range.mpr h))
  rw [idle]
  rfl

theorem bankLost_strobes (s : State) : (bankLost 3 s).scan.strobes.all (fun x => !x.active) = true := by
  simp [bankLost, modScan]

theorem bankLost_pwr (bank : Nat) (s : State) : (bankLost bank s).pwr = s.pwr :=
  (keeps_bankLost (W := [.mate, .cam, .scan]) (by decide) (by decide) (by decide) bank s (.refl _ s)).frame .pwr (by decide)

/-- Where supplies and pins change and the stage stands, only `pwr` changes. -/
theorem onlyIn_pwr {s : State} {p : PwrState} (h : p.stage = s.pwr.stage) : OnlyIn [.pwr] s { s with pwr := p } := by
  intro f out
  cases f
  case pwr => exact absurd out (by decide)
  case stage => exact h
  case sram | clock => exact ⟨rfl, rfl⟩
  case forward => exact NotBefore.same rfl rfl
  all_goals rfl

/-- A VIO bank's power comes and goes (R62): its bit follows, and the pins of a bank without power drive nothing. -/
theorem exec_vioBankPowerChange (s : State) (bank : BitVec 3) :
    ∃ t u, exec (.vioBankPowerChange bank true) s = .next t ∧ exec (.vioBankPowerChange bank false) s = .next u ∧
      OnlyIn [.pwr] s t ∧ OnlyIn [.pwr, .mate, .cam, .scan] s u ∧
      (bank = 2 → ∀ k, k < 4 → (trigAt u k).active = false) ∧ (bank = 3 → u.scan.strobes.all (fun x => !x.active) = true) ∧
      (bank = 6 → u.mate.pulseOut = false) ∧
      ∀ k, bit t.pwr.vioOk k = (if k = bank.toNat then true else bit s.pwr.vioOk k) ∧
        bit u.pwr.vioOk k = (if k = bank.toNat then false else bit s.pwr.vioOk k) := by
  refine ⟨_, _, rfl, rfl, onlyIn_pwr rfl, (keeps_exec (.vioBankPowerChange bank false) s _ rfl).frame, ?_, ?_, ?_, fun k => ⟨?_, ?_⟩⟩
  · rintro rfl k h
    exact bankLost_trigs h s
  · rintro rfl
    exact bankLost_strobes s
  · rintro rfl
    rfl
  · exact bit_setBit ..
  · exact (congrArg (fun p => bit (clrBit p.vioOk bank.toNat) k) (bankLost_pwr bank.toNat s)).trans (bit_clrBit ..)

/-- Settles O36: every reset source ends in `clearAll`, and what the row writes behind it is the supplies, the straps and the retention cell. -/
theorem suppliesResets : Obligations.SuppliesResets := fun s =>
  ⟨exec_powerFall, exec_resetNAssert s, exec_powerLoss s, exec_pwrGoodRise,
    fun a b => exec_vstbChange a b s, rfl, rfl, exec_vioBankPowerChange s⟩

end Sys2Proof.Machine
end

section
/-!
PROOFS. Stages and power domains (R69 to R71, R81, R82, R467): what entry to a stage leaves of the stage and of LT, and how a domain's state moves.
-/
namespace Sys2Proof.Machine

open Sys2Proof

/-- The state with another stage entered now: what the rest of a stage change starts from (R69, R74). -/
def stageShown (new : Stage) (s : State) : State :=
  { s with pwr := { s.pwr with stage := new, stageFrame := s.lt.frame, stagePhase := s.lt.phase } }

/-- The parts that records, faults, the rein and the domains write: neither the stage nor LT. -/
def stageFollows : List Fld := [.pwr, .host, .led, .mate, .flt, .regs]

/-- The STAGE record, the listen window and the domains that follow a stage change leave the stage and LT. -/
theorem enterStage_keeps (new : Stage) (s : State) : Keeps stageFollows (stageShown new s) (enterStage new s) := by
  unfold enterStage
  with_reducible repeat' first
    | exact List.mem_of_elem_eq_true rfl | apply keeps_domUpdate | apply Keeps.ite | apply keeps_listenStart | apply keeps_setRein
    | apply keeps_setCauses | apply keeps_ledgerHw
  all_goals exact .refl _ (stageShown new s)

theorem enterStage_stage (new : Stage) (s : State) : (enterStage new s).pwr.stage = new := (enterStage_keeps new s).frame .stage (by decide)

theorem enterStage_lt (new : Stage) (s : State) : (enterStage new s).lt = s.lt := (enterStage_keeps new s).frame .lt (by decide)

/-- The start as SAFE is entered, with the START record waiting before any other (R79, R139). -/
def safeShown (s : State) : State :=
  let r := retained s
  { s with
    pwr := { s.pwr with resetN := true, warmPending := false, retValid := r.valid, resetCause := r.cause, retTicks := r.dormant
                        retFrame := r.lastFrame, stage := .safe, ret := { r with dormant := 0, cause := 1, valid := true } }
    led := { s.led with startWaiting := some (startRec r) } }

/-- The parts that the start of a SAFE writes: neither the stage nor LT. -/
def safeFollows : List Fld := [.pwr, .host, .led, .dma, .line, .fab, .mate, .dun, .cam, .scan, .radio, .mon, .flt, .regs]

/-- Records, domains, setpoints, faults, rotations and the status flip that follow entry to SAFE leave the stage and LT. -/
theorem enterSafe_keeps (s : State) : Keeps safeFollows (safeShown s) (enterSafe s) := by
  unfold enterSafe
  with_reducible repeat' first
    | exact List.mem_of_elem_eq_true rfl | apply keeps_dmaRefill | apply keeps_flipAll | apply keeps_domUpdate | apply keeps_rotStart
    | apply keeps_faultRaiseAll | apply keeps_setpointsOff | apply keeps_reportLoss | apply keeps_setRein | apply keeps_setCauses
    | apply keeps_ledgerHw | apply keeps_ledgerDrain | apply keeps_safeDomains
  exact .refl _ (safeShown s)

theorem enterSafe_stage (s : State) : (enterSafe s).pwr.stage = .safe := (enterSafe_keeps s).frame .stage (by decide)

theorem enterSafe_lt (s : State) : (enterSafe s).lt = s.lt := (enterSafe_keeps s).frame .lt (by decide)

section
variable {s : State}

theorem exec_safeEntry (dark : s.pwr.stage = .dark) (ready : s.pwr.warmPending = true ∨ (s.pwr.pwrGood = true ∧ s.lt.refclkOk = true)) :
    exec .safeEntry s = .next (enterSafe s) := congrArg Host.Outcome.next (if_pos ⟨dark, ready⟩)

theorem exec_safeEntry_idle
    (h : s.pwr.stage ≠ .dark ∨ (s.pwr.warmPending = false ∧ (s.pwr.pwrGood = false ∨ s.lt.refclkOk = false))) :
    exec .safeEntry s = .next s := by
  refine congrArg Host.Outcome.next (if_neg ?_)
  rintro ⟨dark, ready⟩
  obtain ⟨cold, lacks⟩ := h.resolve_left (not_not.mpr dark)
  rcases lacks with lacks | lacks <;> simp [cold, lacks] at ready

theorem framedFree_iff : framedFree s = true ↔ s.pwr.stage = .safe ∧ (s.pwr.bootHold = false ∨ s.pwr.released = true) := by
  simp [framedFree]

theorem exec_framed (safe : s.pwr.stage = .safe) (free : s.pwr.bootHold = false ∨ s.pwr.released = true) :
    exec .framedEntry s = .next (enterStage .framed s) ∧ exec .stageTimeout s = .next (faultRaise 0 s) :=
  have go := framedFree_iff.mpr ⟨safe, free⟩
  ⟨congrArg Host.Outcome.next (if_pos go), congrArg Host.Outcome.next (if_pos go)⟩

theorem exec_framed_idle (h : s.pwr.stage ≠ .safe ∨ (s.pwr.bootHold = true ∧ s.pwr.released = false)) :
    exec .framedEntry s = .next s ∧ exec .stageTimeout s = .next s := by
  have held : ¬ framedFree s = true := by
    rw [framedFree_iff]
    rintro ⟨safe, free⟩
    obtain ⟨hold, kept⟩ := h.resolve_left (not_not.mpr safe)
    simp [hold, kept] at free
  exact ⟨congrArg Host.Outcome.next (if_neg held), congrArg Host.Outcome.next (if_neg held)⟩

end

/-! Power domains. -/

/-- The domains put to a state are in it, and the others are as they were. -/
theorem domState_foldl_setDom (l : List Nat) (x : DomState) (s : State) (j : Nat) :
    domState (l.foldl (fun t k => setDom k x t) s) j = if j ∈ l then x else domState s j := by
  induction l generalizing s with
  | nil => rfl
  | cons k l ih =>
    rw [List.foldl_cons, ih, domState_setDom]
    by_cases jk : k = j
    · simp [jk]
    · simp [jk, Ne.symm jk]

theorem domState_setDoms (d : Nat) (x : DomState) (s : State) (j : Nat) :
    domState (setDoms d x s) j = if j ∈ domMates d then x else domState s j := domState_foldl_setDom ..

/-- Wakes and gates that follow what is wanted write no part but `pwr`, and not the stage. -/
theorem domUpdate_keeps (s : State) : Keeps [.pwr] s (domUpdate s) :=
  .ite (.refl _ s) (.foldl (.refl _ s) fun t _ h => keeps_setDom (by decide) _ _ t h)

section
variable {d : BitVec 7} {s : State}

theorem exec_domainWake (range : d.toNat < 112) (waking : domState s d.toNat = .waking) :
    (let u := domUpdate (setDoms d.toNat .on s)
     exec (.domainWakeDone d) s = .next (if 86 ≤ d.toNat ∧ d.toNat < 94 then clusterAwake (d.toNat - 86) u else u)) ∧
    exec (.domainWakeTimeout d) s = .next (faultRaise 5 s) :=
  ⟨(if_neg (Nat.not_le.mpr range)).trans (if_neg (not_not.mpr waking)),
    (if_neg (Nat.not_le.mpr range)).trans (congrArg Host.Outcome.next (if_pos waking))⟩

theorem exec_domainWake_idle (range : d.toNat < 112) (other : domState s d.toNat ≠ .waking) :
    exec (.domainWakeDone d) s = .next s ∧ exec (.domainWakeTimeout d) s = .next s :=
  ⟨(if_neg (Nat.not_le.mpr range)).trans (if_pos other),
    (if_neg (Nat.not_le.mpr range)).trans (congrArg Host.Outcome.next (if_neg other))⟩

theorem exec_domainGate (range : d.toNat < 112) (pending : domState s d.toNat = .gatePending) :
    ∃ t, exec (.domainGate d) s = .next t ∧ t = domUpdate (setDoms d.toNat .gated s) ∧ OnlyIn [.pwr] s t :=
  ⟨_, (if_neg (Nat.not_le.mpr range)).trans (congrArg Host.Outcome.next (if_pos pending)), rfl,
    ((keeps_setDoms (by decide) _ _ s (.refl _ s)).trans (domUpdate_keeps _)).frame⟩

theorem exec_domainGate_idle (range : d.toNat < 112) (other : domState s d.toNat ≠ .gatePending) : exec (.domainGate d) s = .next s :=
  (if_neg (Nat.not_le.mpr range)).trans (congrArg Host.Outcome.next (if_neg other))

end

/-- Settles O37: each row's guard decides, and what follows an entry leaves the stage and LT (`enterSafe_keeps`, `enterStage_keeps`). -/
theorem stagesDomains : Obligations.StagesDomains := by
  refine ⟨fun s => ⟨fun dark ready => ⟨exec_safeEntry dark ready, enterSafe_stage s, enterSafe_lt s⟩, exec_safeEntry_idle,
    fun safe free => ?_, exec_framed_idle⟩, fun d s range => ⟨fun x j => domState_setDoms _ x s j, exec_domainWake range,
    exec_domainWake_idle range, exec_domainGate range, exec_domainGate_idle range⟩⟩
  obtain ⟨entry, timeout⟩ := exec_framed safe free
  exact ⟨entry, enterStage_stage .framed s, enterStage_lt .framed s, timeout⟩

end Sys2Proof.Machine
end

section
/-!
PROOFS. Line ports (R64, R75, R214 to R216, R219, R221, R223, R229, R236): what a frame received, a frame sent, a loss of signal, a window's end and
the monitor leave of a port. The section part of a port is what framing, the section overhead and the transmit monitor keep; pointers, multiframe
counts, content and the data channels leave it.
-/
namespace Sys2Proof.Machine

open Sys2Proof

/-! One port of the block is put back. -/

@[simp] theorem portAt_setPort_self (p : Nat) (x : LinePort) (s : State) : portAt (setPort p x s) p = x := by simp [portAt_setPort]

theorem portAt_setPort_ne {p q : Nat} (h : q ≠ p) (x : LinePort) (s : State) : portAt (setPort p x s) q = portAt s q := by
  simp [portAt_setPort, Ne.symm h]

theorem setPort_onlyIn (p : Nat) (x : LinePort) (s : State) : OnlyIn [.line] s (setPort p x s) :=
  (keeps_setPort (by decide) p x s (.refl _ s)).frame

/-- A row answers the state in which port `k` is as `P` says, and the other ports, the GFP-F channels and the other blocks are as they were. -/
def LeavesPort (i : Instr) (k : Nat) (s : State) (P : LinePort → Prop) : Prop :=
  ∃ t, exec i s = .next t ∧ P (portAt t k) ∧ (∀ q, q ≠ k → portAt t q = portAt s q) ∧ t.line.gfp = s.line.gfp ∧ OnlyIn [.line] s t

theorem leavesPort_of_setPort {i : Instr} {k : Nat} {s : State} {x : LinePort} {P : LinePort → Prop} (next : exec i s = .next (setPort k x s))
    (h : P x) : LeavesPort i k s P :=
  ⟨_, next, by rwa [portAt_setPort_self], fun _ other => portAt_setPort_ne other x s, rfl, setPort_onlyIn k x s⟩

/-! The section part. -/

/-- The section part of a port: framer, B1 and B2 counts, the errors of the last frame, accepted K1 and K2, and the monitor's frames sent. -/
structure SectionPart where
  framer : Framer
  b1 : Nat
  b2 : Nat
  lastB2 : Nat
  k1 : Nat
  k2 : Nat
  monAge : Nat

def LinePort.sectionPart (x : LinePort) : SectionPart :=
  { framer := x.framer, b1 := tget 0 x.cnt 0, b2 := tget 0 x.cnt 1, lastB2 := x.lastB2, k1 := x.k1, k2 := x.k2, monAge := x.monAge }

theorem tget_cntAdd (i n j : Nat) (x : LinePort) :
    tget 0 (cntAdd i n x).cnt j = if i = j then (tget 0 x.cnt j + n) % 2 ^ 32 else tget 0 x.cnt j := by
  simp only [cntAdd, tmod, tget_tset, wrap32]
  split
  · subst i; rfl
  · rfl

/-- The counters behind B1 and B2 are no part of it. -/
theorem cntAdd_sectionPart {i : Nat} (h : 2 ≤ i) (n : Nat) (x : LinePort) : (cntAdd i n x).sectionPart = x.sectionPart := by
  have other (j : Nat) (k : j < 2) : tget 0 (cntAdd i n x).cnt j = tget 0 x.cnt j := by rw [tget_cntAdd, if_neg (by omega)]
  simp only [LinePort.sectionPart, other 0 (by decide), other 1 (by decide)]
  rfl

theorem foldl_sectionPart {α : Type} {f : LinePort → α → LinePort} (h : ∀ x a, (f x a).sectionPart = x.sectionPart) (l : List α)
    (x : LinePort) : (l.foldl f x).sectionPart = x.sectionPart := by
  induction l generalizing x with
  | nil => rfl
  | cons a l ih => rw [List.foldl_cons, ih, h]

theorem foldl_fst_sectionPart {α β : Type} {f : LinePort × β → α → LinePort × β} (h : ∀ x a, (f x a).1.sectionPart = x.1.sectionPart)
    (l : List α) (x : LinePort × β) : (l.foldl f x).1.sectionPart = x.1.sectionPart := by
  induction l generalizing x with
  | nil => rfl
  | cons a l ih => rw [List.foldl_cons, ih, h]

@[simp] theorem cntPtr_sectionPart (k : PtrCount) (x : LinePort) : (cntPtr k x).sectionPart = x.sectionPart := by
  simp [cntPtr, cntAdd_sectionPart]

@[simp] theorem rxAu_sectionPart (s : State) (p : Nat) (x : LinePort) (r : AuRx) : (rxAu s p x r).sectionPart = x.sectionPart := by
  unfold rxAu
  dsimp only
  split_ifs
  · rfl
  · rfl
  · exact cntPtr_sectionPart ..
  · rfl

@[simp] theorem rxTu_sectionPart (s : State) (p : Nat) (x : LinePort) (r : TuRx) : (rxTu s p x r).sectionPart = x.sectionPart := by
  unfold rxTu
  dsimp only
  split
  · rfl
  · exact cntPtr_sectionPart ..

@[simp] theorem rxH4_sectionPart (x : LinePort) (h : BitVec 8 × BitVec 2) : (rxH4 x h).sectionPart = x.sectionPart := rfl

@[simp] theorem lopcStep_sectionPart (s : State) (p : Nat) (x : LinePort) : (lopcStep s p x).sectionPart = x.sectionPart :=
  foldl_sectionPart (fun _ _ => by dsimp only; split <;> rfl) ..

@[simp] theorem rxCells_sectionPart (s : State) (p : Nat) (x : LinePort) (r : SlotRx) : (rxCells s p x r).sectionPart = x.sectionPart := by
  unfold rxCells
  dsimp only
  split <;> rfl

@[simp] theorem rxTribCells_sectionPart (s : State) (p : Nat) (x : LinePort) (r : TribRx) :
    (rxTribCells s p x r).sectionPart = x.sectionPart := by
  unfold rxTribCells
  dsimp only
  split <;> rfl

@[simp] theorem j0Step_sectionPart (cfg b : Nat) (x : LinePort) : (j0Step cfg b x).sectionPart = x.sectionPart := by
  unfold j0Step
  split
  · rfl
  · rfl
  · dsimp only
    split_ifs <;> rfl

@[simp] theorem countGen_sectionPart (s : State) (act : Nat) (x : LinePort) : (countGen s act x).sectionPart = x.sectionPart := by
  unfold countGen
  split <;> simp only [cntAdd_sectionPart, Nat.reduceLeDiff]
  rfl

@[simp] theorem runGen_sectionPart (s : State) (i range : Nat) (src : SlotSource) (ones : Bool) (mark : Option Nat) (g : List TxStore)
    (x : LinePort) : (runGen s i range src ones mark g x).sectionPart = x.sectionPart := countGen_sectionPart ..

@[simp] theorem txTribs_sectionPart (s : State) (p sl : Nat) (g : List TxStore) (x : LinePort) :
    (txTribs s p sl g x).1.sectionPart = x.sectionPart := by
  refine foldl_fst_sectionPart (fun a j => ?_) ..
  dsimp only
  split <;> simp

@[simp] theorem txSlot_sectionPart (s : State) (p : Nat) (g : List TxStore) (os : Tab (List Byte)) (acc : LinePort × List SlotSent) (sl : Nat) :
    (txSlot s p g os acc sl).1.sectionPart = acc.1.sectionPart := by
  unfold txSlot
  dsimp only
  cases slotSource s (192 * p + sl) with
  | carrier =>
    dsimp only
    split
    · exact (runGen_sectionPart ..).trans (txTribs_sectionPart ..)
    · exact txTribs_sectionPart ..
  | _ =>
    dsimp only
    split
    · exact runGen_sectionPart ..
    · rfl

/-! Reception. -/

theorem cntAdd_zero_sectionPart (n : Nat) (x : LinePort) :
    (cntAdd 0 n x).sectionPart = { x.sectionPart with b1 := (x.sectionPart.b1 + n) % 2 ^ 32 } := by
  simp only [LinePort.sectionPart, tget_cntAdd]
  rfl

theorem cntAdd_one_sectionPart (n : Nat) (x : LinePort) :
    (cntAdd 1 n x).sectionPart = { x.sectionPart with b2 := (x.sectionPart.b2 + n) % 2 ^ 32 } := by
  simp only [LinePort.sectionPart, tget_cntAdd]
  rfl

theorem rxOverhead_sectionPart (r : LineRx) (x : LinePort) :
    (rxOverhead r x).sectionPart = { x.sectionPart with k1 := (rxOverhead r x).k1, k2 := (rxOverhead r x).k2 } := rfl

theorem huntWith_framer (pats : List Nat) (x : LinePort) : (huntWith pats x).framer ≠ .sync := by
  unfold huntWith
  split <;> simp

/-- In SYNC throughout, a frame period of the framer counts errored patterns and no more (R215). -/
theorem framerStep_inSync {pats : List Nat} {trans : Bool} {x : LinePort} (before : x.framer = .sync)
    (after : (framerStep pats trans x).framer = .sync) : ∃ e, framerStep pats trans x = { x with errRun := e, wasIn := true } := by
  unfold framerStep at after ⊢
  rw [before] at after ⊢
  dsimp only at after ⊢
  split_ifs at after ⊢
  · exact ⟨_, rfl⟩
  · exact ⟨_, rfl⟩
  · exact absurd after (huntWith_framer _ _)

theorem acceptRun_same {n run v : Nat} (h : n ≤ run + 1) : (acceptRun n v run v).2.2 = some v := by simp [acceptRun, h]

/-- The third K1 and K2 alike in a row are accepted (R219). -/
theorem rxOverhead_accepts {r : LineRx} {x : LinePort} (same : x.kCand = r.k1.toNat + 256 * r.k2.toNat) (run : 2 ≤ x.kRun) :
    (rxOverhead r x).k1 = r.k1.toNat ∧ (rxOverhead r x).k2 = r.k2.toNat := by
  have accepted := acceptRun_same (v := r.k1.toNat + 256 * r.k2.toNat) (Nat.succ_le_succ run)
  have k1 : r.k1.toNat < 256 := r.k1.isLt
  constructor
  · simp only [rxOverhead, same, accepted, Option.map_some, Option.getD_some]
    omega
  · simp only [rxOverhead, same, accepted, Option.map_some, Option.getD_some]
    omega

/-- A port after the framer's period of the frame (R215, R216). -/
def framed (r : LineRx) (k : Nat) (s : State) : LinePort :=
  framerStep (r.patterns.map (· % rateBits (bits (lpCfg s k) 0 2))) r.transitions { portAt s k with cdrLock := r.cdrLock }

/-- What a frame in SYNC counts with and without LOS or LOF: B2 for the windows, the capture, unsupported options. -/
def tallied (r : LineRx) (x : LinePort) : LinePort :=
  cntAdd 15 r.unsup { x with
    lastB2 := r.b2, cap := r.e1.toNat + 256 * r.f1.toNat + 65536 * r.e2.toNat
    sdWin := { x.sdWin with count := x.sdWin.count + r.b2 }, excWin := { x.excWin with count := x.excWin.count + r.b2 } }

theorem tallied_sectionPart (r : LineRx) (x : LinePort) : (tallied r x).sectionPart = { x.sectionPart with lastB2 := r.b2 } :=
  cntAdd_sectionPart (by decide) ..

/-- The section overhead of a frame in SYNC without LOS or LOF: B1 and B2, K and S bytes, M1, J0, the section's and the line's data channel. -/
def sectionRead (cfg : Nat) (r : LineRx) (x0 : LinePort) : LinePort :=
  let x := cntAdd 1 r.b2 (cntAdd 0 r.b1 (rxOverhead r x0))
  let x := cntAdd 2 (if r.m1.toNat ≤ m1Cap (bits cfg 0 2) then r.m1.toNat else 0) x
  let x := j0Step cfg r.j0.toNat x
  let (a, da) := if bit cfg 16 then dccPut x.dccSRx (r.dccS.take 3) else (x.dccSRx, 0)
  let (b, db) := if bit cfg 17 then dccPut x.dccLRx (r.dccL.take 9) else (x.dccLRx, 0)
  cntAdd 13 (da + db) { x with dccSRx := a, dccLRx := b }

theorem sectionRead_sectionPart (cfg : Nat) (r : LineRx) (x : LinePort) :
    (sectionRead cfg r x).sectionPart = (cntAdd 1 r.b2 (cntAdd 0 r.b1 (rxOverhead r x))).sectionPart := by
  unfold sectionRead
  rw [cntAdd_sectionPart (by decide)]
  exact (j0Step_sectionPart ..).trans (cntAdd_sectionPart (by decide) ..)

/-- The pointers, the multiframe counts and the content of a frame in SYNC. -/
def payloadRead (s : State) (k : Nat) (r : LineRx) (x : LinePort) : LinePort :=
  r.tribs.foldl (rxTribCells s k) (r.slots.foldl (rxCells s k)
    (r.tus.foldl (rxTu s k) (lopcStep s k (r.h4.foldl rxH4 (r.aus.foldl (rxAu s k) x)))))

theorem payloadRead_sectionPart (s : State) (k : Nat) (r : LineRx) (x : LinePort) : (payloadRead s k r x).sectionPart = x.sectionPart := by
  unfold payloadRead
  rw [foldl_sectionPart (rxTribCells_sectionPart s k), foldl_sectionPart (rxCells_sectionPart s k), foldl_sectionPart (rxTu_sectionPart s k),
    lopcStep_sectionPart, foldl_sectionPart rxH4_sectionPart, foldl_sectionPart (rxAu_sectionPart s k)]

section
variable {r : LineRx} {k : Nat} {s : State}

theorem lineReceive_outOfSync (h : ¬ ((portAt s k).framer = .sync ∧ (framed r k s).framer = .sync)) :
    lineReceive k r s = setPort k (framed r k s) s := if_pos h

theorem lineReceive_inSync (before : (portAt s k).framer = .sync) (after : (framed r k s).framer = .sync) (los : (framed r k s).los = false)
    (lof : (framed r k s).lof = false) :
    lineReceive k r s = setPort k (payloadRead s k r (sectionRead (lpCfg s k) r (tallied r (framed r k s)))) s :=
  have good : (!(framed r k s).los && !(framed r k s).lof) = true := by simp [los, lof]
  (if_neg (not_not.mpr ⟨before, after⟩)).trans (congrArg (fun x => setPort k (payloadRead s k r x) s) (if_pos good))

/-- The section part after a frame in SYNC throughout, without LOS or LOF. -/
theorem lineReceive_sectionPart (before : (portAt s k).framer = .sync) (after : (framed r k s).framer = .sync)
    (los : (portAt s k).los = false) (lof : (portAt s k).lof = false) : ∃ z, lineReceive k r s = setPort k z s ∧
      z.sectionPart = { (portAt s k).sectionPart with
        framer := .sync, b1 := (tget 0 (portAt s k).cnt 0 + r.b1) % 2 ^ 32, b2 := (tget 0 (portAt s k).cnt 1 + r.b2) % 2 ^ 32, lastB2 := r.b2
        k1 := (rxOverhead r (portAt s k)).k1, k2 := (rxOverhead r (portAt s k)).k2 } := by
  obtain ⟨e, same⟩ : ∃ e, framed r k s = { portAt s k with cdrLock := r.cdrLock, errRun := e, wasIn := true } :=
    framerStep_inSync before after
  refine ⟨_, lineReceive_inSync before after (same ▸ los) (same ▸ lof), ?_⟩
  rw [payloadRead_sectionPart, sectionRead_sectionPart, cntAdd_one_sectionPart, cntAdd_zero_sectionPart, rxOverhead_sectionPart, tallied_sectionPart,
    same, ← before]
  rfl

end

/-! Transmission. -/

/-- Steps that each put one GFP-F channel back, or nothing, change the channels alone. -/
theorem foldl_setGfp {α β : Type} {f : β × State → α → β × State} (step : ∀ a c, (f a c).2 = a.2 ∨ ∃ n x, (f a c).2 = setGfp n x a.2)
    (l : List α) (acc : β × State) : ∃ g, (l.foldl f acc).2 = { acc.2 with line := { acc.2.line with gfp := g } } := by
  induction l generalizing acc with
  | nil => exact ⟨_, rfl⟩
  | cons c l ih =>
    obtain ⟨g, rest⟩ := ih (f acc c)
    rw [List.foldl_cons, rest]
    rcases step acc c with same | ⟨n, x, put⟩
    · exact ⟨g, by rw [same]⟩
    · exact ⟨g, by rw [put]; rfl⟩

/-- The octets that a frame takes from the GFP-F channels are all that it changes before the port is put back (R231). -/
theorem takeOctets_gfp (s : State) (k : Nat) : ∃ g, (takeOctets s k).2 = { s with line := { s.line with gfp := g } } := by
  refine foldl_setGfp (fun a c => ?_) _ ([], s)
  dsimp only
  split
  · exact .inr ⟨_, _, rfl⟩
  · exact .inl rfl

theorem takeOctets_of_ne {s : State} {k : Nat} (h : txKind s k ≠ 3) : takeOctets s k = ([], s) := by
  unfold takeOctets
  simp [h]

section
variable {k : Nat} {s : State} (g : List TxStore)

theorem lineTransmit_idle (h : txKind s k = 0) :
    lineTransmit k g s = setPort k { portAt s k with tx := .idle, monitor := .hunt, monAge := 0, txClean := 0 } s := if_pos h

theorem dccTaken_monAge (c : Bool) (x : LinePort) : (if c then cntAdd 14 1 x else x).monAge = x.monAge := by split <;> rfl

/-- A transmitter that is not idle sends a frame of its kind, which the monitor counts; under MS-AIS K1 is all ones (R64, R75, R219, R236). -/
theorem lineTransmit_sends (h : txKind s k ≠ 0) :
    let u := (takeOctets s k).2
    ∃ z, lineTransmit k g s = setPort k z u ∧ z.tx.kind = txKind s k ∧ z.monAge = min 8 ((portAt u k).monAge + 1) ∧
      z.tx.k1 = (if txKind s k = 1 then 255 else if bit (mspWord u [] k) 0 = true then (tget ProtCtl.reset u.prot.msp k).txK1 else 0) := by
  refine ⟨_, if_neg h, rfl, ?_, ?_⟩
  · refine congrArg (fun a => min 8 (a + 1)) ?_
    exact (congrArg SectionPart.monAge (foldl_fst_sectionPart (txSlot_sectionPart _ k g _) _ _)).trans (dccTaken_monAge ..)
  · exact ite_congr (propext beq_iff_eq) (fun _ => rfl) (fun _ => rfl)

end

/-! The rows. -/

/-- A port as LOS is declared: an entry to HUNT from SYNC and a new LOS are counted (R216). -/
def losTaken (x : LinePort) : LinePort :=
  let y := { (if x.framer = .sync then outOfSync x else x) with
    los := true, cdrLock := false, framer := .hunt, cands := [], errRun := 0, wasOut := true }
  if x.los then y else cntAdd 4 1 y

theorem losTaken_hunts (x : LinePort) : (losTaken x).los = true ∧ (losTaken x).framer = .hunt ∧ (losTaken x).cands = [] := by
  unfold losTaken
  dsimp only
  split <;> exact ⟨rfl, rfl, rfl⟩

theorem tget_outOfSync (x : LinePort) (j : Nat) :
    tget 0 (outOfSync x).cnt j = if 3 = j then (tget 0 x.cnt j + 1) % 2 ^ 32 else tget 0 x.cnt j := tget_cntAdd 3 1 j x

theorem losTaken_cnt (x : LinePort) :
    tget 0 (losTaken x).cnt 3 = (if x.framer = .sync then (tget 0 x.cnt 3 + 1) % 2 ^ 32 else tget 0 x.cnt 3) ∧
    tget 0 (losTaken x).cnt 4 = (if x.los = true then tget 0 x.cnt 4 else (tget 0 x.cnt 4 + 1) % 2 ^ 32) := by
  unfold losTaken
  by_cases los : x.los = true <;> by_cases sync : x.framer = .sync <;> simp [los, sync, tget_cntAdd, tget_outOfSync]

theorem windowStep_ends {tick skip : Bool} {rate expo now : Nat} {x : LinePort} {w : B2Window} (h : w.ends = true) :
    windowStep tick skip rate expo now x w =
      let v : B2Window := { w with sawLof := w.sawLof || x.lof || skip || w.start.isNone }
      if tick = true then b2End x.los rate now expo v else v := by
  simp [windowStep, h]

section
variable {p : BitVec 4} {s : State}

theorem leavesPort_lineFrameReceive_outOfSync (r : LineRx) (runs : lineRuns s p.toNat = true)
    (h : ¬ ((portAt s p.toNat).framer = .sync ∧ (framed r p.toNat s).framer = .sync)) :
    LeavesPort (.lineFrameReceive p r) p.toNat s (· = framed r p.toNat s) :=
  leavesPort_of_setPort (congrArg Host.Outcome.next ((if_pos runs).trans (lineReceive_outOfSync h))) rfl

theorem leavesPort_lineFrameReceive_inSync (r : LineRx) (runs : lineRuns s p.toNat = true) (before : (portAt s p.toNat).framer = .sync)
    (after : (framed r p.toNat s).framer = .sync) (los : (portAt s p.toNat).los = false) (lof : (portAt s p.toNat).lof = false) :
    LeavesPort (.lineFrameReceive p r) p.toNat s fun z =>
      z.framer = .sync ∧ tget 0 z.cnt 0 = (tget 0 (portAt s p.toNat).cnt 0 + r.b1) % 2 ^ 32 ∧
      tget 0 z.cnt 1 = (tget 0 (portAt s p.toNat).cnt 1 + r.b2) % 2 ^ 32 ∧ z.lastB2 = r.b2 ∧
      ((portAt s p.toNat).kCand = r.k1.toNat + 256 * r.k2.toNat → 2 ≤ (portAt s p.toNat).kRun → z.k1 = r.k1.toNat ∧ z.k2 = r.k2.toNat) := by
  obtain ⟨z, next, part⟩ := lineReceive_sectionPart before after los lof
  refine leavesPort_of_setPort (congrArg Host.Outcome.next ((if_pos runs).trans next)) ⟨congrArg SectionPart.framer part,
    congrArg SectionPart.b1 part, congrArg SectionPart.b2 part, congrArg SectionPart.lastB2 part, fun same run => ?_⟩
  obtain ⟨k1, k2⟩ := rxOverhead_accepts same run
  exact ⟨(congrArg SectionPart.k1 part).trans k1, (congrArg SectionPart.k2 part).trans k2⟩

theorem leavesPort_losDeclare (runs : lineRuns s p.toNat = true) : LeavesPort (.losDeclare p) p.toNat s fun z =>
    z.los = true ∧ z.framer = .hunt ∧ z.cands = [] ∧
    tget 0 z.cnt 3 = (if (portAt s p.toNat).framer = .sync then (tget 0 (portAt s p.toNat).cnt 3 + 1) % 2 ^ 32 else tget 0 (portAt s p.toNat).cnt 3) ∧
    tget 0 z.cnt 4 = (if (portAt s p.toNat).los = true then tget 0 (portAt s p.toNat).cnt 4 else (tget 0 (portAt s p.toNat).cnt 4 + 1) % 2 ^ 32) := by
  refine leavesPort_of_setPort (x := losTaken (portAt s p.toNat)) (congrArg Host.Outcome.next (if_pos runs)) ?_
  obtain ⟨los, hunt, empty⟩ := losTaken_hunts (portAt s p.toNat)
  exact ⟨los, hunt, empty, losTaken_cnt _⟩

theorem leavesPort_sdWindowEnd (runs : lineRuns s p.toNat = true)
    (due : windowDue s (bits (lpCfg s p.toNat) 0 2) (portAt s p.toNat).sdWin = true) : LeavesPort (.sdWindowEnd p false) p.toNat s
      (· = { portAt s p.toNat with sdWin := { (portAt s p.toNat).sdWin with ends := true } }) :=
  leavesPort_of_setPort (congrArg Host.Outcome.next ((if_neg (not_not.mpr runs)).trans (if_pos due))) rfl

theorem leavesPort_excWindowEnd (runs : lineRuns s p.toNat = true)
    (due : windowDue s (bits (lpCfg s p.toNat) 0 2) (portAt s p.toNat).excWin = true) : LeavesPort (.sdWindowEnd p true) p.toNat s
      (· = { portAt s p.toNat with excWin := { (portAt s p.toNat).excWin with ends := true } }) :=
  leavesPort_of_setPort (congrArg Host.Outcome.next ((if_neg (not_not.mpr runs)).trans (if_pos due))) rfl

/-- A port whose receiver does not frame takes nothing (R64, R80). -/
theorem exec_line_idle (h : lineRuns s p.toNat = false) : (∀ r : LineRx, exec (.lineFrameReceive p r) s = .next s) ∧
    exec (.losDeclare p) s = .next s ∧ ∀ e, exec (.sdWindowEnd p e) s = .next s := by
  have off : ¬ lineRuns s p.toNat = true := by simp [h]
  exact ⟨fun r => congrArg Host.Outcome.next (if_neg off), congrArg Host.Outcome.next (if_neg off),
    fun e => congrArg Host.Outcome.next (if_pos off)⟩

theorem leavesPort_lineFrameTransmit_idle (g : List TxStore) (h : txKind s p.toNat = 0) : LeavesPort (.lineFrameTransmit p g) p.toNat s
    (· = { portAt s p.toNat with tx := .idle, monitor := .hunt, monAge := 0, txClean := 0 }) :=
  leavesPort_of_setPort (congrArg Host.Outcome.next (lineTransmit_idle g h)) rfl

theorem exec_lineFrameTransmit (g : List TxStore) (h : txKind s p.toNat ≠ 0) :
    ∃ t, exec (.lineFrameTransmit p g) s = .next t ∧ (∀ q, q ≠ p.toNat → portAt t q = portAt s q) ∧
      (txKind s p.toNat ≠ 3 → t.line.gfp = s.line.gfp) ∧ OnlyIn [.line] s t ∧
      let z := portAt t p.toNat
      z.tx.kind = txKind s p.toNat ∧ z.monAge = min 8 ((portAt s p.toNat).monAge + 1) ∧
      z.tx.k1 = (if txKind s p.toNat = 1 then 255
        else if bit (mspWord s [] p.toNat) 0 = true then (tget ProtCtl.reset s.prot.msp p.toNat).txK1 else 0) := by
  obtain ⟨z, next, sent⟩ := lineTransmit_sends g h
  obtain ⟨o, taken⟩ := takeOctets_gfp s p.toNat
  refine ⟨_, congrArg Host.Outcome.next next, fun q other => ?_, fun plain => ?_, (keeps_exec (.lineFrameTransmit p g) s _ ?_).frame, ?_⟩
  · rw [portAt_setPort_ne other, taken]
    rfl
  · rw [takeOctets_of_ne plain]
    rfl
  · exact congrArg Host.Outcome.next next
  · rw [portAt_setPort_self]
    rw [taken] at sent
    exact sent

theorem leavesPort_ptrBeyondClear (beyond : (portAt s p.toNat).beyond = true) (quiet : (portAt s p.toNat).jumpFrame + 8000 ≤ s.lt.bounds) :
    LeavesPort (.ptrBeyondClear p) p.toNat s (· = { portAt s p.toNat with beyond := false }) :=
  leavesPort_of_setPort (congrArg Host.Outcome.next (if_pos ⟨beyond, quiet⟩)) rfl

theorem leavesPort_lineTxmonClear (sends : txKind s p.toNat ≠ 0) (clean : 16 ≤ (portAt s p.toNat).txClean) :
    LeavesPort (.lineTxmonClear p) p.toNat s (· = { portAt s p.toNat with txFail := false }) :=
  leavesPort_of_setPort (congrArg Host.Outcome.next (if_pos ⟨sends, clean⟩)) rfl

/-- The monitor reports a failure once it has met SYNC or had its 8 frames (R236). -/
theorem exec_lineTxmonFail (sends : txKind s p.toNat ≠ 0) (clear : (portAt s p.toNat).txFail = false)
    (judged : (portAt s p.toNat).monitor = .sync ∨ 8 ≤ (portAt s p.toNat).monAge) : exec (.lineTxmonFail p) s =
      .next (txFaultAtTake (faultRaise (65 + 4 * p.toNat)
        (setPort p.toNat { portAt s p.toNat with monitor := .hunt, txClean := 0, txFail := true } s))) := by
  have fails : ¬ ((portAt s p.toNat).monitor ≠ .sync ∧ (portAt s p.toNat).monAge < 8 ∨ (portAt s p.toNat).txFail = true) := by
    rintro (⟨young, few⟩ | again)
    · exact judged.elim young (fun full => Nat.not_le.mpr few full)
    · simp [clear] at again
  exact congrArg Host.Outcome.next ((if_neg sends).trans (if_neg fails))

theorem leavesPort_lineTxmonFail_again (sends : txKind s p.toNat ≠ 0)
    (h : (portAt s p.toNat).txFail = true ∨ ((portAt s p.toNat).monitor ≠ .sync ∧ (portAt s p.toNat).monAge < 8)) :
    LeavesPort (.lineTxmonFail p) p.toNat s (· = { portAt s p.toNat with monitor := .hunt, txClean := 0 }) :=
  leavesPort_of_setPort (congrArg Host.Outcome.next ((if_neg sends).trans (if_pos h.symm))) rfl

theorem exec_lineTxmonFail_idle (h : txKind s p.toNat = 0) : exec (.lineTxmonFail p) s = .next s := congrArg Host.Outcome.next (if_pos h)

end

/-- Settles O40: every row puts one port back; what pointers and content write in between leaves the section part (`SectionPart`). -/
theorem linePorts : Obligations.LinePorts := fun _ _ =>
  ⟨fun runs => ⟨fun r => ⟨leavesPort_lineFrameReceive_outOfSync r runs, leavesPort_lineFrameReceive_inSync r runs⟩, leavesPort_losDeclare runs,
      leavesPort_sdWindowEnd runs, leavesPort_excWindowEnd runs, fun _ _ _ _ => windowStep_ends⟩,
    exec_line_idle, fun g => ⟨leavesPort_lineFrameTransmit_idle g, exec_lineFrameTransmit g⟩, leavesPort_ptrBeyondClear,
    leavesPort_lineTxmonClear, exec_lineTxmonFail, leavesPort_lineTxmonFail_again, exec_lineTxmonFail_idle⟩

end Sys2Proof.Machine
end

section
/-!
PROOFS. A host's write of a register (R89 to R92, R103, R107, R507): one equation for each answer of a register write, for an access that neither
discards words held for the path nor ends a load of LEDGER_KEY.
-/
namespace Sys2Proof.Machine

open Sys2Proof

/-! Accesses that leave what earlier writes began. -/

theorem touch_of_none {a : Agent} {next : Option (Nat × Nat)} {s : State} (free : (pathAt s a.pk).held = none) : touch a next s = s := by
  simp [touch, free]

theorem touch_of_next {a : Agent} {key : Nat} {ws : List Nat} {s : State} (held : (pathAt s a.pk).held = some (key, ws)) :
    touch a (some (key, ws.length)) s = s := by
  simp [touch, held]

theorem dropKeyLoad_of_keyFree {off : Nat} {s : State} (h : s.led.keyWords = [] ∨ off = 0x7C0040 + 4 * s.led.keyWords.length) :
    dropKeyLoad off s = s :=
  if_neg fun ⟨loading, other⟩ => h.elim loading other

/-! What a word adds to a register of several words. -/

section
variable {a : Agent} {key v words : Nat} {ws : List Nat} {f : Nat → State → Nat × State} {s : State}

theorem heldWords_zero : heldWords s a.pk key 0 v = some [v] := rfl

theorem heldWords_next (held : (pathAt s a.pk).held = some (key, ws)) (begun : 0 < ws.length) :
    heldWords s a.pk key ws.length v = some (ws ++ [v]) := by
  simp [heldWords, held, Nat.ne_of_gt begun]

theorem multiWrite_held {word : Nat} (h : heldWords s a.pk key word v = some ws) (short : ws.length < words) :
    multiWrite a key word words v f s = (oDone, setHeld a.pk (some (key, ws)) s) := by
  simp [multiWrite, h, short]

theorem multiWrite_last {word : Nat} (h : heldWords s a.pk key word v = some ws) (full : words ≤ ws.length) :
    multiWrite a key word words v f s = f (wordsVal ws) (setHeld a.pk none s) := by
  simp [multiWrite, h, Nat.not_lt.mpr full]

end

/-- A register of several words has more than one. -/
theorem one_lt_words_of_multiWord {d : RegDesc} (h : multiWord d = true) : 1 < (d.bytes + 3) / 4 := by
  obtain ⟨wide, -⟩ := Bool.and_eq_true_iff.mp h
  have : 4 < d.bytes := of_decide_eq_true wide
  omega

/-- A register of several words takes the word that the offset leads to as its next. -/
theorem regNext_multi {a : Agent} {off : Nat} {r : RegAt} {s : State} (hit : regAt s a.seat a.pk off true = .reg r)
    (multi : multiWord r.desc = true) : regNext s a off = some (r.key, r.word) := by
  simp [regNext, hit, multi]

/-! The answers of a register write. -/

/-- The Keeper writes every register; another Seat those that are not the Keeper's alone (R92, R505). -/
theorem not_keeperOnly_of_allowed {d : RegDesc} {a : Agent} (allowed : keeperOnly d = false ∨ a.seat = 0) :
    ¬ (keeperOnly d = true ∧ a.seat ≠ 0) :=
  fun ⟨keeper, other⟩ => allowed.elim (by simp [keeper]) other

section
variable {a : Agent} {off v : Nat} {s : State} (still : dropKeyLoad off (touch a (regNext s a off) s) = s)
include still

theorem regWrite_reserved (nowhere : regLocate off = none) : regWrite a off v s = (some oDone, s) := by
  simp [regWrite, still, nowhere]

theorem regWrite_keeperOnly {l : RegLoc} (found : regLocate off = some l) (keeper : keeperOnly l.desc = true) (other : a.seat ≠ 0) :
    regWrite a off v s = (some oSeat, s) := by
  simp [regWrite, still, found, keeper, other]

section
variable {l : RegLoc} (found : regLocate off = some l) (allowed : keeperOnly l.desc = false ∨ a.seat = 0)
include found allowed

theorem regWrite_notFitted (absent : regAt s a.seat a.pk off true = .notFitted) : regWrite a off v s = (none, s) := by
  simp only [regWrite, still, found, if_neg (not_keeperOnly_of_allowed allowed), absent]

theorem regWrite_readOnly {r : RegAt} (hit : regAt s a.seat a.pk off true = .reg r) (fixed : readOnly r.desc = true) :
    regWrite a off v s = (some oDone, s) := by
  simp only [regWrite, still, found, if_neg (not_keeperOnly_of_allowed allowed), hit, fixed, if_true]

theorem regWrite_mayNot {r : RegAt} (hit : regAt s a.seat a.pk off true = .reg r) (writes : readOnly r.desc = false)
    (rights : mayWrite a.seat r = false) : regWrite a off v s = (some oSeat, s) := by
  simp [regWrite, still, found, not_keeperOnly_of_allowed allowed, hit, writes, rights]

theorem regWrite_multi {r : RegAt} (hit : regAt s a.seat a.pk off true = .reg r) (writes : readOnly r.desc = false)
    (rights : mayWrite a.seat r = true) (multi : multiWord r.desc = true) :
    regWrite a off v s =
      let x := multiWrite a r.key r.word ((r.desc.bytes + 3) / 4) v (regWriteVal a r) s
      (some x.1, x.2) := by
  simp [regWrite, still, found, not_keeperOnly_of_allowed allowed, hit, writes, rights, multi]

end
end

/-! The row. -/

section
variable {w : HostWho} {o : BitVec 24} {v : BitVec 32} {s : State}

/-- Nothing in DARK (R69) or for a disabled Seat (R89). -/
theorem exec_hostRegisterWrite_idle (h : alive s = false ∨ seatEnabled s (hostAgent w).seat = false) :
    exec (.hostRegisterWrite w o v) s = .next s := by
  refine congrArg Host.Outcome.next ?_
  rcases h with dark | disabled
  · exact if_neg (by simp [dark])
  · exact ite_eq_right_iff.mpr fun _ => if_neg (by simp [disabled])

/-- An offset of register space: the row ends with what the register write answers. -/
theorem exec_hostRegisterWrite (runs : alive s = true) (enabled : seatEnabled s (hostAgent w).seat = true)
    (place : isObjOff (o.toNat / 4 * 4) = false ∧ isMemOff (o.toNat / 4 * 4) = false) :
    exec (.hostRegisterWrite w o v) s =
      .next (endWrite (hostAgent w) (o.toNat / 4 * 4) (regWrite (hostAgent w) (o.toNat / 4 * 4) v.toNat s)) := by
  have space (be x : Nat) : seatWrite (hostAgent w) (o.toNat / 4 * 4) be x s = regWrite (hostAgent w) (o.toNat / 4 * 4) x s := by
    simp [seatWrite, place]
  refine congrArg Host.Outcome.next ((if_pos runs).trans ((if_pos enabled).trans ?_))
  rw [space]

/-- A word that reaches a register of several words is held, or is the last of its value. -/
theorem exec_hostRegisterWrite_multi {r : RegAt} (h : Reaches w (o.toNat / 4 * 4) r s) (multi : multiWord r.desc = true)
    (next : touch (hostAgent w) (some (r.key, r.word)) s = s) :
    exec (.hostRegisterWrite w o v) s = .next (hostEnd (hostAgent w) (o.toNat / 4 * 4)
      (multiWrite (hostAgent w) r.key r.word ((r.desc.bytes + 3) / 4) v.toNat (regWriteVal (hostAgent w) r) s)) := by
  obtain ⟨l, found, desc⟩ := regAt_desc h.hit
  have still : dropKeyLoad (o.toNat / 4 * 4) (touch (hostAgent w) (regNext s (hostAgent w) (o.toNat / 4 * 4)) s) = s := by
    rw [regNext_multi h.hit multi, next, dropKeyLoad_of_keyFree h.keyLoad]
  have allowed : keeperOnly l.desc = false ∨ (hostAgent w).seat = 0 := by
    rw [← desc]
    exact (Bool.eq_false_or_eq_true _).symm.imp_right h.rank
  rw [exec_hostRegisterWrite h.runs h.enabled h.place, regWrite_multi still found allowed h.hit h.writes h.rights multi]
  rfl

theorem exec_hostRegisterWrite_first {r : RegAt} (h : Reaches w (o.toNat / 4 * 4) r s) (free : (pathAt s (hostAgent w).pk).held = none)
    (multi : multiWord r.desc = true) (first : r.word = 0) :
    exec (.hostRegisterWrite w o v) s = .next (setHeld (hostAgent w).pk (some (r.key, [v.toNat])) s) := by
  rw [exec_hostRegisterWrite_multi h multi (touch_of_none free), first,
    multiWrite_held heldWords_zero (one_lt_words_of_multiWord multi), hostEnd_done]

section
variable {r : RegAt} {ws : List Nat} (h : Reaches w (o.toNat / 4 * 4) r s) (held : (pathAt s (hostAgent w).pk).held = some (r.key, ws))
  (multi : multiWord r.desc = true) (word : r.word = ws.length) (begun : 0 < ws.length)
include h held multi word begun

theorem exec_hostRegisterWrite_more (short : ws.length + 1 < (r.desc.bytes + 3) / 4) :
    exec (.hostRegisterWrite w o v) s = .next (setHeld (hostAgent w).pk (some (r.key, ws ++ [v.toNat])) s) := by
  rw [exec_hostRegisterWrite_multi h multi (by rw [word, touch_of_next held]), word,
    multiWrite_held (heldWords_next held begun) (by simpa using short), hostEnd_done]

theorem exec_hostRegisterWrite_last (full : (r.desc.bytes + 3) / 4 ≤ ws.length + 1) :
    exec (.hostRegisterWrite w o v) s = .next (hostEnd (hostAgent w) (o.toNat / 4 * 4)
      (regWriteVal (hostAgent w) r (wordsVal (ws ++ [v.toNat])) (setHeld (hostAgent w).pk none s))) := by
  rw [exec_hostRegisterWrite_multi h multi (by rw [word, touch_of_next held]), word,
    multiWrite_last (heldWords_next held begun) (by simpa using full)]

end

end

/-- Settles O56: a write that reaches its register applies or holds its word; what keeps it from the register decides in the order of `regWrite`. -/
theorem registerWords : Obligations.RegisterWords := by
  intro w o v s
  refine ⟨exec_hostRegisterWrite_idle, fun r h => ⟨rowWrite_reaches h, exec_hostRegisterWrite_first h, fun ws held multi word begun =>
    ⟨exec_hostRegisterWrite_more h held multi word begun, exec_hostRegisterWrite_last h held multi word begun⟩⟩,
    fun runs enabled keyFree free noObj noMem => ?_⟩
  have still : dropKeyLoad (o.toNat / 4 * 4) (touch (hostAgent w) (regNext s (hostAgent w) (o.toNat / 4 * 4)) s) = s := by
    rw [touch_of_none free, dropKeyLoad_of_keyFree keyFree]
  rw [exec_hostRegisterWrite runs enabled ⟨noObj, noMem⟩]
  refine ⟨fun nowhere => ?_, fun l found => ⟨fun keeper other => ?_, fun allowed => ⟨fun absent => ?_, fun r hit => ⟨fun fixed => ?_,
    fun writes rights => ?_⟩⟩⟩⟩
  · rw [regWrite_reserved still nowhere]
    rfl
  · rw [regWrite_keeperOnly still found keeper other]
    rfl
  · rw [regWrite_notFitted still found allowed absent]
    rfl
  · rw [regWrite_readOnly still found allowed hit fixed]
    rfl
  · rw [regWrite_mayNot still found allowed hit writes rights]
    rfl

end Sys2Proof.Machine
end

section
/-!
PROOFS. The ledger's own events (R136, R137, R139, R141, R145 to R147): when a spill batch begins, and what the end of one leaves.
-/
namespace Sys2Proof.Machine

open Sys2Proof

section
variable {s : State}

/-! The START and GAP records that wait for space. -/

theorem exec_startRecord_waiting (waits : s.led.startWaiting.isSome = true) (room : 2 ≤ ledgerFree s) :
    exec .startRecord s = .next (reportLoss (ledgerDrain s)) := by
  obtain ⟨r, start⟩ := Option.isSome_iff_exists.mp waits
  change execStartRecord s = _
  rw [execStartRecord, start]
  exact congrArg Host.Outcome.next (if_pos room)

theorem exec_startRecord_idle (appended : s.led.startWaiting = none) : exec .startRecord s = .next s := by
  change execStartRecord s = _
  rw [execStartRecord, appended]

theorem exec_gapAppend_lost (lost : s.led.lost ≠ 0) : exec .gapAppend s = .next (reportLoss (ledgerDrain s)) :=
  congrArg Host.Outcome.next (if_pos lost)

theorem exec_gapAppend_idle (whole : s.led.lost = 0) : exec .gapAppend s = .next s :=
  congrArg Host.Outcome.next (if_neg (not_not.mpr whole))

/-! A batch begins (R146, R147). -/

section
variable (enabled : spillEn s = true) (push : spillPull s = false) (free : s.led.batch = none)
include enabled push free

theorem exec_spillBatchStart_full (working : s.led.spillFault = false) (full : 8 ≤ unspilled s) :
    exec .spillBatchStart s = .next (startBatch s) :=
  congrArg Host.Outcome.next (if_pos (by simp [enabled, push, free, working, full]))

theorem exec_spillRetry_tick (failed : s.led.spillFault = true) (tick : s.lt.frame % 8 = 0) :
    exec .spillRetry s = .next (startBatch s) :=
  congrArg Host.Outcome.next (if_pos (by simp [enabled, push, free, failed, tick]))

end

theorem startBatch_of_ne_zero (entries : min (unspilled s) (spillRoom s) ≠ 0) :
    startBatch s = { s with led := { s.led with
      batch := some ⟨s.led.prod, min (unspilled s) (spillRoom s)⟩, hostOut := batchWrites s (min (unspilled s) (spillRoom s)) } } :=
  if_neg entries

/-! The batch in flight ends (R146, R147). -/

/-- The state with a batch done: PROD behind it, its entries released, and the appends that waited for their space made. -/
def batchReleased (b : SpillBatch) (s : State) : State :=
  let p := wrap32 b.from_ b.count
  reportLoss (ledgerDrain (releaseTo p { s with led := { s.led with batch := none, prod := p } }))

section
variable {b : SpillBatch} (flight : s.led.batch = some b)
include flight

theorem exec_spillFlushComplete :
    exec .spillFlushComplete s = .next (if (batchReleased b s).led.spillFault = true
      then spillRecord 1 { batchReleased b s with led := { (batchReleased b s).led with spillFault := false } } else batchReleased b s) := by
  change execSpillFlushComplete s = _
  rw [execSpillFlushComplete, flight]
  rfl

theorem exec_spillFlushComplete_working (working : (batchReleased b s).led.spillFault = false) :
    exec .spillFlushComplete s = .next (batchReleased b s) := by
  rw [exec_spillFlushComplete flight, if_neg (by simp [working])]

theorem exec_spillFlushComplete_failed (failed : (batchReleased b s).led.spillFault = true) :
    exec .spillFlushComplete s =
      .next (spillRecord 1 { batchReleased b s with led := { (batchReleased b s).led with spillFault := false } }) := by
  rw [exec_spillFlushComplete flight, if_pos failed]

/-- While SPILL_FAULT stands, a failure adds no record: the first SPILL record has told of it. -/
theorem spillFail_failed (failed : s.led.spillFault = true) (cause : Nat) :
    spillFail cause s = { s with led := { s.led with batch := none } } := by
  rw [spillFail, flight]
  exact if_pos failed

end

/-- The link down is the cause ahead of what the flush read returned. -/
theorem exec_spillFlushFail (urCa : Bool) :
    exec (.spillFlushFail urCa) s = .next (spillFail (if s.host.linkUp = false then 2 else if urCa then 1 else 0) s) := by
  change execSpillFlushFail s urCa = _
  rw [execSpillFlushFail]
  cases s.host.linkUp with
  | false => rfl
  | true => rfl

end

/-- Settles O38: a batch begins as `startBatch` has it, and ends in `batchReleased` or by `spillFail`; the other rows are the appends that wait. -/
theorem ledgerEvents : Obligations.LedgerEvents := by
  intro s
  refine ⟨exec_startRecord_waiting, exec_startRecord_idle, rfl, exec_gapAppend_lost, exec_gapAppend_idle, rfl,
    fun enabled push free entries => ?_, fun b flight => ⟨exec_spillFlushComplete_working flight, exec_spillFlushComplete_failed flight,
      fun urCa => ⟨exec_spillFlushFail urCa, fun failed => ?_⟩⟩⟩
  · rw [← startBatch_of_ne_zero entries]
    exact ⟨exec_spillBatchStart_full enabled push free, exec_spillRetry_tick enabled push free⟩
  · rw [exec_spillFlushFail, spillFail_failed flight failed]

end Sys2Proof.Machine
end

section
/-!
PROOFS. The register file and the issue of a Celec instruction (R151, R159, R190): what an instruction of a ready strand answers, and the context that
an arithmetic or logic instruction leaves.
-/
namespace Sys2Proof.Machine

open Sys2Proof

/-- Settles O7: g0 is neither stored nor read, and another register reads what was put last. -/
theorem registerFile : Obligations.RegisterFile :=
  fun t r q v => ⟨t.reg_zero, rfl, t.reg_setReg r q v⟩

section
variable {i : Instr} {n : BitVec 6} {s : State}

/-- An instruction of a ready strand does what its body says, where its word spells it and no reserved field is set. -/
theorem exec_of_celec {u : Option Nat} {op : Nat} {bad : Bool} {body : Nat → State → State} {t : State} (ready : Ready s n)
    (spelled : u = none) (ok : bad = false) (meaning : exec i s = celec n u op bad body s) (does : body n.toNat s = t) : exec i s = .next t := by
  rw [meaning, spelled, celec_ready ready, ok, ← does]
  rfl

/-- An operation on two registers puts its result and its flags. -/
theorem retires_aluA {f : FormA} {bad : Bool} {g : Word → Word → Flags → Word × Flags} {r : Word} {fl : Flags} (ready : Ready s n)
    (spelled : f.unassigned = none) (ok : bad = false) (meaning : exec i s = aluA n f bad g s)
    (result : g ((strandAt s n.toNat).reg f.ra.toNat) ((strandAt s n.toNat).reg f.rb.toNat) (strandAt s n.toNat).flags = (r, fl)) :
    Retires i n s s ((strandAt s n.toNat).gives f.rd r fl) :=
  retires_of (exec_of_celec ready spelled ok meaning rfl) rfl (by simp only [result]; rfl)

/-- An operation on a register and the immediate puts its result and its flags. -/
theorem retires_aluI {f : FormI} {op : Nat} {bad : Bool} {imm : Word} {g : Word → Word → Flags → Word × Flags} {r : Word} {fl : Flags}
    (ready : Ready s n) (spelled : f.unassigned = none) (ok : bad = false) (meaning : exec i s = aluI n op f bad imm g s)
    (result : g ((strandAt s n.toNat).reg f.ra.toNat) imm (strandAt s n.toNat).flags = (r, fl)) :
    Retires i n s s ((strandAt s n.toNat).gives f.rd r fl) :=
  retires_of (exec_of_celec ready spelled ok meaning rfl) rfl (by simp only [result]; rfl)

end

/-- A result for g0 is discarded; the flags stand. -/
theorem Strand.gives_zero (t : Strand) {rd : BitVec 4} (h : rd = 0) (r : Word) (fl : Flags) : t.gives rd r fl = { t with flags := fl } := by
  subst h; rfl

/-- A result under flags that stand is a register written. -/
theorem Strand.gives_flags (t : Strand) (rd : BitVec 4) (r : Word) : t.gives rd r t.flags = t.setReg rd.toNat r := by
  unfold Strand.gives Strand.setReg; split <;> rfl

theorem auxBad_false {f : FormA} (aux : f.aux = 0) : auxBad f = false := by simp [auxBad, aux]
theorem auxRbBad_false {f : FormA} (aux : f.aux = 0) (rb : f.rb = 0) : auxRbBad f = false := by simp [auxRbBad, aux, rb]
theorem auxRdBad_false {f : FormA} (aux : f.aux = 0) (rd : f.rd = 0) : auxRdBad f = false := by simp [auxRdBad, aux, rd]
theorem reqRbBad_false {f : FormA} (aux : f.aux = 0) (rb : f.rb = 0) : reqRbBad f = false := by simp [reqRbBad, aux, rb]

end Sys2Proof.Machine
end

section
/-!
PROOFS. Additions and subtractions (R162, R163) and the conditions (R161): the carry and the overflow of an exact result, and what they say of two words
compared.
-/
namespace Sys2Proof.Machine

open Sys2Proof

/-- The word of an integer reads as that integer unless it does not fit. -/
theorem ne_toInt_ofInt_iff (e : Int) : e ≠ (BitVec.ofInt 32 e).toInt ↔ e < -2 ^ 31 ∨ 2 ^ 31 ≤ e := by
  rw [BitVec.toInt_ofInt, Int.bmod_def]
  norm_num
  split <;> omega

/-- The overflow flag of a result that is the word of an exact one. -/
theorem overflow_eq {e : Int} {r : Word} (h : r = BitVec.ofInt 32 e) : decide (e ≠ r.toInt) = decide (e < -2 ^ 31 ∨ 2 ^ 31 ≤ e) := by
  rw [h]; exact decide_eq_decide.mpr (ne_toInt_ofInt_iff e)

theorem add_eq_ofInt (a b : Word) (c : Nat) : a + b + BitVec.ofNat 32 c = BitVec.ofInt 32 (a.toInt + b.toInt + c) := by
  simp [BitVec.ofInt_add]

theorem sub_eq_ofInt (a b : Word) (c : Nat) : a - b - BitVec.ofNat 32 c = BitVec.ofInt 32 (a.toInt - b.toInt - c) := by
  simp [Int.sub_eq_add_neg, BitVec.ofInt_add, BitVec.ofInt_neg, BitVec.sub_eq_add_neg]

theorem mul_eq_ofInt (a b : Word) : a * b = BitVec.ofInt 32 (a.toInt * b.toInt) := by
  simp [BitVec.ofInt_mul]

theorem addOp_eq (ci : Bool) (a b : Word) (f : Flags) :
    let r := a + b + BitVec.ofNat 32 (b2n ci)
    let exact := a.toInt + b.toInt + b2n ci
    addOp ci a b f = (r, ⟨r == 0, r.msb, decide (2 ^ 32 ≤ a.toNat + b.toNat + b2n ci), decide (exact < -2 ^ 31 ∨ 2 ^ 31 ≤ exact), f.t⟩) := by
  intro r exact
  rw [← overflow_eq (e := exact) (add_eq_ofInt a b (b2n ci))]
  rfl

theorem subOp_eq (bi : Bool) (a b : Word) (f : Flags) :
    let r := a - b - BitVec.ofNat 32 (b2n bi)
    let exact := a.toInt - b.toInt - b2n bi
    subOp bi a b f = (r, ⟨r == 0, r.msb, decide (a.toNat < b.toNat + b2n bi), decide (exact < -2 ^ 31 ∨ 2 ^ 31 ≤ exact), f.t⟩) := by
  intro r exact
  rw [← overflow_eq (e := exact) (sub_eq_ofInt a b (b2n bi))]
  rfl

/-- Without a carry in. -/
theorem addOp_false (a b : Word) (f : Flags) : addOp false a b f =
    (a + b, ⟨a + b == 0, (a + b).msb, decide (2 ^ 32 ≤ a.toNat + b.toNat),
      decide (a.toInt + b.toInt < -2 ^ 31 ∨ 2 ^ 31 ≤ a.toInt + b.toInt), f.t⟩) := by
  simpa [b2n] using addOp_eq false a b f

/-- Without a borrow in. -/
theorem subOp_false (a b : Word) (f : Flags) : subOp false a b f =
    (a - b, ⟨a - b == 0, (a - b).msb, decide (a.toNat < b.toNat),
      decide (a.toInt - b.toInt < -2 ^ 31 ∨ 2 ^ 31 ≤ a.toInt - b.toInt), f.t⟩) := by
  simpa [b2n] using subOp_eq false a b f

/-- Settles O9: each result is the word of the exact one, so V says whether that fits. -/
theorem addSubtract : Obligations.AddSubtract := by
  refine ⟨?_, ?_⟩
  · intro n f s ready spelled aux x a b ci fl
    have ok := auxBad_false aux
    refine ⟨retires_aluA ready spelled ok rfl (addOp_false ..), retires_aluA ready spelled ok rfl (addOp_eq ..),
      retires_aluA ready spelled ok rfl (subOp_false ..), retires_aluA ready spelled ok rfl (subOp_eq ..), fun rd => ?_⟩
    rw [← x.gives_zero rd (a - b)]
    exact retires_aluA ready spelled (auxRdBad_false aux rd) rfl (subOp_false ..)
  · intro n f s ready spelled x a i fl
    refine ⟨retires_aluI ready spelled rfl rfl (addOp_false ..), fun rd => ?_⟩
    rw [← x.gives_zero rd (a - i)]
    exact retires_aluI ready spelled (by simp [rd]) rfl (subOp_false ..)

end Sys2Proof.Machine
end

section
/-!
PROOFS. Conditions, branches and jumps (R161, R181): what the flags of a compare say of the two words, and where control goes.
-/
namespace Sys2Proof.Machine

open Sys2Proof

theorem condHolds_table (fl : Flags) :
    condHolds 0 fl = fl.z ∧ condHolds 1 fl = !fl.z ∧ condHolds 2 fl = fl.c ∧ condHolds 3 fl = !fl.c ∧ condHolds 4 fl = fl.n ∧
    condHolds 5 fl = !fl.n ∧ condHolds 6 fl = fl.t ∧ condHolds 7 fl = !fl.t ∧ condHolds 8 fl = (!fl.c && !fl.z) ∧
    condHolds 9 fl = (fl.c || fl.z) ∧ condHolds 10 fl = (fl.n != fl.v) ∧ condHolds 11 fl = (fl.n == fl.v) ∧
    condHolds 12 fl = (!fl.z && fl.n == fl.v) ∧ condHolds 13 fl = (fl.z || fl.n != fl.v) ∧ condHolds 14 fl = fl.v ∧ condHolds 15 fl = true :=
  ⟨rfl, rfl, rfl, rfl, rfl, rfl, rfl, rfl, rfl, rfl, rfl, rfl, rfl, rfl, rfl, rfl⟩

/-- The flags of a compare (R162). -/
def cmpFlags (a b : Word) (t : Bool) : Flags :=
  ⟨a - b == 0, (a - b).msb, decide (a.toNat < b.toNat), decide (a.toInt - b.toInt < -2 ^ 31 ∨ 2 ^ 31 ≤ a.toInt - b.toInt), t⟩

theorem cmpFlags_z (a b : Word) (t : Bool) : (cmpFlags a b t).z = decide (a = b) := by
  rw [decide_eq_decide.mpr sub_eq_zero.symm]
  exact beq_eq_decide (a - b) 0

/-- The sign of the difference is that of the exact one, unless it overflows. -/
theorem cmpFlags_signed (a b : Word) (t : Bool) : ((cmpFlags a b t).n != (cmpFlags a b t).v) = decide (a.toInt < b.toInt) := by
  have ha := BitVec.toInt_lt (x := a)
  have la := BitVec.le_toInt a
  have hb := BitVec.toInt_lt (x := b)
  have lb := BitVec.le_toInt b
  have hd : (a - b).toInt = (a.toInt - b.toInt).bmod (2 ^ 32) := BitVec.toInt_sub
  rw [Int.bmod_def] at hd
  norm_num at ha la hb lb hd
  have hn : (cmpFlags a b t).n = decide ((a - b).toInt < 0) := BitVec.msb_eq_toInt (x := a - b)
  rw [Bool.eq_iff_iff, bne_iff_ne, ne_eq, hn, Bool.eq_iff_iff, decide_eq_true_iff, decide_eq_true_iff]
  simp only [cmpFlags, decide_eq_true_iff]
  norm_num
  split at hd <;> omega

/-- What each relation says after a compare (R161). -/
theorem condHolds_cmpFlags (a b : Word) (t : Bool) :
    condHolds 0 (cmpFlags a b t) = decide (a = b) ∧ condHolds 1 (cmpFlags a b t) = decide (a ≠ b) ∧
    condHolds 2 (cmpFlags a b t) = decide (a.toNat < b.toNat) ∧ condHolds 3 (cmpFlags a b t) = decide (b.toNat ≤ a.toNat) ∧
    condHolds 8 (cmpFlags a b t) = decide (b.toNat < a.toNat) ∧ condHolds 9 (cmpFlags a b t) = decide (a.toNat ≤ b.toNat) ∧
    condHolds 10 (cmpFlags a b t) = decide (a.toInt < b.toInt) ∧ condHolds 11 (cmpFlags a b t) = decide (b.toInt ≤ a.toInt) ∧
    condHolds 12 (cmpFlags a b t) = decide (b.toInt < a.toInt) ∧ condHolds 13 (cmpFlags a b t) = decide (a.toInt ≤ b.toInt) := by
  have z := cmpFlags_z a b t
  have c : (cmpFlags a b t).c = decide (a.toNat < b.toNat) := rfl
  have lt := cmpFlags_signed a b t
  have ge : ((cmpFlags a b t).n == (cmpFlags a b t).v) = decide (b.toInt ≤ a.toInt) := by
    rw [← Bool.not_not (_ == _), ← bne, lt, ← decide_not, decide_eq_decide, Int.not_lt]
  have eqN : decide (a = b) = decide (a.toNat = b.toNat) := decide_eq_decide.mpr BitVec.toNat_inj.symm
  have eqI : decide (a = b) = decide (a.toInt = b.toInt) := decide_eq_decide.mpr BitVec.toInt_inj.symm
  obtain ⟨h0, h1, h2, h3, -, -, -, -, h8, h9, h10, h11, h12, h13, -⟩ := condHolds_table (cmpFlags a b t)
  rw [h0, h1, h2, h3, h8, h9, h10, h11, h12, h13, z, c, lt, ge]
  refine ⟨rfl, decide_not.symm, rfl, ?_, ?_, ?_, rfl, rfl, ?_, ?_⟩
  · rw [← decide_not, decide_eq_decide, Nat.not_lt]
  · rw [eqN, ← decide_not, ← decide_not, ← Bool.decide_and, decide_eq_decide]; omega
  · rw [eqN, ← Bool.decide_or, decide_eq_decide]; omega
  · rw [eqI, ← decide_not, ← Bool.decide_and, decide_eq_decide]; omega
  · rw [eqI, ← Bool.decide_or, decide_eq_decide]; omega

/-- The mask of a code address takes an aligned word modulo 4 MiB. -/
theorem and_codeMask {w : Word} (h : w.toNat % 4 = 0) : w &&& 0x3FFFFC = w % 0x400000 := by
  apply BitVec.eq_of_toNat_eq
  have mask : (0x3FFFFC : Word).toNat = (2 ^ 20 - 1) <<< 2 := rfl
  have aligned : w.toNat = (w.toNat / 4) <<< 2 := by rw [Nat.shiftLeft_eq]; omega
  rw [BitVec.toNat_and, mask, aligned, ← Nat.shiftLeft_and_distrib, Nat.and_two_pow_sub_one_eq_mod, Nat.shiftLeft_eq, BitVec.toNat_umod]
  have modulus : (0x400000 : Word).toNat = 0x400000 := rfl
  rw [modulus]
  omega

/-- Behind an aligned address the next one is four on, modulo 4 MiB. -/
theorem nextPc_eq {pc : Word} (aligned : pc.toNat % 4 = 0) : nextPc pc = (pc + 4) % 0x400000 :=
  and_codeMask (by rw [BitVec.toNat_add]; simp; omega)

theorem branchTarget_eq {pc : Word} (aligned : pc.toNat % 4 = 0) (off : BitVec 22) :
    branchTarget pc off = (pc + 4 * off.signExtend 32) % 0x400000 := by
  rw [branchTarget, BitVec.mul_comm]
  refine and_codeMask ?_
  rw [BitVec.toNat_add, BitVec.toNat_mul]
  simp
  omega

section
variable {i : Instr} {n : BitVec 6} {s : State}

/-- Control moves to a target. -/
theorem ran_of_jumpTo {target : Word} {f : Strand → Strand} {x : Strand} (h : exec i s = .next (jumpTo n.toNat target f s))
    (hx : { f (strandAt s n.toNat) with pc := target } = x) : Ran i n s (setStrand n.toNat x s) :=
  hx ▸ ran_reschedule h

section
variable {f : FormB} {op : Nat} {link : Bool} (ready : Ready s n) (spelled : f.unassigned = none) (meaning : exec i s = branch n op f link s)
include ready spelled meaning

/-- A branch that is taken. -/
theorem exec_branch_taken (holds : condHolds f.cond (strandAt s n.toNat).flags = true) :
    exec i s = .next (jumpTo n.toNat (branchTarget (strandAt s n.toNat).pc f.off) (fun t => if link then t.setReg 15 (nextPc t.pc) else t) s) :=
  exec_of_celec ready spelled rfl meaning (if_pos holds)

/-- A branch that is not taken. -/
theorem retires_branch_untaken (fails : condHolds f.cond (strandAt s n.toNat).flags = false) : Retires i n s s (strandAt s n.toNat) :=
  retires_of (exec_of_celec ready spelled rfl meaning (if_neg (by simp [fails]))) rfl rfl

end

theorem exec_csel (n : BitVec 6) (f : FormA) (s : State) : exec (.csel n f) s = aluA n f (decide (16 ≤ f.aux.toNat))
    (fun a b fl => (if condHolds (f.aux.extractLsb' 0 4) fl then a else b, fl)) s := by
  change execCsel n f s = _; rfl

/-- CSEL selects by aux[3:0] and leaves the flags. -/
theorem retires_csel {f : FormA} (ready : Ready s n) (spelled : f.unassigned = none) (aux : f.aux.toNat < 16) :
    Retires (.csel n f) n s s ((strandAt s n.toNat).gives f.rd
      (if condHolds (f.aux.setWidth 4) (strandAt s n.toNat).flags then (strandAt s n.toNat).reg f.ra.toNat else (strandAt s n.toNat).reg f.rb.toNat)
      (strandAt s n.toNat).flags) := by
  rw [BitVec.setWidth_eq_extractLsb' (by decide)]
  have ok : decide (16 ≤ f.aux.toNat) = false := by simpa using aux
  exact retires_aluA ready spelled ok (exec_csel n f s) rfl

end

/-- Settles O8: the overflow of the difference turns its sign, so N ≠ V says that the first word is less. -/
theorem conditionCodes : Obligations.ConditionCodes := by
  refine ⟨condHolds_table, ?_, ?_, ?_⟩
  · intro n f s ready spelled aux rd a b
    refine ⟨cmpFlags a b (strandAt s n.toNat).flags.t, ?_, condHolds_cmpFlags a b _⟩
    rw [← (strandAt s n.toNat).gives_zero rd (a - b)]
    exact retires_aluA ready spelled (auxRdBad_false aux rd) rfl (subOp_false ..)
  · intro n f s ready spelled x aligned _
    by_cases holds : condHolds f.cond x.flags = true
    · rw [if_pos holds, ← branchTarget_eq aligned]
      exact ran_of_jumpTo (exec_branch_taken ready spelled rfl holds) rfl
    · rw [if_neg holds, ← nextPc_eq aligned]
      exact retires_branch_untaken ready spelled rfl (by simpa using holds)
  · intro n f s ready spelled aux x
    rw [← x.gives_flags]
    exact retires_csel ready spelled aux

section
variable {i : Instr} {n : BitVec 6} {f : FormA} {bad : Bool} {g : Strand → Strand} {s : State}
variable (ready : Ready s n) (spelled : f.unassigned = none) (ok : bad = false) (meaning : exec i s = jumpReg n f bad g s)
include ready spelled ok meaning

theorem exec_jumpReg (aligned : (regOf s n.toNat f.ra).toNat % 4 = 0) (inside : (regOf s n.toNat f.ra).toNat < 0x400000) :
    exec i s = .next (jumpTo n.toNat (regOf s n.toNat f.ra) g s) :=
  exec_of_celec ready spelled ok meaning (by simp [alignFail, aligned, checked, Nat.not_le.mpr inside])

theorem traps_jumpReg_misaligned (h : (regOf s n.toNat f.ra).toNat % 4 ≠ 0) : Traps i n s 2 4 (regOf s n.toNat f.ra).toNat false :=
  exec_of_celec ready spelled ok meaning (by simp [alignFail, h, checked, trapFail])

theorem traps_jumpReg_beyond (aligned : (regOf s n.toNat f.ra).toNat % 4 = 0) (beyond : 0x400000 ≤ (regOf s n.toNat f.ra).toNat) :
    Traps i n s 3 0 (regOf s n.toNat f.ra).toNat false :=
  exec_of_celec ready spelled ok meaning (by simp [alignFail, aligned, beyond, checked, trapFail])

end

/-- Settles O32: a branch goes by its condition, a jump by the checks of its target. -/
theorem controlFlow : Obligations.ControlFlow := by
  refine ⟨?_, ?_⟩
  · intro n f s ready spelled k x target aligned _
    have goes : target = branchTarget x.pc f.off := (branchTarget_eq aligned _).symm
    rw [goes, ← nextPc_eq aligned]
    exact ⟨fun holds => ⟨ran_of_jumpTo (exec_branch_taken ready spelled rfl holds) rfl, ran_of_jumpTo (exec_branch_taken ready spelled rfl holds) rfl⟩,
      fun fails => ⟨retires_branch_untaken ready spelled rfl fails, retires_branch_untaken ready spelled rfl fails⟩⟩
  · intro n f s ready spelled aux rb k x target
    have link := reqRbBad_false aux rb
    have plain : f.rd = 0 → (f.rd != 0 || reqRbBad f) = false := fun rd => by simp [rd, link]
    exact ⟨fun aligned inside => ⟨fun rd => ran_of_jumpTo (exec_jumpReg ready spelled (plain rd) rfl aligned inside) rfl,
        ran_of_jumpTo (exec_jumpReg ready spelled link rfl aligned inside) rfl⟩,
      fun h => ⟨fun rd => traps_jumpReg_misaligned ready spelled (plain rd) rfl h, traps_jumpReg_misaligned ready spelled link rfl h⟩,
      fun aligned beyond => ⟨fun rd => traps_jumpReg_beyond ready spelled (plain rd) rfl aligned beyond,
        traps_jumpReg_beyond ready spelled link rfl aligned beyond⟩⟩

end Sys2Proof.Machine
end

section
/-!
PROOFS. Logic, shifts, products and quotients (R162, R163): the result of each operation by what it is.
-/
namespace Sys2Proof.Machine

open Sys2Proof

/-- The number of words put side by side, the lower bits last. -/
theorem toNat_append_eq {m n : Nat} (x : BitVec m) (y : BitVec n) : (x ++ y).toNat = 2 ^ n * x.toNat + y.toNat := by
  rw [BitVec.toNat_append, Nat.shiftLeft_eq, Nat.mul_comm, Nat.two_pow_add_eq_or_of_lt y.isLt]

/-- The leading zeros of a word: the highest set bit stands below them. -/
theorem clzOf_spec (a : Word) : ∃ k : Nat, clzOf a = BitVec.ofNat 32 k ∧ k ≤ 32 ∧ a.toNat < 2 ^ (32 - k) ∧ (k < 32 → 2 ^ (31 - k) ≤ a.toNat) := by
  by_cases zero : a = 0
  · exact ⟨32, by simp [clzOf, zero], Nat.le_refl _, by simp [zero], fun h => absurd h (Nat.lt_irrefl _)⟩
  · have pos : a.toNat ≠ 0 := by simpa [← BitVec.toNat_inj] using zero
    have top : a.toNat.log2 < 32 := (Nat.log2_lt pos).mpr a.isLt
    refine ⟨31 - a.toNat.log2, by rw [clzOf, if_neg zero], by omega, ?_, fun _ => ?_⟩
    · rw [show 32 - (31 - a.toNat.log2) = a.toNat.log2 + 1 by omega]
      exact Nat.lt_log2_self
    · rw [show 31 - (31 - a.toNat.log2) = a.toNat.log2 by omega]
      exact Nat.log2_self_le pos

theorem popcOf_eq (a : Word) : popcOf a = BitVec.ofNat 32 ((List.range 32).countP (fun k => a.getLsbD k)) := by
  rw [popcOf, setPositions, List.countP_eq_length_filter]; rfl

theorem bswapOf_eq (a : Word) :
    bswapOf a = a.extractLsb' 0 8 ++ a.extractLsb' 8 8 ++ a.extractLsb' 16 8 ++ a.extractLsb' 24 8 := by
  apply BitVec.eq_of_toNat_eq
  simp only [bswapOf, bits, toNat_append_eq, BitVec.extractLsb'_toNat, BitVec.toNat_ofNat, Nat.shiftRight_eq_div_pow]
  omega

theorem minS_spec (a b : Word) : (minS a b = a ∨ minS a b = b) ∧ (minS a b).toInt ≤ a.toInt ∧ (minS a b).toInt ≤ b.toInt := by
  unfold minS; split <;> simp <;> omega

theorem maxS_spec (a b : Word) : (maxS a b = a ∨ maxS a b = b) ∧ a.toInt ≤ (maxS a b).toInt ∧ b.toInt ≤ (maxS a b).toInt := by
  unfold maxS; split <;> simp <;> omega

theorem minU_spec (a b : Word) : (minU a b = a ∨ minU a b = b) ∧ (minU a b).toNat ≤ a.toNat ∧ (minU a b).toNat ≤ b.toNat := by
  unfold minU; split <;> simp <;> omega

theorem maxU_spec (a b : Word) : (maxU a b = a ∨ maxU a b = b) ∧ a.toNat ≤ (maxU a b).toNat ∧ b.toNat ≤ (maxU a b).toNat := by
  unfold maxU; split <;> simp <;> omega

/-- LUI puts the immediate above sixteen zeros. -/
theorem zextImm_shiftLeft (f : FormI) : zextImm f <<< 16 = f.imm ++ (0 : BitVec 16) := by
  apply BitVec.eq_of_toNat_eq
  have := f.imm.isLt
  simp only [zextImm, toNat_append_eq, BitVec.toNat_shiftLeft, BitVec.toNat_setWidth, Nat.shiftLeft_eq]
  simp
  omega

theorem exec_tst (n : BitVec 6) (f : FormA) (s : State) :
    exec (.tst n f) s = aluA n f (auxRdBad f) (fun a b fl => (0, tstFlags a b fl)) s := by
  change execTst n f s = _; rfl

theorem exec_lui (n : BitVec 6) (f : FormI) (s : State) :
    exec (.lui n f) s = aluI n 0x08 f (f.ra != 0) (zextImm f <<< 16) (fun _ b fl => (b, fl)) s := by
  change execLui n f s = _; rfl

/-- Settles O10: the result by what it is; the flags are those of the result. -/
theorem logic : Obligations.Logic := by
  refine ⟨?_, ?_, ?_⟩
  · intro n f s ready spelled x a b zn
    refine ⟨fun aux => ?_, retires_csel ready spelled⟩
    have ok := auxBad_false aux
    refine ⟨retires_aluA ready spelled ok rfl rfl, retires_aluA ready spelled ok rfl rfl, retires_aluA ready spelled ok rfl rfl,
      retires_aluA ready spelled ok rfl rfl, fun rd => ?_⟩
    rw [← x.gives_zero rd 0]
    exact retires_aluA ready spelled (auxRdBad_false aux rd) (exec_tst n f s) rfl
  · intro n f s ready spelled x a i zn
    refine ⟨retires_aluI ready spelled rfl rfl rfl, retires_aluI ready spelled rfl rfl rfl, retires_aluI ready spelled rfl rfl rfl,
      fun ra => ?_⟩
    rw [← zextImm_shiftLeft]
    exact retires_aluI ready spelled (by simp [ra]) (exec_lui n f s) rfl
  · intro n f s ready spelled aux x a b out
    have ok := auxBad_false aux
    refine ⟨⟨_, retires_aluA ready spelled ok rfl rfl, minS_spec a b⟩, ⟨_, retires_aluA ready spelled ok rfl rfl, maxS_spec a b⟩,
      ⟨_, retires_aluA ready spelled ok rfl rfl, minU_spec a b⟩, ⟨_, retires_aluA ready spelled ok rfl rfl, maxU_spec a b⟩, fun rb => ?_⟩
    have ok := auxRbBad_false aux rb
    obtain ⟨k, counted, spec⟩ := clzOf_spec a
    refine ⟨⟨k, ?_, spec⟩, ?_, ?_⟩
    · rw [← counted]; exact retires_aluA ready spelled ok rfl rfl
    · rw [← popcOf_eq]; exact retires_aluA ready spelled ok rfl rfl
    · rw [← bswapOf_eq]; exact retires_aluA ready spelled ok rfl rfl

theorem rorOp_eq (a b : Word) (f : Flags) :
    let n := b.toNat % 32
    let r := a.rotateRight n
    rorOp a b f = (r, { f with z := r == 0, n := r.msb, c := if n = 0 then f.c else r.msb }) := by
  intro n r
  have turn : (a >>> n) ||| (a <<< (32 - n)) = r := by
    simp only [r, BitVec.rotateRight_def, Nat.mod_eq_of_lt (show n < 32 by omega)]
  rw [← turn]
  rfl

theorem mulOp_eq (a b : Word) (f : Flags) :
    mulOp a b f = (a * b, { f with z := a * b == 0, n := (a * b).msb,
                                   v := decide (a.toInt * b.toInt < -2 ^ 31 ∨ 2 ^ 31 ≤ a.toInt * b.toInt) }) := by
  rw [← overflow_eq (mul_eq_ofInt a b)]
  rfl

/-- The high half of the product of two unsigned words. -/
theorem mulHu_eq (a b : Word) : mulHu a b = (a.setWidth 64 * b.setWidth 64).extractLsb' 32 32 := by
  apply BitVec.eq_of_toNat_eq
  have fits : a.toNat * b.toNat < 2 ^ 32 * 2 ^ 32 := Nat.mul_lt_mul'' a.isLt b.isLt
  have ha : a.toNat < 2 ^ 64 := Nat.lt_trans a.isLt (by decide)
  have hb : b.toNat < 2 ^ 64 := Nat.lt_trans b.isLt (by decide)
  simp only [mulHu, BitVec.extractLsb'_toNat, BitVec.toNat_mul, BitVec.toNat_setWidth, BitVec.toNat_ofNat, Nat.shiftRight_eq_div_pow,
    Nat.mod_eq_of_lt ha, Nat.mod_eq_of_lt hb, Nat.mod_eq_of_lt (b := 2 ^ 64) fits]

/-- The high half of the product of two signed words. -/
theorem mulHs_eq (a b : Word) : mulHs a b = (a.signExtend 64 * b.signExtend 64).extractLsb' 32 32 := by
  have product : a.signExtend 64 * b.signExtend 64 = BitVec.ofInt 64 (a.toInt * b.toInt) := by
    rw [BitVec.ofInt_mul]; rfl
  rw [product]
  apply BitVec.eq_of_toNat_eq
  simp only [mulHs, BitVec.extractLsb'_toNat, BitVec.toNat_ofInt, Nat.shiftRight_eq_div_pow]
  norm_num
  omega

theorem divU_eq (a b : Word) : divU a b = if b = 0 then 0xFFFFFFFF else a / b := by
  unfold divU
  congr 1
  exact BitVec.eq_of_toNat_eq (by simpa using Nat.mod_eq_of_lt (Nat.lt_of_le_of_lt (Nat.div_le_self _ _) a.isLt))

theorem remU_eq (a b : Word) : remU a b = if b = 0 then a else a % b := by
  unfold remU
  congr 1
  exact BitVec.eq_of_toNat_eq (by simpa using Nat.mod_eq_of_lt (Nat.lt_of_le_of_lt (Nat.mod_le _ _) a.isLt))

/-- The most negative word by −1 gives itself: the quotient does not fit. -/
theorem divS_eq (a b : Word) : divS a b = if b = 0 then 0xFFFFFFFF else
    if decide (a = 0x80000000 ∧ b = 0xFFFFFFFF) then 0x80000000 else BitVec.ofInt 32 (a.toInt.tdiv b.toInt) := by
  unfold divS
  congr 1
  split
  · rename_i most
    obtain ⟨rfl, rfl⟩ := of_decide_eq_true most
    decide
  · rfl

theorem remS_eq (a b : Word) : remS a b = if b = 0 then a else
    if decide (a = 0x80000000 ∧ b = 0xFFFFFFFF) then 0 else BitVec.ofInt 32 (a.toInt.tmod b.toInt) := by
  unfold remS
  congr 1
  split
  · rename_i most
    obtain ⟨rfl, rfl⟩ := of_decide_eq_true most
    decide
  · rfl

theorem edgeS_eq (a b : Word) : edgeS a b = (b == 0 || decide (a = 0x80000000 ∧ b = 0xFFFFFFFF)) := by
  rw [edgeS, Bool.decide_and]
  rfl

/-- Settles O11: a shift by the low five bits with the last bit out, a product and a quotient by their exact values. -/
theorem shiftsMultiplyDivide : Obligations.ShiftsMultiplyDivide := by
  refine ⟨?_, ?_⟩
  · intro fl
    refine ⟨?_, ?_⟩
    · intro n f s ready spelled aux x a k
      have ok := auxBad_false aux
      exact ⟨retires_aluA ready spelled ok rfl rfl, retires_aluA ready spelled ok rfl rfl, retires_aluA ready spelled ok rfl rfl,
        retires_aluA ready spelled ok rfl (rorOp_eq ..)⟩
    · intro n f s ready spelled imm x a k
      have ok : shiftBad f = false := by simpa [shiftBad] using imm
      have count : (zextImm f).toNat % 32 = k := by simp [zextImm, k]; omega
      rw [← count]
      exact ⟨retires_aluI ready spelled ok rfl rfl, retires_aluI ready spelled ok rfl rfl, retires_aluI ready spelled ok rfl rfl,
        retires_aluI ready spelled ok rfl (rorOp_eq ..)⟩
  · intro n f s ready spelled aux x a b zn p most qs rs qu ru
    have ok := auxBad_false aux
    have hqs : qs = divS a b := (divS_eq a b).symm
    have hrs : rs = remS a b := (remS_eq a b).symm
    have hqu : qu = divU a b := (divU_eq a b).symm
    have hru : ru = remU a b := (remU_eq a b).symm
    rw [← mulHu_eq, ← mulHs_eq, ← edgeS_eq, hqs, hrs, hqu, hru]
    exact ⟨retires_aluA ready spelled ok rfl (mulOp_eq ..), retires_aluA ready spelled ok rfl rfl, retires_aluA ready spelled ok rfl rfl,
      retires_aluA ready spelled ok rfl rfl, retires_aluA ready spelled ok rfl rfl, retires_aluA ready spelled ok rfl rfl,
      retires_aluA ready spelled ok rfl rfl⟩

end Sys2Proof.Machine
end

section
/-!
PROOFS. Memory as a strand reaches it (R95, R164, R198): which checks an access inside one word passes or fails, the bytes that it reads and the bytes that
it leaves.
-/
namespace Sys2Proof.Machine

open Sys2Proof

theorem strandAt_of_st {s u : State} (e : u.st = s.st) (k : Nat) : strandAt u k = strandAt s k := by rw [strandAt, e, strandAt]

theorem sramGet_of_sram {s u : State} (e : u.sram = s.sram) (b : Nat) : sramGet u b = sramGet s b := by rw [sramGet, e, sramGet]

/-! Bytes and numbers (R4). -/

@[simp] theorem length_leBytes (n v : Nat) : (leBytes n v).length = n := by
  induction n generalizing v with
  | zero => rfl
  | succ n ih => simp [leBytes, ih]

@[simp] theorem length_toBytes (n v : Nat) : (toBytes n v).length = n := by simp [toBytes]

theorem getD_leBytes {n j : Nat} (h : j < n) (v : Nat) : (leBytes n v)[j]? = some (v / 256 ^ j % 256) := by
  induction n generalizing j v with
  | zero => omega
  | succ n ih =>
    cases j with
    | zero => simp [leBytes]
    | succ j => simp [leBytes, ih (Nat.lt_of_succ_lt_succ h), Nat.div_div_eq_div_mul, Nat.pow_succ']

theorem getD_toBytes {n j : Nat} (h : j < n) (v : Word) : (toBytes n v.toNat).getD j 0 = v.extractLsb' (8 * j) 8 := by
  have byte : 256 ^ j = 2 ^ (8 * j) := by rw [Nat.pow_mul]
  apply BitVec.eq_of_toNat_eq
  simp [toBytes, getD_leBytes h, byte, BitVec.extractLsb'_toNat, Nat.shiftRight_eq_div_pow]

theorem bytesVal_one (s : State) (p : Nat) : bytesVal (sramRead s p 1) = (sramGet s p).toNat := by
  have := (sramGet s p).isLt
  simp [sramRead, bytesVal, ofLe, List.range_succ]
  omega

theorem bytesVal_two (s : State) (p : Nat) : bytesVal (sramRead s p 2) = (sramGet s (p + 1) ++ sramGet s p).toNat := by
  simp only [toNat_append_eq]
  simp [sramRead, bytesVal, ofLe, List.range_succ]
  omega

theorem bytesVal_four (s : State) (p : Nat) :
    bytesVal (sramRead s p 4) = (sramGet s (p + 3) ++ sramGet s (p + 2) ++ (sramGet s (p + 1) ++ sramGet s p)).toNat := by
  simp only [toNat_append_eq]
  simp [sramRead, bytesVal, ofLe, List.range_succ]
  omega

theorem append_word (a b c d : Byte) : (a ++ b ++ c ++ d : Word) = a ++ b ++ (c ++ d) := by
  apply BitVec.eq_of_toNat_eq
  simp only [toNat_append_eq]
  omega

theorem signExt_toNat {w : Nat} (h : 0 < w) (x : BitVec w) : signExt w x.toNat = x.signExtend 32 := by
  have value : sgn w x.toNat = x.toInt := by
    have half : 2 ^ w = 2 * 2 ^ (w - 1) := by rw [← Nat.pow_succ', Nat.succ_eq_add_one, Nat.sub_add_cancel h]
    rw [sgn, BitVec.toInt_eq_toNat_cond, Nat.mod_eq_of_lt x.isLt]
    by_cases k : x.toNat < 2 ^ (w - 1)
    · rw [if_pos k, if_pos (by omega)]
    · rw [if_neg k, if_neg (by omega)]
  rw [signExt, value]
  rfl

/-! Data memory, page by page. -/

section
variable {s : State} {seat a p : Nat}

theorem dataPhys_add {k : Nat} (mapped : dataPhys s seat a = some p) (page : a % 4096 + k < 4096) : dataPhys s seat (a + k) = some (p + k) := by
  have same : (a + k) / 4096 = a / 4096 := by omega
  unfold dataPhys at *
  dsimp only at *
  split at mapped
  · cases mapped
  · rename_i inside
    rw [if_neg (by omega), same]
    split at mapped
    · rename_i valid
      rw [if_pos valid]
      simp only [Option.some.injEq] at mapped ⊢
      omega
    · cases mapped

theorem dataPhys_lt (mapped : dataPhys s seat a = some p) : a < 0x40000 := by
  unfold dataPhys at mapped
  split at mapped
  · cases mapped
  · omega

theorem dataPhys_mod (mapped : dataPhys s seat a = some p) : p % 4096 = a % 4096 := by
  unfold dataPhys at mapped
  dsimp only at mapped
  split at mapped
  · cases mapped
  · split at mapped
    · simp only [Option.some.injEq] at mapped; omega
    · cases mapped

theorem dataWritable_add {k : Nat} (page : a % 4096 + k < 4096) : dataWritable s seat (a + k) = dataWritable s seat a := by
  have same : (a + k) / 4096 = a / 4096 := by omega
  simp only [dataWritable, same]

theorem wordBad_add {k : Nat} (word : p % 4 + k < 4) : wordBad s (p + k) = wordBad s p := by
  have same : (p + k) / 4 = p / 4 := by omega
  simp only [wordBad, same]

/-- Bytes of one page read as those of the SRAM where it is mapped. -/
theorem dataRead_eq (mapped : dataPhys s seat a = some p) {n : Nat} (page : a % 4096 + n ≤ 4096) : dataRead s seat a n = some (sramRead s p n) := by
  unfold dataRead sramRead
  have all : ∀ l : List Nat, (∀ k ∈ l, k < n) →
      l.mapM (fun k => (dataPhys s seat (a + k)).map (sramGet s)) = some (l.map (fun k => sramGet s (p + k))) := by
    intro l
    induction l with
    | nil => intro _; rfl
    | cons k l ih =>
      intro h
      have here := dataPhys_add mapped (k := k) (by have := h k (by simp); omega)
      simp [here, ih fun j hj => h j (by simp [hj])]
  exact all _ fun k hk => List.mem_range.mp hk

theorem dataVal_eq (mapped : dataPhys s seat a = some p) {n : Nat} (page : a % 4096 + n ≤ 4096) : dataVal s seat a n = bytesVal (sramRead s p n) := by
  rw [dataVal, dataRead_eq mapped page, Option.getD_some]

theorem dataStore_eq (bs : List Byte) (mapped : dataPhys s seat a = some p) (page : a % 4096 + bs.length ≤ 4096) :
    dataStore seat a bs s = sramWrite s p bs := by
  induction bs generalizing s a p with
  | nil => rfl
  | cons b bs ih =>
    simp only [dataStore, mapped, sramWrite]
    rw [List.length_cons] at page
    cases bs with
    | nil => rfl
    | cons c bs =>
      rw [List.length_cons] at page
      have next : dataPhys (sramSet s p b) seat (a + 1) = some (p + 1) := dataPhys_add (s := s) mapped (by omega)
      exact ih next (by rw [List.length_cons]; omega)

/-- Bytes stored in one page go where it is mapped, and its delta follows (R296). -/
theorem dataPut_eq (bs : List Byte) (mapped : dataPhys s seat a = some p) (page : a % 4096 + bs.length ≤ 4096) :
    dataPut seat a bs s = mirrorSram p bs.length (sramWrite s p bs) := by
  simp only [dataPut, dataPutPage]
  rw [if_pos (by omega), mapped]
  simp only [dataStore_eq bs mapped page]

end

/-! What a store leaves. -/

/-- The low `n` bytes of a word stand from an address on, and every other byte of the SRAM stands. -/
def WordStored (s u : State) (p n : Nat) (v : Word) : Prop :=
  (∀ j, j < n → sramGet u (p + j) = v.extractLsb' (8 * j) 8) ∧ (∀ b, b < p ∨ p + n ≤ b → sramGet u b = sramGet s b)

theorem wordStored_sramWrite (s : State) (p n : Nat) (v : Word) : WordStored s (sramWrite s p (toBytes n v.toNat)) p n v := by
  refine ⟨fun j hj => ?_, fun b out => ?_⟩
  · rw [sramGet_sramWrite, if_pos (by rw [length_toBytes]; omega), Nat.add_sub_cancel_left, getD_toBytes hj]
  · rw [sramGet_sramWrite, if_neg (by rw [length_toBytes]; omega)]

theorem onlyIn_sramWrite (s : State) (p : Nat) (bs : List Byte) : OnlyIn [.sram] s (sramWrite s p bs) :=
  (keeps_sramWrite (W := [.sram]) (by decide) s p bs (.refl _ s)).frame

theorem onlyIn_mirrorSram (p n : Nat) (s : State) : OnlyIn [.mate] s (mirrorSram p n s) :=
  (keeps_mirrorSram (W := [.mate]) (by decide) p n s (.refl _ s)).frame

theorem onlyIn_dataPut (seat a : Nat) (bs : List Byte) (s : State) : OnlyIn [.sram, .mate] s (dataPut seat a bs s) :=
  (keeps_dataPut (W := [.sram, .mate]) (by decide) (by decide) seat a bs s (.refl _ s)).frame

theorem wordStored_dataPut {s : State} {seat a p n : Nat} (v : Word) (mapped : dataPhys s seat a = some p) (page : a % 4096 + n ≤ 4096) :
    WordStored s (dataPut seat a (toBytes n v.toNat) s) p n v := by
  rw [dataPut_eq _ mapped (by rwa [length_toBytes])]
  obtain ⟨inside, outside⟩ := wordStored_sramWrite s p n v
  have same : ∀ b, sramGet (mirrorSram p (toBytes n v.toNat).length (sramWrite s p (toBytes n v.toNat))) b =
      sramGet (sramWrite s p (toBytes n v.toNat)) b := sramGet_of_sram (onlyIn_mirrorSram _ _ _ .sram (by decide)).1
  exact ⟨fun j hj => (same _).trans (inside j hj), fun b out => (same b).trans (outside b out)⟩

/-! The checks of an access. -/

theorem firstFail_none {f : Nat → Option Fails} {a n : Nat} (low : a + n ≤ 2 ^ 32) (h : ∀ j, j < n → f (a + j) = none) : firstFail f a n = none := by
  unfold firstFail
  rw [List.findSome?_eq_none_iff]
  intro j hj
  have := List.mem_range.mp hj
  rw [Nat.mod_eq_of_lt (by omega)]
  exact h j this

/-- An access fails at its first byte. -/
theorem firstFail_head {f : Nat → Option Fails} {a n : Nat} {e : Fails} (low : a < 2 ^ 32) (some_ : 0 < n) (h : f a = some e) :
    firstFail f a n = some e := by
  obtain ⟨m, rfl⟩ := Nat.exists_eq_succ_of_ne_zero (Nat.ne_of_gt some_)
  rw [firstFail, List.range_succ_eq_map, List.findSome?_cons, Nat.add_zero, Nat.mod_eq_of_lt low, h]

theorem alignFail_none {space size a : Nat} (h : a % size = 0) : alignFail space size a = none := if_pos h
theorem alignFail_some {space size a : Nat} (h : a % size ≠ 0) : alignFail space size a = some ⟨2, space, a, none⟩ := if_neg h

section
variable {s : State} {seat a p : Nat}

theorem dataFail_unmapped {wr : Bool} (h : dataPhys s seat a = none ∨ (wr = true ∧ dataWritable s seat a = false)) :
    dataFail s seat wr a = some ⟨4, a / 4096, a, none⟩ := by
  unfold dataFail
  rw [if_pos]
  rcases h with h | ⟨h, k⟩
  · simp [h]
  · simp [h, k]

theorem dataFail_write (mapped : dataPhys s seat a = some p) (writable : dataWritable s seat a = true) : dataFail s seat true a = none := by
  simp [dataFail, mapped, writable]

theorem dataFail_read (mapped : dataPhys s seat a = some p) : dataFail s seat false a = eccFail s 0 a p := by
  simp [dataFail, mapped]

theorem eccFail_none {space : Nat} (good : wordBad s p = false) : eccFail s space a p = none := by simp [eccFail, good]
theorem eccFail_some {space : Nat} (bad : wordBad s p = true) : eccFail s space a p = some ⟨8, space, a, some (p / 0x200000)⟩ := by simp [eccFail, bad]

theorem dataCheck_aligned {wr : Bool} {size n : Nat} (h : a % size = 0) : dataCheck s seat wr size a n = firstFail (dataFail s seat wr) a n := by
  rw [dataCheck, alignFail_none h]; rfl

theorem dataCheck_misaligned {wr : Bool} {size n : Nat} (h : a % size ≠ 0) : dataCheck s seat wr size a n = some ⟨2, 0, a, none⟩ := by
  rw [dataCheck, alignFail_some h]; rfl

/-- A word without an error passes the checks of a load. -/
theorem dataFails_read {n : Nat} (mapped : dataPhys s seat a = some p) (good : wordBad s p = false) (word : a % 4 + n ≤ 4) :
    firstFail (dataFail s seat false) a n = none := by
  have low := dataPhys_lt mapped
  have place := dataPhys_mod mapped
  refine firstFail_none (by omega) fun j hj => ?_
  rw [dataFail_read (dataPhys_add mapped (by omega))]
  exact eccFail_none ((wordBad_add (by omega)).trans good)

/-- A word of a writable page passes the checks of a store. -/
theorem dataFails_write {n : Nat} (mapped : dataPhys s seat a = some p) (writable : dataWritable s seat a = true) (word : a % 4 + n ≤ 4) :
    firstFail (dataFail s seat true) a n = none := by
  have low := dataPhys_lt mapped
  refine firstFail_none (by omega) fun j hj => ?_
  exact dataFail_write (dataPhys_add mapped (by omega)) ((dataWritable_add (by omega)).trans writable)

/-- A load fails at a word with an error. -/
theorem dataFails_ecc {n : Nat} (mapped : dataPhys s seat a = some p) (bad : wordBad s p = true) (some_ : 0 < n) :
    firstFail (dataFail s seat false) a n = some ⟨8, 0, a, some (p / 0x200000)⟩ := by
  have low := dataPhys_lt mapped
  exact firstFail_head (by omega) some_ ((dataFail_read mapped).trans (eccFail_some bad))

end

/-! A checked instruction. -/

section
variable {i : Instr} {n : BitVec 6} {s : State} {wr : Bool} {go : State → State}

theorem exec_of_checked {c : Option Fails} {k : Nat} (h : exec i s = .next (checked k wr c go s)) (ok : c = none) : exec i s = .next (go s) := by
  rw [h, ok]; rfl

theorem traps_of_checked {c : Option Fails} {code detail faddr : Nat} (h : exec i s = .next (checked n.toNat wr c go s))
    (fails : c = some ⟨code, detail, faddr, none⟩) : Traps i n s code detail faddr wr := by
  rw [Traps, h, fails]; rfl

theorem faults_of_checked {c : Option Fails} {k code detail faddr bank : Nat} (h : exec i s = .next (checked k wr c go s))
    (fails : c = some ⟨code, detail, faddr, some bank⟩) : exec i s = .next (faultRaise (24 + bank) (trapStrand k code detail faddr wr s)) := by
  rw [h, fails]; rfl

end

end Sys2Proof.Machine
end

section
/-!
PROOFS. Loads, stores and atomics (R164, R166, R182, R198), from the checks and the bytes of an access inside one word.
-/
namespace Sys2Proof.Machine

open Sys2Proof

section
variable {i : Instr} {n : BitVec 6} {s : State} {f : FormI}

/-! Data loads. -/

section
variable {op size : Nat} {ext : Nat → Word} (ready : Ready s n) (spelled : f.unassigned = none) (meaning : exec i s = dataLoad n op size f ext s)
include ready spelled meaning

/-- A data load goes by its check. -/
theorem exec_dataLoad :
    let ea := effAddr (strandAt s n.toNat) f.ra f.imm
    exec i s = .next (checked n.toNat false (dataCheck s (strandSeat s n.toNat) false size ea size)
      (retire n.toNat (fun t => t.setReg f.rd.toNat (ext (dataVal s (strandSeat s n.toNat) ea size)))) s) :=
  exec_of_celec ready spelled rfl meaning rfl

theorem retires_dataLoad {p : Nat} (mapped : dataPhys s (strandSeat s n.toNat) (effAddr (strandAt s n.toNat) f.ra f.imm) = some p)
    (good : wordBad s p = false) (aligned : effAddr (strandAt s n.toNat) f.ra f.imm % size = 0)
    (word : effAddr (strandAt s n.toNat) f.ra f.imm % 4 + size ≤ 4) {w : Word} (value : ext (bytesVal (sramRead s p size)) = w) :
    Retires i n s s ((strandAt s n.toNat).setReg f.rd.toNat w) := by
  refine retires_of (exec_of_checked (exec_dataLoad ready spelled meaning) ?_) rfl ?_
  · rw [dataCheck_aligned aligned, dataFails_read mapped good word]
  · rw [dataVal_eq mapped (by omega), value]

theorem traps_dataLoad_misaligned (h : effAddr (strandAt s n.toNat) f.ra f.imm % size ≠ 0) :
    Traps i n s 2 0 (effAddr (strandAt s n.toNat) f.ra f.imm) false :=
  traps_of_checked (exec_dataLoad ready spelled meaning) (dataCheck_misaligned h)

theorem traps_dataLoad_unmapped (some_ : 0 < size) (aligned : effAddr (strandAt s n.toNat) f.ra f.imm % size = 0)
    (h : dataPhys s (strandSeat s n.toNat) (effAddr (strandAt s n.toNat) f.ra f.imm) = none) :
    Traps i n s 4 (effAddr (strandAt s n.toNat) f.ra f.imm / 4096) (effAddr (strandAt s n.toNat) f.ra f.imm) false :=
  traps_of_checked (exec_dataLoad ready spelled meaning)
    ((dataCheck_aligned aligned).trans (firstFail_head (BitVec.isLt _) some_ (dataFail_unmapped (.inl h))))

theorem faults_dataLoad {p : Nat} (some_ : 0 < size) (aligned : effAddr (strandAt s n.toNat) f.ra f.imm % size = 0)
    (mapped : dataPhys s (strandSeat s n.toNat) (effAddr (strandAt s n.toNat) f.ra f.imm) = some p) (bad : wordBad s p = true) :
    exec i s = .next (faultRaise (24 + p / 0x200000)
      (trapStrand n.toNat 8 0 (effAddr (strandAt s n.toNat) f.ra f.imm) false s)) :=
  faults_of_checked (exec_dataLoad ready spelled meaning) ((dataCheck_aligned aligned).trans (dataFails_ecc mapped bad some_))

end

/-! Data stores. -/

section
variable {size : Nat} (ready : Ready s n) (spelled : f.unassigned = none) (meaning : exec i s = dataStoreOp n size f s)
include ready spelled meaning

/-- A data store goes by its check. -/
theorem exec_dataStoreOp :
    let ea := effAddr (strandAt s n.toNat) f.ra f.imm
    exec i s = .next (checked n.toNat true (dataCheck s (strandSeat s n.toNat) true size ea size)
      (fun u => retire n.toNat id (dataPut (strandSeat s n.toNat) ea (toBytes size (regOf u n.toNat f.rd).toNat) u)) s) :=
  exec_of_celec ready spelled rfl meaning rfl

theorem stores_dataStoreOp {p : Nat} (mapped : dataPhys s (strandSeat s n.toNat) (effAddr (strandAt s n.toNat) f.ra f.imm) = some p)
    (writable : dataWritable s (strandSeat s n.toNat) (effAddr (strandAt s n.toNat) f.ra f.imm) = true)
    (aligned : effAddr (strandAt s n.toNat) f.ra f.imm % size = 0) (word : effAddr (strandAt s n.toNat) f.ra f.imm % 4 + size ≤ 4) :
    ∃ u, Retires i n s u (strandAt s n.toNat) ∧ OnlyIn [.sram, .mate] s u ∧ WordStored s u p size ((strandAt s n.toNat).reg f.rd.toNat) := by
  have only := onlyIn_dataPut (strandSeat s n.toNat) (effAddr (strandAt s n.toNat) f.ra f.imm)
    (toBytes size ((strandAt s n.toNat).reg f.rd.toNat).toNat) s
  have same := strandAt_of_st (only .st (by decide)) n.toNat
  have step := exec_of_checked (exec_dataStoreOp ready spelled meaning)
    (by rw [dataCheck_aligned aligned, dataFails_write mapped writable word])
  exact ⟨_, retires_of step (congrArg Strand.pc same) same, only, wordStored_dataPut _ mapped (by omega)⟩

theorem traps_dataStoreOp_misaligned (h : effAddr (strandAt s n.toNat) f.ra f.imm % size ≠ 0) :
    Traps i n s 2 0 (effAddr (strandAt s n.toNat) f.ra f.imm) true :=
  traps_of_checked (exec_dataStoreOp ready spelled meaning) (dataCheck_misaligned h)

theorem traps_dataStoreOp_unmapped (some_ : 0 < size) (aligned : effAddr (strandAt s n.toNat) f.ra f.imm % size = 0)
    (h : dataPhys s (strandSeat s n.toNat) (effAddr (strandAt s n.toNat) f.ra f.imm) = none ∨
      dataWritable s (strandSeat s n.toNat) (effAddr (strandAt s n.toNat) f.ra f.imm) = false) :
    Traps i n s 4 (effAddr (strandAt s n.toNat) f.ra f.imm / 4096) (effAddr (strandAt s n.toNat) f.ra f.imm) true :=
  traps_of_checked (exec_dataStoreOp ready spelled meaning)
    ((dataCheck_aligned aligned).trans (firstFail_head (BitVec.isLt _) some_ (dataFail_unmapped (h.imp_right fun k => ⟨rfl, k⟩))))

end

/-! Scratch. -/

theorem scratchFail_none {a : Nat} (h : a < 0x1000) : scratchFail a = none := if_neg (Nat.not_le.mpr h)
theorem scratchFail_some {a : Nat} (h : 0x1000 ≤ a) : scratchFail a = some ⟨5, 0, a, none⟩ := if_pos h

theorem scratchReadFail_none {k a : Nat} (inside : a < 0x1000) (good : wordBad s (scratchBase k + a) = false) : scratchReadFail s k a = none := by
  rw [scratchReadFail, scratchFail_none inside]; exact eccFail_none good

section
variable {size : Nat} (ready : Ready s n) (spelled : f.unassigned = none) (meaning : exec i s = scratchLoad n size f s)
include ready spelled meaning

/-- A scratch load goes by its check. -/
theorem exec_scratchLoad :
    let ea := effAddr (strandAt s n.toNat) f.ra f.imm
    exec i s = .next (checked n.toNat false ((alignFail 1 size ea).orElse (fun _ => firstFail (scratchReadFail s n.toNat) ea size))
      (retire n.toNat (fun t => t.setReg f.rd.toNat (BitVec.ofNat 32 (bytesVal (sramRead s (scratchBase n.toNat + ea) size))))) s) :=
  exec_of_celec ready spelled rfl meaning rfl

theorem retires_scratchLoad (inside : effAddr (strandAt s n.toNat) f.ra f.imm < 0x1000)
    (good : wordBad s (scratchBase n.toNat + effAddr (strandAt s n.toNat) f.ra f.imm) = false)
    (aligned : effAddr (strandAt s n.toNat) f.ra f.imm % size = 0) (word : effAddr (strandAt s n.toNat) f.ra f.imm % 4 + size ≤ 4) {w : Word}
    (value : BitVec.ofNat 32 (bytesVal (sramRead s (scratchBase n.toNat + effAddr (strandAt s n.toNat) f.ra f.imm) size)) = w) :
    Retires i n s s ((strandAt s n.toNat).setReg f.rd.toNat w) := by
  refine retires_of (exec_of_checked (exec_scratchLoad ready spelled meaning) ?_) rfl (by rw [value])
  rw [alignFail_none aligned]
  refine firstFail_none (by omega) fun j hj => ?_
  refine scratchReadFail_none (by omega) ?_
  rw [← Nat.add_assoc, wordBad_add (by simp only [scratchBase]; omega), good]

theorem traps_scratchLoad_misaligned (h : effAddr (strandAt s n.toNat) f.ra f.imm % size ≠ 0) :
    Traps i n s 2 1 (effAddr (strandAt s n.toNat) f.ra f.imm) false :=
  traps_of_checked (exec_scratchLoad ready spelled meaning) (by rw [alignFail_some h]; rfl)

theorem traps_scratchLoad_beyond (some_ : 0 < size) (aligned : effAddr (strandAt s n.toNat) f.ra f.imm % size = 0)
    (beyond : 0x1000 ≤ effAddr (strandAt s n.toNat) f.ra f.imm) :
    Traps i n s 5 0 (effAddr (strandAt s n.toNat) f.ra f.imm) false :=
  traps_of_checked (exec_scratchLoad ready spelled meaning)
    (by rw [alignFail_none aligned]; exact firstFail_head (BitVec.isLt _) some_ (by rw [scratchReadFail, scratchFail_some beyond]; rfl))

theorem faults_scratchLoad (some_ : 0 < size) (aligned : effAddr (strandAt s n.toNat) f.ra f.imm % size = 0)
    (inside : effAddr (strandAt s n.toNat) f.ra f.imm < 0x1000)
    (bad : wordBad s (scratchBase n.toNat + effAddr (strandAt s n.toNat) f.ra f.imm) = true) :
    exec i s = .next (faultRaise (24 + (scratchBase n.toNat + effAddr (strandAt s n.toNat) f.ra f.imm) / 0x200000)
      (trapStrand n.toNat 8 1 (effAddr (strandAt s n.toNat) f.ra f.imm) false s)) :=
  faults_of_checked (exec_scratchLoad ready spelled meaning)
    (by rw [alignFail_none aligned]; exact firstFail_head (BitVec.isLt _) some_ (by rw [scratchReadFail, scratchFail_none inside]; exact eccFail_some bad))

end

section
variable {size : Nat} (ready : Ready s n) (spelled : f.unassigned = none) (meaning : exec i s = scratchStore n size f s)
include ready spelled meaning

/-- A scratch store goes by its check. -/
theorem exec_scratchStore :
    let ea := effAddr (strandAt s n.toNat) f.ra f.imm
    exec i s = .next (checked n.toNat true (scratchCheck size ea)
      (fun u => retire n.toNat id (sramWrite u (scratchBase n.toNat + ea) (toBytes size (regOf u n.toNat f.rd).toNat))) s) :=
  exec_of_celec ready spelled rfl meaning rfl

theorem stores_scratchStore (inside : effAddr (strandAt s n.toNat) f.ra f.imm < 0x1000)
    (aligned : effAddr (strandAt s n.toNat) f.ra f.imm % size = 0) :
    ∃ u, Retires i n s u (strandAt s n.toNat) ∧ OnlyIn [.sram] s u ∧
      WordStored s u (scratchBase n.toNat + effAddr (strandAt s n.toNat) f.ra f.imm) size ((strandAt s n.toNat).reg f.rd.toNat) := by
  have only := onlyIn_sramWrite s (scratchBase n.toNat + effAddr (strandAt s n.toNat) f.ra f.imm)
    (toBytes size ((strandAt s n.toNat).reg f.rd.toNat).toNat)
  have same := strandAt_of_st (only .st (by decide)) n.toNat
  have step := exec_of_checked (exec_scratchStore ready spelled meaning)
    (by rw [scratchCheck, alignFail_none aligned]; exact scratchFail_none inside)
  exact ⟨_, retires_of step (congrArg Strand.pc same) same, only, wordStored_sramWrite ..⟩

theorem traps_scratchStore_misaligned (h : effAddr (strandAt s n.toNat) f.ra f.imm % size ≠ 0) :
    Traps i n s 2 1 (effAddr (strandAt s n.toNat) f.ra f.imm) true :=
  traps_of_checked (exec_scratchStore ready spelled meaning) (by rw [scratchCheck, alignFail_some h]; rfl)

theorem traps_scratchStore_beyond (aligned : effAddr (strandAt s n.toNat) f.ra f.imm % size = 0)
    (beyond : 0x1000 ≤ effAddr (strandAt s n.toNat) f.ra f.imm) :
    Traps i n s 5 0 (effAddr (strandAt s n.toNat) f.ra f.imm) true :=
  traps_of_checked (exec_scratchStore ready spelled meaning) (by rw [scratchCheck, alignFail_none aligned]; exact scratchFail_some beyond)

end

end

/-! Loads from object and register space go by their checks as well. -/

theorem exec_old {n : BitVec 6} {s : State} {f : FormI} (ready : Ready s n) (spelled : f.unassigned = none) :
    let ea := effAddr (strandAt s n.toNat) f.ra f.imm
    ∃ go, exec (.old n f) s = .next (checked n.toNat false
      ((alignFail 2 4 ea).orElse (fun _ => if 0x1000000 ≤ ea then some ⟨6, 0, ea, none⟩ else none)) go s) :=
  ⟨_, exec_of_celec ready spelled rfl (show _ = execOld n f s from rfl) rfl⟩

theorem exec_rld {n : BitVec 6} {s : State} {f : FormI} (ready : Ready s n) (spelled : f.unassigned = none) :
    ∃ go, exec (.rld n f) s = .next (checked n.toNat false (regAccessCheck (effAddr (strandAt s n.toNat) f.ra f.imm)) go s) :=
  ⟨_, exec_of_celec ready spelled rfl (show _ = execRld n f s from rfl) rfl⟩

/-! An aligned access lies inside one word. -/

theorem word_inside {a : Nat} (h : a % 4 = 0) : a % 4 + 4 ≤ 4 := by omega
theorem half_inside {a : Nat} (h : a % 2 = 0) : a % 4 + 2 ≤ 4 := by omega
theorem byte_inside (a : Nat) : a % 4 + 1 ≤ 4 := by omega

/-- Settles O14: the bytes at the mapped address, as `bytesVal` puts them together. -/
theorem dataLoads : Obligations.DataLoads := by
  intro n f s p ready spelled x ea mapped good h
  have half : zeroExt (bytesVal (sramRead s p 2)) = h.setWidth 32 := by
    rw [bytesVal_two]; exact BitVec.ofNat_toNat 32 h
  have signed : signExt 16 (bytesVal (sramRead s p 2)) = h.signExtend 32 := by
    rw [bytesVal_two]; exact signExt_toNat (by decide) h
  refine ⟨fun aligned => ?_, fun aligned => ⟨?_, ?_⟩, ?_, ?_⟩
  · refine retires_dataLoad ready spelled rfl mapped good aligned (word_inside aligned) ?_
    rw [bytesVal_four]
    exact BitVec.ofNat_toNat 32 _
  · exact retires_dataLoad ready spelled rfl mapped good aligned (half_inside aligned) half
  · exact retires_dataLoad ready spelled rfl mapped good aligned (half_inside aligned) signed
  · refine retires_dataLoad ready spelled rfl mapped good (Nat.mod_one _) (byte_inside _) ?_
    rw [bytesVal_one]
    exact BitVec.ofNat_toNat 32 _
  · refine retires_dataLoad ready spelled rfl mapped good (Nat.mod_one _) (byte_inside _) ?_
    rw [bytesVal_one]
    exact signExt_toNat (by decide) _

/-- Settles O15: an aligned store lies inside one word of its page. -/
theorem dataStores : Obligations.DataStores := by
  intro n f s p ready spelled x ea v mapped writable stored
  exact ⟨fun aligned => stores_dataStoreOp ready spelled rfl mapped writable aligned (word_inside aligned),
    fun aligned => stores_dataStoreOp ready spelled rfl mapped writable aligned (half_inside aligned),
    stores_dataStoreOp ready spelled rfl mapped writable (Nat.mod_one _) (byte_inside _)⟩

/-- Settles O16: the strand's page lies at `scratchBase`. -/
theorem scratch : Obligations.Scratch := by
  intro n f s ready spelled x ea p v inside stored
  refine ⟨stores_scratchStore ready spelled rfl inside, stores_scratchStore ready spelled rfl inside,
    stores_scratchStore ready spelled rfl inside (Nat.mod_one _), fun good => ⟨fun aligned => ?_, fun aligned => ?_, ?_⟩⟩
  · refine retires_scratchLoad ready spelled rfl inside good aligned (word_inside aligned) ?_
    rw [bytesVal_four, append_word]
    exact BitVec.ofNat_toNat 32 _
  · refine retires_scratchLoad ready spelled rfl inside good aligned (half_inside aligned) ?_
    rw [bytesVal_two]
    exact BitVec.ofNat_toNat 32 _
  · refine retires_scratchLoad ready spelled rfl inside good (Nat.mod_one _) (byte_inside _) ?_
    rw [bytesVal_one]
    exact BitVec.ofNat_toNat 32 _

/-- Settles O17: the alignment comes before the page, the page before the word's check bits. -/
theorem accessTraps : Obligations.AccessTraps := by
  intro n f s ready spelled k ea unread unwrit
  refine ⟨fun h => ⟨?_, ?_, ?_, ?_, ?_, ?_⟩, fun h => ⟨?_, ?_, ?_, ?_, ?_⟩, fun h => ⟨?_, ?_, fun aligned => ⟨?_, ?_⟩, fun aligned => ?_⟩,
    fun h => ⟨?_, fun aligned => ?_, fun aligned => ?_⟩, fun h => ⟨?_, ?_, fun aligned => ⟨?_, ?_⟩, fun aligned => ⟨?_, ?_⟩⟩, fun p mapped bad => ?_,
    fun inside bad => ?_⟩
  · exact traps_dataLoad_misaligned ready spelled rfl h
  · exact traps_dataStoreOp_misaligned ready spelled rfl h
  · exact traps_scratchLoad_misaligned ready spelled rfl h
  · exact traps_scratchStore_misaligned ready spelled rfl h
  · exact (exec_old ready spelled).elim fun _ h' => traps_of_checked h' (by rw [alignFail_some h]; rfl)
  · exact (exec_rld ready spelled).elim fun _ h' => traps_of_checked h' (by rw [regAccessCheck, alignFail_some h]; rfl)
  · exact traps_dataLoad_misaligned ready spelled rfl h
  · exact traps_dataLoad_misaligned ready spelled rfl h
  · exact traps_dataStoreOp_misaligned ready spelled rfl h
  · exact traps_scratchLoad_misaligned ready spelled rfl h
  · exact traps_scratchStore_misaligned ready spelled rfl h
  · exact traps_dataLoad_unmapped ready spelled rfl (by decide) (Nat.mod_one _) h
  · exact traps_dataLoad_unmapped ready spelled rfl (by decide) (Nat.mod_one _) h
  · exact traps_dataLoad_unmapped ready spelled rfl (by decide) aligned h
  · exact traps_dataLoad_unmapped ready spelled rfl (by decide) aligned h
  · exact traps_dataLoad_unmapped ready spelled rfl (by decide) aligned h
  · exact traps_dataStoreOp_unmapped ready spelled rfl (by decide) (Nat.mod_one _) h
  · exact traps_dataStoreOp_unmapped ready spelled rfl (by decide) aligned h
  · exact traps_dataStoreOp_unmapped ready spelled rfl (by decide) aligned h
  · exact traps_scratchLoad_beyond ready spelled rfl (by decide) (Nat.mod_one _) h
  · exact traps_scratchStore_beyond ready spelled rfl (Nat.mod_one _) h
  · exact traps_scratchLoad_beyond ready spelled rfl (by decide) aligned h
  · exact traps_scratchStore_beyond ready spelled rfl aligned h
  · exact traps_scratchLoad_beyond ready spelled rfl (by decide) aligned h
  · exact traps_scratchStore_beyond ready spelled rfl aligned h
  · exact ⟨faults_dataLoad ready spelled rfl (by decide) (Nat.mod_one _) mapped bad, faults_dataLoad ready spelled rfl (by decide) (Nat.mod_one _) mapped bad,
      fun aligned => ⟨faults_dataLoad ready spelled rfl (by decide) aligned mapped bad, faults_dataLoad ready spelled rfl (by decide) aligned mapped bad⟩,
      fun aligned => faults_dataLoad ready spelled rfl (by decide) aligned mapped bad⟩
  · exact ⟨faults_scratchLoad ready spelled rfl (by decide) (Nat.mod_one _) inside bad,
      fun aligned => faults_scratchLoad ready spelled rfl (by decide) aligned inside bad,
      fun aligned => faults_scratchLoad ready spelled rfl (by decide) aligned inside bad⟩

/-! Atomics. -/

section
variable {i : Instr} {n : BitVec 6} {s : State} {f : FormA} {g : Word → Word → Word → Option Word} {setsT : Bool} {p : Nat}
variable (ready : Ready s n) (spelled : f.unassigned = none) (aux : f.aux = 0) (meaning : exec i s = atomic n f g setsT s)
include ready spelled aux meaning

variable (mapped : dataPhys s (strandSeat s n.toNat) (regOf s n.toNat f.ra).toNat = some p)
  (writable : dataWritable s (strandSeat s n.toNat) (regOf s n.toNat f.ra).toNat = true) (aligned : (regOf s n.toNat f.ra).toNat % 4 = 0)
include mapped writable aligned

/-- On a word with an error. -/
theorem faults_atomic (bad : wordBad s p = true) :
    exec i s = .next (faultRaise (24 + p / 0x200000) (trapStrand n.toNat 8 0 (regOf s n.toNat f.ra).toNat true s)) := by
  refine faults_of_checked (exec_of_celec ready spelled (auxBad_false aux) meaning rfl) ?_
  rw [dataCheck_aligned aligned, dataFails_write mapped writable (word_inside aligned)]
  exact dataFails_ecc mapped bad (by decide)

variable {old : Word} (good : wordBad s p = false)
  (reads : sramGet s (p + 3) ++ sramGet s (p + 2) ++ sramGet s (p + 1) ++ sramGet s p = old)
include good reads

/-- On a word that is whole: its old value, and what the operation makes of it. -/
theorem exec_atomic_good {new : Option Word} (result : g old (regOf s n.toNat f.rd) (regOf s n.toNat f.rb) = new) :
    exec i s = .next (retire n.toNat (fun t => (if setsT then t.setT new.isSome else t).setReg f.rd.toNat old)
      (new.elim s (fun w => dataPut (strandSeat s n.toNat) (regOf s n.toNat f.ra).toNat (toBytes 4 w.toNat) s))) := by
  have value : BitVec.ofNat 32 (dataVal s (strandSeat s n.toNat) (regOf s n.toNat f.ra).toNat 4) = old := by
    rw [dataVal_eq mapped (by omega), bytesVal_four, ← append_word, reads]
    exact BitVec.ofNat_toNat 32 old
  have passes := exec_of_checked (exec_of_celec ready spelled (auxBad_false aux) meaning rfl) (by
    rw [dataCheck_aligned aligned, dataFails_write mapped writable (word_inside aligned)]
    exact dataFails_read mapped good (word_inside aligned))
  dsimp only at passes
  rw [value, result] at passes
  cases new with
  | none => exact passes
  | some w => exact passes

theorem stores_atomic {new : Word} (result : g old (regOf s n.toNat f.rd) (regOf s n.toNat f.rb) = some new) {x : Strand}
    (context : (if setsT then (strandAt s n.toNat).setT true else strandAt s n.toNat).setReg f.rd.toNat old = x) :
    ∃ u, Retires i n s u x ∧ OnlyIn [.sram, .mate] s u ∧ WordStored s u p 4 new := by
  have only := onlyIn_dataPut (strandSeat s n.toNat) (regOf s n.toNat f.ra).toNat (toBytes 4 new.toNat) s
  have same := strandAt_of_st (only .st (by decide)) n.toNat
  refine ⟨_, retires_of (exec_atomic_good ready spelled aux meaning mapped writable aligned good reads result) ?_ ?_, only,
    wordStored_dataPut _ mapped (by omega)⟩
  · exact congrArg Strand.pc same
  · rw [← context]; exact congrArg (fun t => (if setsT then Strand.setT true t else t).setReg f.rd.toNat old) same

theorem retires_atomic_none (result : g old (regOf s n.toNat f.rd) (regOf s n.toNat f.rb) = none) {x : Strand}
    (context : (if setsT then (strandAt s n.toNat).setT false else strandAt s n.toNat).setReg f.rd.toNat old = x) : Retires i n s s x := by
  have step := exec_atomic_good ready spelled aux meaning mapped writable aligned good reads result
  exact retires_of step rfl context

end

/-- Settles O18: one rule for the eight of them, by what each makes of the old word. -/
theorem atomics : Obligations.Atomics := by
  intro n f s p ready spelled aux x ea b mapped writable aligned
  have aadd : exec (.aadd n f) s = execAadd n f s := rfl
  have aand : exec (.aand n f) s = execAand n f s := rfl
  have aor : exec (.aor n f) s = execAor n f s := rfl
  have axor : exec (.axor n f) s = execAxor n f s := rfl
  have aswp : exec (.aswp n f) s = execAswp n f s := rfl
  have aminu : exec (.aminu n f) s = execAminu n f s := rfl
  have amaxu : exec (.amaxu n f) s = execAmaxu n f s := rfl
  have cas : exec (.cas n f) s = execCas n f s := rfl
  refine ⟨fun bad i hi => ?_, fun good => ?_⟩
  · simp only [List.mem_cons, List.not_mem_nil, or_false] at hi
    obtain rfl | rfl | rfl | rfl | rfl | rfl | rfl | rfl := hi
    · exact faults_atomic ready spelled aux aadd mapped writable aligned bad
    · exact faults_atomic ready spelled aux aand mapped writable aligned bad
    · exact faults_atomic ready spelled aux aor mapped writable aligned bad
    · exact faults_atomic ready spelled aux axor mapped writable aligned bad
    · exact faults_atomic ready spelled aux aswp mapped writable aligned bad
    · exact faults_atomic ready spelled aux aminu mapped writable aligned bad
    · exact faults_atomic ready spelled aux amaxu mapped writable aligned bad
    · exact faults_atomic ready spelled aux cas mapped writable aligned bad
  · intro old does
    refine ⟨?_, ?_, ?_, ?_, ?_, ?_, ?_, fun hit => ?_, fun miss => ?_⟩
    · exact stores_atomic ready spelled aux aadd mapped writable aligned good rfl rfl rfl
    · exact stores_atomic ready spelled aux aand mapped writable aligned good rfl rfl rfl
    · exact stores_atomic ready spelled aux aor mapped writable aligned good rfl rfl rfl
    · exact stores_atomic ready spelled aux axor mapped writable aligned good rfl rfl rfl
    · exact stores_atomic ready spelled aux aswp mapped writable aligned good rfl rfl rfl
    · exact stores_atomic ready spelled aux aminu mapped writable aligned good rfl rfl rfl
    · exact stores_atomic ready spelled aux amaxu mapped writable aligned good rfl rfl rfl
    · exact stores_atomic ready spelled aux cas mapped writable aligned good rfl (if_pos hit) rfl
    · exact retires_atomic_none ready spelled aux cas mapped writable aligned good rfl (if_neg miss) rfl

end Sys2Proof.Machine
end

section
/-!
PROOFS. Waits, events, strand control and special registers (R153, R154, R174, R175, R180, R185).
-/
namespace Sys2Proof.Machine

open Sys2Proof

theorem reqRbBad_or {f : FormA} {b : Bool} (aux : f.aux = 0) (rb : f.rb = 0) (h : b = false) : (reqRbBad f || b) = false := by
  rw [reqRbBad_false aux rb, h]; rfl

theorem or_reqRbBad {f : FormA} {b : Bool} (aux : f.aux = 0) (rb : f.rb = 0) (h : b = false) : (b || reqRbBad f) = false := by
  rw [reqRbBad_false aux rb, h]; rfl

/-- A reserved field traps. -/
theorem traps_of_bad {i : Instr} {n : BitVec 6} {s : State} {u : Option Nat} {op : Nat} {bad : Bool} {body : Nat → State → State} (ready : Ready s n)
    (spelled : u = none) (h : bad = true) (meaning : exec i s = celec n u op bad body s) : Traps i n s 1 op 0 false := by
  rw [Traps, meaning, spelled, celec_ready ready, h]; rfl

/-! Special registers. -/

section
variable {n : BitVec 6} {f : FormA} {s : State} (ready : Ready s n) (spelled : f.unassigned = none) (aux : f.aux = 0) (rb : f.rb = 0)
include ready spelled aux rb

theorem retires_mfs {v : Word} {t : Strand} (h : f.ra.toNat ≤ 8) (reads : readSpecial s n.toNat f.ra.toNat = (v, t)) :
    Retires (.mfs n f) n s s (t.setReg f.rd.toNat v) := by
  refine retires_of (f := fun _ => t.setReg f.rd.toNat v)
    (exec_of_celec ready spelled (reqRbBad_or aux rb (decide_eq_false (by omega))) (show _ = execMfs n f s from rfl) ?_) rfl rfl
  simp only [reads]

theorem retires_mts {x : Strand} (h : f.rd = 5 ∨ f.rd = 8)
    (writes : (if f.rd = 5 then { strandAt s n.toNat with fault := (strandAt s n.toNat).reg f.ra.toNat &&& 0x1FFFF }
      else { strandAt s n.toNat with prog := (strandAt s n.toNat).reg f.ra.toNat }) = x) : Retires (.mts n f) n s s x :=
  retires_of (exec_of_celec ready spelled (reqRbBad_or aux rb (by rcases h with h | h <;> simp [h])) (show _ = execMts n f s from rfl) rfl) rfl writes

end

/-- Settles O31: `readSpecial` number by number. -/
theorem specialRegisters : Obligations.SpecialRegisters := by
  intro n f s ready spelled aux rb k x reads
  have mfs : ∀ (r : BitVec 4) (v : Word), r.toNat ≤ 8 → readSpecial s k r.toNat = (v, x) → reads r v := fun r v small special is =>
    retires_mfs ready spelled aux rb (by rw [is]; exact small) (by rw [is]; exact special)
  refine ⟨fun is => retires_mfs ready spelled aux rb (by rw [is]; decide) (by rw [is]; rfl), mfs _ _ (by decide) rfl, mfs _ _ (by decide) rfl,
    mfs _ _ (by decide) rfl, mfs _ _ (by decide) rfl, mfs _ _ (by decide) rfl, mfs _ _ (by decide) rfl, mfs _ _ (by decide) rfl, mfs _ _ (by decide) rfl,
    fun beyond => ?_, fun is => ?_, fun is => ?_, fun not5 not8 => ?_, fun is => ?_, fun is => ?_⟩
  · exact traps_of_bad ready spelled (by simp [beyond]) (show _ = execMfs n f s from rfl)
  · exact retires_mts ready spelled aux rb (.inl is) (if_pos is)
  · exact retires_mts ready spelled aux rb (.inr is) (if_neg (by rw [is]; decide))
  · exact traps_of_bad ready spelled (Bool.or_eq_true_iff.mpr (.inr (Bool.and_eq_true_iff.mpr ⟨bne_iff_ne.mpr not5, bne_iff_ne.mpr not8⟩))) (show _ = execMts n f s from rfl)
  · exact retires_of (exec_of_celec ready spelled (or_reqRbBad aux rb (by simp [is])) (show _ = execGetf n f s from rfl) rfl) rfl rfl
  · exact retires_of (exec_of_celec ready spelled (or_reqRbBad aux rb (by simp [is])) (show _ = execSetf n f s from rfl) rfl) rfl rfl

/-! Events and starts. -/

/-- A fold that leaves its start at every element. -/
theorem foldl_eq_self {α β : Type} {f : β → α → β} {b : β} : ∀ {l : List α}, (∀ q ∈ l, f b q = b) → l.foldl f b = b
  | [], _ => rfl
  | q :: l, h => by rw [List.foldl_cons, h q List.mem_cons_self]; exact foldl_eq_self fun r hr => h r (List.mem_cons_of_mem q hr)

/-- An event that no strand of the Seat waits for or starts on stays set. -/
theorem setEvent_unserved {seat e : Nat} {s : State} (none_ : ∀ q ∈ seatStrands s seat,
    waitsFor (strandAt s q.2) e true = false ∧ waitsFor (strandAt s q.2) e false = false ∧ startsOn s q.2 e = false) :
    setEvent seat e s = setEventFlags seat (setBit (eventFlags s seat) e) s := by
  have set : (eventFlags (setEventFlags seat (setBit (eventFlags s seat) e) s) seat).testBit e = true := by
    rw [eventFlags_setEventFlags, if_pos rfl]
    exact (bit_setBit _ _ _).trans (if_pos rfl)
  have same : seatStrands (setEventFlags seat (setBit (eventFlags s seat) e) s) seat = seatStrands s seat := rfl
  rw [setEvent, serveEvent, if_neg (not_not_intro set), same]
  have taker : eventTaker (setEventFlags seat (setBit (eventFlags s seat) e) s) seat e = none :=
    foldl_eq_self fun q hq => if_neg (by
      obtain ⟨-, waits, starts⟩ := none_ q hq
      exact Bool.eq_false_iff.mp (Bool.or_eq_false_iff.mpr ⟨waits, starts⟩))
  rw [foldl_eq_self fun q hq => if_neg (Bool.eq_false_iff.mp (none_ q hq).1)]
  simp only [taker]

section
variable {n : BitVec 6} {f : FormA} {s : State} (ready : Ready s n) (spelled : f.unassigned = none) (aux : f.aux = 0)
include ready spelled aux

theorem answers_spawn {p o : Nat} {u : State} (small : (regOf s n.toNat f.ra).toNat < 64)
    (owned : ownedPhys s (strandSeat s n.toNat) 48 (regOf s n.toNat f.ra).toNat = some p) (starts : startStrand p (regOf s n.toNat f.rb) s = (o, u)) :
    Answers (.spawn n f) n s u f.rd o 0 0 := by
  refine answers_of (exec_of_celec ready spelled (auxBad_false aux) (show _ = execSpawn n f s from rfl) ?_)
  simp only [if_pos small, owned, starts]

theorem answers_spawn_none (h : 64 ≤ (regOf s n.toNat f.ra).toNat ∨ ownedPhys s (strandSeat s n.toNat) 48 (regOf s n.toNat f.ra).toNat = none) :
    Answers (.spawn n f) n s s f.rd 0x15 0 0 := by
  refine answers_of (exec_of_celec ready spelled (auxBad_false aux) (show _ = execSpawn n f s from rfl) ?_)
  have target : (if (regOf s n.toNat f.ra).toNat < 64 then ownedPhys s (strandSeat s n.toNat) 48 (regOf s n.toNat f.ra).toNat else none) = none := by
    split
    · exact h.resolve_left (by omega)
    · rfl
  simp only [target]
  rfl

end

/-! What a start request does, by the strand's mode (R185). -/

section
variable {p : Nat} {v : Word} {s : State}

theorem startStrand_idle (h : (strandAt s p).mode = .idle) : startStrand p v s = (0, startIdle p v s) := by
  simp only [startStrand, h]; rfl

theorem startStrand_disabled (h : (strandAt s p).mode = .disabled) : startStrand p v s = (0x15, s) := by
  simp only [startStrand, h]; rfl

theorem startStrand_busy (notIdle : (strandAt s p).mode ≠ .idle) (notDisabled : (strandAt s p).mode ≠ .disabled) : startStrand p v s =
    if (strandAt s p).pending = none then (0x02, setStrand p { strandAt s p with pending := some v } s) else (0x10, s) := by
  cases h : (strandAt s p).mode
  case disabled => exact absurd h notDisabled
  case idle => exact absurd h notIdle
  all_goals simp only [startStrand, h]; rfl

end

/-- Settles O30: SIG's event is served on the state that the instruction leaves. -/
theorem signalSpawn : Obligations.SignalSpawn := by
  intro n f s ready spelled aux k seat e v
  refine ⟨fun rd rb => ⟨fun large => ?_, fun small => ?_⟩, setEvent_unserved, fun small p owned => ⟨fun idle => ?_, fun notIdle notDisabled free => ?_,
    fun notIdle notDisabled held => ?_, fun disabled => ?_⟩, answers_spawn_none ready spelled aux⟩
  · exact exec_of_celec ready spelled (or_reqRbBad aux rb (by simp [rd])) (show _ = execSig n f s from rfl) (if_pos large)
  · exact ⟨_, exec_of_celec ready spelled (or_reqRbBad aux rb (by simp [rd])) (show _ = execSig n f s from rfl) (if_neg (Nat.not_le.mpr small)),
      reschedule_turned _ _⟩
  · exact answers_spawn ready spelled aux small owned (startStrand_idle idle)
  · exact answers_spawn ready spelled aux small owned ((startStrand_busy notIdle notDisabled).trans (if_pos free))
  · exact answers_spawn ready spelled aux small owned ((startStrand_busy notIdle notDisabled).trans (if_neg (Option.isSome_iff_ne_none.mp held)))
  · exact answers_spawn ready spelled aux small owned (startStrand_disabled disabled)

/-- A phase behind the last of any frame, which no step reaches: LT counts as at frame 1 although its frame is 0. -/
def pastLastPhase : State :=
  { State.reset with
    lt := { State.reset.lt with phase := 19440 }
    st := { State.reset.st with strands := [(0, { Strand.reset with mode := .waiting, wait := some (.lt 1 0 0) })] } }

theorem wltWake_pastLastPhase : ∃ t, exec (.wltWake 0) pastLastPhase = .next t ∧ (strandAt t 0).mode = .running := ⟨_, rfl, by decide +kernel⟩

/-- Refutes O28: the statement does not ask for a state whose phase is one of a frame. In `pastLastPhase` the strand waits for 1.0, a later frame than LT's, and
wakes. -/
theorem not_waits : ¬ Obligations.Waits := by
  rintro ⟨⟨-, -, later⟩, -⟩
  have stands : exec (.wltWake 0) pastLastPhase = .next pastLastPhase := (later 0 pastLastPhase 1 0 0 rfl rfl).2 (by decide) (by decide)
  obtain ⟨t, wakes, running⟩ := wltWake_pastLastPhase
  rw [stands] at wakes
  cases wakes
  exact absurd running (by decide)

end Sys2Proof.Machine
end

section
/-!
PROOFS. Requests of a strand to the blocks (R155, R176 to R179): each answers what the block's own operation answers; what the rules allow is done.
-/
namespace Sys2Proof.Machine

open Sys2Proof

theorem touch_st (a : Agent) (next : Option (Nat × Nat)) (s : State) : (touch a next s).st = s.st :=
  (keeps_touch (W := [.host, .regs]) (by decide) (by decide) a next s (Keeps.refl _ s)).frame .st (by decide)

theorem touch_lt (a : Agent) (next : Option (Nat × Nat)) (s : State) : (touch a next s).lt = s.lt :=
  (keeps_touch (W := [.host, .regs]) (by decide) (by decide) a next s (Keeps.refl _ s)).lt_eq (by decide)

theorem reqTouch_lt (k : Nat) (s : State) : (reqTouch k s).lt = s.lt := touch_lt ..

theorem reqTouch_prot (k : Nat) (s : State) : (reqTouch k s).prot = s.prot :=
  (keeps_touch (W := [.host, .regs]) (by decide) (by decide) _ _ _ (Keeps.refl _ s)).prot_eq (by decide)

section
variable {i : Instr} {n : BitVec 6} {s t : State} {rd : BitVec 4} {code detail count : Nat}

/-- A request behind a check that passes answers as its body does. -/
theorem answers_of_checked {wr : Bool} {c : Option Fails} {go : State → State} (h : exec i s = .next (checked n.toNat wr c go s)) (ok : c = none)
    (ends : go s = answerCounted n.toNat rd code detail count t) : Answers i n s t rd code detail count :=
  answers_of ((exec_of_checked h ok).trans (congrArg Host.Outcome.next ends))

end

/-! Connections. -/

section
variable {n : BitVec 6} {f : FormA} {s : State} {c : Nat} (ready : Ready s n) (spelled : f.unassigned = none) (aux : f.aux = 0)
  (aligned : connAligned (regOf s n.toNat f.ra).toNat = none)
include ready spelled aux aligned

theorem answers_cwr_beyond (beyond : 0x1000000 ≤ (regOf s n.toNat f.ra).toNat)
    (passes : dataCheck s (strandSeat s n.toNat) false 4 (regOf s n.toNat f.rb).toNat
      (match connOfAddr (regOf s n.toNat f.ra).toNat with | some num => entrySize num | none => 4) = none) :
    Answers (.cwr n f) n s s f.rd 0x15 0 1 := by
  refine answers_of_checked (exec_of_celec ready spelled (auxBad_false aux) (show _ = execCwr n f s from rfl) rfl) ?_ ?_
  · rw [aligned]; exact passes
  · simp only [if_pos beyond]; rfl

variable (inside : (regOf s n.toNat f.ra).toNat < 0x1000000) (conn : connOfAddr (regOf s n.toNat f.ra).toNat = some c)
include inside conn

theorem answers_cwr (passes : dataCheck s (strandSeat s n.toNat) false 4 (regOf s n.toNat f.rb).toNat (entrySize c) = none) {o : Nat} {t : State}
    (stages : stageConn (strandAgent s n.toNat) c (dataVal s (strandSeat s n.toNat) (regOf s n.toNat f.rb).toNat (entrySize c)) (reqTouch n.toNat s) = (o, t)) :
    Answers (.cwr n f) n s t f.rd o 0 1 := by
  refine answers_of_checked (exec_of_celec ready spelled (auxBad_false aux) (show _ = execCwr n f s from rfl) rfl) ?_ ?_
  · rw [aligned]; simp only [conn]; exact passes
  · simp only [if_neg (Nat.not_le.mpr inside), conn, stages]

theorem answers_cdel (rb : f.rb = 0) {o : Nat} {t : State} (stages : stageConn (strandAgent s n.toNat) c 0 (reqTouch n.toNat s) = (o, t)) :
    Answers (.cdel n f) n s t f.rd o 0 0 := by
  refine answers_of_checked (exec_of_celec ready spelled (reqRbBad_false aux rb) (show _ = execCdel n f s from rfl) rfl) aligned ?_
  simp only [if_neg (Nat.not_le.mpr inside), conn, stages]

section
variable (passes : dataCheck s (strandSeat s n.toNat) true 4 (regOf s n.toNat f.rb).toNat (entrySize c) = none)
include passes

/-- CRD by what the Seat sees at the address. -/
theorem exec_crd : exec (.crd n f) s = .next
    (if ¬ connAssigned c then answerCounted n.toNat f.rd 0 0 0
        (dataPut (strandSeat s n.toNat) (regOf s n.toNat f.rb).toNat (toBytes (entrySize c) 0) (reqTouch n.toNat s))
      else if ¬ connReach (reqTouch n.toNat s) (strandSeat s n.toNat) c then answerCounted n.toNat f.rd 0x15 0 0 (reqTouch n.toNat s)
      else ((connRead (reqTouch n.toNat s) (strandSeat s n.toNat) c).map fun p =>
          answerCounted n.toNat f.rd 0 0 (newestEntry (reqTouch n.toNat s) (strandSeat s n.toNat) p false).2.1
            (dataPut (strandSeat s n.toNat) (regOf s n.toNat f.rb).toNat
              (toBytes (entrySize c) (entryImage (reqTouch n.toNat s) (strandSeat s n.toNat) p false)) (reqTouch n.toNat s))).getD
        (answerCounted n.toNat f.rd 0x15 0 0 (reqTouch n.toNat s))) := by
  have step := exec_of_checked (exec_of_celec ready spelled (auxBad_false aux) (show exec (.crd n f) s = execCrd n f s from rfl) rfl) aligned
  simp only [if_neg (Nat.not_le.mpr inside), conn] at step
  refine (exec_of_checked step passes).trans (congrArg Host.Outcome.next ?_)
  cases connRead (reqTouch n.toNat s) (strandSeat s n.toNat) c <;> rfl

theorem answers_crd_unassigned (assigned : connAssigned c = false) : Answers (.crd n f) n s
    (dataPut (strandSeat s n.toNat) (regOf s n.toNat f.rb).toNat (toBytes (entrySize c) 0) (reqTouch n.toNat s)) f.rd 0 0 0 := by
  refine answers_of ((exec_crd ready spelled aux aligned inside conn passes).trans ?_)
  simp [assigned]

variable (assigned : connAssigned c = true)
include assigned

theorem answers_crd_unreached (reach : connReach (reqTouch n.toNat s) (strandSeat s n.toNat) c = false) :
    Answers (.crd n f) n s (reqTouch n.toNat s) f.rd 0x15 0 0 := by
  refine answers_of ((exec_crd ready spelled aux aligned inside conn passes).trans ?_)
  simp [assigned, reach]

theorem answers_crd {p : Nat} (reach : connReach (reqTouch n.toNat s) (strandSeat s n.toNat) c = true)
    (reads : connRead (reqTouch n.toNat s) (strandSeat s n.toNat) c = some p) : Answers (.crd n f) n s
    (dataPut (strandSeat s n.toNat) (regOf s n.toNat f.rb).toNat
      (toBytes (entrySize c) (entryImage (reqTouch n.toNat s) (strandSeat s n.toNat) p false)) (reqTouch n.toNat s))
    f.rd 0 0 (newestEntry (reqTouch n.toNat s) (strandSeat s n.toNat) p false).2.1 := by
  refine answers_of ((exec_crd ready spelled aux aligned inside conn passes).trans ?_)
  simp [assigned, reach, reads]

end

/-- The state of a connection that the Seat reaches. -/
theorem answers_cstate (rb : f.rb = 0) {p : Nat} (assigned : connAssigned c = true) (reach : connReach (reqTouch n.toNat s) (strandSeat s n.toNat) c = true)
    (reads : connRead (reqTouch n.toNat s) (strandSeat s n.toNat) c = some p) :
    Answers (.cstate n f) n s (reqTouch n.toNat s) f.rd 0 0 (newestEntry (reqTouch n.toNat s) (strandSeat s n.toNat) p false).1 := by
  refine answers_of_checked (exec_of_celec ready spelled (reqRbBad_false aux rb) (show _ = execCstate n f s from rfl) rfl) aligned ?_
  have named : (reqConn (reqTouch n.toNat s) (strandSeat s n.toNat) (regOf s n.toNat f.ra).toNat).bind
      (connRead (reqTouch n.toNat s) (strandSeat s n.toNat)) = some p := by
    simp only [reqConn, if_neg (Nat.not_le.mpr inside), conn, Option.filter_some, assigned, reach, Bool.and_true, if_true, Option.bind_some, reads]
  simp only [named]
  rfl

theorem answers_cstate_unreached (rb : f.rb = 0) (reach : connReach (reqTouch n.toNat s) (strandSeat s n.toNat) c = false) :
    Answers (.cstate n f) n s (reqTouch n.toNat s) f.rd 0x15 0 0 := by
  refine answers_of_checked (exec_of_celec ready spelled (reqRbBad_false aux rb) (show _ = execCstate n f s from rfl) rfl) aligned ?_
  have none_ : reqConn (reqTouch n.toNat s) (strandSeat s n.toNat) (regOf s n.toNat f.ra).toNat = none := by
    simp only [reqConn, if_neg (Nat.not_le.mpr inside), conn, Option.filter_some, reach, Bool.and_false, Bool.false_eq_true, if_false]
  simp only [none_, Option.bind_none]
  rfl

end

/-- Settles O24: each request by what it finds at the address; ConnOk makes the staged write be taken. -/
theorem connectionRequests : Obligations.ConnectionRequests := by
  intro n f s c ready spelled aux k seat who a d s0 aligned
  refine ⟨answers_cwr_beyond ready spelled aux aligned, fun inside conn => ⟨fun passes => answers_cwr ready spelled aux aligned inside conn passes rfl,
    fun rb => answers_cdel ready spelled aux aligned inside conn rb rfl, fun passes => ?_, fun rb => ⟨fun p => answers_cstate ready spelled aux aligned inside conn rb,
    answers_cstate_unreached ready spelled aux aligned inside conn rb⟩, fun p x => ⟨fun passes ok => ?_, fun rb ok => ?_⟩⟩⟩
  · exact ⟨answers_crd_unreached ready spelled aux aligned inside conn passes, answers_crd_unassigned ready spelled aux aligned inside conn passes,
      fun p assigned => answers_crd ready spelled aux aligned inside conn passes assigned⟩
  · obtain ⟨t, stages, staged⟩ := stageConn_accepted ok
    exact ⟨t, answers_cwr ready spelled aux aligned inside conn passes stages, staged.of_lt (reqTouch_lt k s).symm rfl⟩
  · obtain ⟨t, stages, staged⟩ := stageConn_accepted ok
    exact ⟨t, answers_cdel ready spelled aux aligned inside conn rb stages, staged.of_lt (reqTouch_lt k s).symm rfl⟩

end Sys2Proof.Machine
end

section
/-!
PROOFS. Requests to the proof tables, protection, commits, the scan engine, the radio and DMA (R177 to R179, R284, R288, R433, R436).
-/
namespace Sys2Proof.Machine

open Sys2Proof

/-- An outcome word without a detail. -/
theorem outcomeWord_zero (code count : Nat) : outcomeWord code 0 count = BitVec.ofNat 32 (code + 65536 * (count % 65536)) := rfl

theorem regOf_reqTouch (k j : Nat) (s : State) (r : BitVec 4) : regOf (reqTouch k s) j r = regOf s j r :=
  congrArg (fun t => t.reg r.toNat) (strandAt_of_st (touch_st ..) j)

/-! Cord expectations and switch requests. -/

section
variable {n : BitVec 6} {f : FormA} {s t : State} {o : Nat} (ready : Ready s n) (spelled : f.unassigned = none) (aux : f.aux = 0)
include ready spelled aux

theorem answers_pxatt (aligned : connAligned (regOf s n.toNat f.ra).toNat = none)
    (passes : dataCheck s (strandSeat s n.toNat) false 4 (regOf s n.toNat f.rb).toNat 40 = none) {j : Nat}
    (stages : stageAttach (strandAgent s n.toNat) (regOf s n.toNat f.ra).toNat
      (dataVal s (strandSeat s n.toNat) (regOf s n.toNat f.rb).toNat 40) (reqTouch n.toNat s) = (o, j, t)) :
    Answers (.pxatt n f) n s t f.rd o 0 j := by
  refine answers_of_checked (exec_of_celec ready spelled (auxBad_false aux) (show _ = execPxatt n f s from rfl) rfl) ?_ ?_
  · rw [aligned]; exact passes
  · simp only [stages]

theorem answers_pxdet (aligned : connAligned (regOf s n.toNat f.ra).toNat = none) {j : Nat}
    (stages : stageDetach (strandAgent s n.toNat) (regOf s n.toNat f.ra).toNat (regOf s n.toNat f.rb).toNat (reqTouch n.toNat s) = (o, j, t)) :
    Answers (.pxdet n f) n s t f.rd o 0 0 := by
  refine answers_of_checked (exec_of_celec ready spelled (auxBad_false aux) (show _ = execPxdet n f s from rfl) rfl) aligned ?_
  simp only [stages]

section
variable (aligned : (regOf s n.toNat f.ra).toNat % 4 = 0) (small : (regOf s n.toNat f.rb).toNat < 16)
  (commands : commandAt (strandAgent (reqTouch n.toNat s) n.toNat) (regOf s n.toNat f.ra).toNat (regOf s n.toNat f.rb).toNat (reqTouch n.toNat s) = (o, t))
include aligned small commands

theorem answers_preq (ranks : o ≠ 0x10) : Answers (.preq n f) n s t f.rd o 0 0 := by
  refine answers_of_checked (exec_of_celec ready spelled (auxBad_false aux) (show _ = execPreq n f s from rfl) rfl) (alignFail_none aligned) ?_
  simp only [regOf_reqTouch, if_pos small, commands]
  rw [if_neg (show ¬ o = oCapacity from ranks)]

theorem answers_preq_outranked {g : ProtRef} {x : Nat} (object : protAt (reqTouch n.toNat s) (strandSeat (reqTouch n.toNat s) n.toNat)
      (regOf s n.toNat f.ra).toNat = some (g, x)) (outranked : o = 0x10) :
    Answers (.preq n f) n s t f.rd 0x10 (standing (cfgOf (reqTouch n.toNat s) g) false (ctlAt (reqTouch n.toNat s) g)).code 0 := by
  refine answers_of_checked (exec_of_celec ready spelled (auxBad_false aux) (show _ = execPreq n f s from rfl) rfl) (alignFail_none aligned) ?_
  simp only [regOf_reqTouch, if_pos small, commands]
  rw [if_pos (show o = oCapacity from outranked), outranked]
  simp only [strandAgent, object]

end

end

/-- Settles O25: each request hands what the object's own operation answers to the strand. -/
theorem proofProtectionRequests : Obligations.ProofProtectionRequests := by
  intro n f s ready spelled aux k seat who a b s0
  refine ⟨fun aligned passes => answers_pxatt ready spelled aux aligned passes rfl, fun aligned => answers_pxdet ready spelled aux aligned rfl,
    fun aligned small => ⟨answers_preq ready spelled aux aligned small rfl, fun g x object => answers_preq_outranked ready spelled aux aligned small rfl object⟩,
    fun aligned q p j => ⟨fun passes ok => ?_, fun ok => ?_⟩, fun aligned small g x object ok => ?_⟩
  · obtain ⟨t, stages, staged, entry⟩ := stageAttach_accepted ok
    exact ⟨t, answers_pxatt ready spelled aux aligned passes stages, staged.of_lt (reqTouch_lt k s).symm rfl, entry⟩
  · obtain ⟨t, stages, staged⟩ := stageDetach_accepted ok
    exact ⟨t, answers_pxdet ready spelled aux aligned stages, staged.of_lt (reqTouch_lt k s).symm rfl⟩
  · obtain ⟨t, commands, runs⟩ := commandAt_accepted (a := strandAgent s0 k) object ok
    exact ⟨t, answers_preq ready spelled aux aligned small commands (by decide), by rw [runs, ctlAt_of_prot (reqTouch_prot k s)]⟩

/-! Commits and scan jobs. -/

section
variable {n : BitVec 6} {f : FormA} {s t : State} {o i : Nat} (ready : Ready s n) (spelled : f.unassigned = none) (aux : f.aux = 0) (rb : f.rb = 0)
include ready spelled aux rb

theorem answers_cmtGo {target : Int} (position : ((frame32 s (regOf s n.toNat f.ra).toNat * phasesPerFrame : Nat) : Int) = target)
    (goes : goGroup (strandAgent s n.toNat) target s = (o, i, t)) {detail : Nat} (ident : (if o = 0x02 then i else 0) = detail) : Answers (.cmtGo n f) n s t f.rd o detail 0 := by
  refine answers_of (exec_of_celec ready spelled (reqRbBad_false aux rb) (show _ = execCmtGo n f s from rfl) ?_)
  simp only [position, goes]
  rw [← ident]
  rfl

theorem answers_cmtCancel (cancels : cancelGroup (strandAgent s n.toNat) ((regOf s n.toNat f.ra).toNat % 256) s = (o, t)) :
    Answers (.cmtCancel n f) n s t f.rd o 0 0 := by
  refine answers_of (exec_of_celec ready spelled (reqRbBad_false aux rb) (show _ = execCmtCancel n f s from rfl) ?_)
  simp only [cancels]

theorem stalls_sjob (passes : dataCheck s (strandSeat s n.toNat) false 4 (regOf s n.toNat f.ra).toNat 64 = none)
    (submits : scanSubmit (strandSeat s n.toNat) (dataVal s (strandSeat s n.toNat) (regOf s n.toNat f.ra).toNat 64) s = (o, i, t)) :
    Stalls (.sjob n f) n s t ⟨f.rd.toNat, BitVec.ofNat 32 (o + 65536 * (i % 65536)), some (decide (o < 0x10)), none⟩ := by
  refine stalls_of ((exec_of_checked (exec_of_celec ready spelled (reqRbBad_false aux rb) (show _ = execSjob n f s from rfl) rfl) passes).trans ?_)
  simp only [submits, answer, outcomeWord_zero, outcomeT]

theorem stalls_scancel (cancels : scanCancel (strandSeat s n.toNat) ((regOf s n.toNat f.ra).toNat % 65536) s = (o, t)) :
    Stalls (.scancel n f) n s t ⟨f.rd.toNat, BitVec.ofNat 32 o, some (decide (o < 0x10)), none⟩ := by
  refine stalls_of (exec_of_celec ready spelled (reqRbBad_false aux rb) (show _ = execScancel n f s from rfl) ?_)
  simp only [cancels, answer, outcomeWord_zero, outcomeT]
  rfl

end

/-- A job of the Seat that has not been tried is cancelled. -/
theorem scanCancel_waiting {seat i : Nat} {s : State} {j : ScanJob} (found : jobAt s i = some j) (own : j.seat = seat) (idle : j.busy = false)
    (fresh : j.tries = 0) : scanCancel seat i s = (0, endUnexposed j 0 0 true s) := by
  simp [scanCancel, found, own, idle, fresh, oDone]

/-! The radio. -/

section
variable {n : BitVec 6} {f : FormA} {s : State} (ready : Ready s n) (spelled : f.unassigned = none) (rb : f.rb = 0)
include ready spelled rb

section
variable (small : f.aux.toNat < 16) (passes : dataCheck s (strandSeat s n.toNat) false 4 (regOf s n.toNat f.ra).toNat 32 = none)
  {o x : Nat} {l : Option Nat} {t : State}
  (submits : radioSubmit (strandSeat s n.toNat) (dataVal s (strandSeat s n.toNat) (regOf s n.toNat f.ra).toNat 32) s = (o, x, l, t))
include small passes submits

/-- With an earliest legal position. -/
theorem stalls_rtx_legal (waits : o = 0x02 ∨ o = 0x11) {p : Nat} (legal : l = some p) : Stalls (.rtx n f) n s t
    ⟨f.rd.toNat, BitVec.ofNat 32 (o + 65536 * ((if o = 0x13 then x else 0) % 65536)), some (decide (o < 0x10)), some (f.aux.toNat, BitVec.ofNat 32 p)⟩ := by
  refine stalls_of ((exec_of_checked (exec_of_celec ready spelled (by simp [rb, small]) (show _ = execRtx n f s from rfl) rfl) passes).trans ?_)
  simp only [submits]
  rw [if_pos (show o = oDeferred ∨ o = oBudget from waits)]
  simp only [legal, outcomeWord_zero, outcomeT, Option.map_some]
  rfl

/-- With one asked for that was not computed. -/
theorem stalls_rtx_free (waits : o = 0x02 ∨ o = 0x11) (legal : l = none) : ∃ w : Word, Stalls (.rtx n f) n s { t with freeCtr := t.freeCtr + 1 }
    ⟨f.rd.toNat, BitVec.ofNat 32 (o + 65536 * ((if o = 0x13 then x else 0) % 65536)), some (decide (o < 0x10)), some (f.aux.toNat, w)⟩ := by
  refine ⟨Config.freeValue t.freeCtr, stalls_of
    ((exec_of_checked (exec_of_celec ready spelled (by simp [rb, small]) (show _ = execRtx n f s from rfl) rfl) passes).trans ?_)⟩
  simp only [submits]
  rw [if_pos (show o = oDeferred ∨ o = oBudget from waits)]
  simp only [legal, takeFree, outcomeWord_zero, outcomeT, Option.map_some]
  rfl

/-- Without one. -/
theorem stalls_rtx (notDeferred : o ≠ 0x02) (notBudget : o ≠ 0x11) : Stalls (.rtx n f) n s t
    ⟨f.rd.toNat, BitVec.ofNat 32 (o + 65536 * ((if o = 0x13 then x else 0) % 65536)), some (decide (o < 0x10)), none⟩ := by
  refine stalls_of ((exec_of_checked (exec_of_celec ready spelled (by simp [rb, small]) (show _ = execRtx n f s from rfl) rfl) passes).trans ?_)
  simp only [submits]
  rw [if_neg (show ¬ (o = oDeferred ∨ o = oBudget) from not_or.mpr ⟨notDeferred, notBudget⟩)]
  simp only [outcomeWord_zero, outcomeT, Option.map_none]
  rfl

end

section
variable (aux : f.aux = 0) (owned : owns s (strandSeat s n.toNat) 204 0 = true)
include aux owned

theorem answers_rrx_empty (empty : (radioSeat s (strandSeat s n.toNat)).rx = [])
    (passes : dataCheck s (strandSeat s n.toNat) true 4 (regOf s n.toNat f.ra).toNat 4 = none) : Answers (.rrx n f) n s s f.rd 0 0 0 := by
  refine answers_of_checked (exec_of_celec ready spelled (reqRbBad_false aux rb) (show _ = execRrx n f s from rfl) rfl) ?_ ?_
  · rw [empty]; exact passes
  · simp only [owned, empty]; rfl

theorem answers_rrx {r : List Byte} {rs : List (List Byte)} (held : (radioSeat s (strandSeat s n.toNat)).rx = r :: rs)
    (passes : dataCheck s (strandSeat s n.toNat) true 4 (regOf s n.toNat f.ra).toNat (max 4 r.length) = none) : Answers (.rrx n f) n s
    (dataPut (strandSeat s n.toNat) (regOf s n.toNat f.ra).toNat r
      { s with radio := { s.radio with
          seats := tset .reset s.radio.seats (strandSeat s n.toNat) { radioSeat s (strandSeat s n.toNat) with rx := rs } } }) f.rd 0 0 r.length := by
  refine answers_of_checked (exec_of_celec ready spelled (reqRbBad_false aux rb) (show _ = execRrx n f s from rfl) rfl) ?_ ?_
  · rw [held]; exact passes
  · simp only [owned, held]; rfl

end

end

/-- Settles O26: each request hands what the block's own operation answers to the strand. -/
theorem commitScanRadioRequests : Obligations.CommitScanRadioRequests := by
  refine ⟨fun n f s ready spelled aux rb => ?_, fun n f s ready spelled rb => ?_⟩
  · intro k seat who v
    refine ⟨?_, answers_cmtCancel ready spelled aux rb rfl, fun passes => stalls_sjob ready spelled aux rb passes rfl,
      stalls_scancel ready spelled aux rb rfl, fun p moved idx new ok => ?_, fun g ok => ?_, fun p moved passes ok => ?_, fun j found own idle fresh => ?_⟩
    · intro r
      have goes : goGroup who (frame32 s v * phasesPerFrame) s = (r.1, r.2.1, r.2.2) := rfl
      have position : ((frame32 s v * phasesPerFrame : Nat) : Int) = frame32 s v * phasesPerFrame := Nat.cast_mul _ _
      refine ⟨fun deferred => ?_, fun notDeferred => answers_cmtGo ready spelled aux rb position goes (if_neg notDeferred)⟩
      rw [deferred] at goes
      exact answers_cmtGo ready spelled aux rb position goes rfl
    · obtain ⟨t, goes, joined, -⟩ := goGroup_accepted ok
      exact ⟨t, answers_cmtGo ready spelled aux rb rfl goes rfl, joined⟩
    · obtain ⟨t, cancels, left⟩ := cancelGroup_accepted ok
      exact ⟨t, answers_cmtCancel ready spelled aux rb cancels, left⟩
    · obtain ⟨t, submits, posted⟩ := scanSubmit_accepted ok
      exact ⟨t, stalls_sjob ready spelled aux rb passes submits, posted⟩
    · exact stalls_scancel ready spelled aux rb (scanCancel_waiting found own idle fresh)
  · intro k seat d
    refine ⟨fun small passes => ⟨fun p waits legal => stalls_rtx_legal ready spelled rb small passes rfl waits legal,
      stalls_rtx_free ready spelled rb small passes rfl, stalls_rtx ready spelled rb small passes rfl⟩, ?_,
      fun aux owned => ⟨answers_rrx_empty ready spelled rb aux owned, fun r rs => answers_rrx ready spelled rb aux owned⟩⟩
    intro pay p x start small passes ok
    obtain ⟨t, submits, queued⟩ := radioSubmit_accepted ok
    refine ⟨t, queued, fun now => ?_, fun later => ?_⟩
    · have done := submits.trans (congrArg (fun o => (o, s.radio.nextId, some (ltImage p), t)) (if_pos now))
      exact stalls_rtx ready spelled rb small passes done (by decide) (by decide)
    · have deferred := submits.trans (congrArg (fun o => (o, s.radio.nextId, some (ltImage p), t)) (if_neg later))
      exact stalls_rtx_legal ready spelled rb small passes deferred (.inl rfl) rfl

/-! DMA. -/

section
variable {n : BitVec 6} {f : FormA} {s : State} (ready : Ready s n) (spelled : f.unassigned = none) (aux : f.aux = 0)
include ready spelled aux

theorem answers_dstart {c o : Nat} {t : State} (chan : reqChan s n.toNat f.ra = some c)
    (passes : dataCheck s (strandSeat s n.toNat) true 4 (regOf s n.toNat f.rb).toNat 32 = none) (starts : dmaStart c (regOf s n.toNat f.rb).toNat s = (o, t)) :
    Answers (.dstart n f) n s t f.rd o 0 0 := by
  refine answers_of_checked (exec_of_celec ready spelled (auxBad_false aux) (show _ = execDstart n f s from rfl) rfl) passes ?_
  simp only [chan, starts]

theorem answers_dstart_none (chan : reqChan s n.toNat f.ra = none)
    (passes : dataCheck s (strandSeat s n.toNat) true 4 (regOf s n.toNat f.rb).toNat 32 = none) : Answers (.dstart n f) n s s f.rd 0x15 0 0 := by
  refine answers_of_checked (exec_of_celec ready spelled (auxBad_false aux) (show _ = execDstart n f s from rfl) rfl) passes ?_
  simp only [chan]
  rfl

variable (rb : f.rb = 0)
include rb

theorem stalls_dstat {c : Nat} (chan : reqChan s n.toNat f.ra = some c) :
    Stalls (.dstat n f) n s s ⟨f.rd.toNat, BitVec.ofNat 32 (chanStatus s c), none, none⟩ := by
  refine stalls_of (exec_of_celec ready spelled (reqRbBad_false aux rb) (show _ = execDstat n f s from rfl) ?_)
  simp only [chan]

theorem answers_dstop {c : Nat} (chan : reqChan s n.toNat f.ra = some c) : Answers (.dstop n f) n s (dmaStop c s) f.rd 0 0 0 := by
  refine answers_of (exec_of_celec ready spelled (reqRbBad_false aux rb) (show _ = execDstop n f s from rfl) ?_)
  simp only [chan]
  rfl

theorem answers_dstop_none (chan : reqChan s n.toNat f.ra = none) : Answers (.dstop n f) n s s f.rd 0x15 0 0 := by
  refine answers_of (exec_of_celec ready spelled (reqRbBad_false aux rb) (show _ = execDstop n f s from rfl) ?_)
  simp only [chan]
  rfl

end

/-- A start of a channel at rest whose descriptor the Seat reaches. -/
theorem dmaStart_accepted {c d : Nat} {s : State} (rest : (chanAt s c).mode = .idle ∨ (chanAt s c).mode = .faulted)
    (reach : descReach s (chanSeat s c) d = true) : dmaStart c d s = (0, runDesc chainMax c d s) := by
  have free : ¬ ((chanAt s c).mode ≠ .idle ∧ (chanAt s c).mode ≠ .faulted) := fun ⟨a, b⟩ => rest.elim a b
  rw [dmaStart, if_neg free, if_neg (not_not_intro reach)]
  rfl

/-- Settles O27: a channel that the Seat OWNS takes the request, any other refuses it. -/
theorem dmaRequests : Obligations.DmaRequests := by
  intro n f s ready spelled aux k seat d
  refine ⟨fun c chan => ⟨fun passes => answers_dstart ready spelled aux chan passes rfl, fun passes rest reach => ?_, fun rb => ⟨?_, ?_⟩⟩,
    fun chan => ⟨answers_dstart_none ready spelled aux chan, fun rb => answers_dstop_none ready spelled aux rb chan⟩⟩
  · exact answers_dstart ready spelled aux chan passes (dmaStart_accepted rest reach)
  · exact stalls_dstat ready spelled aux rb chan
  · exact answers_dstop ready spelled aux rb chan

end Sys2Proof.Machine
end

section
/-!
PROOFS. Trap entry (R182, R193): the trap registers are written first; the handler's start and the landing point leave a trapped strand's context.
-/
namespace Sys2Proof.Machine

open Sys2Proof

/-- The context of a trapped strand stands but for a start that may be pending. -/
def KeptTrapped (x y : Strand) : Prop := y = { x with pending := y.pending, sliceOver := y.sliceOver }

theorem KeptTrapped.refl (x : Strand) : KeptTrapped x x := rfl

theorem KeptTrapped.trans {x y z : Strand} (h : KeptTrapped x y) (k : KeptTrapped y z) : KeptTrapped x z := by
  unfold KeptTrapped at *; rw [k, h]

theorem KeptTrapped.mode {x y : Strand} (h : KeptTrapped x y) : y.mode = x.mode := by rw [h]

/-- The issue slot passes among ready strands only. -/
theorem Turned.keptTrapped {c n : Nat} {u t : State} (h : Turned c u t) (trapped : (strandAt u n).mode = .trapped) :
    KeptTrapped (strandAt u n) (strandAt t n) := by
  have mode : (strandAt t n).mode = (strandAt u n).mode := (h.modes n).resolve_right fun ⟨_, ready⟩ => by
    rcases ready with q | q <;> rw [trapped] at q <;> cases q
  have turn := h.turn n
  rw [SameTurn, mode] at turn
  rw [KeptTrapped, turn]

/-- The start of another strand. -/
theorem keptTrapped_startIdle {h n : Nat} {a : Word} {s : State} (other : h ≠ n) (trapped : (strandAt s n).mode = .trapped) :
    KeptTrapped (strandAt s n) (strandAt (startIdle h a s) n) := by
  obtain ⟨x, starts⟩ : ∃ x, startIdle h a s = reschedule (h / 8) (setStrand h x (clearLatches h s)) := ⟨_, rfl⟩
  have same : strandAt (setStrand h x (clearLatches h s)) n = strandAt s n := strandAt_setStrand_ne x _ other
  have kept := (reschedule_turned (h / 8) (setStrand h x (clearLatches h s))).keptTrapped (by rw [same]; exact trapped)
  rw [same] at kept
  exact starts ▸ kept

/-- A start request of any strand. -/
theorem keptTrapped_startStrand {h n : Nat} {a : Word} {s : State} (trapped : (strandAt s n).mode = .trapped) :
    KeptTrapped (strandAt s n) (strandAt (startStrand h a s).2 n) := by
  by_cases idle : (strandAt s h).mode = .idle
  · rw [startStrand_idle idle]
    exact keptTrapped_startIdle (fun same => by rw [same, trapped] at idle; cases idle) trapped
  · by_cases disabled : (strandAt s h).mode = .disabled
    · rw [startStrand_disabled disabled]; exact .refl _
    · rw [startStrand_busy idle disabled]
      split
      · rw [strandAt_setStrand]
        split
        · next same => subst same; rfl
        · exact .refl _
      · exact .refl _

/-- The context that a trap leaves (R182). -/
def Strand.trap (x : Strand) (code detail faddr : Nat) (wr : Bool) : Strand :=
  { x with mode := .trapped, fault := BitVec.ofNat 32 (code + 256 * (detail % 256) + 65536 * b2n wr), faddr := BitVec.ofNat 32 faddr, epc := x.pc
           wait := none, stall := none }

/-- A trap before the handler's start: the trap registers and the Seat's cause (R182, R193). -/
def trapCaused (k code detail faddr : Nat) (wr : Bool) (s : State) : State :=
  setCause (strandSeat s k) (0x48010 + 4 * (strandLocal s k / 32)) (strandLocal s k % 32) (setStrand k ((strandAt s k).trap code detail faddr wr) s)

/-- A trap is `trapCaused`, the start of a handler or none, a landing point. -/
theorem trapStrand_eq (k code detail faddr : Nat) (wr : Bool) (s : State) : ∃ u, trapStrand k code detail faddr wr s = reschedule (k / 8) u ∧
    (u = trapCaused k code detail faddr wr s ∨ ∃ h a, u = (startStrand h a (trapCaused k code detail faddr wr s)).2) := by
  refine ⟨_, rfl, ?_⟩
  split
  · split
    · exact .inr ⟨_, _, rfl⟩
    · exact .inl rfl
  · exact .inl rfl

theorem strandAt_setCause (seat off b : Nat) (s : State) (n : Nat) : strandAt (setCause seat off b s) n = strandAt s n :=
  strandAt_of_st ((keeps_setCause (W := [.host, .regs]) (by decide) (by decide) seat off b s (Keeps.refl _ s)).frame .st (by decide)) n

theorem rget_of_regs {s u : State} (e : u.regs = s.regs) (key : Nat) : rget u key = rget s key := by rw [rget, e, rget]

/-- The cause's bit is set. -/
theorem rbit_setCause (seat off b : Nat) (s : State) : rbit (setCause seat off b s) (kS seat off) b = true := by
  have regs := (keeps_notify (W := [.host]) (by decide) seat (rmod s (kS seat off) (fun v => setBit v b)) (Keeps.refl _ _)).frame .regs (by decide)
  rw [rbit, setCause, rget_of_regs regs, rmod, rget_rset_self, bit_setBit, if_pos rfl]

/-- What a trap leaves of the strand, and its cause. -/
theorem trapStrand_leaves (k code detail faddr : Nat) (wr : Bool) (s : State) :
    KeptTrapped ((strandAt s k).trap code detail faddr wr) (strandAt (trapStrand k code detail faddr wr s) k) ∧
    rbit (trapStrand k code detail faddr wr s) (kS (strandSeat s k) (0x48010 + 4 * (strandLocal s k / 32))) (strandLocal s k % 32) = true := by
  have context : strandAt (trapCaused k code detail faddr wr s) k = (strandAt s k).trap code detail faddr wr := by
    rw [trapCaused, strandAt_setCause, strandAt_setStrand_self]
  have cause := rbit_setCause (strandSeat s k) (0x48010 + 4 * (strandLocal s k / 32)) (strandLocal s k % 32)
    (setStrand k ((strandAt s k).trap code detail faddr wr) s)
  have trapped : (strandAt (trapCaused k code detail faddr wr s) k).mode = .trapped := by rw [context]; rfl
  obtain ⟨u, is, starts⟩ := trapStrand_eq k code detail faddr wr s
  have started : KeptTrapped (strandAt (trapCaused k code detail faddr wr s) k) (strandAt u k) ∧ u.regs = (trapCaused k code detail faddr wr s).regs := by
    rcases starts with rfl | ⟨h, a, rfl⟩
    · exact ⟨.refl _, rfl⟩
    · exact ⟨keptTrapped_startStrand trapped,
        (keeps_startStrand (W := [.host, .st]) (by decide) (by decide) h a _ (Keeps.refl _ _)).frame .regs (by decide)⟩
  have landed := reschedule_turned (k / 8) u
  rw [is, ← context]
  refine ⟨started.1.trans (landed.keptTrapped (started.1.mode.trans trapped)), ?_⟩
  rw [rbit, rget_of_regs ((landed.only .regs (by decide)).trans started.2)]
  exact cause

/-- Settles O13: the trap's context, kept by all that follows. -/
theorem trapEntry : Obligations.TrapEntry := by
  intro k code detail faddr wr s t x y loc
  obtain ⟨context, cause⟩ := trapStrand_leaves k code detail faddr wr s
  have is : y = { x.trap code detail faddr wr with pending := y.pending, sliceOver := y.sliceOver } := context
  rw [is]
  exact ⟨rfl, rfl, rfl, rfl, rfl, rfl, rfl, rfl, cause,
    (keeps_trapStrand (by decide) (by decide) (by decide) k code detail faddr wr s (Keeps.refl _ s)).frame⟩

end Sys2Proof.Machine
end

section
/-!
PROOFS. The block operations (R169 to R172): how an issue of BLKMOV and of CSETN ends, from the run of its units.
-/
namespace Sys2Proof.Machine

open Sys2Proof

/-! A strand put twice. -/

theorem tdel_tdel_self {α : Type} (k : Nat) : ∀ t : Tab α, tdel (tdel t k) k = tdel t k
  | [] => rfl
  | (i, v) :: t => by
    by_cases h : i = k
    · rw [tdel, if_pos h, tdel_tdel_self k t]
    · rw [tdel, if_neg h, tdel, if_neg h, tdel_tdel_self k t]

theorem tdel_tins_self {α : Type} (k : Nat) (v : α) : ∀ t : Tab α, tdel (tins t k v) k = tdel t k
  | [] => if_pos rfl
  | (i, w) :: t => by
    rw [tins]
    split
    · exact if_pos rfl
    · rw [tdel, tdel, tdel_tins_self k v t]

theorem tset_tset_self {α : Type} [DecidableEq α] (d : α) (t : Tab α) (k : Nat) (v w : α) : tset d (tset d t k v) k w = tset d t k w := by
  have del : tdel (tset d t k v) k = tdel t k := by
    unfold tset
    split
    · exact tdel_tdel_self k t
    · rw [tdel_tins_self, tdel_tdel_self]
  rw [tset, del, tset]

theorem setStrand_setStrand (k : Nat) (x y : Strand) (s : State) : setStrand k y (setStrand k x s) = setStrand k y s := by
  simp only [setStrand, tset_tset_self]

theorem modStrand_setStrand (k : Nat) (f : Strand → Strand) (x : Strand) (s : State) : modStrand k f (setStrand k x s) = setStrand k (f x) s := by
  rw [modStrand_eq, strandAt_setStrand_self, setStrand_setStrand]

/-- Completion with s.prog set. -/
theorem retire_setProg (k p : Nat) (g : Strand → Strand) (s : State) : retire k g (setProg k p s) = reschedule (k / 8)
    (setStrand k { g { strandAt s k with prog := BitVec.ofNat 32 p } with pc := nextPc (strandAt s k).pc } s) := by
  rw [retire, setProg, modStrand_eq k _ s, modStrand_setStrand]

theorem countOutcome_setStrand (seat code k : Nat) (x : Strand) (s : State) :
    countOutcome seat code (setStrand k x s) = setStrand k x (countOutcome seat code s) := by
  unfold countOutcome; split <;> rfl

theorem strandAt_countOutcome (seat code k : Nat) (s : State) : strandAt (countOutcome seat code s) k = strandAt s k :=
  strandAt_of_st ((keeps_countOutcome (W := [.book]) (by decide) seat code s (Keeps.refl _ s)).frame .st (by decide)) k

/-! Progress held elsewhere. -/

section
variable {n : BitVec 6} {f : FormA} {stop : Option Nat} {s : State}

theorem progConflict_false (h : (strandAt s n.toNat).prog = 0 ∨ (strandAt s n.toNat).epc = (strandAt s n.toNat).pc) : progConflict s n.toNat = false := by
  rcases h with h | h <;> simp [progConflict, h]

theorem progConflict_true (held : (strandAt s n.toNat).prog ≠ 0) (elsewhere : (strandAt s n.toNat).epc ≠ (strandAt s n.toNat).pc) :
    progConflict s n.toNat = true := by
  simp only [progConflict, Bool.and_eq_true, bne_iff_ne]; exact ⟨held, elsewhere⟩

theorem blkBad_false (small : f.aux.toNat < 8) (space : bits f.aux.toNat 0 2 ≠ 3) : blkBad f = false := by
  have high : bits f.aux.toNat 2 2 < 2 := by simp only [bits, Nat.shiftRight_eq_div_pow]; omega
  simp only [blkBad, Bool.or_eq_false_iff, decide_eq_false_iff_not, beq_eq_false_iff_ne]
  exact ⟨⟨by omega, space⟩, by omega⟩

theorem csetnBad_false (small : f.aux.toNat < 16) : decide (16 ≤ f.aux.toNat) = false := decide_eq_false (Nat.not_le.mpr small)

variable (ready : Ready s n) (spelled : f.unassigned = none)
include ready spelled

theorem traps_csetn_conflict (small : f.aux.toNat < 16) (conflict : progConflict s n.toNat = true) :
    Traps (.csetn n f stop) n s 0xA 0 (strandAt s n.toNat).pc.toNat false :=
  exec_of_celec ready spelled (csetnBad_false small) (show _ = execCsetn n f stop s from rfl) (if_pos conflict)

theorem traps_blkmov_conflict (ok : blkBad f = false) (conflict : progConflict s n.toNat = true) :
    Traps (.blkmov n f stop) n s 0xA 0 (strandAt s n.toNat).pc.toNat false :=
  exec_of_celec ready spelled ok (show _ = execBlkmov n f stop s from rfl) (if_pos conflict)

end

/-- Settles O20: the conflict comes before every other check of a block operation. -/
theorem progressConflict : Obligations.ProgressConflict := by
  intro n f stop s ready spelled x
  refine ⟨fun held elsewhere => ⟨fun small => ?_, fun space small => ?_⟩, fun ra zero => ?_⟩
  · exact traps_csetn_conflict ready spelled small (progConflict_true held elsewhere)
  · exact traps_blkmov_conflict ready spelled (blkBad_false small space) (progConflict_true held elsewhere)
  · rw [← zero]
    exact retires_mts ready rfl rfl rfl (.inr rfl) rfl

/-! BLKMOV. -/

section
variable {n : BitVec 6} {f : FormA} {stop : Option Nat} {s t : State} {i : Nat} {e : BlockEnd}

/-- How an issue of BLKMOV whose units may run ends. -/
theorem exec_blkmov (ready : Ready s n) (spelled : f.unassigned = none) (ok : blkBad f = false) (conflict : progConflict s n.toNat = false) :
    let k := n.toNat
    let src := (regOf s k f.ra).toNat
    let dst := (regOf s k f.rd).toNat
    let len := (regOf s k f.rb).toNat
    let sp := bits f.aux.toNat 0 2
    let dp := bits f.aux.toNat 2 2
    let start := ((strandAt s k).prog.toNat + 63) / 64
    len ≤ 0x40000 → (sp = 2 → src % 4 = 0 ∧ len % 4 = 0) →
    runUnits (blkUnit k (strandSeat s k) sp dp src dst len (decide (sp = dp ∧ src < dst ∧ dst < src + len))) ((len + 63) / 64)
      (unitLimit ((len + 63) / 64) stop) start (if sp = 2 then touch (strandAgent s k) none s else s) = (i, e, t) →
    exec (.blkmov n f stop) s = .next (endBlock k e (64 * i) (fun _ u => retire k id u) (afterUnits e start i s t)) := by
  intro k src dst len sp dp start size aligned run
  refine exec_of_checked (exec_of_celec ready spelled ok (show _ = execBlkmov n f stop s from rfl)
    ((if_neg (Bool.eq_false_iff.mp conflict)).trans (if_neg (Nat.not_lt.mpr size)))) ?_ |>.trans ?_
  · split
    · next object =>
      obtain ⟨a, b⟩ := aligned object
      rw [alignFail_none a]
      exact if_pos b
    · rfl
  · exact congrArg (fun r => Host.Outcome.next (endBlock k r.2.1 (64 * r.1) (fun _ u => retire k id u) (afterUnits r.2.1 start r.1 s r.2.2))) run

end

/-- A run of BLKMOV's units leaves the strands. -/
theorem strandAt_blkRun {k seat sp dp src dst len total limit start i m : Nat} {down : Bool} {e : BlockEnd} {s0 s t : State} (e0 : s0.st = s.st)
    (run : runUnits (blkUnit k seat sp dp src dst len down) total limit start s0 = (i, e, t)) : strandAt t m = strandAt s m := by
  have keeps := keeps_runUnits (W := [.mate, .sram]) (blkUnit k seat sp dp src dst len down) total limit start s0
    (fun j u h => keeps_blkUnit (by decide) (by decide) k seat sp dp src dst len down j u h) (Keeps.refl _ s0)
  rw [run] at keeps
  exact strandAt_of_st ((keeps.frame .st (by decide)).trans e0) m

/-- Settles O21: `endBlock` case by case; the units leave the strand's pc. -/
theorem blockMove : Obligations.BlockMove := by
  intro n f stop s t i e ready spelled k x src dst len sp dp total down start small space free size aligned run
  have step := exec_blkmov ready spelled (blkBad_false small space) (progConflict_false free) size (fun object => aligned object) run
  have pc : strandAt t k = x := strandAt_blkRun (s := s) (by split <;> simp only [touch_st]) run
  refine ⟨fun complete => ?_, fun paused => ?_, fun fl wr trap => ?_⟩
  · subst complete
    have ends := ran_reschedule (step.trans (congrArg Host.Outcome.next (retire_setProg k 0 id t)))
    rw [Retires, ← show (strandAt t k).pc = x.pc from congrArg Strand.pc pc]
    exact ends
  · subst paused
    exact ran_reschedule step
  · subst trap
    refine ⟨fun none_ => step.trans ?_, fun b some_ => step.trans ?_⟩
    · simp only [endBlock, trapFail, none_]; rfl
    · simp only [endBlock, trapFail, some_]; rfl

/-! CSETN. -/

theorem countOutcome_setProg (seat code k p : Nat) (s : State) : countOutcome seat code (setProg k p s) = setProg k p (countOutcome seat code s) := by
  rw [setProg, modStrand_eq, countOutcome_setStrand, setProg, modStrand_eq, strandAt_countOutcome]

/-- The answer of a CSETN (R172): the outcome counted, the outcome word and T, nothing held in s.prog. -/
def csetnEnd (k seat : Nat) (aux : BitVec 8) (code detail count : Nat) (u : State) : State :=
  setStrand k { ((strandAt u k).setT (decide (code < 0x10))).setReg aux.toNat (BitVec.ofNat 32 (code + 256 * detail + 65536 * count)) with
    prog := 0, pc := nextPc (strandAt u k).pc } (countOutcome seat code u)

theorem Strand.setReg_setT_prog (x : Strand) (b : Bool) (r : Nat) (v p : Word) :
    ({ x with prog := p }.setT b).setReg r v = { (x.setT b).setReg r v with prog := p } := by
  unfold Strand.setReg; split <;> rfl

theorem retire_csetnEnd {aux : BitVec 8} {detail count : Nat} (small : aux.toNat < 16) (byte : detail < 256) (half : count < 65536) (k seat code : Nat)
    (u : State) : retire k (fun t => (t.setT (outcomeT code)).setReg (aux.toNat % 16) (outcomeWord code detail count))
      (countOutcome seat code (setProg k 0 u)) = reschedule (k / 8) (csetnEnd k seat aux code detail count u) := by
  rw [countOutcome_setProg, retire_setProg, strandAt_countOutcome, outcomeWord, Nat.mod_eq_of_lt small, Nat.mod_eq_of_lt byte, Nat.mod_eq_of_lt half]
  simp only [Strand.setReg_setT_prog]
  rfl

/-- How CSETN answers when its units end: all done, or entry `i` refused (R172). -/
def csetnFinish (k seat : Nat) (aux : BitVec 8) (i total : Nat) (e : BlockEnd) (u : State) : State :=
  let out (code detail count : Nat) : State :=
    retire k (fun t => (t.setT (outcomeT code)).setReg (aux.toNat % 16) (outcomeWord code detail count)) (countOutcome seat code u)
  match e with
  | .refused code => if i = 0 then out code 0 0 else out oFaulted code i
  | _ => out oDone 0 total

section
variable {n : BitVec 6} {f : FormA} {stop : Option Nat} {s t : State} {i : Nat} {e : BlockEnd} (ready : Ready s n) (spelled : f.unassigned = none)
  (small : f.aux.toNat < 16) (free : (strandAt s n.toNat).prog = 0 ∨ (strandAt s n.toNat).epc = (strandAt s n.toNat).pc)
include ready spelled small free

theorem traps_csetn_large (large : 256 < (regOf s n.toNat f.rb).toNat) : Traps (.csetn n f stop) n s 9 0x1D 0 false :=
  exec_of_celec ready spelled (csetnBad_false small) (show _ = execCsetn n f stop s from rfl)
    ((if_neg (Bool.eq_false_iff.mp (progConflict_false free))).trans (if_pos large))

theorem ran_csetn_empty (empty : (regOf s n.toNat f.rb).toNat = 0) :
    Ran (.csetn n f stop) n s (csetnEnd n.toNat (strandSeat s n.toNat) f.aux 0 0 0 s) := by
  refine ran_reschedule (exec_of_celec ready spelled (csetnBad_false small) (show _ = execCsetn n f stop s from rfl) ?_)
  refine ((if_neg (Bool.eq_false_iff.mp (progConflict_false free))).trans ((if_neg (by omega)).trans (if_pos empty))).trans ?_
  exact retire_csetnEnd small (by decide) (by decide) _ _ _ _

variable (some_ : 0 < (regOf s n.toNat f.rb).toNat) (few : (regOf s n.toNat f.rb).toNat ≤ 256) (aligned : connAligned (regOf s n.toNat f.rd).toNat = none)
  (run : runUnits (csetUnit n.toNat (strandSeat s n.toNat) (regOf s n.toNat f.rd).toNat (regOf s n.toNat f.ra).toNat) (regOf s n.toNat f.rb).toNat
    (unitLimit (regOf s n.toNat f.rb).toNat stop) (strandAt s n.toNat).prog.toNat (touch (strandAgent s n.toNat) none s) = (i, e, t))
include some_ few aligned run

/-- How an issue of CSETN whose units may run ends. -/
theorem exec_csetn : exec (.csetn n f stop) s = .next (endBlock n.toNat e i
    (csetnFinish n.toNat (strandSeat s n.toNat) f.aux i (regOf s n.toNat f.rb).toNat) (afterUnits e (strandAt s n.toNat).prog.toNat i s t)) := by
  refine exec_of_checked (exec_of_celec ready spelled (csetnBad_false small) (show _ = execCsetn n f stop s from rfl)
    ((if_neg (Bool.eq_false_iff.mp (progConflict_false free))).trans ((if_neg (Nat.not_lt.mpr few)).trans (if_neg (Nat.ne_of_gt some_))))) aligned |>.trans ?_
  simp only [run]
  cases e <;> rfl

theorem ran_csetn_complete (complete : e = .complete) :
    Ran (.csetn n f stop) n s (csetnEnd n.toNat (strandSeat s n.toNat) f.aux 0 0 (regOf s n.toNat f.rb).toNat t) := by
  subst complete
  refine ran_reschedule ((exec_csetn ready spelled small free some_ few aligned run).trans (congrArg Host.Outcome.next ?_))
  exact retire_csetnEnd small (by decide) (by omega) _ _ _ _

theorem ran_csetn_refused {code : Nat} (refused : e = .refused code) (first : i = 0) :
    Ran (.csetn n f stop) n s (csetnEnd n.toNat (strandSeat s n.toNat) f.aux code 0 0 t) := by
  subst refused
  refine ran_reschedule ((exec_csetn ready spelled small free some_ few aligned run).trans (congrArg Host.Outcome.next ?_))
  exact (if_pos first).trans (retire_csetnEnd small (by decide) (by decide) _ _ _ _)

theorem ran_csetn_faulted {code : Nat} (refused : e = .refused code) (byte : code < 256) (later : 0 < i) (inside : i ≤ 256) :
    Ran (.csetn n f stop) n s (csetnEnd n.toNat (strandSeat s n.toNat) f.aux 0x20 code i t) := by
  subst refused
  refine ran_reschedule ((exec_csetn ready spelled small free some_ few aligned run).trans (congrArg Host.Outcome.next ?_))
  exact (if_neg (Nat.ne_of_gt later)).trans (retire_csetnEnd small byte (by omega) _ _ _ _)

theorem ran_csetn_paused (paused : e = .paused) : Ran (.csetn n f stop) n s (setStrand n.toNat
    { strandAt t n.toNat with prog := BitVec.ofNat 32 i, epc := (strandAt t n.toNat).pc } t) := by
  subst paused
  exact ran_reschedule (exec_csetn ready spelled small free some_ few aligned run)

end

/-- A run of one entry that the Seat may write. -/
theorem csetRun_one {k seat a d c p y : Nat} {s : State} (conn : connOfAddr a = some c) (inside : c < 8192 + 32 * 6144)
    (passes : dataCheck s seat false 4 d (entrySize c) = none) (ok : ConnOk (strandAgent s k) c (dataVal s seat d (entrySize c)) s p y) :
    ∃ t, runUnits (csetUnit k seat a d) 1 1 0 s = (1, .complete, t) ∧
      Staged (strandSeat s k) (connKey p) (setBits (entryNorm (isHo c) (dataVal s seat d (entrySize c))) 0 14 y) s t := by
  obtain ⟨t, stages, staged⟩ := stageConn_accepted ok
  have offset : entryOffset c 0 = 0 := by simp [entryOffset]
  have unit_ : csetUnit k seat a d 0 s = .ok t := by
    simp only [csetUnit, conn, Nat.add_zero, offset, passes, if_neg (Nat.not_le.mpr inside), stages]
    rfl
  refine ⟨t, ?_, staged⟩
  simp only [runUnits, unit_]
  rfl

/-- Settles O23: how the run of the entries ends decides the answer. -/
theorem connectionSet : Obligations.ConnectionSet := by
  intro n f stop s t i e ready spelled k x seat a total ends small free
  refine ⟨traps_csetn_large ready spelled small free, ran_csetn_empty ready spelled small free, fun some_ few aligned run _ => ⟨?_, fun code refused byte => ⟨?_, ?_⟩, ?_⟩, ?_⟩
  · exact ran_csetn_complete ready spelled small free some_ few aligned run
  · exact ran_csetn_refused ready spelled small free some_ few aligned run refused
  · exact ran_csetn_faulted ready spelled small free some_ few aligned run refused byte
  · exact ran_csetn_paused ready spelled small free some_ few aligned run
  · intro c p y d v fresh one whole held aligned conn inside passes ok
    obtain ⟨u, run, staged⟩ := csetRun_one conn inside passes ok
    refine ⟨u, ?_, staged⟩
    have single : (regOf s n.toNat f.rb).toNat = 1 := one
    have complete := ran_csetn_complete (stop := stop) (i := 1) (e := .complete) (t := u) ready spelled small free (by omega) (by omega) aligned
      (by rw [touch_of_none held, show (strandAt s n.toNat).prog = 0 from fresh, single, whole]; exact run) rfl
    rw [single] at complete
    exact complete

end Sys2Proof.Machine
end

section
/-!
PROOFS. A copy inside scratch (R171): the bytes copied so far form one interval of offsets, which grows at the end away from the source bytes still to be read.
-/
namespace Sys2Proof.Machine

open Sys2Proof

/-- The bytes at offsets from `lo` to `hi` are copied from `src` to `dst`, and nothing else has changed. -/
structure Copied (src dst lo hi : Nat) (s u : State) : Prop where
  only : OnlyIn [.sram] s u
  copied : ∀ j, lo ≤ j → j < hi → sramGet u (dst + j) = sramGet s (src + j)
  stands : ∀ b, b < dst + lo ∨ dst + hi ≤ b → sramGet u b = sramGet s b
  good : ∀ p, wordBad s p = false → wordBad u p = false

theorem Copied.empty (src dst lo : Nat) (s : State) : Copied src dst lo lo s s :=
  ⟨fun f _ => f.same_refl s, fun _ h k => absurd (Nat.lt_of_le_of_lt h k) (Nat.lt_irrefl _), fun _ _ => rfl, fun _ h => h⟩

theorem wordBad_sramWrite {s : State} {p : Nat} (good : wordBad s p = false) (a : Nat) (bs : List Byte) : wordBad (sramWrite s a bs) p = false := by
  rw [Bool.eq_false_iff, Ne, wordBad_iff] at good ⊢
  exact fun ⟨q, bad, word⟩ => good ⟨q, ((sramWrite_ecc s a bs q).mp bad).1, word⟩

/-- A unit next to the interval, read where nothing has been written, extends it. -/
theorem Copied.unit {src dst lo hi o n lo' hi' : Nat} {s u : State} (h : Copied src dst lo hi s u) (next : o + n = lo ∧ lo' = o ∧ hi' = hi ∨
    o = hi ∧ lo' = lo ∧ hi' = o + n) (ordered : lo ≤ hi) (unread : ∀ j, j < n → src + o + j < dst + lo ∨ dst + hi ≤ src + o + j) :
    Copied src dst lo' hi' s (sramWrite u (dst + o) (sramRead u (src + o) n)) := by
  obtain ⟨only, copied, stands, good⟩ := h
  have length : (sramRead u (src + o) n).length = n := by simp [sramRead]
  refine ⟨fun f w => f.same_trans (only f w) (onlyIn_sramWrite u _ _ f w), fun j low high => ?_, fun b out => ?_, fun p is => wordBad_sramWrite (good p is) _ _⟩
  · rw [sramGet_sramWrite, length]
    split
    · next inside =>
      have nth : (sramRead u (src + o) n).getD (dst + j - (dst + o)) 0 = sramGet u (src + o + (j - o)) := by
        rw [show dst + j - (dst + o) = j - o by omega]
        simp [sramRead, List.getD_eq_getElem?_getD, List.getElem?_range (show j - o < n by omega)]
      rw [nth, stands _ (unread _ (by omega)), show src + o + (j - o) = src + j by omega]
    · exact copied j (by omega) (by omega)
  · rw [sramGet_sramWrite, length, if_neg (by omega)]
    exact stands b (by omega)

/-- The offset at which unit `i` of a copy of `len` bytes begins, and its length. -/
def unitLength (len i : Nat) : Nat := min 64 (len - 64 * i)
def unitOffset (len : Nat) (down : Bool) (i : Nat) : Nat := if down then len - 64 * i - unitLength len i else 64 * i

/-- The ends of the interval that the first `i` units copy. -/
def copyLow (len : Nat) (down : Bool) (i : Nat) : Nat := if down then len - 64 * i else 0
def copyHigh (len : Nat) (down : Bool) (i : Nat) : Nat := if down then len else min (64 * i) len

section
variable {k seat src dst len : Nat} {down : Bool} {s u : State} (read : src + len ≤ 0x1000) (written : dst + len ≤ 0x1000)
include read written

/-- A unit inside scratch whose source has no error is done. -/
theorem blkUnit_scratch {i : Nat} (more : 64 * i < len) (good : ∀ j, j < len → wordBad u (scratchBase k + src + j) = false) :
    blkUnit k seat 1 1 src dst len down i u = .ok (sramWrite u (scratchBase k + dst + unitOffset len down i)
      (sramRead u (scratchBase k + src + unitOffset len down i) (unitLength len i))) := by
  have fits : unitOffset len down i + unitLength len i ≤ len := by
    unfold unitOffset unitLength; split <;> omega
  have source : firstFail (scratchReadFail u k) (src + unitOffset len down i) (unitLength len i) = none :=
    firstFail_none (by omega) fun j hj => scratchReadFail_none (by omega) (by
      rw [show scratchBase k + (src + unitOffset len down i + j) = scratchBase k + src + (unitOffset len down i + j) by omega]
      exact good _ (by omega))
  have target : firstFail scratchFail (dst + unitOffset len down i) (unitLength len i) = none :=
    firstFail_none (by omega) fun j hj => scratchFail_none (by omega)
  rw [blkUnit]
  change (match firstFail (scratchReadFail u k) ((src + unitOffset len down i) % 2 ^ 32) (unitLength len i) with
    | some f => Except.error (BlockEnd.trap f false)
    | none =>
      match firstFail scratchFail ((dst + unitOffset len down i) % 2 ^ 32) (unitLength len i) with
      | some f => Except.error (BlockEnd.trap f true)
      | none => Except.ok (sramWrite u (scratchBase k + (dst + unitOffset len down i) % 2 ^ 32)
          (sramRead u (scratchBase k + (src + unitOffset len down i) % 2 ^ 32) (unitLength len i)))) = _
  rw [Nat.mod_eq_of_lt (by omega), Nat.mod_eq_of_lt (by omega), source, target, Nat.add_assoc, Nat.add_assoc]

/-- The units of a copy inside scratch, in an order that reads each byte before it is overwritten. -/
theorem runUnits_scratch (order : down = decide (src < dst ∧ dst < src + len)) (good : ∀ j, j < len → wordBad s (scratchBase k + src + j) = false) :
    ∀ limit i u, i + limit = (len + 63) / 64 →
      Copied (scratchBase k + src) (scratchBase k + dst) (copyLow len down i) (copyHigh len down i) s u →
      ∃ t, runUnits (blkUnit k seat 1 1 src dst len down) ((len + 63) / 64) limit i u = ((len + 63) / 64, .complete, t) ∧
        Copied (scratchBase k + src) (scratchBase k + dst) 0 len s t := by
  intro limit
  induction limit with
  | zero =>
    intro i u at_ copied
    have low : copyLow len down i = 0 := by unfold copyLow; split <;> omega
    have high : copyHigh len down i = len := by unfold copyHigh; split <;> omega
    rw [low, high] at copied
    refine ⟨u, ?_, copied⟩
    rw [runUnits, if_pos (by omega), show i = (len + 63) / 64 by omega]
  | succ limit ih =>
    intro i u at_ copied
    have more : 64 * i < len := by omega
    have next : unitOffset len down i + unitLength len i = copyLow len down i ∧ copyLow len down (i + 1) = unitOffset len down i ∧
          copyHigh len down (i + 1) = copyHigh len down i ∨
        unitOffset len down i = copyHigh len down i ∧ copyLow len down (i + 1) = copyLow len down i ∧
          copyHigh len down (i + 1) = unitOffset len down i + unitLength len i := by
      unfold copyLow copyHigh unitOffset unitLength
      cases down
      · exact .inr ⟨by simp only [Bool.false_eq_true, if_false]; omega, rfl, by simp only [Bool.false_eq_true, if_false]; omega⟩
      · exact .inl ⟨by simp only [if_true]; omega, by simp only [if_true]; omega, rfl⟩
    have ordered : copyLow len down i ≤ copyHigh len down i := by unfold copyLow copyHigh; split <;> omega
    have unread : ∀ j, j < unitLength len i → scratchBase k + src + unitOffset len down i + j < scratchBase k + dst + copyLow len down i ∨
        scratchBase k + dst + copyHigh len down i ≤ scratchBase k + src + unitOffset len down i + j := by
      intro j hj
      unfold unitLength at hj
      unfold unitOffset unitLength copyLow copyHigh
      by_cases overlap : src < dst ∧ dst < src + len
      · rw [order, decide_eq_true overlap]; simp only [if_true]; omega
      · rw [order, decide_eq_false overlap]; simp only [Bool.false_eq_true, if_false]; omega
    obtain ⟨t, run, all⟩ := ih (i + 1) _ (by omega) (copied.unit next ordered unread)
    refine ⟨t, ?_, all⟩
    rw [runUnits, if_neg (by omega), blkUnit_scratch read written more fun j hj => copied.good _ (good j hj)]
    exact run

end

/-- Settles O22: the run of the units, none of which can fail. -/
theorem blockMoveOverlap : Obligations.BlockMoveOverlap := by
  intro n f s ready spelled aux k x src dst len base fresh read written good
  have at_ : base = scratchBase k := rfl
  obtain ⟨t, run, only, copied, stands, -⟩ := runUnits_scratch (seat := strandSeat s k) (s := s) read written rfl good ((len + 63) / 64) 0 s (by omega) (by
    have ends : copyLow len (decide (src < dst ∧ dst < src + len)) 0 = copyHigh len (decide (src < dst ∧ dst < src + len)) 0 := by
      unfold copyLow copyHigh; split <;> omega
    rw [ends]
    exact .empty ..)
  have same : strandAt t k = x := strandAt_of_st (only .st (by decide)) k
  have sp : bits f.aux.toNat 0 2 = 1 := by rw [aux]; decide
  have dp : bits f.aux.toNat 2 2 = 1 := by rw [aux]; decide
  have start : ((strandAt s n.toNat).prog.toNat + 63) / 64 = 0 := by rw [show (strandAt s n.toNat).prog = 0 from fresh]; decide
  have size : (regOf s n.toNat f.rb).toNat ≤ 0x40000 := show len ≤ 0x40000 by omega
  have moves := (blockMove n f none s t ((len + 63) / 64) .complete ready spelled (by rw [aux]; decide) (by rw [sp]; decide) (.inl fresh) size
    (by rw [sp]; exact fun h => absurd h (by decide)) (by
      rw [sp, dp, start]
      simp only [true_and]
      exact run)).1 rfl
  refine ⟨t, ?_, only, fun j hj => ?_, fun b out => stands b (by omega)⟩
  · have context : { strandAt t k with prog := 0 } = x := by rw [same, ← fresh]
    exact context ▸ moves
  · exact copied j (Nat.zero_le j) hj

end Sys2Proof.Machine
end

section
/-!
PROOFS. OLD, OST, RLD and RST (R164, R165, R167): behind the checks each is the access of the object or the register itself.
-/
namespace Sys2Proof.Machine

open Sys2Proof

/-! Loads. -/

section
variable {n : BitVec 6} {f : FormI} {s t : State} (ready : Ready s n) (spelled : f.unassigned = none)
  (aligned : effAddr (strandAt s n.toNat) f.ra f.imm % 4 = 0)
include ready spelled aligned

section
variable (inside : effAddr (strandAt s n.toNat) f.ra f.imm < 0x1000000)
include inside

theorem stalls_old {v : Nat} (reads : objRead (strandAgent s n.toNat) (effAddr (strandAt s n.toNat) f.ra f.imm) s = (some v, t)) :
    Stalls (.old n f) n s t ⟨f.rd.toNat, BitVec.ofNat 32 v, none, none⟩ := by
  have step := exec_of_checked (exec_of_celec ready spelled rfl (show exec (.old n f) s = execOld n f s from rfl) rfl)
    (by rw [alignFail_none aligned]; exact if_neg (Nat.not_le.mpr inside))
  exact stalls_of (step.trans (by simp only [reads]))

theorem traps_old (reads : objRead (strandAgent s n.toNat) (effAddr (strandAt s n.toNat) f.ra f.imm) s = (none, t)) :
    Traps (.old n f) n s 6 (objMapEntry (effAddr (strandAt s n.toNat) f.ra f.imm)) (effAddr (strandAt s n.toNat) f.ra f.imm) false := by
  have step := exec_of_checked (exec_of_celec ready spelled rfl (show exec (.old n f) s = execOld n f s from rfl) rfl)
    (by rw [alignFail_none aligned]; exact if_neg (Nat.not_le.mpr inside))
  exact step.trans (by simp only [reads, trapFail])

end

theorem traps_rld_beyond (beyond : 0x800000 ≤ effAddr (strandAt s n.toNat) f.ra f.imm) :
    Traps (.rld n f) n s 7 0 (effAddr (strandAt s n.toNat) f.ra f.imm) false :=
  (exec_rld ready spelled).elim fun _ h => traps_of_checked h (by rw [regAccessCheck, alignFail_none aligned]; exact if_pos beyond)

section
variable (inside : effAddr (strandAt s n.toNat) f.ra f.imm < 0x800000)
include inside

theorem stalls_rld {v : Nat} (reads : seatRead (strandAgent s n.toNat) (effAddr (strandAt s n.toNat) f.ra f.imm) s = (some v, t)) :
    Stalls (.rld n f) n s t ⟨f.rd.toNat, BitVec.ofNat 32 v, none, none⟩ := by
  have step := exec_of_checked (exec_of_celec ready spelled rfl (show exec (.rld n f) s = execRld n f s from rfl) rfl)
    (by rw [regAccessCheck, alignFail_none aligned]; exact if_neg (Nat.not_le.mpr inside))
  exact stalls_of (step.trans (by simp only [reads]))

theorem traps_rld (reads : seatRead (strandAgent s n.toNat) (effAddr (strandAt s n.toNat) f.ra f.imm) s = (none, t)) :
    Traps (.rld n f) n s 7 0 (effAddr (strandAt s n.toNat) f.ra f.imm) false := by
  have step := exec_of_checked (exec_of_celec ready spelled rfl (show exec (.rld n f) s = execRld n f s from rfl) rfl)
    (by rw [regAccessCheck, alignFail_none aligned]; exact if_neg (Nat.not_le.mpr inside))
  exact step.trans (by simp only [reads, trapFail])

end

end

/-! Stores. -/

section
variable {n : BitVec 6} {f : FormA} {s t : State} {o : Nat} (ready : Ready s n) (spelled : f.unassigned = none) (aux : f.aux = 0)
  (aligned : (regOf s n.toNat f.ra).toNat % 4 = 0)
include ready spelled aux aligned

theorem answers_ost (may : objWriteFail s (strandAgent s n.toNat) (regOf s n.toNat f.ra).toNat = none)
    (writes : objWrite (strandAgent s n.toNat) (regOf s n.toNat f.ra).toNat (regOf s n.toNat f.rb).toNat
      (dropKeyLoad (apertureOff (regOf s n.toNat f.ra).toNat) s) = (some o, t)) : Answers (.ost n f) n s t f.rd o 0 0 := by
  refine answers_of_checked (exec_of_celec ready spelled (auxBad_false aux) (show _ = execOst n f s from rfl) rfl) ?_ ?_
  · rw [alignFail_none aligned]; exact may
  · simp only [writes, Option.getD_some]

theorem traps_rst_beyond (beyond : 0x800000 ≤ (regOf s n.toNat f.ra).toNat) : Traps (.rst n f) n s 7 0 (regOf s n.toNat f.ra).toNat true := by
  refine traps_of_checked (exec_of_celec ready spelled (auxBad_false aux) (show exec (.rst n f) s = execRst n f s from rfl) rfl) ?_
  rw [regAccessCheck, alignFail_none aligned]
  simp only [if_pos beyond]
  rfl

theorem answers_rst (inside : (regOf s n.toNat f.ra).toNat < 0x800000) (may : rstFail s (strandAgent s n.toNat) (regOf s n.toNat f.ra).toNat = false)
    (writes : seatWrite (strandAgent s n.toNat) (regOf s n.toNat f.ra).toNat 0xF (regOf s n.toNat f.rb).toNat s = (some o, t)) :
    Answers (.rst n f) n s t f.rd o 0 0 := by
  refine answers_of_checked (exec_of_celec ready spelled (auxBad_false aux) (show _ = execRst n f s from rfl) rfl) ?_ ?_
  · rw [regAccessCheck, alignFail_none aligned]
    simp only [if_neg (Nat.not_le.mpr inside), may, Bool.false_eq_true, if_false]
    rfl
  · simp only [writes, Option.getD_some]

end

/-! What the object and the register take. -/

/-- A write of a low-order entry is one staged write. -/
theorem objWrite_conn {a : Agent} {addr v c : Nat} {s : State} (low : isHoAddr addr = false) (conn : connOfAddr addr = some c) :
    objWrite a addr v s = (some (stageConn a c v (touch a none s)).1, (stageConn a c v (touch a none s)).2) := by
  simp only [objWrite, low, Bool.false_eq_true, if_false, conn]

theorem dropKeyLoad_st_lt (off : Nat) (s : State) : (dropKeyLoad off s).st = s.st ∧ (dropKeyLoad off s).lt = s.lt := by
  unfold dropKeyLoad; split <;> exact ⟨rfl, rfl⟩

/-- A register of one word that the Seat may write takes the value at once. -/
theorem regWrite_one {a : Agent} {off v : Nat} {r : RegAt} {s : State} (free : s.led.keyWords = []) (held : (pathAt s a.pk).held = none)
    (hit : regAt s a.seat a.pk off true = .reg r) (keeper : keeperOnly r.desc = true → a.seat = 0) (writes : readOnly r.desc = false)
    (rights : mayWrite a.seat r = true) (one : multiWord r.desc = false) :
    regWrite a off v s = (some (regWriteVal a r v s).1, (regWriteVal a r v s).2) := by
  obtain ⟨l, found, desc⟩ := regAt_desc hit
  have allowed : keeperOnly l.desc = false ∨ a.seat = 0 := by
    rw [← desc]
    exact (Bool.eq_false_or_eq_true _).symm.imp_right keeper
  simp [regWrite, touch_of_none held, dropKeyLoad_of_keyFree (.inl free), found, not_keeperOnly_of_allowed allowed, hit, writes, rights, one]

/-- Settles O19: the checks pass, and the object's or the register's own access answers. -/
theorem objectRegisterAccess : Obligations.ObjectRegisterAccess := by
  refine ⟨?_, ?_⟩
  · intro n f s t v ready spelled k ea aligned
    exact ⟨fun inside => stalls_old ready spelled aligned inside, traps_old ready spelled aligned, fun inside => stalls_rld ready spelled aligned inside, traps_rld ready spelled aligned,
      traps_rld_beyond ready spelled aligned⟩
  intro n f s t o ready spelled aux k a ea v aligned
  refine ⟨answers_ost ready spelled aux aligned, answers_rst ready spelled aux aligned, traps_rst_beyond ready spelled aux aligned, ?_, ?_⟩
  · intro c p y s0 may low conn ok
    obtain ⟨u, stages, staged⟩ := stageConn_accepted ok
    refine ⟨u, answers_ost ready spelled aux aligned may ?_, staged.of_lt ?_ rfl⟩
    · rw [objWrite_conn low conn, show stageConn _ c v s0 = _ from stages]
      rfl
    · exact ((touch_lt a none _).trans (dropKeyLoad_st_lt _ s).2).symm
  · intro r inside register free held hit keeper writes rights one command notMate ok
    obtain ⟨u, applies, stores⟩ := regApply_accepted ok notMate
    have takes : ∀ x, regWrite a ea x s = (some (regWriteVal a r x s).1, (regWriteVal a r x s).2) := fun x =>
      regWrite_one free held hit keeper writes rights one
    have space : isMemOff ea = false := decide_eq_false (by omega)
    refine ⟨u, answers_rst ready spelled aux aligned inside ?_ ?_, stores⟩
    · rw [rstFail, register, if_neg (by decide), show regWrite _ _ 0 s = _ from takes 0]
      rfl
    · rw [seatWrite, register, if_neg (by decide), space, if_neg (by decide), show regWrite _ _ _ s = _ from takes v, regWriteVal, command, applies]
      rfl

end Sys2Proof.Machine
end

section
/-!
PROOFS. DMA movers (R203 to R205): what a grant leaves of the movers and the credits, and how a burst ends by its sides and its bytes.
-/
namespace Sys2Proof.Machine

open Sys2Proof

/-! A grant. -/

/-- Marking the channels that wait for credit leaves the movers and the credits. -/
theorem creditMarks_leaves (s : State) : (creditMarks s).dma.movers = s.dma.movers ∧ (creditMarks s).dma.credit = s.dma.credit := by
  rw [creditMarks]
  refine List.foldlRecOn (motive := fun t : State => t.dma.movers = s.dma.movers ∧ t.dma.credit = s.dma.credit) _ _ ⟨rfl, rfl⟩ fun t leaves c _ => ?_
  rw [creditMark]
  split
  · exact leaves
  · exact leaves

@[simp] theorem moverAt_creditMarks (s : State) (j : Nat) : moverAt (creditMarks s) j = moverAt s j := by
  rw [moverAt, (creditMarks_leaves s).1, moverAt]

@[simp] theorem dmaCredit_creditMarks (s : State) (seat : Nat) : dmaCredit (creditMarks s) seat = dmaCredit s seat := by
  rw [dmaCredit, (creditMarks_leaves s).2, dmaCredit]

/-- Mover `k` has taken the burst of channel `c`, and a credit of its Seat is gone. -/
def burstTaken (k c : Nat) (d : Descriptor) (v : State) : State :=
  { v with dma := { v.dma with
      movers := tset none v.dma.movers k (some (burstOf v c d)), credit := tmod 0 v.dma.credit (chanSeat v c) (· - 1)
      granted := tmod 0 v.dma.granted (chanSeat v c) (· + 1)
      lastGrant := tset 32 v.dma.lastGrant (chanClass v c) c } }

section
variable (k c : Nat) (d : Descriptor) (v : State)

theorem moverAt_burstTaken_self : moverAt (burstTaken k c d v) k = some (burstOf v c d) := by
  rw [moverAt, burstTaken, tget_tset_self]

theorem moverAt_burstTaken_ne {j : Nat} (other : j ≠ k) : moverAt (burstTaken k c d v) j = moverAt v j := by
  rw [moverAt, burstTaken, tget_tset_ne _ _ _ other.symm, moverAt]

theorem dmaCredit_burstTaken : dmaCredit (burstTaken k c d v) (chanSeat v c) = dmaCredit v (chanSeat v c) - 1 := tget_tset_self ..

end

section
variable {m : BitVec 2} {s : State} {c : Nat} {d : Descriptor}

theorem exec_dmaBurstGrant (runs : alive s = true) (free : moverAt (chainsOn s) m.toNat = none)
    (next : nextChan (chainsOn s) (decide (2 ≤ m.toNat)) = some c) (inHand : (chanAt (chainsOn s) c).desc = some d) :
    exec (.dmaBurstGrant m) s = .next (creditMarks (burstTaken m.toNat c d (chainsOn s))) := by
  show execDmaBurstGrant m s = _
  rw [execDmaBurstGrant, if_pos runs, burstGrant]
  generalize chainsOn s = v at *
  simp only [free, next, inHand, Option.isSome_none, Bool.false_eq_true, if_false]
  rfl

/-- A descriptor whose on-chip source has an uncorrectable error among the bytes of the burst. -/
theorem burstOf_ecc {p : Nat} (src : d.srcSpace = 0) (dst : d.dstSpace = 1) (mapped : dataPhys s (chanSeat s c) (d.src + d.done) = some p)
    (bad : ∃ j, j < burstLen d ∧ wordBad s (p + j) = true) : (burstOf s c d).fail = some 3 ∧ (burstOf s c d).srcPhys = p := by
  have found : (List.range (burstLen d)).any (fun j => wordBad s (p + j)) = true := by
    obtain ⟨j, inside, badWord⟩ := bad
    exact List.any_eq_true.mpr ⟨j, List.mem_range.mpr inside, badWord⟩
  simp only [burstOf, src, dst, mapped, found, and_self, if_true]

end

/-! The end of a burst. -/

section
variable {m : BitVec 2} {s : State}

theorem exec_dmaBurstComplete_idle (idle : moverAt s m.toNat = none) (hostData : List Byte) : exec (.dmaBurstComplete m hostData) s = .next s := by
  show execDmaBurstComplete m hostData s = _
  simp only [execDmaBurstComplete, idle]

theorem exec_dmaHostCompletionFault_idle (idle : moverAt s m.toNat = none) (timeout : Bool) : exec (.dmaHostCompletionFault m timeout) s = .next s := by
  show execDmaHostCompletionFault m s timeout = _
  simp only [execDmaHostCompletionFault, idle]

variable {b : Burst} (flight : moverAt s m.toNat = some b)
include flight

/-- A burst whose sides failed. -/
theorem exec_dmaBurstComplete_failed {e : Nat} (failed : b.fail = some e) (hostData : List Byte) : exec (.dmaBurstComplete m hostData) s =
    .next (burstFail b.chan e (if e = 3 then faultRaise (24 + b.srcPhys / 0x200000) (setMover m.toNat none s) else setMover m.toNat none s)) := by
  show execDmaBurstComplete m hostData s = _
  simp only [execDmaBurstComplete, flight, failed]

theorem exec_dmaHostCompletionFault (host : b.srcSpace = 1) (timeout : Bool) : exec (.dmaHostCompletionFault m timeout) s =
    .next (burstFail b.chan (b.fail.getD 4) (setMover m.toNat none (aerSet b.seat (if timeout then 14 else 16) s))) := by
  show execDmaHostCompletionFault m s timeout = _
  simp only [execDmaHostCompletionFault, flight, if_pos host]

variable {hostData data : List Byte} (good : b.fail = none) (bytes : (if b.srcSpace = 1 then hostData else b.data) = data)
include good bytes

/-- A burst that has too few bytes, or too many. -/
theorem exec_dmaBurstComplete_short (short : data.length ≠ b.len) :
    exec (.dmaBurstComplete m hostData) s = .next (burstFail b.chan 4 (setMover m.toNat none s)) := by
  show execDmaBurstComplete m hostData s = _
  simp only [execDmaBurstComplete, flight, good, bytes, if_pos short]

/-- A burst that has all its bytes and puts them. -/
theorem exec_dmaBurstComplete_done {t : State} (whole : data.length = b.len) (noStream : b.srcSpace ≠ 3)
    (puts : burstPut b data (setMover m.toNat none s) = some t) : exec (.dmaBurstComplete m hostData) s = .next (burstDone b t) := by
  show execDmaBurstComplete m hostData s = _
  simp only [execDmaBurstComplete, flight, good, bytes, if_neg (not_not_intro whole), puts, if_neg noStream]

end

/-- Bytes for the SRAM are written and mirrored. -/
theorem burstPut_sram {b : Burst} (dst : b.dstSpace = 0) (data : List Byte) (s : State) :
    burstPut b data s = some (mirrorSram b.dstPhys b.len (sramWrite s b.dstPhys data)) := by simp only [burstPut, dst]

/-- Bytes for host memory leave the part. -/
theorem burstPut_host {b : Burst} (dst : b.dstSpace = 1) (data : List Byte) (s : State) :
    burstPut b data s = some { s with dma := { s.dma with lastHostWrite := some (b.seat, b.dstPhys, data) } } := by simp only [burstPut, dst]

/-- Settles O39: a grant is `burstTaken`; a burst ends by its failure, by its length, or with its bytes put. -/
theorem dmaBursts : Obligations.DmaBursts := by
  intro m s k v
  refine ⟨fun c d runs free next inHand => ⟨_, exec_dmaBurstGrant runs free next inHand, ?_⟩, fun c d p => burstOf_ecc,
    fun idle hostData timeout => ⟨exec_dmaBurstComplete_idle idle hostData, exec_dmaHostCompletionFault_idle idle timeout⟩, ?_⟩
  · exact ⟨(moverAt_creditMarks ..).trans (moverAt_burstTaken_self ..), fun j other => (moverAt_creditMarks ..).trans (moverAt_burstTaken_ne _ _ _ _ other),
      (dmaCredit_creditMarks ..).trans (dmaCredit_burstTaken ..)⟩
  · intro b flight u
    refine ⟨fun e hostData failed notEcc => ?_, fun hostData ecc => exec_dmaBurstComplete_failed flight ecc hostData,
      fun hostData good host short => exec_dmaBurstComplete_short flight good (if_pos host) short,
      fun hostData good host sram whole => ?_, fun hostData good onChip whole => ?_,
      fun host timeout => ⟨_, exec_dmaHostCompletionFault flight host timeout, rfl⟩⟩
    · rw [exec_dmaBurstComplete_failed flight failed, if_neg notEcc]
      rfl
    · exact exec_dmaBurstComplete_done flight good (if_pos host) whole (by omega) (burstPut_sram sram ..)
    · have own : (if b.srcSpace = 1 then hostData else b.data) = b.data := if_neg (by omega)
      exact ⟨fun sram => exec_dmaBurstComplete_done flight good own whole (by omega) (burstPut_sram sram ..),
        fun host => exec_dmaBurstComplete_done flight good own whole (by omega) (burstPut_host host ..)⟩

end Sys2Proof.Machine
end

section
/-!
PROOFS. The issue of every Celec instruction (R156, R159, R160, R182, R191): each is `celec` with its strand, what of its word is unassigned, its op and its
reserved fields. A word that spells an instruction of the same constructor is of the same form, so op, fn and sub are assigned as that form reads them.
-/
namespace Sys2Proof

/-! Words (R159). -/

theorem FormA.ofWord_word (f : FormA) : FormA.ofWord f.word = f := by
  simp (disch := omega) only [FormA.ofWord, FormA.word, BitVec.extractLsb'_append_eq_of_le, BitVec.extractLsb'_append_eq_of_add_le,
    BitVec.extractLsb'_eq_self, Nat.reduceSub]

theorem FormI.ofWord_word (f : FormI) : FormI.ofWord f.word = f := by
  simp (disch := omega) only [FormI.ofWord, FormI.word, BitVec.extractLsb'_append_eq_of_le, BitVec.extractLsb'_append_eq_of_add_le,
    BitVec.extractLsb'_eq_self, Nat.reduceSub]

theorem FormB.ofWord_word (f : FormB) : FormB.ofWord f.word = f := by
  simp (disch := omega) only [FormB.ofWord, FormB.word, BitVec.extractLsb'_append_eq_of_le, BitVec.extractLsb'_append_eq_of_add_le,
    BitVec.extractLsb'_eq_self, Nat.reduceSub]

/-- Every form has its op in the upper six bits. -/
theorem toNat_op (w : BitVec 32) : (w.extractLsb' 26 6).toNat = w.toNat / 2 ^ 26 := by
  rw [BitVec.extractLsb'_toNat, Nat.shiftRight_eq_div_pow, Nat.mod_eq_of_lt]
  omega

/-! The form of a constructor. -/

/-- The three forms of a word. -/
inductive WordForm where
  | a | i | b
deriving DecidableEq

/-- The form of the instruction with a constructor index: the constructors from ADDI to OLD and RLD are of form I, the branches of form B. -/
def wordForm (c : Nat) : WordForm :=
  if ((Instr.addi 0 ⟨0, 0, 0, 0, 0⟩).ctorIdx ≤ c ∧ c ≤ (Instr.old 0 ⟨0, 0, 0, 0, 0⟩).ctorIdx) ∨ c = (Instr.rld 0 ⟨0, 0, 0, 0, 0⟩).ctorIdx then .i
  else if c = (Instr.bCond 0 ⟨0, 0, 0⟩).ctorIdx ∨ c = (Instr.blCond 0 ⟨0, 0, 0⟩).ctorIdx then .b
  else .a

section
variable {op k : Nat} (n : BitVec 6)

theorem wordForm_rowsA {c : BitVec 6 → FormA → Instr} (h : (rowsA op)[k]?.join = some c) (f : FormA) : wordForm (c n f).ctorIdx = .a := by
  have every : (rowsA op).all (fun o => o.all fun c => wordForm (c n f).ctorIdx == .a) = true := by
    unfold rowsA
    split <;> rfl
  have form := List.all_eq_true.mp every _ (List.mem_of_getElem? (Option.join_eq_some_iff.mp h))
  exact beq_iff_eq.mp form

theorem wordForm_rowsI {c : BitVec 6 → FormI → Instr} (h : (rowsI op)[k]?.join = some c) (f : FormI) : wordForm (c n f).ctorIdx = .i := by
  have every : (rowsI op).all (fun o => o.all fun c => wordForm (c n f).ctorIdx == .i) = true := by
    unfold rowsI
    split <;> rfl
  have form := List.all_eq_true.mp every _ (List.mem_of_getElem? (Option.join_eq_some_iff.mp h))
  exact beq_iff_eq.mp form

theorem wordForm_rowsB {c : BitVec 6 → FormB → Instr} (h : rowsB op = some c) (f : FormB) : wordForm (c n f).ctorIdx = .b := by
  have every : (rowsB op).all (fun c => wordForm (c n f).ctorIdx == .b) = true := by
    unfold rowsB
    split <;> rfl
  rw [h] at every
  exact beq_iff_eq.mp every

end

/-! What a word spells. -/

/-- What is unassigned of a word that is read in a form. -/
def WordForm.unassigned (w : BitVec 32) : WordForm → Option Nat
  | .a => (FormA.ofWord w).unassigned
  | .i => (FormI.ofWord w).unassigned
  | .b => (FormB.ofWord w).unassigned

theorem FormA.unassigned_word (f : FormA) : WordForm.a.unassigned f.word = f.unassigned := congrArg FormA.unassigned f.ofWord_word
theorem FormI.unassigned_word (f : FormI) : WordForm.i.unassigned f.word = f.unassigned := congrArg FormI.unassigned f.ofWord_word
theorem FormB.unassigned_word (f : FormB) : WordForm.b.unassigned f.word = f.unassigned := congrArg FormB.unassigned f.ofWord_word

section
variable {n : BitVec 6} {w : BitVec 32}

/-- A word that spells an instruction is assigned in that instruction's form. -/
theorem unassigned_of_celecCommand {j : Instr} (h : celecCommand n w = some j) : (wordForm j.ctorIdx).unassigned w = none := by
  unfold celecCommand at h
  dsimp only at h
  split at h
  · next c row =>
    cases h
    rw [wordForm_rowsA n row, WordForm.unassigned, FormA.unassigned, row]
    rfl
  · split at h
    · next c row =>
      cases h
      rw [wordForm_rowsI n row, WordForm.unassigned, FormI.unassigned, row]
      rfl
    · obtain ⟨c, row, rfl⟩ := Option.map_eq_some_iff.mp h
      rw [wordForm_rowsB n row, WordForm.unassigned, FormB.unassigned, row]
      rfl

/-- A word that spells no instruction is unassigned in every form. -/
theorem unassigned_of_celecCommand_none (h : celecCommand n w = none) (form : WordForm) : form.unassigned w = some (w.toNat / 2 ^ 26) := by
  unfold celecCommand at h
  dsimp only at h
  rw [← toNat_op]
  split at h
  · cases h
  · next rowA =>
    split at h
    · cases h
    · next rowI =>
      have rowB := Option.map_eq_none_iff.mp h
      cases form with
      | a => rw [WordForm.unassigned, FormA.unassigned, rowA]; rfl
      | i => rw [WordForm.unassigned, FormI.unassigned, rowI]; rfl
      | b => rw [WordForm.unassigned, FormB.unassigned, rowB]; rfl

end

/-! The blocks of the instructions. -/

/-- The blocks that hold the Celec instructions. -/
def CommandBlock.holdsCelec : CommandBlock → Bool
  | .arithmetic | .memory | .request | .control => true
  | _ => false

/-- A command with a strand or a word is in one of them. -/
theorem Instr.celec_block (i : Instr) : (i.issuer.isNone && i.celecWord.isNone || i.block.holdsCelec) = true := by cases i <;> rfl

end Sys2Proof

namespace Sys2Proof.Machine

open Sys2Proof

/-! The fetch. -/

/-- The issue of an instruction whose word has an uncorrectable error. -/
theorem celec_ecc {n : BitVec 6} {s : State} (slot : issues s n.toNat = true) (valid : fetchValid s n.toNat = true) (u : Option Nat) (op : Nat)
    (bad : Bool) (body : Nat → State → State) :
    let pc := (strandAt s n.toNat).pc.toNat
    let p := 4096 * (codePage s (strandSeat s n.toNat) (pc / 4096)).phys + pc % 4096
    wordBad s p = true → celec n u op bad body s = .next (faultRaise (24 + p / 0x200000) (trapStrand n.toNat 8 4 pc false s)) := by
  intro pc p badWord
  have fails : fetchEcc s n.toNat = some ⟨8, 4, pc, some (p / 0x200000)⟩ := eccFail_some badWord
  simp only [celec, slot, valid, fails, not_true_eq_false, if_false, trapFail]

/-! The instructions. -/

/-- A command is issued as a Celec instruction of strand `n`. -/
def CelecMeaning (i : Instr) (n : BitVec 6) (u : Option Nat) (op : Nat) (bad : Bool) : Prop := ∃ body, ∀ s, exec i s = celec n u op bad body s

/-- Command `i` is a Celec instruction of strand `n` with the word `w`, issued by its word and its reserved fields. -/
structure IssuedAs (i : Instr) (n : BitVec 6) (w : BitVec 32) (u : Option Nat) (op : Nat) (bad : Bool) : Prop where
  issuer : i.issuer = some n
  word : i.celecWord = some (n, w)
  read : (wordForm i.ctorIdx).unassigned w = u
  reserved : ∀ o, i.reservedSet = some (n, o) → o = op ∧ bad = true
  meaning : CelecMeaning i n u op bad

section
variable {i : Instr} {n : BitVec 6}

/-! The operations that several instructions share. -/

theorem celecMeaning_aluA {f : FormA} {bad : Bool} {g : Word → Word → Flags → Word × Flags} (h : ∀ s, exec i s = aluA n f bad g s) :
    CelecMeaning i n f.unassigned 0x01 bad := ⟨_, h⟩

theorem celecMeaning_aluI {f : FormI} {op : Nat} {bad : Bool} {imm : Word} {g : Word → Word → Flags → Word × Flags}
    (h : ∀ s, exec i s = aluI n op f bad imm g s) : CelecMeaning i n f.unassigned op bad := ⟨_, h⟩

theorem celecMeaning_dataLoad {f : FormI} {op size : Nat} {ext : Nat → Word} (h : ∀ s, exec i s = dataLoad n op size f ext s) :
    CelecMeaning i n f.unassigned op false := ⟨_, h⟩

theorem celecMeaning_dataStore {f : FormI} {size : Nat} (h : ∀ s, exec i s = dataStoreOp n size f s) :
    CelecMeaning i n f.unassigned 0x12 false := ⟨_, h⟩

theorem celecMeaning_scratchLoad {f : FormI} {size : Nat} (h : ∀ s, exec i s = scratchLoad n size f s) :
    CelecMeaning i n f.unassigned 0x13 false := ⟨_, h⟩

theorem celecMeaning_scratchStore {f : FormI} {size : Nat} (h : ∀ s, exec i s = scratchStore n size f s) :
    CelecMeaning i n f.unassigned 0x14 false := ⟨_, h⟩

theorem celecMeaning_atomic {f : FormA} {g : Word → Word → Word → Option Word} {setsT : Bool} (h : ∀ s, exec i s = atomic n f g setsT s) :
    CelecMeaning i n f.unassigned 0x1A (auxBad f) := ⟨_, h⟩

theorem celecMeaning_branch {f : FormB} {op : Nat} {link : Bool} (h : ∀ s, exec i s = branch n op f link s) :
    CelecMeaning i n f.unassigned op false := ⟨_, h⟩

theorem celecMeaning_jumpReg {f : FormA} {bad : Bool} {g : Strand → Strand} (h : ∀ s, exec i s = jumpReg n f bad g s) :
    CelecMeaning i n f.unassigned 0x32 bad := ⟨_, h⟩

/-! Reserved fields. -/

theorem reserved_of_none {op : Nat} {bad : Bool} (fields : i.reservedSet = none) (o : Nat) (is : i.reservedSet = some (n, o)) :
    o = op ∧ bad = true := by rw [fields] at is; cases is

/-- Reserved fields that make the issue trap. -/
theorem reserved_of_when {op : Nat} {set bad : Bool} (fields : i.reservedSet = if set then some (n, op) else none)
    (traps : set = true → bad = true) (o : Nat) (is : i.reservedSet = some (n, o)) : o = op ∧ bad = true := by
  rw [fields] at is
  split at is
  · next h => cases is; exact ⟨rfl, traps h⟩
  · cases is

end

section
variable {f : FormA}

theorem blkBad_of_reserved (h : (decide (8 ≤ f.aux.toNat) || decide (f.aux.toNat % 4 = 3)) = true) : blkBad f = true := by
  simp only [blkBad, bits, Nat.shiftRight_eq_div_pow, Bool.or_eq_true, decide_eq_true_eq, beq_iff_eq] at h ⊢
  omega

theorem auxRdBad_eq : auxRdBad f = (f.rd != 0 || f.aux != 0) := Bool.or_comm ..

theorem reqRbBad_eq : reqRbBad f = (f.rb != 0 || f.aux != 0) := Bool.or_comm ..

theorem or_reqRbBad_eq (x : Bool) : (x || reqRbBad f) = (x || f.rb != 0 || f.aux != 0) := by rw [reqRbBad_eq, Bool.or_assoc]

theorem hevBad_of_reserved {x : Bool} (h : (x || decide (16 ≤ f.aux.toNat)) = true) : (x || decide (10 < f.aux.toNat)) = true := by
  simp only [Bool.or_eq_true, decide_eq_true_eq] at h ⊢
  exact h.imp_right fun large => by omega

end

/-- Command `i` is a Celec instruction. -/
def Issued (i : Instr) : Prop := ∃ n w u op bad, IssuedAs i n w u op bad

/-- Arithmetic and logic (R162, R163). -/
theorem issued_arithmetic {i : Instr} (h : i.block = .arithmetic) : Issued i := by
  cases i with
  | add n f | adc n f | sub n f | sbc n f | and n f | or n f | xor n f | andn n f | shl n f | shr n f | sar n f | ror n f | mul n f | mulhu n f
  | mulhs n f | divu n f | remu n f | divs n f | rems n f | mins n f | maxs n f | minu n f | maxu n f | clz n f | popc n f | bswap n f | cmp n f
  | tst n f | csel n f =>
    exact ⟨n, _, _, _, _, rfl, rfl, f.unassigned_word, reserved_of_when rfl id, celecMeaning_aluA fun s => by unfold exec; dsimp only; rfl⟩
  | addi n f | andi n f | ori n f | xori n f =>
    exact ⟨n, _, _, _, _, rfl, rfl, f.unassigned_word, reserved_of_none rfl, celecMeaning_aluI fun s => by unfold exec; dsimp only; rfl⟩
  | cmpi n f | shli n f | shri n f | sari n f | rori n f | lui n f =>
    exact ⟨n, _, _, _, _, rfl, rfl, f.unassigned_word, reserved_of_when rfl id, celecMeaning_aluI fun s => by unfold exec; dsimp only; rfl⟩
  | _ => contradiction

/-- Loads, stores and atomics (R164 to R167). -/
theorem issued_memory {i : Instr} (h : i.block = .memory) : Issued i := by
  cases i with
  | ldW n f | ldHu n f | ldBu n f | ldsH n f | ldsB n f =>
    exact ⟨n, _, _, _, _, rfl, rfl, f.unassigned_word, reserved_of_none rfl, celecMeaning_dataLoad fun s => by unfold exec; dsimp only; rfl⟩
  | stW n f | stH n f | stB n f =>
    exact ⟨n, _, _, _, _, rfl, rfl, f.unassigned_word, reserved_of_none rfl, celecMeaning_dataStore fun s => by unfold exec; dsimp only; rfl⟩
  | ldxW n f | ldxHu n f | ldxBu n f =>
    exact ⟨n, _, _, _, _, rfl, rfl, f.unassigned_word, reserved_of_none rfl, celecMeaning_scratchLoad fun s => by unfold exec; dsimp only; rfl⟩
  | stxW n f | stxH n f | stxB n f =>
    exact ⟨n, _, _, _, _, rfl, rfl, f.unassigned_word, reserved_of_none rfl, celecMeaning_scratchStore fun s => by unfold exec; dsimp only; rfl⟩
  | old n f | rld n f =>
    exact ⟨n, _, _, _, _, rfl, rfl, f.unassigned_word, reserved_of_none rfl, _, fun s => by unfold exec; dsimp only; rfl⟩
  | aadd n f | aand n f | aor n f | axor n f | aswp n f | aminu n f | amaxu n f | cas n f =>
    exact ⟨n, _, _, _, _, rfl, rfl, f.unassigned_word, reserved_of_when rfl id, celecMeaning_atomic fun s => by unfold exec; dsimp only; rfl⟩
  | ost n f | rst n f =>
    exact ⟨n, _, _, _, _, rfl, rfl, f.unassigned_word, reserved_of_when rfl id, _, fun s => by unfold exec; dsimp only; rfl⟩
  | _ => contradiction

/-- Block operations and requests (R171, R172, R177 to R179). -/
theorem issued_request {i : Instr} (h : i.block = .request) : Issued i := by
  cases i with
  | csetn n f _ | cwr n f | crd n f | pxatt n f | pxdet n f | preq n f | rtx n f | dstart n f =>
    exact ⟨n, _, _, _, _, rfl, rfl, f.unassigned_word, reserved_of_when rfl id, _, fun s => by unfold exec; dsimp only; rfl⟩
  | blkmov n f _ =>
    exact ⟨n, _, _, _, blkBad f, rfl, rfl, f.unassigned_word, reserved_of_when rfl blkBad_of_reserved, _, fun s => by unfold exec; dsimp only; rfl⟩
  | cdel n f | cstate n f | cmtGo n f | cmtCancel n f | sjob n f | scancel n f | rrx n f | dstat n f | dstop n f =>
    exact ⟨n, _, _, _, _, rfl, rfl, f.unassigned_word, reserved_of_when rfl reqRbBad_eq.trans, _, fun s => by unfold exec; dsimp only; rfl⟩
  | _ => contradiction

/-- Control, and the four rows of its block that are events of a strand (R174, R175, R180, R181). -/
theorem issued_control {i : Instr} (h : i.block = .control) : (i.issuer = none ∧ i.celecWord = none) ∨ Issued i := by
  cases i with
  | wlt n f | wbnd n f | wev n f | spawn n f | yield n f | stop n f | fence n f | trap n f =>
    exact .inr ⟨n, _, _, _, _, rfl, rfl, f.unassigned_word, reserved_of_when rfl id, _, fun s => by unfold exec; dsimp only; rfl⟩
  | clrev n f =>
    exact .inr ⟨n, _, _, _, auxRdBad f, rfl, rfl, f.unassigned_word, reserved_of_when rfl auxRdBad_eq.trans, _, fun s => by unfold exec; dsimp only; rfl⟩
  | hev n f =>
    exact .inr ⟨n, _, _, _, _, rfl, rfl, f.unassigned_word, reserved_of_when rfl hevBad_of_reserved, _, fun s => by unfold exec; dsimp only; rfl⟩
  | mfs n f | mts n f =>
    exact .inr ⟨n, _, _, _, _, rfl, rfl, f.unassigned_word,
      reserved_of_when rfl fun set => Bool.or_eq_true_iff.mpr (.inl (reqRbBad_eq.trans set)), _, fun s => by unfold exec; dsimp only; rfl⟩
  | sig n f | getf n f | setf n f =>
    exact .inr ⟨n, _, _, _, _, rfl, rfl, f.unassigned_word, reserved_of_when rfl (or_reqRbBad_eq _).trans, _, fun s => by unfold exec; dsimp only; rfl⟩
  | jr n f =>
    exact .inr ⟨n, _, _, _, _, rfl, rfl, f.unassigned_word, reserved_of_when rfl (or_reqRbBad_eq _).trans, celecMeaning_jumpReg fun s => by unfold exec; dsimp only; rfl⟩
  | jlr n f =>
    exact .inr ⟨n, _, _, _, _, rfl, rfl, f.unassigned_word, reserved_of_when rfl reqRbBad_eq.trans, celecMeaning_jumpReg fun s => by unfold exec; dsimp only; rfl⟩
  | bCond n f | blCond n f =>
    exact .inr ⟨n, _, _, _, _, rfl, rfl, f.unassigned_word, reserved_of_none rfl, celecMeaning_branch fun s => by unfold exec; dsimp only; rfl⟩
  | wltWake | wevTimeout | stallEnd | timeSliceEnd => exact .inl ⟨rfl, rfl⟩
  | _ => contradiction

/-- Every command is a Celec instruction, issued by its word, or has no strand and no word. -/
theorem issued_or_none (i : Instr) : (i.issuer = none ∧ i.celecWord = none) ∨ Issued i := by
  rcases Bool.or_eq_true_iff.mp i.celec_block with outside | inside
  · obtain ⟨issuer, word⟩ := Bool.and_eq_true_iff.mp outside
    exact .inl ⟨Option.isNone_iff_eq_none.mp issuer, Option.isNone_iff_eq_none.mp word⟩
  · cases h : i.block with
    | arithmetic => exact .inr (issued_arithmetic h)
    | memory => exact .inr (issued_memory h)
    | request => exact .inr (issued_request h)
    | control => exact issued_control h
    | _ => rw [h] at inside; cases inside

/-- Settles O12: the order of the checks is that of `celec`, by which every Celec instruction is issued (`issued_or_none`). -/
theorem issueChecks : Obligations.IssueChecks := by
  refine ⟨fun i n s issuer => ?_, fun i n w s word spelled ready => ?_⟩
  · obtain ⟨none_, -⟩ | ⟨n', w, u, op, bad, issued⟩ := issued_or_none i
    · rw [none_] at issuer; cases issuer
    · cases issued.issuer.symm.trans issuer
      obtain ⟨body, meaning⟩ := issued.meaning
      exact ⟨fun waits => (meaning s).trans (celec_idle waits ..), fun slot fails => (meaning s).trans (celec_fetch slot fails ..),
        fun slot valid badWord => (meaning s).trans (celec_ecc slot valid u op bad body badWord)⟩
  · obtain ⟨-, none_⟩ | ⟨n', w', u, op, bad, issued⟩ := issued_or_none i
    · rw [none_] at word; cases word
    · cases issued.word.symm.trans word
      obtain ⟨body, meaning⟩ := issued.meaning
      refine ⟨fun unspelled => ?_, fun o isSome set => ?_⟩
      · rw [← issued.read, unassigned_of_celecCommand_none unspelled] at meaning
        exact (meaning s).trans (celec_unassigned ready ..)
      · obtain ⟨j, command⟩ := Option.ne_none_iff_exists'.mp isSome
        have same : j.ctorIdx = i.ctorIdx := by simpa [Instr.spelled, word, command] using spelled
        have assigned := unassigned_of_celecCommand command
        rw [same, issued.read] at assigned
        obtain ⟨rfl, traps⟩ := issued.reserved o set
        exact traps_of_bad ready assigned traps (meaning s)

end Sys2Proof.Machine
end

section
/-!
PROOFS. GFP-F channels (R230 to R234): what a frame received, by the delineation state and the core header, and a frame sent leave of a channel.
-/
namespace Sys2Proof.Machine

open Sys2Proof

/-! One channel of the block is put back. -/

/-- A row answers the state in which channel `k` is `y`, and the other channels, the ports and the other blocks are as they were. -/
def LeavesChan (i : Instr) (k : Nat) (s : State) (y : GfpChan) : Prop :=
  ∃ t, exec i s = .next t ∧ gfpAt t k = y ∧ (∀ q, q ≠ k → gfpAt t q = gfpAt s q) ∧ t.line.ports = s.line.ports ∧ OnlyIn [.line] s t

theorem leavesChan_of_setGfp {i : Instr} {k : Nat} {s : State} {y : GfpChan} (next : exec i s = .next (setGfp k y s)) : LeavesChan i k s y :=
  ⟨_, next, by simp [gfpAt_setGfp], fun q other => by simp [gfpAt_setGfp, Ne.symm other], rfl,
    (keeps_setGfp (by decide) k y s (.refl _ s)).frame⟩

/-! Reception (R232). -/

/-- The container of channel `k` is in AIS or LOP. -/
def containerLost (s : State) (k : Nat) : Bool :=
  lineSlotAis s (bits (gfpCfg s [] k) 4 4) (bits (gfpCfg s [] k) 8 8) (portAt s (bits (gfpCfg s [] k) 4 4))

/-- A channel with the path signal label of a received frame read. -/
def labelRead (r : GfpRx) (x : GfpChan) : GfpChan := { x with plm := r.c2 != 0x1B }

/-- A channel after the core header, and in SYNC the client frame, of `r`. -/
def delineated (s : State) (k : Nat) (r : GfpRx) (x : GfpChan) : GfpChan :=
  match x.delin, r.chec with
  | .hunt, .ok => { x with delin := .presync }
  | .hunt, _ => x
  | .presync, .ok => gfpDeliver s k r { x with delin := .sync }
  | .presync, _ => { x with delin := .hunt }
  | .sync, .ok => gfpDeliver s k r x
  | .sync, .corrected => gfpDeliver s k r (gfpCnt 1 x)
  | .sync, .bad => { x with delin := .hunt }

section
variable {s : State} {k : Nat} {r : GfpRx} {x : GfpChan}

theorem delineated_hunt_ok (hunts : x.delin = .hunt) (ok : r.chec = .ok) : delineated s k r x = { x with delin := .presync } := by
  simp only [delineated, hunts, ok]

theorem delineated_hunt_of_ne (hunts : x.delin = .hunt) (wrong : r.chec ≠ .ok) : delineated s k r x = x := by
  cases header : r.chec with
  | ok => exact absurd header wrong
  | corrected | bad => simp only [delineated, hunts, header]

theorem delineated_presync_ok (once : x.delin = .presync) (ok : r.chec = .ok) :
    delineated s k r x = gfpDeliver s k r { x with delin := .sync } := by
  simp only [delineated, once, ok]

theorem delineated_presync_of_ne (once : x.delin = .presync) (wrong : r.chec ≠ .ok) : delineated s k r x = { x with delin := .hunt } := by
  cases header : r.chec with
  | ok => exact absurd header wrong
  | corrected | bad => simp only [delineated, once, header]

theorem delineated_sync_ok (found : x.delin = .sync) (ok : r.chec = .ok) : delineated s k r x = gfpDeliver s k r x := by
  simp only [delineated, found, ok]

theorem delineated_sync_corrected (found : x.delin = .sync) (one : r.chec = .corrected) :
    delineated s k r x = gfpDeliver s k r (gfpCnt 1 x) := by
  simp only [delineated, found, one]

theorem delineated_sync_bad (found : x.delin = .sync) (bad : r.chec = .bad) : delineated s k r x = { x with delin := .hunt } := by
  simp only [delineated, found, bad]

end

/-! Transmission (R231, R234). -/

/-- The bytes of the oldest transmit record of a channel, padding included. -/
def txSize (x : GfpChan) : Nat := 8 + (bytesVal (x.tx.take 2) + 3) / 4 * 4

/-- A channel after the client frame of its oldest record. -/
def clientSent (x : GfpChan) : GfpChan :=
  let flags := bytesVal ((x.tx.drop 2).take 1)
  let body := (x.tx.drop 8).take (bytesVal (x.tx.take 2))
  let sent := gfpFrame x.scr (bit flags 1) (bit flags 0) (x.tx.getD 3 0).toNat (body.map (·.toNat))
  gfpCnt 5 { x with
    tx := x.tx.drop (txSize x), out := x.out ++ sent.1.map (fun b => BitVec.ofNat 8 b), scr := sent.2
    lastTx := (if bit flags 1 then 4 else 0) :: (if bit flags 0 then 1 else 0) :: x.tx.getD 3 0 :: body }

/-- A channel after an idle frame. -/
def idleSent (x : GfpChan) : GfpChan := gfpCnt 6 { x with out := x.out ++ gfpIdle.map (fun b => BitVec.ofNat 8 b) }

/-! The rows. -/

section
variable {c : BitVec 3} {s : State} (enabled : bit (gfpCfg s [] c.toNat) 0 = true) (powered : domOn s (94 + c.toNat) = true)
include enabled powered

section
variable (runs : lineRuns s (bits (gfpCfg s [] c.toNat) 4 4) = true) (r : GfpRx)
include runs

theorem leavesChan_gfpFrameReceive_lost (lost : containerLost s c.toNat = true) :
    LeavesChan (.gfpFrameReceive c r) c.toNat s { labelRead r (gfpAt s c.toNat) with delin := .hunt } :=
  leavesChan_of_setGfp (congrArg Host.Outcome.next ((if_neg (not_not.mpr ⟨enabled, powered, runs⟩)).trans
    (congrArg (setGfp c.toNat · s) (if_pos lost))))

theorem leavesChan_gfpFrameReceive (intact : containerLost s c.toNat = false) {y : GfpChan}
    (step : delineated s c.toNat r (labelRead r (gfpAt s c.toNat)) = y) : LeavesChan (.gfpFrameReceive c r) c.toNat s y :=
  have there : ¬ containerLost s c.toNat = true := by simp [intact]
  leavesChan_of_setGfp (congrArg Host.Outcome.next ((if_neg (not_not.mpr ⟨enabled, powered, runs⟩)).trans
    (congrArg (setGfp c.toNat · s) ((if_neg there).trans step))))

end

section
variable (sends : txKind s (bits (gfpCfg s [] c.toNat) 4 4) = 3)
include sends

theorem leavesChan_gfpFrameTransmit_client (whole : txSize (gfpAt s c.toNat) ≤ (gfpAt s c.toNat).tx.length) :
    LeavesChan (.gfpFrameTransmit c) c.toNat s (clientSent (gfpAt s c.toNat)) :=
  have header : 8 ≤ (gfpAt s c.toNat).tx.length := Nat.le_of_add_right_le whole
  leavesChan_of_setGfp (congrArg Host.Outcome.next ((if_neg (not_not.mpr ⟨enabled, powered, sends⟩)).trans (if_pos ⟨header, whole⟩)))

theorem leavesChan_gfpFrameTransmit_idle (short : (gfpAt s c.toNat).tx.length < txSize (gfpAt s c.toNat)) :
    LeavesChan (.gfpFrameTransmit c) c.toNat s (idleSent (gfpAt s c.toNat)) :=
  leavesChan_of_setGfp (congrArg Host.Outcome.next ((if_neg (not_not.mpr ⟨enabled, powered, sends⟩)).trans
    (if_neg fun ⟨_, whole⟩ => Nat.not_le.mpr short whole)))

end

end

/-- Settles O41: each row puts one channel back; a frame received follows the delineation state (`delineated`), a frame sent the oldest record. -/
theorem gfpChannels : Obligations.GfpChannels := fun c s enabled powered =>
  ⟨fun runs r => ⟨leavesChan_gfpFrameReceive_lost enabled powered runs r, fun intact =>
      have row {y : GfpChan} : delineated s c.toNat r (labelRead r (gfpAt s c.toNat)) = y → LeavesChan (.gfpFrameReceive c r) c.toNat s y :=
        leavesChan_gfpFrameReceive enabled powered runs r intact
      ⟨fun hunts ok => row (delineated_hunt_ok hunts ok), fun hunts wrong => row (delineated_hunt_of_ne hunts wrong),
        fun once ok => row (delineated_presync_ok once ok), fun once wrong => row (delineated_presync_of_ne once wrong),
        fun found ok => row (delineated_sync_ok found ok), fun found one => row (delineated_sync_corrected found one),
        fun found bad => row (delineated_sync_bad found bad)⟩⟩,
    fun sends => ⟨leavesChan_gfpFrameTransmit_client enabled powered sends, leavesChan_gfpFrameTransmit_idle enabled powered sends⟩⟩

end Sys2Proof.Machine
end

section
/-!
PROOFS. Tiles of the slot fabric (R260, R263 to R266): what a row does with the rotation of its fabric, one equation each.
-/
namespace Sys2Proof.Machine

open Sys2Proof

/-! The tiles of a rotation. -/

theorem tileAt_modTile (lo : Bool) (t m : Nat) (f : Tile → Tile) (r : Rotation) :
    tileAt lo (modTile lo t f r) m = if m = t then f (tileAt lo r t) else tileAt lo r m := by
  by_cases same : m = t
  · rw [if_pos same, same]
    exact tget_tins_self ..
  · have other : t ≠ m := Ne.symm same
    simp [tileAt, modTile, same, tget_tins_ne _ _ _ _ _ other, tget_tdel, other]

@[simp] theorem rotAt_faultRaise (k : Nat) (s : State) (lo : Bool) : rotAt (faultRaise k s) lo = rotAt s lo := by
  have fab : (faultRaise k s).fab = s.fab :=
    (keeps_faultRaise (W := [.pwr, .host, .led, .mate, .flt, .regs]) (by decide) (by decide) (by decide) (by decide) (by decide) (by decide)
      k s (.refl _ s)).frame .fab (by decide)
  simp only [rotAt, fab]

/-! A load (R260, R265). -/

theorem exec_tileLoadComplete {lo : Bool} {s : State} (on : tilesOn s lo = true)
    (loads : (rotAt s lo).phase = .load ∨ (rotAt s lo).phase = .spareIn) :
    exec (.tileLoadComplete lo) s = .next (setRot lo { rotAt s lo with loaded := true } s) :=
  congrArg Host.Outcome.next (if_pos ⟨on, loads⟩)

/-! A comparison that differs (R263). -/

/-- A mismatch counted in the resting tile and in the tile under comparison, with its record and its cause. -/
def mismatchCounted (lo : Bool) (s : State) : State :=
  let r := rotAt s lo
  let w := serverOf lo r r.cursor
  let count (x : Tile) : Tile := { x with mismatch := satAdd 255 x.mismatch 1 }
  fabCause 3 (tileRecord lo r.resting w 1 r.cursor (setRot lo (modTile lo w count (modTile lo r.resting count r)) s))

/-- After a second mismatch the tile under comparison is SUSPECT. -/
def serverSuspected (lo : Bool) (s : State) : State :=
  let r := rotAt s lo
  let w := serverOf lo r r.cursor
  faultRaise 320 (tileRecord lo r.resting w 3 r.cursor (modRot lo (modTile lo w (fun x => { x with mode := .suspect })) (mismatchCounted lo s)))

/-- After a first mismatch the resting tile runs one pass. -/
def mismatchRetried (lo : Bool) (s : State) : State :=
  modRot lo (fun q => modTile lo q.resting (fun x => { x with mode := .resting, passed := false })
    { q with phase := .bist, mismatchBist := true }) (mismatchCounted lo s)

/-- The SUSPECT tile hands over at the next multiframe that is free. -/
def suspectLeaves (lo : Bool) (s : State) : State :=
  modRot lo (fun q => { q with phase := .waitSwap, suspectSwap := true, handover := s.lt.frame + 1 }) (serverSuspected lo s)

/-- The SUSPECT tile serves on, and rotation halts. -/
def suspectStays (lo : Bool) (s : State) : State :=
  rotHalt lo (modRot lo (fun q => modTile lo q.resting (fun x => { x with mode := .resting }) q) (serverSuspected lo s))

section
variable {lo : Bool} {s : State} (on : tilesOn s lo = true) (compares : (rotAt s lo).phase = .compare ∨ (rotAt s lo).phase = .waitSwap)
  (trusted : (rotAt s lo).suspectSwap = false)
include on compares trusted

theorem exec_tileCompareMismatch : exec (.tileCompareMismatch lo) s = .next (faultRaise 319 (
    if (rotAt s lo).attempt < 2 then mismatchRetried lo s
    else if rbit (serverSuspected lo s) (kP 0x100000) 4 then suspectLeaves lo s else suspectStays lo s)) :=
  have runs : ¬ (¬ tilesOn s lo ∨ ¬ ((rotAt s lo).phase = .compare ∨ (rotAt s lo).phase = .waitSwap) ∨ (rotAt s lo).suspectSwap) := by
    simp [on, compares, trusted]
  congrArg Host.Outcome.next (if_neg runs)

theorem exec_tileCompareMismatch_first (first : (rotAt s lo).attempt < 2) :
    exec (.tileCompareMismatch lo) s = .next (faultRaise 319 (mismatchRetried lo s)) := by
  rw [exec_tileCompareMismatch on compares trusted, if_pos first]

theorem exec_tileCompareMismatch_leaves (again : 2 ≤ (rotAt s lo).attempt) (swap : rbit (serverSuspected lo s) (kP 0x100000) 4 = true) :
    exec (.tileCompareMismatch lo) s = .next (faultRaise 319 (suspectLeaves lo s)) := by
  rw [exec_tileCompareMismatch on compares trusted, if_neg (Nat.not_lt.mpr again), if_pos swap]

theorem exec_tileCompareMismatch_stays (again : 2 ≤ (rotAt s lo).attempt) (swap : rbit (serverSuspected lo s) (kP 0x100000) 4 = false) :
    exec (.tileCompareMismatch lo) s = .next (faultRaise 319 (suspectStays lo s)) := by
  rw [exec_tileCompareMismatch on compares trusted, if_neg (Nat.not_lt.mpr again), if_neg (Bool.eq_false_iff.mp swap)]

end

/-! A self-test pass of the resting tile (R264, R267). -/

/-- A good pass of tile `x` ends a retest, or the run of good passes that a SUSPECT tile needs. -/
abbrev PassEnds (r : Rotation) (x : Tile) : Prop := r.retest = 1 ∨ (r.retest = 0 ∧ x.mode = .suspect ∧ 4 ≤ x.runPass + 1)

/-- The flag with which the row ends a run of passes: of a retest by its count, else of a SUSPECT tile. -/
theorem decide_passEnds (r : Rotation) (x : Tile) :
    (decide (0 < r.retest) && decide (r.retest = 1) || !decide (0 < r.retest) && decide (x.mode = .suspect) && decide (4 ≤ x.runPass + 1))
      = decide (PassEnds r x) := by
  rcases Nat.eq_zero_or_pos r.retest with none_ | some_
  · simp [PassEnds, none_]
  · simp [PassEnds, some_, Nat.ne_of_gt some_]

/-- A tile after a good pass, which ends its run or does not. -/
def tilePassed (ends : Bool) (x : Tile) : Tile :=
  { x with pass := satAdd 255 x.pass 1, runPass := x.runPass + 1, passed := ends || decide (x.mode = .resting), proven := true
           mode := if ends then .resting else x.mode }

/-- A rotation after a good pass of its resting tile `n`. -/
def restPassed (lo : Bool) (n : Nat) (r : Rotation) : Rotation :=
  let x := tileAt lo r n
  let ends := decide (PassEnds r x)
  { modTile lo n (tilePassed ends) r with
    retest := r.retest - 1, stepDue := r.stepDue || r.mismatchBist && (ends || decide (x.mode = .resting))
    phase := if ends && decide (0 < r.retest) then .bist else r.phase }

theorem tileAt_restPassed (lo : Bool) (n m : Nat) (r : Rotation) : tileAt lo (restPassed lo n r) m =
    if m = n then tilePassed (decide (PassEnds r (tileAt lo r n))) (tileAt lo r n) else tileAt lo r m :=
  tileAt_modTile lo n m _ r

section
variable {lo : Bool} {s : State} {t : BitVec 5} (on : tilesOn s lo = true) (tile : t.toNat ≤ groupsOf lo)
include on tile

section
variable (rests : t.toNat = (rotAt s lo).resting)
include rests

theorem exec_tileBistPassEnd_rest (waits : (rotAt s lo).phase = .bist ∨ (rotAt s lo).phase = .halted) (tests : bit s.mon.shed 2 = false)
    (whole : (tileAt lo (rotAt s lo) t.toNat).mode ≠ .failed ∨ (rotAt s lo).retest ≠ 0) (fail : Bool) :
    exec (.tileBistPassEnd lo t fail) s =
      .next (if fail then tileFail lo t.toNat s else setRot lo (restPassed lo t.toNat (rotAt s lo)) s) := by
  have counts : ¬ (bit s.mon.shed 2 ∨ ((tileAt lo (rotAt s lo) t.toNat).mode = .failed ∧ (rotAt s lo).retest = 0)) := by
    rintro (shed | ⟨failed, last⟩)
    · exact absurd (tests.symm.trans shed) Bool.false_ne_true
    · exact whole.elim (· failed) (· last)
  refine (if_neg (Nat.not_lt.mpr tile)).trans (congrArg Host.Outcome.next ((if_neg (not_not.mpr on)).trans
    ((if_neg (not_not.mpr rests)).trans ((if_neg (not_not.mpr waits)).trans ((if_neg counts).trans ?_)))))
  dsimp only
  rw [decide_passEnds]
  rfl

/-! A fault in the datapath of a tile (R265, R266). -/

theorem exec_tileDatapathFault_rest : exec (.tileDatapathFault lo t) s =
    .next (if (rotAt s lo).phase = .load ∨ (rotAt s lo).phase = .compare ∨ (rotAt s lo).phase = .waitSwap ∨ (rotAt s lo).phase = .spareIn then
        tileFail lo t.toNat (modRot lo (fun q => { q with phase := .bist, suspectSwap := false }) (faultRaise (tileSource lo t.toNat) s))
      else faultRaise (tileSource lo t.toNat) s) := by
  refine (if_neg (Nat.not_lt.mpr tile)).trans (congrArg Host.Outcome.next ((if_neg (not_not.mpr on)).trans ?_))
  simp only [if_pos on, rotAt_faultRaise, if_pos rests]

theorem exec_tileDatapathFault_idle (idle : (rotAt s lo).phase = .bist ∨ (rotAt s lo).phase = .halted) :
    exec (.tileDatapathFault lo t) s = .next (faultRaise (tileSource lo t.toNat) s) := by
  rw [exec_tileDatapathFault_rest on tile rests, if_neg]
  rcases idle with phase | phase <;> simp [phase]

theorem exec_tileDatapathFault_step (steps : (rotAt s lo).phase = .load ∨ (rotAt s lo).phase = .compare) :
    exec (.tileDatapathFault lo t) s = .next (tileFail lo t.toNat
      (modRot lo (fun q => { q with phase := .bist, suspectSwap := false }) (faultRaise (tileSource lo t.toNat) s))) := by
  rw [exec_tileDatapathFault_rest on tile rests, if_pos (steps.imp_right Or.inl)]

end

theorem exec_tileDatapathFault_serving (serves : t.toNat ≠ (rotAt s lo).resting)
    (noSpare : rbit (faultRaise (tileSource lo t.toNat) s) (kP 0x100000) 3 = false) : exec (.tileDatapathFault lo t) s =
      .next (modRot lo (modTile lo t.toNat (fun x => { x with faulty := true })) (faultRaise (tileSource lo t.toNat) s)) := by
  refine (if_neg (Nat.not_lt.mpr tile)).trans (congrArg Host.Outcome.next ((if_neg (not_not.mpr on)).trans ?_))
  simp only [if_pos on, rotAt_faultRaise, if_neg serves, noSpare, Bool.false_eq_true, false_and, if_false]

end

/-- Settles O42: each row by its equation; after a good pass the tiles are those of `restPassed`. -/
theorem fabricTiles : Obligations.FabricTiles := by
  intro lo s on
  refine ⟨exec_tileLoadComplete on, fun compares trusted => ⟨exec_tileCompareMismatch_first on compares trusted,
    exec_tileCompareMismatch_leaves on compares trusted, exec_tileCompareMismatch_stays on compares trusted⟩, fun t tile =>
      ⟨fun rests waits tests whole => ?_, exec_tileDatapathFault_idle on tile, exec_tileDatapathFault_step on tile,
        exec_tileDatapathFault_serving on tile⟩⟩
  have pass := exec_tileBistPassEnd_rest on tile rests waits tests whole
  refine ⟨pass true, _, pass false, (keeps_setRot (by decide) lo _ s (.refl _ s)).frame, rotAt_setRot_other .., ?_⟩
  simp only [Bool.false_eq_true, if_false, rotAt_setRot_self, tileAt_restPassed]
  exact ⟨by simp [tilePassed], fun m other => if_neg other, rfl, by simp [restPassed]⟩

end Sys2Proof.Machine
end

section
/-!
PROOFS. The timers of a protection object (R275, R280 to R282): what each row does with the run state of the object, one equation each.
-/
namespace Sys2Proof.Machine

open Sys2Proof

/-- An enabled object exists: a selector is enabled only once its creation has landed (R271). -/
theorem protLive_of_protOn {r : ProtRef} {s : State} (on : protOn s r = true) : protLive s r = true := by
  cases r with
  | msp p => rfl
  | sel n =>
    cases found : selAt s n with
    | none => simp [protOn, found] at on
    | some x =>
      obtain ⟨live, -⟩ : x.live = true ∧ bit x.w2 0 = true := by simpa [protOn, found] using on
      simp [protLive, found, live]

/-- A run state put in place of an enabled object's own is the one it has, and nothing else changes. -/
theorem setCtl_of_protOn {r : ProtRef} {s : State} (on : protOn s r = true) (c : ProtCtl) :
    ctlAt (setCtl r c s) r = c ∧ OnlyIn [.prot] s (setCtl r c s) :=
  ⟨ctlAt_setCtl (protLive_of_protOn on) c, (keeps_setCtl (by decide) r c s (.refl _ s)).frame⟩

/-! Hold-off and wait to restore (R275, R281). -/

theorem holdoffExpire_elapsed {holdoff k : Nat} {c : ProtCtl} (present : c.raw.testBit k = true) (elapsed : holdoff * 800 ≤ c.runs.getD k 0) :
    holdoffExpire holdoff k c = { c with eff := c.eff ||| 2 ^ k } :=
  if_pos ⟨present, elapsed⟩

theorem holdoffExpire_waiting {holdoff k : Nat} {c : ProtCtl} (waiting : c.raw.testBit k = false ∨ c.runs.getD k 0 < holdoff * 800) :
    holdoffExpire holdoff k c = c := by
  refine if_neg fun ⟨present, elapsed⟩ => ?_
  rcases waiting with absent | short
  · exact Bool.false_ne_true (absent.symm.trans present)
  · exact absurd elapsed (Nat.not_le.mpr short)

section
variable {o : ProtObj} {s : State}

theorem exec_holdoffExpiry_on (k : BitVec 2) (on : protOn s (protObjRef o) = true) : exec (.holdoffExpiry o k) s =
    .next (setCtl (protObjRef o) (holdoffExpire (cfgOf s (protObjRef o)).holdoff k.toNat (ctlAt s (protObjRef o))) s) :=
  congrArg Host.Outcome.next (if_pos on)

theorem exec_holdoffExpiry_off (k : BitVec 2) (off : protOn s (protObjRef o) = false) : exec (.holdoffExpiry o k) s = .next s :=
  congrArg Host.Outcome.next (if_neg (Bool.eq_false_iff.mp off))

theorem exec_wtrExpiry_out (on : protOn s (protObjRef o) = true) (runs : (ctlAt s (protObjRef o)).wtrRun = true)
    (out : (ctlAt s (protObjRef o)).wtrLeft = 0) :
    exec (.wtrExpiry o) s = .next (setCtl (protObjRef o) { ctlAt s (protObjRef o) with wtrRun := false } s) :=
  congrArg Host.Outcome.next (if_pos ⟨on, runs, out⟩)

theorem exec_wtrExpiry_off (off : protOn s (protObjRef o) = false) : exec (.wtrExpiry o) s = .next s :=
  congrArg Host.Outcome.next (if_neg fun running => Bool.eq_false_iff.mp off running.1)

end

/-! Exercise and failure of protocol (R280, R282). -/

/-- A run state after 16 frames of exercise: whether an RR was seen stands, and the command, if it is still in force, leaves. -/
def exerciseEnded (c : ProtCtl) : ProtCtl :=
  { c with exerRun := false, exerOk := c.exerSeen, ext := if c.ext = 6 then 0 else c.ext }

section
variable {p : BitVec 4} {s : State} (on : protOn s (.msp p.toNat) = true)
include on

section
variable (runs : (ctlAt s (.msp p.toNat)).exerRun = true) (out : (ctlAt s (.msp p.toNat)).exerLeft = 0)
include runs out

/-- The mate learns that the command left (R293). -/
theorem exec_exerciseEnd_command (command : (ctlAt s (.msp p.toNat)).ext = 6) : exec (.exerciseEnd p) s =
    .next (mirrorItem false 8 (commandAddr (.msp p.toNat)) noSeq (toBytes 4 0)
      (setCtl (.msp p.toNat) (exerciseEnded (ctlAt s (.msp p.toNat))) s)) :=
  congrArg Host.Outcome.next ((if_pos ⟨on, runs, out⟩).trans (if_pos command))

theorem exec_exerciseEnd_replaced (replaced : (ctlAt s (.msp p.toNat)).ext ≠ 6) : exec (.exerciseEnd p) s =
    .next (setCtl (.msp p.toNat) (exerciseEnded (ctlAt s (.msp p.toNat))) s) :=
  congrArg Host.Outcome.next ((if_pos ⟨on, runs, out⟩).trans (if_neg replaced))

/-- An exercise that runs out changes the group, and the mate's queue only where the command was still in force. -/
theorem exec_exerciseEnd_out : ∃ t, exec (.exerciseEnd p) s = .next t ∧
    ctlAt t (.msp p.toNat) = exerciseEnded (ctlAt s (.msp p.toNat)) ∧ OnlyIn [.prot, .mate] s t ∧
    ((ctlAt s (.msp p.toNat)).ext ≠ 6 → OnlyIn [.prot] s t) := by
  obtain ⟨put, only⟩ := setCtl_of_protOn on (exerciseEnded (ctlAt s (.msp p.toNat)))
  have kept := keeps_setCtl (W := [.prot, .mate]) (by decide) (.msp p.toNat) (exerciseEnded (ctlAt s (.msp p.toNat))) s (.refl _ s)
  by_cases command : (ctlAt s (.msp p.toNat)).ext = 6
  · exact ⟨_, exec_exerciseEnd_command on runs out command, (ctlAt_of_prot (mirrorItem_prot ..) _).trans put,
      (keeps_mirrorItem (by decide) _ _ _ _ _ _ kept).frame, fun replaced => absurd command replaced⟩
  · exact ⟨_, exec_exerciseEnd_replaced on runs out command, put, kept.frame, fun _ => only⟩

end

theorem exec_fopDeclare_fails (sound : (ctlAt s (.msp p.toNat)).fop = false)
    (lasts : 400 ≤ (ctlAt s (.msp p.toNat)).fopRun ∨ 400 ≤ (ctlAt s (.msp p.toNat)).badRun) :
    let r := ProtRef.msp p.toNat
    let u := protRecord r 4 0 (setCtl r { ctlAt s r with fop := true } s)
    exec (.fopDeclare p) s = .next (protEvent r (faultRaise (325 + 3 * p.toNat) (setCause (protSeat u r) 0xC0000 2 u))) :=
  congrArg Host.Outcome.next (if_pos ⟨on, Bool.eq_false_iff.mp sound, lasts⟩)

end

theorem exec_fopDeclare_declared {p : BitVec 4} {s : State} (declared : (ctlAt s (.msp p.toNat)).fop = true) :
    exec (.fopDeclare p) s = .next s :=
  congrArg Host.Outcome.next (if_neg fun ⟨_, sound, _⟩ => sound declared)

/-- Settles O43: each row by its equation; the run state put in place is read back since an enabled object exists (`setCtl_of_protOn`). -/
theorem protectionTimers : Obligations.ProtectionTimers := by
  refine ⟨fun o k s => ⟨fun on => ⟨fun present elapsed => ?_, fun waiting => ?_, fun runs out => ?_⟩,
      fun off => ⟨exec_holdoffExpiry_off k off, exec_wtrExpiry_off off⟩⟩,
    fun p s on => ⟨exec_exerciseEnd_out on, exec_fopDeclare_fails on, exec_fopDeclare_declared⟩⟩
  · exact ⟨_, (exec_holdoffExpiry_on k on).trans (by rw [holdoffExpire_elapsed present elapsed]), setCtl_of_protOn on _⟩
  · exact ⟨_, (exec_holdoffExpiry_on k on).trans (by rw [holdoffExpire_waiting waiting]), setCtl_of_protOn on _⟩
  · exact ⟨_, exec_wtrExpiry_out on runs out, setCtl_of_protOn on _⟩

end Sys2Proof.Machine
end

section
/-!
PROOFS. What the operations of the mate function leave of its own state (R298, R299, R302): causes and records leave all of it; a fault raised on the
way may release the rein, yet what was heard of the mate stands.
-/
namespace Sys2Proof.Machine

open Sys2Proof

theorem Keeps.mate_eq {W : List Fld} {s t : State} (h : Keeps W s t) (w : Fld.mate ∉ W) : t.mate = s.mate := h.frame .mate w

@[simp] theorem setCauses_mate (ns : List Nat) (off k : Nat) (s : State) : (setCauses ns off k s).mate = s.mate :=
  (keeps_setCauses (W := [.host, .regs]) (by decide) (by decide) ns off k s (.refl _ s)).mate_eq (by decide)

@[simp] theorem mateCauseAll_mate (k : Nat) (s : State) : (mateCauseAll k s).mate = s.mate := setCauses_mate ..

@[simp] theorem mateCause0_mate (k : Nat) (s : State) : (mateCause0 k s).mate = s.mate := setCauses_mate [0] ..

@[simp] theorem faultCause_mate (k seat : Nat) (s : State) : (faultCause k seat s).mate = s.mate := setCauses_mate [seat] ..

@[simp] theorem domUpdate_mate (s : State) : (domUpdate s).mate = s.mate :=
  (keeps_domUpdate (W := [.pwr, .regs]) (by decide) (by decide) s (.refl _ s)).mate_eq (by decide)

@[simp] theorem rawHwSeat_mate (seat unit kind object old new : Nat) (kflag : Bool) (conts : List Nat) (s : State) :
    (rawHwSeat seat unit kind object old new kflag conts s).mate = s.mate :=
  (keeps_rawHwSeat (W := [.pwr, .host, .led, .regs]) (by decide) (by decide) (by decide) (by decide) seat unit kind object old new kflag conts s
    (.refl _ s)).mate_eq (by decide)

@[simp] theorem faultRecord_mate (k cls sev act : Nat) (pair injected first merged overflow : Bool) (s : State) :
    (faultRecord k cls sev act pair injected first merged overflow s).mate = s.mate :=
  (keeps_faultRecord (W := [.pwr, .host, .led, .flt, .regs]) (by decide) (by decide) (by decide) (by decide) (by decide) k cls sev act pair
    injected first merged overflow s (.refl _ s)).mate_eq (by decide)

/-- A transition of the rein, in the mate's state (R298, R305). -/
@[simp] theorem reinChange_mate (new : Rein) (s : State) :
    (reinChange new s).mate = { s.mate with rein := new, pulseOut := s.mate.pulseOut && new != .out } := by
  unfold reinChange
  extract_lets s0
  split
  · exact setCauses_mate ..
  · rfl

/-- What was heard of the mate and the term stand, and the rein is held only if it was. -/
structure HeardSame (m n : MateState) : Prop where
  alive : n.msgAlive = m.msgAlive
  miss : n.hbMiss = m.hbMiss
  peer : n.peer = m.peer
  high : n.highTerm = m.highTerm
  term : n.term = m.term
  rein : n.rein = .holder → m.rein = .holder

theorem HeardSame.refl (m : MateState) : HeardSame m m := ⟨rfl, rfl, rfl, rfl, rfl, id⟩

theorem HeardSame.trans {m n o : MateState} (h : HeardSame m n) (k : HeardSame n o) : HeardSame m o :=
  ⟨k.alive.trans h.alive, k.miss.trans h.miss, k.peer.trans h.peer, k.high.trans h.high, k.term.trans h.term, h.rein ∘ k.rein⟩

section
variable {m : MateState} {s : State}

theorem HeardSame.ite {c : Prop} [Decidable c] {t : State} (hs : HeardSame m s.mate) (ht : HeardSame m t.mate) :
    HeardSame m (if c then s else t).mate := by
  split <;> assumption

variable (h : HeardSame m s.mate)
include h

theorem heardSame_of_mate {t : State} (e : t.mate = s.mate) : HeardSame m t.mate := e.symm ▸ h

/-- That a change leaves these fields is seen by unfolding, where no other reason is given. -/
theorem heardSame_modMate {f : MateState → MateState}
    (kept : ∀ n, HeardSame n (f n) := by exact fun _ => ⟨rfl, rfl, rfl, rfl, rfl, id⟩) : HeardSame m (modMate f s).mate :=
  h.trans (kept s.mate)

theorem heardSame_mateCause0 (k : Nat) : HeardSame m (mateCause0 k s).mate := heardSame_of_mate h (mateCause0_mate ..)

theorem heardSame_reinChange {new : Rein} (out : new ≠ .holder) : HeardSame m (reinChange new s).mate := by
  rw [reinChange_mate]
  exact h.trans ⟨rfl, rfl, rfl, rfl, rfl, fun held => absurd held out⟩

theorem heardSame_setRein {new : Rein} (out : new ≠ .holder) (cause : Nat) : HeardSame m (setRein new cause s).mate :=
  heardSame_reinChange (heardSame_of_mate h (rawHwSeat_mate ..)) out

theorem heardSame_linkSend (rank : Nat) (bytes : List Nat) : HeardSame m (linkSend rank bytes s).mate :=
  heardSame_modMate h

theorem heardSame_linkDropEpoch : HeardSame m (linkDropEpoch s).mate := heardSame_modMate h

theorem heardSame_immediateRelease (block : Bool) : HeardSame m (immediateRelease block s).mate := by
  unfold immediateRelease
  extract_lets pend msg s1
  have sent : HeardSame m s1.mate := heardSame_modMate (heardSame_linkSend (heardSame_linkDropEpoch h) _ _)
  exact .ite (heardSame_of_mate (heardSame_setRein sent (by decide) 3) (mateCauseAll_mate ..)) h

theorem heardSame_releaseAction : HeardSame m (releaseAction s).mate := by
  unfold releaseAction
  split
  case h_1 | h_2 => exact heardSame_immediateRelease h true
  case h_3 | h_4 | h_5 => exact heardSame_modMate h
  case h_6 | h_7 => exact h

theorem heardSame_stopAlive : HeardSame m (stopAlive s).mate :=
  .ite h (h.trans ⟨rfl, rfl, rfl, rfl, rfl, id⟩)

/-- Of the actions of a raise only RELEASE and STOP_ALIVE reach the mate's state (R471, R472). -/
theorem heardSame_raiseOne (k : Nat) (pair injected limited : Bool) : HeardSame m (raiseOne k pair injected limited s).mate := by
  unfold raiseOne
  extract_lets s0 s1 sev cls act
  split
  extract_lets s2 s3 s4 s5 s6
  have recorded : HeardSame m s3.mate := heardSame_of_mate h (faultRecord_mate ..)
  have owners : HeardSame m s4.mate := .ite (heardSame_of_mate recorded (setCauses_mate ..)) recorded
  have keeper : HeardSame m s5.mate := .ite (heardSame_of_mate owners (faultCause_mate ..)) owners
  have released : HeardSame m s6.mate := .ite (heardSame_releaseAction keeper) keeper
  exact .ite (heardSame_stopAlive released) released

theorem heardSame_reportLoss : HeardSame m (reportLoss s).mate := by
  unfold reportLoss
  extract_lets led s1 s2 led2
  have due : HeardSame m s1.mate := h
  have raised : HeardSame m s2.mate := heardSame_raiseOne due 406 false false false
  exact .ite (.ite raised due) h

theorem heardSame_faultRaise (k : Nat) : HeardSame m (faultRaise k s).mate :=
  .ite (heardSame_reportLoss (heardSame_raiseOne h k false false false)) h

theorem heardSame_ledgerHw (unit kind object old new : Nat) (kflag : Bool) (conts : List Nat) :
    HeardSame m (ledgerHw unit kind object old new kflag conts s).mate :=
  heardSame_reportLoss (heardSame_of_mate h (rawHwSeat_mate ..))

theorem heardSame_sendSnapReq : HeardSame m (sendSnapReq s).mate :=
  heardSame_linkSend (heardSame_modMate h) _ _

theorem heardSame_standbyState : HeardSame m (standbyState s).mate :=
  heardSame_sendSnapReq (heardSame_reinChange (heardSame_linkDropEpoch (heardSame_modMate h)) (by decide))

theorem heardSame_toStandby (cause : Nat) : HeardSame m (toStandby cause s).mate :=
  heardSame_standbyState (heardSame_ledgerHw h ..)

theorem heardSame_syncLost : HeardSame m (syncLost s).mate :=
  heardSame_sendSnapReq (heardSame_faultRaise (heardSame_mateCause0 (heardSame_modMate h) 4) 243)

end

theorem sendSnapReq_rein (s : State) : (sendSnapReq s).mate.rein = s.mate.rein := rfl

theorem toStandby_rein (cause : Nat) (s : State) : (toStandby cause s).mate.rein = .standby := by
  unfold toStandby standbyState
  rw [sendSnapReq_rein, reinChange_mate]

end Sys2Proof.Machine
end

section
/-!
PROOFS. Heartbeats and the rein (R298, R299, R302, R303, R305, R308): the paths, what a valid heartbeat leaves, and what a cycle boundary makes of
LISTEN and RELEASING.
-/
namespace Sys2Proof.Machine

open Sys2Proof

/-! The paths (R298, R299). -/

section
variable {s : State}

theorem exec_matePulseEdge (stage : 3 ≤ s.pwr.stage.code) (powered : bit s.pwr.vioOk 6 = true) :
    exec .matePulseEdge s = .next (modMate (fun m => { m with edge := true }) s) :=
  congrArg Host.Outcome.next (if_pos ⟨stage, powered⟩)

theorem exec_pulsePathSilent (alive : s.mate.pulseAlive = true) (quiet : 4 ≤ s.mate.quietRun) : exec .pulsePathSilent s =
    .next (faultRaise 250 (mateCause0 6 (modMate (fun m => { m with pulseAlive := false }) s))) :=
  congrArg Host.Outcome.next (if_pos ⟨alive, quiet⟩)

theorem exec_msgPathSilent (alive : s.mate.msgAlive = true) (missed : 2 ≤ s.mate.hbMiss) (unheard : s.mate.hbNow = false) :
    exec .msgPathSilent s = .next (faultRaise 249 (mateCause0 5 (modMate (fun m => { m with msgAlive := false }) s))) :=
  congrArg Host.Outcome.next (if_pos ⟨alive, missed, Bool.eq_false_iff.mp unheard⟩)

end

/-! A heartbeat (R299 to R303). -/

section
variable (h : Heartbeat) (phase : Nat) {m : MateState} {s : State}

section
variable (k : HeardSame m s.mate)
include k

theorem heardSame_hbRev : HeardSame m (hbRev h s).mate := by
  unfold hbRev
  extract_lets mm s1
  have noted : HeardSame m s1.mate := heardSame_modMate k
  exact .ite (heardSame_faultRaise noted 242) noted

theorem heardSame_hbAdopt : HeardSame m (hbAdopt h phase s).mate := by
  unfold hbAdopt
  exact .ite k (.ite (heardSame_modMate k) k)

theorem heardSame_hbCount : HeardSame m (hbCount h phase s).mate := by
  unfold hbCount
  extract_lets mm s1 s2
  have noted : HeardSame m s1.mate := heardSame_modMate k
  have raised : HeardSame m s2.mate := .ite (heardSame_faultRaise (heardSame_mateCause0 noted 9) 241) noted
  exact .ite k (.ite (heardSame_syncLost raised) raised)

/-- A holder that has heard a higher claim stands by, with the claimant's lease (R303). -/
theorem heardSame_claimed (lease : Nat) :
    HeardSame m (faultRaise 247 (mateCause0 8 (modMate (fun n => { n with lease := lease, noHolder := false }) s))).mate :=
  heardSame_faultRaise (heardSame_mateCause0 (heardSame_modMate k) 8) 247

theorem heardSame_hbRein : HeardSame m (hbRein h s).mate := by
  unfold hbRein
  extract_lets lease
  split
  case h_1 => exact heardSame_modMate k
  case h_2 => exact .ite (heardSame_modMate k) k
  case h_3 => exact .ite (heardSame_claimed (heardSame_toStandby k 6) lease) k
  case h_4 => exact .ite (heardSame_setRein (heardSame_modMate k) (by decide) 4) k
  case h_5 => exact k

end

/-- One that hears a holder of a higher term does not hold the rein (R302, R303). -/
theorem hbRein_yields (holder : h.rein = 4) (higher : s.mate.term < h.term.toNat) : (hbRein h s).mate.rein ≠ .holder := by
  intro still
  have held : s.mate.rein = .holder := (heardSame_hbRein h (.refl s.mate)).rein still
  have yields : hbRein h s = faultRaise 247 (mateCause0 8
      (modMate (fun n => { n with lease := near32 (cycleNow s) h.leaseEnd.toNat, noHolder := false }) (toStandby 6 s))) := by
    unfold hbRein
    rw [held]
    exact if_pos ⟨holder, .inl higher⟩
  rw [yields] at still
  exact absurd ((toStandby_rein 6 s).symm.trans ((heardSame_claimed (.refl _) _).rein still)) (by decide)

/-- A valid heartbeat counted: the message path is alive, and the mate's data and its term are kept. -/
def hbNoted (s : State) : State :=
  modMate (fun m => { m with hbNow := true, hbMiss := 0, msgAlive := true, peer := some h, peerCycle := cycleNow s
                             highTerm := max m.highTerm h.term.toNat }) s

/-- A heartbeat counted, with its revision, count adoption and count check. -/
def hbChecked (s : State) : State := hbCount h phase (hbAdopt h phase (hbRev h (hbNoted h s)))

theorem heardSame_hbChecked (s : State) : HeardSame (hbNoted h s).mate (hbChecked h phase s).mate :=
  heardSame_hbCount h phase (heardSame_hbAdopt h phase (heardSame_hbRev h (.refl _)))

end

section
variable {h : Heartbeat} {phase : BitVec 15} {s : State}

theorem exec_heartbeatReceive_deaf (deaf : mateListens s = false) : exec (.heartbeatReceive h phase) s = .next s :=
  congrArg Host.Outcome.next (if_pos (Bool.eq_false_iff.mp deaf))

theorem exec_heartbeatReceive_invalid (listens : mateListens s = true) (invalid : hbValid s h = false) : exec (.heartbeatReceive h phase) s =
    .next (modMate (fun m => { m with hbInvalid := satAdd 65535 m.hbInvalid 1 }) s) :=
  congrArg Host.Outcome.next ((if_neg (not_not_intro listens)).trans (if_pos (Bool.eq_false_iff.mp invalid)))

theorem exec_heartbeatReceive (listens : mateListens s = true) (valid : hbValid s h = true) :
    exec (.heartbeatReceive h phase) s = .next (hbRein h (hbChecked h phase.toNat s)) :=
  congrArg Host.Outcome.next ((if_neg (not_not_intro listens)).trans (if_neg (not_not_intro valid)))

theorem exec_heartbeatReceive_heard (listens : mateListens s = true) (valid : hbValid s h = true) :
    ∃ t, exec (.heartbeatReceive h phase) s = .next t ∧ t.mate.msgAlive = true ∧ t.mate.hbMiss = 0 ∧ t.mate.peer = some h ∧
      t.mate.highTerm = max s.mate.highTerm h.term.toNat ∧ (h.rein = 4 → s.mate.term < h.term.toNat → t.mate.rein ≠ .holder) := by
  have checked := heardSame_hbChecked h phase.toNat s
  have heard := heardSame_hbRein h checked
  refine ⟨_, exec_heartbeatReceive listens valid, heard.alive, heard.miss, heard.peer, heard.high, fun holder higher => ?_⟩
  exact hbRein_yields h holder (checked.term.symm ▸ higher)

end

/-! The listen window and the wait for the mate's take (R305). -/

section
variable {s : State}

theorem exec_listenWindowEnd (listens : s.mate.rein = .listen) (last : s.mate.listenLeft ≤ 1) :
    exec .listenWindowEnd s = .next (modMate (fun m => { m with listenEnd := true }) s) :=
  congrArg Host.Outcome.next (if_pos ⟨listens, last⟩)

theorem exec_listenWindowEnd_idle (idle : s.mate.rein ≠ .listen ∨ 2 ≤ s.mate.listenLeft) : exec .listenWindowEnd s = .next s :=
  congrArg Host.Outcome.next (if_neg fun ⟨listens, last⟩ => idle.elim (· listens) (fun more => by omega))

theorem exec_releaseTimeout (releasing : s.mate.rein = .releasing) (out : s.mate.relTake ≤ cycleNow s) :
    exec .releaseTimeout s = .next (modMate (fun m => { m with relTimeout := true }) s) :=
  congrArg Host.Outcome.next (if_pos ⟨releasing, out⟩)

theorem exec_releaseTimeout_idle (idle : s.mate.rein ≠ .releasing ∨ cycleNow s < s.mate.relTake) : exec .releaseTimeout s = .next s :=
  congrArg Host.Outcome.next (if_neg fun ⟨releasing, out⟩ => idle.elim (· releasing) (fun more => Nat.not_le.mpr more out))

section
variable (listens : s.mate.rein = .listen) (alone : s.mate.standbyDue = false) (ends : s.mate.listenEnd = true) (last : s.mate.listenLeft = 0)
include listens alone ends last

/-- A window that has ended, in which no holder was heard, decides at the boundary. -/
theorem listenBoundary_decides : listenBoundary s = listenDecide s := by
  unfold listenBoundary
  rw [listens]
  exact (if_neg (Bool.eq_false_iff.mp alone)).trans (if_pos ⟨ends, last⟩)

theorem listenBoundary_takes (may : mayTake s = true) (free : s.mate.listenSilent = true ∨ (s.mate.listenHeard = true ∧ s.mate.listenLower = true)) :
    listenBoundary s = serviceEntry (mateCauseAll 1 (holdRein 1
      (modMate (fun m => { m with onOffer := false, takeCycle := cycleNow s + 1, txFault := false }) s))) :=
  (listenBoundary_decides listens alone ends last).trans (if_pos ⟨may, free⟩)

theorem listenBoundary_again
    (stays : mayTake s = false ∨ (s.mate.listenSilent = false ∧ (s.mate.listenHeard = false ∨ s.mate.listenLower = false))) :
    listenBoundary s = listenStart s :=
  (listenBoundary_decides listens alone ends last).trans (if_neg (by rcases stays with no | ⟨loud, no | no⟩ <;> simp [*]))

end

section
variable (releasing : s.mate.rein = .releasing)
include releasing

theorem listenBoundary_releasing : listenBoundary s = releaseDecide s := by
  unfold listenBoundary
  rw [releasing]

/-- The mate did not take: the part holds the rein again. -/
theorem listenBoundary_retakes (out : s.mate.relTimeout = true) (alive : s.mate.msgAlive = true) (count : s.lt.countOk = true) :
    listenBoundary s = faultRaise 248 (mateCause0 12 (holdRein 10 s)) :=
  (listenBoundary_releasing releasing).trans (if_pos ⟨out, alive, count⟩)

theorem listenBoundary_waits (waits : s.mate.relTimeout = false ∨ s.mate.msgAlive = false ∨ s.lt.countOk = false) :
    listenBoundary s = modMate (fun m => { m with relTimeout := false }) s :=
  (listenBoundary_releasing releasing).trans (if_neg (by rcases waits with no | no | no <;> simp [no]))

end

end

/-! A release of the mate (R305, R308). -/

/-- The take that a release makes due at the standby: an immediate one at the next cycle, the others at the cycle they name. -/
def releaseDue (r : ReleaseMsg) (s : State) : TakeDue :=
  if r.kind = 0 then ⟨cycleNow s + 1, 3, r.finalSeq.toNat, r.pendingDeltas.toNat, 5, 5⟩
  else ⟨near32 (cycleNow s) r.takeCycle.toNat, 3 + r.kind.toNat, r.finalSeq.toNat, 0, 5, 5⟩

theorem exec_releaseReceive_bad (r : ReleaseMsg) (s : State) : exec (.releaseReceive r false) s = .next s :=
  congrArg Host.Outcome.next (if_pos (by simp))

/-- A standby that hears a release keeps its term, with a cause in each enabled Seat. -/
def releaseTold (r : ReleaseMsg) (s : State) : State :=
  mateCauseAll 2 (modMate (fun m => { m with highTerm := max m.highTerm r.term.toNat }) s)

theorem releaseTold_mate (r : ReleaseMsg) (s : State) :
    (releaseTold r s).mate = { s.mate with highTerm := max s.mate.highTerm r.term.toNat } := mateCauseAll_mate ..

section
variable {r : ReleaseMsg} {s : State} (listens : mateListens s = true) (kind : r.kind.toNat ≤ 2) (standby : s.mate.rein = .standby)
  (synced : s.mate.sync = .synced)
include listens kind standby synced

theorem exec_releaseReceive :
    exec (.releaseReceive r true) s = .next (modMate (fun m => { m with takeDue := some (releaseDue r s) }) (releaseTold r s)) := by
  show execReleaseReceive r true s = _
  unfold execReleaseReceive
  extract_lets s1 due s2
  have named : due = releaseDue r s := by
    unfold due releaseDue
    split
    next immediate => rw [if_pos (BitVec.eq_of_toNat_eq immediate)]
    next later => rw [if_neg fun immediate => later (congrArg BitVec.toNat immediate)]
  have stands : s1.mate.rein = .standby := standby
  have follows : s2.mate.sync = .synced := (congrArg MateState.sync (releaseTold_mate r s)).trans synced
  rw [if_neg (by simp [listens, kind]), if_neg (not_not_intro stands), if_pos follows, named]
  rfl

theorem exec_releaseReceive_due : ∃ t, exec (.releaseReceive r true) s = .next t ∧ t.mate.highTerm = max s.mate.highTerm r.term.toNat ∧
    t.mate.takeDue = some (releaseDue r s) :=
  ⟨_, exec_releaseReceive listens kind standby synced, congrArg MateState.highTerm (releaseTold_mate r s), rfl⟩

end

/-- Settles O44: each row by its equation; what a valid heartbeat counted stands through the checks, the faults they raise and the rein's answer
(`heardSame_hbChecked`, `heardSame_hbRein`), and a holder of a lower term yields (`hbRein_yields`). -/
theorem mateHeartbeats : Obligations.MateHeartbeats := fun _ =>
  ⟨exec_matePulseEdge, exec_pulsePathSilent, exec_msgPathSilent,
    fun _ _ => ⟨exec_heartbeatReceive_deaf, exec_heartbeatReceive_invalid, exec_heartbeatReceive_heard⟩,
    exec_listenWindowEnd, exec_listenWindowEnd_idle,
    fun listens alone ends last => ⟨listenBoundary_takes listens alone ends last, listenBoundary_again listens alone ends last⟩,
    fun _ => exec_releaseReceive_due, fun r => exec_releaseReceive_bad r _, exec_releaseTimeout, exec_releaseTimeout_idle,
    listenBoundary_retakes, listenBoundary_waits⟩

end Sys2Proof.Machine
end

section
/-!
PROOFS. Epochs and snapshots (R311 to R316): what each message of the mate does, one equation for each answer of its row.
-/
namespace Sys2Proof.Machine

open Sys2Proof

/-! Deltas sent (R312). -/

/-- With nothing waiting and room in the queue, a holder's delta joins the open epoch and the queue. -/
theorem sendDelta_queued {d : MateDelta} {s : State} (holder : s.mate.rein = .holder) (waiting : s.mate.waiting = [])
    (room : s.mate.queueBytes + deltaLen d ≤ 8192) (mgmt : Bool) : sendDelta mgmt d s = queueDelta d
      (modMate (fun m => { m with open_ := m.open_.map (fun e => { e with deltas := d :: e.deltas, bytes := e.bytes + deltaLen d }) }) s) := by
  unfold sendDelta
  rw [if_neg (not_not_intro holder)]
  exact if_neg (by simp [waiting, room])

/-! The epoch received (R315). -/

theorem following_iff {s : State} : following s = true ↔ s.mate.rein = .standby ∧ s.mate.sync ≠ .unsynced := by simp [following]

/-- A new epoch under reception. -/
def rxOpened (e : EpochOpen) (s : State) : State :=
  modMate (fun m => { m with rx := some ⟨e.seq.toNat, e.startFrame.toNat, e.term.toNat, [], 24, 0, 0, []⟩ }) s

section
variable {e : EpochOpen} {s : State}

theorem exec_epochOpenReceive (standby : s.mate.rein = .standby) : exec (.epochOpenReceive e true) s =
    .next (rxOpened e (if s.mate.rx.isSome = true ∧ following s = true then syncLost s else s)) :=
  congrArg Host.Outcome.next (if_neg (by simp [standby]))

theorem exec_epochOpenReceive_fresh (standby : s.mate.rein = .standby) (fresh : s.mate.rx = none ∨ s.mate.sync = .unsynced) :
    exec (.epochOpenReceive e true) s = .next (rxOpened e s) := by
  rw [exec_epochOpenReceive standby, if_neg]
  rintro ⟨unended, follows⟩
  rcases fresh with absent | unsynced
  · simp [absent] at unended
  · exact (following_iff.mp follows).2 unsynced

/-- An OPEN before the trailer it should follow breaks the sequence. -/
theorem exec_epochOpenReceive_early (standby : s.mate.rein = .standby) (unended : s.mate.rx.isSome = true) (synced : s.mate.sync ≠ .unsynced) :
    exec (.epochOpenReceive e true) s = .next (rxOpened e (syncLost s)) := by
  rw [exec_epochOpenReceive standby, if_pos ⟨unended, following_iff.mpr ⟨standby, synced⟩⟩]

theorem exec_epochOpenReceive_idle (other : s.mate.rein ≠ .standby) : exec (.epochOpenReceive e true) s = .next s :=
  congrArg Host.Outcome.next (if_pos (.inl other))

theorem exec_epochOpenReceive_bad (e : EpochOpen) (s : State) : exec (.epochOpenReceive e false) s = .next s :=
  congrArg Host.Outcome.next (if_pos (.inr Bool.false_ne_true))

end

section
variable {d : MateDelta} {s : State}

theorem exec_deltaReceive (standby : s.mate.rein = .standby) (coded : 0 < d.space.toNat) (known : d.space.toNat ≤ 8) :
    exec (.deltaReceive d true) s = .next (if d.snap = true then domUpdate (snapChunk d s) else epochDelta d s) :=
  congrArg Host.Outcome.next (if_neg (by simp [standby]; omega))

theorem exec_deltaReceive_idle (other : s.mate.rein ≠ .standby) : exec (.deltaReceive d true) s = .next s :=
  congrArg Host.Outcome.next (if_pos (.inl other))

theorem exec_deltaReceive_bad (d : MateDelta) (s : State) : exec (.deltaReceive d false) s = .next s :=
  congrArg Host.Outcome.next (if_pos (.inr (.inl Bool.false_ne_true)))

end

/-! The trailer (R315, R316). -/

/-- The epoch verified before is applied, and this one waits verified in its place. -/
def rxVerified (e : EpochBody) (t : EpochTrailer) (s : State) : State :=
  modMate (fun x => { x with rx := none, verified := some (e, t), seq := e.seq }) (applyVerified s)

theorem exec_epochTrailerReceive_idle {s : State} (idle : following s = false) (t : EpochTrailer) (ok : Bool) :
    exec (.epochTrailerReceive t ok) s = .next s :=
  congrArg Host.Outcome.next (if_pos (Bool.eq_false_iff.mp idle))

section
variable {s : State} (follows : following s = true) {t : EpochTrailer}
include follows

/-- A trailer with no epoch to end. -/
theorem exec_epochTrailerReceive_lone (absent : s.mate.rx = none) (ok : Bool) : exec (.epochTrailerReceive t ok) s = .next (syncLost s) := by
  show execEpochTrailerReceive t ok s = _
  unfold execEpochTrailerReceive
  rw [if_neg (not_not_intro follows), absent]

section
variable {e : EpochBody} (rx : s.mate.rx = some e)
include rx

/-- A trailer that ends an epoch, by its checks. -/
theorem exec_epochTrailerReceive_ends (ok : Bool) : exec (.epochTrailerReceive t ok) s = .next (
    if ¬ ok = true ∨ ¬ trailerOk s e t = true then syncLost s
    else if (rxVerified e t s).mate.sync = .snapshot ∧ (rxVerified e t s).mate.snapEnded = true ∧ ¬ (rxVerified e t s).mate.revMm = true then
      mateCause0 3 (modMate (fun m => { m with sync := .synced, snapEnded := false, snapItems := [], snapChunks := [] }) (rxVerified e t s))
    else rxVerified e t s) := by
  show execEpochTrailerReceive t ok s = _
  unfold execEpochTrailerReceive
  rw [if_neg (not_not_intro follows), rx]
  rfl

theorem exec_epochTrailerReceive_wrong (wrong : trailerOk s e t = false) : exec (.epochTrailerReceive t true) s = .next (syncLost s) := by
  rw [exec_epochTrailerReceive_ends follows rx, if_pos (.inr (Bool.eq_false_iff.mp wrong))]

section
variable (right : trailerOk s e t = true)
include right

theorem exec_epochTrailerReceive_verified (waits : (rxVerified e t s).mate.sync ≠ .snapshot ∨ (rxVerified e t s).mate.snapEnded = false ∨
      (rxVerified e t s).mate.revMm = true) :
    exec (.epochTrailerReceive t true) s = .next (rxVerified e t s) := by
  rw [exec_epochTrailerReceive_ends follows rx, if_neg (by simp [right]), if_neg (by rcases waits with no | no | no <;> simp [no])]

/-- The first epoch verified after SNAP_END synchronises the standby. -/
theorem exec_epochTrailerReceive_synced (snapshot : (rxVerified e t s).mate.sync = .snapshot) (ended : (rxVerified e t s).mate.snapEnded = true)
    (agrees : (rxVerified e t s).mate.revMm = false) : exec (.epochTrailerReceive t true) s = .next (mateCause0 3
      (modMate (fun m => { m with sync := .synced, snapEnded := false, snapItems := [], snapChunks := [] }) (rxVerified e t s))) := by
  rw [exec_epochTrailerReceive_ends follows rx, if_neg (by simp [right]), if_pos ⟨snapshot, ended, Bool.eq_false_iff.mp agrees⟩]

end

end

theorem exec_epochTrailerReceive_bad (unended : s.mate.rx.isSome = true) : exec (.epochTrailerReceive t false) s = .next (syncLost s) := by
  obtain ⟨e, rx⟩ := Option.isSome_iff_exists.mp unended
  rw [exec_epochTrailerReceive_ends follows rx, if_pos (.inl Bool.false_ne_true)]

end

/-! Snapshots (R316). -/

theorem exec_snapReqReceive {s : State} (seq : BitVec 32) (holder : s.mate.rein = .holder) :
    exec (.snapReqReceive seq true) s = .next (modMate (fun m => { m with snapDue := true }) s) :=
  congrArg Host.Outcome.next (if_pos ⟨holder, rfl, seq.isLt⟩)

/-- The snapshot begins with its mirror empty, nothing received and the epoch before its own the last applied. -/
theorem exec_snapBeginReceive {s : State} (base chunks : BitVec 32) (standby : s.mate.rein = .standby) :
    ∃ t, exec (.snapBeginReceive base chunks true) s = .next t ∧ t.mate.sync = .snapshot ∧ t.mate.snapCycle = s.lt.bounds ∧
      t.mate.snapChunks = [] ∧ t.mate.snapItems = [] ∧ t.mate.snapEnded = false ∧ t.mate.verified = none ∧
      t.mate.seq = (base.toNat + 2 ^ 32 - 1) % 2 ^ 32 := by
  have accepted : ¬ (s.mate.rein ≠ .standby ∨ ¬ true = true ∨ 2 ^ 32 ≤ chunks.toNat) := by
    simp [standby, chunks.isLt]
  refine ⟨_, congrArg Host.Outcome.next (if_neg accepted), ?_⟩
  rw [domUpdate_mate]
  exact ⟨rfl, rfl, rfl, rfl, rfl, rfl, rfl⟩

section
variable {s : State}

theorem exec_snapEndReceive (standby : s.mate.rein = .standby) (snapshot : s.mate.sync = .snapshot) (chunks crc : BitVec 32) (ok : Bool) :
    exec (.snapEndReceive chunks crc ok) s = .next (
      if ok = true ∧ chunks.toNat = s.mate.snapChunks.length ∧ crc.toNat = snapCrc s.mate.snapChunks then
        modMate (fun m => { m with snapEnded := true }) s
      else sendSnapReq s) :=
  congrArg Host.Outcome.next (if_neg (by simp [standby, snapshot]))

theorem exec_snapshotTimeout (standby : s.mate.rein = .standby) (snapshot : s.mate.sync = .snapshot) (runs : s.mate.snapEnded = false)
    (out : s.mate.snapCycle + 800 ≤ s.lt.bounds) :
    exec .snapshotTimeout s = .next (sendSnapReq (modMate (fun m => { m with snapCycle := s.lt.bounds }) s)) :=
  congrArg Host.Outcome.next (if_pos ⟨standby, snapshot, Bool.eq_false_iff.mp runs, out⟩)

theorem exec_snapshotTimeout_idle (idle : s.mate.rein ≠ .standby ∨ s.mate.sync ≠ .snapshot ∨ s.mate.snapEnded = true ∨
    s.lt.bounds < s.mate.snapCycle + 800) : exec .snapshotTimeout s = .next s := by
  refine congrArg Host.Outcome.next (if_neg fun ⟨standby, snapshot, runs, out⟩ => ?_)
  rcases idle with other | other | ended | early
  · exact other standby
  · exact other snapshot
  · exact runs ended
  · exact Nat.not_le.mpr early out

end

/-- Settles O45: each row by its equations; a trailer by what it finds (`exec_epochTrailerReceive_ends`), and the mirror emptied at SNAP_BEGIN and the
domains that follow leave the mate's state (`domUpdate_mate`). -/
theorem mateEpochs : Obligations.MateEpochs := by
  refine fun s => ⟨rfl, fun d => sendDelta_queued, fun e standby => ⟨exec_epochOpenReceive_fresh standby, exec_epochOpenReceive_early standby⟩,
    fun e => exec_epochOpenReceive_idle, fun e => exec_epochOpenReceive_bad e s, fun d => exec_deltaReceive, fun d => exec_deltaReceive_idle,
    fun d => exec_deltaReceive_bad d s,
    fun follows t => ⟨exec_epochTrailerReceive_lone follows, exec_epochTrailerReceive_bad follows,
      fun e rx => ⟨exec_epochTrailerReceive_wrong follows rx, fun right =>
        ⟨exec_epochTrailerReceive_verified follows rx right, exec_epochTrailerReceive_synced follows rx right⟩⟩⟩,
    exec_epochTrailerReceive_idle, exec_snapReqReceive, exec_snapBeginReceive,
    fun standby snapshot => ⟨fun chunks crc => ⟨fun right => ?_, fun wrong => ?_, ?_⟩, exec_snapshotTimeout standby snapshot⟩,
    exec_snapshotTimeout_idle⟩
  · exact (exec_snapEndReceive standby snapshot ..).trans (congrArg Host.Outcome.next (if_pos ⟨rfl, right⟩))
  · exact (exec_snapEndReceive standby snapshot ..).trans
      (congrArg Host.Outcome.next (if_neg fun ⟨_, count, check⟩ => wrong.elim (· count) (· check)))
  · exact (exec_snapEndReceive standby snapshot ..).trans (congrArg Host.Outcome.next (if_neg fun right => Bool.false_ne_true right.1))

end Sys2Proof.Machine
end

section
/-!
PROOFS. What the operations of the Dunte block leave of its lanes (R331, R334, R340, R346): causes, faults, slots, areas and the mate stream leave all
of them; a row that puts one lane back leaves the others.
-/
namespace Sys2Proof.Machine

open Sys2Proof

/-! One lane of the block is put back. -/

/-- A row answers the state in which lane `k` is as `P` says, and the other lanes are as they were. -/
def LeavesLane (i : Instr) (k : Nat) (s : State) (P : Lane → Prop) : Prop :=
  ∃ t, exec i s = .next t ∧ P (laneAt t k) ∧ ∀ q, q ≠ k → laneAt t q = laneAt s q

section
variable {k : Nat} {x : Lane} {s t : State}

theorem laneAt_of_lanes (put : t.dun.lanes = (setLane k x s).dun.lanes) : laneAt t k = x := by
  rw [laneAt, put]
  exact tget_tset_self ..

theorem laneAt_ne_of_lanes (put : t.dun.lanes = (setLane k x s).dun.lanes) {q : Nat} (other : q ≠ k) : laneAt t q = laneAt s q := by
  rw [laneAt, put]
  exact tget_tset_ne _ _ _ other.symm

theorem leavesLane_of_lanes {i : Instr} {P : Lane → Prop} (next : exec i s = .next t) (put : t.dun.lanes = (setLane k x s).dun.lanes)
    (h : P x) : LeavesLane i k s P :=
  ⟨t, next, (laneAt_of_lanes put).symm ▸ h, fun _ => laneAt_ne_of_lanes put⟩

end

theorem setLane_lanes_congr {s t : State} (same : t.dun.lanes = s.dun.lanes) (k : Nat) (x : Lane) :
    (setLane k x t).dun.lanes = (setLane k x s).dun.lanes := congrArg (fun u => tset Lane.reset u k x) same

theorem laneAt_congr {s t : State} (same : t.dun.lanes = s.dun.lanes) (k : Nat) : laneAt t k = laneAt s k :=
  congrArg (fun u => tget Lane.reset u k) same

/-! Operations that leave the lanes. -/

theorem Keeps.dun_eq {W : List Fld} {s t : State} (h : Keeps W s t) (w : Fld.dun ∉ W) : t.dun = s.dun := h.frame .dun w

@[simp] theorem bpCause_dun (l k : Nat) (s : State) : (bpCause l k s).dun = s.dun :=
  (keeps_bpCause (W := [.host, .regs]) (by decide) (by decide) l k s (.refl _ s)).dun_eq (by decide)

@[simp] theorem ite_bpCause_dun (c : Prop) [Decidable c] (l k : Nat) (s : State) : (if c then bpCause l k s else s).dun = s.dun := by
  split
  · exact bpCause_dun ..
  · rfl

@[simp] theorem faultRaise_dun (k : Nat) (s : State) : (faultRaise k s).dun = s.dun :=
  (keeps_faultRaise (W := [.pwr, .host, .led, .mate, .flt, .regs]) (by decide) (by decide) (by decide) (by decide) (by decide) (by decide) k s
    (.refl _ s)).dun_eq (by decide)

theorem breakRuns_lanes (l : Nat) (d : DunteState) : (breakRuns l d).lanes = d.lanes := by
  unfold breakRuns
  rfl

theorem ite_lanes {c : Prop} [Decidable c] {a b : State} {x : Tab Lane} (ha : a.dun.lanes = x) (hb : b.dun.lanes = x) :
    (if c then a else b).dun.lanes = x := by
  split <;> assumption

theorem rxSlot_lanes (l : Nat) (r : DunteSlot) (s : State) : (rxSlot l r s).dun.lanes = s.dun.lanes :=
  ite_lanes rfl (ite_lanes rfl (ite_lanes rfl (ite_lanes ((congrArg DunteState.lanes (bpCause_dun ..)).trans rfl) rfl)))

theorem rxLaneCells_lanes (l : Nat) (r : DunteSlot) (s : State) : (rxLaneCells l r s).dun.lanes = s.dun.lanes := rfl

theorem rxLaneTrib_lanes (l : Nat) (r : TribRx) (s : State) : (rxLaneTrib l r s).dun.lanes = s.dun.lanes := by
  unfold rxLaneTrib
  exact ite_lanes rfl rfl

theorem foldl_lanes {α : Type} {f : State → α → State} (h : ∀ a s, (f s a).dun.lanes = s.dun.lanes) (l : List α) (s : State) :
    (l.foldl f s).dun.lanes = s.dun.lanes := by
  induction l generalizing s with
  | nil => rfl
  | cons a l ih => rw [List.foldl_cons, ih, h]

theorem finishFrame_lanes (d : DunteState) : (finishFrame d).lanes = d.lanes := by
  unfold finishFrame
  split
  · split <;> rfl
  · dsimp only
    split_ifs <;> rfl

theorem rxArea_lanes (m frame : Nat) (errored : Bool) (area : List Nat) (d : DunteState) : (rxArea m frame errored area d).lanes = d.lanes := by
  unfold rxArea
  extract_lets d1
  have begun : d1.lanes = d.lanes := by
    unfold d1
    split <;> rfl
  split
  · exact begun
  · exact (finishFrame_lanes _).trans begun

theorem foldl_linkSend (rank : Nat) (ds : List MateDelta) (s : State) :
    ∃ m, ds.foldl (fun t d => linkSend rank (deltaBytes d) t) s = { s with mate := m } := by
  induction ds generalizing s with
  | nil => exact ⟨_, rfl⟩
  | cons d ds ih =>
    obtain ⟨m, rest⟩ := ih (linkSend rank (deltaBytes d) s)
    exact ⟨m, rest⟩

theorem snapFeed_mate (room : Nat) (s : State) : ∃ m, snapFeed room s = { s with mate := m } := by
  unfold snapFeed
  split
  · exact ⟨_, rfl⟩
  · dsimp only
    obtain ⟨m, queued⟩ := foldl_linkSend _ _ _
    rw [queued]
    split <;> exact ⟨_, rfl⟩

/-- The stream of a frame is put together from the mate's queue and the Dunte block's own stream. -/
theorem composeStream_eq (s : State) : ∃ m us rest made,
    composeStream s = { s with mate := m, dun := { s.dun with txUnits := us, txRest := rest, txAt := made } } := by
  unfold composeStream
  dsimp only
  obtain ⟨m, fed⟩ := snapFeed_mate _ s
  rw [fed]
  exact ⟨_, _, _, _, rfl⟩

/-! Counters of a lane. -/

theorem tget_laneCnt (i n j : Nat) (x : Lane) :
    tget 0 (laneCnt i n x).cnt j = if i = j then (tget 0 x.cnt j + n) % 2 ^ 32 else tget 0 x.cnt j := by
  simp only [laneCnt, tmod, tget_tset, wrap32]
  split
  · subst i; rfl
  · rfl

end Sys2Proof.Machine
end

section
/-!
PROOFS. A frame received on a lane (R333 to R337, R341): the framer, the header, the errors counted and the arrival each write their part of the lane,
and what slots and message areas do leaves it.
-/
namespace Sys2Proof.Machine

open Sys2Proof

/-- The framer writes the framing of a lane alone. -/
theorem laneFramer_fst (marks : List Nat) (x : Lane) : ∃ f c e g o,
    (laneFramer marks x).1 = { x with framer := f, cands := c, errRun := e, goodHdr := g, rxok := o } := by
  unfold laneFramer
  split
  · split <;> exact ⟨_, _, _, _, _, rfl⟩
  · split <;> exact ⟨_, _, _, _, _, rfl⟩
  · split_ifs <;> exact ⟨_, _, _, _, _, rfl⟩

/-- A lane with the header of a frame received in SYNC read. -/
def headerRead (s : State) (l : Nat) (r : DunteRx) (x : Lane) : Lane :=
  if (readHeader r.header).hcrcOk then laneHeader s l (readHeader r.header) r.arrival.toNat x
  else laneCnt 2 1 { x with goodHdr := if x.rxok then x.goodHdr else 0 }

/-- A lane with the errors of the frame counted. -/
def errorsCounted (r : DunteRx) (x : Lane) : Lane := laneCnt 3 r.sbip (laneCnt 1 (b2n (!r.fcrcOk)) (laneCnt 0 r.cv x))

/-- A lane with the frame noted in its window. -/
def windowMarked (r : DunteRx) (x : Lane) : Lane :=
  { x with winErr := x.winErr + b2n (decide (0 < r.cv) || !r.fcrcOk), winBad := x.winBad || !rxRun x }

/-- A lane with the frame's arrival judged against the window. -/
def arrivalJudged (r : DunteRx) (x : Lane) : Lane :=
  if decide (r.arrival.toNat ≤ 9719) then
    { x with phaseOkRun := min 16 (x.phaseOkRun + 1), phaseErr := x.phaseErr && decide (min 16 (x.phaseOkRun + 1) < 16) }
  else laneCnt 4 1 { x with phaseOkRun := 0, phaseErr := true }

/-- A lane after a frame received in SYNC, from what the framer left of it. -/
def frameRead (s : State) (l : Nat) (r : DunteRx) (x : Lane) : Lane := arrivalJudged r (windowMarked r (errorsCounted r (headerRead s l r x)))

section
variable {s : State} {l : Nat} {r : DunteRx} {x : Lane}

theorem headerRead_hdr (valid : (readHeader r.header).hcrcOk = true) : (headerRead s l r x).hdr = some (readHeader r.header) := by
  rw [headerRead, if_pos valid]
  rfl

@[simp] theorem headerRead_winErr : (headerRead s l r x).winErr = x.winErr := by
  unfold headerRead
  split <;> rfl

theorem tget_headerRead (j : Nat) : tget 0 (headerRead s l r x).cnt j =
    if 2 = j ∧ (readHeader r.header).hcrcOk = false then (tget 0 x.cnt j + 1) % 2 ^ 32 else tget 0 x.cnt j := by
  unfold headerRead
  cases valid : (readHeader r.header).hcrcOk with
  | true => simp [laneHeader]
  | false => simp [tget_laneCnt]

@[simp] theorem arrivalJudged_hdr : (arrivalJudged r x).hdr = x.hdr := by
  unfold arrivalJudged
  split <;> rfl

@[simp] theorem rxRun_arrivalJudged : rxRun (arrivalJudged r x) = rxRun x := by
  unfold arrivalJudged
  split <;> rfl

@[simp] theorem arrivalJudged_winErr : (arrivalJudged r x).winErr = x.winErr := by
  unfold arrivalJudged
  split <;> rfl

@[simp] theorem arrivalJudged_winBad : (arrivalJudged r x).winBad = x.winBad := by
  unfold arrivalJudged
  split <;> rfl

/-- SLIPS is the counter behind those of the errors. -/
theorem tget_arrivalJudged {j : Nat} (h : j < 4) : tget 0 (arrivalJudged r x).cnt j = tget 0 x.cnt j := by
  unfold arrivalJudged
  split
  · rfl
  · rw [tget_laneCnt, if_neg (by omega)]

@[simp] theorem errorsCounted_hdr : (errorsCounted r x).hdr = x.hdr := rfl

@[simp] theorem errorsCounted_winErr : (errorsCounted r x).winErr = x.winErr := rfl

@[simp] theorem rxRun_errorsCounted : rxRun (errorsCounted r x) = rxRun x := rfl

@[simp] theorem windowMarked_hdr : (windowMarked r x).hdr = x.hdr := rfl

@[simp] theorem windowMarked_cnt : (windowMarked r x).cnt = x.cnt := rfl

@[simp] theorem windowMarked_winErr : (windowMarked r x).winErr = x.winErr + (if 0 < r.cv ∨ r.fcrcOk = false then 1 else 0) := by
  simp [windowMarked, b2n]

@[simp] theorem windowMarked_winBad : (windowMarked r x).winBad = (x.winBad || !rxRun x) := rfl

@[simp] theorem rxRun_windowMarked : rxRun (windowMarked r x) = rxRun x := rfl

theorem frameRead_hdr (valid : (readHeader r.header).hcrcOk = true) : (frameRead s l r x).hdr = some (readHeader r.header) := by
  simp [frameRead, headerRead_hdr valid]

theorem frameRead_winErr : (frameRead s l r x).winErr = x.winErr + (if 0 < r.cv ∨ r.fcrcOk = false then 1 else 0) := by
  simp [frameRead]

/-- A frame not in RX_RUN spoils the window. -/
theorem frameRead_winBad (out : rxRun (frameRead s l r x) = false) : (frameRead s l r x).winBad = true := by
  have before : rxRun (headerRead s l r x) = false := by simpa [frameRead] using out
  simp [frameRead, before]

theorem frameRead_counts :
    tget 0 (frameRead s l r x).cnt 0 = (tget 0 x.cnt 0 + r.cv) % 2 ^ 32 ∧
    tget 0 (frameRead s l r x).cnt 1 = (tget 0 x.cnt 1 + b2n (!r.fcrcOk)) % 2 ^ 32 ∧
    tget 0 (frameRead s l r x).cnt 2 = (if (readHeader r.header).hcrcOk = true then tget 0 x.cnt 2 else (tget 0 x.cnt 2 + 1) % 2 ^ 32) ∧
    tget 0 (frameRead s l r x).cnt 3 = (tget 0 x.cnt 3 + r.sbip) % 2 ^ 32 := by
  have counted {j : Nat} (h : j < 4) : tget 0 (frameRead s l r x).cnt j = tget 0 (errorsCounted r (headerRead s l r x)).cnt j := by
    rw [frameRead, tget_arrivalJudged h, windowMarked_cnt]
  rw [counted (by decide), counted (by decide), counted (by decide), counted (by decide)]
  cases valid : (readHeader r.header).hcrcOk <;> simp [errorsCounted, tget_laneCnt, tget_headerRead, valid]

end

section
variable {s : State} {k : Nat} {r : DunteRx}

theorem laneReceive_outOfSync (out : (laneFramer r.marks (laneAt s k)).2 = false) :
    (laneReceive k r s).dun.lanes = (setLane k { (laneFramer r.marks (laneAt s k)).1 with winBad := true } s).dun.lanes := by
  unfold laneReceive
  generalize laneFramer r.marks (laneAt s k) = framed at out ⊢
  obtain ⟨x, sync⟩ := framed
  subst out
  exact setLane_lanes_congr (t := { s with dun := breakRuns k s.dun }) (breakRuns_lanes k s.dun) k _

theorem laneReceive_inSync (found : (laneFramer r.marks (laneAt s k)).2 = true) :
    (laneReceive k r s).dun.lanes = (setLane k (frameRead s k r (laneFramer r.marks (laneAt s k)).1) s).dun.lanes := by
  unfold laneReceive
  generalize laneFramer r.marks (laneAt s k) = framed at found ⊢
  obtain ⟨x0, sync⟩ := framed
  subst found
  dsimp -zeta only
  rw [if_neg (not_not_intro rfl)]
  extract_lets x1 x2 x3 inWin n x4 s1 t s2
  have put : s2.dun.lanes = s1.dun.lanes := by
    unfold s2 t
    split_ifs <;> simp
  refine Eq.trans ?_ put
  refine ite_lanes (ite_lanes ?_ (breakRuns_lanes ..)) (ite_lanes (rxArea_lanes ..) rfl)
  rw [foldl_lanes (rxLaneTrib_lanes k), foldl_lanes (rxLaneCells_lanes k), foldl_lanes (rxSlot_lanes k)]

end

section
variable {l : LaneSel} {s : State} (r : DunteRx)

theorem exec_dunteFrameReceive (runs : laneRuns s (laneIdx l) = true) (locked : (laneAt s (laneIdx l)).locked = true) :
    exec (.dunteFrameReceive l r) s = .next (laneReceive (laneIdx l) r s) :=
  congrArg Host.Outcome.next (if_pos (by simp [runs, locked]))

theorem exec_dunteFrameReceive_idle (h : laneRuns s (laneIdx l) = false ∨ (laneAt s (laneIdx l)).locked = false) :
    exec (.dunteFrameReceive l r) s = .next s :=
  congrArg Host.Outcome.next (if_neg (by rcases h with off | down <;> simp [*]))

theorem leavesLane_dunteFrameReceive_outOfSync (runs : laneRuns s (laneIdx l) = true) (locked : (laneAt s (laneIdx l)).locked = true)
    (out : (laneFramer r.marks (laneAt s (laneIdx l))).2 = false) : LeavesLane (.dunteFrameReceive l r) (laneIdx l) s
      (· = { (laneFramer r.marks (laneAt s (laneIdx l))).1 with winBad := true }) :=
  leavesLane_of_lanes (exec_dunteFrameReceive r runs locked) (laneReceive_outOfSync out) rfl

theorem leavesLane_dunteFrameReceive_inSync (runs : laneRuns s (laneIdx l) = true) (locked : (laneAt s (laneIdx l)).locked = true)
    (found : (laneFramer r.marks (laneAt s (laneIdx l))).2 = true) : LeavesLane (.dunteFrameReceive l r) (laneIdx l) s fun z =>
      let x := laneAt s (laneIdx l)
      let h := readHeader r.header
      tget 0 z.cnt 0 = (tget 0 x.cnt 0 + r.cv) % 2 ^ 32 ∧ tget 0 z.cnt 1 = (tget 0 x.cnt 1 + b2n (!r.fcrcOk)) % 2 ^ 32 ∧
      tget 0 z.cnt 2 = (if h.hcrcOk = true then tget 0 x.cnt 2 else (tget 0 x.cnt 2 + 1) % 2 ^ 32) ∧
      tget 0 z.cnt 3 = (tget 0 x.cnt 3 + r.sbip) % 2 ^ 32 ∧
      z.winErr = x.winErr + (if 0 < r.cv ∨ r.fcrcOk = false then 1 else 0) ∧ (h.hcrcOk = true → z.hdr = some h) := by
  refine leavesLane_of_lanes (exec_dunteFrameReceive r runs locked) (laneReceive_inSync found) ?_
  obtain ⟨f, c, e, g, o, framed⟩ := laneFramer_fst r.marks (laneAt s (laneIdx l))
  rw [framed]
  obtain ⟨violations, crc, headers, parities⟩ := frameRead_counts
  exact ⟨violations, crc, headers, parities, frameRead_winErr, frameRead_hdr⟩

end

end Sys2Proof.Machine
end

section
/-!
PROOFS. The other rows of a lane (R332, R336, R337, R345): lock and loss, a frame sent, the training time-out, and the transmit monitor.
-/
namespace Sys2Proof.Machine

open Sys2Proof

/-! Transmission. -/

section
variable {k : Nat} {s : State}

theorem laneSend_idle (area : List Nat) (idle : laneTx s k = .idle) : laneSend k area s = setLane k { laneAt s k with
    sent := none, sentSlots := [], sentCells := [], sentArea := [], monitor := .hunt, monAge := 0, txClean := 0 } s := by
  unfold laneSend
  simp only [idle]

/-- What the header and the transmit monitor keep of a frame sent on a lane that is not idle. -/
theorem laneSend_sends (area : List Nat) (sends : laneTx s k ≠ .idle) : ∃ z, laneSend k area s = setLane k z s ∧
    z.sent = some (txHeader s k) ∧ z.monAge = min 8 ((laneAt s k).monAge + 1) ∧
    z.monitor = (if (laneAt s k).monitor = .hunt then .presync else .sync) ∧
    z.txClean = (if (laneAt s k).monitor = .sync then min 16 ((laneAt s k).txClean + 1) else 0) ∧
    z.txFail = ((laneAt s k).txFail && decide (z.txClean < 16)) := by
  unfold laneSend
  cases kind : laneTx s k with
  | idle => exact absurd kind sends
  | train | run =>
    refine ⟨_, rfl, rfl, rfl, ?_, rfl, rfl⟩
    cases (laneAt s k).monitor <;> rfl

end

section
variable {l : LaneSel} {s : State}

/-- A frame is sent from a state that differs in the mate's queue and the stream put together alone. -/
theorem exec_dunteFrameTransmit (l : LaneSel) (s : State) : ∃ area u, exec (.dunteFrameTransmit l) s = .next (laneSend (laneIdx l) area u) ∧
    u.dun.lanes = s.dun.lanes ∧ laneTx u (laneIdx l) = laneTx s (laneIdx l) ∧ txHeader u (laneIdx l) = txHeader s (laneIdx l) := by
  show ∃ area u, execDunteFrameTransmit l s = _ ∧ _
  unfold execDunteFrameTransmit
  dsimp only
  split_ifs
  · exact ⟨_, _, rfl, rfl, rfl, rfl⟩
  · exact ⟨_, _, rfl, rfl, rfl, rfl⟩
  · obtain ⟨m, us, rest, made, composed⟩ := composeStream_eq s
    rw [composed]
    exact ⟨_, _, rfl, rfl, rfl, rfl⟩

theorem leavesLane_dunteFrameTransmit_idle (idle : laneTx s (laneIdx l) = .idle) : LeavesLane (.dunteFrameTransmit l) (laneIdx l) s
    (· = { laneAt s (laneIdx l) with
      sent := none, sentSlots := [], sentCells := [], sentArea := [], monitor := .hunt, monAge := 0, txClean := 0 }) := by
  obtain ⟨area, u, next, lanes, tx, _⟩ := exec_dunteFrameTransmit l s
  rw [laneSend_idle area (tx.trans idle), laneAt_congr lanes] at next
  exact leavesLane_of_lanes next (setLane_lanes_congr lanes ..) rfl

theorem leavesLane_dunteFrameTransmit (sends : laneTx s (laneIdx l) ≠ .idle) :
    LeavesLane (.dunteFrameTransmit l) (laneIdx l) s fun z =>
      let x := laneAt s (laneIdx l)
      z.sent = some (txHeader s (laneIdx l)) ∧ z.monAge = min 8 (x.monAge + 1) ∧
      z.monitor = (if x.monitor = .hunt then .presync else .sync) ∧ z.txClean = (if x.monitor = .sync then min 16 (x.txClean + 1) else 0) ∧
      z.txFail = (x.txFail && decide (z.txClean < 16)) := by
  obtain ⟨area, u, next, lanes, tx, header⟩ := exec_dunteFrameTransmit l s
  obtain ⟨z, put, kept⟩ := laneSend_sends area (tx ▸ sends)
  rw [header, laneAt_congr lanes] at kept
  rw [put] at next
  exact leavesLane_of_lanes next (setLane_lanes_congr lanes ..) kept

/-! Lock and loss (R337). -/

theorem leavesLane_dunteCodeLock (runs : laneRuns s (laneIdx l) = true) :
    LeavesLane (.dunteCodeLock l) (laneIdx l) s (· = { laneAt s (laneIdx l) with locked := true }) :=
  leavesLane_of_lanes (congrArg Host.Outcome.next (if_pos runs)) rfl rfl

theorem exec_dunteCodeLock_idle (off : laneRuns s (laneIdx l) = false) : exec (.dunteCodeLock l) s = .next s :=
  congrArg Host.Outcome.next (if_neg (by simp [off]))

/-- A lane that was locked counts the event as it falls to DOWN. -/
theorem laneDown_down (x : Lane) : (laneDown x).locked = false ∧ (laneDown x).framer = .hunt ∧ (laneDown x).rxok = false ∧
    (laneDown x).winBad = true ∧
    tget 0 (laneDown x).cnt 5 = (if x.locked = true then (tget 0 x.cnt 5 + 1) % 2 ^ 32 else tget 0 x.cnt 5) := by
  unfold laneDown
  dsimp only
  split
  · exact ⟨rfl, rfl, rfl, rfl, tget_laneCnt 5 1 5 _⟩
  · exact ⟨rfl, rfl, rfl, rfl, rfl⟩

theorem laneDrop_lanes (k : Nat) (s : State) : (laneDrop k s).dun.lanes = (setLane k (laneDown (laneAt s k)) s).dun.lanes := by
  have same : { s with dun := breakRuns k s.dun }.dun.lanes = s.dun.lanes := breakRuns_lanes k s.dun
  unfold laneDrop modLane
  rw [laneAt_congr same]
  exact setLane_lanes_congr same k _

theorem leavesLane_dunteLos (l : LaneSel) (s : State) : LeavesLane (.dunteLos l) (laneIdx l) s fun z =>
    let x := laneAt s (laneIdx l)
    z.locked = false ∧ z.framer = .hunt ∧ z.rxok = false ∧ z.winBad = true ∧
    tget 0 z.cnt 5 = (if x.locked = true then (tget 0 x.cnt 5 + 1) % 2 ^ 32 else tget 0 x.cnt 5) :=
  leavesLane_of_lanes (t := laneDrop (laneIdx l) s) rfl (laneDrop_lanes ..) (laneDown_down _)

/-! The training time-out (R336). -/

theorem leavesLane_trainTimeout (train : laneTx s (laneIdx l) = .train) (unanswered : (laneAt s (laneIdx l)).accepted = none)
    (out : (laneAt s (laneIdx l)).leftIdle + 160 ≤ s.lt.bounds) (multiframe : s.lt.frame % 4 = 0) :
    LeavesLane (.trainTimeout l) (laneIdx l) s fun z =>
      z.tx = .run ∧ tget 0 z.cnt 6 = (tget 0 (laneAt s (laneIdx l)).cnt 6 + 1) % 2 ^ 32 :=
  leavesLane_of_lanes (congrArg Host.Outcome.next (if_pos ⟨train, unanswered, out, multiframe⟩)) (congrArg DunteState.lanes (bpCause_dun ..))
    ⟨rfl, tget_laneCnt 6 1 6 _⟩

theorem exec_trainTimeout_idle (h : laneTx s (laneIdx l) ≠ .train ∨ s.lt.bounds < (laneAt s (laneIdx l)).leftIdle + 160) :
    exec (.trainTimeout l) s = .next s :=
  congrArg Host.Outcome.next (if_neg fun ⟨train, _, out, _⟩ => h.elim (· train) (Nat.not_lt.mpr out))

/-! The transmit monitor (R345). -/

/-- The monitor reports a failure once it has met SYNC or had its 8 frames. -/
theorem exec_laneTxmonFail (sends : laneTx s (laneIdx l) ≠ .idle) (clear : (laneAt s (laneIdx l)).txFail = false)
    (judged : (laneAt s (laneIdx l)).monitor = .sync ∨ 8 ≤ (laneAt s (laneIdx l)).monAge) :
    let k := laneIdx l
    let u := bpCause k 3 (setLane k { laneAt s k with monitor := .hunt, txClean := 0, txFail := true } s)
    exec (.laneTxmonFail l) s = .next (if k < 32 then txFaultAtTake (faultRaise (137 + 3 * k) u) else faultRaise (233 + 2 * (k - 32)) u) := by
  have fails : ¬ ((laneAt s (laneIdx l)).monitor ≠ .sync ∧ (laneAt s (laneIdx l)).monAge < 8 ∨ (laneAt s (laneIdx l)).txFail = true) := by
    rintro (⟨young, few⟩ | again)
    · exact judged.elim young (Nat.not_le.mpr few)
    · simp [clear] at again
  exact congrArg Host.Outcome.next ((if_neg sends).trans (if_neg fails))

theorem leavesLane_laneTxmonFail_again (sends : laneTx s (laneIdx l) ≠ .idle) (h : (laneAt s (laneIdx l)).txFail = true ∨
    ((laneAt s (laneIdx l)).monitor ≠ .sync ∧ (laneAt s (laneIdx l)).monAge < 8)) :
    LeavesLane (.laneTxmonFail l) (laneIdx l) s (· = { laneAt s (laneIdx l) with monitor := .hunt, txClean := 0 }) :=
  leavesLane_of_lanes (congrArg Host.Outcome.next ((if_neg sends).trans (if_pos h.symm))) rfl rfl

theorem exec_laneTxmonFail_idle (idle : laneTx s (laneIdx l) = .idle) : exec (.laneTxmonFail l) s = .next s :=
  congrArg Host.Outcome.next (if_pos idle)

end

/-- Settles O50: each row puts one lane back; a received frame's slots and areas (`laneReceive_inSync`) and the stream put together for a frame sent
(`exec_dunteFrameTransmit`) leave the lanes. -/
theorem dunteLanes : Obligations.DunteLanes := fun l s =>
  ⟨fun r => ⟨exec_dunteFrameReceive_idle r, fun runs locked =>
      ⟨leavesLane_dunteFrameReceive_outOfSync r runs locked, leavesLane_dunteFrameReceive_inSync r runs locked⟩⟩,
    leavesLane_dunteCodeLock, exec_dunteCodeLock_idle, leavesLane_dunteLos l s, leavesLane_dunteFrameTransmit_idle, leavesLane_dunteFrameTransmit,
    leavesLane_trainTimeout, exec_trainTimeout_idle, exec_laneTxmonFail, leavesLane_laneTxmonFail_again, exec_laneTxmonFail_idle⟩

end Sys2Proof.Machine
end

section
/-!
PROOFS. Lane windows (R342): a window that ends is judged by its errored frames against a threshold, and the next one starts clean.
-/
namespace Sys2Proof.Machine

open Sys2Proof

/-- SD or EXC after a window of `x` that ends, from what was declared, its threshold, and whether LT skipped. -/
def verdict (x : Lane) (skip declared : Bool) (thr : Nat) : Bool :=
  if (x.winBad || skip) = true then declared else if thr ≤ x.winErr then true else if x.winErr ≤ thr / 10 then false else declared

section
variable {x : Lane} {skip declared : Bool} {thr : Nat}

theorem verdict_spoilt (h : x.winBad = true ∨ skip = true) : verdict x skip declared thr = declared :=
  if_pos (Bool.or_eq_true_iff.mpr h)

/-- A window of RX_RUN frames, without a skip, declares, clears or leaves what was declared. -/
theorem verdict_good (good : x.winBad = false) (whole : skip = false) : (thr ≤ x.winErr → verdict x skip declared thr = true) ∧
    (x.winErr < thr → x.winErr ≤ thr / 10 → verdict x skip declared thr = false) ∧
    (x.winErr < thr → thr / 10 < x.winErr → verdict x skip declared thr = declared) := by
  have judged : verdict x skip declared thr = if thr ≤ x.winErr then true else if x.winErr ≤ thr / 10 then false else declared :=
    if_neg (by simp [good, whole])
  rw [judged]
  exact ⟨fun many => if_pos many, fun under few => (if_neg (Nat.not_le.mpr under)).trans (if_pos few),
    fun under more => (if_neg (Nat.not_le.mpr under)).trans (if_neg (Nat.not_le.mpr more))⟩

end

theorem laneThr_eq (s : State) (k : Nat) : laneThr s k =
    (if k < 32 then bits (rget s (kP (0xE0000 + 0x100 * k))) 16 8 else 4, if k < 32 then bits (rget s (kP (0xE0000 + 0x100 * k))) 24 8 else 80) := by
  unfold laneThr
  split <;> rfl

/-- A lane as its next window starts. -/
def windowJudged (s : State) (k : Nat) (skip : Bool) (x : Lane) : Lane :=
  { x with
    sd := verdict x skip x.sd (laneThr s k).1, exc := verdict x skip x.exc (laneThr s k).2
    winErr := 0, winBad := !rxRun x, winEnds := false }

section
variable {k : Nat} {s : State} (runs : laneRuns s k = true)
include runs

theorem laneWindow_inside : laneWindow false false k s = s := by
  unfold laneWindow
  rw [if_neg (not_not_intro runs)]
  simp

theorem laneWindow_ends {skip : Bool} (ends : (laneAt s k).winEnds = true ∨ skip = true) :
    (laneWindow true skip k s).dun.lanes = (setLane k (windowJudged s k skip (laneAt s k)) s).dun.lanes := by
  unfold laneWindow
  rw [if_neg (not_not_intro runs)]
  extract_lets x0 x judge
  rw [if_neg (by rcases ends with noted | skipped <;> simp [x, x0, *])]
  exact congrArg DunteState.lanes ((ite_bpCause_dun ..).trans (ite_bpCause_dun ..))

end

theorem exec_laneWindowEnd_early {l : LaneSel} {s : State} (inside : (s.lt.frame + 1) % 800 ≠ 0) : exec (.laneWindowEnd l) s = .next s :=
  congrArg Host.Outcome.next (if_pos (.inr inside))

section
variable {l : LaneSel} {s : State} (runs : laneRuns s (laneIdx l) = true)
include runs

theorem exec_laneWindowEnd (last : (s.lt.frame + 1) % 800 = 0) :
    exec (.laneWindowEnd l) s = .next (setLane (laneIdx l) { laneAt s (laneIdx l) with winEnds := true } s) :=
  congrArg Host.Outcome.next (if_neg (by simp [runs, last]))

/-- What a received frame, in SYNC or not, leaves of the window. -/
theorem exec_dunteFrameReceive_window (locked : (laneAt s (laneIdx l)).locked = true) (r : DunteRx) :
    ∃ t, exec (.dunteFrameReceive l r) s = .next t ∧ (rxRun (laneAt t (laneIdx l)) = false → (laneAt t (laneIdx l)).winBad = true) ∧
      ((laneFramer r.marks (laneAt s (laneIdx l))).2 = true →
        (laneAt t (laneIdx l)).winErr = (laneAt s (laneIdx l)).winErr + (if 0 < r.cv ∨ r.fcrcOk = false then 1 else 0)) := by
  refine ⟨_, exec_dunteFrameReceive r runs locked, ?_⟩
  cases sync : (laneFramer r.marks (laneAt s (laneIdx l))).2 with
  | false =>
    rw [laneAt_of_lanes (laneReceive_outOfSync sync)]
    exact ⟨fun _ => rfl, nofun⟩
  | true =>
    rw [laneAt_of_lanes (laneReceive_inSync sync)]
    obtain ⟨f, c, e, g, o, framed⟩ := laneFramer_fst r.marks (laneAt s (laneIdx l))
    exact ⟨frameRead_winBad, fun _ => by rw [frameRead_winErr, framed]⟩

end

/-- Settles O51: the window's end puts back the lane that `windowJudged` gives, SD and EXC each by its `verdict`. -/
theorem laneWindows : Obligations.LaneWindows := by
  refine fun l s runs => ⟨exec_laneWindowEnd_early, exec_laneWindowEnd runs, laneWindow_inside runs, fun skip ends => ?_,
    exec_dunteFrameReceive_window runs⟩
  have put := laneWindow_ends runs ends
  refine ⟨fun q => laneAt_ne_of_lanes put, ?_⟩
  rw [laneAt_of_lanes put]
  refine ⟨rfl, rfl, rfl, fun spoilt => ⟨verdict_spoilt spoilt, verdict_spoilt spoilt⟩, fun good whole => ?_⟩
  simp only [windowJudged, laneThr_eq]
  obtain ⟨sdSet, sdClear, sdStands⟩ := verdict_good good whole
  exact ⟨sdSet, sdClear, sdStands, verdict_good good whole⟩

end Sys2Proof.Machine
end

section
/-!
PROOFS. The step, and what holds of every command: it keeps the parts outside `Instr.touches`, and stops only for an operand that names nothing.
-/
namespace Sys2Proof.Machine

open Sys2Proof

/-- Settles O4: `keeps_exec` says it of each command, block by block. -/
theorem commandsTouchOnly : Obligations.CommandsTouchOnly := fun c s t runs =>
  have kept := keeps_exec c s t runs
  ⟨kept.frame, kept.queue, kept.free⟩

theorem idle_eq_self {s : State} (h : alive s = false ∨ frameLast s ≤ s.lt.phase) : idle s = s :=
  if_neg (by rcases h with dark | last <;> simp [*])

theorem idle_of_lt {s : State} (runs : alive s = true) (inside : s.lt.phase < frameLast s) :
    idle s = { s with lt := { s.lt with phase := s.lt.phase + 1 } } :=
  if_pos (by simp [runs, inside])

theorem step_idle {s : State} (empty : s.pending = []) : step s = .next (idle s) := by
  unfold step
  rw [empty]

/-- Settles O1. -/
theorem stepTakesFront : Obligations.StepTakesFront :=
  ⟨fun _ _ _ => rfl, fun _ empty =>
    ⟨fun h => (step_idle empty).trans (congrArg _ (idle_eq_self h)),
      fun runs inside => ⟨_, step_idle empty, idle_of_lt runs inside⟩⟩⟩

/-- A meaning answers a next state where its operand `n` names one of the `m` objects there are, and stops by name where it does not. -/
def StopsBeyond (n m : Nat) (r : Result) : Prop :=
  (decide (n < m) = true → ∃ t, r = .next t) ∧ (decide (n < m) = false → r = .fault .noSuchObject)

theorem stopsBeyond_ite {n m : Nat} {c : Prop} [Decidable c] {r : Result} (beyond : c ↔ m ≤ n) (answers : ∃ t, r = .next t) :
    StopsBeyond n m (if c then .fault .noSuchObject else r) :=
  ⟨fun inside => (if_neg (beyond.not.mpr (Nat.not_le.mpr (of_decide_eq_true inside)))).symm ▸ answers,
    fun outside => if_pos (beyond.mpr (Nat.not_lt.mp (of_decide_eq_false outside)))⟩

theorem groupsOf_lt_iff {lo : Bool} {n : Nat} : groupsOf lo < n ↔ tileCount lo ≤ n := by cases lo <;> exact Iff.rfl

/-- Settles O5: the commands whose operand may name nothing compare it first (`stopsBeyond_ite`); the other meanings answer on each of their branches. -/
theorem wellFormedCompletes : Obligations.WellFormedCompletes := by
  intro c s
  cases c with
  | timingInputEdge | domainWakeDone => exact stopsBeyond_ite Iff.rfl (by split <;> exact ⟨_, rfl⟩)
  | domainWakeTimeout | domainGate | decodeBistStart | decodeBistEnd | adcConversion | faultRaise | faultSweep =>
    exact stopsBeyond_ite Iff.rfl ⟨_, rfl⟩
  | tileBistPassEnd | tileDatapathFault => exact stopsBeyond_ite groupsOf_lt_iff ⟨_, rfl⟩
  | timingInputMiss | refclkLoss | refclkReturn | dmaBurstComplete | dmaHostCompletionFault | connEntryWrite =>
    refine ⟨fun _ => ?_, nofun⟩
    unfold exec
    simp only [execTimingInputMiss, execRefclkLoss, execRefclkReturn, execDmaBurstComplete, execDmaHostCompletionFault, execConnEntryWrite]
    repeat' split
    all_goals exact ⟨_, rfl⟩
  | _ => exact ⟨fun _ => ⟨_, rfl⟩, nofun⟩

end Sys2Proof.Machine
end

section
/-!
PROOFS. Camera packets (R351, R353, R356 to R359): what a burst and a packet's data type decide, one equation per case.
-/
namespace Sys2Proof.Machine

open Sys2Proof

/-! Bursts (R351). -/

/-- A receiver has entered HS operation. -/
def hsBegun (k : Nat) (s : State) : State := modRx k (fun x => { x with hsActive := true, clkHs := true }) s

section
variable {k : Nat} {s : State}

theorem rxBurst_off (off : bit (crCfg s k) 0 = false ∨ domOn s (102 + k) = false) (sot : SotRx) : rxBurst k sot s = (false, s) :=
  if_pos (by rcases off with h | h <;> simp [h])

variable (on : bit (crCfg s k) 0 = true ∧ domOn s (102 + k) = true)
include on

theorem rxBurst_undeskewed (fast : 1500 < bits (crCfg s k) 4 12) (lost : (rxAt s k).deskewOk = false) (sot : SotRx) :
    rxBurst k sot s = (false, rxCount k 2 (hsBegun k s)) :=
  (if_neg (by simp [on])).trans (if_pos ⟨fast, by simp [lost]⟩)

theorem rxBurst_ready (ready : bits (crCfg s k) 4 12 ≤ 1500 ∨ (rxAt s k).deskewOk = true) (sot : SotRx) :
    rxBurst k sot s = match sot with
      | .ok => (true, hsBegun k s)
      | .corrected => (true, rxCount k 0 (hsBegun k s))
      | .bad => (false, rxCount k 1 (hsBegun k s)) := by
  unfold rxBurst
  rw [if_neg (by simp [on])]
  exact if_neg (by rcases ready with slow | skewed <;> simp [*])

end

section
variable {r : BitVec 1} {s t : State}

theorem exec_csi2PacketReceive_lost {p : CsiPacket} (lost : rxBurst r.toNat p.sot s = (false, t)) : exec (.csi2PacketReceive r p) s = .next t := by
  show execCsi2PacketReceive r p s = _
  unfold execCsi2PacketReceive
  rw [lost]
  rfl

theorem exec_csi2PacketReceive {p : CsiPacket} (taken : rxBurst r.toNat p.sot s = (true, t)) : exec (.csi2PacketReceive r p) s =
    .next (match p.ecc with
      | .ok => rxPacket r.toNat p.vc.toNat p.dt.toNat p.data.toNat p.payload p.crc.toNat false t
      | .corrected => rxPacket r.toNat p.vc.toNat p.dt.toNat p.data.toNat p.payload p.crc.toNat true (rxCount r.toNat 3 t)
      | .extension => rxCount r.toNat 6 t
      | .bad => foldUpto 8 (fun c u => if bits (camBindOf u c) 0 1 = r.toNat then camFlag c 0x100 u else u) (rxCount r.toNat 4 t)) := by
  show execCsi2PacketReceive r p s = _
  unfold execCsi2PacketReceive
  rw [taken]
  exact congrArg Host.Outcome.next (if_neg (by simp))

end

section
variable {k vc dt data crc : Nat} {payload : List Byte} {s t : State}

theorem goodPacket_lost (lost : rxBurst k .ok s = (false, t)) : goodPacket k vc dt data payload crc s = .next t := by
  unfold goodPacket
  rw [lost]
  rfl

theorem goodPacket_taken (on : bit (crCfg s k) 0 = true ∧ domOn s (102 + k) = true)
    (ready : bits (crCfg s k) 4 12 ≤ 1500 ∨ (rxAt s k).deskewOk = true) :
    goodPacket k vc dt data payload crc s = .next (rxPacket k vc dt data payload crc false (hsBegun k s)) := by
  unfold goodPacket
  rw [rxBurst_ready on ready]
  rfl

end

/-! Packets whose header needed no correction (R353, R357 to R360). -/

theorem modCam_congr {c : Nat} {f g : Camera → Camera} {s : State} (h : f (camAt s c) = g (camAt s c)) : modCam c f s = modCam c g s := by
  unfold modCam tmod
  rw [show f (tget .reset s.cam.cams c) = g (tget .reset s.cam.cams c) from h]

section
variable {k vc dt data crc : Nat} {payload : List Byte} {s : State}

theorem rxPacket_unused (none_ : camOf s k vc = none) (fix : Bool) : rxPacket k vc dt data payload crc fix s = rxCount k 8 s := by
  unfold rxPacket
  rw [none_]

variable {c : Nat} (camera : camOf s k vc = some c)
include camera

theorem rxPacket_frameStart : rxPacket k vc 0 data payload crc false s = camFs c data s := by
  unfold rxPacket
  rw [camera]
  simp

theorem rxPacket_frameEnd : rxPacket k vc 1 data payload crc false s = camFe k c data s := by
  unfold rxPacket
  rw [camera]
  simp

theorem rxPacket_embedded_orphan (closed : (camAt s c).cur = none) : rxPacket k vc 0x12 data payload crc false s = camOrphan k c s := by
  unfold rxPacket
  rw [camera]
  simp [closed]

variable {f : CamFrame} (frame : (camAt s c).cur = some f)
include frame

theorem rxPacket_embedded : rxPacket k vc 0x12 data payload crc false s =
    crcCheck k c payload crc (modCam c (fun x => { x with cur := some { f with embedded := f.embedded ++ [payload] } }) s) := by
  have added := modCam_congr (s := s) (c := c) (f := fun x => { x with cur := x.cur.map (fun f => { f with embedded := f.embedded ++ [payload] }) })
    (g := fun x => { x with cur := some { f with embedded := f.embedded ++ [payload] } }) (by simp only [frame, Option.map_some])
  rw [← added]
  unfold rxPacket
  rw [camera]
  simp [frame]

/-- A pixel line joins the frame where its data type is the camera's own; another pixel type is flagged. -/
theorem rxPacket_pixelLine (long : 0x10 ≤ dt) (other : dt ≠ 0x12) (pixel : isPixelDt s k dt = true) :
    rxPacket k vc dt data payload crc false s = if (dtCode s k (bits f.cfg 1 3)).1 = dt then
      crcCheck k c payload crc (camLine c (dtCode s k (bits f.cfg 1 3)).2 payload s) else camFlag c 0x200 s := by
  unfold rxPacket
  rw [camera]
  dsimp only
  have unfixed : ¬ (false = true ∧ dt ≠ 0) := by simp
  rw [if_neg unfixed, if_neg (by omega), if_neg (by omega), if_neg (by omega), if_neg (by omega), if_neg (by omega), if_neg (by simp [frame]),
    if_neg other, if_pos pixel, frame]
  rfl

end

/-! The receiver's other rows. -/

theorem rxAt_modRx (k q : Nat) (f : CamRx → CamRx) (s : State) : rxAt (modRx k f s) q = if k = q then f (rxAt s k) else rxAt s q :=
  tget_tset ..

theorem exec_deskewBurst {r : BitVec 1} {s : State} (on : bit (crCfg s r.toNat) 0 = true ∧ domOn s (102 + r.toNat) = true)
    (phy : bit (crCfg s r.toNat) 1 = true) :
    exec (.deskewBurst r) s = .next (modRx r.toNat (fun x => { x with deskewOk := true, hsActive := true, clkHs := true }) s) :=
  congrArg Host.Outcome.next (if_pos ⟨on.1, phy, on.2⟩)

section
variable {c : BitVec 3} {s : State} {f : CamFrame} (open_ : (camAt s c.toNat).cur = some f)
include open_

theorem exec_frameTimeout : exec (.frameTimeout c) s = .next
    (if (f.bound + bits f.time 0 16) * 19440 + f.phase ≤ s.lt.bounds * 19440 + s.lt.phase then camClose c.toNat 0x30 s else s) := by
  show execFrameTimeout c s = _
  unfold execFrameTimeout
  rw [open_]
  rfl

end

/-- Settles O46: the burst decides first, then the camera of the virtual channel, then the data type; `hsBegun` changes no register and no camera. -/
theorem cameraPackets : Obligations.CameraPackets := by
  intro r s
  dsimp only
  refine ⟨fun off => ?_, fun on fast lost => ?_, fun on ready p => ?_,
    fun on ready vc num dt payload crc => ⟨fun (unused : camOf (hsBegun r.toNat s) _ _ = none) => ?_,
      fun c (camera : camOf (hsBegun r.toNat s) _ _ = some c) => ?_⟩, fun on phy => ?_, rfl, fun c f frame => ?_⟩
  · have lost := rxBurst_off off
    exact ⟨fun p => exec_csi2PacketReceive_lost (lost _), fun vc num => ⟨goodPacket_lost (lost _), goodPacket_lost (lost _)⟩,
      fun vc dt payload crc => ⟨goodPacket_lost (lost _), goodPacket_lost (lost _)⟩⟩
  · exact ⟨fun p => exec_csi2PacketReceive_lost (rxBurst_undeskewed on fast lost _), fun vc num => goodPacket_lost (rxBurst_undeskewed on fast lost _)⟩
  · have burst := rxBurst_ready on ready p.sot
    refine ⟨fun bad => ?_, fun ok ecc => ?_, fun ok ecc => ?_, fun ok ecc => ?_⟩
    · exact exec_csi2PacketReceive_lost (burst.trans (by rw [bad]; rfl))
    · exact (exec_csi2PacketReceive (burst.trans (by rw [ok]))).trans (by rw [ecc]; rfl)
    · exact (exec_csi2PacketReceive (burst.trans (by rw [ok]))).trans (by rw [ecc]; rfl)
    · exact (exec_csi2PacketReceive (burst.trans (by rw [ok]))).trans (by rw [ecc]; rfl)
  · have counted (dt data : Nat) (payload : List Byte) (crc : Nat) :
        goodPacket r.toNat vc.toNat dt data payload crc s = .next (rxCount r.toNat 8 (hsBegun r.toNat s)) :=
      (goodPacket_taken on ready).trans (congrArg _ (rxPacket_unused unused false))
    exact ⟨counted .., counted .., counted .., counted ..⟩
  · have taken {dt data : Nat} {payload : List Byte} {crc : Nat} {t : State}
        (packet : rxPacket r.toNat vc.toNat dt data payload crc false (hsBegun r.toNat s) = t) :
        goodPacket r.toNat vc.toNat dt data payload crc s = .next t := (goodPacket_taken on ready).trans (congrArg _ packet)
    refine ⟨taken (rxPacket_frameStart camera), taken (rxPacket_frameEnd camera), fun closed => taken (rxPacket_embedded_orphan camera closed),
      fun f (frame : (camAt (hsBegun r.toNat s) c).cur = some f) => ⟨taken (rxPacket_embedded camera frame), fun long other pixel => ?_⟩⟩
    have line := rxPacket_pixelLine (data := payload.length) (crc := crc.toNat) (payload := payload) (s := hsBegun r.toNat s) camera frame long
      (fun same => other (BitVec.eq_of_toNat_eq same)) pixel
    exact ⟨fun own => taken (line.trans (if_pos own)), fun foreign => taken (line.trans (if_neg foreign))⟩
  · exact ⟨_, exec_deskewBurst on phy, by rw [rxAt_modRx, if_pos rfl], fun q other => by rw [rxAt_modRx, if_neg other.symm],
      (keeps_exec (.deskewBurst r) s _ (exec_deskewBurst on phy)).frame⟩
  · exact ⟨fun due => (exec_frameTimeout frame).trans (congrArg _ (if_pos due)),
      fun early => (exec_frameTimeout frame).trans (congrArg _ (if_neg (Nat.not_le.mpr early)))⟩

end Sys2Proof.Machine
end

section
/-!
PROOFS. What operations shared by the blocks' rows keep: outcomes counted, causes set, faults raised, time moved.
-/
namespace Sys2Proof.Machine

open Sys2Proof

/-- A frame condition may name its parts in any order, and more of them. -/
theorem OnlyIn.mono {V W : List Fld} {s t : State} (h : OnlyIn V s t) (w : ∀ f ∈ V, f ∈ W) : OnlyIn W s t :=
  fun f out => h f fun inside => out (w f inside)

/-- What a command that touches the parts `V` leaves outside them. -/
theorem exec_onlyIn {i : Instr} {s t : State} {W : List Fld} (V : List Fld) (next : exec i s = .next t) (touches : i.touches = V)
    (w : ∀ f ∈ V, f ∈ W := by decide) : OnlyIn W s t :=
  OnlyIn.mono (touches ▸ (keeps_exec i s t next).frame) w

theorem advanceTo_keeps (p : Nat) (s : State) : Keeps [.lt, .clock] s (advanceTo p s) := keeps_advanceTo (by decide) (by decide) p s (.refl _ s)

theorem countOutcome_keeps (seat code : Nat) (s : State) : Keeps [.book] s (countOutcome seat code s) :=
  keeps_countOutcome (by decide) seat code s (.refl _ s)

theorem setCause_keeps (seat off k : Nat) (s : State) : Keeps [.host, .regs] s (setCause seat off k s) :=
  keeps_setCause (by decide) (by decide) seat off k s (.refl _ s)

theorem camCause_keeps (cls p base step : Nat) (s : State) : Keeps [.host, .regs] s (camCause cls p base step s) :=
  keeps_camCause (by decide) (by decide) cls p base step s (.refl _ s)

theorem faultRaise_keeps (k : Nat) (s : State) : Keeps [.pwr, .host, .led, .mate, .flt, .regs] s (faultRaise k s) :=
  keeps_faultRaise (by decide) (by decide) (by decide) (by decide) (by decide) (by decide) k s (.refl _ s)

end Sys2Proof.Machine
end

section
/-!
PROOFS. The scan plane, I²C jobs and triggers (R366, R369, R370, R376).
-/
namespace Sys2Proof.Machine

open Sys2Proof

theorem camAt_modCam (c q : Nat) (f : Camera → Camera) (s : State) : camAt (modCam c f s) q = if c = q then f (camAt s c) else camAt s q :=
  tget_tset ..

theorem i2cAt_modI2c (i q : Nat) (f : CamI2c → CamI2c) (s : State) : i2cAt (modI2c i f s) q = if i = q then f (i2cAt s i) else i2cAt s q :=
  tget_tset ..

/-! The scan plane. -/

theorem exec_scanPlaneComplete {c : BitVec 3} {s : State} {f : CamFrame} (closed : (camAt s c.toNat).closing = some f) :
    exec (.scanPlaneComplete c) s = .next (modCam c.toNat (fun _ => { camAt s c.toNat with
      closing := none, planeSeq := f.seq, plane := scanPlane (chainOf f) (correct (chainOf f) (rawPlane (chainOf f) (fullLines f))).1 }) s) :=
  congrArg Host.Outcome.next (modCam_congr (by rw [closed]))

/-! I²C masters. -/

section
variable {i : BitVec 1} {s : State} {j : I2cJob} {rest : List I2cJob}

theorem camI2cRuns_iff : camI2cRuns s = true ↔ 3 ≤ s.pwr.stage.code ∧ bit s.pwr.vioOk 2 = true := by simp [camI2cRuns]

theorem exec_i2cJobStart_stopped (stopped : camI2cRuns s = false) : exec (.i2cJobStart i) s = .next s := by
  show execI2cJobStart i s = _
  unfold execI2cJobStart
  simp only [stopped]
  split <;> rfl

theorem exec_i2cJobStart_running (runs : (i2cAt s i.toNat).running = some j) : exec (.i2cJobStart i) s = .next s := by
  show execI2cJobStart i s = _
  unfold execI2cJobStart
  simp only [runs]

/-- The first job of a free master starts when its time has come. -/
theorem exec_i2cJobStart (free : (i2cAt s i.toNat).running = none) (first : (i2cAt s i.toNat).queue = j :: rest) (runs : camI2cRuns s = true) :
    exec (.i2cJobStart i) s = .next (if j.start = 0 ∨ j.late = true ∨ j.start ≤ s.lt.frame then
      modI2c i.toNat (fun x => { x with running := some j, queue := rest }) s else s) := by
  show execI2cJobStart i s = _
  unfold execI2cJobStart
  simp only [free, first, runs]
  rfl

theorem i2cEnd_free (free : (i2cAt s i.toNat).running = none) (detail : Nat) (data : List Byte) : i2cEnd i.toNat detail data s = s := by
  unfold i2cEnd
  rw [free]

/-- A job that ends leaves its master free, its queue, and the place of the next completion record. -/
theorem i2cAt_i2cEnd {k : Nat} (runs : (i2cAt s k).running = some j) (detail : Nat) (data : List Byte) :
    (i2cAt (i2cEnd k detail data s) k).running = none ∧ (i2cAt (i2cEnd k detail data s) k).queue = (i2cAt s k).queue ∧
      (i2cAt (i2cEnd k detail data s) k).next = ((i2cAt s k).next + 1) % 16 := by
  have same {u v : State} (h : v.cam = u.cam) : i2cAt v k = i2cAt u k := by rw [i2cAt, h]; rfl
  have marked {c : Prop} [Decidable c] (u : State) : i2cAt (if c then camCause 198 k 12 0 u else u) k = i2cAt u k := by
    split
    · exact same ((camCause_keeps 198 k 12 0 u).frame .cam (by decide))
    · rfl
  have raised {c : Prop} [Decidable c] (u : State) : i2cAt (if c then faultRaise (376 + k) u else u) k = i2cAt u k := by
    split
    · exact same ((faultRaise_keeps (376 + k) u).frame .cam (by decide))
    · rfl
  have switched {c : Prop} [Decidable c] (q : Nat) (f : Camera → Camera) (u : State) : i2cAt (if c then modCam q f u else u) k = i2cAt u k := by
    split <;> rfl
  unfold i2cEnd
  rw [runs]
  dsimp only
  rw [raised, marked, same ((camCause_keeps 198 k 10 1 _).frame .cam (by decide)), same ((countOutcome_keeps j.seat _ _).frame .cam (by decide)), switched,
    i2cAt_modI2c, if_pos rfl]
  exact ⟨rfl, rfl, rfl⟩

end

/-! Triggers. -/

@[simp] theorem trigAt_advanceTo (p q : Nat) (s : State) : trigAt (advanceTo p s) q = trigAt s q := by
  rw [trigAt, (advanceTo_keeps p s).frame .cam (by decide)]
  rfl

/-- A row answers the state in which trigger `k` is `y`, and the other triggers and the other blocks are as they were; LT may have moved on. -/
def LeavesTrig (i : Instr) (k : Nat) (s : State) (y : CamTrig) : Prop :=
  ∃ t, exec i s = .next t ∧ trigAt t k = y ∧ (∀ q, q ≠ k → trigAt t q = trigAt s q) ∧ OnlyIn [.cam, .lt, .clock] s t

section
variable {i : Instr} {k p : Nat} {s : State} {f g : CamTrig → CamTrig} {y : CamTrig} (touches : i.touches = [.lt, .cam, .clock])
include touches

theorem leavesTrig_of {t : State} (next : exec i s = .next t) (self : trigAt t k = y) (others : ∀ q, q ≠ k → trigAt t q = trigAt s q) :
    LeavesTrig i k s y :=
  ⟨t, next, self, others, exec_onlyIn _ next touches⟩

theorem leavesTrig_moved (next : exec i s = .next (advanceTo p (modTrig k g s))) : LeavesTrig i k s (g (trigAt s k)) :=
  leavesTrig_of touches next (by simp) fun q other => by simp [other.symm]

theorem leavesTrig_after (next : exec i s = .next (modTrig k f (advanceTo p s))) : LeavesTrig i k s (f (trigAt s k)) :=
  leavesTrig_of touches next (by simp) fun q other => by simp [other.symm]

theorem leavesTrig_pulse (next : exec i s = .next (modTrig k f (advanceTo p (modTrig k g s)))) : LeavesTrig i k s (f (g (trigAt s k))) :=
  leavesTrig_of touches next (by simp) fun q other => by simp [other.symm]

end

section
variable {n : BitVec 2} {s : State}

theorem exec_triggerPulseStart_none (none_ : (trigAt s n.toNat).due = []) : exec (.triggerPulseStart n) s = .next s := by
  show execTriggerPulseStart n s = _
  unfold execTriggerPulseStart
  simp only [none_]
  rfl

variable {d : Nat × Nat} (first : earliestDue (trigAt s n.toNat).due = some d)
include first

theorem exec_triggerPulseStart_early (early : s.lt.frame < d.1 / 19440) : exec (.triggerPulseStart n) s = .next s := by
  show execTriggerPulseStart n s = _
  unfold execTriggerPulseStart
  simp only [first]
  exact congrArg _ (if_pos early)

/-- The earliest pulse requested leaves the list; what becomes of it is decided by the stage, the bank's power and the pulse in progress. -/
theorem exec_triggerPulseStart (due : d.1 / 19440 ≤ s.lt.frame) : exec (.triggerPulseStart n) s =
    .next (let u := advanceTo d.1 (modTrig n.toNat (fun x => { x with due := x.due.erase d }) s)
      if s.pwr.stage.code < 3 then modTrig n.toNat (fun x => { x with held := satAdd 255 x.held 1 }) u
      else if ¬ bit s.pwr.vioOk 2 then u
      else if (trigAt s n.toNat).active then
        modTrig n.toNat (fun x => { x with until_ := max x.until_ (d.1 + d.2), merge := satAdd 255 x.merge 1 }) u
      else modTrig n.toNat (fun x => { x with
        active := true, until_ := d.1 + d.2, count := satAdd 65535 x.count 1, lastFrame := d.1 / 19440, lastPhase := d.1 % 19440 }) u) := by
  show execTriggerPulseStart n s = _
  unfold execTriggerPulseStart
  simp only [first]
  exact congrArg _ (if_neg (Nat.not_lt.mpr due))

end

theorem exec_triggerPulseEnd {n : BitVec 2} {s : State} (active : (trigAt s n.toNat).active = true)
    (ended : (trigAt s n.toNat).until_ / 19440 ≤ s.lt.frame) : exec (.triggerPulseEnd n) s =
    .next (modTrig n.toNat (fun x => { x with active := false }) (advanceTo (trigAt s n.toNat).until_ s)) :=
  congrArg Host.Outcome.next (if_pos ⟨active, ended⟩)

/-- Settles O47: a row of a trigger changes it once or twice (`LeavesTrig`); a job that ends leaves its master by `i2cAt_i2cEnd`. -/
theorem cameraMasters : Obligations.CameraMasters := by
  refine ⟨fun c s f closed => ?_, fun i s j rest => ?_, fun n s => ?_⟩
  · have next := exec_scanPlaneComplete closed
    exact ⟨_, next, (keeps_exec _ s _ next).frame, fun q other => (camAt_modCam ..).trans (if_neg other.symm), (camAt_modCam ..).trans (if_pos rfl)⟩
  · dsimp only
    refine ⟨fun stage power free first come => ?_, fun stopped => ?_, fun free first timed onTime early => ?_, fun runs => ?_, fun free => ?_⟩
    · have next := (exec_i2cJobStart free first (camI2cRuns_iff.mpr ⟨stage, power⟩)).trans (congrArg _ (if_pos come))
      exact ⟨_, next, (keeps_exec _ s _ next).frame, (i2cAt_modI2c ..).trans (if_pos rfl)⟩
    · refine exec_i2cJobStart_stopped (Bool.eq_false_iff.mpr fun runs => ?_)
      obtain ⟨stage, power⟩ := camI2cRuns_iff.mp runs
      rcases stopped with below | dark
      · omega
      · simp [dark] at power
    · cases runs : camI2cRuns s with
      | false => exact exec_i2cJobStart_stopped runs
      | true => exact (exec_i2cJobStart free first runs).trans (congrArg _ (if_neg (by simp [timed, onTime]; omega)))
    · exact ⟨exec_i2cJobStart_running runs, fun detail data => ⟨_, rfl, i2cAt_i2cEnd runs detail.toNat data⟩, _, rfl, i2cAt_i2cEnd runs 4 []⟩
    · exact ⟨fun detail data => congrArg _ (i2cEnd_free free detail.toNat data), congrArg _ (i2cEnd_free free 4 [])⟩
  · refine ⟨exec_triggerPulseStart_none, fun d first => ⟨exec_triggerPulseStart_early first, fun due below => ?_, fun due stage dark => ?_,
      fun due stage power active => ?_, fun due stage power rests => ?_⟩, fun active ended => leavesTrig_after rfl (exec_triggerPulseEnd active ended),
      fun rests => congrArg Host.Outcome.next (if_neg (by simp [rests]))⟩
    all_goals have next := exec_triggerPulseStart first due
    · exact leavesTrig_pulse rfl (next.trans (congrArg _ (if_pos below)))
    · exact leavesTrig_moved rfl (next.trans (congrArg _ ((if_neg (Nat.not_lt.mpr stage)).trans (if_pos (by simp [dark])))))
    · exact leavesTrig_pulse rfl (next.trans (congrArg _
        ((if_neg (Nat.not_lt.mpr stage)).trans ((if_neg (by simp [power])).trans (if_pos active)))))
    · exact leavesTrig_pulse rfl (next.trans (congrArg _
        ((if_neg (Nat.not_lt.mpr stage)).trans ((if_neg (by simp [power])).trans (if_neg (by simp [rests]))))))

end Sys2Proof.Machine
end

section
/-!
PROOFS. Scan commit points, strobes, attempts without a frame (R380, R381, R385 to R388).
-/
namespace Sys2Proof.Machine

open Sys2Proof

theorem advanceTo_lt (p : Nat) (s : State) : advanceTo p s = { s with lt := (advanceTo p s).lt } := by
  unfold advanceTo
  split <;> rfl

/-! Commit points. -/

/-- The lanterns, the camera and the tokens that a job asks for are free at its commit point. -/
def scanFree (t : State) (j : ScanJob) : Prop :=
  cameraHeld t j.cam = false ∧ (∀ e ∈ j.lants, spanBusy t e.1 (strobeSpan t j e.1).1 (strobeSpan t j e.1).2 = false) ∧
    tokensFree t j.seat (j.lants.map (fun e => strobeTokens t e.1 e.2)).sum = true ∧ (bit t.mon.shed 0 = false ∨ j.lants = [])

/-- What the commit point of a job does on the state `t` at it, the job's turn having come (R386). -/
def scanPoint (j : ScanJob) (t : State) : State :=
  let shed := lanternShed t && j.lants != []
  if j.lants.any (fun e => bit t.scan.blocked e.1) then endUnexposed j oSeat 0 false t
  else if ¬ (cameraHeld t j.cam ∨ j.lants.any (fun e => let sp := strobeSpan t j e.1; spanBusy t e.1 sp.1 sp.2)
      ∨ ¬ tokensFree t j.seat (j.lants.map (fun e => strobeTokens t e.1 e.2)).sum ∨ shed) then commitAttempt j t
  else if j.tries = 0 ∧ (j.deadline - 4) * phasesPerFrame ≤ j.pos + phasesPerFrame then
    endUnexposed j (if shed then oBudget else oLate) (if shed then 4 else 0) false t
  else modJob j.ident (fun k => { k with pos := j.pos + phasesPerFrame, moved := true, shifted := true }) t

section
variable {job : BitVec 16} {s : State}

theorem exec_scanCommit_none (none_ : jobAt s job.toNat = none) : exec (.scanCommit job) s = .next s := by
  show execScanCommit job s = _
  unfold execScanCommit
  rw [none_]

theorem jobCaughtUp_waits {j : ScanJob} : (jobCaughtUp s j).busy = j.busy ∧ (jobCaughtUp s j).last = j.last := by
  unfold jobCaughtUp
  extract_lets
  split <;> exact ⟨rfl, rfl⟩

theorem exec_scanCommit {j0 j : ScanJob} (found : jobAt s job.toNat = some j0) (up : jobCaughtUp s j0 = j) (waits : j0.busy = false) (more : j0.last = false)
    (come : (j.pos - 19440) / 19440 ≤ s.lt.frame)
    (first : s.scan.jobs.any (fun k => !k.busy && k.ident != j.ident && commitsBefore s k j) = false) :
    exec (.scanCommit job) s = .next (scanPoint j (advanceTo (j.pos - 19440) s)) := by
  obtain ⟨busy, last⟩ := jobCaughtUp_waits (s := s) (j := j0)
  rw [up, waits] at busy
  rw [up, more] at last
  show execScanCommit job s = _
  unfold execScanCommit
  rw [found]
  dsimp only
  rw [up, if_neg]
  · rfl
  · rw [busy, last, first]
    have here : ¬ s.lt.frame < (j.pos - phasesPerFrame) / phasesPerFrame := Nat.not_lt.mpr come
    simp [here]

end

section
variable {j : ScanJob} {t : State}

theorem lanternShed_iff : (lanternShed t && j.lants != []) = true ↔ bit t.mon.shed 0 = true ∧ j.lants ≠ [] := by
  rw [Bool.and_eq_true, bne_iff_ne]
  exact Iff.rfl

theorem scanFree_iff : scanFree t j ↔
    ¬ (cameraHeld t j.cam ∨ j.lants.any (fun e => spanBusy t e.1 (strobeSpan t j e.1).1 (strobeSpan t j e.1).2)
      ∨ ¬ tokensFree t j.seat (j.lants.map (fun e => strobeTokens t e.1 e.2)).sum ∨ (lanternShed t && j.lants != [])) := by
  rw [lanternShed_iff]
  cases shed : bit t.mon.shed 0 <;> simp [scanFree, shed]

theorem scanPoint_blocked (blocked : ¬ ∀ e ∈ j.lants, bit t.scan.blocked e.1 = false) : scanPoint j t = endUnexposed j oSeat 0 false t :=
  if_pos (by simpa using blocked)

variable (unblocked : ∀ e ∈ j.lants, bit t.scan.blocked e.1 = false)
include unblocked

theorem scanPoint_commits (free : scanFree t j) : scanPoint j t = commitAttempt j t :=
  (if_neg (by simpa using unblocked)).trans (if_pos (scanFree_iff.mp free))

variable (held : ¬ scanFree t j)
include held

theorem scanPoint_moves (again : j.tries ≠ 0 ∨ j.pos + 19440 < (j.deadline - 4) * 19440) :
    scanPoint j t = modJob j.ident (fun k => { k with pos := j.pos + 19440, moved := true, shifted := true }) t :=
  (if_neg (by simpa using unblocked)).trans ((if_neg (scanFree_iff.not.mp held)).trans (if_neg (by unfold phasesPerFrame; omega)))

theorem scanPoint_ends (none_ : j.tries = 0) (late : (j.deadline - 4) * 19440 ≤ j.pos + 19440) :
    let shed := bit t.mon.shed 0 = true ∧ j.lants ≠ []
    scanPoint j t = endUnexposed j (if shed then 0x11 else 0x12) (if shed then 4 else 0) false t := by
  intro shed
  refine (if_neg (by simpa using unblocked)).trans ((if_neg (scanFree_iff.not.mp held)).trans ((if_pos ⟨none_, late⟩).trans ?_))
  rw [if_congr lanternShed_iff rfl rfl, if_congr lanternShed_iff rfl rfl]
  rfl

end

/-! Strobes. -/

section
variable {l : BitVec 3} {s : State} {b : Strobe}

section
variable (next : firstStrobe (·.start) (s.scan.strobes.filter (fun b => b.lant == l.toNat && !b.active)) = some b)
include next

theorem exec_strobeOn_early (early : s.lt.frame < b.start / 19440) : exec (.strobeOn l) s = .next s := by
  show execStrobeOn l s = _
  unfold execStrobeOn
  simp only [next]
  exact congrArg _ (if_pos early)

theorem exec_strobeOn (come : b.start / 19440 ≤ s.lt.frame) : exec (.strobeOn l) s =
    .next (if ¬ lantEn s l.toNat ∨ bit s.scan.blocked l.toNat ∨ ¬ strobesRun s then advanceTo b.start s
      else modScan (fun x => { x with strobes := x.strobes.map (fun c => if c = b then { c with active := true } else c)
                                      strobeCount := tmod 0 x.strobeCount l.toNat (fun n => (n + 1) % 65536) }) (advanceTo b.start s)) := by
  show execStrobeOn l s = _
  unfold execStrobeOn
  simp only [next]
  rw [advanceTo_lt]
  exact congrArg _ (if_neg (Nat.not_lt.mpr come))

end

theorem heldTokens_dropTokens (seat n : Nat) (s : State) : heldTokens (dropTokens seat n s) seat = heldTokens s seat - n :=
  tget_tset_self ..

theorem exec_strobeOff (last : firstStrobe (·.stop) (s.scan.strobes.filter (fun b => b.lant == l.toNat)) = some b) (come : b.stop / 19440 ≤ s.lt.frame) :
    exec (.strobeOff l) s =
      .next (dropTokens b.seat b.tokens (modScan (fun x => { x with strobes := x.strobes.erase b }) (advanceTo b.stop s))) := by
  show execStrobeOff l s = _
  unfold execStrobeOff
  simp only [last]
  exact congrArg _ (if_neg (Nat.not_lt.mpr come))

end

/-! Attempts without a frame. -/

theorem exec_scanNoFrame {job : BitVec 16} {s : State} {a : ScanAttempt}
    (found : s.scan.attempts.find? (fun a => a.job == job.toNat && a.taken.isNone && !a.closed) = some a) :
    exec (.scanNoFrame job) s = .next (if nowPos s < a.edge + rbits s (kP (0x41000C + 0x10000 * a.cam)) 0 16 * 19440 then s
      else if a.done then modScan (fun x => { x with attempts := x.attempts.erase a }) s
      else modScan (fun x => { x with
        attempts := x.attempts.map (fun c => if c = a then { a with closed := true, listed := true, detail := 1 } else c) }) s) := by
  show execScanNoFrame job s = _
  unfold execScanNoFrame
  rw [found]
  rfl

/-- Settles O48: what a job's turn does is decided by `scanPoint` on the state at its commit point, to which only LT has moved. -/
theorem scanExposures : Obligations.ScanExposures := by
  refine ⟨fun job s => ⟨exec_scanCommit_none, fun j0 found => ?_⟩, fun l s b => ⟨fun next => ⟨exec_strobeOn_early next, fun come off => ?_,
    fun come en unblocked runs => ?_⟩, fun last come => ?_⟩, fun job s a found => ⟨fun early => ?_, fun due done => ?_, fun due open_ => ?_⟩⟩
  · intro late j waits more come first t
    have next : exec (.scanCommit job) s = .next (scanPoint j t) := exec_scanCommit found rfl waits more come first
    have unmoved : t.scan = s.scan := (advanceTo_keeps _ s).frame .scan (by decide)
    rw [next, ← unmoved, ← (advanceTo_keeps (j.pos - 19440) s).frame .mon (by decide)]
    exact ⟨fun blocked => congrArg _ (scanPoint_blocked blocked), fun unblocked free => congrArg _ (scanPoint_commits unblocked free),
      fun unblocked held again => congrArg _ (scanPoint_moves unblocked held again),
      fun unblocked held none_ late => congrArg _ (scanPoint_ends unblocked held none_ late)⟩
  · exact (exec_strobeOn next come).trans (congrArg _ (if_pos (by rcases off with h | h | h <;> simp [h])))
  · have acts := (exec_strobeOn next come).trans (congrArg _ (if_neg (by simp [en, unblocked, runs])))
    have unmoved := (advanceTo_keeps b.start s).frame .scan (by decide)
    refine ⟨_, acts, ?_, ?_, exec_onlyIn [.lt, .scan, .clock] acts rfl⟩
    all_goals rw [← unmoved]
    · rfl
    · exact tget_tset_self ..
  · have acts := exec_strobeOff last come
    refine ⟨_, acts, ?_, ?_, exec_onlyIn [.lt, .scan, .book, .clock] acts rfl⟩
    · rw [← (advanceTo_keeps b.stop s).frame .scan (by decide)]
      rfl
    · rw [heldTokens_dropTokens]
      exact congrArg (fun x : BookState => tget 0 x.held b.seat - b.tokens) ((advanceTo_keeps b.stop s).frame .book (by decide))
  · exact (exec_scanNoFrame found).trans (congrArg _ (if_pos early))
  · exact (exec_scanNoFrame found).trans (congrArg _ ((if_neg (Nat.not_lt.mpr due)).trans (if_pos done)))
  · exact (exec_scanNoFrame found).trans (congrArg _ ((if_neg (Nat.not_lt.mpr due)).trans (if_neg (by simp [open_]))))

end Sys2Proof.Machine
end

section
/-!
PROOFS. The finder, the decode units, records and self-tests (R389, R392, R394, R398 to R403).
-/
namespace Sys2Proof.Machine

open Sys2Proof

/-! Finder and records. -/

section
variable {job : BitVec 16} {s : State} {j : ScanJob} (found : jobAt s job.toNat = some j)
include found

theorem exec_scanDeadline_early (early : s.lt.frame < j.deadline) : exec (.scanDeadline job) s = .next s := by
  show execScanDeadline job s = _
  unfold execScanDeadline
  rw [found]
  exact congrArg _ (if_pos early)

theorem exec_scanDeadline_idle (due : j.deadline ≤ s.lt.frame) (none_ : attemptAt s job.toNat = none) :
    exec (.scanDeadline job) s = .next (endUnexposed j oFaulted 2 false s) := by
  show execScanDeadline job s = _
  unfold execScanDeadline
  rw [found, none_]
  exact congrArg _ (if_neg (Nat.not_lt.mpr due))

variable {a : ScanAttempt} (runs : attemptAt s job.toNat = some a)
include runs

theorem exec_finderComplete (n : BitVec 6) (more : Bool) : exec (.finderComplete job n more) s =
    .next (let cap := if bits j.body 56 8 = 0 then 32 else bits j.body 56 8
      let most := more || decide (cap < n.toNat)
      if ¬ a.closed ∨ a.listed then s
      else if ¬ inService (unitAt s 4) then modAttempt j.ident (fun b => { b with listed := true, detail := 3 }) s
      else if ¬ anyInService s then
        modAttempt j.ident (fun b => { b with listed := true, cands := min n.toNat cap, nextCand := min n.toNat cap, candOver := most, detail := 3 }) s
      else assignUnits (modAttempt j.ident (fun b => { b with listed := true, cands := min n.toNat cap, candOver := most }) s)) := by
  show execFinderComplete job n more s = _
  unfold execFinderComplete
  rw [found, runs]

theorem exec_scanResultRecord : exec (.scanResultRecord job) s =
    .next (if a.inWork = 0 ∧ ((a.listed ∧ a.cands ≤ a.nextCand) ∨ a.detail ≠ 0) then writeRecord j a s else s) := by
  show execScanResultRecord job s = _
  unfold execScanResultRecord
  rw [found, runs]

/-- At DEADLINE the candidates not taken are abandoned, and the record is written once none is in progress. -/
theorem exec_scanDeadline {b : ScanAttempt} (abandoned : b = { a with detail := 2, nextCand := a.cands, listed := true })
    (due : j.deadline ≤ s.lt.frame) (sound : a.detail = 0) (works : a.listed = false ∨ a.nextCand < a.cands ∨ a.inWork ≠ 0) :
    exec (.scanDeadline job) s = .next (if a.inWork = 0 then writeRecord j b (modAttempt j.ident (fun _ => b) s) else modAttempt j.ident (fun _ => b) s) := by
  subst abandoned
  show execScanDeadline job s = _
  unfold execScanDeadline
  rw [found, runs]
  refine congrArg _ ((if_neg (Nat.not_lt.mpr due)).trans (if_neg ?_))
  rintro (failed | ⟨listed, taken, ended⟩)
  · exact failed sound
  · rcases works with h | h | h
    · simp [listed] at h
    · omega
    · exact h ended

end

/-! Decode units. -/

section
variable {u : BitVec 2} {s : State}

theorem exec_decodeComplete_idle {r : Option SymbolRx} (idle : (unitAt s u.toNat).mode ≠ .busy) : exec (.decodeComplete u r) s = .next s :=
  congrArg Host.Outcome.next (if_pos idle)

/-- A unit that ends a candidate is free, and its attempt has one candidate less in work, changed by `f` as the symbol says. -/
def candidateEnds (u : BitVec 2) (s : State) (f : ScanAttempt → ScanAttempt) : State :=
  assignUnits (setUnit u.toNat .reset (modAttempt (unitAt s u.toNat).job (fun b => f { b with inWork := b.inWork - 1 }) s))

variable (busy : (unitAt s u.toNat).mode = .busy)
include busy

theorem exec_decodeComplete_none : exec (.decodeComplete u none) s = .next (candidateEnds u s fun b => { b with fails := b.fails + 1 }) :=
  congrArg Host.Outcome.next (if_neg (not_not_intro busy))

theorem exec_decodeComplete_some (y : SymbolRx) : exec (.decodeComplete u (some y)) s = .next (candidateEnds u s fun b =>
    if symbolOk s (((jobAt s (unitAt s u.toNat).job).map (·.body)).getD 0) y then { b with syms := ⟨(unitAt s u.toNat).cand, y⟩ :: b.syms }
    else { b with fails := b.fails + 1 }) :=
  congrArg Host.Outcome.next (if_neg (not_not_intro busy))

end

/-! Self-tests. -/

section
variable {u : BitVec 3} {s : State} (exists_ : u.toNat < 5)
include exists_

theorem exec_decodeBistStart (idle : (unitAt s u.toNat).mode = .idle) (on : domOn s (if u.toNat = 4 then 105 else 106 + u.toNat) = true)
    (quiet : u.toNat = 4 → s.scan.attempts.all (·.done) = true) : exec (.decodeBistStart u) s = .next (setUnit u.toNat ⟨.bist, 0, 0⟩ s) :=
  (if_neg (Nat.not_le.mpr exists_)).trans (congrArg Host.Outcome.next (if_pos ⟨idle, on, by by_cases h : u.toNat = 4 <;> simp [h, quiet]⟩))

theorem exec_decodeBistEnd (fail : Bool) (tests : (unitAt s u.toNat).mode = .bist) :
    exec (.decodeBistEnd u fail) s = .next (if fail then unitFails u.toNat s else setUnit u.toNat .reset s) :=
  (if_neg (Nat.not_le.mpr exists_)).trans (congrArg Host.Outcome.next (if_neg (not_not_intro tests)))

end

/-- A row that puts one unit leaves the others. -/
theorem leavesUnit_of_setUnit {i : Instr} {k : Nat} {x : ScanUnit} {s : State} (next : exec i s = .next (setUnit k x s)) :
    ∃ t, exec i s = .next t ∧ unitAt t k = x ∧ (∀ q, q ≠ k → unitAt t q = unitAt s q) ∧ OnlyIn [.scan] s t :=
  ⟨_, next, (unitAt_setUnit ..).trans (if_pos rfl), fun _ other => (unitAt_setUnit ..).trans (if_neg other.symm),
    (keeps_setUnit (by decide) k x s (.refl _ s)).frame⟩

theorem foldUpto_succ {σ : Type} (n : Nat) (f : Nat → σ → σ) (s : σ) : foldUpto (n + 1) f s = f n (foldUpto n f s) := by
  simp [foldUpto, List.range_succ]

/-- The first `n` units are put. -/
theorem foldUpto_setUnit (n : Nat) (x : ScanUnit) (s : State) :
    let t := foldUpto n (fun u t => setUnit u x t) s
    (∀ u, unitAt t u = if u < n then x else unitAt s u) ∧ t.scan.bistDue = s.scan.bistDue ∧ t.scan.bistRun = s.scan.bistRun := by
  induction n with
  | zero => exact ⟨fun _ => rfl, rfl, rfl⟩
  | succ n ih =>
    obtain ⟨units, due, runs⟩ := ih
    dsimp only
    rw [foldUpto_succ]
    refine ⟨fun u => ?_, due, runs⟩
    rw [unitAt_setUnit, units]
    by_cases last : n = u
    · rw [if_pos last, if_pos (by omega)]
    · rw [if_neg last]
      by_cases below : u < n
      · rw [if_pos below, if_pos (by omega)]
      · rw [if_neg below, if_neg (by omega)]

theorem exec_scanOfflineBistBegin {s : State} (due : s.scan.bistDue = true) (quiet : s.scan.attempts.all (·.done) = true) :
    exec .scanOfflineBistBegin s =
      .next (foldUpto 5 (fun u t => setUnit u ⟨.offline, 0, 0⟩ t) (modScan (fun x => { x with bistDue := false, bistRun := true }) s)) :=
  congrArg Host.Outcome.next (if_pos ⟨due, quiet⟩)

/-- Settles O49: the rows of the finder, the records and DEADLINE answer by the job and its attempt, the others by the unit's mode. -/
theorem scanUnits : Obligations.ScanUnits := by
  refine ⟨fun job s j found => ⟨fun a n more runs => ?_, exec_scanDeadline_early found, exec_scanDeadline_idle found⟩,
    fun u r s => ⟨exec_decodeComplete_idle, fun busy => ?_⟩, fun u s exists_ => ?_, fun s => ⟨fun due quiet => ?_, fun runs failed => ?_⟩⟩
  · have finder := exec_finderComplete found runs n more
    have record := exec_scanResultRecord found runs
    have takes (closed : a.closed = true) (unlisted : a.listed = false) : ¬ (¬ a.closed = true ∨ a.listed = true) := by simp [closed, unlisted]
    refine ⟨fun waits => ?_, fun closed unlisted => ⟨fun out => ?_, fun serves out => ?_, fun serves any => ?_⟩, fun ended done => ?_, fun works => ?_,
      fun due sound works => exec_scanDeadline found runs rfl due sound works⟩
    · exact finder.trans (congrArg _ (if_pos (by simpa using waits)))
    · exact finder.trans (congrArg _ ((if_neg (takes closed unlisted)).trans (if_pos (by simp [out]))))
    · exact finder.trans (congrArg _ ((if_neg (takes closed unlisted)).trans ((if_neg (by simp [serves])).trans (if_pos (by simp [out])))))
    · exact finder.trans (congrArg _ ((if_neg (takes closed unlisted)).trans ((if_neg (by simp [serves])).trans (if_neg (by simp [any])))))
    · exact record.trans (congrArg _ (if_pos ⟨ended, done⟩))
    · exact record.trans (congrArg _ (if_neg fun h => works h.1))
  · refine ⟨?_, fun y some_ bad => ?_, fun y some_ good => ?_⟩
    · rintro rfl
      exact exec_decodeComplete_none busy
    · subst some_
      refine (exec_decodeComplete_some busy y).trans ?_
      rw [bad]
      rfl
    · subst some_
      refine (exec_decodeComplete_some busy y).trans ?_
      rw [good]
      rfl
  · exact ⟨fun idle on quiet => leavesUnit_of_setUnit (exec_decodeBistStart exists_ idle on quiet),
      fun tests => ⟨exec_decodeBistEnd exists_ true tests, leavesUnit_of_setUnit (exec_decodeBistEnd exists_ false tests)⟩⟩
  · have next := exec_scanOfflineBistBegin due quiet
    obtain ⟨units, noneDue, begun⟩ := foldUpto_setUnit 5 ⟨.offline, 0, 0⟩ (modScan (fun x => { x with bistDue := false, bistRun := true }) s)
    exact ⟨_, next, noneDue, begun, fun u inside => by rw [units, if_pos inside], exec_onlyIn [.scan] next rfl⟩
  · exact congrArg Host.Outcome.next (if_pos runs)

end Sys2Proof.Machine
end

section
/-!
PROOFS. Transmissions of the cord radio (R407, R409, R416, R434, R435, R440, R444).
-/
namespace Sys2Proof.Machine

open Sys2Proof

/-! A queued frame of a Seat, by its ID. -/

theorem exec_transmitAttempt_absent {id : BitVec 16} {s : State} (absent : frameAt s id.toNat = none) :
    exec (.transmitAttempt (some id)) s = .next s := by
  show execTransmitAttempt (some id) s = _
  unfold execTransmitAttempt
  simp only [absent, ite_self]

theorem exec_ackTimeout_absent {id : BitVec 16} {s : State} (absent : frameAt s id.toNat = none) : exec (.ackTimeout id) s = .next s := by
  show execAckTimeout id s = _
  unfold execAckTimeout
  rw [absent]

theorem exec_radioFrameDeadline_absent {id : BitVec 16} {s : State} (absent : frameAt s id.toNat = none) :
    exec (.radioFrameDeadline id) s = .next s := by
  show execRadioFrameDeadline id s = _
  unfold execRadioFrameDeadline
  rw [absent]

/-- The radio that runs and is not blocked goes on to what is tried. -/
theorem not_silent {s : State} (runs : radioRuns s = true) (free : s.radio.txBlocked = false) :
    ¬ (¬ radioRuns s = true ∨ s.radio.txBlocked = true) := by
  simp [runs, free]

section
variable {id : BitVec 16} {s : State} {f : RadioFrame} (found : frameAt s id.toNat = some f)
include found

theorem exec_transmitAttempt_frame (runs : radioRuns s = true) (free : s.radio.txBlocked = false) (may : mayAttempt s f = true)
    (numbered : f.seqn.isSome = true ∨ bits f.desc 8 3 = 0) :
    exec (.transmitAttempt (some id)) s = .next (if ¬ tokensFree s f.seat (tokPa s) = true then s
      else rpSend [5] (modFrame f.ident (fun g => { g with inCca := true, backoffs := g.backoffs + 1 }) s)) := by
  have counted : ¬ (f.seqn.isNone = true ∧ bits f.desc 8 3 ≠ 0 ∧ (¬ s.radio.fcSet = true ∨ s.radio.keyNeeded = true)) := by
    rintro ⟨unnumbered, secured, -⟩
    rcases numbered with some_ | plain
    · cases number : f.seqn <;> simp [number] at some_ unnumbered
    · exact secured plain
  show execTransmitAttempt (some id) s = _
  unfold execTransmitAttempt
  rw [if_neg (not_silent runs free)]
  simp only [found]
  rw [if_neg (not_not_intro may), if_neg counted]

theorem exec_ackTimeout : exec (.ackTimeout id) s = .next (
    let g := { f with waitAck := false }
    if ¬ f.waitAck then s
    else if 4 ≤ f.tries ∨ ¬ radioEn s then radioRest (radioEnd g oFaulted 1 s)
    else if ¬ seatAdmits s f.seat f.air (minuteOf (nowPos s)) then radioEnd g oFaulted 8 s
    else modFrame f.ident (fun _ => g) s) := by
  show execAckTimeout id s = _
  unfold execAckTimeout
  rw [found]

theorem exec_radioFrameDeadline : exec (.radioFrameDeadline id) s = .next (
    if s.lt.frame < f.deadline ∨ f.waitAck ∨ (s.radio.onAir.map (·.frame)) = some (some f.ident) then s
    else if f.txPos.isSome then radioEnd f oFaulted (if f.chanFail then 2 else 1) s
    else if radioShed s then radioEnd f oBudget 4 s
    else radioEnd f oLate 3 s) := by
  show execRadioFrameDeadline id s = _
  unfold execRadioFrameDeadline
  rw [found]

theorem exec_ackTimeout_waits (waits : f.waitAck = true) :
    (4 ≤ f.tries ∨ radioEn s = false → exec (.ackTimeout id) s = .next (radioRest (radioEnd { f with waitAck := false } oFaulted 1 s))) ∧
    (f.tries < 4 → radioEn s = true →
      (seatAdmits s f.seat f.air (minuteOf (nowPos s)) = false → exec (.ackTimeout id) s = .next (radioEnd { f with waitAck := false } oFaulted 8 s)) ∧
      (seatAdmits s f.seat f.air (minuteOf (nowPos s)) = true → exec (.ackTimeout id) s =
        .next (modFrame f.ident (fun _ => { f with waitAck := false }) s))) := by
  rw [exec_ackTimeout found]
  dsimp only
  rw [if_neg (not_not_intro waits)]
  refine ⟨fun last => ?_, fun more on => ⟨fun refused => ?_, fun admitted => ?_⟩⟩
  · rw [if_pos (by simpa using last)]
  · rw [if_neg (by simp [more, on]), if_pos (by simp [refused])]
  · rw [if_neg (by simp [more, on]), if_neg (by simp [admitted])]

theorem exec_radioFrameDeadline_due (due : f.deadline ≤ s.lt.frame) (idle : f.waitAck = false) (quiet : s.radio.onAir = none) :
    exec (.radioFrameDeadline id) s = .next (if f.txPos.isSome then radioEnd f oFaulted (if f.chanFail then 2 else 1) s
      else if bit s.mon.shed 1 then radioEnd f oBudget 4 s else radioEnd f oLate 3 s) := by
  rw [exec_radioFrameDeadline found]
  exact congrArg _ (if_neg (by simp [due, idle, quiet]))

end

/-! Hardware frames and the channel assessment. -/

theorem exec_transmitAttempt_hw {s : State} (runs : radioRuns s = true) (free : s.radio.txBlocked = false) :
    exec (.transmitAttempt none) s = .next (hwAttempt s) :=
  congrArg Host.Outcome.next (if_neg (not_silent runs free))

/-- An acknowledgement or a beacon goes out without channel access. -/
theorem hwAttempt_direct {h : HwFrame} {s : State} (next : nextHw s = some h) (quiet : s.radio.onAir = none)
    (direct : h.kind = .immAck ∨ h.kind = .enhAck ∨ h.kind = .beacon) : hwAttempt s = sendHw h s := by
  have other : ¬ (h.kind = .extraBeacon ∨ h.kind = .rebroadcast) := by
    rcases direct with kind | kind | kind <;> simp [kind]
  unfold hwAttempt
  rw [next]
  exact (if_neg (by simp [quiet])).trans (if_neg other)

/-- The state in which a hardware frame goes out: at its time, the frame taken from the queue. -/
def hwTaken (h : HwFrame) (s : State) : State := dropHwFrame h (advanceTo (h.eligible - txdPhases s) s)

theorem sendHw_ack {h : HwFrame} {s : State} (ack : h.kind = .immAck ∨ h.kind = .enhAck) :
    sendHw h s = (let g := hwGate h.payload.length (hwTaken h s)
      if g.1 then beginAir none true 0 (shrAt g.2 h.eligible) h.payload g.2 else g.2) := by
  unfold sendHw
  rcases ack with kind | kind <;> rw [kind] <;> rfl

theorem sendHw_beacon {h : HwFrame} {s : State} (beacon : h.kind = .beacon) :
    sendHw h s = (sendBeacon h.payload (shrAt (hwTaken h s) h.eligible) 15 (hwTaken h s)).2 := by
  unfold sendHw
  rw [beacon]
  rfl

section
variable {s : State} {f : RadioFrame} (noHw : s.radio.hw.find? (·.inCca) = none) (senses : s.radio.frames.find? (·.inCca) = some f)
include noHw senses

theorem exec_ccaComplete_busy : exec (.ccaComplete true) s =
    .next (if f.backoffs < 4 then modFrame f.ident (fun g => { g with inCca := false }) s else accessFailed f s) := by
  show execCcaComplete true s = _
  unfold execCcaComplete
  rw [noHw, senses]
  rfl

theorem exec_ccaComplete_clear (runs : radioRuns s = true) (free : s.radio.txBlocked = false) (kept : bit s.mon.shed 1 = false)
    (quiet : s.radio.onAir = none) (early : s.lt.frame < f.deadline) :
    exec (.ccaComplete false) s = .next (let back := modFrame f.ident (fun g => { g with inCca := false }) s
      if sharedFits s (exchange25 s f) then sendFrame { f with inCca := false } false (shrAt s 0) back else back) := by
  have unshed : radioShed s = false := kept
  show execCcaComplete false s = _
  unfold execCcaComplete
  rw [noHw, senses]
  refine congrArg _ ?_
  cases fits : sharedFits s (exchange25 s f)
  · exact (if_neg (by decide)).trans (if_pos (by simp [fits]))
  · exact (if_neg (by decide)).trans (if_neg (by simp [runs, free, unshed, quiet, early, fits]))

end

/-! The end of a transmission. -/

theorem exec_transmissionEnd_quiet {s : State} (quiet : s.radio.onAir = none) : exec .transmissionEnd s = .next s := by
  show execTransmissionEnd s = _
  unfold execTransmissionEnd
  rw [quiet]

/-- TX_EN falling leaves the queue of frames. -/
theorem endAir_frames (s : State) : (endAir s).radio.frames = s.radio.frames := by
  unfold endAir
  cases s.radio.onAir with
  | none => rfl
  | some a => cases hw : a.hw <;> simp only [hw] <;> rfl

theorem frameAt_endAir (s : State) (i : Nat) : frameAt (endAir s) i = frameAt s i := by
  unfold frameAt
  rw [endAir_frames]

theorem exec_transmissionEnd {s : State} {a : OnAir} (air : s.radio.onAir = some a) : exec .transmissionEnd s = .next (
    match a.frame.bind (frameAt (endAir s)) with
    | none => radioRest (endAir s)
    | some f => if bit f.desc 0 ∧ ¬ bit f.desc 3 then modFrame f.ident (fun g => { g with waitAck := true }) (endAir s)
        else radioRest (radioEnd f oDone 0 (endAir s))) := by
  show execTransmissionEnd s = _
  unfold execTransmissionEnd
  rw [air] <;> rfl

theorem exec_transmissionEnd_frame {s : State} {a : OnAir} {i : Nat} {f : RadioFrame} (air : s.radio.onAir = some a) (frame : a.frame = some i)
    (found : frameAt s i = some f) : exec .transmissionEnd s = .next (
      if bit f.desc 0 ∧ ¬ bit f.desc 3 then modFrame f.ident (fun g => { g with waitAck := true }) (endAir s)
      else radioRest (radioEnd f oDone 0 (endAir s))) := by
  rw [exec_transmissionEnd air, frame]
  show Host.Outcome.next (match frameAt (endAir s) i with | none => _ | some f => _) = _
  rw [frameAt_endAir, found]

/-! IDENT, faults and self-tests. -/

theorem exec_identRetry {s : State} (on : radioEn s = true) (down : s.radio.up = false) (sound : s.radio.bistFail = false)
    (port : radioPort s = true) (reply : BitVec 32) : exec (.identRetry reply) s = .next (identReply reply.toNat (rpSend [7] s)) :=
  congrArg Host.Outcome.next (if_pos ⟨on, by simp [down], by simp [sound], port⟩)

/-- A reply whose first byte is not 0x5A is no answer of IDENT. -/
theorem identReply_wrong {v : Nat} (wrong : bits v 0 8 ≠ 0x5A) (s : State) : identReply v s =
    if s.radio.portFault then modRadio (fun x => { x with bands := bits v 16 4 }) s
    else setCause 0 0x600F00 6 (faultRaise 391 (modRadio (fun x => { x with up := false, portFault := true, bands := bits v 16 4 }) s)) :=
  if_neg fun right => wrong right.1

/-- Settles O52: each row answers by the frame that its operand names or that is in channel access, on the air or next; TX_EN falling leaves
the queue, in which the frame on the air is looked up. -/
theorem radioTransmissions : Obligations.RadioTransmissions := by
  refine ⟨fun id s => ⟨fun absent => ⟨exec_transmitAttempt_absent absent, exec_ackTimeout_absent absent, exec_radioFrameDeadline_absent absent⟩,
      fun f found => ⟨fun runs free may numbered => ?_, fun idle => ?_, fun waits => (exec_ackTimeout_waits found waits).1,
        fun waits => (exec_ackTimeout_waits found waits).2, fun early => ?_, exec_radioFrameDeadline_due found⟩⟩,
    fun h s runs free next quiet => ⟨fun ack => ?_, fun beacon => ?_⟩,
    fun f s noHw senses => ⟨fun few => ?_, fun many => ?_, fun runs free kept quiet early => ?_⟩,
    fun s => ⟨exec_transmissionEnd_quiet, fun a air => ⟨fun none_ => ?_, fun i f frame found => ⟨fun asks single => ?_, fun ends => ?_⟩⟩,
      fun on down sound port reply => ?_, fun on up => ?_, fun on => ?_, rfl, fun runs => ?_⟩⟩
  · have attempt := exec_transmitAttempt_frame found runs free may numbered
    exact ⟨fun room => attempt.trans (congrArg _ (if_neg (not_not_intro room))), fun full => attempt.trans (congrArg _ (if_pos (by simp [full])))⟩
  · exact (exec_ackTimeout found).trans (congrArg _ (if_pos (by simp [idle])))
  · exact (exec_radioFrameDeadline found).trans (congrArg _ (if_pos (by tauto)))
  · rw [exec_transmitAttempt_hw runs free, hwAttempt_direct next quiet (by tauto), sendHw_ack ack]
    rfl
  · rw [exec_transmitAttempt_hw runs free, hwAttempt_direct next quiet (by tauto), sendHw_beacon beacon]
    rfl
  · exact (exec_ccaComplete_busy noHw senses).trans (congrArg _ (if_pos few))
  · exact (exec_ccaComplete_busy noHw senses).trans (congrArg _ (if_neg (by omega)))
  · have clear := exec_ccaComplete_clear noHw senses runs free kept quiet early
    exact ⟨fun fits => clear.trans (congrArg _ (if_pos fits)), fun long => clear.trans (congrArg _ (if_neg (by simp [long])))⟩
  · rw [exec_transmissionEnd air, none_]
    rfl
  · exact (exec_transmissionEnd_frame air frame found).trans (congrArg _ (if_pos ⟨asks, by simp [single]⟩))
  · exact (exec_transmissionEnd_frame air frame found).trans (congrArg _ (if_neg (by rcases ends with h | h <;> simp [h])))
  · have retry := exec_identRetry on down sound port reply
    refine ⟨fun first version phy => retry.trans (congrArg _ (if_pos ⟨first, version, phy⟩)), fun wrong failed => ?_, fun wrong sound => ?_⟩
    · rw [retry, identReply_wrong wrong]
      exact congrArg _ (if_pos failed)
    · rw [retry, identReply_wrong wrong]
      exact congrArg _ (if_neg (by simp [rpSend, modRadio, sound]))
  · exact congrArg Host.Outcome.next (if_neg (not_not_intro ⟨on, up⟩))
  · exact congrArg Host.Outcome.next (if_pos ⟨rfl, on⟩)
  · exact congrArg Host.Outcome.next (if_pos runs)

end Sys2Proof.Machine
end

section
/-!
PROOFS. Receptions of the cord radio (R408, R420 to R426, R437, R438).
-/
namespace Sys2Proof.Machine

open Sys2Proof

/-! The checks of a received frame, in their order. -/

/-- The security header of a frame has a form that the radio knows: none, or of version 1 or 2 with key identifier mode 0 or 1. -/
def SecureForm (r : RadioRx) : Prop := r.secured = true → r.version ≠ 0 ∧ r.keyMode.toNat < 2

theorem not_secureForm_iff {r : RadioRx} : ¬ SecureForm r ↔ r.secured = true ∧ (r.version = 0 ∨ 2 ≤ r.keyMode.toNat) := by
  unfold SecureForm
  rw [Classical.not_imp, Classical.not_and_iff_not_or_not, not_not, Nat.not_lt]

theorem exec_radioFrameReceive_deaf {r : RadioRx} {s : State} (deaf : radioRuns s = false ∨ listening s = false) (alone : ackOnly s r = false) :
    exec (.radioFrameReceive r) s = .next s :=
  congrArg Host.Outcome.next (if_pos ⟨by rintro ⟨runs, listens⟩; rcases deaf with h | h <;> simp_all, by simp [alone]⟩)

section
variable {r : RadioRx} {s : State} (runs : radioRuns s = true) (listens : listening s = true)
include runs listens

theorem exec_radioFrameReceive_garbled (garbled : r.fcsOk = false) : exec (.radioFrameReceive r) s = .next (radioCount 0 1 (rpSend [4] s)) :=
  congrArg Host.Outcome.next ((if_neg fun deaf => deaf.1 ⟨runs, listens⟩).trans (if_pos (by simp [garbled])))

theorem exec_radioFrameReceive_form (whole : r.fcsOk = true) (form : r.version = 3 ∨ r.kind = .other ∨ r.addrOk = false ∨ ¬ SecureForm r) :
    exec (.radioFrameReceive r) s = .next (radioCount 1 1 (rpSend [4] s)) := by
  refine congrArg Host.Outcome.next ((if_neg fun deaf => deaf.1 ⟨runs, listens⟩).trans ((if_neg (not_not_intro whole)).trans (if_pos ?_)))
  rw [not_secureForm_iff] at form
  simpa using form

variable (whole : r.fcsOk = true) (known : r.version ≠ 3) (addressed : r.addrOk = true) (secure : SecureForm r)
include whole known addressed secure

/-- A frame of a known kind and form goes on to the checks of its kind. -/
theorem exec_radioFrameReceive_formed (kind : r.kind ≠ .other) : exec (.radioFrameReceive r) s = .next (
    let u := rpSend [4] s
    if r.kind = .ack ∧ r.version.toNat < 2 ∧ ¬ r.secured then rxAck r none u
    else if ¬ rxForUs u r then u
    else
      let i := srcEntry u r.src
      let unicast : Bool := match r.dst with
        | .short a => a.toNat != 0xFFFF
        | .ext _ => true
        | .none => false
      let dropped : Bool := match i with
        | some k => (nbrAt u k).state == .dropped
        | none => false
      rxSecured r (if r.version.toNat < 2 ∧ r.ackReq ∧ unicast ∧ ¬ dropped then immAck r i u else u)) := by
  refine congrArg Host.Outcome.next ((if_neg fun deaf => deaf.1 ⟨runs, listens⟩).trans ((if_neg (not_not_intro whole)).trans ((if_neg ?_).trans rfl)))
  rintro (reserved | other | unaddressed | insecure)
  · exact known reserved
  · exact kind other
  · exact unaddressed addressed
  · exact not_secureForm_iff.mpr insecure secure

theorem exec_radioFrameReceive_ack (kind : r.kind = .ack) (old : r.version.toNat < 2) (plain : r.secured = false) :
    exec (.radioFrameReceive r) s = .next (rxAck r none (rpSend [4] s)) := by
  rw [exec_radioFrameReceive_formed runs listens whole known addressed secure (by simp [kind])]
  exact congrArg _ (if_pos ⟨kind, old, by simp [plain]⟩)

theorem exec_radioFrameReceive_data (kind : r.kind = .data) :
    (rxForUs (rpSend [4] s) r = false → exec (.radioFrameReceive r) s = .next (rpSend [4] s)) ∧
    (rxForUs (rpSend [4] s) r = true → r.ackReq = false → exec (.radioFrameReceive r) s = .next (rxSecured r (rpSend [4] s))) := by
  have noAck : ¬ (r.kind = .ack ∧ r.version.toNat < 2 ∧ ¬ r.secured = true) := by simp [kind]
  rw [exec_radioFrameReceive_formed runs listens whole known addressed secure (by simp [kind])]
  refine ⟨fun others => congrArg _ ((if_neg noAck).trans (if_pos (by simp [others]))), fun ours noReq => ?_⟩
  refine congrArg _ ((if_neg noAck).trans ((if_neg (not_not_intro ours)).trans ?_))
  simp only [noReq, Bool.false_eq_true, false_and, and_false, if_false]

end

/-! The tags' poll windows. -/

theorem nbrAt_modNbr (i j : Nat) (f : Neighbour → Neighbour) (s : State) : nbrAt (modNbr i f s) j = if i = j then f (nbrAt s i) else nbrAt s j :=
  tget_tset ..

theorem nbrAt_advanceTo (p : Nat) (s : State) (i : Nat) : nbrAt (advanceTo p s) i = nbrAt s i := by
  rw [nbrAt, (advanceTo_keeps p s).frame .radio (by decide)]
  rfl

theorem exec_pollWindowDecision_untracked {i : BitVec 9} {s : State} (untracked : (nbrAt s i.toNat).state ≠ .tracked) :
    exec (.pollWindowDecision i) s = .next s :=
  congrArg Host.Outcome.next (if_pos (.inr (.inl untracked)))

/-- The window of a poll is opened, or is too wide and the tag is lost. -/
theorem exec_pollWindowDecision {i : BitVec 9} {s : State} {n : Neighbour} {p w : Nat} (entry : nbrAt s i.toNat = n)
    (poll : nextPoll n (max (nowPos s) n.decided) = p) (width : 192 * 3888 * 10 ^ 6 + 2 * driftOf s n * (25 * p - n.lastSync) = w)
    (on : radioEn s = true) (tracked : n.state = .tracked) (tag : nbrKind n = 1) (near : p / 19440 ≤ s.lt.frame + 32) :
    exec (.pollWindowDecision i) s = .next (
      let t := advanceTo (p - 32 * 19440) s
      if w ≤ 8000 * 3888 * 10 ^ 6 then modNbr i.toNat (fun n => { n with windows := n.windows ++ [(p, w)], decided := p }) t
      else radioCause 3 (modNbr i.toNat (fun n => { n with state := .lostSync, resc := 0, windows := [], decided := p }) t)) := by
  subst entry poll width
  refine congrArg Host.Outcome.next ((if_neg ?_).trans rfl)
  rintro (off | untracked | other | early)
  · exact off on
  · exact untracked tracked
  · exact other tag
  · exact absurd early (Nat.not_lt.mpr near)

theorem exec_pollWindowMiss_none {i : BitVec 9} {s : State} (none_ : (nbrAt s i.toNat).windows = []) : exec (.pollWindowMiss i) s = .next s := by
  show execPollWindowMiss i s = _
  unfold execPollWindowMiss
  rw [none_]
  rfl

/-- A window that has ended is missed. -/
theorem exec_pollWindowMiss {i : BitVec 9} {s : State} {q v : Nat} {rest : List (Nat × Nat)} (oldest : (nbrAt s i.toNat).windows = (q, v) :: rest)
    (over_ : (q + (v + 50 * 10 ^ 6 - 1) / (50 * 10 ^ 6)) / 19440 ≤ s.lt.frame) : exec (.pollWindowMiss i) s =
      .next (modNbr i.toNat (fun n => { n with windows := n.windows.drop 1, missed := satAdd 255 n.missed 1 })
        (advanceTo (q + (v + 50 * 10 ^ 6 - 1) / (50 * 10 ^ 6)) s)) := by
  show execPollWindowMiss i s = _
  unfold execPollWindowMiss
  rw [oldest]
  exact congrArg _ (if_neg (Nat.not_lt.mpr over_))

theorem exec_tagDrop_kept {i : BitVec 9} {s : State} (kept : (nbrAt s i.toNat).state ≠ .lostSync ∨ (nbrAt s i.toNat).resc < 65) :
    exec (.tagDrop i) s = .next s :=
  congrArg Host.Outcome.next (if_pos kept)

/-! Floods. -/

theorem exec_floodRebroadcastEligible {s : State} : exec .floodRebroadcastEligible s = .next (
    match s.radio.hw.find? (fun h => h.kind = .rebroadcast && !h.ready) with
    | none => s
    | some h => modRadio (fun x => { x with hw := x.hw.map (fun k => if k = h then { k with ready := true, eligible := nowPos s } else k) }) s) := rfl

/-- Settles O53: the checks of a received frame in their order; the rows of a tag by its entry, those of floods by the queue. -/
theorem radioReceptions : Obligations.RadioReceptions := by
  refine ⟨fun r s => ⟨exec_radioFrameReceive_deaf, fun runs listens => ⟨exec_radioFrameReceive_garbled runs listens,
      exec_radioFrameReceive_form runs listens, fun whole known addressed secure =>
        ⟨exec_radioFrameReceive_ack runs listens whole known addressed secure, fun kind => ?_, fun kind => ?_⟩⟩⟩,
    fun i s => ⟨fun on tracked tag near => ?_, exec_pollWindowDecision_untracked, exec_pollWindowMiss_none, fun q v rest oldest over_ => ?_,
      fun lost late => ?_, exec_tagDrop_kept⟩,
    fun s => ⟨fun h found => ?_, fun none_ => ?_, ⟨_, rfl, ?_, rfl, rfl, rfl⟩⟩⟩
  · exact (exec_radioFrameReceive_data runs listens whole known addressed secure kind).1
  · exact (exec_radioFrameReceive_data runs listens whole known addressed secure kind).2
  · have decision := exec_pollWindowDecision rfl rfl rfl on tracked tag near
    exact ⟨fun fits => decision.trans (congrArg _ (if_pos fits)), fun wide => decision.trans (congrArg _ (if_neg (Nat.not_le.mpr wide)))⟩
  · have next := exec_pollWindowMiss oldest over_
    refine ⟨_, next, ?_, fun j other => ?_, exec_onlyIn [.lt, .radio, .clock] next rfl⟩
    · rw [nbrAt_modNbr, if_pos rfl, nbrAt_advanceTo, oldest]
      rfl
    · rw [nbrAt_modNbr, if_neg other.symm, nbrAt_advanceTo]
  · refine congrArg Host.Outcome.next (if_neg ?_)
    rintro (kept | early)
    · exact kept lost
    · omega
  · rw [exec_floodRebroadcastEligible, found]
    rfl
  · rw [exec_floodRebroadcastEligible, none_]
  · exact (keeps_radioCount (by decide) _ _ _ (keeps_modRadio (by decide) _ s (.refl _ s))).frame

end Sys2Proof.Machine
end

section
/-!
PROOFS. Conversions of the monitor (R447, R450).
-/
namespace Sys2Proof.Machine

open Sys2Proof

/-- Inside the frame in progress, up to its last phase, an advance to a phase only moves the phase forward. -/
theorem advanceTo_phase {s : State} {p : Nat} (inside : p < phasesPerFrame) :
    advanceTo (s.lt.frame * phasesPerFrame + p) s = atPhase (max s.lt.phase (min (frameLast s) p)) s := by
  have frame : (s.lt.frame * phasesPerFrame + p) / phasesPerFrame = s.lt.frame := by unfold phasesPerFrame at *; omega
  have phase : (s.lt.frame * phasesPerFrame + p) % phasesPerFrame = p := by unfold phasesPerFrame at *; omega
  rw [advanceTo_inFrame frame, phase]

/-- The state in which a slot converts: LT at the slot's phase, the slot done. -/
def slotBegun (k : Nat) (s : State) : State :=
  { s with lt := { s.lt with phase := max s.lt.phase (1944 * k / 25) }, mon := { s.mon with slot := k + 1 } }

section
variable {slot : BitVec 8} {s : State} (code : BitVec 12) (fail : Bool) (exists_ : slot.toNat < 250)
include exists_

/-- A slot of the frame samples before its last phase. -/
theorem slotPhase_lt : slotPhase slot.toNat < phasesPerFrame := by unfold slotPhase phasesPerFrame; omega

theorem exec_adcConversion_idle (idle : alive s = false ∨ slot.toNat < s.mon.slot ∨ frameLast s < slotPhase slot.toNat) :
    exec (.adcConversion slot code fail) s = .next s :=
  (if_neg (Nat.not_le.mpr exists_)).trans (congrArg Host.Outcome.next (if_pos (by simpa using idle)))

theorem exec_adcConversion (runs : alive s = true) (next : s.mon.slot ≤ slot.toNat) (reached : slotPhase slot.toNat ≤ frameLast s) :
    exec (.adcConversion slot code fail) s = .next (let u := slotBegun slot.toNat s
      if slot.toNat % 25 = 24 then monCalibrate fail u else monSample (slot.toNat % 25) (slot.toNat / 25) code.toNat u) := by
  have begun : modMon (fun x => { x with slot := slot.toNat + 1 }) (advanceTo (s.lt.frame * phasesPerFrame + slotPhase slot.toNat) s) =
      slotBegun slot.toNat s := by
    rw [advanceTo_phase (slotPhase_lt exists_), Nat.min_eq_right reached]
    rfl
  refine (if_neg (Nat.not_le.mpr exists_)).trans (congrArg Host.Outcome.next ((if_neg ?_).trans ?_))
  · simp only [runs, not_true_eq_false, false_or, not_or, Nat.not_lt]
    exact ⟨next, reached⟩
  · rw [begun]

end

theorem monCalibrate_pass (s : State) : monCalibrate false s = { s with mon := { s.mon with calFail := false, calAge := 0 } } := by
  unfold monCalibrate
  exact if_neg fun fails => absurd fails.1 (by decide)

theorem monCalibrate_first {s : State} (sound : s.mon.calFail = false) : monCalibrate true s =
    setCause 0 0x700F00 5 (faultRaise 394 { s with mon := { s.mon with calFail := true } }) :=
  if_pos ⟨rfl, by simp [sound]⟩

theorem monCalibrate_again {s : State} (failed : s.mon.calFail = true) : monCalibrate true s = s := by
  refine (if_neg fun fails => fails.2 failed).trans ?_
  show { s with mon := { s.mon with calFail := true } } = s
  rw [← failed]

/-- Settles O54: a slot not yet done, at a phase that the frame reaches, samples its channel, or is the calibration's. -/
theorem monitorConversions : Obligations.MonitorConversions := by
  intro slot code fail s exists_
  refine ⟨exec_adcConversion_idle code fail exists_, fun runs next reached => ?_⟩
  have acts := exec_adcConversion code fail exists_ runs next reached
  refine ⟨fun channel => acts.trans (congrArg _ (if_neg channel)), fun last fails sound => ?_, fun last fails failed => ?_, fun last passes => ?_⟩
  · subst fails
    exact acts.trans (congrArg _ ((if_pos last).trans (monCalibrate_first sound)))
  · subst fails
    exact acts.trans (congrArg _ ((if_pos last).trans (monCalibrate_again failed)))
  · subst passes
    exact acts.trans (congrArg _ ((if_pos last).trans (monCalibrate_pass _)))

end Sys2Proof.Machine
end

section
/-!
PROOFS. The fault collector: what a raise does to its source and to the first-error latch (R463, R473 to R476), sweeps (R464), the handling
window (R475, R477), readbacks (R480, R482), and the word that an uncorrectable error strikes.
-/
namespace Sys2Proof.Machine

open Sys2Proof

/-! What stands of the collector. The bookkeeping of a source's records (R473) is not part of it. -/

/-- Two states of a source agree but in the bookkeeping of its records. -/
def FaultSrc.Same (x y : FaultSrc) : Prop := y.count = x.count ∧ y.raised = x.raised ∧ y.pairBad = x.pairBad ∧ y.good = x.good

theorem FaultSrc.Same.refl (x : FaultSrc) : x.Same x := ⟨rfl, rfl, rfl, rfl⟩

theorem FaultSrc.Same.trans {x y z : FaultSrc} (h : x.Same y) (k : y.Same z) : x.Same z :=
  ⟨k.1.trans h.1, k.2.1.trans h.2.1, k.2.2.1.trans h.2.2.1, k.2.2.2.trans h.2.2.2⟩

/-- The sources and the latch stand. -/
def CollectorSame (s t : State) : Prop := (∀ j, (faultSrc s j).Same (faultSrc t j)) ∧ t.flt.latch = s.flt.latch

theorem CollectorSame.trans {s t u : State} (h : CollectorSame s t) (k : CollectorSame t u) : CollectorSame s u :=
  ⟨fun j => (h.1 j).trans (k.1 j), k.2.trans h.2⟩

theorem faultSrc_of_flt {s t : State} (h : t.flt = s.flt) (j : Nat) : faultSrc t j = faultSrc s j := by
  rw [faultSrc, h]
  rfl

theorem CollectorSame.of_flt {s t : State} (h : t.flt = s.flt) : CollectorSame s t :=
  ⟨fun j => by rw [faultSrc_of_flt h]; exact .refl _, by rw [h]⟩

theorem CollectorSame.refl (s : State) : CollectorSame s s := .of_flt rfl

theorem CollectorSame.ite {s a b : State} {c : Prop} [Decidable c] (ha : CollectorSame s a) (hb : CollectorSame s b) :
    CollectorSame s (if c then a else b) := by
  split <;> assumption

theorem faultSrc_modFaultSrc (k j : Nat) (f : FaultSrc → FaultSrc) (s : State) :
    faultSrc (modFaultSrc k f s) j = if k = j then f (faultSrc s k) else faultSrc s j :=
  tget_tset ..

/-- A change of a source's bookkeeping. -/
theorem collectorSame_modFaultSrc (k : Nat) (f : FaultSrc → FaultSrc) (kept : ∀ x : FaultSrc, x.Same (f x)) (s : State) :
    CollectorSame s (modFaultSrc k f s) := by
  refine ⟨fun j => ?_, rfl⟩
  rw [faultSrc_modFaultSrc]
  split
  · next same => exact same ▸ kept _
  · exact .refl _

/-! The steps of a raise, one by one. -/

theorem collectorSame_faultRecord (k cls sev act : Nat) (pair injected first merged overflow : Bool) (s : State) :
    CollectorSame s (faultRecord k cls sev act pair injected first merged overflow s) := by
  unfold faultRecord
  extract_lets src tick old new
  refine .ite (collectorSame_modFaultSrc _ (fun x => { x with since := x.since + 1 }) (fun _ => ⟨rfl, rfl, rfl, rfl⟩) s) ?_
  refine (collectorSame_modFaultSrc k (fun x => { x with since := 0, recTick := tick }) (fun _ => ⟨rfl, rfl, rfl, rfl⟩) s).trans (.of_flt ?_)
  exact (keeps_rawHwSeat (W := [.pwr, .host, .led, .regs]) (by decide) (by decide) (by decide) (by decide) _ _ _ _ _ _ _ _ _ (.refl _ _)).frame
    .flt (by decide)

theorem collectorSame_faultCause (k seat : Nat) (s : State) : CollectorSame s (faultCause k seat s) :=
  .of_flt ((keeps_faultCause (W := [.host, .regs]) (by decide) (by decide) k seat s (.refl _ s)).frame .flt (by decide))

theorem collectorSame_faultCauses (k : Nat) (seats : List Nat) (s : State) :
    CollectorSame s (seats.foldl (fun t n => faultCause k n t) s) := by
  induction seats generalizing s with
  | nil => exact .refl s
  | cons n ns ih => exact (collectorSame_faultCause k n s).trans (ih _)

theorem collectorSame_releaseAction (s : State) : CollectorSame s (releaseAction s) :=
  .of_flt ((keeps_releaseAction (W := [.pwr, .host, .led, .mate, .regs]) (by decide) (by decide) (by decide) (by decide) (by decide) s
    (.refl _ s)).frame .flt (by decide))

theorem collectorSame_stopAlive (s : State) : CollectorSame s (stopAlive s) := .ite (.refl s) ⟨fun _ => .refl _, rfl⟩

/-- A latch stands for the same first source, taken at the same LT. -/
def FaultLatch.SameFirst (l m : FaultLatch) : Prop := m.source = l.source ∧ m.frame = l.frame ∧ m.phase = l.phase

/-- The latch after a raise: the source where it was empty, else the first source as before. -/
theorem latchStep_first {s : State} (empty : s.flt.latch = none) (k cls sev act : Nat) (pair injected : Bool) :
    ∃ l, (latchStep s k cls sev act pair injected).2.2.2 = some l ∧ l.source = k ∧ l.frame = s.lt.frame ∧ l.phase = s.lt.phase := by
  unfold latchStep
  rw [empty]
  exact ⟨_, rfl, rfl, rfl, rfl⟩

theorem latchStep_keeps {s : State} {l : FaultLatch} (holds : s.flt.latch = some l) (k cls sev act : Nat) (pair injected : Bool) :
    ∃ m, (latchStep s k cls sev act pair injected).2.2.2 = some m ∧ l.SameFirst m := by
  unfold latchStep
  rw [holds]
  dsimp only
  split
  · exact ⟨_, rfl, rfl, rfl, rfl⟩
  · exact ⟨_, rfl, rfl, rfl, rfl⟩

/-- A source that one raise counts. -/
def FaultSrc.counted (x : FaultSrc) : FaultSrc := { x with count := satAdd 65535 x.count 1, raised := true }

/-- The state in which a raise is counted, and the latch then taken. -/
def raiseCounted (k : Nat) (s : State) : State :=
  modFaultSrc k FaultSrc.counted { s with flt := { s.flt with count := satAdd 65535 s.flt.count 1 } }
def withLatch (l : Option FaultLatch) (s : State) : State := { s with flt := { s.flt with latch := l } }

/-- The actions of a raise after its record (R468, R471, R472). -/
def raiseActions (k act : Nat) (s : State) : State :=
  let owners := if act.testBit 1 then (sourceSeats s k).foldl (fun t n => faultCause k n t) s else s
  let keeper := if act.testBit 2 then faultCause k 0 owners else owners
  let released := if act.testBit 3 ∨ act.testBit 4 then releaseAction keeper else keeper
  if act.testBit 4 then stopAlive released else released

theorem raiseOne_steps (k : Nat) (pair injected : Bool) (s : State) : raiseOne k pair injected false s =
    (let t := raiseCounted k s
     let sev := sevOf t k
     let act := sevActions t sev
     let step := latchStep t k (sourceClass k) sev act pair injected
     raiseActions k act (faultRecord k (sourceClass k) sev act pair injected step.1 step.2.1 step.2.2.1 (withLatch step.2.2.2 t))) := rfl

theorem collectorSame_raiseActions (k act : Nat) (s : State) : CollectorSame s (raiseActions k act s) := by
  unfold raiseActions
  extract_lets owners keeper released
  have toOwners : CollectorSame s owners := .ite (collectorSame_faultCauses ..) (.refl s)
  have toKeeper : CollectorSame s keeper := .ite (toOwners.trans (collectorSame_faultCause ..)) toOwners
  have toReleased : CollectorSame s released := .ite (toKeeper.trans (collectorSame_releaseAction _)) toKeeper
  exact .ite (toReleased.trans (collectorSame_stopAlive _)) toReleased

/-- A raise counts its source and leaves the others; the latch takes the source where it is empty, else keeps its own. -/
theorem raiseOne_collector (k : Nat) (pair injected : Bool) (s : State) :
    let t := raiseOne k pair injected false s
    (∀ j, (if k = j then (faultSrc s k).counted else faultSrc s j).Same (faultSrc t j)) ∧
    (s.flt.latch = none → ∃ l, t.flt.latch = some l ∧ l.source = k ∧ l.frame = s.lt.frame ∧ l.phase = s.lt.phase) ∧
    (∀ l, s.flt.latch = some l → ∃ m, t.flt.latch = some m ∧ l.SameFirst m) := by
  rw [raiseOne_steps]
  extract_lets u sev act step
  obtain ⟨sources, latch⟩ := (collectorSame_faultRecord k (sourceClass k) sev act pair injected step.1 step.2.1 step.2.2.1
    (withLatch step.2.2.2 u)).trans (collectorSame_raiseActions k act _)
  refine ⟨fun j => ?_, fun empty => ?_, fun l holds => ?_⟩
  · have counted : faultSrc (withLatch step.2.2.2 u) j = if k = j then (faultSrc s k).counted else faultSrc s j :=
      faultSrc_modFaultSrc k j FaultSrc.counted _
    exact counted ▸ sources j
  · rw [latch]
    exact latchStep_first (s := u) empty ..
  · rw [latch]
    exact latchStep_keeps (s := u) holds ..

/-- What the raise of a first loss of the ledger (source 406) leaves of the collector. -/
structure CollectorFollows (s t : State) : Prop where
  raised : ∀ j, (faultSrc s j).raised = true → (faultSrc t j).raised = true
  pair : ∀ j, (faultSrc t j).pairBad = (faultSrc s j).pairBad ∧ (faultSrc t j).good = (faultSrc s j).good
  count : ∀ j, j ≠ 406 → (faultSrc t j).count = (faultSrc s j).count
  latch : ∀ l, s.flt.latch = some l → ∃ m, t.flt.latch = some m ∧ l.SameFirst m

theorem CollectorFollows.refl (s : State) : CollectorFollows s s :=
  ⟨fun _ => id, fun _ => ⟨rfl, rfl⟩, fun _ _ => rfl, fun l holds => ⟨l, holds, rfl, rfl, rfl⟩⟩

/-- The ledger's loss is noted. -/
def lossNoted (s : State) : State := { s with led := { s.led with lossDue := false } }

theorem collectorFollows_lossRaised (s : State) : CollectorFollows s (lossNoted (raiseOne 406 false false false (lossNoted s))) := by
  obtain ⟨sources, -, latch⟩ := raiseOne_collector 406 false false (lossNoted s)
  refine ⟨fun j raised => ?_, fun j => ?_, fun j other => ?_, latch⟩
  · refine (sources j).2.1.trans ?_
    split
    · rfl
    · exact raised
  · obtain ⟨-, -, pair, good⟩ := sources j
    by_cases same : 406 = j
    · subst same
      exact ⟨pair, good⟩
    · rw [if_neg same] at pair good
      exact ⟨pair, good⟩
  · have count := (sources j).1
    rw [if_neg other.symm] at count
    exact count

theorem collectorFollows_lossNoted (s : State) : CollectorFollows s (lossNoted s) :=
  ⟨fun _ => id, fun _ => ⟨rfl, rfl⟩, fun _ _ => rfl, fun l holds => ⟨l, holds, rfl, rfl, rfl⟩⟩

theorem collectorFollows_reportLoss (s : State) : CollectorFollows s (reportLoss s) := by
  show CollectorFollows s (if s.led.lossDue then
    if canRaise (lossNoted s) 406 then lossNoted (raiseOne 406 false false false (lossNoted s)) else lossNoted s else s)
  split
  · split
    · exact collectorFollows_lossRaised s
    · exact collectorFollows_lossNoted s
  · exact .refl s

/-! Raises and sweeps. -/

/-- A raise of a source that can raise, with the first loss of the ledger that its record may be. -/
theorem faultRaise_collector {k : Nat} {s : State} (can : canRaise s k = true) :
    let t := faultRaise k s
    (faultSrc t k).raised = true ∧ (k ≠ 406 → (faultSrc t k).count = satAdd 65535 (faultSrc s k).count 1) ∧
    (s.flt.latch = none → ∃ l, t.flt.latch = some l ∧ l.source = k ∧ l.frame = s.lt.frame ∧ l.phase = s.lt.phase) ∧
    (∀ l, s.flt.latch = some l → ∃ m, t.flt.latch = some m ∧ l.SameFirst m) := by
  intro t
  obtain ⟨sources, first, keeps⟩ := raiseOne_collector k false false s
  have follows : CollectorFollows (raiseOne k false false false s) t := by
    unfold t faultRaise
    rw [if_pos can]
    exact collectorFollows_reportLoss _
  have counted := sources k
  rw [if_pos rfl] at counted
  obtain ⟨count, raised, -, -⟩ := counted
  refine ⟨follows.raised k raised, fun other => (follows.count k other).trans count, fun empty => ?_, fun l holds => ?_⟩
  · obtain ⟨l, taken, source, frame, phase⟩ := first empty
    obtain ⟨m, later, sameSource, sameFrame, samePhase⟩ := follows.latch l taken
    exact ⟨m, later, sameSource.trans source, sameFrame.trans frame, samePhase.trans phase⟩
  · obtain ⟨m, held, source, frame, phase⟩ := keeps l holds
    obtain ⟨n, later, sameSource, sameFrame, samePhase⟩ := follows.latch m held
    exact ⟨n, later, sameSource.trans source, sameFrame.trans frame, samePhase.trans phase⟩

/-- A declared pair fault holds the source raised from then on. -/
theorem pairFault_pair {k : Nat} {s : State} (can : canRaise s k = true) :
    (faultSrc (pairFault k false false s) k).pairBad = true ∧ (faultSrc (pairFault k false false s) k).good = 0 := by
  unfold pairFault
  rw [if_pos can]
  obtain ⟨sources, -, -⟩ := raiseOne_collector k true false (modFaultSrc k (fun x => { x with pairBad := true, good := 0 }) s)
  have held := sources k
  rw [if_pos rfl, faultSrc_modFaultSrc, if_pos rfl] at held
  obtain ⟨-, -, pair, good⟩ := held
  obtain ⟨samePair, sameGood⟩ := (collectorFollows_reportLoss (raiseOne k true false false
    (modFaultSrc k (fun x => { x with pairBad := true, good := 0 }) s))).pair k
  exact ⟨samePair.trans pair, sameGood.trans good⟩

section
variable (k : Nat) (word : Option (BitVec 19)) (s : State)

theorem upsetAt_onlyIn : OnlyIn [.sram, .freeCtr] s (upsetAt k word s) :=
  (keeps_upsetAt (by decide) (by decide) k word s (.refl _ s)).frame

theorem upsetAt_flt : (upsetAt k word s).flt = s.flt := upsetAt_onlyIn k word s .flt (by decide)

theorem canRaise_upsetAt (j : Nat) : canRaise (upsetAt k word s) j = canRaise s j := by
  have pwr : (upsetAt k word s).pwr = s.pwr := upsetAt_onlyIn k word s .pwr (by decide)
  unfold canRaise
  rw [faultSrc_of_flt (upsetAt_flt k word s)]
  simp only [alive, domOn, domState, pwr]
  rfl

end

section
variable {src : BitVec 9} {s : State} (exists_ : src.toNat < 412)
include exists_

theorem exec_faultRaise (pair : Bool) (word : Option (BitVec 19)) : exec (.faultRaise src pair word) s =
    .next (if pair then pairFault src.toNat false false (upsetAt src.toNat word s) else faultRaise src.toNat (upsetAt src.toNat word s)) :=
  if_neg (Nat.not_le.mpr exists_)

theorem exec_faultRaise_refused (word : Option (BitVec 19)) (cannot : canRaise s src.toNat = false) :
    exec (.faultRaise src false word) s = .next (upsetAt src.toNat word s) := by
  have stands : canRaise (upsetAt src.toNat word s) src.toNat = false := (canRaise_upsetAt ..).trans cannot
  rw [exec_faultRaise exists_]
  exact congrArg Host.Outcome.next (if_neg (Bool.eq_false_iff.mp stands))

theorem exec_faultSweep_off (off : sourceOn s src.toNat = false) (passed : Bool) : exec (.faultSweep src passed) s = .next s :=
  (if_neg (Nat.not_le.mpr exists_)).trans (congrArg Host.Outcome.next (if_neg (by simp [off])))

/-- The sweep of a source that no injection meets, at its phase of the frame. -/
theorem exec_faultSweep (on : sourceOn s src.toNat = true) (natural : injectDue s src.toNat = false) (passed : Bool) :
    exec (.faultSweep src passed) s =
      .next (sweepOne src.toNat passed (atPhase (max s.lt.phase (min (frameLast s) (16 * src.toNat))) s)) := by
  have inside : 16 * src.toNat < phasesPerFrame := by unfold phasesPerFrame; omega
  refine (if_neg (Nat.not_le.mpr exists_)).trans (congrArg Host.Outcome.next ((if_pos on).trans ?_))
  rw [advanceTo_phase inside]
  have none_ : injectDue (atPhase (max s.lt.phase (min (frameLast s) (16 * src.toNat))) s) src.toNat = false := natural
  dsimp only
  rw [none_]
  rfl

end

theorem sweepOne_sound {k : Nat} {s : State} (sound : (faultSrc s k).pairBad = false) : sweepOne k true s = s :=
  (if_neg (by decide)).trans (if_neg (by simp [sound]))

theorem sweepOne_bad {k : Nat} {s : State} (bad : (faultSrc s k).pairBad = true) : sweepOne k true s =
    modFaultSrc k (fun x => if 15 ≤ x.good then { x with pairBad := false, good := 0 } else { x with good := x.good + 1 }) s :=
  (if_neg (by decide)).trans (if_pos bad)

/-! The word that an uncorrectable error strikes. -/

theorem sramUpset_bad (p : Nat) (s : State) {j : Nat} (inside : j < 4) : wordBad (sramUpset p s) (p + j) = true := by
  rw [wordBad_iff]
  exact ⟨p + j, List.mem_append_left _ (List.mem_map.mpr ⟨j, List.mem_range.mpr inside, rfl⟩), rfl⟩

/-- The bytes outside of the word keep their values and their check bits. -/
theorem sramUpset_frame {p q : Nat} (s : State) (aligned : p % 4 = 0) (outside : q < p ∨ p + 4 ≤ q) :
    wordBad (sramUpset p s) q = wordBad s q ∧ sramGet (sramUpset p s) q = sramGet s q := by
  constructor
  · rw [Bool.eq_iff_iff, wordBad_iff, wordBad_iff]
    constructor
    · rintro ⟨x, struck, same⟩
      rcases List.mem_append.mp struck with new | old
      · obtain ⟨j, inside, rfl⟩ := List.mem_map.mp new
        have := List.mem_range.mp inside
        omega
      · exact ⟨x, ((sramWrite_ecc ..).mp old).1, same⟩
    · rintro ⟨x, bad, same⟩
      exact ⟨x, List.mem_append_right _ ((sramWrite_ecc ..).mpr ⟨bad, by rw [List.length_map, length_leBytes]; omega⟩), same⟩
  · refine (sramGet_sramWrite (takeFree s).2 p _ q).trans (if_neg ?_)
    rw [List.length_map, length_leBytes]
    omega

theorem upsetAt_bank (b : BitVec 3) (w : BitVec 19) (s : State) :
    upsetAt (24 + b.toNat) (some w) s = sramUpset (0x200000 * b.toNat + 4 * w.toNat) s := by
  refine (if_pos (by omega)).trans ?_
  rw [Nat.add_sub_cancel_left]

/-! The handling window and the readbacks. -/

theorem exec_handlingWindowEnd (s : State) : exec .handlingWindowEnd s = .next (match s.flt.latch with
    | none => s
    | some l => if ¬ l.handling then s else if l.clearDue then clearLatch s
        else { s with flt := { s.flt with latch := some { l with handling := false } } }) := rfl

theorem exec_handlingWindowEnd_latch {s : State} {l : FaultLatch} (holds : s.flt.latch = some l) : exec .handlingWindowEnd s =
    .next (if ¬ l.handling then s else if l.clearDue then clearLatch s
      else { s with flt := { s.flt with latch := some { l with handling := false } } }) := by
  rw [exec_handlingWindowEnd, holds]

/-- Settles O55: of a raise's steps only the count and the latch reach what the collector shows of a source; a struck word is written and
marked, its neighbours stand. -/
theorem faultCollector : Obligations.FaultCollector := by
  refine ⟨fun src s exists_ => ⟨fun word => exec_faultRaise_refused exists_ word, fun word can => ?_, fun word can => ?_,
      fun off b => exec_faultSweep_off exists_ off b, fun on natural => ⟨?_, fun sound => ?_, fun bad => ?_⟩⟩,
    fun b w s => ?_,
    fun s => ⟨fun empty => ?_, fun l holds => ⟨fun ended => ?_, fun runs due => ?_, fun runs kept => ?_⟩,
      fun runs => ⟨congrArg Host.Outcome.next (if_pos runs), congrArg Host.Outcome.next (if_pos runs), fun l => congrArg Host.Outcome.next (if_pos runs)⟩,
      fun dark => ⟨congrArg Host.Outcome.next (if_neg (by simp [dark])), fun e => congrArg Host.Outcome.next (if_neg (by simp [dark]))⟩⟩⟩
  · have lt : (upsetAt src.toNat word s).lt = s.lt := upsetAt_onlyIn src.toNat word s .lt (by decide)
    have raise := faultRaise_collector ((canRaise_upsetAt src.toNat word s src.toNat).trans can)
    rw [faultSrc_of_flt (upsetAt_flt src.toNat word s), upsetAt_flt, lt] at raise
    exact ⟨_, exec_faultRaise exists_ false word, raise⟩
  · exact ⟨_, exec_faultRaise exists_ true word, pairFault_pair ((canRaise_upsetAt src.toNat word s src.toNat).trans can)⟩
  · exact (exec_faultSweep exists_ on natural false).trans (exec_faultRaise exists_ true none).symm
  · exact (exec_faultSweep exists_ on natural true).trans (congrArg _ (sweepOne_sound sound))
  · refine ⟨_, (exec_faultSweep exists_ on natural true).trans (congrArg _ (sweepOne_bad bad)), ?_, ?_⟩
    · exact (keeps_modFaultSrc (by decide) _ _ _ (.refl _ _)).frame
    · exact (faultSrc_modFaultSrc ..).trans (if_pos rfl)
  · refine ⟨upsetAt_onlyIn _ _ s, ?_⟩
    rw [upsetAt_bank]
    exact ⟨fun j inside => sramUpset_bad _ s inside, fun q outside => sramUpset_frame s (by omega) outside⟩
  · rw [exec_handlingWindowEnd, empty]
  · exact (exec_handlingWindowEnd_latch holds).trans (congrArg _ (if_pos (by simp [ended])))
  · exact (exec_handlingWindowEnd_latch holds).trans (congrArg _ ((if_neg (by simp [runs])).trans (if_pos due)))
  · exact (exec_handlingWindowEnd_latch holds).trans (congrArg _ ((if_neg (by simp [runs])).trans (if_neg (by simp [kept]))))

end Sys2Proof.Machine
end

section
/-!
PROOFS. The rows that write one register of the Seat window: the fields that a row forces, and what a host's write of each command register does.
-/
namespace Sys2Proof.Machine

open Sys2Proof

/-! Fields of a word with one of them replaced. -/

theorem bit_setBits (v lo w x k : Nat) : bit (setBits v lo w x) k = if lo ≤ k ∧ k < lo + w then bit x (k - lo) else bit v k := by
  have low : v % 2 ^ lo < 2 ^ lo := Nat.mod_lt _ (Nat.two_pow_pos lo)
  have mid : (x % 2 ^ w) <<< lo + v % 2 ^ lo < 2 ^ (lo + w) := by
    have whole : (x % 2 ^ w + 1) * 2 ^ lo ≤ 2 ^ w * 2 ^ lo := Nat.mul_le_mul_right _ (Nat.mod_lt _ (Nat.two_pow_pos w))
    rw [Nat.add_mul, Nat.one_mul] at whole
    rw [Nat.shiftLeft_eq, Nat.pow_add, Nat.mul_comm (2 ^ lo)]
    omega
  rw [bit, setBits, Nat.add_assoc, Nat.shiftLeft_add_eq_or_of_lt mid, Nat.shiftLeft_add_eq_or_of_lt low]
  simp only [Nat.testBit_or, Nat.testBit_shiftLeft, Nat.testBit_shiftRight, Nat.testBit_mod_two_pow, bit]
  by_cases below : k < lo
  · simp [below, show ¬ lo ≤ k by omega, show ¬ lo + w ≤ k by omega]
  · by_cases inside : k < lo + w
    · simp [below, inside, show lo ≤ k by omega, show ¬ lo + w ≤ k by omega, show k - lo < w by omega]
    · simp [below, inside, show lo + w ≤ k by omega, show lo + w + (k - (lo + w)) = k by omega, show ¬ k - lo < w by omega]

theorem bits_congr {m n lo w : Nat} (same : ∀ j, j < w → bit m (lo + j) = bit n (lo + j)) : bits m lo w = bits n lo w := by
  refine Nat.eq_of_testBit_eq fun j => ?_
  simp only [bits, Nat.testBit_mod_two_pow, Nat.testBit_shiftRight]
  by_cases inside : j < w
  · exact congrArg _ (same j inside)
  · simp [inside]

/-- A field apart from the one replaced stands. -/
theorem bits_setBits_apart {lo w lo' w' : Nat} (apart : lo + w ≤ lo' ∨ lo' + w' ≤ lo) (v x : Nat) :
    bits (setBits v lo w x) lo' w' = bits v lo' w' :=
  bits_congr fun j inside => by rw [bit_setBits, if_neg (by omega)]

theorem bit_setBits_apart {lo w k : Nat} (apart : lo + w ≤ k ∨ k < lo) (v x : Nat) : bit (setBits v lo w x) k = bit v k := by
  rw [bit_setBits, if_neg (by omega)]

/-- A field inside the one replaced reads as it was put. -/
theorem bits_setBits_inside {lo w w' : Nat} (inside : w' ≤ w) (v x : Nat) : bits (setBits v lo w x) lo w' = x % 2 ^ w' := by
  refine Nat.eq_of_testBit_eq fun j => ?_
  simp only [bits, Nat.testBit_mod_two_pow, Nat.testBit_shiftRight]
  by_cases within : j < w'
  · simp only [within, decide_true, Bool.true_and]
    have put := bit_setBits v lo w x (lo + j)
    rw [if_pos (by omega), Nat.add_sub_cancel_left] at put
    exact put
  · simp [within]

/-! A row's write of a register. -/

/-- A row that is the write of a whole register ends with what the register's write answers. -/
theorem writes_row {i : Instr} {w : HostWho} {off v : Nat} {nm : RegName} {s : State} {o : RegAt → Nat × State}
    (row : exec i s = rowWrite w off v s) (does : ∀ r, r.desc.name = nm → regWriteVal (hostAgent w) r v s = o r) : Writes i w off nm s o :=
  fun r reaches free name single => by rw [row, rowWrite_reaches reaches free single, does r name]

/-- A row whose register's write ends DONE completes with the state of it. -/
theorem completes_done {i : Instr} {w : HostWho} {off v : Nat} {nm : RegName} {s : State} {ok : RegAt → Prop} {post : RegAt → State → Prop}
    (row : exec i s = rowWrite w off v s)
    (does : ∀ r, r.desc.name = nm → ok r → ∃ t, regWriteVal (hostAgent w) r v s = (oDone, t) ∧ post r t) : Completes i w off nm s ok post :=
  completes_row row fun r name accepted => by
    obtain ⟨t, answers, effect⟩ := does r name accepted
    rw [answers, hostEnd_done]
    exact effect

section
variable {a : Agent} {w : HostWho} {r : RegAt} {v : Nat} {s : State}

/-- The write of a command register is its command. -/
theorem regWriteVal_command {x : Nat × State} (command : regCommand a r v s = some x) : regWriteVal a r v s = x := by
  unfold regWriteVal
  rw [command]

/-- A command that ends in its own status register is DONE for a host's write. -/
theorem regWriteVal_ended {x : Nat × State} (command : regCommand (hostAgent w) r v s = some (regCmdEnd (hostAgent w) s x)) :
    regWriteVal (hostAgent w) r v s = (oDone, x.2) := by
  rw [regWriteVal_command command, regCmdEnd_host]

theorem regWriteVal_hostErrClr (name : r.desc.name = .hostErrClr) (set : bit v 0 = true) : regWriteVal a r v s = (oDone, clearPathCounts a.pk s) :=
  regWriteVal_command (by unfold regCommand; rw [name]; exact congrArg (fun t => some (oDone, t)) (if_pos set))

theorem regWriteVal_pwrStageCtl (name : r.desc.name = .pwrStageCtl) :
    regWriteVal (hostAgent w) r v s = (oDone, (stageControl (hostAgent w) v s).2) :=
  regWriteVal_ended (by unfold regCommand; rw [name])

theorem regWriteVal_pwrResetCtl (name : r.desc.name = .pwrResetCtl) :
    regWriteVal (hostAgent w) r v s = (oDone, (resetControl (hostAgent w) v s).2) :=
  regWriteVal_ended (by unfold regCommand; rw [name])

theorem regWriteVal_bookCntClr (name : r.desc.name = .bookCntClr) (set : bit v 0 = true) : regWriteVal a r v s = (oDone, clearOutcomes a.seat s) :=
  regWriteVal_command (by unfold regCommand; rw [name]; exact congrArg (fun t => some (oDone, t)) (if_pos set))

theorem regWriteVal_ltCommitCtl (name : r.desc.name = .ltCommitCtl) :
    regWriteVal (hostAgent w) r v s = (oDone, (commitControl (hostAgent w) v s).2) :=
  regWriteVal_ended (by unfold regCommand; rw [name])

theorem regWriteVal_ltCalCtl (name : r.desc.name = .ltCalCtl) :
    regWriteVal (hostAgent w) r v s = (oDone, (calControl (hostAgent w) v s).2) :=
  regWriteVal_ended (by unfold regCommand; rw [name])

theorem regWriteVal_dmaChCmd (name : r.desc.name = .dmaChCmd) : regWriteVal a r v s = dmaCommand a r.i v s :=
  regWriteVal_command (by unfold regCommand; rw [name])

theorem regWriteVal_stCmd (name : r.desc.name = .stCmd) : regWriteVal a r v s = stCommand a r.i v s :=
  regWriteVal_command (by unfold regCommand; rw [name])

theorem regWriteVal_stCtx (name : r.desc.name = .stCtx) : regWriteVal a r v s = ctxWrite a r.i (0x20 + 4 * r.j) v s :=
  regWriteVal_command (by unfold regCommand; rw [name])

theorem regWriteVal_stG (name : r.desc.name = .stG) : regWriteVal a r v s = ctxWrite a r.i (0x40 + 4 * r.j) v s :=
  regWriteVal_command (by unfold regCommand; rw [name])

theorem regWriteVal_stEventSet (name : r.desc.name = .stEventSet) : regWriteVal a r v s = (oDone, eventSetWrite a.seat (r.j == 1) v s) :=
  regWriteVal_command (by unfold regCommand; rw [name])

theorem regWriteVal_lpCntClr (name : r.desc.name = .lpCntClr) (set : bit v 0 = true) :
    regWriteVal a r v s = (oDone, modPort r.i (fun x => { x with cntClr := true }) s) :=
  regWriteVal_command (by unfold regCommand; rw [name]; exact congrArg (fun t => some (oDone, t)) (if_pos set))

theorem regWriteVal_pxOverride (name : r.desc.name = .pxOverride) :
    regWriteVal (hostAgent w) r v s = (oDone, (hostOverride (hostAgent w) v s).2) :=
  regWriteVal_ended (by unfold regCommand; rw [name])

theorem regWriteVal_pxCmd (name : r.desc.name = .pxCmd) :
    regWriteVal (hostAgent w) r v s = (oDone, (pxCommand (hostAgent w) v s).2) :=
  regWriteVal_ended (by unfold regCommand; rw [name])

theorem regWriteVal_mateCmd (name : r.desc.name = .mateCmd) :
    regWriteVal (hostAgent w) r v s = (oDone, (mateCommand (hostAgent w) v s).2) :=
  regWriteVal_ended (by unfold regCommand; rw [name])

theorem regWriteVal_fabRotCmd (name : r.desc.name = .fabRotCmd) :
    regWriteVal (hostAgent w) r v s = (oDone, (hostRotCmd (hostAgent w) v s).2) :=
  regWriteVal_ended (by unfold regCommand; rw [name])

theorem regWriteVal_ciCmd (name : r.desc.name = .ciCmd) :
    regWriteVal a r v s = (oDone, ciCommand a r.i (rget s (kPath a.pk (0x4A0020 + 0x1000 * r.i))) v s) :=
  regWriteVal_command (by unfold regCommand; rw [name])

theorem regWriteVal_scanCmd (name : r.desc.name = .scanCmd) : regWriteVal a r v s = (oDone, scanCommand a v s) :=
  regWriteVal_command (by unfold regCommand; rw [name])

theorem regWriteVal_scanBistCmd (name : r.desc.name = .scanBistCmd) : regWriteVal a r v s = bistStart a r v scanBistOrder s :=
  regWriteVal_command (by unfold regCommand; rw [name])

theorem regWriteVal_radioCmd (name : r.desc.name = .radioCmd) :
    regWriteVal (hostAgent w) r v s = (oDone, (radioCommand (hostAgent w) v s).2) :=
  regWriteVal_ended (by unfold regCommand; rw [name])

theorem regWriteVal_radioBistCmd (name : r.desc.name = .radioBistCmd) : regWriteVal a r v s = bistStart a r v radioBistOrder s :=
  regWriteVal_command (by unfold regCommand; rw [name])

theorem regWriteVal_radioKey (name : r.desc.name = .radioKey) : regWriteVal a r v s = keyApply a r.j v s :=
  regWriteVal_command (by unfold regCommand; rw [name])

theorem regWriteVal_radioNbr (name : r.desc.name = .radioNbr) : regWriteVal a r v s = nbrApply a r.j v s :=
  regWriteVal_command (by unfold regCommand; rw [name])

theorem regWriteVal_fcFirstClr (name : r.desc.name = .fcFirstClr) :
    regWriteVal (hostAgent w) r v s = (oDone, (firstClear (hostAgent w) v s).2) :=
  regWriteVal_ended (by unfold regCommand; rw [name])

theorem regWriteVal_ledgerKey (name : r.desc.name = .ledgerKey) : regWriteVal a r v s = keyWord a r.j v s :=
  regWriteVal_command (by unfold regCommand; rw [name])

theorem regWriteVal_ledgerSpillCons (name : r.desc.name = .ledgerSpillCons) : regWriteVal a r v s = spillCons a v s :=
  regWriteVal_command (by unfold regCommand; rw [name])

end

end Sys2Proof.Machine
end

section
/-!
PROOFS. Command registers, first part: the calendar and commit groups (R43, R45, R47, R52), stages and the warm reset (R70, R72, R85), the ledger's key
and spill (R137, R148), strands and DMA channels (R175, R188, R194, R195, R201), rotations (R267).
-/
namespace Sys2Proof.Machine

open Sys2Proof

/-! The calendar and commit groups. -/

theorem seatLt_modSeatLt_self (seat : Nat) (f : SeatLt → SeatLt) (s : State) : seatLt (modSeatLt seat f s) seat = f (seatLt s seat) :=
  (tget_tset ..).trans (if_pos rfl)

theorem seatLt_of_lt {s t : State} (h : t.lt = s.lt) (seat : Nat) : seatLt t seat = seatLt s seat := by
  unfold seatLt
  rw [h]

theorem calAt_of_lt {s t : State} (h : t.lt = s.lt) (i : Nat) : calAt t i = calAt s i := by
  unfold calAt
  rw [h]

/-- A request that ends with an outcome, noted for the Seat by `f` and counted. -/
def requestEnds (seat code : Nat) (f : SeatLt → SeatLt) (t : State) : State := countOutcome seat code (modSeatLt seat f t)

section
variable {seat code : Nat} {f : SeatLt → SeatLt} {t : State}

theorem seatLt_requestEnds : seatLt (requestEnds seat code f t) seat = f (seatLt t seat) := by
  unfold requestEnds
  rw [seatLt_of_lt (countOutcome_lt ..), seatLt_modSeatLt_self]

theorem calAt_requestEnds (i : Nat) : calAt (requestEnds seat code f t) i = calAt t i := calAt_of_lt (countOutcome_lt ..) i

theorem groups_requestEnds : (requestEnds seat code f t).lt.groups = t.lt.groups := by
  unfold requestEnds
  rw [countOutcome_lt]
  rfl

end

section
variable (a : Agent) (n : Nat) (s : State)

theorem calControl_add : (calControl a (setBits n 0 2 1) s).2 =
    (let x := calAdd a (rget s (kS a.seat 0x10A0)) (bit n 2) s
     requestEnds a.seat x.1 (fun y => { y with calOutcome := x.1, calIndex := x.2.1 }) x.2.2) := by
  have add : bit (setBits n 0 2 1) 0 = true := by rw [bit_setBits]; rfl
  have remove : bit (setBits n 0 2 1) 1 = false := by rw [bit_setBits]; rfl
  unfold calControl
  rw [add, remove, bit_setBits_apart (by decide)]
  rfl

theorem calControl_remove : (calControl a (setBits n 0 2 2) s).2 =
    (let x := calRemove a (bits n 16 10) s
     requestEnds a.seat x.1 (fun y => { y with calOutcome := x.1 }) x.2) := by
  have add : bit (setBits n 0 2 2) 0 = false := by rw [bit_setBits]; rfl
  have remove : bit (setBits n 0 2 2) 1 = true := by rw [bit_setBits]; rfl
  unfold calControl
  rw [add, remove, bits_setBits_apart (by decide)]
  rfl

/-- The target of GO (R47): a ToD, or a frame. -/
def goTarget (seat n : Nat) (s : State) : Int :=
  let tod := rget s (kS seat 0x1088)
  if bit n 1 then todToPos s (bits tod 32 48) (bits tod 0 32) else ((bits (rget s (kS seat 0x1080)) 0 48 * 19440 : Nat) : Int)

theorem commitControl_go : (commitControl a (setBit (clrBit n 2) 0) s).2 =
    (let x := goGroup a (goTarget a.seat n s) s
     requestEnds a.seat x.1 (fun y => { y with outcome := x.1 }) x.2.2) := by
  have go : bit (setBit (clrBit n 2) 0) 0 = true := by rw [bit_setBit, if_pos rfl]
  have cancel : bit (setBit (clrBit n 2) 0) 2 = false := by rw [bit_setBit, bit_clrBit, if_neg (by decide), if_pos rfl]
  have tod : bit (setBit (clrBit n 2) 0) 1 = bit n 1 := by rw [bit_setBit, bit_clrBit, if_neg (by decide), if_neg (by decide)]
  unfold commitControl
  rw [go, cancel, tod]
  rfl

theorem commitControl_cancel : (commitControl a (setBit (clrBit n 0) 2) s).2 =
    (let x := cancelGroup a (bits n 8 8) s
     requestEnds a.seat x.1 (fun y => { y with outcome := x.1 }) x.2) := by
  have go : bit (setBit (clrBit n 0) 2) 0 = false := by rw [bit_setBit, bit_clrBit, if_neg (by decide), if_pos rfl]
  have cancel : bit (setBit (clrBit n 0) 2) 2 = true := by rw [bit_setBit, if_pos rfl]
  have ident : bits (setBit (clrBit n 0) 2) 8 8 = bits n 8 8 :=
    bits_congr fun j _ => by rw [bit_setBit, bit_clrBit, if_neg (by omega), if_neg (by omega)]
  unfold commitControl
  rw [go, cancel, ident]
  rfl

end

/-- A record of a calendar entry (R45) is taken, and leaves LT. -/
theorem calRecord_takes {s : State} (room : LedgerTakes s) (a : Agent) (i old new : Nat) : ∃ t, calRecord a i old new s = some t ∧ t.lt = s.lt := by
  obtain ⟨t, taken, kept⟩ := ledgerMgmt_takes room a 6 (0x04000000 + i) (old % 2 ^ 32) (new % 2 ^ 32) false (valueConts 16 old new)
    (by simp [valueConts])
  exact ⟨t, taken, kept.lt_eq (by decide)⟩

theorem calAt_mirrored (i : Nat) (e : CalEntry) (t : State) : calAt (mirrorCal true i (setCal i e t)) i = e := by
  rw [calAt_of_lt (mirrorCal_lt ..)]
  exact (tget_tset ..).trans (if_pos rfl)

/-- The entry that ADD makes of LT_CAL_ENTRY for a place, with its number (R43). -/
def addedEntry (seat v : Nat) (pos : Int) (p q : Nat) (moved : Bool) : CalEntry :=
  { frame := p / phasesPerFrame, phase := (pos % phasesPerFrame).toNat, repeatN := bits v 64 16, kind := bits v 80 4, cls := bits v 84 3
    seat := seat, target := bits v 96 16, arg := bits v 112 16, fromEpoch := false, seq := q, moved := moved, reqFrame := pos / phasesPerFrame }

/-- The position that ADD asks for: a ToD, or a frame and phase. -/
def addPos (seat v : Nat) (tod : Bool) (s : State) : Int :=
  let ct := rget s (kS seat 0x1088)
  if tod then todToPos s (bits ct 32 48) (bits ct 0 32) else ((bits v 0 48 * phasesPerFrame + bits v 48 16 : Nat) : Int)

/-- An accepted ADD (R43). -/
theorem calAdd_accepted {a : Agent} {v idx p : Nat} {tod moved : Bool} {s : State} (room : LedgerTakes s) (mirror : mirrorRefused s = false)
    (cls : bits v 84 3 ≠ 0) (target : calTargetOk s a.seat (bits v 80 4) (bits v 96 16) = true) (phase : tod = true ∨ bits v 48 16 < phasesPerFrame)
    (free : calFree s a.seat = some idx) (late : lateRule s (addPos a.seat v tod s) = if moved then .delayed p else .onTime p) :
    ∃ q t, calAdd a v tod s = (b2n moved, idx, t) ∧ calAt t idx = addedEntry a.seat v (addPos a.seat v tod s) p q moved := by
  have allowed : ¬ (mirrorRefused s = true ∨ bits v 84 3 = 0 ∨ ¬ calTargetOk s a.seat (bits v 80 4) (bits v 96 16) = true ∨
      (¬ tod = true ∧ phasesPerFrame ≤ bits v 48 16)) := by
    rintro (standby | none_ | other | ⟨direct, beyond⟩)
    · simp [mirror] at standby
    · exact cls none_
    · exact other target
    · exact absurd beyond (Nat.not_le.mpr (phase.resolve_left direct))
  obtain ⟨t, recorded, -⟩ := calRecord_takes room a idx 0 (calImage (addedEntry a.seat v (addPos a.seat v tod s) p (ledgerSeq s) moved))
  refine ⟨lastSeq t, mirrorCal true idx (setCal idx (addedEntry a.seat v (addPos a.seat v tod s) p (lastSeq t) moved) t), ?_, calAt_mirrored ..⟩
  unfold addedEntry addPos at recorded
  unfold addPos at late
  unfold calAdd
  dsimp only at recorded late ⊢
  rw [if_neg allowed, free]
  dsimp only
  rw [late]
  cases moved
  · simp only [Bool.false_eq_true, if_false, recorded]
    rfl
  · simp only [if_true, recorded]
    rfl

/-- An accepted REMOVE (R45). -/
theorem calRemove_accepted {a : Agent} {i : Nat} {s : State} (room : LedgerTakes s) (mirror : mirrorRefused s = false)
    (held : (calAt s i).kind ≠ 0) (user : (calAt s i).kind ≠ 3) (mine : a.seat = 0 ∨ (calAt s i).seat = a.seat) :
    ∃ t, calRemove a i s = (oDone, t) ∧ calAt t i = .empty := by
  obtain ⟨t, recorded, -⟩ := calRecord_takes room a i (calImage (calAt s i)) 0
  refine ⟨mirrorCal true i (setCal i .empty t), ?_, calAt_mirrored ..⟩
  unfold calRemove
  dsimp only
  rw [if_neg, recorded]
  rintro (standby | free | epoch | other)
  · simp [mirror] at standby
  · exact held free
  · exact user epoch
  · exact mine.elim other.2 other.1

/-! Stages and the warm reset. -/

theorem countOutcome_pwr (seat c : Nat) (s : State) : (countOutcome seat c s).pwr = s.pwr := (countOutcome_keeps seat c s).frame .pwr (by decide)

section
variable {a : Agent} {s : State}

/-- An accepted RELEASE or ADVANCE notes what it asks for, and its outcome. -/
theorem stageAccept_takes (room : LedgerTakes s) (v code : Nat) (f : PwrState → PwrState) :
    ∃ t p, stageAccept a v code f s = (code, t) ∧ t.pwr = { f p with stageOutcome := code } := by
  obtain ⟨u, recorded, -⟩ := ledgerMgmt_takes room a 1 0x410 0 v false [] (by simp)
  refine ⟨stageEnd a.seat code { u with pwr := f u.pwr }, u.pwr, ?_, countOutcome_pwr ..⟩
  unfold stageAccept
  rw [recorded]

theorem stageControl_release (n : Nat) (held : s.pwr.bootHold = true) (safe : s.pwr.stage = .safe) (first : s.pwr.released = false) :
    stageControl a (setBits n 0 2 1) s = stageAccept a 1 oDone (fun p => { p with released := true }) s := by
  have release : bit (setBits n 0 2 1) 0 = true := by rw [bit_setBits]; rfl
  have advance : bit (setBits n 0 2 1) 1 = false := by rw [bit_setBits]; rfl
  unfold stageControl
  rw [release, advance]
  exact (if_neg (by decide)).trans ((if_pos rfl).trans ((if_neg (by simp [held, safe])).trans (if_neg (by simp [first]))))

theorem stageControl_advance (n : Nat) (framed : s.pwr.stage = .framed) (first : s.pwr.advPending = false) :
    stageControl a (setBits n 0 2 2) s = stageAccept a 2 oDeferred (fun p => { p with advPending := true }) s := by
  have release : bit (setBits n 0 2 2) 0 = false := by rw [bit_setBits]; rfl
  have advance : bit (setBits n 0 2 2) 1 = true := by rw [bit_setBits]; rfl
  unfold stageControl
  rw [release, advance]
  exact (if_neg (by decide)).trans ((if_neg (by decide)).trans ((if_neg (not_not_intro framed)).trans (if_neg (by simp [first]))))

theorem resetControl_arm (n : Nat) : resetControl a (setBits n 0 17 0xA55A) s = (oDone, { s with pwr := { s.pwr with warmArmed := true } }) := by
  have top : bit (setBits n 0 17 0xA55A) 16 = false := by rw [bit_setBits]; rfl
  exact if_pos ⟨bits_setBits_inside (by decide) .., by simp [top]⟩

theorem resetControl_fire (n : Nat) : resetControl a (setBits n 0 17 0x15AA5) s =
    (if s.pwr.warmArmed then warmFire a { s with pwr := { s.pwr with warmArmed := false } } else (oDone, { s with pwr := { s.pwr with warmArmed := false } })) := by
  have key : bits (setBits n 0 17 0x15AA5) 0 16 = 0x5AA5 := bits_setBits_inside (by decide) ..
  have top : bit (setBits n 0 17 0x15AA5) 16 = true := by rw [bit_setBits]; rfl
  unfold resetControl
  rw [key, top]
  refine (if_neg (by decide)).trans (if_congr ?_ rfl rfl)
  simp

/-- A warm reset that fires leaves the part in DARK (R84, R85). -/
theorem warmFire_dark (room : LedgerTakes s) : (warmFire a s).2.pwr.stage = .dark ∧ (warmFire a s).2.pwr.warmPending = true := by
  obtain ⟨u, recorded, -⟩ := ledgerMgmt_takes room a 0xF 0xFF000001 (stageImage s) 1 false [] (by simp)
  unfold warmFire
  rw [recorded]
  exact ⟨rfl, rfl⟩

end

/-! The ledger's key and spill. -/

section
variable {a : Agent} {s : State}

/-- The state in which a whole key is loaded. -/
def keyLoaded (words : List Nat) (s : State) : State :=
  { s with led := { s.led with keyWords := [] }, pwr := { s.pwr with ret := { s.pwr.ret with key := words.flatMap (leBytes 4) } } }

theorem keyWord_first (v : Nat) : keyWord a 0 v s = (oDone, { s with led := { s.led with keyWords := [v] } }) := rfl

section
variable {j v : Nat} (next : j ≠ 0) (held : s.led.keyWords.length = j)
include next held

theorem keyWord_more (more : j < 7) : keyWord a j v s = (oDone, { s with led := { s.led with keyWords := s.led.keyWords ++ [v] } }) := by
  unfold keyWord
  dsimp only
  rw [if_neg next]
  refine (if_neg fun wrong => wrong.2 held).trans (if_pos ?_)
  rw [List.length_append, held]
  exact Nat.succ_lt_succ more

/-- The eighth word loads the key (R137). -/
theorem keyWord_last (last : j = 7) (room : LedgerTakes s) : ∃ t, keyWord a j v s = (oDone, t) ∧ t.led.keyWords = [] ∧
    t.pwr.ret.key = (s.led.keyWords ++ [v]).flatMap (leBytes 4) := by
  obtain ⟨u, recorded, -⟩ := ledgerMgmt_takes room a 0x23 0xFF000000 (fingerprint s.pwr.ret.key)
    (fingerprint ((s.led.keyWords ++ [v]).flatMap (leBytes 4))) false [] (by simp)
  have kept : Keeps [.host, .regs] (keyLoaded (s.led.keyWords ++ [v]) u) (setCauseP 0x7C0030 4 (keyLoaded (s.led.keyWords ++ [v]) u)) :=
    keeps_setCauseP (by decide) (by decide) _ _ _ (.refl _ _)
  refine ⟨_, ?_, congrArg LedgerState.keyWords (kept.frame .led (by decide)), congrArg (fun p : PwrState => p.ret.key) (kept.frame .pwr (by decide))⟩
  unfold keyWord
  dsimp only
  rw [if_neg next]
  refine (if_neg fun wrong => wrong.2 held).trans ((if_neg ?_).trans ?_)
  · rw [List.length_append, held, last]
    exact Nat.lt_irrefl 8
  · rw [recorded]
    rfl

end

theorem spillCons_takes {v : Nat} (behind : (v + 2 ^ 32 - s.led.cons) % 2 ^ 32 ≤ (spillProd s + 2 ^ 32 - s.led.cons) % 2 ^ 32) :
    spillCons a v s = (oDone, let u : State := { s with led := { s.led with cons := v } }
      if spillEn s && spillPull s then reportLoss (ledgerDrain (releaseTo v u)) else u) :=
  if_neg (Nat.not_lt.mpr behind)

end

/-! Strands and DMA channels. -/

section
variable {a : Agent} {n v : Nat} {s : State}

/-- A management record leaves the strands and the channels. -/
theorem recorded_st {kind object old new : Nat} {conts : List Nat} {t : State} (recorded : ledgerMgmt a kind object old new false conts s = some t) :
    t.st = s.st := (ledgerMgmt_keeps recorded).frame .st (by decide)

/-- A command to a strand is recorded, and its outcome noted (R195). -/
theorem stCommand_takes {cmd o : Nat} {f : State → State} (room : LedgerTakes s) (one : 1 ≤ cmd ∧ cmd ≤ 4)
    (acts : ∀ u : State, u.st = s.st → stAction a n cmd u = (o, f u)) :
    ∃ t, stCommand a n (setBits v 0 3 cmd) s = (oDone, t) ∧
      Recorded a 1 (0x40008 + 0x100 * n) 0 cmd [] s (fun u => countOutcome a.seat o (modStrand n (fun x => { x with lastOutcome := o }) (f u))) t := by
  have field : setBits v 0 3 cmd % 8 = cmd := by
    have low := bits_setBits_low v 3 cmd
    simp only [bits, Nat.shiftRight_zero] at low
    omega
  obtain ⟨u, recorded, -⟩ := ledgerMgmt_takes room a 1 (0x40008 + 0x100 * n) 0 cmd false [] (by simp)
  refine ⟨_, ?_, u, recorded, rfl⟩
  unfold stCommand
  dsimp only
  rw [field, if_neg (by omega), recorded]
  dsimp only
  rw [acts u (recorded_st recorded)]

theorem stAction_start_idle (idle : (strandAt s n).mode = .idle) : stAction a n 1 s = (oDone, startIdle n (BitVec.ofNat 32 (stArgOf s n)) s) := by
  show startStrand n _ s = _
  unfold startStrand
  dsimp only
  rw [idle]

theorem stAction_start_busy (busy : (strandAt s n).mode ≠ .idle) (on : (strandAt s n).mode ≠ .disabled) (first : (strandAt s n).pending = none) :
    stAction a n 1 s = (oDeferred, setStrand n { strandAt s n with pending := some (BitVec.ofNat 32 (stArgOf s n)) } s) := by
  show startStrand n _ s = _
  unfold startStrand
  dsimp only
  split
  · next off => exact absurd off on
  · next idle => exact absurd idle busy
  · exact if_pos first

theorem stAction_retry (trapped : (strandAt s n).mode = .trapped) : stAction a n 2 s = (oDone, resumeStrand n false s) := if_pos trapped
theorem stAction_skip (trapped : (strandAt s n).mode = .trapped) : stAction a n 3 s = (oDone, resumeStrand n true s) := if_pos trapped
theorem stAction_abort (on : (strandAt s n).mode ≠ .disabled) : stAction a n 4 s = (oDone, abortBy a n s) := if_neg on

/-- A word of a strand's context is put where the strand is IDLE or TRAPPED (R194). -/
theorem ctxWrite_takes {off : Nat} (room : LedgerTakes s) (still : (strandAt s n).mode = .idle ∨ (strandAt s n).mode = .trapped) :
    ∃ t, ctxWrite a n off v s = (oDone, t) ∧ strandAt t n = ctxPut off v (strandAt s n) := by
  obtain ⟨u, recorded, -⟩ := ledgerMgmt_takes room a 1 (0x40000 + 0x100 * n + off) (ctxWord s n off)
    (ctxWord (setStrand n (ctxPut off v (strandAt s n)) s) n off) false [] (by simp)
  unfold ctxWrite
  dsimp only
  rw [if_neg (by tauto)]
  by_cases same : ctxPut off v (strandAt s n) = strandAt s n
  · exact ⟨s, if_pos same, same.symm⟩
  · rw [if_neg same, recorded]
    exact ⟨_, rfl, strandAt_setStrand_self ..⟩

theorem setBits_field {cmd : Nat} (small : cmd < 4) : setBits v 0 2 cmd % 4 = cmd := by
  have low := bits_setBits_low v 2 cmd
  simp only [bits, Nat.shiftRight_zero] at low
  omega

theorem dmaCommand_one {v : Nat} (field : v % 4 = 1) : dmaCommand a n v s = (match ledgerMgmt a 1 (0x21008 + 0x40 * n) 0 1 false [] s with
    | none => (oLedger, s)
    | some t => (oDone, countOutcome (chanSeat s n) (dmaStartBy n t).1 (dmaStartBy n t).2)) := by
  unfold dmaCommand
  rw [field] <;> rfl

theorem dmaCommand_two {v : Nat} (field : v % 4 = 2) : dmaCommand a n v s = (match ledgerMgmt a 1 (0x21008 + 0x40 * n) 0 2 false [] s with
    | none => (oLedger, s)
    | some t => (oDone, countOutcome (chanSeat s n) oDone (dmaStop n t))) := by
  unfold dmaCommand
  rw [field] <;> rfl

/-- START of a channel that can be started, in the state that its record leaves (R201). -/
theorem dmaCommand_start (room : LedgerTakes s) (ready_ : (chanAt s n).mode = .idle ∨ (chanAt s n).mode = .faulted)
    (reach : ∀ u, ledgerMgmt a 1 (0x21008 + 0x40 * n) 0 1 false [] s = some u → descReach u (chanSeat u n) (chanDesc u n) = true) :
    ∃ t, dmaCommand a n (setBits v 0 2 1) s = (oDone, t) ∧ Recorded a 1 (0x21008 + 0x40 * n) 0 1 [] s (fun u =>
      let x := runDesc chainMax n (chanDesc u n) u
      countOutcome (chanSeat s n) 0 (setChan n { chanAt x n with startOutcome := 0 } x)) t := by
  obtain ⟨u, recorded, kept⟩ := ledgerMgmt_takes room a 1 (0x21008 + 0x40 * n) 0 1 false [] (by simp)
  have dma : u.dma = s.dma := kept.frame .dma (by decide)
  have chan : chanAt u n = chanAt s n := by rw [chanAt, dma]; rfl
  refine ⟨_, ?_, u, recorded, rfl⟩
  have starts : dmaStart n (chanDesc u n) u = (oDone, runDesc chainMax n (chanDesc u n) u) := by
    refine (if_neg ?_).trans (if_neg (not_not_intro (reach u recorded)))
    rw [chan]
    tauto
  rw [dmaCommand_one (setBits_field (by decide)), recorded]
  dsimp only
  unfold dmaStartBy
  rw [starts]
  rfl

theorem dmaCommand_stop (room : LedgerTakes s) : ∃ t, dmaCommand a n (setBits v 0 2 2) s = (oDone, t) ∧
    Recorded a 1 (0x21008 + 0x40 * n) 0 2 [] s (fun u => countOutcome (chanSeat s n) 0 (dmaStop n u)) t := by
  obtain ⟨u, recorded, -⟩ := ledgerMgmt_takes room a 1 (0x21008 + 0x40 * n) 0 2 false [] (by simp)
  refine ⟨_, ?_, u, recorded, rfl⟩
  rw [dmaCommand_two (setBits_field (by decide)), recorded]
  rfl

end

/-! Rotations. -/

/-- Whether a rotation takes a command of FAB_ROT_CMD, and what it changes (R267). -/
def rotEffect (lo : Bool) (cmd : Nat) (s : State) : Bool × (Rotation → Rotation) :=
  let r := rotAt s lo
  let rest := tileAt lo r r.resting
  match cmd with
  | 1 => (rest.mode == .failed || rest.mode == .suspect, fun r => modTile lo r.resting (fun x => { x with runPass := 0 }) { r with retest := 4 })
  | 2 => (r.phase == .halted && (tileAt lo r (serverOf lo r r.cursor)).mode == .suspect && !rbit s (kP 0x100000) 4,
      fun r => { r with phase := .waitSwap, suspectSwap := true, handover := s.lt.frame + 1 })
  | 3 => (rotEn s lo && r.phase == .bist, fun r => { r with stepDue := true })
  | _ => (false, id)

theorem rotCommand_effect (a : Agent) (v : Nat) (s : State) : rotCommand a v s =
    (let lo := bit v 2
     let r := rotAt s lo
     let e := rotEffect lo (bits v 0 2) s
     if ¬ e.1 then (oSeat, s)
     else match ledgerMgmt a 1 0x100110 0 (v % 8) false [] s with
       | none => (oLedger, s)
       | some u => (oDone, modRot lo e.2 (tileRecord lo r.resting (serverOf lo r r.cursor) 6 r.cursor u))) := rfl

theorem modRot_congr {lo : Bool} {f g : Rotation → Rotation} {s : State} (same : f (rotAt s lo) = g (rotAt s lo)) : modRot lo f s = modRot lo g s :=
  congrArg (fun r => setRot lo r s) same

/-- The record of a tile leaves the rotations. -/
theorem rotAt_tileRecord (lo lo' : Bool) (incoming outgoing event group : Nat) (s : State) :
    rotAt (tileRecord lo incoming outgoing event group s) lo' = rotAt s lo' := by
  have fab : (tileRecord lo incoming outgoing event group s).fab = s.fab :=
    (keeps_tileRecord (W := [.pwr, .host, .led, .mate, .flt, .regs]) (by decide) (by decide) (by decide) (by decide) (by decide) (by decide)
      lo incoming outgoing event group s (.refl _ s)).frame .fab (by decide)
  unfold rotAt
  rw [fab]

/-- A command that the rotation takes is recorded and acts. -/
theorem hostRotCmd_takes {a : Agent} {n cmd : Nat} {s : State} {f : Rotation → Rotation} (room : LedgerTakes s) (one : 1 ≤ cmd ∧ cmd < 4)
    (allowed : (rotEffect (bit n 2) cmd s).1 = true)
    (effect : (rotEffect (bit n 2) cmd s).2 (rotAt s (bit n 2)) = f (rotAt s (bit n 2))) :
    let lo := bit n 2
    let r := rotAt s lo
    ∃ x t, hostRotCmd a (setBits n 0 2 cmd) s = (x, t) ∧ Recorded a 1 0x100110 0 (setBits n 0 2 cmd % 8) [] s (fun u => countOutcome 0 0
      (modRot lo (fun q => { q with cmdOutcome := 0 }) (modRot lo f (tileRecord lo r.resting (serverOf lo r r.cursor) 6 r.cursor u)))) t := by
  intro lo r
  have which : bit (setBits n 0 2 cmd) 2 = lo := bit_setBits_apart (by decide) ..
  have field : bits (setBits n 0 2 cmd) 0 2 = cmd := (bits_setBits_inside (Nat.le_refl 2) n cmd).trans (by omega)
  obtain ⟨u, recorded, kept⟩ := ledgerMgmt_takes room a 1 0x100110 0 (setBits n 0 2 cmd % 8) false [] (by simp)
  have still : rotAt (tileRecord lo r.resting (serverOf lo r r.cursor) 6 r.cursor u) lo = rotAt s lo := by
    have fab : u.fab = s.fab := kept.frame .fab (by decide)
    rw [rotAt_tileRecord]
    unfold rotAt
    rw [fab]
  refine ⟨oDone, _, ?_, u, recorded, rfl⟩
  have same : modRot lo (rotEffect lo cmd s).2 (tileRecord lo r.resting (serverOf lo r r.cursor) 6 r.cursor u) =
      modRot lo f (tileRecord lo r.resting (serverOf lo r r.cursor) 6 r.cursor u) := modRot_congr (by rw [still]; exact effect)
  unfold hostRotCmd
  rw [rotCommand_effect]
  dsimp only
  rw [if_neg (by rw [setBits_field one.2]; omega), which, field, if_neg (not_not_intro allowed), recorded]
  exact congrArg (fun t => (oDone, countOutcome 0 0 (modRot lo (fun q => { q with cmdOutcome := 0 }) t))) same

end Sys2Proof.Machine
end

section
/-!
PROOFS. The command registers, first part: each row's write is its register's command, and an accepted one has its own effect.
-/
namespace Sys2Proof.Machine

open Sys2Proof

section
variable {a : Agent} {n : Nat} {s : State}

theorem calControl_added {idx p : Nat} {moved : Bool} (room : LedgerTakes s) (mirror : mirrorRefused s = false)
    (cls : bits (rget s (kS a.seat 0x10A0)) 84 3 ≠ 0)
    (target : calTargetOk s a.seat (bits (rget s (kS a.seat 0x10A0)) 80 4) (bits (rget s (kS a.seat 0x10A0)) 96 16) = true)
    (phase : bit n 2 = true ∨ bits (rget s (kS a.seat 0x10A0)) 48 16 < phasesPerFrame) (free : calFree s a.seat = some idx)
    (late : lateRule s (addPos a.seat (rget s (kS a.seat 0x10A0)) (bit n 2) s) = if moved then .delayed p else .onTime p) :
    let t := (calControl a (setBits n 0 2 1) s).2
    (∃ q, calAt t idx =
      addedEntry a.seat (rget s (kS a.seat 0x10A0)) (addPos a.seat (rget s (kS a.seat 0x10A0)) (bit n 2) s) p q moved) ∧
      (seatLt t a.seat).calOutcome = b2n moved ∧ (seatLt t a.seat).calIndex = idx := by
  obtain ⟨q, t, added, entry⟩ := calAdd_accepted room mirror cls target phase free late
  rw [calControl_add, added]
  dsimp only
  rw [calAt_requestEnds, seatLt_requestEnds]
  exact ⟨⟨q, entry⟩, rfl, rfl⟩

theorem calControl_removed (room : LedgerTakes s) (mirror : mirrorRefused s = false) (held : (calAt s (bits n 16 10)).kind ≠ 0)
    (user : (calAt s (bits n 16 10)).kind ≠ 3) (mine : a.seat = 0 ∨ (calAt s (bits n 16 10)).seat = a.seat) :
    let t := (calControl a (setBits n 0 2 2) s).2
    calAt t (bits n 16 10) = .empty ∧ (seatLt t a.seat).calOutcome = 0 := by
  obtain ⟨t, removed, entry⟩ := calRemove_accepted room mirror held user mine
  rw [calControl_remove, removed]
  dsimp only
  rw [calAt_requestEnds, seatLt_requestEnds]
  exact ⟨entry, rfl⟩

theorem commitControl_joined {p idx : Nat} {moved : Bool} {new : List (Nat × Nat)} (ok : GoOk a (goTarget a.seat n s) s p moved idx new) :
    let t := (commitControl a (setBit (clrBit n 2) 0) s).2
    Joined a.seat (goFrame s (goWrites s a.seat new) p) (goWrites s a.seat new) s t ∧ (seatLt t a.seat).group = [] ∧
      (seatLt t a.seat).outcome = 0x02 := by
  obtain ⟨t, accepted, ⟨g, groups, rest⟩, empty⟩ := goGroup_accepted ok
  rw [commitControl_go, accepted]
  dsimp only
  unfold Joined
  rw [groups_requestEnds, seatLt_requestEnds]
  exact ⟨⟨g, groups, rest⟩, empty, rfl⟩

theorem commitControl_cancelled {g : CommitGroup} (ok : CancelOk a (bits n 8 8) s g) :
    let t := (commitControl a (setBit (clrBit n 0) 2) s).2
    t.lt.groups = s.lt.groups.filter (fun h => ¬ (h.seat = g.seat ∧ h.ident = g.ident)) ∧ (seatLt t a.seat).outcome = 0 := by
  obtain ⟨t, accepted, groups⟩ := cancelGroup_accepted ok
  rw [commitControl_cancel, accepted]
  dsimp only
  rw [groups_requestEnds, seatLt_requestEnds]
  exact ⟨groups, rfl⟩

theorem stageControl_released (room : LedgerTakes s) (held : s.pwr.bootHold = true) (safe : s.pwr.stage = .safe) (first : s.pwr.released = false) :
    let t := (stageControl a (setBits n 0 2 1) s).2
    t.pwr.released = true ∧ t.pwr.stageOutcome = 0 := by
  obtain ⟨t, p, accepted, noted⟩ := stageAccept_takes room 1 oDone (fun p => { p with released := true }) (a := a)
  rw [stageControl_release n held safe first, accepted]
  exact ⟨congrArg PwrState.released noted, congrArg PwrState.stageOutcome noted⟩

theorem stageControl_advanced (room : LedgerTakes s) (framed : s.pwr.stage = .framed) (first : s.pwr.advPending = false) :
    let t := (stageControl a (setBits n 0 2 2) s).2
    t.pwr.advPending = true ∧ t.pwr.stageOutcome = 0x02 := by
  obtain ⟨t, p, accepted, noted⟩ := stageAccept_takes room 2 oDeferred (fun p => { p with advPending := true }) (a := a)
  rw [stageControl_advance n framed first, accepted]
  exact ⟨congrArg PwrState.advPending noted, congrArg PwrState.stageOutcome noted⟩

end

section
variable {w : HostWho} {v : BitVec 32} {s : State}

/-- The rows of ST_CMD complete with the effect of their command on the strand (R195). -/
theorem completes_stCmd {i : Instr} {k : BitVec 6} {cmd o : Nat} {ok : RegAt → Prop} {f : RegAt → State → State}
    (row : exec i s = rowWrite w (0x40008 + 0x100 * k.toNat) (setBits v.toNat 0 3 cmd) s) (one : 1 ≤ cmd ∧ cmd ≤ 4)
    (acts : ∀ r (u : State), u.st = s.st → ok r → stAction (hostAgent w) r.i cmd u = (o, f r u)) :
    Completes i w (0x40008 + 0x100 * k.toNat) .stCmd s (fun r => LedgerTakes s ∧ ok r) (fun r t =>
      Recorded (hostAgent w) 1 (0x40008 + 0x100 * r.i) 0 cmd [] s
        (fun u => countOutcome (hostAgent w).seat o (modStrand r.i (fun x => { x with lastOutcome := o }) (f r u))) t) :=
  completes_done row fun r name ⟨room, allowed⟩ => by
    rw [regWriteVal_stCmd name]
    exact stCommand_takes room one fun u same => acts r u same allowed

/-- The rows of FAB_ROT_CMD complete with the effect of their command on the rotation (R267). -/
theorem completes_fabRotCmd {i : Instr} {cmd : Nat} {ok : Prop} {f : Rotation → Rotation}
    (row : exec i s = rowWrite w 0x100110 (setBits v.toNat 0 2 cmd) s) (one : 1 ≤ cmd ∧ cmd < 4)
    (allowed : ok → (rotEffect (bit v.toNat 2) cmd s).1 = true)
    (effect : (rotEffect (bit v.toNat 2) cmd s).2 (rotAt s (bit v.toNat 2)) = f (rotAt s (bit v.toNat 2))) :
    Completes i w 0x100110 .fabRotCmd s (fun _ => LedgerTakes s ∧ ok) (fun _ t =>
      let lo := bit v.toNat 2
      let r := rotAt s lo
      Recorded (hostAgent w) 1 0x100110 0 (setBits v.toNat 0 2 cmd % 8) [] s (fun u => countOutcome 0 0
        (modRot lo (fun q => { q with cmdOutcome := 0 }) (modRot lo f (tileRecord lo r.resting (serverOf lo r r.cursor) 6 r.cursor u)))) t) :=
  completes_done row fun r name ⟨room, met⟩ => by
    obtain ⟨x, t, acts, effects⟩ := hostRotCmd_takes (a := hostAgent w) room one (allowed met) effect
    refine ⟨t, ?_, effects⟩
    rw [regWriteVal_fabRotCmd name, acts]

/-- The rows of a strand's context complete with the word put (R194). -/
theorem completes_stCtx {k : BitVec 6} {o : BitVec 8} :
    Completes (.stCtxWrite w k o v) w (0x40000 + 0x100 * k.toNat + o.toNat / 4 * 4) .stCtx s
      (fun r => LedgerTakes s ∧ ((strandAt s r.i).mode = .idle ∨ (strandAt s r.i).mode = .trapped))
      (fun r t => strandAt t r.i = ctxPut (0x20 + 4 * r.j) v.toNat (strandAt s r.i)) :=
  completes_done rfl fun r name ⟨room, still⟩ => by
    rw [regWriteVal_stCtx name]
    exact ctxWrite_takes room still

theorem completes_stG {k : BitVec 6} {o : BitVec 8} :
    Completes (.stCtxWrite w k o v) w (0x40000 + 0x100 * k.toNat + o.toNat / 4 * 4) .stG s
      (fun r => LedgerTakes s ∧ ((strandAt s r.i).mode = .idle ∨ (strandAt s r.i).mode = .trapped))
      (fun r t => strandAt t r.i = ctxPut (0x40 + 4 * r.j) v.toNat (strandAt s r.i)) :=
  completes_done rfl fun r name ⟨room, still⟩ => by
    rw [regWriteVal_stG name]
    exact ctxWrite_takes room still

/-- The words of LEDGER_KEY complete, one after the other (R137). -/
theorem completes_ledgerKey {j : BitVec 3} :
    Completes (.ledgerKeyWrite w j v) w (0x7C0040 + 4 * j.toNat) .ledgerKey s
      (fun r => LedgerTakes s ∧ r.j = j.toNat ∧ j ≠ 0 ∧ s.led.keyWords.length = j.toNat)
      (fun _ t => (j ≠ 7 → t.led.keyWords = s.led.keyWords ++ [v.toNat]) ∧
        (j = 7 → t.led.keyWords = [] ∧ t.pwr.ret.key = (s.led.keyWords ++ [v.toNat]).flatMap (leBytes 4))) :=
  completes_done rfl fun r name ⟨room, word, later, held⟩ => by
    have next : j.toNat ≠ 0 := fun zero => later (BitVec.eq_of_toNat_eq zero)
    rw [regWriteVal_ledgerKey name, word]
    by_cases last : j = 7
    · subst last
      obtain ⟨t, loads, empty, key⟩ := keyWord_last (a := hostAgent w) (v := v.toNat) next held rfl room
      exact ⟨t, loads, fun other => absurd rfl other, fun _ => ⟨empty, key⟩⟩
    · have more : j.toNat < 7 := by
        have : j.toNat ≠ 7 := fun seven => last (BitVec.eq_of_toNat_eq seven)
        omega
      exact ⟨_, keyWord_more next held more, fun _ => rfl, fun seven => absurd seven last⟩

end

theorem bit_setBit_self (v k : Nat) : bit (setBit v k) k = true := by rw [bit_setBit, if_pos rfl]

/-- Settles O57: a row's write is the command of its register's name; where the command is accepted, the ledger has room for its record. -/
theorem commandRegisters : Obligations.CommandRegisters := by
  refine ⟨fun w v s => ⟨?_, ?_, ?_, ?_, ?_, ?_, ?_, ?_, ?_, fun j => ?_, ?_, fun k => ⟨?_, ?_, ?_, ?_, fun o => ⟨?_, ?_⟩⟩, fun high => ?_,
      fun c => ⟨?_, ?_⟩, fun p => ?_, ?_, ?_, ?_⟩,
    fun w v s => ⟨?_, fun idx p moved => ?_, ?_, fun p idx moved new => ?_, fun g => ?_, ?_, ?_, ?_, ?_, fun j => ⟨?_, ?_⟩, ?_,
      fun k => ⟨?_, ?_, ?_, ?_, ?_, fun o => ⟨completes_stCtx, completes_stG⟩⟩, fun high => ?_, fun c => ⟨?_, ?_⟩, fun p => ?_, ?_, ?_, ?_⟩⟩
  · exact writes_row rfl fun _ name => regWriteVal_hostErrClr name (bit_setBit_self ..)
  · exact writes_row rfl fun _ name => regWriteVal_ltCalCtl name
  · exact writes_row rfl fun _ name => regWriteVal_ltCalCtl name
  · exact writes_row rfl fun _ name => regWriteVal_ltCommitCtl name
  · exact writes_row rfl fun _ name => regWriteVal_ltCommitCtl name
  · exact writes_row rfl fun _ name => regWriteVal_pwrStageCtl name
  · exact writes_row rfl fun _ name => regWriteVal_pwrStageCtl name
  · exact writes_row rfl fun _ name => (regWriteVal_pwrResetCtl name).trans (by rw [resetControl_arm]; rfl)
  · exact writes_row rfl fun _ name => (regWriteVal_pwrResetCtl name).trans (by rw [resetControl_fire]; split <;> rfl)
  · exact writes_row rfl fun _ name => regWriteVal_ledgerKey name
  · exact writes_row rfl fun _ name => regWriteVal_ledgerSpillCons name
  · exact writes_row rfl fun _ name => regWriteVal_stCmd name
  · exact writes_row rfl fun _ name => regWriteVal_stCmd name
  · exact writes_row rfl fun _ name => regWriteVal_stCmd name
  · exact writes_row rfl fun _ name => regWriteVal_stCmd name
  · exact writes_row rfl fun _ name => regWriteVal_stCtx name
  · exact writes_row rfl fun _ name => regWriteVal_stG name
  · exact writes_row rfl fun _ name => regWriteVal_stEventSet name
  · exact writes_row rfl fun _ name => regWriteVal_dmaChCmd name
  · exact writes_row rfl fun _ name => regWriteVal_dmaChCmd name
  · exact writes_row rfl fun _ name => regWriteVal_lpCntClr name (bit_setBit_self ..)
  · exact writes_row rfl fun _ name => regWriteVal_fabRotCmd name
  · exact writes_row rfl fun _ name => regWriteVal_fabRotCmd name
  · exact writes_row rfl fun _ name => regWriteVal_fabRotCmd name
  · exact completes_done rfl fun _ name _ => ⟨_, regWriteVal_hostErrClr name (bit_setBit_self ..), rfl⟩
  · exact completes_done rfl fun _ name ⟨room, mirror, cls, target, phase, free, late⟩ =>
      ⟨_, regWriteVal_ltCalCtl name, calControl_added room mirror cls target phase free late⟩
  · exact completes_done rfl fun _ name ⟨room, mirror, held, user, mine⟩ =>
      ⟨_, regWriteVal_ltCalCtl name, calControl_removed room mirror held user mine⟩
  · exact completes_done rfl fun _ name ok => ⟨_, regWriteVal_ltCommitCtl name, commitControl_joined ok⟩
  · exact completes_done rfl fun _ name ok => ⟨_, regWriteVal_ltCommitCtl name, commitControl_cancelled ok⟩
  · exact completes_done rfl fun _ name ⟨room, held, safe, first⟩ =>
      ⟨_, regWriteVal_pwrStageCtl name, stageControl_released room held safe first⟩
  · exact completes_done rfl fun _ name ⟨room, framed, first⟩ => ⟨_, regWriteVal_pwrStageCtl name, stageControl_advanced room framed first⟩
  · exact completes_done rfl fun _ name _ => ⟨_, regWriteVal_pwrResetCtl name, by rw [resetControl_arm]⟩
  · exact completes_done rfl fun _ name ⟨armed, room⟩ => ⟨_, regWriteVal_pwrResetCtl name, by
      rw [resetControl_fire, if_pos armed]
      exact warmFire_dark room⟩
  · exact completes_row rfl fun r name _ zero => by rw [regWriteVal_ledgerKey name, zero, keyWord_first, hostEnd_done]
  · exact completes_ledgerKey
  · exact completes_done rfl fun _ name behind => ⟨_, (regWriteVal_ledgerSpillCons name).trans (spillCons_takes behind), rfl⟩
  · exact completes_stCmd rfl (by decide) fun r u same idle => stAction_start_idle (by rw [strandAt_of_st same]; exact idle)
  · exact completes_stCmd rfl (by decide) fun r u same ⟨busy, on, first⟩ =>
      stAction_start_busy (by rw [strandAt_of_st same]; exact busy) (by rw [strandAt_of_st same]; exact on) (by rw [strandAt_of_st same]; exact first)
  · exact completes_stCmd rfl (by decide) fun r u same trapped => stAction_retry (by rw [strandAt_of_st same]; exact trapped)
  · exact completes_stCmd rfl (by decide) fun r u same trapped => stAction_skip (by rw [strandAt_of_st same]; exact trapped)
  · exact completes_stCmd rfl (by decide) fun r u same on => stAction_abort (by rw [strandAt_of_st same]; exact on)
  · exact completes_done rfl fun _ name _ => ⟨_, regWriteVal_stEventSet name, rfl⟩
  · exact completes_done rfl fun _ name ⟨room, ready_, reach⟩ => by
      rw [regWriteVal_dmaChCmd name]
      exact dmaCommand_start room ready_ reach
  · exact completes_done rfl fun _ name ⟨room, _⟩ => by
      rw [regWriteVal_dmaChCmd name]
      exact dmaCommand_stop room
  · exact completes_done rfl fun _ name _ => ⟨_, regWriteVal_lpCntClr name (bit_setBit_self ..), rfl⟩
  · exact completes_fabRotCmd rfl (by decide) (fun out => by simpa [rotEffect] using out) rfl
  · exact completes_fabRotCmd rfl (by decide) (fun ⟨halted, suspect, auto⟩ => by simp [rotEffect, halted, suspect, auto]) rfl
  · exact completes_fabRotCmd rfl (by decide) (fun ⟨on, tests⟩ => by simp [rotEffect, on, tests]) rfl

end Sys2Proof.Machine
end

section
/-!
PROOFS. Command registers of the later blocks: attach and detach (R288), the Keeper's override (R291), the rein's commands (R305, R308), I²C jobs (R369),
scan and radio jobs and self-tests (R390, R403, R418, R433), the first-error latch (R477), and a protection object's command word (R270, R284).
-/
namespace Sys2Proof.Machine

open Sys2Proof

theorem bits_forced {v cmd : Nat} (small : cmd < 4) : bits (setBits v 0 2 cmd) 0 2 = cmd :=
  (bits_setBits_inside (Nat.le_refl 2) v cmd).trans (Nat.mod_eq_of_lt small)

theorem pathAt_modPath (pk : Nat) (f : PathState → PathState) (s : State) : pathAt (modPath pk f s) pk = f (pathAt s pk) :=
  (tget_tset ..).trans (if_pos rfl)

theorem pathAt_of_host {s t : State} (h : t.host = s.host) (pk : Nat) : pathAt t pk = pathAt s pk := by
  unfold pathAt
  rw [h]

theorem expectAt_of_prot {s t : State} (h : t.prot = s.prot) (i : Nat) : expectAt t i = expectAt s i := by
  unfold expectAt
  rw [h]

theorem connAt_of_fab {s t : State} (h : t.fab = s.fab) (n : Nat) : connAt t n = connAt s n := by
  unfold connAt
  rw [h]

section
variable (seat code : Nat) (s : State)

theorem countOutcome_host : (countOutcome seat code s).host = s.host := (countOutcome_keeps seat code s).frame .host (by decide)
theorem countOutcome_fab : (countOutcome seat code s).fab = s.fab := (countOutcome_keeps seat code s).frame .fab (by decide)
theorem countOutcome_prot : (countOutcome seat code s).prot = s.prot := (countOutcome_keeps seat code s).frame .prot (by decide)
theorem countOutcome_mate : (countOutcome seat code s).mate = s.mate := (countOutcome_keeps seat code s).frame .mate (by decide)
theorem countOutcome_cam : (countOutcome seat code s).cam = s.cam := (countOutcome_keeps seat code s).frame .cam (by decide)
theorem countOutcome_radio : (countOutcome seat code s).radio = s.radio := (countOutcome_keeps seat code s).frame .radio (by decide)
theorem countOutcome_flt : (countOutcome seat code s).flt = s.flt := (countOutcome_keeps seat code s).frame .flt (by decide)

end

/-! Attach and detach (R288). -/

section
variable {a : Agent} {n : Nat} {s : State}

/-- PX_CMD that ends with an outcome and an index, shown to its path. -/
def proofEnds (a : Agent) (x : Nat × Nat × State) : State :=
  countOutcome a.seat x.1 (modPath a.pk (fun p => { p with pxOutcome := x.1, pxIndex := x.2.1 }) x.2.2)

theorem pxCommand_attach : (pxCommand a (setBits n 24 2 1) s).2 = proofEnds a (stageAttach a (bits n 0 24) (rget s (kPath a.pk 0xC0300)) s) := by
  have set : bit (setBits n 24 2 1) 24 = true := by rw [bit_setBits]; rfl
  have clear : bit (setBits n 24 2 1) 25 = false := by rw [bit_setBits]; rfl
  unfold pxCommand
  rw [set, clear, bits_setBits_apart (by decide)]
  rfl

theorem pxCommand_detach : (pxCommand a (setBits n 24 2 2) s).2 = proofEnds a (stageDetach a (bits n 0 24) (bits n 26 1) s) := by
  have set : bit (setBits n 24 2 2) 24 = false := by rw [bit_setBits]; rfl
  have clear : bit (setBits n 24 2 2) 25 = true := by rw [bit_setBits]; rfl
  unfold pxCommand
  rw [set, clear, bits_setBits_apart (by decide), bits_setBits_apart (by decide)]
  rfl

theorem pathAt_proofEnds {o j : Nat} {t : State} :
    (pathAt (proofEnds a (o, j, t)) a.pk).pxOutcome = o ∧ (pathAt (proofEnds a (o, j, t)) a.pk).pxIndex = j := by
  unfold proofEnds
  rw [pathAt_of_host (countOutcome_host ..), pathAt_modPath]
  exact ⟨rfl, rfl⟩

theorem staged_proofEnds {o j key v : Nat} {t : State} (staged : Staged a.seat key v s t) : Staged a.seat key v s (proofEnds a (o, j, t)) :=
  staged.of_lt rfl (countOutcome_lt ..)

theorem pxCommand_attached {q p j : Nat} (ok : AttachOk a (bits n 0 24) (rget s (kPath a.pk 0xC0300)) s q p j) :
    let body := { bodyOf (rget s (kPath a.pk 0xC0300)) with port := p }
    let t := (pxCommand a (setBits n 24 2 1) s).2
    Staged a.seat (expectKey j) (bodyVal body) s t ∧ expectAt t j = some ⟨body, q, a.seat, .pending, 0, 0, 0, 0, 0, 0⟩ ∧
      (pathAt t a.pk).pxOutcome = 0 ∧ (pathAt t a.pk).pxIndex = j := by
  obtain ⟨t, accepted, staged, entry⟩ := stageAttach_accepted ok
  rw [pxCommand_attach, accepted]
  refine ⟨staged_proofEnds staged, ?_, pathAt_proofEnds⟩
  exact (expectAt_of_prot (countOutcome_prot ..) j).trans entry

theorem pxCommand_detached {q j : Nat} (ok : DetachOk a (bits n 0 24) (bits n 26 1) s q j) :
    let t := (pxCommand a (setBits n 24 2 2) s).2
    Staged a.seat (expectKey j) 0 s t ∧ (pathAt t a.pk).pxOutcome = 0 ∧ (pathAt t a.pk).pxIndex = j := by
  obtain ⟨t, accepted, staged⟩ := stageDetach_accepted ok
  rw [pxCommand_detach, accepted]
  exact ⟨staged_proofEnds staged, pathAt_proofEnds⟩

end

/-! The Keeper's override (R291). -/

theorem connAt_modConn (n k : Nat) (f : Conn → Conn) (s : State) : connAt (modConn n f s) k = if n = k then f (connAt s n) else connAt s k := by
  unfold connAt modConn tmod
  rw [tget_tset]

section
variable (s : State)

theorem mirrorItem_fab (m : Bool) (space addr seq : Nat) (data : List Byte) : (mirrorItem m space addr seq data s).fab = s.fab :=
  (keeps_mirrorItem (W := [.mate]) (by decide) m space addr seq data s (.refl _ s)).frame .fab (by decide)

theorem pxCause_fab (n k : Nat) : (pxCause n k s).fab = s.fab :=
  (keeps_pxCause (W := [.host, .regs]) (by decide) (by decide) n k s (.refl _ s)).frame .fab (by decide)

theorem pxEvent_fab (n : Nat) : (pxEvent n s).fab = s.fab :=
  (keeps_pxEvent (W := [.host, .st]) (by decide) (by decide) n s (.refl _ s)).frame .fab (by decide)

theorem connRecord_fab (unit n old new cause : Nat) : (connRecord unit n old new cause s).fab = s.fab :=
  (keeps_connRecord (W := [.pwr, .host, .led, .mate, .flt, .regs]) (by decide) (by decide) (by decide) (by decide) (by decide) (by decide)
    unit n old new cause s (.refl _ s)).frame .fab (by decide)

/-- A connection's override stands while its state changes. -/
theorem connTo_override (n k : Nat) (m : ConnMode) (cause : Nat) : (connAt (connTo n m cause s) k).override = (connAt s k).override := by
  unfold connTo
  dsimp only
  split
  · rfl
  · rw [connAt_of_fab (mirrorItem_fab ..), connAt_of_fab (connRecord_fab ..), connAt_modConn]
    split
    · next same => rw [← same]
    · rfl

theorem buckle_override (n k cause : Nat) : (connAt (buckle n cause s) k).override = (connAt s k).override := by
  unfold buckle
  rw [connAt_of_fab (pxCause_fab ..), connTo_override]

theorem unbuckle_override (n k cause : Nat) : (connAt (unbuckle n cause s) k).override = (connAt s k).override := by
  unfold unbuckle
  rw [connAt_of_fab (pxEvent_fab ..), connAt_of_fab (pxCause_fab ..), connTo_override]

theorem noteLosses_fab (n : Nat) (l : List Nat) : (l.foldl (fun u k => noteLoss n k u) s).fab = s.fab := by
  induction l generalizing s with
  | nil => rfl
  | cons k l ih => exact ih (noteLoss n k s)

end

section
variable {a : Agent} {n c : Nat} {s : State}

/-- A connection with its override put, recorded for the mate and its Seat told (R291, R293). -/
def overridePut (c : Nat) (set : Bool) (t : State) : State :=
  let u := modConn c (fun y => { y with override := set }) t
  pxCause c 5 (mirrorItem true 8 c (lastSeq u) (toBytes 4 (connImage (connAt u c))) u)

theorem overridePut_override (set : Bool) (t : State) : (connAt (overridePut c set t) c).override = set := by
  unfold overridePut
  rw [connAt_of_fab (pxCause_fab ..), connAt_of_fab (mirrorItem_fab ..), connAt_modConn, if_pos rfl]

/-- What a cleared override leaves of the connection: losses of the proofs not MET (R291). -/
def overrideCleared (c : Nat) (mode : ConnMode) (t : State) : State :=
  if notMet t c = [] then t
  else if mode = .buckled then unbuckle c 5 t
  else if mode = .live then (notMet t c).foldl (fun u k => noteLoss c k u) t
  else t

theorem overrideCleared_override (mode : ConnMode) (t : State) : (connAt (overrideCleared c mode t) c).override = (connAt t c).override := by
  unfold overrideCleared
  repeat' split
  · rfl
  · exact unbuckle_override ..
  · rw [connAt_of_fab (noteLosses_fab ..)]
  · rfl

/-- A write of PX_OVERRIDE for a connection with an expectation, which changes its override, is taken. -/
theorem overrideWrite_takes {v : Nat} (room : LedgerTakes s) (conn : connOfAddr (bits v 0 24) = some c) (proofs : connExpects s c ≠ [])
    (mirror : mirrorRefused s = false) (acts : bit v 24 = true ∨ (connAt s c).override = true) :
    ∃ t, overrideWrite a v s = (oDone, t) ∧ (connAt t c).override = bit v 24 := by
  obtain ⟨⟨i, x⟩, rest, list⟩ := List.exists_cons_of_ne_nil proofs
  obtain ⟨u, recorded, -⟩ := ledgerMgmt_takes room a 0xD (0x02000000 + i) (estateOf s i x).code (if bit v 24 then 5 else 6) true [] (by simp)
  unfold overrideWrite
  rw [conn]
  dsimp only
  rw [list]
  dsimp only
  rw [if_neg (by simp [mirror]), if_neg (by rcases acts with set | on <;> simp [*]), recorded]
  dsimp only
  cases set : bit v 24 with
  | true =>
    refine ⟨_, rfl, ?_⟩
    split
    · exact (buckle_override ..).trans (overridePut_override true u)
    · exact overridePut_override true u
  | false =>
    refine ⟨overrideCleared c (connAt s c).mode (overridePut c false u), ?_, (overrideCleared_override ..).trans (overridePut_override false u)⟩
    unfold overrideCleared
    rw [if_neg Bool.false_ne_true]
    simp only [apply_ite (Prod.mk oDone)]
    rfl

theorem hostOverride_takes {cmd : Nat} {set : Bool} (field : bit (setBits n 24 2 cmd) 24 = set) (other : bit (setBits n 24 2 cmd) 25 = !set)
    (room : LedgerTakes s) (conn : connOfAddr (bits n 0 24) = some c) (proofs : connExpects s c ≠ [])
    (mirror : mirrorRefused s = false) (acts : set = true ∨ (connAt s c).override = true) :
    let t := (hostOverride a (setBits n 24 2 cmd) s).2
    (connAt t c).override = set ∧ t.prot.overrideOutcome = 0 := by
  have address : bits (setBits n 24 2 cmd) 0 24 = bits n 0 24 := bits_setBits_apart (by decide) ..
  obtain ⟨t, taken, override⟩ := overrideWrite_takes (a := a) (v := setBits n 24 2 cmd) room (address.symm ▸ conn) proofs mirror (field.symm ▸ acts)
  unfold hostOverride
  rw [field, other, if_neg (by cases set <;> decide), taken]
  dsimp only
  rw [connAt_of_fab (countOutcome_fab ..), countOutcome_prot]
  exact ⟨override.trans field, rfl⟩

end

end Sys2Proof.Machine
end

section
/-!
PROOFS. Command registers of the later blocks, each accepted with its own effect: the rein's (R305, R308), I²C jobs (R369), scan and radio jobs and
self-tests (R390, R403, R418, R433), the first-error latch (R477); the commands of a protection object (R270, R284).
-/
namespace Sys2Proof.Machine

open Sys2Proof

/-! The rein (R305, R308). -/

section
variable {a : Agent} {n : Nat} {s : State}

theorem mate_mateEnd (seat code : Nat) (t : State) : (mateEnd seat code t).mate = { t.mate with cmdOutcome := code } := countOutcome_mate ..

/-- An accepted command that always acts ends DONE, after its record. -/
theorem mateAccept_takes (room : LedgerTakes s) (v : Nat) (f : MateState → MateState) (g : State → State)
    (acts : ∀ u, u.lt = s.lt → g u = modMate f u) :
    ∃ m t, mateAccept a v (fun u => some (g u)) s = (oDone, t) ∧ t.mate = { f m with cmdOutcome := oDone } := by
  obtain ⟨u, recorded, kept⟩ := ledgerMgmt_takes room a 1 0xD0010 0 v false [] (by simp)
  refine ⟨u.mate, mateEnd a.seat oDone (g u), ?_, ?_⟩
  · unfold mateAccept
    rw [recorded]
    rfl
  · rw [mate_mateEnd, acts u (kept.lt_eq (by decide))]
    rfl

section
variable {v : Nat}

theorem mateCommand_one (field : bits v 0 2 = 1) : mateCommand a v s =
    (if ¬ releaseOk s then (oSeat, mateEnd a.seat oSeat s)
    else if s.mate.relDue.isSome then (oDone, mateEnd a.seat oDone s)
    else mateAccept a 1 (fun t => some (modMate (fun m => { m with relDue := some (cycleUp (t.lt.frame + (if t.lt.phase = 0 then 2 else 3)) / 16, 1) }) t)) s) := by
  unfold mateCommand
  rw [field]
  rfl

theorem mateCommand_two (field : bits v 0 2 = 2) : mateCommand a v s =
    (if s.mate.rein = .standby ∧ bothSilent s ∧ s.lt.countOk then
      mateAccept a 2 (fun t => some (modMate (fun m => { m with takeDue := some ⟨cycleNow t + 1, 7, 0, 0, a.path, a.unit⟩ }) t)) s
    else (oSeat, mateEnd a.seat oSeat s)) := by
  unfold mateCommand
  rw [field]
  rfl

theorem mateCommand_three (field : bits v 0 2 = 3) : mateCommand a v s =
    (if s.mate.rein = .out then mateAccept a 3 (fun t => (reinRecordBy a .standby 8 t).map standbyState) s
    else (oSeat, mateEnd a.seat oSeat s)) := by
  unfold mateCommand
  rw [field]
  rfl

end

theorem mateCommand_release (room : LedgerTakes s) (may : releaseOk s = true) (first : s.mate.relDue = none) :
    let t := (mateCommand a (setBits n 0 2 1) s).2
    t.mate.relDue = some (cycleUp (s.lt.frame + (if s.lt.phase = 0 then 2 else 3)) / 16, 1) ∧ t.mate.cmdOutcome = 0 := by
  obtain ⟨m, t, accepted, mate⟩ := mateAccept_takes (a := a) room 1
    (fun m => { m with relDue := some (cycleUp (s.lt.frame + (if s.lt.phase = 0 then 2 else 3)) / 16, 1) })
    (fun u => modMate (fun m => { m with relDue := some (cycleUp (u.lt.frame + (if u.lt.phase = 0 then 2 else 3)) / 16, 1) }) u)
    (fun u same => by rw [same])
  rw [mateCommand_one (bits_forced (by decide)), if_neg (not_not_intro may), if_neg (by simp [first]), accepted]
  exact ⟨congrArg MateState.relDue mate, congrArg MateState.cmdOutcome mate⟩

theorem mateCommand_take (room : LedgerTakes s) (standby : s.mate.rein = .standby) (silent : bothSilent s = true) (count : s.lt.countOk = true) :
    let t := (mateCommand a (setBits n 0 2 2) s).2
    t.mate.takeDue = some ⟨cycleNow s + 1, 7, 0, 0, a.path, a.unit⟩ ∧ t.mate.cmdOutcome = 0 := by
  obtain ⟨m, t, accepted, mate⟩ := mateAccept_takes (a := a) room 2
    (fun m => { m with takeDue := some ⟨cycleNow s + 1, 7, 0, 0, a.path, a.unit⟩ })
    (fun u => modMate (fun m => { m with takeDue := some ⟨cycleNow u + 1, 7, 0, 0, a.path, a.unit⟩ }) u)
    (fun u same => by unfold cycleNow; rw [same])
  rw [mateCommand_two (bits_forced (by decide)), if_pos ⟨standby, silent, count⟩, accepted]
  exact ⟨congrArg MateState.takeDue mate, congrArg MateState.cmdOutcome mate⟩

theorem standbyState_mate (t : State) : (standbyState t).mate.rein = .standby ∧ (standbyState t).mate.sync = .unsynced := by
  unfold standbyState
  constructor
  · rw [sendSnapReq_rein, reinChange_mate]
  · show (reinChange _ _).mate.sync = _
    rw [reinChange_mate]
    rfl

/-- RESYNC (R305): the command's record and the transition's are both taken. -/
theorem mateCommand_resync (out : s.mate.rein = .out) (quiet : LedgerQuiet s 2) :
    let t := (mateCommand a (setBits n 0 2 3) s).2
    t.mate.rein = .standby ∧ t.mate.sync = .unsynced ∧ t.mate.cmdOutcome = 0 := by
  obtain ⟨u, recorded, quiet', -⟩ := ledgerMgmt_quiet (n := 1) a 1 0xD0010 0 3 false [] quiet
  obtain ⟨x, transition, -, -⟩ := ledgerMgmt_quiet (n := 0) a 0x10 (reinObject u) u.mate.rein.code (reinNew .standby 8) false [] quiet'
  have accepted : mateAccept a 3 (fun t => (reinRecordBy a .standby 8 t).map standbyState) s = (oDone, mateEnd a.seat oDone (standbyState x)) := by
    unfold mateAccept
    rw [recorded, Option.bind_some]
    unfold reinRecordBy
    rw [transition]
    rfl
  rw [mateCommand_three (bits_forced (by decide)), if_pos out, accepted]
  dsimp only
  rw [mate_mateEnd]
  obtain ⟨rein, sync⟩ := standbyState_mate x
  exact ⟨rein, sync, rfl⟩

end

/-! I²C jobs (R369). -/

section
variable {a : Agent} {i job n : Nat} {s : State}

theorem i2cAt_of_cam {s t : State} (h : t.cam = s.cam) (i : Nat) : i2cAt t i = i2cAt s i := by
  unfold i2cAt
  rw [h]

theorem ciCommand_submit : ciCommand a i job (setBits n 0 2 1) s = ciSubmit a i job s := by
  have submit : bit (setBits n 0 2 1) 0 = true := by rw [bit_setBits]; rfl
  have flush : bit (setBits n 0 2 1) 1 = false := by rw [bit_setBits]; rfl
  unfold ciCommand
  rw [submit, flush]
  rfl

theorem ciCommand_flush : ciCommand a i job (setBits n 0 2 2) s = modI2c i (fun x => { x with queue := [] }) s := by
  have submit : bit (setBits n 0 2 2) 0 = false := by rw [bit_setBits]; rfl
  have flush : bit (setBits n 0 2 2) 1 = true := by rw [bit_setBits]; rfl
  unfold ciCommand
  rw [submit, flush]
  rfl

theorem i2cAt_modI2c_self (f : CamI2c → CamI2c) (t : State) : i2cAt (modI2c i f t) i = f (i2cAt t i) := by rw [i2cAt_modI2c, if_pos rfl]

/-- A job with a valid layout, a camera that the Seat OWNS where it names one, and room in the queue, is queued. -/
theorem ciSubmit_queued (layout : jobOk job = true) (camera : bit job 11 = false ∨ (ownedPhys s a.seat 144 (bits job 24 3)).isSome = true)
    (room : (i2cAt s i).queue.length < 16) :
    (i2cAt (ciSubmit a i job s) i).outcome = 0x02 ∧ ∃ j : I2cJob, (i2cAt (ciSubmit a i job s) i).queue = (i2cAt s i).queue ++ [j] ∧
      j.ident = (i2cAt s i).nextId ∧ j.seat = a.seat ∧ j.body = job := by
  have allowed : ¬ (¬ jobOk job = true ∨ (bit job 11 = true ∧ (ownedPhys s a.seat 144 (bits job 24 3)).isNone = true)) := by
    rintro (wrong | ⟨tagged, missing⟩)
    · exact wrong layout
    · rcases camera with plain | owned
      · exact absurd tagged (by simp [plain])
      · rw [Option.isNone_iff_eq_none] at missing
        rw [missing] at owned
        exact absurd owned (by decide)
  unfold ciSubmit
  dsimp only
  rw [if_neg allowed, if_neg (Nat.not_le.mpr room), i2cAt_of_cam (countOutcome_cam ..), i2cAt_modI2c_self, i2cAt_modI2c_self]
  exact ⟨rfl, _, rfl, rfl, rfl, rfl⟩

end

/-! Jobs of the scan engine, frames of the radio, self-tests (R390, R403, R418, R433). -/

section
variable {a : Agent} {n : Nat} {s : State}

theorem scanCommand_submitted {p : Nat} {moved : Bool} (ok : ScanOk a.seat (rget s (kPath a.pk 0x500100)) s p moved) :
    let t := scanCommand a (setBits n 0 2 1) s
    Posted a.seat (rget s (kPath a.pk 0x500100)) p s t ∧ (pathAt t a.pk).scanOutcome = 0x02 ∧ (pathAt t a.pk).scanJob = s.scan.nextId := by
  obtain ⟨t, accepted, posted⟩ := scanSubmit_accepted ok
  have submit : bit (setBits n 0 2 1) 0 = true := by rw [bit_setBits]; rfl
  have cancel : bit (setBits n 0 2 1) 1 = false := by rw [bit_setBits]; rfl
  unfold scanCommand
  rw [submit, cancel, accepted, if_neg (by decide), if_pos rfl]
  dsimp only
  rw [pathAt_modPath]
  exact ⟨posted, rfl, rfl⟩

theorem scanCommand_cancelled {j : ScanJob} (found : jobAt s (bits n 16 16) = some j) (mine : j.seat = a.seat) (still : j.busy = false)
    (fresh : j.tries = 0) :
    scanCommand a (setBits n 0 2 2) s =
      modPath a.pk (fun p => { p with scanOutcome := 0, scanJob := bits n 16 16 }) (endUnexposed j 0 0 true s) := by
  have submit : bit (setBits n 0 2 2) 0 = false := by rw [bit_setBits]; rfl
  have cancel : bit (setBits n 0 2 2) 1 = true := by rw [bit_setBits]; rfl
  have cancels : scanCancel a.seat (bits n 16 16) s = (oDone, endUnexposed j oDone 0 true s) := by
    unfold scanCancel
    rw [found]
    dsimp only
    rw [if_neg (not_not_intro mine), if_neg (by simp [still, fresh])]
  unfold scanCommand
  rw [submit, cancel, bits_setBits_apart (by decide), cancels]
  rfl

theorem bistStart_takes {r : RegAt} (room : LedgerTakes s) (f : State → State) :
    ∃ t, bistStart a r (setBit n 0) f s = (oDone, t) ∧ Recorded a 1 (regOffset r) 0 1 [] s f t := by
  obtain ⟨u, recorded, -⟩ := ledgerMgmt_takes room a 1 (regOffset r) 0 1 false [] (by simp)
  refine ⟨f u, ?_, u, recorded, rfl⟩
  unfold bistStart
  rw [bit_setBit_self, recorded]
  rfl

section
variable {v : Nat}

/-- A submitted frame shows its outcome and number to its path, and its place (R433). -/
def radioPut (a : Agent) (o x p : Nat) (t : State) : State :=
  modRadio (fun y => { y with legal := tset 0 y.legal a.pk p }) (modPath a.pk (fun q => { q with radioOutcome := o, radioFrame := x }) t)

theorem radio_radioPut (o x p : Nat) (t : State) : (radioPut a o x p t).radio = { t.radio with legal := tset 0 t.radio.legal a.pk p } := rfl

theorem pathAt_radioPut (o x p : Nat) (t : State) :
    pathAt (radioPut a o x p t) a.pk = { pathAt t a.pk with radioOutcome := o, radioFrame := x } := pathAt_modPath ..

theorem queued_radioPut {seat d o x p q : Nat} {t : State} (queued : Queued seat d q s t) : Queued seat d q s (radioPut a o x p t) := by
  unfold Queued
  rw [radio_radioPut]
  exact queued

theorem radioCommand_submit {o x p : Nat} {t : State} (field : v % 4 = 1)
    (submit : radioSubmit a.seat (rget s (kPath a.pk 0x600400)) s = (o, x, some p, t)) : (radioCommand a v s).2 = radioPut a o x p t := by
  unfold radioCommand
  rw [field]
  dsimp only
  rw [submit]
  rfl

theorem radioCommand_cancel (field : v % 4 = 2) : (radioCommand a v s).2 =
    (let x := radioCancel a.seat (bits v 16 16) s
     modPath a.pk (fun q => { q with radioOutcome := x.1, radioFrame := bits v 16 16 }) x.2) := by
  unfold radioCommand
  rw [field]
  rfl

theorem radioCommand_admit (field : v % 4 = 3) : (radioCommand a v s).2 =
    (let x := radioAdmit a (bits v 16 16) v s
     modPath a.pk (fun q => { q with radioOutcome := x.1, radioFrame := bits v 16 16 }) x.2) := by
  unfold radioCommand
  rw [field]
  rfl

end

theorem radioCommand_submitted {pay : List Byte} {p : Nat} (ok : RadioOk a.seat (rget s (kPath a.pk 0x600400)) s pay p) :
    let t := (radioCommand a (setBits n 0 2 1) s).2
    Queued a.seat (rget s (kPath a.pk 0x600400)) p s t ∧ (pathAt t a.pk).radioFrame = s.radio.nextId := by
  obtain ⟨t, accepted, queued⟩ := radioSubmit_accepted ok
  rw [radioCommand_submit (setBits_field (by decide)) accepted]
  exact ⟨queued_radioPut queued, congrArg PathState.radioFrame (pathAt_radioPut ..)⟩

theorem radioCommand_cancelled {f : RadioFrame} (found : frameAt s (bits n 16 16) = some f) (mine : f.seat = a.seat) (unsent : f.txPos = none) :
    (radioCommand a (setBits n 0 2 2) s).2 =
      modPath a.pk (fun p => { p with radioOutcome := 0, radioFrame := bits n 16 16 }) (radioEnd f 0 9 s) := by
  have cancels : radioCancel a.seat (bits n 16 16) s = (oDone, radioEnd f oDone 9 s) := by
    unfold radioCancel
    rw [found]
    dsimp only
    rw [if_neg (not_not_intro mine), if_neg (by simp [unsent])]
  rw [radioCommand_cancel (setBits_field (by decide)), bits_setBits_apart (by decide), cancels]
  rfl

theorem nbrAt_of_radio {s t : State} (h : t.radio = s.radio) (i : Nat) : nbrAt t i = nbrAt s i := by
  unfold nbrAt
  rw [h]

theorem radioCommand_admitted (room : LedgerTakes s) (entry : bits n 16 16 < 512) (dropped : (nbrAt s (bits n 16 16)).state = .dropped) :
    let t := (radioCommand a (setBits n 0 2 3) s).2
    (nbrAt t (bits n 16 16)).state = .new ∧ (pathAt t a.pk).radioOutcome = 0 := by
  obtain ⟨u, recorded, -⟩ := ledgerMgmt_takes room a 1 0x600480 0 (setBits n 0 2 3) false [] (by simp)
  rw [radioCommand_admit (setBits_field (by decide)), bits_setBits_apart (by decide)]
  unfold radioAdmit
  dsimp only
  rw [if_neg (by rintro (beyond | other); exacts [by omega, other dropped]), recorded]
  dsimp only
  rw [pathAt_modPath, nbrAt_of_radio (modPath_radio_eq ..), nbrAt_of_radio (countOutcome_radio ..), nbrAt_modNbr, if_pos rfl]
  exact ⟨rfl, rfl⟩

/-! The first-error latch (R477). -/

theorem firstClear_taken {l : FaultLatch} (room : LedgerTakes s) (taken : s.flt.latch = some l) (source : l.source = bits n 0 9) :
    let t := (firstClear a (setBit n 31) s).2
    t.flt.latch = (if l.handling then some { l with clearDue := true } else none) ∧ t.flt.clrOutcome = 0 := by
  obtain ⟨u, recorded, -⟩ := ledgerMgmt_takes room a 1 0x780910 0 (setBit n 31) false [] (by simp)
  have named : bits (setBit n 31) 0 9 = bits n 0 9 := bits_congr fun j _ => by rw [bit_setBit, if_neg (by omega)]
  have ended : (clearEnd a.seat oDone u).flt.clrOutcome = 0 := congrArg FaultState.clrOutcome (countOutcome_flt ..)
  unfold firstClear
  rw [bit_setBit_self, taken, named]
  dsimp only
  rw [if_neg (by decide), if_neg (not_not_intro source), recorded]
  dsimp only
  split
  · exact ⟨rfl, ended⟩
  · exact ⟨rfl, ended⟩

end

/-! The command word of a protection object (R270, R284). -/

/-- The object address of the command word that a row's address names. -/
def commandWord (n : Nat) : Nat := if 0x440000 ≤ n ∧ n < 0x440200 then n / 32 * 32 + 4 else n / 16 * 16 + 12

/-- A row of a command, to a fitted object or to none: the protection object's write. -/
structure CommandRow (w : HostWho) (n : Nat) (s : State) : Prop where
  runs : alive s = true
  enabled : seatEnabled s (hostAgent w).seat = true
  keyLoad : s.led.keyWords = []
  held : (pathAt s (hostAgent w).pk).held = none
  ho : isHoAddr (commandWord n) = false
  conn : connOfAddr (commandWord n) = none

section
variable {w : HostWho} {n code : Nat} {s : State} (row : CommandRow w n s)
include row

theorem rowCommand_ends : rowCommand w n code s = .next (endWrite (hostAgent w) (apertureOff (commandWord n))
    (match protWrite (hostAgent w) (commandWord n) code s with
      | some (o, t) => (some o, t)
      | none => (none, s))) := by
  have write : objWrite (hostAgent w) (commandWord n) code s = (match protWrite (hostAgent w) (commandWord n) code s with
      | some (o, t) => (some o, t)
      | none => (none, s)) := by
    unfold objWrite
    rw [row.ho, row.conn, if_neg Bool.false_ne_true]
    dsimp only
    rw [touch_of_none row.held] <;> rfl
  rw [← write]
  show Host.Outcome.next (if alive s = true ∧ seatEnabled s (hostAgent w).seat = true then endWrite (hostAgent w) (apertureOff (commandWord n))
    (objWrite (hostAgent w) (commandWord n) code (dropKeyLoad (apertureOff (commandWord n)) s)) else s) = _
  rw [if_pos ⟨row.runs, row.enabled⟩, dropKeyLoad_of_keyFree (.inl row.keyLoad)]

theorem rowCommand_fitted {o : Nat × State} (answers : protWrite (hostAgent w) (commandWord n) code s = some o) :
    rowCommand w n code s = .next (hostEnd (hostAgent w) (apertureOff (commandWord n)) o) := by
  rw [rowCommand_ends row, answers]
  rfl

theorem rowCommand_notFitted (answers : protWrite (hostAgent w) (commandWord n) code s = none) :
    rowCommand w n code s = .next (notFitted (hostAgent w) (apertureOff (commandWord n)) s) := by
  rw [rowCommand_ends row, answers]
  rfl

theorem rowCommand_does : (∀ o, protWrite (hostAgent w) (commandWord n) code s = some o →
      rowCommand w n code s = .next (hostEnd (hostAgent w) (apertureOff (commandWord n)) o)) ∧
    (protWrite (hostAgent w) (commandWord n) code s = none →
      rowCommand w n code s = .next (notFitted (hostAgent w) (apertureOff (commandWord n)) s)) :=
  ⟨fun _ => rowCommand_fitted row, rowCommand_notFitted row⟩

end

/-- The command word is word 1 of a group, word 3 of a selector. -/
theorem commandWord_group {n : Nat} : 0x440000 ≤ commandWord n ∧ commandWord n < 0x440200 → commandWord n % 32 / 4 = 1 := by
  unfold commandWord
  split <;> omega

theorem commandWord_selector {n : Nat} : ¬ (0x440000 ≤ commandWord n ∧ commandWord n < 0x440200) → commandWord n % 16 / 4 = 3 := by
  unfold commandWord
  split <;> omega

/-- A command word of an object that exists is its command (R270). -/
theorem protWrite_command {a : Agent} {n v k : Nat} {r : ProtRef} {s : State} (object : protAt s a.seat (commandWord n) = some (r, k))
    (live : protLive s r = true) : protWrite a (commandWord n) v s = some (commandAt a (commandWord n) (v % 16) s) := by
  by_cases group : 0x440000 ≤ commandWord n ∧ commandWord n < 0x440200
  · have word := commandWord_group group
    have named := object
    unfold protAt at named
    rw [if_pos group] at named
    obtain ⟨p, owned, -⟩ := Option.map_eq_some_iff.mp named
    unfold protWrite
    rw [if_pos group, owned]
    dsimp only
    rw [word] <;> rfl
  · have word := commandWord_selector group
    have selector : (0x400000 ≤ commandWord n ∧ commandWord n < 0x408000) ∨ (0x410000 ≤ commandWord n ∧ commandWord n < 0x430000) := by
      by_contra outside
      have none_ : protAt s a.seat (commandWord n) = none := by
        unfold protAt
        rw [if_neg group, if_neg fun high => outside (.inl high), if_neg fun low => outside (.inr low)]
      rw [none_] at object
      exact absurd object (by simp)
    unfold protWrite
    rw [if_neg group, if_pos selector]
    dsimp only
    rw [if_pos word, object]
    dsimp only
    rw [if_pos live]

/-- An accepted command of a row acts on the run state of its object (R282, R284). -/
theorem rowCommand_acts {w : HostWho} {n code k : Nat} {r : ProtRef} {s : State} (row : CommandRow w n s)
    (object : protAt s (hostAgent w).seat (commandWord n) = some (r, k)) (small : code < 16) (ok : CommandOk s r code) :
    ∃ t, rowCommand w n code s = .next t ∧ ctlAt t r = cmdApply false code (ctlAt s r) := by
  obtain ⟨t, accepted, effect⟩ := commandAt_accepted (a := hostAgent w) object ok
  have write := protWrite_command (v := code) object ok.live
  rw [Nat.mod_eq_of_lt small, accepted] at write
  exact ⟨t, rowCommand_fitted row write, effect⟩

end Sys2Proof.Machine
end

section
/-!
PROOFS. The command registers of the later blocks and the commands of a protection object.
-/
namespace Sys2Proof.Machine

open Sys2Proof

/-- Settles O58: a row's write is the command of its register's name; a protection command is the write of its object's command word. -/
theorem blockCommands : Obligations.BlockCommands := by
  refine ⟨fun w v s => ⟨?_, ?_, ?_, ?_, ?_, ?_, ?_, fun i => ⟨?_, ?_⟩, ?_, ?_, ?_, ?_, ?_, ?_, ?_, ?_, ?_⟩,
    fun w v s => ⟨fun q p j => ⟨?_, ?_⟩, fun c => ⟨?_, ?_⟩, ?_, ?_, ?_, fun i => ⟨?_, ?_⟩, fun p moved => ?_, fun j => ?_, ?_, fun pay p => ?_,
      fun f => ?_, ?_, ?_, fun l => ?_, ?_⟩,
    fun w addr s runs enabled keyLoad held ho conn => ?_, fun w addr s r k runs enabled keyLoad held ho conn object => ?_⟩
  · exact writes_row rfl fun _ name => regWriteVal_pxCmd name
  · exact writes_row rfl fun _ name => regWriteVal_pxCmd name
  · exact writes_row rfl fun _ name => regWriteVal_pxOverride name
  · exact writes_row rfl fun _ name => regWriteVal_pxOverride name
  · exact writes_row rfl fun _ name => regWriteVal_mateCmd name
  · exact writes_row rfl fun _ name => regWriteVal_mateCmd name
  · exact writes_row rfl fun _ name => regWriteVal_mateCmd name
  · exact writes_row rfl fun _ name => regWriteVal_ciCmd name
  · exact writes_row rfl fun _ name => regWriteVal_ciCmd name
  · exact writes_row rfl fun _ name => regWriteVal_scanCmd name
  · exact writes_row rfl fun _ name => regWriteVal_scanCmd name
  · exact writes_row rfl fun _ name => regWriteVal_scanBistCmd name
  · exact writes_row rfl fun _ name => regWriteVal_radioCmd name
  · exact writes_row rfl fun _ name => regWriteVal_radioCmd name
  · exact writes_row rfl fun _ name => regWriteVal_radioCmd name
  · exact writes_row rfl fun _ name => regWriteVal_radioBistCmd name
  · exact writes_row rfl fun _ name => regWriteVal_fcFirstClr name
  · exact writes_row rfl fun _ name => regWriteVal_bookCntClr name (bit_setBit_self ..)
  · exact completes_done rfl fun _ name ok => ⟨_, regWriteVal_pxCmd name, pxCommand_attached ok⟩
  · exact completes_done rfl fun _ name ok => ⟨_, regWriteVal_pxCmd name, pxCommand_detached ok⟩
  · exact completes_done rfl fun _ name ⟨room, conn, proofs, mirror⟩ => ⟨_, regWriteVal_pxOverride name,
      hostOverride_takes (by rw [bit_setBits]; rfl) (by rw [bit_setBits]; rfl) room conn proofs mirror (.inl rfl)⟩
  · exact completes_done rfl fun _ name ⟨room, ⟨conn, proofs, mirror⟩, on⟩ => ⟨_, regWriteVal_pxOverride name,
      hostOverride_takes (by rw [bit_setBits]; rfl) (by rw [bit_setBits]; rfl) room conn proofs mirror (.inr on)⟩
  · exact completes_done rfl fun _ name ⟨room, may, first⟩ => ⟨_, regWriteVal_mateCmd name, mateCommand_release room may first⟩
  · exact completes_done rfl fun _ name ⟨room, standby, silent, count⟩ =>
      ⟨_, regWriteVal_mateCmd name, mateCommand_take room standby silent count⟩
  · exact completes_done rfl fun _ name ⟨out, quiet⟩ => ⟨_, regWriteVal_mateCmd name, mateCommand_resync out quiet⟩
  · exact completes_done rfl fun _ name ⟨layout, camera, room⟩ => ⟨_, regWriteVal_ciCmd name, by
      rw [ciCommand_submit]
      exact ciSubmit_queued layout camera room⟩
  · exact completes_done rfl fun _ name _ => ⟨_, regWriteVal_ciCmd name, by rw [ciCommand_flush, i2cAt_modI2c_self]⟩
  · exact completes_done rfl fun _ name ok => ⟨_, regWriteVal_scanCmd name, scanCommand_submitted ok⟩
  · exact completes_done rfl fun _ name ⟨found, mine, still, fresh⟩ =>
      ⟨_, regWriteVal_scanCmd name, scanCommand_cancelled found mine still fresh⟩
  · exact completes_done rfl fun _ name ⟨room, _⟩ => by
      rw [regWriteVal_scanBistCmd name]
      exact bistStart_takes room _
  · exact completes_done rfl fun _ name ok => ⟨_, regWriteVal_radioCmd name, radioCommand_submitted ok⟩
  · exact completes_done rfl fun _ name ⟨found, mine, unsent⟩ => ⟨_, regWriteVal_radioCmd name, radioCommand_cancelled found mine unsent⟩
  · exact completes_done rfl fun _ name ⟨room, entry, dropped⟩ => ⟨_, regWriteVal_radioCmd name, radioCommand_admitted room entry dropped⟩
  · exact completes_done rfl fun _ name ⟨room, _⟩ => by
      rw [regWriteVal_radioBistCmd name]
      exact bistStart_takes room _
  · exact completes_done rfl fun _ name ⟨room, taken, source⟩ => ⟨_, regWriteVal_fcFirstClr name, firstClear_taken room taken source⟩
  · exact completes_done rfl fun _ name _ => ⟨_, regWriteVal_bookCntClr name (bit_setBit_self ..), rfl⟩
  · have row : CommandRow w addr.toNat s := ⟨runs, enabled, keyLoad, held, ho, conn⟩
    exact ⟨rowCommand_does row, rowCommand_does row, rowCommand_does row, rowCommand_does row, rowCommand_does row, rowCommand_does row,
      rowCommand_does row, rowCommand_does row, rowCommand_does row, rowCommand_does row, rowCommand_does row, rowCommand_does row,
      rowCommand_does row⟩
  · have row : CommandRow w addr.toNat s := ⟨runs, enabled, keyLoad, held, ho, conn⟩
    have acts {code : Nat} (small : code < 16) := rowCommand_acts (code := code) row object small
    exact ⟨acts (by decide), acts (by decide), acts (by decide), acts (by decide), acts (by decide), acts (by decide), acts (by decide),
      acts (by decide), acts (by decide), acts (by decide), acts (by decide), acts (by decide), acts (by decide)⟩

end Sys2Proof.Machine
end

section
/-!
PROOFS. Rows that write registers of fields or of several words (R39, R243, R310, R418, R430, R444): a register with no command of its own is applied; the
words of a wide register are applied as one; a connection entry is staged with its last word.
-/
namespace Sys2Proof.Machine

open Sys2Proof

/-! Registers of fields. -/

/-- The registers of fields that rows write. -/
def fieldNames : List RegName :=
  [.hostBind, .ltCtl, .ledgerSpillCtl, .stCtl, .fabCtl, .mateCtl, .crCfg, .camBind, .camCfg, .scanCfg, .radioCfg, .radioFcOut, .monCfg, .monShedCtl,
    .bookTokens, .ltFrameLoad, .monTherm]

section
variable {a : Agent} {w : HostWho} {r : RegAt} {v off : Nat} {nm : RegName} {i : Instr} {s : State}

theorem regWriteVal_apply (command : regCommand a r v s = none) : regWriteVal a r v s = regApply a r v s := by
  unfold regWriteVal
  rw [command]

theorem regCommand_field (name : r.desc.name = nm) (field : nm ∈ fieldNames) : regCommand a r v s = none := by
  unfold regCommand
  rw [name]
  simp only [fieldNames, List.mem_cons, List.not_mem_nil, or_false] at field
  rcases field with rfl | rfl | rfl | rfl | rfl | rfl | rfl | rfl | rfl | rfl | rfl | rfl | rfl | rfl | rfl | rfl | rfl <;> rfl

theorem regWriteVal_field (name : r.desc.name = nm) (field : nm ∈ fieldNames) : regWriteVal a r v s = regApply a r v s :=
  regWriteVal_apply (regCommand_field name field)

/-- FC_INJECT is a register of fields for a source that exists (R478). -/
theorem regWriteVal_fcInject (name : r.desc.name = .fcInject) (source : bits v 0 9 ≤ 411) : regWriteVal a r v s = regApply a r v s :=
  regWriteVal_apply (by
    unfold regCommand
    rw [name]
    exact if_neg (Nat.not_lt.mpr source))

theorem writes_field (row : exec i s = rowWrite w off v s) (field : nm ∈ fieldNames) :
    Writes i w off nm s (fun r => regApply (hostAgent w) r v s) :=
  writes_row row fun _ name => regWriteVal_field name field

theorem stores_row (row : exec i s = rowWrite w off v s) (write : ∀ r, r.desc.name = nm → regWriteVal (hostAgent w) r v s = regApply (hostAgent w) r v s)
    (other : nm ≠ .mateCtl) :
    Completes i w off nm s (fun r => Accepts (hostAgent w) r v s) (fun r t => Stores (hostAgent w) r v s t) :=
  completes_done row fun r name ok => by
    rw [write r name]
    exact regApply_accepted ok (name ▸ other)

theorem stores_field (row : exec i s = rowWrite w off v s) (field : nm ∈ fieldNames) (other : nm ≠ .mateCtl) :
    Completes i w off nm s (fun r => Accepts (hostAgent w) r v s) (fun r t => Stores (hostAgent w) r v s t) :=
  stores_row row (fun _ name => regWriteVal_field name field) other

end

section
variable {w : HostWho} {v : Nat} {i : Instr} {s : State}

theorem injectSource_mode (v cmd : Nat) : bits (setBits v 12 2 cmd) 0 9 = bits v 0 9 := bits_setBits_apart (by decide) ..

theorem writes_inject {cmd : Nat} (row : exec i s = rowWrite w 0x780920 (setBits v 12 2 cmd) s) (source : bits v 0 9 ≤ 411) :
    Writes i w 0x780920 .fcInject s (fun r => regApply (hostAgent w) r (setBits v 12 2 cmd) s) :=
  writes_row row fun _ name => regWriteVal_fcInject name (by rw [injectSource_mode]; exact source)

theorem stores_inject {cmd : Nat} (row : exec i s = rowWrite w 0x780920 (setBits v 12 2 cmd) s) (source : bits v 0 9 ≤ 411) :
    Completes i w 0x780920 .fcInject s (fun r => Accepts (hostAgent w) r (setBits v 12 2 cmd) s)
      (fun r t => Stores (hostAgent w) r (setBits v 12 2 cmd) s t) :=
  stores_row row (fun _ name => regWriteVal_fcInject name (by rw [injectSource_mode]; exact source)) (by decide)

end

/-! MATE_CTL: a change of EN is a second record, of the rein (R295, R310). -/

theorem LedgerQuiet.mono {s : State} {m n : Nat} (h : LedgerQuiet s n) (fewer : m ≤ n) : LedgerQuiet s m :=
  ⟨h.start, ⟨h.seals.1, by have := h.seals.2; omega⟩, h.losses, h.queue, by have := h.room; omega⟩

section
variable {a : Agent} {r : RegAt} {x : Nat} {s : State}

theorem stagePart_accepted (ok : Accepts a r x s) : stagePart a r (regNorm r (regStored s r) x) s = (oDone, s) := by
  unfold stagePart
  dsimp only
  rcases ok.staged with unstaged | ⟨direct, same⟩
  · exact if_pos unstaged
  · split
    · rfl
    · exact if_pos ⟨direct, same⟩

/-- With a quiet ledger the record of a register's change leaves room for one more. -/
theorem recordPart_quiet (wide : r.desc.bytes ≤ 64) (quiet : LedgerQuiet s 12) (old new : Nat) :
    ∃ u, recordPart a r old new s = some u ∧ LedgerQuiet u 1 := by
  unfold recordPart
  split
  · exact ⟨s, rfl, quiet.mono (by decide)⟩
  · have few : (valueConts r.desc.bytes old new).length ≤ 8 := by
      simp only [valueConts, List.length_map, List.length_range]
      omega
    obtain ⟨u, recorded, left, -⟩ := ledgerMgmt_quiet (n := 11 - (valueConts r.desc.bytes old new).length) a 1 (regOffset r) (old % 2 ^ 32) (new % 2 ^ 32) false
      (valueConts r.desc.bytes old new) (quiet.mono (by omega))
    exact ⟨u, recorded, left.mono (by omega)⟩

theorem mateCtlRecord_quiet (quiet : LedgerQuiet s 1) (old new : Nat) : ∃ x, mateCtlRecord a old new s = some x := by
  unfold mateCtlRecord
  dsimp only
  split
  · exact ⟨s, rfl⟩
  · generalize entered : (if enRein s new = .holder then newTerm s else s) = u
    have ready_ : LedgerQuiet u 1 := by
      rw [← entered]
      split
      · exact quiet.of_led rfl
      · exact quiet
    obtain ⟨x, recorded, -, -⟩ := ledgerMgmt_quiet (n := 0) a 0x10 (reinObject u) u.mate.rein.code (reinNew (enRein s new) 9) false [] ready_
    exact ⟨x, recorded⟩

/-- An accepted write of MATE_CTL, with both its records taken. -/
theorem regApply_mateCtl (name : r.desc.name = .mateCtl) (ok : Accepts a r x s) (quiet : LedgerQuiet s 12) :
    ∃ u y, recordPart a r (regStored s r) (regNew s r x) s = some u ∧ mateCtlRecord a (regStored s r) (regNew s r x) u = some y ∧
      regApply a r x s = (oDone, regHook a r (regStored s r) (regNew s r x) x (withReg r (regStored s r) (regNew s r x) y)) := by
  obtain ⟨u, recorded, left⟩ := recordPart_quiet (a := a) ok.width quiet (regStored s r) (regNew s r x)
  obtain ⟨y, transition⟩ := mateCtlRecord_quiet (a := a) left (regStored s r) (regNew s r x)
  refine ⟨u, y, recorded, transition, ?_⟩
  have both : (recordPart a r (regStored s r) (regNew s r x) s).bind (fun u =>
      if r.desc.name = .mateCtl then mateCtlRecord a (regStored s r) (regNew s r x) u else some u) = some y := by
    rw [recorded, Option.bind_some, if_pos name, transition]
  unfold regNew at both ⊢
  dsimp only at both ⊢
  unfold regApply
  simp only [ok.values, ok.mirror, stagePart_accepted ok, both]
  rw [if_neg (by simp), if_neg (by simp), if_neg (by simp)]
  rfl

end

/-! Registers of several words. -/

/-- The words of a value, lowest first. -/
theorem rowWords_words (w : HostWho) (off k x : Nat) (s : State) (runs : alive s = true) :
    rowWords w off k x s = .next (hostWords (hostAgent w) off ((List.range k).map (fun j => x / 2 ^ (32 * j) % 2 ^ 32)) s) := by
  refine congrArg Host.Outcome.next ((if_pos runs).trans (congrArg (fun l => hostWords (hostAgent w) off l s) (List.map_congr_left fun j _ => ?_)))
  rw [bits, Nat.shiftRight_eq_div_pow]

theorem rowWords_dark (w : HostWho) (off k x : Nat) (s : State) (dark : alive s = false) : rowWords w off k x s = .next s :=
  congrArg Host.Outcome.next (if_neg (by simp [dark]))

section
variable {w : HostWho} {off k v : Nat} {nm : RegName} {r : Nat → RegAt} {s : State}

theorem ReachesWide.name (reaches : ReachesWide w off k r s) (name : (r 0).desc.name = nm) {j : Nat} (word : j < k) : (r j).desc.name = nm := by
  rw [(reaches.one j word).2.1, name]

/-- A wide register of fields stores the words as one value. -/
theorem rowWords_stores (reaches : ReachesWide w off 2 r s) (name : (r 0).desc.name = nm) (field : nm ∈ fieldNames) (other : nm ≠ .mateCtl)
    (fits : v < 2 ^ 64) (ok : ∀ h, SameButPaths s h → Accepts (hostAgent w) (r 1) v h) :
    ∃ h t, SameButPaths s h ∧ rowWords w off 2 v s = .next t ∧ Stores (hostAgent w) (r 1) v h t := by
  obtain ⟨h, same, row⟩ := rowWords_reaches (v := v) reaches
  have last : (r 1).desc.name = nm := reaches.name name (by decide)
  obtain ⟨t, accepted, stores⟩ := regApply_accepted (ok h same) (last ▸ other)
  refine ⟨h, t, same, ?_, stores⟩
  rw [row, Nat.mod_eq_of_lt fits]
  show Host.Outcome.next (hostEnd _ _ (regWriteVal (hostAgent w) (r 1) v h)) = _
  rw [regWriteVal_field last field, accepted, hostEnd_done]

/-- An entry of the neighbour table that is allowed is stored (R417, R418). -/
theorem nbrApply_accepted {a : Agent} {i : Nat} (allowed : nbrOk s i v = true) (room : LedgerTakes s) :
    ∃ t, nbrApply a i v s = (oDone, t) ∧ (nbrAt t i).body = v &&& nbrMask := by
  obtain ⟨u, recorded, -⟩ := ledgerMgmt_takes room a 1 (0x604000 + 32 * i) ((nbrAt s i).body % 2 ^ 32) ((v &&& nbrMask) % 2 ^ 32) false
    (valueConts 32 (nbrAt s i).body (v &&& nbrMask)) (by simp [valueConts])
  unfold nbrApply
  dsimp only
  rw [if_neg (not_not_intro allowed)]
  by_cases same : v &&& nbrMask = (nbrAt s i).body
  · exact ⟨s, if_pos same, same.symm⟩
  · rw [if_neg same, recorded]
    refine ⟨_, rfl, ?_⟩
    rw [nbrAt_modNbr, if_pos rfl]
    split
    · rfl
    · split <;> rfl

theorem rowWords_nbr (reaches : ReachesWide w off 8 r s) (name : (r 0).desc.name = .radioNbr) (fits : v < 2 ^ 256)
    (ok : ∀ h, SameButPaths s h → nbrOk h (r 7).j v = true ∧ LedgerTakes h) :
    ∃ t, rowWords w off 8 v s = .next t ∧ (nbrAt t (r 7).j).body = v &&& nbrMask := by
  obtain ⟨h, same, row⟩ := rowWords_reaches (v := v) reaches
  obtain ⟨allowed, room⟩ := ok h same
  obtain ⟨t, accepted, body⟩ := nbrApply_accepted (a := hostAgent w) allowed room
  refine ⟨t, ?_, body⟩
  rw [row, Nat.mod_eq_of_lt fits]
  show Host.Outcome.next (hostEnd _ _ (regWriteVal (hostAgent w) (r 7) v h)) = _
  rw [regWriteVal_radioNbr (reaches.name name (by decide)), accepted, hostEnd_done]

theorem keyApply_takes {a : Agent} {k : Nat} (fits : v < 2 ^ 128) (room : LedgerTakes s) :
    ∃ t, keyApply a k v s = (oDone, t) ∧ tget 0 t.radio.keys k = setBit v 128 ∧ t.radio.keyNeeded = false := by
  have whole : bits v 0 128 = v := Nat.mod_eq_of_lt fits
  obtain ⟨u, recorded, -⟩ := ledgerMgmt_takes room a 1 (0x600100 + 16 * k) (keyCheck (tget 0 s.radio.keys k)) (keyCheck (setBit v 128)) false [] (by simp)
  unfold keyApply
  dsimp only
  rw [whole, recorded]
  exact ⟨_, rfl, (tget_tset ..).trans (if_pos rfl), rfl⟩

theorem rowWords_key (reaches : ReachesWide w off 4 r s) (name : (r 0).desc.name = .radioKey) (fits : v < 2 ^ 128)
    (ok : ∀ h, SameButPaths s h → LedgerTakes h) :
    ∃ t, rowWords w off 4 v s = .next t ∧ tget 0 t.radio.keys (r 3).j = setBit v 128 ∧ t.radio.keyNeeded = false := by
  obtain ⟨h, same, row⟩ := rowWords_reaches (v := v) reaches
  obtain ⟨t, accepted, effects⟩ := keyApply_takes (a := hostAgent w) (k := (r 3).j) fits (ok h same)
  refine ⟨t, ?_, effects⟩
  rw [row, Nat.mod_eq_of_lt fits]
  show Host.Outcome.next (hostEnd _ _ (regWriteVal (hostAgent w) (r 3) v h)) = _
  rw [regWriteVal_radioKey (reaches.name name (by decide)), accepted, hostEnd_done]

end

end Sys2Proof.Machine
end

section
/-!
PROOFS. A connection entry written by a row (R243): the words reach the connection window, and the last of them stages the entry.
-/
namespace Sys2Proof.Machine

open Sys2Proof

section
variable {a : Agent} {addr v : Nat} {s : State}

theorem isHoAddr_iff : isHoAddr addr = true ↔ 0x200000 ≤ addr ∧ addr < 0x210000 := decide_eq_true_iff
theorem isConnAddr_iff : isConnAddr addr = true ↔ 0x200000 ≤ addr ∧ addr < 0x2D0000 := decide_eq_true_iff

/-- A write in the connection window is the object's at the same address. -/
theorem hostWrite_conn (conn : isConnAddr addr = true) (enabled : seatEnabled s a.seat = true) (keyLoad : s.led.keyWords = []) :
    hostWrite a addr 0xF v s = endWrite a addr (objWrite a addr v s) := by
  obtain ⟨low, high⟩ := isConnAddr_iff.mp conn
  have window : isObjOff addr = true := decide_eq_true (.inl ⟨low, high⟩)
  have address : objOffset s a.pk addr = addr := if_pos (by omega)
  unfold hostWrite seatWrite
  rw [if_pos enabled, if_pos window, address, dropKeyLoad_of_keyFree (.inl keyLoad)]

/-- The lower word of a high-order entry is held (R243). -/
theorem objWrite_lower (ho : isHoAddr addr = true) (lower : addr % 8 / 4 = 0) (free : (pathAt s a.pk).held = none) :
    objWrite a addr v s = (some oDone, setHeld a.pk (some (entryKey addr, [v])) s) := by
  unfold objWrite
  rw [if_pos ho, touch_of_none free, lower]
  dsimp only
  rw [multiWrite_held heldWords_zero Nat.one_lt_two]

/-- The upper word, after the lower one, stages the entry (R243). -/
theorem objWrite_upper {x : Nat} (ho : isHoAddr addr = true) (upper : addr % 8 / 4 = 1) (held : (pathAt s a.pk).held = some (entryKey addr, [x])) :
    objWrite a addr v s =
      (some (stageConn a ((addr - 0x200000) / 8) (wordsVal [x, v]) (setHeld a.pk none s)).1,
        (stageConn a ((addr - 0x200000) / 8) (wordsVal [x, v]) (setHeld a.pk none s)).2) := by
  have next : touch a (some (entryKey addr, 1)) s = s := touch_of_next held
  have both : heldWords s a.pk (entryKey addr) 1 v = some [x, v] := heldWords_next held Nat.one_pos
  unfold objWrite
  rw [if_pos ho, upper, next]
  dsimp only
  rw [multiWrite_last both (Nat.le_refl 2)]

/-- A low-order entry is one word. -/
theorem objWrite_low {num : Nat} (lo : isHoAddr addr = false) (conn : connOfAddr addr = some num) (free : (pathAt s a.pk).held = none) :
    objWrite a addr v s = (some (stageConn a num v s).1, (stageConn a num v s).2) := by
  unfold objWrite
  rw [if_neg (by simp [lo]), touch_of_none free, conn]

theorem wordsVal_two (fits : v < 2 ^ 64) : wordsVal [bits v 0 32, bits v 32 32] = v := (ofLe_words 2 v).trans (Nat.mod_eq_of_lt fits)

end

section
variable {w : HostWho} {addr : BitVec 24} {v : BitVec 64} {s : State}

theorem exec_connEntryWrite_high (ho : isHoAddr addr.toNat = true) :
    exec (.connEntryWrite w addr v) s = rowWords w (addr.toNat / 8 * 8) 2 v.toNat s := if_pos ho

theorem exec_connEntryWrite_low (lo : isHoAddr addr.toNat = false) (conn : isConnAddr addr.toNat = true) :
    exec (.connEntryWrite w addr v) s = rowWords w (addr.toNat / 4 * 4) 1 v.toNat s :=
  (if_neg (by simp [lo])).trans (if_pos conn)

theorem exec_connEntryWrite_none (lo : isHoAddr addr.toNat = false) (other : isConnAddr addr.toNat = false) :
    exec (.connEntryWrite w addr v) s = .next s :=
  (if_neg (by simp [lo])).trans (if_neg (by simp [other]))

section
variable {n x : Nat} (runs : alive s = true) (enabled : seatEnabled s (hostAgent w).seat = true) (keyLoad : s.led.keyWords = [])
  (free : (pathAt s (hostAgent w).pk).held = none)
include runs enabled keyLoad free

theorem connEntryWrite_high_staged (ho : isHoAddr addr.toNat = true)
    (ok : ∀ h, SameButPaths s h → ConnOk (hostAgent w) ((addr.toNat - 0x200000) / 8) v.toNat h n x) :
    ∃ t, exec (.connEntryWrite w addr v) s = .next t ∧
      Staged (hostAgent w).seat (connKey n) (setBits (entryNorm (isHo ((addr.toNat - 0x200000) / 8)) v.toNat) 0 14 x) s t := by
  obtain ⟨low, high⟩ := isHoAddr_iff.mp ho
  generalize base : addr.toNat / 8 * 8 = b
  have hoLower : isHoAddr b = true := isHoAddr_iff.mpr (by omega)
  have hoUpper : isHoAddr (b + 4) = true := isHoAddr_iff.mpr (by omega)
  have number : (b + 4 - 0x200000) / 8 = (addr.toNat - 0x200000) / 8 := by omega
  have entry : entryKey (b + 4) = entryKey b := by
    unfold entryKey
    omega
  generalize lowerHeld : setHeld (hostAgent w).pk (some (entryKey b, [bits v.toNat 0 32])) s = g
  have held : (pathAt g (hostAgent w).pk).held = some (entryKey (b + 4), [bits v.toNat 0 32]) := by
    rw [← lowerHeld, pathAt_setHeld, entry]
  have same : SameButPaths s (setHeld (hostAgent w).pk none g) := by
    rw [← lowerHeld]
    exact ⟨_, rfl⟩
  have stillEnabled : seatEnabled g (hostAgent w).seat = true := by
    rw [← lowerHeld]
    exact enabled
  have stillKeyLoad : g.led.keyWords = [] := by
    rw [← lowerHeld]
    exact keyLoad
  obtain ⟨t, accepted, staged⟩ := stageConn_accepted (ok _ same)
  refine ⟨t, ?_, staged.of_lt (by rw [← lowerHeld]; rfl) rfl⟩
  have words : (List.range 2).map (fun k => bits v.toNat (32 * k) 32) = [bits v.toNat 0 32, bits v.toNat 32 32] := rfl
  have lowerWrite : hostWrite (hostAgent w) b 0xF (bits v.toNat 0 32) s = g := by
    rw [hostWrite_conn (isConnAddr_iff.mpr (by omega)) enabled keyLoad, objWrite_lower hoLower (by omega) free, lowerHeld]
    exact hostEnd_done ..
  have upperWrite : hostWrite (hostAgent w) (b + 4) 0xF (bits v.toNat 32 32) g = t := by
    rw [hostWrite_conn (isConnAddr_iff.mpr (by omega)) stillEnabled stillKeyLoad, objWrite_upper hoUpper (by omega) held, number,
      wordsVal_two v.isLt, accepted]
    exact hostEnd_done ..
  rw [exec_connEntryWrite_high ho, base]
  refine congrArg Host.Outcome.next ((if_pos runs).trans ?_)
  rw [words, hostWords, hostWords, hostWords, lowerWrite, upperWrite]

theorem connEntryWrite_low_staged {num : Nat} (lo : isHoAddr addr.toNat = false) (conn : isConnAddr addr.toNat = true)
    (number : connOfAddr (addr.toNat / 4 * 4) = some num) (ok : ∀ h, SameButPaths s h → ConnOk (hostAgent w) num (v.toNat % 2 ^ 32) h n x) :
    ∃ t, exec (.connEntryWrite w addr v) s = .next t ∧
      Staged (hostAgent w).seat (connKey n) (setBits (entryNorm (isHo num) (v.toNat % 2 ^ 32)) 0 14 x) s t := by
  obtain ⟨low, high⟩ := isConnAddr_iff.mp conn
  have beyond : ¬ (0x200000 ≤ addr.toNat ∧ addr.toNat < 0x210000) := decide_eq_false_iff_not.mp lo
  obtain ⟨t, accepted, staged⟩ := stageConn_accepted (ok s ⟨_, rfl⟩)
  refine ⟨t, ?_, staged⟩
  have word : hostWrite (hostAgent w) (addr.toNat / 4 * 4) 0xF (v.toNat % 2 ^ 32) s = t := by
    rw [hostWrite_conn (isConnAddr_iff.mpr (by omega)) enabled keyLoad, objWrite_low (decide_eq_false (by omega)) number free, accepted]
    exact hostEnd_done ..
  rw [exec_connEntryWrite_low lo conn]
  exact congrArg Host.Outcome.next ((if_pos runs).trans word)

end

end

/-! RADIO_ENABLE (R409, R444): the write, and IDENT where it turns the radio on. -/

section
variable {w : HostWho} {v reply : BitVec 32} {r : RegAt} {s : State}

/-- A register write as a state. -/
theorem rowDone_reaches {off x : Nat} (reaches : Reaches w off r s) (free : (pathAt s (hostAgent w).pk).held = none)
    (single : multiWord r.desc = false) : rowDone w off x s = hostEnd (hostAgent w) off (regWriteVal (hostAgent w) r x s) :=
  Host.Outcome.next.inj (rowWrite_reaches reaches free single)

theorem exec_radioEnable (reaches : Reaches w 0x600000 r s) (free : (pathAt s (hostAgent w).pk).held = none) (name : r.desc.name = .radioCfg)
    (single : multiWord r.desc = false) :
    let t := hostEnd (hostAgent w) 0x600000 (regApply (hostAgent w) r (setBit v.toNat 0) s)
    exec (.radioEnable w v reply) s = .next
      (if radioEn t = true ∧ radioEn s = false ∧ 3 ≤ t.pwr.stage.code ∧ bit t.pwr.vioOk 4 = true then identReply reply.toNat t else t) := by
  have done : rowDone w 0x600000 (setBit v.toNat 0) s = hostEnd (hostAgent w) 0x600000 (regApply (hostAgent w) r (setBit v.toNat 0) s) := by
    rw [rowDone_reaches reaches free single, regWriteVal_field name (by decide)]
  show execRadioEnable w v reply s = _
  unfold execRadioEnable
  rw [done]
  simp only [Bool.not_eq_true]

theorem completes_radioEnable : Completes (.radioEnable w v reply) w 0x600000 .radioCfg s (fun r => Accepts (hostAgent w) r (setBit v.toNat 0) s)
    (fun r t => ∃ u, Stores (hostAgent w) r (setBit v.toNat 0) s u ∧
      t = if radioEn u = true ∧ radioEn s = false ∧ 3 ≤ u.pwr.stage.code ∧ bit u.pwr.vioOk 4 = true then identReply reply.toNat u else u) := by
  intro r reaches free name single ok
  obtain ⟨u, accepted, stores⟩ := regApply_accepted ok (by rw [name]; decide)
  have row := exec_radioEnable (v := v) (reply := reply) reaches free name single
  rw [accepted, hostEnd_done] at row
  exact ⟨_, row, u, stores, rfl⟩

end

/-- Settles O59: a register with no command of its own is applied as it is written; the words of a wide one go lowest first, and the last of them applies. -/
theorem fieldRegisters : Obligations.FieldRegisters := by
  refine ⟨fun w v s => ?_, fun w s => ?_, fun w v s => ?_, fun w r s => ?_⟩
  · exact ⟨writes_field rfl (by decide), writes_field rfl (by decide), writes_field rfl (by decide), fun k => writes_field rfl (by decide),
      writes_field rfl (by decide), writes_field rfl (by decide), fun k => writes_field rfl (by decide),
      fun c => ⟨writes_field rfl (by decide), writes_field rfl (by decide)⟩, writes_field rfl (by decide), writes_field rfl (by decide),
      writes_field rfl (by decide), fun c => ⟨writes_field rfl (by decide), writes_field rfl (by decide)⟩, writes_field rfl (by decide),
      writes_field rfl (by decide),
      fun source => ⟨writes_inject rfl source, writes_inject rfl source, writes_inject rfl source, writes_inject rfl source⟩,
      fun reply r reaches free name single => exec_radioEnable reaches free name single⟩
  · have wide {i : Instr} {off k x : Nat} (row : exec i s = rowWords w off k x s) :
        (alive s = true → exec i s = .next (hostWords (hostAgent w) off ((List.range k).map (fun j => x / 2 ^ (32 * j) % 2 ^ 32)) s)) ∧
          (alive s = false → exec i s = .next s) :=
      ⟨fun runs => row.trans (rowWords_words w off k x s runs), fun dark => row.trans (rowWords_dark w off k x s dark)⟩
    exact ⟨fun v => ⟨wide rfl, wide rfl⟩, fun i v => wide rfl, fun k v => wide rfl,
      fun addr v => ⟨fun ho => wide (exec_connEntryWrite_high ho), fun lo conn => wide (exec_connEntryWrite_low lo conn), exec_connEntryWrite_none⟩⟩
  · exact ⟨stores_field rfl (by decide) (by decide), stores_field rfl (by decide) (by decide), stores_field rfl (by decide) (by decide),
      fun k => stores_field rfl (by decide) (by decide), stores_field rfl (by decide) (by decide),
      fun k => stores_field rfl (by decide) (by decide),
      fun c => ⟨stores_field rfl (by decide) (by decide), stores_field rfl (by decide) (by decide)⟩,
      stores_field rfl (by decide) (by decide), stores_field rfl (by decide) (by decide), stores_field rfl (by decide) (by decide),
      fun c => ⟨stores_field rfl (by decide) (by decide), stores_field rfl (by decide) (by decide)⟩,
      stores_field rfl (by decide) (by decide), stores_field rfl (by decide) (by decide),
      fun source => ⟨stores_inject rfl source, stores_inject rfl source, stores_inject rfl source, stores_inject rfl source⟩,
      completes_done rfl fun r name ⟨ok, quiet⟩ => by
        obtain ⟨u, y, recorded, transition, applied⟩ := regApply_mateCtl name ok quiet
        exact ⟨_, (regWriteVal_field name (by decide)).trans applied, u, y, recorded, transition, rfl⟩,
      fun reply => completes_radioEnable⟩
  · exact ⟨fun v => ⟨fun reaches name ok => rowWords_stores reaches name (by decide) (by decide) v.isLt ok,
        fun reaches name ok => rowWords_stores reaches name (by decide) (by decide) v.isLt ok⟩,
      fun i v reaches name _ ok => rowWords_nbr reaches name v.isLt ok, fun k v reaches name ok => rowWords_key reaches name v.isLt ok,
      fun addr v n x runs enabled keyLoad free => ⟨fun ho ok => connEntryWrite_high_staged runs enabled keyLoad free ho ok,
        fun num lo conn number ok => connEntryWrite_low_staged runs enabled keyLoad free lo conn number ok⟩⟩

end Sys2Proof.Machine
end

section
/-!
PROOFS. The host ports: reads and writes under byte enables (R105, R106, R112), PCI Express and its resets (R86, R110 to R114), the legacy bus (R115 to R117),
SPI (R119 to R121), the board-management window (R122) and the bindings (R124).
-/
namespace Sys2Proof.Machine

open Sys2Proof

theorem onlyIn_modHost (f : HostState → HostState) (s : State) : OnlyIn [.host] s (modHost f s) :=
  (keeps_modHost (W := [.host]) (by decide) f s (.refl _ s)).frame

/-! Reads and writes of the Seat window (R105, R106, R112). -/

section
variable {w : HostWho} {o : BitVec 24} {s : State} (runs : alive s = true)
include runs

theorem exec_snapshotRead :
    let r := hostRead (hostAgent w) (o.toNat / 4 * 4) s
    ∃ t, exec (.snapshotRead w o) s = .next t ∧ t.host.readData = [r.1] ∧ OnlyIn [.host] r.2 t :=
  ⟨_, congrArg Host.Outcome.next (if_pos runs), rfl, onlyIn_modHost _ _⟩

theorem exec_hostMemoryWrite (be : BitVec 4) (v : BitVec 32) :
    exec (.hostMemoryWrite w o be v) s = .next (hostWriteBe (hostAgent w) (o.toNat / 4 * 4) be.toNat v.toNat s) :=
  congrArg Host.Outcome.next (if_pos runs)

theorem exec_hostMemoryWrite_part {be : BitVec 4} (part : be ≠ 0xF) (v : BitVec 32) :
    let a := hostAgent w
    let off := o.toNat / 4 * 4
    (isMemOff off = true → exec (.hostMemoryWrite w o be v) s = .next (hostWrite a off be.toNat v.toNat s)) ∧
      (isMemOff off = false → exec (.hostMemoryWrite w o be v) s = .next (discardCount a (touch a none (dropKeyLoad off s)))) := by
  have enables : be.toNat ≠ 0xF := fun whole => part (BitVec.eq_of_toNat_eq whole)
  rw [exec_hostMemoryWrite runs]
  exact ⟨fun memory => congrArg Host.Outcome.next (if_pos (.inr memory)),
    fun other => congrArg Host.Outcome.next (if_neg (by simp [enables, other]))⟩

end

/-! Functions of PCI Express (R110 to R114). -/

theorem pcieFn_modFn (n k : Nat) (f : PcieFn → PcieFn) (s : State) : pcieFn (modFn n f s) k = if n = k then f (pcieFn s n) else pcieFn s k :=
  tget_tset ..

/-- A row that changes one function. -/
theorem becomes_modFn {i : Instr} {n : Nat} {f : PcieFn → PcieFn} {s : State} (row : exec i s = .next (modFn n f s)) :
    ∃ t, exec i s = .next t ∧ pcieFn t n = f (pcieFn s n) ∧ (∀ k, k ≠ n → pcieFn t k = pcieFn s k) ∧ OnlyIn [.host] s t :=
  ⟨_, row, by rw [pcieFn_modFn, if_pos rfl], fun k other => by rw [pcieFn_modFn, if_neg (Ne.symm other)], onlyIn_modHost _ _⟩

section
variable {r : PcieReq} {s : State}

theorem exec_pcieRequest_unsupported (silent : fnAnswers s r.fn.toNat = false) :
    exec (.pcieRequest r) s = .next { s with host := { s.host with readData := [] } } :=
  congrArg Host.Outcome.next (if_pos (by simp [silent]))

theorem exec_pcieRequest_of_kind {k : PcieKind} (kind : r.kind = k) : exec (.pcieRequest r) s = execPcieRequest { r with kind := k } s := by
  rw [← kind]
  rfl

section
variable (answers : fnAnswers s r.fn.toNat = true)
include answers

theorem exec_pcieRequest_read (kind : r.kind = .read) (mapped : (pcieFn s r.fn.toNat).mse = true) :
    ∃ t, exec (.pcieRequest r) s = .next t ∧
      t.host.readData = (hostReads ⟨r.fn.toNat, 0, 0⟩ (r.off.toNat / 4 * 4) r.count.toNat s).1 :=
  ⟨_, (exec_pcieRequest_of_kind kind).trans (congrArg Host.Outcome.next ((if_neg (not_not_intro answers)).trans (if_pos mapped))), rfl⟩

/-- A write that the function does not decode, one with the EP bit, and one of words (R112, R113). -/
theorem exec_pcieRequest_write (kind : r.kind = .write) : exec (.pcieRequest r) s = .next
    (if ¬ (pcieFn s r.fn.toNat).mse = true then s
    else if r.poisoned = true then aerSet r.fn.toNat 12 (discardCount ⟨r.fn.toNat, 0, 0⟩ s)
    else pcieWrites ⟨r.fn.toNat, 0, 0⟩ r r.data.length 0 r.data s) := by
  have same : ({ r with kind := .write } : PcieReq) = r := by rw [← kind]
  rw [exec_pcieRequest_of_kind kind]
  refine congrArg Host.Outcome.next ((if_neg (not_not_intro answers)).trans ?_)
  simp only [same]

theorem exec_pcieRequest_write_word {v : BitVec 32} (kind : r.kind = .write) (mapped : (pcieFn s r.fn.toNat).mse = true)
    (whole : r.poisoned = false) (word : r.data = [v]) : exec (.pcieRequest r) s =
      .next (hostWriteBe ⟨r.fn.toNat, 0, 0⟩ (r.off.toNat / 4 * 4 % 2 ^ 24) r.firstBe.toNat v.toNat s) := by
  rw [exec_pcieRequest_write answers kind, if_neg (not_not_intro mapped), if_neg (by simp [whole]), word]
  rfl

theorem exec_pcieRequest_configRead {x : PcieId} (kind : r.kind = .configRead x) :
    exec (.pcieRequest r) s = .next { s with host := { s.host with readData := [pcieIdWord x (r.fn.toNat ≠ 0)] } } :=
  (exec_pcieRequest_of_kind kind).trans (congrArg Host.Outcome.next (if_neg (not_not_intro answers)))

theorem exec_pcieRequest_aerRead (kind : r.kind = .aerRead) :
    exec (.pcieRequest r) s = .next { s with host := { s.host with readData := [(pcieFn s r.fn.toNat).aer] } } :=
  (exec_pcieRequest_of_kind kind).trans (congrArg Host.Outcome.next (if_neg (not_not_intro answers)))

theorem exec_pcieRequest_command {mse bme : Bool} (kind : r.kind = .command mse bme) :
    exec (.pcieRequest r) s = .next (modFn r.fn.toNat (fun f => { f with mse := mse, bme := bme }) s) :=
  (exec_pcieRequest_of_kind kind).trans (congrArg Host.Outcome.next (if_neg (not_not_intro answers)))

theorem exec_pcieRequest_aerWrite {clr : BitVec 32} (kind : r.kind = .aerWrite clr) :
    exec (.pcieRequest r) s = .next (modFn r.fn.toNat (fun f => { f with aer := clrMask f.aer clr.toNat }) s) :=
  (exec_pcieRequest_of_kind kind).trans (congrArg Host.Outcome.next (if_neg (not_not_intro answers)))

end
end

/-! The PCI Express link and its resets (R71, R86, R111, R113, R114). -/

/-- The link as it stands: up, its lanes and its rate. -/
def linkOf (s : State) : Bool × Nat × Nat := (s.host.linkUp, s.host.linkLanes, s.host.linkRate)

theorem linkOf_foldl {α : Type} {f : State → α → State} (keeps : ∀ t x, linkOf (f t x) = linkOf t) (l : List α) (s : State) :
    linkOf (l.foldl f s) = linkOf s := by
  induction l generalizing s with
  | nil => rfl
  | cons x l ih => rw [List.foldl_cons, ih, keeps]

theorem linkOf_msixRaise (seat v : Nat) (s : State) : linkOf (msixRaise seat v s) = linkOf s := by
  unfold msixRaise
  dsimp only
  split
  · rfl
  · split <;> rfl

/-- Messages held back go out and leave the link as it is. -/
theorem linkOf_msixFlush (seat : Nat) (s : State) : linkOf (msixFlush seat s) = linkOf s := by
  unfold msixFlush
  dsimp only
  split
  · rfl
  · refine linkOf_foldl (fun t v => ?_) _ s
    split
    · rfl
    · exact linkOf_msixRaise ..

section
variable {s : State}

theorem exec_pcieLinkUp (lanes rate : BitVec 2) (framed : 2 ≤ s.pwr.stage.code) (released : s.host.perst = false) (down : s.host.linkUp = false) :
    ∃ t, exec (.pcieLinkUp lanes rate) s = .next t ∧ t.host.linkUp = true ∧ t.host.linkLanes = lanes.toNat ∧ t.host.linkRate = rate.toNat := by
  refine ⟨_, congrArg Host.Outcome.next (if_pos ⟨framed, by simp [released], by simp [down]⟩), ?_⟩
  have link := linkOf_foldl (f := fun t n => msixFlush n t) (fun t n => linkOf_msixFlush n t) seats
    (modHost (fun h => { h with linkUp := true, linkLanes := lanes.toNat, linkRate := rate.toNat }) s)
  simp only [linkOf, Prod.mk.injEq] at link
  exact link

theorem exec_pcieLinkDown (up : s.host.linkUp = true) : exec .pcieLinkDown s = .next (faultRaise 34 (aerSet 0 5 (linkDown s))) :=
  congrArg Host.Outcome.next (if_pos up)

theorem exec_pcieLinkDown_idle (down : s.host.linkUp = false) : exec .pcieLinkDown s = .next s :=
  congrArg Host.Outcome.next (if_neg (by simp [down]))

theorem exec_perstN (powered : bit s.pwr.vioOk 7 = true) :
    exec (.perstN true) s = .next { s with host := { s.host with perst := false } } ∧
      exec (.perstN false) s = .next (linkDown { s with host := { s.host with perst := true, fns := [] } }) :=
  ⟨congrArg Host.Outcome.next ((if_neg (not_not_intro powered)).trans (if_pos rfl)),
    congrArg Host.Outcome.next ((if_neg (not_not_intro powered)).trans (if_neg Bool.false_ne_true))⟩

theorem exec_perstN_idle (unpowered : bit s.pwr.vioOk 7 = false) (high : Bool) : exec (.perstN high) s = .next s :=
  congrArg Host.Outcome.next (if_pos (by simp [unpowered]))

theorem exec_flr {fn : BitVec 4} (answers : fnAnswers s fn.toNat = true) :
    exec (.flr fn) s = .next (if fn.toNat = 0 then setVfs false (flrClear 0 s) else flrClear fn.toNat s) :=
  congrArg Host.Outcome.next (if_neg (not_not_intro answers))

theorem exec_flr_idle {fn : BitVec 4} (silent : fnAnswers s fn.toNat = false) : exec (.flr fn) s = .next s :=
  congrArg Host.Outcome.next (if_pos (by simp [silent]))

end

theorem exec_flrComplete (fn : BitVec 4) (s : State) : exec (.flrComplete fn) s = .next (modFn fn.toNat (fun f => { f with flr := false }) s) := rfl

/-! The legacy bus (R115 to R117). -/

section
variable {s : State} {addr : BitVec 23}

theorem setPair_none (noHalf : s.host.lbPair = .none) : setPair .none s = s := by
  show { s with host := { s.host with lbPair := .none } } = s
  rw [← noHalf]

theorem dropHalf_none (noHalf : s.host.lbPair = .none) (a : Agent) : dropHalf a s = s := by
  unfold dropHalf
  rw [noHalf]
  exact setPair_none noHalf

theorem exec_legacyBusAccess_idle (off : lbServes s = false) (x : LbAccess) : exec (.legacyBusAccess x) s = .next s :=
  congrArg Host.Outcome.next (if_pos (by simp [off]))

section
variable (serves : lbServes s = true)
include serves

theorem exec_legacyBusAccess_write (d : BitVec 16) : exec (.legacyBusAccess (.write addr d)) s =
    .next (lbEnd (rbit s (kP 0x130) 0) (lbWrite (lbAgent s) (2 * addr.toNat) d.toNat s)) :=
  congrArg Host.Outcome.next (if_neg (not_not_intro serves))

theorem exec_legacyBusAccess_read : exec (.legacyBusAccess (.read addr)) s =
    .next (lbEnd (rbit s (kP 0x130) 0) (lbRead (lbAgent s) (2 * addr.toNat) s)) :=
  congrArg Host.Outcome.next (if_neg (not_not_intro serves))

end

section
variable {a : Agent} {off d : Nat} (register : isMemOff off = false)
include register

theorem lbWrite_low (noHalf : s.host.lbPair = .none) (even : off % 4 = 0) : lbWrite a off d s = setPair (.write off d) s := by
  have word : off / 4 * 4 = off := by omega
  unfold lbWrite
  dsimp only
  rw [if_neg (by simp [register]), if_pos even, dropHalf_none noHalf, word]

theorem lbWrite_high_alone (noHalf : s.host.lbPair = .none) (odd : off % 4 ≠ 0) : lbWrite a off d s = pairMiss a (setPair .none s) := by
  unfold lbWrite
  dsimp only
  rw [if_neg (by simp [register]), if_neg odd, noHalf]

theorem lbWrite_high {low : Nat} (held : s.host.lbPair = .write (off / 4 * 4) low) (odd : off % 4 ≠ 0) :
    lbWrite a off d s = hostWrite a (off / 4 * 4) 0xF (low + 65536 * d) (setPair .none s) := by
  unfold lbWrite
  dsimp only
  rw [if_neg (by simp [register]), if_neg odd, held]
  exact if_pos rfl

theorem lbRead_low (noHalf : s.host.lbPair = .none) (even : off % 4 = 0) : lbRead a off s =
    returned [(hostRead a off s).1 % 65536] (setPair (.read off ((hostRead a off s).1 / 65536 % 65536)) (hostRead a off s).2) := by
  have word : off / 4 * 4 = off := by omega
  have high : (hostRead a off s).1 / 65536 % 65536 = halfOf true (hostRead a off s).1 := by
    show _ = ((hostRead a off s).1 >>> 16) % 65536
    rw [Nat.shiftRight_eq_div_pow]
  unfold lbRead
  dsimp only
  rw [if_neg (by simp [register]), if_pos even, dropHalf_none noHalf, word, high]
  rfl

end

end

/-! SPI (R119 to R121). -/

section
variable {s : State} {addr : BitVec 24}

theorem exec_spiWrite (serves : spiServes s = true) (aligned : addr.toNat % 4 = 0) (words : List (BitVec 32)) :
    exec (.spiWrite addr words .none) s = .next { spiWords (spiAgent s) addr.toNat words { s with host := { s.host with readData := [] } } with
      host := { (spiWords (spiAgent s) addr.toNat words { s with host := { s.host with readData := [] } }).host with spiErrPrev := false } } := by
  refine congrArg Host.Outcome.next ((if_neg (not_not_intro serves)).trans ((if_neg (by simp [aligned])).trans (if_neg (by simp))))

theorem exec_spiWrite_unknown (serves : spiServes s = true) (words : List (BitVec 32)) :
    exec (.spiWrite addr words .unknownCommand) s = .next (spiFrameError { s with host := { s.host with readData := [] } }) :=
  congrArg Host.Outcome.next ((if_neg (not_not_intro serves)).trans (if_pos (.inl rfl)))

/-- The port after a whole read frame: the words shifted out, and a STATUS byte without LATE. -/
def spiReadEnds (status n : Nat) (x : List Nat × State) : State :=
  modHost (fun h => { h with spiStatus := status, readData := x.1.take n, spiErrPrev := false }) x.2

/-- A read frame within the window reads one word more than it shifts out. -/
theorem exec_spiRead (serves : spiServes s = true) (aligned : addr.toNat % 4 = 0) {n : BitVec 8} (within : addr.toNat + 4 * (n.toNat + 1) ≤ 2 ^ 24) :
    exec (.spiRead addr n none .none) s =
      .next (spiReadEnds (spiStatusByte s false) n.toNat (hostReads (spiAgent s) addr.toNat (n.toNat + 1) s)) := by
  have shifted : min n.toNat ((2 ^ 24 - addr.toNat) / 4) = n.toNat := Nat.min_eq_left (by omega)
  have made : min (n.toNat + 1) ((2 ^ 24 - addr.toNat) / 4) = n.toNat + 1 := Nat.min_eq_left (by omega)
  change execSpiRead addr n none .none s = _
  unfold execSpiRead
  dsimp only
  rw [shifted, made, if_neg (not_not_intro serves), if_neg (by simp [aligned])]
  generalize hostReads (spiAgent s) addr.toNat (n.toNat + 1) s = x
  rfl

theorem spiRead_returns (serves : spiServes s = true) (aligned : addr.toNat % 4 = 0) {n : BitVec 8} (within : addr.toNat + 4 * (n.toNat + 1) ≤ 2 ^ 24) :
    let r := hostReads (spiAgent s) addr.toNat (n.toNat + 1) s
    ∃ t, exec (.spiRead addr n none .none) s = .next t ∧ t.host.readData = r.1.take n.toNat ∧ t.host.spiErrPrev = false ∧
      t.host.spiStatus = spiStatusByte s false ∧ OnlyIn [.host] r.2 t :=
  ⟨_, exec_spiRead serves aligned within, rfl, rfl, rfl, onlyIn_modHost _ _⟩

theorem exec_spi_idle (off : spiServes s = false) :
    (∀ addr words bad, exec (.spiWrite addr words bad) s = .next s) ∧ ∀ addr n late bad, exec (.spiRead addr n late bad) s = .next s :=
  ⟨fun _ _ _ => congrArg Host.Outcome.next (if_pos (by simp [off])), fun _ _ _ _ => congrArg Host.Outcome.next (if_pos (by simp [off]))⟩

end

/-! The bindings (R124) and the board-management window (R122). -/

section
variable {s : State}

theorem exec_hostBindApply {b : Nat} (pending : s.host.bindPending = some b) :
    ∃ t, exec .hostBindApply s = .next t ∧ t.host.bind = b ∧ t.host.bindPending = none ∧ OnlyIn [.host] s t := by
  refine ⟨modHost (fun h => { h with bind := b, bindPending := none, lbPair := if bits b 0 4 = bits h.bind 0 4 then h.lbPair else .none }) s, ?_,
    rfl, rfl, onlyIn_modHost _ _⟩
  change execHostBindApply s = _
  unfold execHostBindApply
  rw [pending]

theorem exec_hostBindApply_idle (nothing : s.host.bindPending = none) : exec .hostBindApply s = .next s := by
  change execHostBindApply s = _
  unfold execHostBindApply
  rw [nothing]

theorem exec_i2cWindowReady (good : s.pwr.pwrGood = true) : exec .i2cWindowReady s = .next { s with host := { s.host with i2cReady := true } } :=
  congrArg Host.Outcome.next (if_pos good)

theorem exec_i2cWindowReady_idle (bad : s.pwr.pwrGood = false) : exec .i2cWindowReady s = .next s :=
  congrArg Host.Outcome.next (if_neg (by simp [bad]))

theorem exec_i2cWrite (serves : i2cServes s = true) (p : Byte) (rest : List Byte) : exec (.i2cWrite (p :: rest)) s =
    .next { s with host := { s.host with i2cPtr := p.toNat, i2cDrop := satAdd 255 s.host.i2cDrop rest.length } } :=
  congrArg Host.Outcome.next (if_neg (not_not_intro serves))

theorem exec_i2cRead (serves : i2cServes s = true) (n : BitVec 9) : exec (.i2cRead n) s = .next { s with host := { s.host with
    i2cPtr := (s.host.i2cPtr + n.toNat) % 256
    readData := (List.range n.toNat).map (fun k => i2cByte s ((s.host.i2cPtr + k) % 256)) } } :=
  congrArg Host.Outcome.next (if_neg (not_not_intro serves))

theorem exec_i2c_idle (off : i2cServes s = false) : (∀ bytes, exec (.i2cWrite bytes) s = .next s) ∧
    ∀ n, exec (.i2cRead n) s = .next { s with host := { s.host with readData := [] } } :=
  ⟨fun _ => congrArg Host.Outcome.next (if_pos (by simp [off])), fun _ => congrArg Host.Outcome.next (if_pos (by simp [off]))⟩

end

end Sys2Proof.Machine
end

section
/-!
PROOFS. The host ports: the statement.
-/
namespace Sys2Proof.Machine

open Sys2Proof

section
variable {s : State} {addr : BitVec 23}

/-- The first half of an access of the legacy bus, and a high half that follows no low one (R117). -/
theorem legacyBus_first (serves : lbServes s = true) (noHalf : s.host.lbPair = .none) (register : isMemOff (2 * addr.toNat) = false) :
    let a := lbAgent s
    let off := 2 * addr.toNat
    let mode := rbit s (kP 0x130) 0
    (addr.toNat % 2 = 0 → ∀ d, exec (.legacyBusAccess (.write addr d)) s = .next { s with host := { s.host with lbPair := .write off d.toNat, lbAck := mode } }) ∧
    (addr.toNat % 2 = 1 → ∀ d, exec (.legacyBusAccess (.write addr d)) s = .next (lbEnd mode (pairMiss a { s with host := { s.host with lbPair := .none } }))) ∧
    (addr.toNat % 2 = 0 → ∃ t, exec (.legacyBusAccess (.read addr)) s = .next t ∧ t.host.readData = [(hostRead a off s).1 % 65536] ∧
      t.host.lbPair = .read off ((hostRead a off s).1 / 65536 % 65536) ∧ t.host.lbAck = mode) := by
  refine ⟨fun even d => ?_, fun odd d => ?_, fun even => ⟨_, exec_legacyBusAccess_read serves, ?_⟩⟩
  · rw [exec_legacyBusAccess_write serves, lbWrite_low register noHalf (by omega)]
    rfl
  · rw [exec_legacyBusAccess_write serves, lbWrite_high_alone register noHalf (by omega)]
    rfl
  · rw [lbRead_low register noHalf (by omega)]
    exact ⟨rfl, rfl, rfl⟩

theorem legacyBus_second (serves : lbServes s = true) {low : Nat} (d : BitVec 16) (register : isMemOff (2 * addr.toNat) = false)
    (odd : addr.toNat % 2 = 1) (held : s.host.lbPair = .write (2 * addr.toNat / 4 * 4) low) :
    exec (.legacyBusAccess (.write addr d)) s = .next (lbEnd (rbit s (kP 0x130) 0)
      (hostWrite (lbAgent s) (2 * addr.toNat / 4 * 4) 0xF (low + 65536 * d.toNat) { s with host := { s.host with lbPair := .none } })) := by
  rw [exec_legacyBusAccess_write serves, lbWrite_high register held (by omega)]
  rfl

end

/-- Settles O60: each port's row is its access; what a port does not serve changes nothing. -/
theorem hostPorts : Obligations.HostPorts := by
  refine ⟨fun w o s runs => ⟨exec_snapshotRead runs, exec_hostMemoryWrite runs 0xF, fun be v part => exec_hostMemoryWrite_part runs part v⟩,
    fun r s => ⟨exec_pcieRequest_unsupported, fun answers => ⟨fun x => exec_pcieRequest_configRead answers,
      fun mse bme kind => becomes_modFn (exec_pcieRequest_command answers kind), exec_pcieRequest_read answers, fun kind unmapped => ?_,
      fun kind mapped poisoned => ?_, exec_pcieRequest_aerRead answers, fun clr kind => becomes_modFn (exec_pcieRequest_aerWrite answers kind),
      fun v => exec_pcieRequest_write_word answers⟩⟩,
    fun s => ⟨exec_pcieLinkUp, exec_pcieLinkDown, exec_pcieLinkDown_idle, exec_perstN, exec_perstN_idle,
      fun fn => ⟨exec_flr, exec_flr_idle, becomes_modFn (exec_flrComplete fn s)⟩,
      fun serves noHalf addr => legacyBus_first serves noHalf,
      fun serves addr low d => legacyBus_second serves d, exec_legacyBusAccess_idle,
      fun serves addr aligned => ⟨exec_spiWrite serves aligned, exec_spiWrite_unknown serves, fun n => spiRead_returns serves aligned⟩,
      exec_spi_idle, fun b => exec_hostBindApply, exec_hostBindApply_idle, exec_i2cWindowReady, exec_i2cWindowReady_idle,
      fun serves => ⟨exec_i2cWrite serves, exec_i2cRead serves⟩, exec_i2c_idle⟩⟩
  · rw [exec_pcieRequest_write answers kind, if_pos (by simp [unmapped])]
  · rw [exec_pcieRequest_write answers kind, if_neg (not_not_intro mapped), if_pos poisoned]

end Sys2Proof.Machine
end
